-- ==== Sys2Proof/Word.lean ====
section
/-! DEFINITION. The word types and the sparse table type. -/

namespace Sys2Proof

/-- A byte. -/
abbrev Byte := BitVec 8

/-- A 32-bit register word. -/
abbrev Word := BitVec 32

/-- A run of bytes, lowest address first. -/
abbrev Bytes := List Byte

/-- A sparse table keyed by a number: only the keys whose value differs from the default are listed. -/
abbrev Tbl (α : Type) := List (Nat × α)

end Sys2Proof
end

