-- ==== Sys2Proof/Syntax.lean ====
section
/-! DEFINITION. The commands of the block, one constructor per row of spec/opcode_table.json, and the shapes of
the operands that come from outside the device.  The first operand `t` of every command is the local count at
which the step happens (DESIGN CHOICE, log entry 1). -/

namespace Sys2Proof

/-- What the firmware servo (R165, R178: its law is firmware) made of one measurement: an offset estimate in ns,
a value it writes to TIM_TARGET, a time it sets in Configure (R164).  `none`: it did not. -/
structure Servo where
  /-- offset estimate in ns -/
  est : Option Int
  /-- new TIM_TARGET value -/
  target : Option Int
  /-- time set under R164, as T in 1/32 ns units -/
  setTo : Option Nat
  deriving DecidableEq, Repr

/-- The same of a received frame, but for the estimate. -/
structure Steer where
  target : Option Int
  setTo : Option Nat
  deriving DecidableEq, Repr

/-- A counting window of R49: its count, and the AON count that a last-word record of its failure carries. -/
structure WindowIn where
  count : Nat
  aon : Nat
  deriving DecidableEq, Repr

/-- What the host writes in the configuration space: Memory Space Enable, Bus Master Enable, D3hot, MSI-X Enable and Function Mask. -/
structure ConfigIn where
  mse : Bool
  bme : Bool
  d3 : Bool
  msixEn : Bool
  msixMask : Bool
  deriving DecidableEq, Repr

/-- The codes of Max_Payload_Size and Max_Read_Request_Size that it writes (R129). -/
structure SizesIn where
  mps : Nat
  mrrs : Nat
  deriving DecidableEq, Repr

/-- How far the write of an owner key's hash has come (R95). -/
inductive KeyWrite where
  /-- it has begun and goes on -/
  | underWay
  /-- it has ended, and the readback is good or is not -/
  | readBack (good : Bool)
  deriving DecidableEq, Repr

/-- A sample of the input pin of a leg or switch. -/
structure PinIn where
  n : Nat
  high : Bool
  deriving DecidableEq, Repr

/-- What becomes of a copy-out: bytes written when it is cut (`none`: it runs to its end), whether a DMA error cut it, corrected memory
errors met, and the chunks with a double-bit error as they were read (R151, R409, R426). -/
structure CopyIn where
  sent : Option Nat
  failed : Bool
  ce : Nat
  ue : List (Nat × Bytes)
  deriving DecidableEq, Repr

/-- What the pins and the peer channel show the safety logic in one safety cycle (R445 to R460). -/
structure SafetyIn where
  /-- contact levels as channel A's comparators read them: a in bits 7..0, b in bits 15..8 -/
  levelA : Nat
  /-- contact levels as channel B's comparators read them -/
  levelB : Nat
  /-- SAF_OUT_H read high, bit j -/
  rbH : Nat
  /-- SAF_OUT_L read high, bit j -/
  rbL : Nat
  /-- output j above 0.7 A in this cycle -/
  overCur : Nat
  /-- channel B replied and its check passed -/
  reply : Bool
  /-- every value of R447 that does not derive from contact states agreed -/
  agree : Bool
  deriving DecidableEq, Repr

/-- One measurement of a temperature sensor (R493 to R495). -/
inductive TempIn where
  /-- an on-die sensor, in micro-degrees Celsius -/
  | onDie (microC : Int)
  /-- three forward voltages of a diode, in nV -/
  | diode (v1 v2 v3 : Int)
  /-- a resistance in milliohm -/
  | ntc (mohm : Nat)
  deriving DecidableEq, Repr

/-- The commands of the block: one constructor per row of the table, in the table's order. -/
inductive Instr where
  /-- POWER_ON_RESET (R40). -/
  | powerOnReset (t : Nat) (aonFell : Bool)
  /-- POWER_ON_RESET_RELEASE (R39). -/
  | powerOnResetRelease (t : Nat)
  /-- SAFETY_SUPPLY_FAULT (R41). -/
  | safetySupplyFault (t : Nat)
  /-- SAFETY_SUPPLY_RECOVERY (R454). -/
  | safetySupplyRecovery (t : Nat)
  /-- MEMORY_SUPPLY_LOSS (R41). -/
  | memorySupplyLoss (t : Nat)
  /-- FAST_CONVERTER_SUPPLY_LOSS (R41). -/
  | fastConverterSupplyLoss (t : Nat)
  /-- AON_TEMPERATURE (R52). -/
  | aonTemperature (t : Nat) (degC : Int)
  /-- PROVING_WINDOW (R49). -/
  | provingWindow (t : Nat) (src : Nat) (w : WindowIn)
  /-- SOURCE_MISSING (R50). -/
  | sourceMissing (t : Nat) (src : Nat)
  /-- NO_REFERENCE (R51). -/
  | noReference (t : Nat) (aon : Nat)
  /-- LOCK_ATTEMPT (R52). -/
  | lockAttempt (t : Nat) (found : Nat)
  /-- PLL_A_LOCK (R53). -/
  | pllALock (t : Nat)
  /-- ROOT_RELEASE (R54). -/
  | rootRelease (t : Nat)
  /-- LOSS_OF_LOCK (R53). -/
  | lossOfLock (t : Nat) (aon : Nat)
  /-- REFERENCE_SELECT (R57). -/
  | referenceSelect (t : Nat) (src : Nat)
  /-- GATE_CLOSE (R66). -/
  | gateClose (t : Nat) (block : Nat)
  /-- PLL_B_ENABLE (R73). -/
  | pllBEnable (t : Nat) (j : Nat) (v : Word)
  /-- PLL_B_DISABLE (R77). -/
  | pllBDisable (t : Nat) (j : Nat) (v : Word)
  /-- PLL_B_TARGET_WRITE (R75). -/
  | pllBTargetWrite (t : Nat) (j : Nat) (v : Word)
  /-- PLL_B_UNLOCK (R77). -/
  | pllBUnlock (t : Nat)
  /-- PLL_B_RELOCK (R77). -/
  | pllBRelock (t : Nat)
  /-- FLASH_HEADER_READ (R88). -/
  | flashHeaderRead (t : Nat) (hdrA : Bytes) (hdrB : Bytes)
  /-- PAYLOAD_READ (R89). -/
  | payloadRead (t : Nat) (payload : Bytes)
  /-- SEC_RECOVERY_START (R92). -/
  | secRecoveryStart (t : Nat) (v : Word)
  /-- RECOVERY_FETCH_DONE (R92). -/
  | recoveryFetchDone (t : Nat) (image : Option Bytes)
  /-- SYS_RESET (R105). -/
  | sysReset (t : Nat) (v : Word)
  /-- MANAGEMENT_WATCHDOG (R82). -/
  | managementWatchdog (t : Nat)
  /-- HOST_LINK_RESET (R83). -/
  | hostLinkReset (t : Nat)
  /-- BUS_MASTER_ENABLE (R130). -/
  | busMasterEnable (t : Nat) (c : ConfigIn) (z : SizesIn)
  /-- SYS_LOCK (R102). -/
  | sysLock (t : Nat) (v : Word)
  /-- READ_IDENTITY (R98). -/
  | readIdentity (t : Nat)
  /-- ATTEST (R99). -/
  | attest (t : Nat) (buf : Option Bytes)
  /-- COMMIT_VERSION (R98). -/
  | commitVersion (t : Nat) (burnt : Bool)
  /-- PROGRAM_OWNER_KEY (R98). -/
  | programOwnerKey (t : Nat) (buf : Option Bytes) (w : KeyWrite)
  /-- REVOKE_OWNER_KEY (R98). -/
  | revokeOwnerKey (t : Nat) (buf : Option Bytes) (burnt : Bool)
  /-- SET_OWNER_ENFORCE (R98). -/
  | setOwnerEnforce (t : Nat) (burnt : Bool)
  /-- SYS_MODE_REQ (R127). -/
  | sysModeReq (t : Nat) (v : Word)
  /-- SET_MODE (R144). -/
  | setMode (t : Nat)
  /-- CONFIG_LOAD (R125). -/
  | configLoad (t : Nat) (buf : Option Bytes)
  /-- NOP (R144). -/
  | nop (t : Nat)
  /-- POLL (R139). -/
  | poll (t : Nat)
  /-- DOORBELL_READ (R138). -/
  | doorbellRead (t : Nat) (slots : Option (List Word))
  /-- DESCRIPTOR_FETCH (R148). -/
  | descriptorFetch (t : Nat) (ring : Nat) (descs : Option (List Bytes))
  /-- RING_ENABLE (R135). -/
  | ringEnable (t : Nat) (ring : Nat) (v : Word)
  /-- RING_STOP (R151). -/
  | ringStop (t : Nat) (ring : Nat) (v : Word)
  /-- SETPOINT (R145). -/
  | setpoint (t : Nat)
  /-- REGISTER_WRITE (R6). -/
  | registerWrite (t : Nat) (off : Nat) (v : Word) (be : Nat)
  /-- LO_READ (R7). -/
  | loRead (t : Nat) (off : Nat)
  /-- TIM_NOW_READ (R163). -/
  | timNowRead (t : Nat) (off : Nat)
  /-- TIM_PPS_IN_READ (R170). -/
  | timPpsInRead (t : Nat)
  /-- ADC_RESULT_READ (R310). -/
  | adcResultRead (t : Nat) (n : Nat)
  /-- MIL_DATA_READ (R348). -/
  | milDataRead (t : Nat)
  /-- UPDATE_INSTANT (R160). -/
  | updateInstant (t : Nat)
  /-- TIM_CTRL_SET (R164). -/
  | timCtrlSet (t : Nat) (v : Word)
  /-- TIM_TARGET_WRITE (R165). -/
  | timTargetWrite (t : Nat) (v : Word)
  /-- PTP_SOURCE_LOST (R167). -/
  | ptpSourceLost (t : Nat)
  /-- PPS_SOURCE_LOST (R167). -/
  | ppsSourceLost (t : Nat)
  /-- HOLDOVER_EXPIRED (R166). -/
  | holdoverExpired (t : Nat)
  /-- PPS_OUT_RISE (R169). -/
  | ppsOutRise (t : Nat)
  /-- PPS_OUT_FALL (R169). -/
  | ppsOutFall (t : Nat)
  /-- PPS_IN_EDGE (R170). -/
  | ppsInEdge (t : Nat) (edge : Nat) (servo : Servo)
  /-- STATION_FRAME (R172). -/
  | stationFrame (t : Nat) (port : Nat) (sIn : Nat) (sOut : Nat) (frame : Bytes) (est : Option Int) (steer : Steer)
  /-- PDELAY_REQ_SEND (R177). -/
  | pdelayReqSend (t : Nat) (port : Nat) (t1 : Nat)
  /-- STATION_LINK_DOWN (R370). -/
  | stationLinkDown (t : Nat) (port : Nat)
  /-- TRANSMIT (R179). -/
  | transmit (t : Nat) (buf : Option Bytes) (sOut : Nat)
  /-- BELL_ADD (R183). -/
  | bellAdd (t : Nat) (buf : Option Bytes)
  /-- BELL_CANCEL (R183). -/
  | bellCancel (t : Nat)
  /-- BELL_FIRE (R185). -/
  | bellFire (t : Nat)
  /-- WRITE_INPUT (R182). -/
  | writeInput (t : Nat)
  /-- WRITE_PARAM (R347). -/
  | writeParam (t : Nat)
  /-- CHANGE_MODE (R182). -/
  | changeMode (t : Nat)
  /-- CAPTURE_ARM (R428). -/
  | captureArm (t : Nat)
  /-- CAPTURE_FORCE (R428). -/
  | captureForce (t : Nat)
  /-- PHASE_STEP (R75). -/
  | phaseStep (t : Nat)
  /-- CALIBRATE_LINK (R211). -/
  | calibrateLink (t : Nat)
  /-- CALIBRATE_DELAY_LINE (R257). -/
  | calibrateDelayLine (t : Nat)
  /-- CALIBRATE_ADC (R296). -/
  | calibrateAdc (t : Nat)
  /-- CALIBRATE_FAD (R306). -/
  | calibrateFad (t : Nat)
  /-- CELL_RETIRE (R381). -/
  | cellRetire (t : Nat)
  /-- CELL_RETURN (R381). -/
  | cellReturn (t : Nat)
  /-- EMIT_FRAME (R193). -/
  | emitFrame (t : Nat)
  /-- DOWNSTREAM_FRAME (R507). -/
  | downstreamFrame (t : Nat) (p : Nat)
  /-- UPSTREAM_FRAME (R203). -/
  | upstreamFrame (t : Nat) (p : Nat) (rx : Nat) (frame : Bytes) (clean : Bool)
  /-- UPSTREAM_SLOT_CLOSE (R209). -/
  | upstreamSlotClose (t : Nat) (p : Nat) (n : Nat)
  /-- CELL_LOS (R209). -/
  | cellLos (t : Nat) (p : Nat)
  /-- ADVANCE_STEP (R206). -/
  | advanceStep (t : Nat) (p : Nat) (n : Nat)
  /-- LNK_ENABLE (R209). -/
  | lnkEnable (t : Nat) (p : Nat) (v : Word)
  /-- LNK_DISABLE (R209). -/
  | lnkDisable (t : Nat) (p : Nat) (v : Word)
  /-- LNK_RETRAIN (R209). -/
  | lnkRetrain (t : Nat) (p : Nat) (v : Word)
  /-- LNK_GENERATION_WRITE (R519). -/
  | lnkGenerationWrite (t : Nat) (p : Nat) (v : Word)
  /-- MAILBOX (R214). -/
  | mailbox (t : Nat) (buf : Option Bytes)
  /-- PARAM_READ (R214). -/
  | paramRead (t : Nat) (buf : Option Bytes)
  /-- PARAM_WRITE (R214). -/
  | paramWrite (t : Nat) (buf : Option Bytes)
  /-- INPUT_CLOSE (R17). -/
  | inputClose (t : Nat) (g : Nat) (task : Nat)
  /-- TASK_STEP (R312). -/
  | taskStep (t : Nat) (task : Nat)
  /-- TASK_COMMIT (R326). -/
  | taskCommit (t : Nat) (task : Nat)
  /-- TELEMETRY_RECORD (R342). -/
  | telemetryRecord (t : Nat)
  /-- MILL_LOAD (R346). -/
  | millLoad (t : Nat) (buf : Option Bytes)
  /-- MILL_PARAM (R347). -/
  | millParam (t : Nat)
  /-- FREEZE_POINT (R244). -/
  | freezePoint (t : Nat) (g : Nat)
  /-- GROUP_BOUNDARY (R231). -/
  | groupBoundary (t : Nat) (g : Nat) (hits : List (List Nat))
  /-- GCE_FORCE_COMMIT (R247). -/
  | gceForceCommit (t : Nat) (v : Word)
  /-- DELAY_LINE_UPDATE (R254). -/
  | delayLineUpdate (t : Nat) (n : Nat) (hits : List Nat)
  /-- LOCAL_EDGE (R252). -/
  | localEdge (t : Nat) (n : Nat)
  /-- LEG_OUT_EN_WRITE (R259). -/
  | legOutEnWrite (t : Nat) (v : Word)
  /-- LEG_RDY_LOSS (R264). -/
  | legRdyLoss (t : Nat) (p : PinIn)
  /-- BLANKING_END (R265). -/
  | blankingEnd (t : Nat) (n : Nat)
  /-- DESATURATION (R266). -/
  | desaturation (t : Nat) (p : PinIn)
  /-- SOFT_OFF_HOLD_END (R268). -/
  | softOffHoldEnd (t : Nat) (n : Nat)
  /-- LEG_BOOT_EMPTY_CLEAR (R278). -/
  | legBootEmptyClear (t : Nat) (w : Nat) (v : Word)
  /-- BOUNDARY_SPAN (R287). -/
  | boundarySpan (t : Nat) (c : Nat) (g : Nat)
  /-- PRECISION_RESULT (R301). -/
  | precisionResult (t : Nat) (c : Nat) (raw : Int)
  /-- PRECISION_LINK_ERROR (R303). -/
  | precisionLinkError (t : Nat) (c : Nat)
  /-- SEQUENCER_STEP (R290). -/
  | sequencerStep (t : Nat)
  /-- ADC_SEQ_START (R290). -/
  | adcSeqStart (t : Nat) (v : Word)
  /-- ADC_SEQ_STOP (R291). -/
  | adcSeqStop (t : Nat) (v : Word)
  /-- ADC_INJ_START (R293). -/
  | adcInjStart (t : Nat) (v : Word)
  /-- INJECTED_SPAN (R293). -/
  | injectedSpan (t : Nat)
  /-- ADC_CAL_START (R296). -/
  | adcCalStart (t : Nat) (v : Word)
  /-- CALIBRATION_START (R297). -/
  | calibrationStart (t : Nat) (c : Nat) (raw : Int)
  /-- CALIBRATION_END (R298). -/
  | calibrationEnd (t : Nat) (c : Nat)
  /-- ADC_CAL_GAIN_WRITE (R300). -/
  | adcCalGainWrite (t : Nat) (c : Nat) (b : Nat) (v : Word)
  /-- FAST_SAMPLE (R305). -/
  | fastSample (t : Nat) (n : Nat) (at_ : Nat) (raw : Int)
  /-- FAST_LINK_ERROR (R307). -/
  | fastLinkError (t : Nat) (n : Nat) (at_ : Nat)
  /-- FAD_CAL_START (R306). -/
  | fadCalStart (t : Nat) (v : Word)
  /-- FAST_CALIBRATION_END (R306). -/
  | fastCalibrationEnd (t : Nat) (n : Nat)
  /-- FAD_CAL_GAIN_WRITE (R311). -/
  | fadCalGainWrite (t : Nat) (c : Nat) (b : Nat) (v : Word)
  /-- HEALTH_LEAK (R369). -/
  | healthLeak (t : Nat) (kind : Nat)
  /-- BYPASS_DEADLINE (R373). -/
  | bypassDeadline (t : Nat) (p : Nat)
  /-- RETURN_TIMEOUT (R376). -/
  | returnTimeout (t : Nat) (p : Nat)
  /-- RETIRE (R381). -/
  | retire (t : Nat)
  /-- RETURN (R381). -/
  | returnCh (t : Nat)
  /-- LNK_HLTH_CLEAR (R382). -/
  | lnkHlthClear (t : Nat) (h : Nat) (v : Word)
  /-- PAIR_FRAME (R385). -/
  | pairFrame (t : Nat) (rx : Nat) (frame : Bytes) (clean : Bool)
  /-- PEER_LOST (R387). -/
  | peerLost (t : Nat)
  /-- HASH_TIMEOUT (R401). -/
  | hashTimeout (t : Nat) (g : Nat) (b : Nat)
  /-- VERIFY_DONE (R402). -/
  | verifyDone (t : Nat) (reproduced : Bool)
  /-- VERIFY_TIMEOUT (R402). -/
  | verifyTimeout (t : Nat)
  /-- PAIR_HANDOVER (R406). -/
  | pairHandover (t : Nat)
  /-- OFFER_LAPSE (R403). -/
  | offerLapse (t : Nat)
  /-- HANDOVER_SWITCH (R403). -/
  | handoverSwitch (t : Nat)
  /-- FAILED_ENTRY (R402). -/
  | failedEntry (t : Nat)
  /-- FOLLOW_TIMEOUT (R404). -/
  | followTimeout (t : Nat)
  /-- ARM (R417). -/
  | arm (t : Nat)
  /-- FORCE (R425). -/
  | force (t : Nat)
  /-- ABORT (R425). -/
  | abort (t : Nat)
  /-- COPY_OUT (R426). -/
  | copyOut (t : Nat) (c : CopyIn)
  /-- RELEASE (R425). -/
  | release (t : Nat)
  /-- RECORD_END (R420). -/
  | recordEnd (t : Nat) (u : Nat)
  /-- SEQUENCE_TIMER (R433). -/
  | sequenceTimer (t : Nat) (j : Nat)
  /-- CAP_SEQ_ENABLE (R433). -/
  | capSeqEnable (t : Nat) (j : Nat) (v : Word)
  /-- PMU_ENABLE (R436). -/
  | pmuEnable (t : Nat) (v : Word)
  /-- PMU_STOP (R436). -/
  | pmuStop (t : Nat) (v : Word)
  /-- PHASOR_REPORT (R438). -/
  | phasorReport (t : Nat)
  /-- SAFETY_CYCLE (R445). -/
  | safetyCycle (t : Nat) (inp : SafetyIn)
  /-- CHANNEL_A_SILENCE (R446). -/
  | channelASilence (t : Nat)
  /-- CONSUMER_WATCHDOG (R462). -/
  | consumerWatchdog (t : Nat) (c : Nat)
  /-- OUTPUT_TEST (R459). -/
  | outputTest (t : Nat) (j : Nat) (low : Bool) (h : Bool) (l : Bool)
  /-- SAF_OUT_CLEAR (R460). -/
  | safOutClear (t : Nat) (v : Word)
  /-- SAF_CONFIRM (R470). -/
  | safConfirm (t : Nat) (v : Word)
  /-- SAFETY_PDU (R468). -/
  | safetyPdu (t : Nat) (buf : Option Bytes)
  /-- WCH_LATCH_CLEAR (R480). -/
  | wchLatchClear (t : Nat) (w : Nat) (v : Word)
  /-- WCH_FORCE (R482). -/
  | wchForce (t : Nat) (w : Nat) (v : Word)
  /-- WCH_IRQ_CLEAR (R478). -/
  | wchIrqClear (t : Nat) (v : Word)
  /-- WCH_IRQ_ENABLE (R478). -/
  | wchIrqEnable (t : Nat) (v : Word)
  /-- WCH_ERRN_LEVEL (R479). -/
  | wchErrnLevel (t : Nat) (v : Word)
  /-- ERRN_PULSE_END (R479). -/
  | errnPulseEnd (t : Nat)
  /-- BOOK_WRITE (R488). -/
  | bookWrite (t : Nat) (first : Bool) (second : Bool)
  /-- BOOK_SCAN (R487). -/
  | bookScan (t : Nat) (bad : List Nat) (linkRun : Nat)
  /-- RATE_REFILL (R484). -/
  | rateRefill (t : Nat)
  /-- BOOK_READ (R492). -/
  | bookRead (t : Nat)
  /-- BOOK_CLEAR (R492). -/
  | bookClear (t : Nat) (pass : Bool)
  /-- TEMPERATURE_RESULT (R493). -/
  | temperatureResult (t : Nat) (i : Nat) (m : TempIn)
  /-- THERMAL_SHUTDOWN (R499). -/
  | thermalShutdown (t : Nat) (aon : Nat)
  /-- THERMAL_RESTART (R499). -/
  | thermalRestart (t : Nat)
  /-- VTUNE_MARGIN (R54). -/
  | vtuneMargin (t : Nat) (high : Bool)
  /-- STATION_LINK_UP (R370). -/
  | stationLinkUp (t : Nat) (port : Nat)
  /-- PAIR_LANE_ALIGNMENT_LOSS (R370). -/
  | pairLaneAlignmentLoss (t : Nat) (lane : Nat)
  /-- LEG_RDY_RETURN (R264). -/
  | legRdyReturn (t : Nat) (p : PinIn)
  /-- MEMORY_SUPPLY_RECOVERY (R480). -/
  | memorySupplyRecovery (t : Nat)
  /-- FAST_CONVERTER_SUPPLY_RECOVERY (R480). -/
  | fastConverterSupplyRecovery (t : Nat)
  /-- CALIBRATION_SPAN (R297). -/
  | calibrationSpan (t : Nat) (c : Nat) (raw : Int)
  /-- PAIR_FRAME_FORM (R385). -/
  | pairFrameForm (t : Nat)
  deriving DecidableEq, Repr

end Sys2Proof
end

