-- ==== Sys2Proof/Decode.lean ====
section
/-! DEFINITION. The table gives none of its rows bits: a command is not a word. -/

namespace Sys2Proof

/-- The command that a word spells: none, since spec/opcode_table.json gives no row a word. -/
def decodeTableWord (_nbits _w : Nat) : Option Instr := none

end Sys2Proof
end

