-- ==== Sys2Proof/Config.lean ====
section
/-! DEFINITION. What the spec leaves open, as constants without a body (no proof can see a value of them), and the
stated path counts of chapter 19 as plain numbers, in local-count ticks (1 core cycle = 2 ticks, 1 link word = 8). -/

namespace Sys2Proof.Config

/-- A fresh free value per call of the model's counter (DESIGN CHOICE, log entry 5). -/
opaque freeValue : Nat → BitVec 32

/-- A field of n bytes: bytes beyond it are cut, missing ones are 0. -/
def fixLen (n : Nat) (b : Bytes) : Bytes := (b ++ List.replicate n 0).take n

/-- ML-DSA-65 public key derived from the identity seed (R94; FIPS 204 is outside the spec, DESIGN CHOICE, log entry 6). -/
opaque mldsaKey : Bytes → Bytes
/-- Its 1,952 bytes (R94). -/
def mldsaPk (seed : Bytes) : Bytes := fixLen 1952 (mldsaKey seed)

/-- ML-DSA-65 signature: seed, context, message (R100, DESIGN CHOICE, log entry 6). -/
opaque mldsaSig : Bytes → Bytes → Bytes → Bytes
/-- Its 3,309 bytes (R86, R100). -/
def mldsaSign (seed ctx msg : Bytes) : Bytes := fixLen 3309 (mldsaSig seed ctx msg)

/-- ML-DSA-65 verification: public key, context, message, signature (R87, DESIGN CHOICE, log entry 6). -/
opaque mldsaVerify : Bytes → Bytes → Bytes → Bytes → Bool

/-- Hash of the boot ROM, fixed per ROM revision (R96 kind 1, DESIGN CHOICE, log entry 7). -/
opaque romContent : Bytes
/-- Its 64 bytes (R86, R96). -/
def romHash : Bytes := fixLen 64 romContent

/-- Ocrelin's phasor coefficients: f0 is 60 Hz, sample period in ticks, rate, class M; tap count and taps (R442, DESIGN CHOICE, log
entry 8). -/
opaque pmuCoef : Bool → Nat → Nat → Bool → List Int

/-- Layout of a pair message body the spec does not lay out (kinds 0x02, 0x09, 0x0A, 0x0B): kind and numbers to bytes
and back (R386, DESIGN CHOICE, log entry 9). -/
opaque pairEncode : Nat → List Nat → Bytes
opaque pairDecode : Nat → Bytes → List Nat

/-- What Ocrelin programmed into this device's OTP at final test (R93, DESIGN CHOICE, log entry 4). -/
opaque otp : Nat → Nat → BitVec 8
/-- A field of the OTP: its bytes from an offset (R93). -/
def otpField (off n : Nat) : Bytes := (List.range n).map (otp off)
/-- The fields that Ocrelin programs (R93): 32, 8, 64 per slot and 3,309 bytes, and two bits each of the control word. -/
def otpSeed : Bytes := otpField 0 32
opaque otpSerialFuses : BitVec 64
def otpSerial : Nat := otpSerialFuses.toNat
opaque otpVendorBits : BitVec 4
def otpVendorValid : Nat := otpVendorBits.toNat % 4
def otpVendorRevoked : Nat := otpVendorBits.toNat / 4
def otpVendorHash (i : Nat) : Bytes := otpField (0x40 + 64 * i) 64
def otpCert : Bytes := otpField 0x200 3309

/-- PLL-A's tuning word in a comparison cycle (R56: the spec gives the word no values, DESIGN CHOICE, log entry 107). -/
opaque tuneWord : Nat → Nat

/-- Where in its period the triangle of output j's spread starts, and how long the present modulated period still lasts, per
output and instant (R76 gives neither, DESIGN CHOICE, log entry 108). -/
opaque sscStart : Nat → Nat
opaque sscEdge : Nat → Nat → Nat

/-- Capacity in MiB of the memory fitted on the board, 0 when none answers training (R408, DESIGN CHOICE, log entry 11). -/
opaque memoryMiB : Nat

/-- Half bytes that the capture memory takes between two instants beyond the least bandwidth of R410 (DESIGN CHOICE, log entry 26). -/
opaque capSpare : Nat → Nat → Nat

/-! Stated counts (R506 to R516). -/

/-- Watch latch after a raise: 2 core cycles. -/
def watchLatch : Nat := 4
/-- Safe stop request after a raise: 2 + 2 core cycles. -/
def watchToStop : Nat := 8
/-- trip state held in channel B: 2 core cycles to the latch, then 9 link words. -/
def watchToSafetyB : Nat := 76
/-- ERR_N low: 2 + 4 core cycles. -/
def watchToErrN : Nat := 12
/-- Bell fire to a unit: 4 core cycles. -/
def bellFire : Nat := 8
/-- Bell fire to station queue: 8 link words. -/
def bellFireStation : Nat := 64
/-- precision sample to input bank: 225 core cycles. -/
def precisionToBank : Nat := 450
/-- precision link error to report: 215 core cycles. -/
def precisionLinkError : Nat := 430
/-- fast sample to corrected code: 272 ticks. -/
def fastSample : Nat := 272
/-- fast link error to report: 264 ticks. -/
def fastLinkError : Nat := 264
/-- safe stop to local soft-off: 6 core cycles. -/
def safeStopToSoftOff : Nat := 12
/-- safe stop to frame packed: 12 core cycles. -/
def safeStopToFrame : Nat := 24
/-- fast limit to soft-off: 286 ticks from the sample. -/
def fastToSoftOff : Nat := 286
/-- local desaturation to soft-off: 6 ticks from the detection sample. -/
def desatToSoftOff : Nat := 6
/-- local ready loss to outputs off: 8 ticks. -/
def readyToOff : Nat := 8
/-- injection request to span start: 8 core cycles. -/
def injection : Nat := 16
/-- upstream telemetry to input bank: 40 core cycles. -/
def telemetryToBank : Nat := 80
/-- PPS_IN to stamp: 2 ticks. -/
def ppsToStamp : Nat := 2
/-- safety cycle to permissive frame: 6,250 link words. -/
def safetyToFrame : Nat := 50000
/-- input close to task start: 2 core cycles. -/
def closeToStart : Nat := 4
/-- a frame is formed 8 link words before its comma leaves (R507). -/
def frameForming : Nat := 64

end Sys2Proof.Config
end

