-- ==== Sys2Proof/Machine/State.lean ====
section
/-! DEFINITION. The state of the block: every register (one register file keyed by BAR0 offset, `State.regs`, whose
reset values are `Reg.resetAt` of Machine/Regs.lean) and every piece of unit state the spec gives the device, as plain data.
Times are local counts in time ticks unless a comment says 1/32 ns. -/

namespace Sys2Proof.Machine

/-! ### Clocks, power and reset -/

/-- Where the device stands in the reset sequence of R84. -/
inductive Phase where
  | powerOnReset | proving | noReference | locking | locked | lockFailed | thermalShutdown
  | booting | bootFailed | running
  deriving DecidableEq, Repr

/-- The four parts of the family (R4). -/
inductive Variant where
  | f48 | c48 | s48 | f24
  deriving DecidableEq, Repr

/-- What the AON island knows of one measured source (R49, R50). -/
structure Proving where
  passes : Nat
  last : Nat
  proven : Bool
  missing : Bool
  deriving DecidableEq, Repr

/-- One PLL-B output (R73, R74); `edge` is its next rising edge in 1/32 ns (of a stopped output the end of its last period,
R77).  `steps` are the Bell's phase steps of core cycle `stepCyc` (R75), `tri` is the place of the spread's triangle in its
period of 32,000 ticks at local count 0 (R76). -/
structure PllOut where
  running : Bool
  edge : Nat
  phase : Int
  steps : List Int
  stepCyc : Nat
  tri : Nat
  deriving DecidableEq, Repr

/-- Clocks, supplies and the AON island. -/
structure Clk where
  phase : Phase
  /-- the local count (R158) -/
  now : Nat
  /-- the part: a strap of the package -/
  variant : Variant
  xtal : Proving
  refIn : Proving
  root : Proving
  /-- REF_IN was last identified as 10 MHz (R49) -/
  tenMHz : Bool
  /-- consecutive windows the root has passed (R54) -/
  rootRun : Nat
  /-- lock attempts since the root last ran (R72), and whether they were used up -/
  attempts : Nat
  lockDead : Bool
  pllALock : Bool
  hold : Bool
  vtune : Bool
  /-- a loss of lock stopped the domains; their reset waits for the root (R71) -/
  clockLoss : Bool
  /-- the source PLL-A locked to or last ran on: 0 XTAL, 1 REF_IN -/
  source : Option Nat
  /-- the source the selector passes on; none while it is deselected (R57) -/
  sel : Option Nat
  /-- in hold: the frozen tuning word (R56) -/
  tune : Option Nat
  band : Nat
  bandSrc : Bool
  /-- the AON temperature in degrees (R52) -/
  aonTemp : Int
  /-- bit b: gate of block b of CLK_GATE_FORCE is shut (R66) -/
  gateShut : Nat
  /-- the tick of the last request or piece of work of each gated block (R66, R67) -/
  idleFrom : Tbl Nat
  pllBLock : Bool
  outs : Tbl PllOut
  /-- VDD_MEM11 and VDD_MEMQ, VDDA_FAD, VSAF_24 present (R41, R454, R480) -/
  supplyMem : Bool
  supplyFad : Bool
  supplySaf : Bool
  /-- THM_SHDN_N held low (R499) -/
  shdn : Bool
  /-- the AON island drives ERR_N low (R51, R70, R72) -/
  aonErrN : Bool
  deriving DecidableEq, Repr

/-! ### Boot and security -/

/-- What the boot ROM found in one slot header (R88). -/
structure SlotInfo where
  check : Nat
  version : Nat
  length : Nat
  hash : Bytes
  hdrHash : Bytes
  deriving DecidableEq, Repr

/-- OTP, measured boot and the running image (R93 to R101). -/
structure Sec where
  otpSeed : Bytes
  otpSerial : Nat
  rollback : Nat
  vendorValid : Nat
  vendorRevoked : Nat
  ownerValid : Nat
  ownerRevoked : Nat
  /-- owner slots that were written and cannot be written again (R95) -/
  ownerUsed : Nat
  ownerEnforce : Bool
  vendorHash : Tbl Bytes
  ownerHash : Tbl Bytes
  cert : Bytes
  chain : Bytes
  /-- first 16 measured events: kind and value -/
  events : List (Nat × Bytes)
  truncated : Bool
  slots : Tbl SlotInfo
  /-- the slot whose payload is being read -/
  reading : Option Nat
  /-- a recovery fetch is in progress -/
  recovering : Bool
  /-- SEC_RECOVERY_LEN as the fetch in progress took it (R92) -/
  recoverLen : Nat
  /-- the owner slot whose hash is being written and whose valid fuse is not set yet (R95) -/
  writing : Option Nat
  runVersion : Nat
  runSlotB : Bool
  runRecovery : Bool
  deriving DecidableEq, Repr

/-! ### Modes -/

/-- A pending mode request (R110); `act` is the descriptor index of a ring 0 request. -/
structure ModeReq where
  target : Nat
  source : Nat
  act : Option Nat
  deriving DecidableEq, Repr

/-- One hand-over ramp (R121). -/
structure Ramp where
  e0 : Int
  step : Int
  n : Nat
  start : Nat
  task : Nat
  /-- the hand-over it belongs to, and whether it runs: some output of that hand-over is beyond the limit -/
  ho : Nat
  live : Bool
  deriving DecidableEq, Repr

/-- The mode controller. -/
structure Mode where
  mode : Nat
  previous : Nat
  pending : Option ModeReq
  /-- the core cycle in which the pending request became pending -/
  pendAt : Nat
  /-- mode each carrier group computes under (R112) -/
  groupMode : Tbl Nat
  /-- extended leads in force for the timeline (R22, R23) -/
  extended : Bool
  ramps : Tbl Ramp
  /-- hand-over to run at the task's next commit: the slot's task has not compared yet (R340) -/
  handover : Tbl Bool
  /-- key 0: the largest |d| compared so far in the present hand-over (R120) -/
  hoDelta : Tbl Int
  /-- number of the present hand-over, and whether one of its outputs is beyond the limit (R120, R121) -/
  hoNo : Nat
  hoOver : Bool
  lastStop : Option Nat
  /-- requests other than Safe stop that reached the controller in core cycle `boxAt` and are not judged yet (R110, R114) -/
  inbox : List ModeReq
  boxAt : Nat
  /-- the core cycle in which the pending request is taken under R113 -/
  takeAt : Option Nat
  /-- the ring 0 or forwarded request whose Safe stop was taken in core cycle `lastStop`: it ends with that cycle (R114) -/
  stopAct : Option Nat
  deriving DecidableEq, Repr

/-! ### Rings -/

/-- A descriptor (R142, R143). -/
structure Desc where
  op : Nat
  flags : Nat
  tag : Nat
  arg : Nat
  buf : Nat
  len : Nat
  arg2 : Nat
  raw : Bytes
  deriving DecidableEq, Repr

/-- How a descriptor ended: status, value, length (R146). -/
structure Compl where
  status : Nat
  value : Nat
  length : Nat
  deriving DecidableEq, Repr

/-- Where a started descriptor stands. -/
inductive ActSt where
  | waiting
  | executing
  | done (c : Compl)
  deriving DecidableEq, Repr

/-- A started descriptor: its free-running index, itself and where it stands. -/
structure Act where
  idx : Nat
  desc : Desc
  st : ActSt
  deriving DecidableEq, Repr

/-- One of the 16 rings (R134 to R152). -/
structure Ring where
  state : Nat
  error : Nat
  dropped : Nat
  host : Nat
  dev : Nat
  /-- next descriptor index to fetch -/
  fetched : Nat
  /-- fetched descriptors that have not started -/
  queue : List (Nat × Desc)
  acts : List Act
  /-- record sequence, write pointer, unconsumed records (device index, start offset) oldest first -/
  seq : Nat
  wp : Nat
  recs : List (Nat × Nat)
  /-- entries of this completion ring reserved by submit rings -/
  reserved : Nat
  /-- completions waiting for a free entry (R427) -/
  waiting : List Bytes
  /-- device index at the last shadow write, and whether a consumed descriptor asked for an interrupt (R156) -/
  shown : Nat
  wantIrq : Bool
  /-- entries written since enable, saturating at 4,096 (R138) -/
  wrote : Nat
  /-- bytes that a descriptor in execution has written to its buffer, by index (R151) -/
  moved : Tbl Nat
  /-- a ring in Error has made its final shadow write (R151) -/
  held : Bool
  deriving DecidableEq, Repr

/-- A memory request of the device (R129): write or read, address, bytes, and the attributes Relaxed Ordering, ID-Based
Ordering and No Snoop. -/
structure MemReq where
  write : Bool
  addr : Nat
  len : Nat
  ro : Bool
  ido : Bool
  ns : Bool
  deriving DecidableEq, Repr

/-- A buffer write of a descriptor that waits for memory requests to resume (R130): ring, index, address, bytes, completion. -/
structure BufW where
  ring : Nat
  idx : Nat
  addr : Nat
  bytes : Bytes
  c : Compl
  deriving DecidableEq, Repr

/-- The PCIe function and the ring engine. -/
structure HostIf where
  rings : Tbl Ring
  /-- what the host programs in the configuration space: Memory Space Enable, Bus Master Enable, D3hot, MSI-X Enable and Function
  Mask, Max_Payload_Size and Max_Read_Request_Size in bytes (R91, R128 to R130) -/
  mse : Bool
  bme : Bool
  d3 : Bool
  msixEn : Bool
  msixMask : Bool
  mps : Nat
  mrrs : Nat
  /-- memory requests are held until the next poll instant with BME set and D0 (R130) -/
  stalled : Bool
  /-- a doorbell read is outstanding -/
  polling : Bool
  shadow : Bytes
  /-- MSI-X messages sent: vectors, newest first -/
  msix : List Nat
  pba : Nat
  /-- descriptor reads issued and not completed, oldest first: ring and descriptors (R129, R155) -/
  reads : List (Nat × Nat)
  /-- finished descriptors whose completion is not written, in the order in which they finished: ring and index (R154) -/
  finished : List (Nat × Nat)
  /-- by priority level: one more than the ring whose turn was last (R155) -/
  turns : Tbl Nat
  /-- buffer writes that wait for memory requests to resume (R130) -/
  bufs : List BufW
  deriving DecidableEq, Repr

/-! ### Time, station ports, Bell -/

/-- One held two-step correction (R176). -/
structure HeldSync where
  seqId : Nat
  portId : Bytes
  corr : Int
  deriving DecidableEq, Repr

/-- A frame waiting for its egress: high queue or low queue, bytes. -/
structure TxFrame where
  high : Bool
  bytes : Bytes
  deriving DecidableEq, Repr

/-- The Announce a port keeps (R178): its rank as one number, smaller is better, its sender, arrival and interval in ticks. -/
structure Ann where
  key : Nat
  sender : Bytes
  at_ : Nat
  every : Nat
  deriving DecidableEq, Repr

/-- A station port (R171 to R177). -/
structure StaPort where
  link : Bool
  pdelayOk : Bool
  /-- consecutive completed exchanges -/
  exchanges : Nat
  fuMiss : Nat
  drops : Nat
  linkDelay : Int
  held : List HeldSync
  /-- own Pdelay_Req outstanding: sequence and t1 -/
  req : Option (Nat × Nat)
  reqSeq : Nat
  /-- egress queue and the tick at which the line is free -/
  txq : List TxFrame
  lineFree : Nat
  /-- frames that left the port, newest first -/
  sent : List Bytes
  restarting : Bool
  ann : Option Ann
  deriving DecidableEq, Repr

/-- Time (R159 to R170). -/
structure Tim where
  offset : Nat
  rate : Int
  target : Int
  quality : Nat
  timeSet : Bool
  /-- PTP, and PPS_IN, have been present since the last set and have not been lost since (R166) -/
  ptpOk : Bool
  ppsOk : Bool
  /-- the rate keeps its value after a loss (R167) -/
  rateHeld : Bool
  inBand : Nat
  holdSince : Option Nat
  ppsPin : Bool
  ppsFall : Nat
  /-- last second at which PPS_OUT rose -/
  ppsSec : Nat
  ppsStamp : Nat
  /-- the last Sync accepted and the announced Sync interval, in ticks (R167) -/
  lastSync : Nat
  syncEvery : Nat
  lastPps : Nat
  /-- the IEEE_C37_238 TLV last read (R178) -/
  tlv : Bytes
  /-- the last update instant taken (R160) -/
  updAt : Option Nat
  ports : Tbl StaPort
  deriving DecidableEq, Repr

/-- A Bell entry in the table (R181 to R188); `ntime` is the resolved network time in ns. -/
structure BellE where
  lc : Nat
  order : Nat
  net : Bool
  ntime : Nat
  lateOk : Bool
  rep : Bool
  unit : Nat
  action : Nat
  index : Nat
  arg : Nat
  period : Nat
  cookie : Nat
  deriving DecidableEq, Repr

/-- A fired action on its way to its unit: the entry, the firing tick, the tick of arrival. -/
structure Fired where
  e : BellE
  fireAt : Nat
  arrive : Nat
  deriving DecidableEq, Repr

/-- The Bell. -/
structure Bell where
  entries : List BellE
  nextOrder : Nat
  fired : List Fired
  frameSeq : Nat
  lastFire : Option Nat
  /-- entries of received frames that were bad or whose unit is absent (R192; no register shows them: DESIGN CHOICE, log entry 126) -/
  refused : Nat
  deriving DecidableEq, Repr

/-! ### Cell links and health -/

/-- The last good upstream frame's fields (R200). -/
structure UpF where
  echo : Nat
  state : Nat
  driver : Nat
  badRx : Nat
  missed : Nat
  evLost : Nat
  edgeDrop : Nat
  fresh : Nat
  genEcho : Nat
  tele : List Int
  deriving DecidableEq, Repr

/-- A slot request (R212, R213); `act` is the ring 12 descriptor it serves. -/
structure SlotReq where
  seq : Nat
  kind : Nat
  addr : Nat
  data : Bytes
  fw : Bool
  act : Option Nat
  sends : Nat
  /-- frame number at which it is sent next -/
  next : Nat
  deriving DecidableEq, Repr

/-- An edge event placed in a frame: absolute target frame, in-frame time, level, position, refresh, soft. -/
structure CellEdge where
  target : Nat
  time : Nat
  level : Bool
  pos : Nat
  refresh : Bool
  soft : Bool
  deriving DecidableEq, Repr

/-- A cell port (R195 to R229, R371 to R376). -/
structure Port where
  /-- state of R209 -/
  st : Nat
  /-- advance in force, 1/32 ns -/
  adv : Int
  mean : Int
  dDown : Int
  dUp : Int
  sum : Int
  cnt : Nat
  /-- consecutive good frames in Acquire -/
  good : Nat
  passes : Nat
  missRun : Nat
  /-- frame numbers echoed by good frames, newest first, at most 64, and the last slot judged (R209) -/
  echoes : List Nat
  slotDone : Option Nat
  /-- frames sent: number and the instant its comma left, 1/32 ns; newest first, at most 32 -/
  sent : List (Nat × Int)
  lastFrame : Option Nat
  lastBytes : Bytes
  /-- the last frame's code groups as they go out, and the lane's running disparity behind them: positive (R195) -/
  line : List Nat
  rd : Bool
  up : UpF
  badUp : Nat
  req : Option SlotReq
  fwQ : List SlotReq
  hostQ : List SlotReq
  nextSeq : Nat
  /-- endpoint words in force, each as its value + 1 (R272) -/
  inForce : Tbl Nat
  /-- generation last committed with a done reply -/
  committed : Option Nat
  /-- a commit is awaited since `comFrom`; spans between an entry to Ready or a generation write and the reply, newest first (R519) -/
  committing : Bool
  comFrom : Nat
  comWins : List (Nat × Nat)
  /-- a push-and-commit is in progress (R370) -/
  pushing : Bool
  /-- safe_mask last pushed to the endpoint (R239) -/
  safe : Nat
  /-- edge events per carrying frame -/
  edges : Tbl (List CellEdge)
  /-- temperature band from telemetry, and consecutive frames without the channel's fresh bit -/
  tband : Option Nat
  tmiss : Nat
  /-- retirement (R371): first boundary of the bypass, whether the frames before it still carry release (the port was
  Active), the instant of Returning, good frames since bit 3 -/
  byFrom : Nat
  preRel : Bool
  retFrom : Nat
  retRun : Nat
  /-- first frame number sent with release while Returning -/
  relFrom : Option Nat
  /-- the next frame formed is the first to carry bypass again (R376) -/
  byNext : Bool
  /-- one more than the frame number of the last step of the advance (R206) -/
  stepAt : Nat
  /-- the port has shown that it is followed since the seizure began (R404) -/
  seized : Bool
  deriving DecidableEq, Repr

/-- A health channel (R368, R371). -/
structure Health where
  count : Nat
  state : Nat
  cause : Nat
  perm : Bool
  held : Bool
  /-- a change of state waiting for the boundary of the channel's group: the new state -/
  pendState : Option Nat
  /-- one more than the tick of the last leak, and than the core cycle of the last retirement decided (R369, R378) -/
  leakAt : Nat
  retireAt : Nat
  deriving DecidableEq, Repr

/-! ### Gate Command Engine and local legs -/

/-- A carrier group (R231, R232) and its latched copies (R244). -/
structure Grp where
  running : Bool
  started : Bool
  /-- first boundary -/
  b0 : Nat
  /-- boundary of the period now open -/
  bk : Nat
  /-- stop at the first boundary after this one -/
  stopAfter : Option Nat
  plan : Tbl Int
  direct : Tbl Int
  dyn : Tbl Word
  force : Tbl Word
  /-- arrival of the force codes taken last -/
  forceAt : Nat
  /-- boundary of the last plan latched since the start; 0 before the first -/
  frozen : Nat
  /-- one more than the boundary whose input close the group has passed last -/
  closed : Nat
  deriving DecidableEq, Repr

/-- What the GCE carries per position across boundaries (R239, R243): the level left, the last on-edge and off-edge, in
edge LSBs from the next boundary (≤ 0), and a stretched off-edge carried into the next window. -/
structure PosSt where
  on : Bool
  onAt : Int
  offAt : Int
  carry : Option Nat
  deriving DecidableEq, Repr

/-- What it carries per pair: the reference level and its last transition (R239), the bootstrap model (R274). -/
structure PairSt where
  ref : Bool
  refAt : Int
  even : PosSt
  odd : PosSt
  q : Nat
  noLow : Nat
  required : Bool
  deriving DecidableEq, Repr

/-- A scheduled local edge; `at32` is its pin instant in 1/32 ns. -/
structure LEdge where
  at32 : Nat
  level : Bool
  refresh : Bool
  deriving DecidableEq, Repr

/-- A delay line (R254 to R256). -/
structure DelayLine where
  acc : List Nat
  /-- the table that governs, and the one that governs from the next update instant; empty before the first valid one -/
  tab : List Nat
  next : List Nat
  fails : Nat
  /-- one more than the tick of the last update -/
  last : Nat
  deriving DecidableEq, Repr

/-- The Gate Command Engine. -/
structure Gce where
  groups : Tbl Grp
  pairs : Tbl PairSt
  sched : Tbl (List LEdge)
  lines : Tbl DelayLine
  /-- committed force codes, each with the core cycle at which its commit reached the GCE (R247) -/
  staged : List (Nat × Tbl Word)
  deriving DecidableEq, Repr

/-- A local switch (R261 to R268); instants in 1/32 ns. -/
structure Sw where
  on : Bool
  offAt : Nat
  /-- end of the soft-off hold in ticks -/
  hold : Option Nat
  latch : Bool
  ilock : Bool
  /-- first tick out of blanking, and whether blanking has not been seen to end -/
  blank : Nat
  blanked : Bool
  onAt : Nat
  /-- tick of the last desaturation, whose soft-off consumes an off-edge of that tick (R267) -/
  desatAt : Option Nat
  deriving DecidableEq, Repr

/-- A local leg (R259, R264). -/
structure Lg where
  ready : Bool
  seen : Bool
  lastLow : Nat
  out : Bool
  retired : Bool
  /-- the freeze point counted on the leg's edges being emitted; the pair as it stands if that turns out otherwise at the boundary
  (R259, R279) -/
  planOut : Bool
  other : Option PairSt
  deriving DecidableEq, Repr

/-- Local switches and legs. -/
structure Leg where
  sw : Tbl Sw
  lg : Tbl Lg
  deriving DecidableEq, Repr

/-! ### Converters -/

/-- A conversion in flight on a SAR core (R283); kind 1 sequenced, 2 boundary, 3 injected, 4 calibration. -/
structure Span where
  kind : Nat
  input : Nat
  start : Nat
  /-- sequencer entry and repetition, the number of the pass through the entry, the entry's word -/
  entry : Nat
  rep : Nat
  run : Nat
  word : Word
  /-- raw code of a calibration conversion -/
  raw : Int
  deriving DecidableEq, Repr

/-- Averaging of one core in one pass through an entry (R295). -/
structure Avg where
  run : Nat
  sum : Int
  lost : Bool
  ovr : Bool
  deriving DecidableEq, Repr

/-- Calibration of one core (R297, R306): target band, completed conversions, sums, first tick, last sample instant. -/
structure Cal where
  requested : Bool
  active : Bool
  band : Nat
  reqBand : Nat
  count : Nat
  z : Int
  r : Int
  since : Nat
  last : Nat
  deriving DecidableEq, Repr

/-- Coefficients that were in force for sample instants up to a tick. -/
structure CoefWas where
  till : Nat
  o4 : Int
  gain : Nat
  deriving DecidableEq, Repr

/-- A result register's content (R301): kind, over range, code, sample instant. -/
structure ConvRes where
  kind : Nat
  ovr : Bool
  code : Int
  inst : Nat
  deriving DecidableEq, Repr

/-- Precision side; coefficients are held in their registers, the last ones in `hist`. -/
structure Adc where
  spans : Tbl (List Span)
  seqOn : Bool
  /-- the step that is due next: entry, repetition, pass through an entry, tick; an aborted one is taken again (R291) -/
  entry : Nat
  rep : Nat
  run : Nat
  due : Nat
  retake : Bool
  /-- the last step started and not aborted: its tick, entry and repetition -/
  stepAt : Option Nat
  stepEntry : Nat
  stepRep : Nat
  avg : Tbl Avg
  /-- pending injection: ADC_INJ_SEL as it stood, and the tick from which it may start -/
  inj : Option Nat
  injAt : Nat
  cal : Tbl Cal
  /-- staged offsets, by 4c + b -/
  stO4 : Tbl (Option Nat)
  hist : Tbl (List CoefWas)
  res : Tbl ConvRes
  deriving DecidableEq, Repr

/-- Fast side. -/
structure Fad where
  cal : Tbl Cal
  stO4 : Tbl (Option Nat)
  hist : Tbl (List CoefWas)
  res : Tbl ConvRes
  /-- consecutive samples outside the limits (R308) -/
  prot : Tbl Nat
  deriving DecidableEq, Repr

/-! ### The Mill -/

/-- A value in the input bank: code, sample or write instant, arrival, boundary of a boundary result. -/
structure InVal where
  val : Int
  inst : Nat
  at_ : Nat
  bnd : Option Nat
  fresh : Bool
  deriving DecidableEq, Repr

/-- A sealed input of one task (R320 to R323). -/
structure Tag where
  val : Int
  age : Nat
  z : Nat
  frozen : Bool
  stale : Bool
  wasUsable : Bool
  hasPrev : Bool
  prev : Int
  inst : Nat
  fresh : Bool
  deriving DecidableEq, Repr

/-- State of a block (R330, R358): two accumulators, one further word, and the open state of R324, R325. -/
structure BSt where
  s1 : Int
  s2 : Int
  s3 : Int
  open_ : Bool
  reclose : Nat
  lastClosed : Int
  prevOut : Int
  deriving DecidableEq, Repr

/-- A task (R312 to R327); st 0 idle, 1 ready or between steps, 2 in its final part. `bk` is B(k) in the aligned count. -/
structure MTask where
  st : Nat
  /-- next step -/
  step : Nat
  bk : Nat
  closeAt : Nat
  /-- previous input close, or the core cycle of the start -/
  prevClose : Nat
  /-- working copy: nodes, transfer writes, block states, tap values in list order -/
  nodes : Tbl Int
  trans : Tbl Int
  blocks : Tbl BSt
  taps : Tbl (List Int)
  /-- tick at which the first step of the period started -/
  startAt : Nat
  /-- mode the period computes under -/
  mode : Nat
  satRose : Bool
  anyOpen : Bool
  /-- the close before this period's, from which inputs count as fresh (R320) -/
  since : Nat
  /-- the period's bank is sealed -/
  sealed : Bool
  /-- sealed at the close: the period is one of a hand-over (R119, R340), and MIL_CTRL.reclose (R325) -/
  ho : Bool
  reclose : Nat
  deriving DecidableEq, Repr

/-- A parameter write waiting for its input close (R347). -/
structure ParamW where
  w : Nat
  val : Nat
  at_ : Nat
  act : Option Nat
  deriving DecidableEq, Repr

/-- Telemetry of one good upstream frame: boundary of the echoed frame, arrival at the bank, fresh bits, channels. -/
structure TeleF where
  bnd : Nat
  at_ : Nat
  fresh : Nat
  vals : List Int
  deriving DecidableEq, Repr

/-- A loaded program: eight words per block, hand-over entries. -/
structure Prog where
  blocks : List (List Word)
  ho : List Nat
  deriving DecidableEq, Repr

/-- The Mill. -/
structure Mill where
  prog : Option Prog
  nodes : Tbl Int
  blocks : Tbl BSt
  bank : Tbl (List InVal)
  bndBank : Tbl (List InVal)
  /-- telemetry of the newest frames, by port -/
  tele : Tbl (List TeleF)
  tags : Tbl Tag
  masks : Tbl Nat
  tasks : Tbl MTask
  params : List ParamW
  /-- ring 2 descriptors waiting: index, nodes, arrival -/
  setps : List (Nat × List Nat × Nat)
  /-- groups short of min_active at the last seal -/
  short : Nat
  /-- the task whose step holds the lanes, and the tick from which they are free -/
  cur : Option Nat
  laneFree : Nat
  /-- core cycle of the last start of the groups (R328) -/
  startAt : Nat
  /-- one more than the core cycle of the last commit, and the committed nodes before that cycle (R24) -/
  commitAt : Nat
  nodesWas : Tbl Int
  /-- one more than the core cycle in which the Bell last wrote a setpoint input (R189) -/
  bellIn : Tbl Nat
  deriving DecidableEq, Repr

/-! ### Pair -/

/-- A plan record's hash (R400, R401): group, boundary, hash. -/
structure PlanHash where
  g : Nat
  b : Nat
  hash : Bytes
  at_ : Nat
  deriving DecidableEq, Repr

/-- A mismatch under verification (R402); results: none not yet known. -/
structure Verif where
  g : Nat
  b : Nat
  at_ : Nat
  own : Option Bool
  peer : Option Bool
  deriving DecidableEq, Repr

/-- A handover in progress (R403). -/
structure Offer where
  ns : Nat
  reason : Nat
  accepted : Bool
  outgoing : Bool
  act : Option Nat
  /-- count after which an unanswered offer lapses -/
  lapse : Nat
  deriving DecidableEq, Repr

/-- What a group's latch for the window at boundary b keeps for recomputation (R402): mode, latched copies, pairs, plan record. -/
structure Kept where
  g : Nat
  b : Nat
  mode : Nat
  grp : Grp
  pairs : Tbl PairSt
  record : Bytes
  deriving DecidableEq, Repr

/-- What a task's period at boundary bk keeps for recomputation (R402): sealed bank and preceding committed copy, the hand-over state,
MIL_TASK_PERIODS. -/
structure KeptTask where
  t : Nat
  bk : Nat
  mill : Mill
  mode : Mode
  periods : Word
  deriving DecidableEq, Repr

/-- The PAIR unit. -/
structure Pair where
  st : Nat
  active : Bool
  o : Int
  lane0 : Bool
  lane1 : Bool
  peerSeen : Bool
  sum : Int
  cnt : Nat
  lastOff : Option Int
  /-- O was set by a join (R390) -/
  joined : Bool
  /-- arrival stamp of the peer's last good frame and its number, and the stamps by number that own frames may report (R388) -/
  rxStamp : Nat
  rxFrame : Nat
  stamps : List (Nat × Nat)
  /-- one more than the number of the last frame formed, and its bytes (R385) -/
  formed : Nat
  tx : Bytes
  digest : Option Bytes
  joinCode : Nat
  outbox : List (Nat × Bytes)
  own : List PlanHash
  peerH : List PlanHash
  kept : List Kept
  keptT : List KeptTask
  verif : Option Verif
  offer : Option Offer
  /-- first frame of the seizure after a lost peer (R404) -/
  seize : Option Nat
  follows : Nat
  failAt : Option Nat
  lossAt : Nat
  lastMatch : Bool
  snapWant : Bool
  /-- segments of a snapshot and of a bank so far, each with one more than 65,536 × record number + the last index, or 0 (R386) -/
  segs : Bytes
  segNext : Nat
  bankSegs : Bytes
  bankNext : Nat
  banks : Tbl Bytes
  /-- BANK records that arrived in Join, oldest first (R395) -/
  backlog : List Bytes
  /-- the peer's state in its last good frame (R393) -/
  peerSt : Nat
  /-- input close of the record by which the mode last followed the active unit (R397) -/
  modeAt : Nat
  recNo : Nat
  /-- requests forwarded to the active unit and not answered (R399): number, kind, 0 or 1 + 65,536 × ring + index -/
  fwdNo : Nat
  forwarded : List (Nat × Nat × Nat)
  /-- plan-path writes that have not reached the GCE for certain: core cycle of arrival, BAR0 offset, word before (R398, R508) -/
  delayed : List (Nat × Nat × Word)
  resync0 : Bool
  resync1 : Bool
  deriving DecidableEq, Repr

/-! ### Capture, phasors -/

/-- A chunk (R412); `time` is its chunk time as an absolute local count. -/
structure Chunk where
  code : Nat
  red : Nat
  count : Nat
  isize : Nat
  time : Int
  /-- instant of its last item -/
  last : Int
  items : Bytes
  deriving DecidableEq, Repr

/-- A reduction under way (R414, R415). -/
structure Red where
  start : Int
  n : Nat
  sum : Int
  mn : Int
  mx : Int
  sq : Nat
  armed : Bool
  live : Bool
  bad : Bool
  deriving DecidableEq, Repr

/-- A capture unit (R416 to R424). -/
structure CapUnit where
  st : Nat
  trig : Int
  src : Nat
  armAt : Nat
  /-- core cycle of the trigger taken, and its rank: 0 ring force, 1 Bell force, 2 source (R418) -/
  trigCyc : Nat
  rank : Nat
  /-- the record's first chunk is settled (R419) -/
  fixed : Bool
  chunks : List Chunk
  /-- open chunks by 8 × slot + reduction -/
  opens : Tbl Chunk
  /-- groups (key 2 × slot) and RMS cycles (2 × slot + 1) under way -/
  reds : Tbl Red
  ovrun : Bool
  trunc : Bool
  short : Bool
  /-- half bytes in the write queue -/
  queue : Nat
  /-- the header, made when the record ends -/
  header : Bytes
  lostMeas : Bool
  deriving DecidableEq, Repr

/-- An analog trigger's comparators (R430). -/
structure Atrg where
  valid : Bool
  hi : Bool
  lo : Bool
  /-- samples since the last rise(H), since the last rise(L), in the present run of H -/
  sinceH : Nat
  sinceL : Nat
  run : Nat
  hadHi : Bool
  seenH : Bool
  seenL : Bool
  firedRun : Bool
  deriving DecidableEq, Repr

/-- A match waiting for the watermarks of its engine: instant, port, channel or position, match unit (R433). -/
structure SeqM where
  inst : Int
  port : Nat
  sub : Nat
  unit : Nat
  deriving DecidableEq, Repr

/-- A sequence engine (R433). -/
structure SeqE where
  state : Nat
  entered : Int
  count : Nat
  waits : List SeqM
  deriving DecidableEq, Repr

/-- A travelling-wave detector (R434): quiet run, armed, recent samples newest first. -/
structure Tw where
  quiet : Nat
  armed : Bool
  hist : List Int
  prevD : Int
  stamp : Int
  found : Bool
  neg : Bool
  deriving DecidableEq, Repr

/-- The capture engine, trigger engine and memory. -/
structure Cap where
  units : Tbl CapUnit
  atrg : Tbl Atrg
  seqs : Tbl SeqE
  tws : Tbl Tw
  /-- watermark of each stream, and the frame at which it last moved -/
  marks : Tbl Int
  markAt : Tbl Nat
  /-- tick to which the write queues have drained -/
  qAt : Nat
  /-- memory found by training, MiB; SECDED in force -/
  memMiB : Nat
  eccOn : Bool
  deriving DecidableEq, Repr

/-- One boundary result of an estimator channel: sample instant in ticks, channel, i, q, over range (R437). -/
structure PmuS where
  inst : Nat
  ch : Nat
  i : Int
  q : Int
  ovr : Bool
  deriving DecidableEq, Repr

/-- The phasor estimator (R436 to R442). -/
structure Pmu where
  running : Bool
  cfgErr : Nat
  samples : List PmuS
  /-- a first sample has come since the start -/
  live : Bool
  /-- next report: second and index -/
  sec : Nat
  m : Nat
  psi : Int
  fd : Int
  reports : Nat
  deriving DecidableEq, Repr

/-! ### Safety -/

/-- Filter of one contact in one channel (R450): state and run of the opposite level. -/
structure Flt where
  on : Bool
  run : Nat
  deriving DecidableEq, Repr

/-- One pair in one channel (R451, R452). -/
structure PairIn where
  d : Nat
  fault : Bool
  on : Bool
  onRun : Nat
  deriving DecidableEq, Repr

/-- A PDU consumer (R462). -/
structure Cons where
  last : Option Nat
  r : Nat
  newAt : Nat
  data : Bytes
  deriving DecidableEq, Repr

/-- A PDU producer (R463). -/
structure Prod where
  seq : Nat
  sent : Nat
  wait : Nat
  deriving DecidableEq, Repr

/-- The two safety channels.  A value that the two must agree on is held once; filters and pairs are held per channel. -/
structure Saf where
  /-- safety cycles since reset; local count of the last one -/
  cycles : Nat
  cycleAt : Nat
  fltA : Tbl Flt
  fltB : Tbl Flt
  pairA : Tbl PairIn
  pairB : Tbl PairIn
  /-- consecutive cycles in which contact-derived values differed, and without a reply of channel B -/
  differ : Nat
  noReply : Nat
  fault : Bool
  /-- consumers: station c, and 8 + p for the cell status of port p -/
  cons : Tbl Cons
  /-- producers: station c, and 8 + p for the permissive of port p -/
  prods : Tbl Prod
  srcVec : Nat
  grant : Bool
  grants : Nat
  outOn : Nat
  outFault : Nat
  /-- switches of an output closed, and cycles since they opened, at most 2 -/
  closed : Nat
  openRun : Tbl Nat
  /-- restart satisfied: outputs, grant, ports -/
  rsOut : Nat
  rsPerm : Bool
  rsPort : Nat
  /-- cycles since the last acknowledgement, saturating -/
  ackAge : Nat
  /-- readbacks of the last cycle and of the one before -/
  rbH : Nat
  rbL : Nat
  rbH1 : Nat
  rbL1 : Nat
  overRun : Tbl Nat
  /-- one more than the start of the last high-side pulse (2j) and low-side pulse (2j + 1) -/
  testing : Tbl Nat
  pchk : Nat
  valid : Bool
  confirmed : Bool
  /-- containers of the last cycle and of the one before, per port, and the tick from which the newer one is sent -/
  box : Tbl Bytes
  boxPrev : Tbl Bytes
  boxAt : Nat
  /-- PDUs waiting for a cycle boundary: consumer, ring 10 descriptor, bytes -/
  pdus : List (Nat × Option Nat × Bytes)
  /-- trip state as channel B holds it: value now, before, and the count from which it holds -/
  trip : Bool
  tripPrev : Bool
  tripFrom : Nat
  deriving DecidableEq, Repr

/-! ### Watch, book, thermal -/

/-- A record on its way to the book and ring 7 (R483): source, severity, flags, index, mode, local count, T (none
while quality is 0), detail words 0 and 1, raises represented. -/
structure RaiseRec where
  src : Nat
  sev : Nat
  flags : Nat
  index : Nat
  mode : Nat
  time : Nat
  net : Option Nat
  w0 : Nat
  w1 : Nat
  n : Nat
  deriving DecidableEq, Repr

/-- The raises of one source in the newest core cycle that had any: how many, and whether its unit bit was set before them (R480). -/
structure RaisedNow where
  src : Nat
  n : Nat
  was : Bool
  deriving DecidableEq, Repr

/-- The Watch beyond its registers. -/
structure Wch where
  /-- local count of the most recent latching raise of each source -/
  raisedAt : Tbl Nat
  /-- ERR_N pulse (R479): the tick at which the pin goes low and the tick at which it ends -/
  pulseFrom : Nat
  pulseEnd : Option Nat
  /-- records of the raises of this step, not yet in the order of R477 -/
  batch : List RaiseRec
  /-- the core cycle (as `coreCycle` gives it) of the newest raise, and the sources raised in it -/
  freshAt : Nat
  fresh : List RaisedNow
  /-- the core cycle of the newest raise at severity 2 or above, and the one in which irq last rose (R478) -/
  irqRaise : Option Nat
  irqRise : Option Nat
  /-- core cycles in which Safe stop requests of the Watch reach the controller, ascending (R116) -/
  stops : List Nat
  deriving DecidableEq, Repr

/-- A rate bucket (R484). -/
structure Bucket where
  tokens : Nat
  supp : Nat
  sev : Nat
  src : Nat
  index : Nat
  full : Nat
  used : Bool
  deriving DecidableEq, Repr

/-- A last-word record (R490). -/
structure LastWord where
  bytes : Bytes
  imported : Bool
  deriving DecidableEq, Repr

/-- The Parish book. -/
structure Book where
  /-- MRAM slots that hold a record -/
  slots : Tbl Bytes
  bad : List Nat
  queue : List Bytes
  nextSeq : Nat
  ready : Bool
  failed : Bool
  badCount : Nat
  dropped : Nat
  /-- the last record met a bad slot -/
  lastBad : Bool
  /-- the record being written has met a bad slot -/
  curBad : Bool
  /-- one more than the tick of the last refill -/
  refillAt : Nat
  buckets : List Bucket
  overflow : Bucket
  lw : List LastWord
  /-- the oldest last-word slot once all 16 are held -/
  lwNext : Nat
  deriving DecidableEq, Repr

/-- A temperature sensor (R493 to R498). -/
structure Sensor where
  valid : Bool
  temp : Int
  band : Nat
  banded : Bool
  level : Bool
  rate : Bool
  hist : List Int
  /-- a result has come -/
  seen : Bool
  deriving DecidableEq, Repr

/-- Temperature sensors 0 to 10. -/
structure Thm where
  sensors : Tbl Sensor
  deriving DecidableEq, Repr

/-! ### The whole -/

/-- The state of the block. -/
structure State where
  clk : Clk
  sec : Sec
  mode : Mode
  host : HostIf
  tim : Tim
  bell : Bell
  ports : Tbl Port
  health : Tbl Health
  gce : Gce
  leg : Leg
  adc : Adc
  fad : Fad
  mill : Mill
  pair : Pair
  cap : Cap
  pmu : Pmu
  saf : Saf
  wch : Wch
  book : Book
  thm : Thm
  /-- the BAR0 register file: offset to word, reset values not listed -/
  regs : Tbl Word
  /-- upper words latched by a _LO read (R7) and by the other latching reads, by BAR0 offset -/
  hiLatch : Tbl Word
  /-- MODEL: what the last read command returned -/
  rdata : Word
  /-- MODEL: what the device has written into host memory; bytes it has not written are not listed -/
  hostMem : List Host.Cell
  /-- MODEL: the memory requests that the device has issued, newest first (R129) -/
  reqs : List MemReq
  /-- MODEL: how many free values have been taken -/
  freeCtr : Nat
  /-- commands waiting, first in first out -/
  pending : List Instr
  deriving DecidableEq, Repr

/-- No fault is ever raised: the spec describes every stop of this block as state (R41, R448 and the phases of
R84), so the one constructor exists only because the type must have one.  Safe: nothing raises it. -/
inductive Fault where
  /-- raised by nobody (safe) -/
  | never
  deriving DecidableEq, Repr

/-- Reasons to refuse a command. -/
inductive Refusal where
  /-- raised only by an arm of Dispatch.lean whose command has no meaning yet (safe: the run stops) -/
  | notModelled (mnemonic : String)
  deriving DecidableEq, Repr

/-! ### Values at reset -/

/-- A ring just after reset: Disabled, indices 0 (R83, R151). -/
def Ring.reset : Ring := ⟨0, 0, 0, 0, 0, 0, [], [], 0, 0, [], 0, [], 0, false, 0, [], false⟩
def Proving.reset : Proving := ⟨0, 0, false, false⟩
def PllOut.reset : PllOut := ⟨false, 0, 0, [], 0, 0⟩
def StaPort.reset : StaPort := ⟨false, false, 0, 0, 0, 0, [], none, 0, [], 0, [], false, none⟩
def UpF.reset : UpF := ⟨0, 0, 0, 0, 0, 0, 0, 0, 0, []⟩
def Port.reset : Port :=
  { st := 0, adv := 0, mean := 0, dDown := 0, dUp := 0, sum := 0, cnt := 0, good := 0, passes := 0, missRun := 0,
    echoes := [], slotDone := none, sent := [], lastFrame := none, lastBytes := [], line := [], rd := false, up := UpF.reset, badUp := 0, req := none, fwQ := [], hostQ := [],
    nextSeq := 1, inForce := [], committed := none, committing := false, comFrom := 0,
    comWins := [], pushing := false, safe := 0, edges := [], tband := none, tmiss := 0,
    byFrom := 0, preRel := false, retFrom := 0, retRun := 0, relFrom := none, byNext := false, stepAt := 0, seized := false }
def Health.reset : Health := ⟨0, 0, 0, false, false, none, 0, 0⟩
def Grp.reset : Grp := ⟨false, false, 0, 0, none, [], [], [], [], 0, 0, 0⟩
def PosSt.reset : PosSt := ⟨false, 0, 0, none⟩
def PairSt.reset : PairSt := ⟨false, 0, PosSt.reset, PosSt.reset, 0, 0, false⟩
def DelayLine.reset : DelayLine := ⟨List.replicate 48 0, [], [], 0, 0⟩
def Sw.reset : Sw := ⟨false, 0, none, false, false, 0, false, 0, none⟩
def Lg.reset : Lg := ⟨false, false, 0, false, false, false, none⟩
def Avg.reset : Avg := ⟨0, 0, false, false⟩
def Cal.reset : Cal := ⟨false, false, 0, 0, 0, 0, 0, 0, 0⟩
def ConvRes.reset : ConvRes := ⟨0, false, 0, 0⟩
def Tag.reset : Tag := ⟨0, 255, 0, false, true, false, false, 0, 0, false⟩
def BSt.reset : BSt := ⟨0, 0, 0, false, 0, 0, 0⟩
def MTask.reset : MTask := ⟨0, 0, 0, 0, 0, [], [], [], [], 0, 0, false, false, 0, false, false, 1⟩
def CapUnit.reset : CapUnit := ⟨0, 0, 0, 0, 0, 0, false, [], [], [], false, false, false, 0, [], false⟩
def Atrg.reset : Atrg := ⟨false, false, false, 0, 0, 0, false, false, false, false⟩
def SeqE.reset : SeqE := ⟨0, 0, 0, []⟩
def Tw.reset : Tw := ⟨0, false, [], 0, 0, false, false⟩
def Red.reset : Red := ⟨0, 0, 0, 0, 0, 0, false, false, false⟩
def Flt.reset : Flt := ⟨false, 0⟩
def PairIn.reset : PairIn := ⟨0, false, false, 0⟩
def Cons.reset : Cons := ⟨none, 0, 0, []⟩
def Prod.reset : Prod := ⟨0, 0, 0⟩
def Bucket.reset : Bucket := ⟨0, 0, 0, 0, 0, 0, false⟩
def Sensor.reset : Sensor := ⟨false, 0, 0, false, false, false, [], false⟩

def Clk.reset : Clk :=
  { phase := .powerOnReset, now := 0, variant := .f48, xtal := Proving.reset, refIn := Proving.reset,
    root := Proving.reset, tenMHz := false, rootRun := 0, attempts := 0, lockDead := false, pllALock := false, hold := false,
    vtune := false, clockLoss := false, source := none, sel := none, tune := none, band := 0, bandSrc := false, aonTemp := 0,
    gateShut := 0, idleFrom := [], pllBLock := false, outs := [],
    supplyMem := true, supplyFad := true, supplySaf := true, shdn := false, aonErrN := false }
/-- What Ocrelin programs is open, vendor valid and revoked bits included; the fuses that the owner burns start at 0 (R93, DESIGN
CHOICE, log entry 4). -/
def Sec.reset : Sec :=
  { otpSeed := Config.otpSeed, otpSerial := Config.otpSerial, rollback := 0, vendorValid := Config.otpVendorValid,
    vendorRevoked := Config.otpVendorRevoked,
    ownerValid := 0, ownerRevoked := 0, ownerUsed := 0, ownerEnforce := false, vendorHash := [(0, Config.otpVendorHash 0), (1, Config.otpVendorHash 1)],
    ownerHash := [], cert := Config.otpCert, chain := List.replicate 64 0, events := [], truncated := false, slots := [], reading := none,
    recovering := false, recoverLen := 0, writing := none, runVersion := 0, runSlotB := false, runRecovery := false }
def Mode.reset : Mode := ⟨0, 0, none, 0, [], false, [], [], [], 0, false, none, [], 0, none, none⟩
/-- The configuration space as PCI Express resets it (PRESUMED, log entry 68). -/
def HostIf.reset : HostIf :=
  { rings := [], mse := false, bme := false, d3 := false, msixEn := false, msixMask := false, mps := 128, mrrs := 512, stalled := true,
    polling := false, shadow := [], msix := [], pba := 0, reads := [], finished := [], turns := [], bufs := [] }
def Tim.reset : Tim :=
  { offset := 0, rate := 0, target := 0, quality := 0, timeSet := false, ptpOk := false, ppsOk := false, rateHeld := false, inBand := 0,
    holdSince := none, ppsPin := false, ppsFall := 0, ppsSec := 0, ppsStamp := 0, lastSync := 0,
    syncEvery := 0, lastPps := 0, tlv := [], updAt := none, ports := [] }
def Bell.reset : Bell := ⟨[], 0, [], 0, none, 0⟩
def Gce.reset : Gce := ⟨[], [], [], [], []⟩
def Leg.reset : Leg := ⟨[], []⟩
def Adc.reset : Adc := ⟨[], false, 0, 0, 0, 0, false, none, 0, 0, [], none, 0, [], [], [], []⟩
def Fad.reset : Fad := ⟨[], [], [], [], []⟩
def Mill.reset : Mill := ⟨none, [], [], [], [], [], [], [], [], [], [], 0, none, 0, 0, 0, [], []⟩
def Pair.reset : Pair :=
  { st := 0, active := true, o := 0, lane0 := false, lane1 := false, peerSeen := false,
    sum := 0, cnt := 0, lastOff := none, joined := false, rxStamp := 0, rxFrame := 0, stamps := [],
    formed := 0, tx := [], digest := none, joinCode := 0,
    outbox := [], own := [], peerH := [], kept := [], keptT := [], verif := none, offer := none, seize := none, follows := 0,
    failAt := none, lossAt := 0, lastMatch := true, snapWant := false, segs := [], segNext := 0, bankSegs := [], bankNext := 0, banks := [], backlog := [], peerSt := 0, modeAt := 0,
    recNo := 0, fwdNo := 0, forwarded := [], delayed := [], resync0 := false, resync1 := false }
def Cap.reset : Cap := ⟨[], [], [], [], [], [], 0, 0, false⟩
def Pmu.reset : Pmu := ⟨false, 0, [], false, 0, 0, 0, 0, 0⟩
def Saf.reset : Saf :=
  { cycles := 0, cycleAt := 0, fltA := [], fltB := [], pairA := [], pairB := [], differ := 0, noReply := 0,
    fault := false, cons := [], prods := [], srcVec := 0, grant := false, grants := 0, outOn := 0, outFault := 0,
    closed := 0, openRun := [], rsOut := 0, rsPerm := false, rsPort := 0, ackAge := 255, rbH := 0, rbL := 0, rbH1 := 0,
    rbL1 := 0, overRun := [], testing := [], pchk := 0, valid := false, confirmed := false, box := [], boxPrev := [],
    boxAt := 0, pdus := [], trip := false, tripPrev := false, tripFrom := 0 }
def Wch.reset : Wch := ⟨[], 0, none, [], 0, [], none, none, []⟩
def Book.reset : Book :=
  { slots := [], bad := [], queue := [], nextSeq := 1, ready := false, failed := false, badCount := 0, dropped := 0,
    lastBad := false, curBad := false, refillAt := 0, buckets := [], overflow := Bucket.reset, lw := [], lwNext := 0 }
def Thm.reset : Thm := ⟨[]⟩

/-- The device in power-on reset (R84 step 1): every register at its reset value, outputs as in R34, SYS_RESET_CAUSE.por
set (its register's reset value), Dormant, nothing running. -/
def State.reset : State :=
  { clk := Clk.reset, sec := Sec.reset, mode := Mode.reset, host := HostIf.reset, tim := Tim.reset, bell := Bell.reset,
    ports := [], health := [], gce := Gce.reset, leg := Leg.reset, adc := Adc.reset, fad := Fad.reset,
    mill := Mill.reset, pair := Pair.reset, cap := Cap.reset, pmu := Pmu.reset, saf := Saf.reset, wch := Wch.reset,
    book := Book.reset, thm := Thm.reset, regs := [], hiLatch := [], rdata := 0, hostMem := [], reqs := [], freeCtr := 0,
    pending := [] }

end Sys2Proof.Machine
end

