-- ==== Sys2Proof/Machine/Operands.lean ====
section
/-! DEFINITION. Operand forms: sparse tables, bit fields, signed values, byte order, the two CRCs, saturation. -/

namespace Sys2Proof.Machine

/-! ### Sparse tables -/

/-- The value at a key; a key that is not listed holds the default. -/
def tget {α : Type} (d : Nat → α) (t : Tbl α) (k : Nat) : α :=
  match t with
  | [] => d k
  | (k', v) :: r => if k' = k then v else tget d r k

/-- Puts a pair at its place in the order of keys. -/
def tins {α : Type} (k : Nat) (v : α) (t : Tbl α) : Tbl α :=
  match t with
  | [] => [(k, v)]
  | (k', v') :: r => if k < k' then (k, v) :: (k', v') :: r else (k', v') :: tins k v r

/-- Removes a key. -/
def tdel {α : Type} (k : Nat) (t : Tbl α) : Tbl α := t.filter (fun e => e.1 != k)

/-- Sets a key; the default is not listed. -/
def tput {α : Type} [DecidableEq α] (d : Nat → α) (t : Tbl α) (k : Nat) (v : α) : Tbl α :=
  if v = d k then tdel k t else tins k v (tdel k t)

/-- Changes every listed value. -/
def tmap {α : Type} (f : α → α) (t : Tbl α) : Tbl α := List.map (fun (e : Nat × α) => (e.1, f e.2)) t

/-- Table of numbers: default 0. -/
def nget (t : Tbl Nat) (k : Nat) : Nat := tget (fun _ => 0) t k
def nput (t : Tbl Nat) (k v : Nat) : Tbl Nat := tput (fun _ => 0) t k v
/-- Table of integers: default 0. -/
def iget (t : Tbl Int) (k : Nat) : Int := tget (fun _ => 0) t k
def iput (t : Tbl Int) (k : Nat) (v : Int) : Tbl Int := tput (fun _ => 0) t k v

/-! ### Bits and fields of a register word -/

/-- Field [hi:lo] of a word as a number. -/
def fld (w : Word) (hi lo : Nat) : Nat := (w.toNat >>> lo) % 2 ^ (hi + 1 - lo)

/-- Bit n of a word. -/
def bit (w : Word) (n : Nat) : Bool := w.getLsbD n

/-- A word of a number, taken modulo 2^32. -/
def word (n : Nat) : Word := BitVec.ofNat 32 n

/-- Bit n of a number. -/
def nbit (x n : Nat) : Bool := x.testBit n

/-- A number with bit n set or cleared. -/
def nset (x n : Nat) (b : Bool) : Nat := if b then x ||| 2 ^ n else if x.testBit n then x - 2 ^ n else x

/-- 1 or 0. -/
def b2n (b : Bool) : Nat := if b then 1 else 0

/-- A word with field [hi:lo] replaced by the low bits of a value. -/
def wfld (w : Word) (hi lo v : Nat) : Word :=
  word (w.toNat - fld w hi lo * 2 ^ lo + v % 2 ^ (hi + 1 - lo) * 2 ^ lo)

/-- An n-bit two's-complement code as an integer. -/
def sx (n x : Nat) : Int := if x % 2 ^ n < 2 ^ (n - 1) then ((x % 2 ^ n : Nat) : Int) else ((x % 2 ^ n : Nat) : Int) - 2 ^ n

/-- An integer as an n-bit code. -/
def cx (n : Nat) (x : Int) : Nat := (x % (2 ^ n : Int)).toNat

/-- The set bits of a number below n, ascending. -/
def bitsOf (n x : Nat) : List Nat := (List.range n).filter (fun i => x.testBit i)

/-- The number whose bit i, below n, is given by a predicate. -/
def maskOf (n : Nat) (f : Nat → Bool) : Nat :=
  (List.range n).foldl (fun a i => if f i then a + 2 ^ i else a) 0

/-- How many bits below n are set. -/
def popc (n x : Nat) : Nat := (bitsOf n x).length

/-! ### Integers -/

/-- Limits to an n-bit signed range. -/
def sat (n : Nat) (x : Int) : Int :=
  if x < -(2 ^ (n - 1)) then -(2 ^ (n - 1)) else if 2 ^ (n - 1) - 1 < x then 2 ^ (n - 1) - 1 else x

/-- Arithmetic shift right: rounds toward minus infinity. -/
def asr (x : Int) (n : Nat) : Int := x / (2 ^ n : Int)

/-- Division that truncates toward zero ("div"). -/
def tdivI (a b : Int) : Int := Int.tdiv a b

/-- Adds and saturates at a limit (a saturating counter). -/
def satAdd (lim a b : Nat) : Nat := min lim (a + b)

/-- Rounds a quotient of an integer by a positive number to nearest, ties away from zero. -/
def roundDiv (a : Int) (b : Nat) : Int :=
  if a < 0 then -((2 * (-a) + b) / (2 * b)) else (2 * a + b) / (2 * b)

/-- Integer square root, rounded down, on fuel. -/
def isqrtGo : Nat → Nat → Nat → Nat
  | 0, _, r => r
  | f + 1, n, r => let c := r + 2 ^ f
                   isqrtGo f n (if c * c ≤ n then c else r)
def isqrt (n : Nat) : Nat := isqrtGo 64 n 0

/-! ### Bytes, little-endian unless a format says otherwise -/

/-- n bytes of a number, lowest first. -/
def le (n x : Nat) : Bytes := (List.range n).map (fun i => BitVec.ofNat 8 (x >>> (8 * i)))

/-- The number that bytes spell, lowest first. -/
def leVal : Bytes → Nat
  | [] => 0
  | b :: r => b.toNat + 256 * leVal r

/-- n bytes of a number, highest first. -/
def be (n x : Nat) : Bytes := (le n x).reverse

/-- The number that bytes spell, highest first. -/
def beVal (b : Bytes) : Nat := leVal b.reverse

/-- n bytes of a buffer from an offset, short reads padded with nothing. -/
def slice (b : Bytes) (off n : Nat) : Bytes := (b.drop off).take n

/-- The little-endian field of n bytes at an offset. -/
def lef (b : Bytes) (off n : Nat) : Nat := leVal (slice b off n)

/-- Every byte of a slice is 0. -/
def allZero (b : Bytes) : Bool := b.all (fun x => x = 0)

/-- Zero bytes. -/
def zeros (n : Nat) : Bytes := List.replicate n 0

/-- Pads with zero bytes to a length. -/
def padTo (n : Nat) (b : Bytes) : Bytes := b ++ zeros (n - b.length)

/-- ASCII text as bytes. -/
def ascii (s : String) : Bytes := s.toList.map (fun c => BitVec.ofNat 8 c.toNat)

/-! ### Check values -/

/-- Eight steps of a reflected CRC. -/
def crcStep (poly : Nat) : Nat → Nat → Nat
  | 0, c => c
  | n + 1, c => crcStep poly n (if c % 2 = 1 then (c / 2) ^^^ poly else c / 2)

/-- A reflected 32-bit CRC with initial value and final XOR 0xFFFF_FFFF. -/
def crcRefl (poly : Nat) (b : Bytes) : Nat :=
  (b.foldl (fun c x => crcStep poly 8 (c ^^^ x.toNat)) 0xFFFFFFFF) ^^^ 0xFFFFFFFF

/-- CRC-32 of IEEE 802.3 (R196). -/
def crc32 (b : Bytes) : Nat := crcRefl 0xEDB88320 b

/-- CRC-32C (R462). -/
def crc32c (b : Bytes) : Nat := crcRefl 0x82F63B78 b

/-! ### Lists -/

/-- The element at a place, or a default. -/
def nth {α : Type} (l : List α) (i : Nat) (d : α) : α := (l[i]?).getD d

/-- Replaces the element at a place. -/
def setNth {α : Type} (l : List α) (i : Nat) (v : α) : List α := l.set i v

/-- Replaces the first element that meets a test. -/
def replFirst {α : Type} (p : α → Bool) (f : α → α) : List α → List α
  | [] => []
  | a :: r => if p a then f a :: r else a :: replFirst p f r

/-- Removes the first element that meets a test. -/
def delFirst {α : Type} (p : α → Bool) : List α → List α
  | [] => []
  | a :: r => if p a then r else a :: delFirst p r

/-- Sorted insertion by a strict order, after equals. -/
def insBy {α : Type} (lt : α → α → Bool) (a : α) : List α → List α
  | [] => [a]
  | b :: r => if lt a b then a :: b :: r else b :: insBy lt a r

/-- Stable insertion sort. -/
def sortBy {α : Type} (lt : α → α → Bool) (l : List α) : List α := l.foldl (fun acc a => insBy lt a acc) []

end Sys2Proof.Machine
end

