-- ==== Sys2Proof/Machine/Fixed.lean ====
section
/-! DEFINITION. Numbers the spec defines by real functions, in fixed point with 96 fraction bits: the sine table (R333),
angles (R439), logarithms (R495). -/

namespace Sys2Proof.Machine

/-- 2^96, the unit of this file. -/
def fone : Int := 79228162514264337593543950336
/-- π. -/
def fpi : Int := 248902613312231085230521944622
/-- ln 2. -/
def fln2 : Int := 54916777467707473351141471128

/-- Product of two fixed-point numbers. -/
def fmul (a b : Int) : Int := a * b / fone
/-- Quotient of two fixed-point numbers. -/
def fdiv (a b : Int) : Int := a * fone / b

/-- Rest of the Taylor series of sin from the term x^k/k!. -/
def sinGo (x2 : Int) : Nat → Int → Int → Int
  | 0, _, _ => 0
  | n + 1, k, t => t + sinGo x2 n (k + 2) (-(fmul t x2 / ((k + 1) * (k + 2))))

/-- Sine of an angle from 0 to π/2. -/
def fsin (x : Int) : Int := sinGo (fmul x x) 20 1 x

/-- Q[i] := round(32,767 × sin(i × π ÷ 2,048)) (R333). -/
def sineQ (i : Nat) : Int := (32767 * fsin (fpi * i / 2048) + fone / 2) / fone

/-- sin of a 32-bit angle (R333). -/
def sin32 (a : Nat) : Int :=
  let x := a % 2 ^ 32 / 2 ^ 20
  let r := x % 1024
  match x / 1024 with
  | 0 => sineQ r
  | 1 => sineQ (1024 - r)
  | 2 => -sineQ r
  | _ => -sineQ (1024 - r)

/-- cos of a 32-bit angle. -/
def cos32 (a : Nat) : Int := sin32 (a + 2 ^ 30)

/-- Rest of the series of arctan from the term with denominator k. -/
def atanGo (x2 : Int) : Nat → Int → Int → Int
  | 0, _, _ => 0
  | n + 1, k, p => p / k + atanGo x2 n (k + 2) (-(fmul p x2))

/-- Square root of a fixed-point number, rounded down. -/
def fsqrtGo : Nat → Nat → Nat → Nat
  | 0, _, r => r
  | f + 1, n, r => let c := r + 2 ^ f
                   fsqrtGo f n (if c * c ≤ n then c else r)
def fsqrt (x : Int) : Int := (fsqrtGo 104 (x.toNat * 79228162514264337593543950336) 0 : Nat)

/-- arctan of a number from 0 to 1: two half-angle steps, then the series. -/
def fatan (x : Int) : Int :=
  let h := fun y => fdiv y (fone + fsqrt (fone + fmul y y))
  let y := h (h x)
  4 * atanGo (fmul y y) 36 1 y

/-- Angle of (re, im) as a 32-bit code with 2^31 for π, rounded to nearest (R439). -/
def angle32 (re im : Int) : Int :=
  let a := (re.natAbs : Int)
  let b := (im.natAbs : Int)
  let q := if b ≤ a then (if a = 0 then 0 else fatan (b * fone / a)) else fpi / 2 - fatan (a * fone / b)
  let q := if re < 0 then fpi - q else q
  let c := (2 ^ 32 * q + fpi) / (2 * fpi)
  if im < 0 then -c else c

/-- Series of ln((1 + z) ÷ (1 − z)) ÷ 2. -/
def atanhGo (z2 : Int) : Nat → Int → Int → Int
  | 0, _, _ => 0
  | n + 1, k, p => p / k + atanhGo z2 n (k + 2) (fmul p z2)

/-- ln of a positive number: its whole part of log2, then the series. -/
def fln (x : Int) : Int :=
  if x ≤ 0 then 0
  else
    let e : Int := (Nat.log2 x.toNat : Int) - 96
    let m := if 0 ≤ e then x / 2 ^ e.toNat else x * 2 ^ (-e).toNat
    let z := fdiv (m - fone) (m + fone)
    e * fln2 + 2 * atanhGo (fmul z z) 34 1 z

end Sys2Proof.Machine
end

