-- ==== Sys2Proof/Machine/Regs.lean ====
section
/-! DEFINITION. The BAR0 register map: one row per register or register array of the spec's register tables, the
reset values (R4 and the layout tables of every chapter), absence on a variant (R2, R131), and the register file. -/

namespace Sys2Proof.Machine

/-- When a register is absent: never, or by the port, channel, pair, source or unit it belongs to (R2, R131). -/
inductive Absent where
  | never | port | channel | pair | pairWord8 | pairWord16 | pairWord32 | fad | cap | trig | pmu | mem | pairUnit | source
  deriving DecidableEq, Repr

/-- A row of a register table: base, strides and counts of its two indices, the bits of each access code of R6, the
reset value. -/
structure RegRow where
  base : Nat
  s1 : Nat
  c1 : Nat
  s2 : Nat
  c2 : Nat
  rw : Nat
  rwl : Nat
  ro : Nat
  w1c : Nat
  w1s : Nat
  reset : Nat
  absent : Absent
  deriving DecidableEq, Repr

/-- The registers and register arrays of BAR0. -/
inductive Reg where
  /-- SYS_CAP0 (R4). -/
  | sysCap0
  /-- SYS_RESET_CAUSE (R104). -/
  | sysResetCause
  /-- SYS_RESET (R105). -/
  | sysReset
  /-- SYS_BOOT_STATUS (R104). -/
  | sysBootStatus
  /-- SYS_LOCK (R104). -/
  | sysLock
  /-- SYS_LEADS (R22). -/
  | sysLeads
  /-- SYS_LEAD_TIMES (R23). -/
  | sysLeadTimes
  /-- SYS_MODE (R126). -/
  | sysMode
  /-- SYS_MODE_REQ (R127). -/
  | sysModeReq
  /-- SYS_MODE_RESULT (R126). -/
  | sysModeResult
  /-- SYS_MODE_CTRL (R126). -/
  | sysModeCtrl
  /-- SYS_MODE_TIME_LO (R126). -/
  | sysModeTimeLo
  /-- SYS_MODE_TIME_HI (R126). -/
  | sysModeTimeHi
  /-- SYS_HANDOVER (R126). -/
  | sysHandover
  /-- SYS_HANDOVER_STATUS (R126). -/
  | sysHandoverStatus
  /-- CLK_STATUS (R78). -/
  | clkStatus
  /-- CLK_EVENT (R78). -/
  | clkEvent
  /-- CLK_REF_CTRL (R78). -/
  | clkRefCtrl
  /-- CLK_GATE_FORCE (R78). -/
  | clkGateForce
  /-- PLL_A_BAND[i] (R78). -/
  | pllABand
  /-- PLL_B_OUT[j] (R78). -/
  | pllBOut
  /-- PLL_B_TARGET[j] (R78). -/
  | pllBTarget
  /-- PLL_B_PHASE[j] (R78). -/
  | pllBPhase
  /-- SEC_RECOVERY_ADDR_LO (R104). -/
  | secRecoveryAddrLo
  /-- SEC_RECOVERY_ADDR_HI (R104). -/
  | secRecoveryAddrHi
  /-- SEC_RECOVERY_LEN (R104). -/
  | secRecoveryLen
  /-- SEC_RECOVERY_CTRL (R104). -/
  | secRecoveryCtrl
  /-- DQ_POLL (R157). -/
  | dqPoll
  /-- DQ_STATUS (R157). -/
  | dqStatus
  /-- DQ_DB_ADDR_LO (R157). -/
  | dqDbAddrLo
  /-- DQ_DB_ADDR_HI (R157). -/
  | dqDbAddrHi
  /-- DQ_SH_ADDR_LO (R157). -/
  | dqShAddrLo
  /-- DQ_SH_ADDR_HI (R157). -/
  | dqShAddrHi
  /-- DQ_RING_BASE_LO[i] (R157). -/
  | dqRingBaseLo
  /-- DQ_RING_BASE_HI[i] (R157). -/
  | dqRingBaseHi
  /-- DQ_RING_CFG[i] (R157). -/
  | dqRingCfg
  /-- DQ_RING_STATUS[i] (R157). -/
  | dqRingStatus
  /-- DQ_RING_DATA_LO[i] (R157). -/
  | dqRingDataLo
  /-- DQ_RING_DATA_HI[i] (R157). -/
  | dqRingDataHi
  /-- DQ_RING_DATA_SIZE[i] (R157). -/
  | dqRingDataSize
  /-- DQ_RING_INDEX[i] (R157). -/
  | dqRingIndex
  /-- MSI-X table[v][w] (R128, R157). -/
  | msixTable
  /-- MSI-X PBA[w] (R128, R157). -/
  | msixPba
  /-- TIM_CTRL (R194). -/
  | timCtrl
  /-- TIM_STATUS (R194). -/
  | timStatus
  /-- TIM_COUNT_LO (R194). -/
  | timCountLo
  /-- TIM_COUNT_HI (R194). -/
  | timCountHi
  /-- TIM_NOW[w] (R194). -/
  | timNow
  /-- TIM_OFFSET[w] (R194). -/
  | timOffset
  /-- TIM_RATE_LO (R194). -/
  | timRateLo
  /-- TIM_RATE_HI (R194). -/
  | timRateHi
  /-- TIM_TARGET_LO (R194). -/
  | timTargetLo
  /-- TIM_TARGET_HI (R194). -/
  | timTargetHi
  /-- TIM_SLEW (R194). -/
  | timSlew
  /-- TIM_SET[w] (R194). -/
  | timSet
  /-- TIM_PPS_CTRL (R194). -/
  | timPpsCtrl
  /-- TIM_PPS_IN[w] (R194). -/
  | timPpsIn
  /-- PTP_PORT_CTRL[n] (R194). -/
  | ptpPortCtrl
  /-- PTP_PORT_STATUS[n] (R194). -/
  | ptpPortStatus
  /-- PTP_TX_COMP[n] (R194). -/
  | ptpTxComp
  /-- PTP_RX_COMP[n] (R194). -/
  | ptpRxComp
  /-- PTP_LINK_DELAY[n] (R194). -/
  | ptpLinkDelay
  /-- PTP_CTRL (R194). -/
  | ptpCtrl
  /-- PTP_MAC_LO (R194). -/
  | ptpMacLo
  /-- PTP_MAC_HI (R194). -/
  | ptpMacHi
  /-- BEL_CTRL (R194). -/
  | belCtrl
  /-- BEL_STATUS (R194). -/
  | belStatus
  /-- BEL_DROPS (R194). -/
  | belDrops
  /-- BEL_MCAST_LO (R194). -/
  | belMcastLo
  /-- BEL_MCAST_HI (R194). -/
  | belMcastHi
  /-- BEL_TMPL[t][w] (R194). -/
  | belTmpl
  /-- LNK_CTRL[p] (R229). -/
  | lnkCtrl
  /-- LNK_STATUS[p] (R229). -/
  | lnkStatus
  /-- LNK_RTT[p] (R229). -/
  | lnkRtt
  /-- LNK_ASYM[p] (R229). -/
  | lnkAsym
  /-- LNK_DELAY[p] (R229). -/
  | lnkDelay
  /-- LNK_ERRS[p] (R229). -/
  | lnkErrs
  /-- LNK_EP[p] (R229). -/
  | lnkEp
  /-- LNK_DRV_LO[p] (R229). -/
  | lnkDrvLo
  /-- LNK_DRV_HI[p] (R229). -/
  | lnkDrvHi
  /-- LNK_SAFE_MASK[p] (R382). -/
  | lnkSafeMask
  /-- LNK_BYPASS_CFG[p] (R382). -/
  | lnkBypassCfg
  /-- LNK_READY_LO (R229). -/
  | lnkReadyLo
  /-- LNK_READY_HI (R229). -/
  | lnkReadyHi
  /-- LNK_HLTH_EVENT (R382). -/
  | lnkHlthEvent
  /-- LNK_HLTH_CFG[k] (R382). -/
  | lnkHlthCfg
  /-- LNK_CGRP[g] (R382). -/
  | lnkCgrp
  /-- LNK_RETIRE_INIT_LO (R380, R382). -/
  | lnkRetireInitLo
  /-- LNK_RETIRE_INIT_HI (R380, R382). -/
  | lnkRetireInitHi
  /-- LNK_RETIRED_LO (R382). -/
  | lnkRetiredLo
  /-- LNK_RETIRED_HI (R382). -/
  | lnkRetiredHi
  /-- LNK_CGRP_MASK[g] (R382). -/
  | lnkCgrpMask
  /-- LNK_HLTH[h] (R382). -/
  | lnkHlth
  /-- GCE_CTRL (R258). -/
  | gceCtrl
  /-- GCE_STATUS (R258). -/
  | gceStatus
  /-- GCE_EVENT (R258). -/
  | gceEvent
  /-- GCE_PACK_DROPS (R258). -/
  | gcePackDrops
  /-- GCE_FORCE_CTRL (R258). -/
  | gceForceCtrl
  /-- GCE_GRP_PERIOD[g] (R258). -/
  | gceGrpPeriod
  /-- GCE_GRP_OFFSET[g] (R258). -/
  | gceGrpOffset
  /-- GCE_CLASS[c] (R258). -/
  | gceClass
  /-- GCE_PORT_GRP[p] (R258). -/
  | gcePortGrp
  /-- GCE_PAIR[m] (R258). -/
  | gcePair
  /-- GCE_PAIR_DYN[m] (R258). -/
  | gcePairDyn
  /-- GCE_FORCE[w] (R258). -/
  | gceForce
  /-- GCE_PRE[w] (R258). -/
  | gcePre
  /-- GCE_DIRECT[j] (R258). -/
  | gceDirect
  /-- GCE_DL_FAIL (R258). -/
  | gceDlFail
  /-- GCE_DL_COARSE (R258). -/
  | gceDlCoarse
  /-- GCE_DL_MARGIN (R258). -/
  | gceDlMargin
  /-- LEG_OUT_EN (R280). -/
  | legOutEn
  /-- LEG_EVENT (R280). -/
  | legEvent
  /-- LEG_FAULT (R280). -/
  | legFault
  /-- LEG_ILOCK (R280). -/
  | legIlock
  /-- LEG_RDY_STATE (R280). -/
  | legRdyState
  /-- LEG_SOFT (R280). -/
  | legSoft
  /-- LEG_CFG[n] (R280). -/
  | legCfg
  /-- LEG_BLANK01[c] (R280). -/
  | legBlank01
  /-- LEG_BLANK23[c] (R280). -/
  | legBlank23
  /-- LEG_PORT_TEMP[p] (R280). -/
  | legPortTemp
  /-- LEG_BOOT_MAP[w] (R280). -/
  | legBootMap
  /-- LEG_BP_RATE[f] (R280). -/
  | legBpRate
  /-- LEG_BP_LEAK[f] (R280). -/
  | legBpLeak
  /-- LEG_BP_LEVEL[f] (R280). -/
  | legBpLevel
  /-- LEG_BP_TREF[f] (R280). -/
  | legBpTref
  /-- LEG_BP_WIDTH[f] (R280). -/
  | legBpWidth
  /-- LEG_BOOT_SEL (R280). -/
  | legBootSel
  /-- LEG_BOOT_STATE (R280). -/
  | legBootState
  /-- LEG_BOOT_EMPTY[w] (R280). -/
  | legBootEmpty
  /-- ADC_CTRL (R310). -/
  | adcCtrl
  /-- ADC_STATUS (R310). -/
  | adcStatus
  /-- ADC_EVENT (R310). -/
  | adcEvent
  /-- ADC_OVR (R310). -/
  | adcOvr
  /-- ADC_ERR (R310). -/
  | adcErr
  /-- ADC_INJ_SEL (R310). -/
  | adcInjSel
  /-- ADC_INJ_CTRL (R310). -/
  | adcInjCtrl
  /-- ADC_CAL_CTRL (R310). -/
  | adcCalCtrl
  /-- ADC_BSET[t] (R310). -/
  | adcBset
  /-- ADC_CAL_STATUS (R310). -/
  | adcCalStatus
  /-- ADC_RESULT_TS (R310). -/
  | adcResultTs
  /-- ADC_CAL_REF[c] (R310). -/
  | adcCalRef
  /-- ADC_CAL_OFS[c][b] (R310). -/
  | adcCalOfs
  /-- ADC_CAL_GAIN[c][b] (R310). -/
  | adcCalGain
  /-- ADC_RESULT[n] (R310). -/
  | adcResult
  /-- ADC_SEQ[i] (R310). -/
  | adcSeq
  /-- FAD_CTRL (R311). -/
  | fadCtrl
  /-- FAD_STATUS (R311). -/
  | fadStatus
  /-- FAD_EVENT (R311). -/
  | fadEvent
  /-- FAD_CAL_CTRL (R311). -/
  | fadCalCtrl
  /-- FAD_CAL_STATUS (R311). -/
  | fadCalStatus
  /-- FAD_TRIP (R311). -/
  | fadTrip
  /-- FAD_ERR (R311). -/
  | fadErr
  /-- FAD_CAL_REF[c] (R311). -/
  | fadCalRef
  /-- FAD_PROT_CFG[c] (R311). -/
  | fadProtCfg
  /-- FAD_PROT_LIM[c] (R311). -/
  | fadProtLim
  /-- FAD_RESULT[c] (R311). -/
  | fadResult
  /-- FAD_CAL_OFS[c][b] (R311). -/
  | fadCalOfs
  /-- FAD_CAL_GAIN[c][b] (R311). -/
  | fadCalGain
  /-- MIL_CTRL (R348). -/
  | milCtrl
  /-- MIL_STATUS (R348). -/
  | milStatus
  /-- MIL_EVENT (R348). -/
  | milEvent
  /-- MIL_TASK_CFG[t] (R348). -/
  | milTaskCfg
  /-- MIL_TASK_COST[t] (R348). -/
  | milTaskCost
  /-- MIL_TASK_STATUS[t] (R348). -/
  | milTaskStatus
  /-- MIL_TASK_PERIODS[t] (R348). -/
  | milTaskPeriods
  /-- MIL_TRACE_CTRL (R348). -/
  | milTraceCtrl
  /-- MIL_SEL (R348). -/
  | milSel
  /-- MIL_DATA[w] (R348). -/
  | milData
  /-- MIL_TLM_CTRL (R348). -/
  | milTlmCtrl
  /-- MIL_HO_LO[h] (R348). -/
  | milHoLo
  /-- MIL_HO_HI[h] (R348). -/
  | milHoHi
  /-- MIL_BLK_FLAGS[w] (R348). -/
  | milBlkFlags
  /-- MIL_TLM_SEL[w] (R348). -/
  | milTlmSel
  /-- MIL_IN_CFG[i] (R348). -/
  | milInCfg
  /-- MIL block memory[b][w] (R348). -/
  | milBlock
  /-- PAIR_CTRL (R407). -/
  | pairCtrl
  /-- PAIR_STATUS (R407). -/
  | pairStatus
  /-- PAIR_EVENT (R407). -/
  | pairEvent
  /-- PAIR_CFG (R407). -/
  | pairCfg
  /-- PAIR_ASYM (R407). -/
  | pairAsym
  /-- PAIR_OFFSET_LO (R407). -/
  | pairOffsetLo
  /-- PAIR_OFFSET_HI (R407). -/
  | pairOffsetHi
  /-- PAIR_HASH_ERRS (R407). -/
  | pairHashErrs
  /-- PAIR_PEER (R407). -/
  | pairPeer
  /-- CAP_EVENT (R443). -/
  | capEvent
  /-- CAP_UNIT_CFG[u] (R443). -/
  | capUnitCfg
  /-- CAP_UNIT_REGION[u] (R443). -/
  | capUnitRegion
  /-- CAP_UNIT_PRE[u] (R443). -/
  | capUnitPre
  /-- CAP_UNIT_POST[u] (R443). -/
  | capUnitPost
  /-- CAP_UNIT_STREAM[u][i] (R443). -/
  | capUnitStream
  /-- CAP_UNIT_STATUS[u] (R443). -/
  | capUnitStatus
  /-- CAP_UNIT_BYTES_LO[u] (R443). -/
  | capUnitBytesLo
  /-- CAP_UNIT_BYTES_HI[u] (R443). -/
  | capUnitBytesHi
  /-- CAP_ATRG_CFG[i] (R443). -/
  | capAtrgCfg
  /-- CAP_ATRG_HI[i] (R443). -/
  | capAtrgHi
  /-- CAP_ATRG_LO[i] (R443). -/
  | capAtrgLo
  /-- CAP_ATRG_TIMES[i] (R443). -/
  | capAtrgTimes
  /-- CAP_MATCH_A[k] (R443). -/
  | capMatchA
  /-- CAP_MATCH_B[k] (R443). -/
  | capMatchB
  /-- CAP_SEQ_ST[j][s] (R443). -/
  | capSeqSt
  /-- CAP_SEQ_TMR[j][s] (R443). -/
  | capSeqTmr
  /-- CAP_SEQ_CTRL[j] (R443). -/
  | capSeqCtrl
  /-- CAP_TW_CFG[n] (R443). -/
  | capTwCfg
  /-- CAP_TW_COMP[n] (R443). -/
  | capTwComp
  /-- CAP_TW_LAST_LO[n] (R443). -/
  | capTwLastLo
  /-- CAP_TW_LAST_HI[n] (R443). -/
  | capTwLastHi
  /-- PMU_CTRL (R443). -/
  | pmuCtrl
  /-- PMU_STATUS (R443). -/
  | pmuStatus
  /-- PMU_LEN (R443). -/
  | pmuLen
  /-- PMU_CH[c] (R443). -/
  | pmuCh
  /-- PMU_COEF[cl][w] (R443). -/
  | pmuCoef
  /-- MEM_CTRL (R444). -/
  | memCtrl
  /-- MEM_STATUS (R444). -/
  | memStatus
  /-- MEM_ECC (R444). -/
  | memEcc
  /-- SAF_STATUS (R472). -/
  | safStatus
  /-- SAF_EVENT (R472). -/
  | safEvent
  /-- SAF_PCHK (R472). -/
  | safPchk
  /-- SAF_CONFIRM (R470, R472). -/
  | safConfirm
  /-- SAF_IN_STATE (R472). -/
  | safInState
  /-- SAF_OUT_STATUS (R472). -/
  | safOutStatus
  /-- SAF_CONS_STATUS (R472). -/
  | safConsStatus
  /-- SAF_CELL_OK_LO (R472). -/
  | safCellOkLo
  /-- SAF_CELL_OK_HI (R472). -/
  | safCellOkHi
  /-- SAF_GRANT_LO (R472). -/
  | safGrantLo
  /-- SAF_GRANT_HI (R472). -/
  | safGrantHi
  /-- SAF_IN_CFG[n] (R472). -/
  | safInCfg
  /-- SAF_OUT_CFG[j] (R472). -/
  | safOutCfg
  /-- SAF_PERM_CFG (R472). -/
  | safPermCfg
  /-- SAF_ACK_CFG (R472). -/
  | safAckCfg
  /-- SAF_TEST (R472). -/
  | safTest
  /-- SAF_CELL_WD (R472). -/
  | safCellWd
  /-- SAF_CELL_BASE_LO (R472). -/
  | safCellBaseLo
  /-- SAF_CELL_BASE_HI (R472). -/
  | safCellBaseHi
  /-- SAF_PORTS_LO (R472). -/
  | safPortsLo
  /-- SAF_PORTS_HI (R472). -/
  | safPortsHi
  /-- SAF_CONS_CFG[c] (R472). -/
  | safConsCfg
  /-- SAF_CONS_ID_LO[c] (R472). -/
  | safConsIdLo
  /-- SAF_CONS_ID_HI[c] (R472). -/
  | safConsIdHi
  /-- SAF_PROD_CFG[c] (R472). -/
  | safProdCfg
  /-- SAF_PROD_ID_LO[c] (R472). -/
  | safProdIdLo
  /-- SAF_PROD_ID_HI[c] (R472). -/
  | safProdIdHi
  /-- WCH_CTRL (R500). -/
  | wchCtrl
  /-- WCH_STATUS (R500). -/
  | wchStatus
  /-- WCH_ERRN (R500). -/
  | wchErrn
  /-- WCH_FORCE_IDX (R500). -/
  | wchForceIdx
  /-- WCH_LATCH[w] (R500). -/
  | wchLatch
  /-- WCH_FORCE[w] (R500). -/
  | wchForce
  /-- WCH_CFG[s] (R500). -/
  | wchCfg
  /-- BK_EVENT (R501). -/
  | bkEvent
  /-- BK_STATUS (R501). -/
  | bkStatus
  /-- BK_SEQ_LO (R501). -/
  | bkSeqLo
  /-- BK_SEQ_HI (R501). -/
  | bkSeqHi
  /-- BK_FILL (R501). -/
  | bkFill
  /-- BK_RATE (R501). -/
  | bkRate
  /-- BK_LW_STATUS (R501). -/
  | bkLwStatus
  /-- BK_LW[i][w] (R501). -/
  | bkLw
  /-- THM_EVENT (R502). -/
  | thmEvent
  /-- THM_BANDS (R502). -/
  | thmBands
  /-- THM_BAND_STATE (R502). -/
  | thmBandState
  /-- THM_COND (R502). -/
  | thmCond
  /-- THM_CH_CFG[i] (R502). -/
  | thmChCfg
  /-- THM_CH_PAR[i] (R502). -/
  | thmChPar
  /-- THM_CH_R0[i] (R502). -/
  | thmChR0
  /-- THM_LIM[i] (R502). -/
  | thmLim
  /-- THM_TEMP[i] (R502). -/
  | thmTemp
  /-- THM_TAB[t][e] (R502). -/
  | thmTab
  deriving DecidableEq, Repr

/-- The row of each register. -/
def Reg.row : Reg → RegRow
  | .sysCap0 => ⟨0x10, 0, 1, 0, 1, 0x0, 0x0, 0xFFFF003F, 0x0, 0x0, 0x0, .never⟩
  | .sysResetCause => ⟨0x20, 0, 1, 0, 1, 0x0, 0x0, 0x0, 0x3F, 0x0, 0x1, .never⟩
  | .sysReset => ⟨0x24, 0, 1, 0, 1, 0x0, 0x0, 0x0, 0x0, 0xFFFF0001, 0x0, .never⟩
  | .sysBootStatus => ⟨0x28, 0, 1, 0, 1, 0x0, 0x0, 0xFFFFFF0F, 0x0, 0x0, 0x1000000, .never⟩
  | .sysLock => ⟨0x2C, 0, 1, 0, 1, 0x0, 0x1, 0x0, 0x0, 0x0, 0x0, .never⟩
  | .sysLeads => ⟨0x40, 0, 1, 0, 1, 0x0, 0x1, 0x0, 0x0, 0x0, 0x0, .never⟩
  | .sysLeadTimes => ⟨0x44, 0, 1, 0, 1, 0x0, 0x0, 0xFFFFFFFF, 0x0, 0x0, 0xFA00C80, .never⟩
  | .sysMode => ⟨0x50, 0, 1, 0, 1, 0x0, 0x0, 0xFF7, 0x0, 0x0, 0x0, .never⟩
  | .sysModeReq => ⟨0x54, 0, 1, 0, 1, 0x7, 0x0, 0x0, 0x0, 0xFFFF0100, 0x0, .never⟩
  | .sysModeResult => ⟨0x58, 0, 1, 0, 1, 0x0, 0x0, 0xFFFFFF77, 0x0, 0x0, 0x0, .never⟩
  | .sysModeCtrl => ⟨0x5C, 0, 1, 0, 1, 0x0, 0x7, 0x0, 0x0, 0x0, 0x0, .never⟩
  | .sysModeTimeLo => ⟨0x60, 0, 1, 0, 1, 0x0, 0x0, 0xFFFFFFFF, 0x0, 0x0, 0x0, .never⟩
  | .sysModeTimeHi => ⟨0x64, 0, 1, 0, 1, 0x0, 0x0, 0xFFFFFFFF, 0x0, 0x0, 0x0, .never⟩
  | .sysHandover => ⟨0x68, 0, 1, 0, 1, 0x0, 0xFFFFFF, 0x0, 0x0, 0x0, 0x100100, .never⟩
  | .sysHandoverStatus => ⟨0x6C, 0, 1, 0, 1, 0x0, 0x0, 0xFFFFFF, 0x0, 0x0, 0x0, .never⟩
  | .clkStatus => ⟨0x1000, 0, 1, 0, 1, 0x0, 0x0, 0x3F80F3C, 0x0, 0x0, 0x100, .never⟩
  | .clkEvent => ⟨0x1004, 0, 1, 0, 1, 0x0, 0x0, 0x0, 0x1F, 0x0, 0x0, .never⟩
  | .clkRefCtrl => ⟨0x1008, 0, 1, 0, 1, 0x0, 0x7, 0x0, 0x0, 0x0, 0x3, .never⟩
  | .clkGateForce => ⟨0x100C, 0, 1, 0, 1, 0xFF, 0x0, 0x0, 0x0, 0x0, 0x0, .never⟩
  | .pllABand => ⟨0x1040, 4, 16, 0, 1, 0x0, 0x80FF003F, 0x0, 0x0, 0x0, 0x0, .never⟩
  | .pllBOut => ⟨0x1100, 16, 3, 0, 1, 0xFCFF0FFF, 0x0, 0x0, 0x0, 0x0, 0xFA0, .never⟩
  | .pllBTarget => ⟨0x1104, 16, 3, 0, 1, 0xFFFFFFFF, 0x0, 0x0, 0x0, 0x0, 0x0, .never⟩
  | .pllBPhase => ⟨0x1108, 16, 3, 0, 1, 0x0, 0x0, 0xFFFFFFFF, 0x0, 0x0, 0x0, .never⟩
  | .secRecoveryAddrLo => ⟨0x2020, 0, 1, 0, 1, 0xFFFFFFFF, 0x0, 0x0, 0x0, 0x0, 0x0, .never⟩
  | .secRecoveryAddrHi => ⟨0x2024, 0, 1, 0, 1, 0xFFFFFFFF, 0x0, 0x0, 0x0, 0x0, 0x0, .never⟩
  | .secRecoveryLen => ⟨0x2028, 0, 1, 0, 1, 0xFFFFFFFF, 0x0, 0x0, 0x0, 0x0, 0x0, .never⟩
  | .secRecoveryCtrl => ⟨0x202C, 0, 1, 0, 1, 0x0, 0x0, 0xF0, 0x0, 0x1, 0x0, .never⟩
  | .dqPoll => ⟨0x3000, 0, 1, 0, 1, 0x800FFFFF, 0x0, 0x0, 0x0, 0x0, 0x3E8, .never⟩
  | .dqStatus => ⟨0x3004, 0, 1, 0, 1, 0x0, 0x0, 0xFFFF0001, 0x2, 0x0, 0x0, .never⟩
  | .dqDbAddrLo => ⟨0x3008, 0, 1, 0, 1, 0xFFFFFFFF, 0x0, 0x0, 0x0, 0x0, 0x0, .never⟩
  | .dqDbAddrHi => ⟨0x300C, 0, 1, 0, 1, 0xFFFFFFFF, 0x0, 0x0, 0x0, 0x0, 0x0, .never⟩
  | .dqShAddrLo => ⟨0x3010, 0, 1, 0, 1, 0xFFFFFFFF, 0x0, 0x0, 0x0, 0x0, 0x0, .never⟩
  | .dqShAddrHi => ⟨0x3014, 0, 1, 0, 1, 0xFFFFFFFF, 0x0, 0x0, 0x0, 0x0, 0x0, .never⟩
  | .dqRingBaseLo => ⟨0x3100, 32, 16, 0, 1, 0xFFFFFFFF, 0x0, 0x0, 0x0, 0x0, 0x0, .never⟩
  | .dqRingBaseHi => ⟨0x3104, 32, 16, 0, 1, 0xFFFFFFFF, 0x0, 0x0, 0x0, 0x0, 0x0, .never⟩
  | .dqRingCfg => ⟨0x3108, 32, 16, 0, 1, 0x8FE0F00F, 0x0, 0x100000, 0x0, 0x0, 0x4, .never⟩
  | .dqRingStatus => ⟨0x310C, 32, 16, 0, 1, 0x0, 0x0, 0xCF00FFFF, 0x0, 0x0, 0x0, .never⟩
  | .dqRingDataLo => ⟨0x3110, 32, 16, 0, 1, 0xFFFFFFFF, 0x0, 0x0, 0x0, 0x0, 0x0, .never⟩
  | .dqRingDataHi => ⟨0x3114, 32, 16, 0, 1, 0xFFFFFFFF, 0x0, 0x0, 0x0, 0x0, 0x0, .never⟩
  | .dqRingDataSize => ⟨0x3118, 32, 16, 0, 1, 0x1F, 0x0, 0x0, 0x0, 0x0, 0x0, .never⟩
  | .dqRingIndex => ⟨0x311C, 32, 16, 0, 1, 0x0, 0x0, 0xFFFFFFFF, 0x0, 0x0, 0x0, .never⟩
  | .msixTable => ⟨0x3800, 16, 17, 4, 4, 0xFFFFFFFF, 0x0, 0x0, 0x0, 0x0, 0x0, .never⟩
  | .msixPba => ⟨0x3C00, 4, 2, 0, 1, 0x0, 0x0, 0xFFFFFFFF, 0x0, 0x0, 0x0, .never⟩
  | .timCtrl => ⟨0x4000, 0, 1, 0, 1, 0xFFFF00C0, 0x30, 0x0, 0x0, 0x1, 0x12C0080, .never⟩
  | .timStatus => ⟨0x4004, 0, 1, 0, 1, 0x0, 0x0, 0x1F, 0x0, 0x0, 0x0, .never⟩
  | .timCountLo => ⟨0x4008, 0, 1, 0, 1, 0x0, 0x0, 0xFFFFFFFF, 0x0, 0x0, 0x0, .never⟩
  | .timCountHi => ⟨0x400C, 0, 1, 0, 1, 0x0, 0x0, 0xFFFFFFFF, 0x0, 0x0, 0x0, .never⟩
  | .timNow => ⟨0x4010, 4, 4, 0, 1, 0x0, 0x0, 0xFFFFFFFF, 0x0, 0x0, 0x0, .never⟩
  | .timOffset => ⟨0x4020, 4, 3, 0, 1, 0x0, 0x0, 0xFFFFFFFF, 0x0, 0x0, 0x0, .never⟩
  | .timRateLo => ⟨0x4030, 0, 1, 0, 1, 0x0, 0x0, 0xFFFFFFFF, 0x0, 0x0, 0x0, .never⟩
  | .timRateHi => ⟨0x4034, 0, 1, 0, 1, 0x0, 0x0, 0xFFFFFFFF, 0x0, 0x0, 0x0, .never⟩
  | .timTargetLo => ⟨0x4038, 0, 1, 0, 1, 0xFFFFFFFF, 0x0, 0x0, 0x0, 0x0, 0x0, .never⟩
  | .timTargetHi => ⟨0x403C, 0, 1, 0, 1, 0xFFFFFFFF, 0x0, 0x0, 0x0, 0x0, 0x0, .never⟩
  | .timSlew => ⟨0x4040, 0, 1, 0, 1, 0xFFFFFF, 0x0, 0x0, 0x0, 0x0, 0x2AF31E, .never⟩
  | .timSet => ⟨0x4050, 4, 4, 0, 1, 0xFFFFFFFF, 0x0, 0x0, 0x0, 0x0, 0x0, .never⟩
  | .timPpsCtrl => ⟨0x4070, 0, 1, 0, 1, 0xC0FFFFFF, 0x0, 0x0, 0x0, 0x0, 0x640000, .never⟩
  | .timPpsIn => ⟨0x4080, 4, 4, 0, 1, 0x0, 0x0, 0xFFFFFFFF, 0x0, 0x0, 0x0, .never⟩
  | .ptpPortCtrl => ⟨0x4100, 64, 2, 0, 1, 0xC0000000, 0x0, 0x0, 0x0, 0x0, 0x40000000, .never⟩
  | .ptpPortStatus => ⟨0x4104, 64, 2, 0, 1, 0x0, 0x0, 0xC0FFFFFF, 0x0, 0x0, 0x0, .never⟩
  | .ptpTxComp => ⟨0x4108, 64, 2, 0, 1, 0x0, 0xFFFFFFFF, 0x0, 0x0, 0x0, 0x0, .never⟩
  | .ptpRxComp => ⟨0x410C, 64, 2, 0, 1, 0x0, 0xFFFFFFFF, 0x0, 0x0, 0x0, 0x0, .never⟩
  | .ptpLinkDelay => ⟨0x4110, 64, 2, 0, 1, 0x0, 0x0, 0xFFFFFFFF, 0x0, 0x0, 0x0, .never⟩
  | .ptpCtrl => ⟨0x4200, 0, 1, 0, 1, 0x3, 0xFF0F0000, 0x0, 0x0, 0x0, 0x0, .never⟩
  | .ptpMacLo => ⟨0x4208, 0, 1, 0, 1, 0x0, 0xFFFFFFFF, 0x0, 0x0, 0x0, 0x0, .never⟩
  | .ptpMacHi => ⟨0x420C, 0, 1, 0, 1, 0x0, 0xFFFF, 0x0, 0x0, 0x0, 0x0, .never⟩
  | .belCtrl => ⟨0x4300, 0, 1, 0, 1, 0x8000, 0xFFFF3FFF, 0x0, 0x0, 0x0, 0x88B58000, .never⟩
  | .belStatus => ⟨0x4304, 0, 1, 0, 1, 0x0, 0x0, 0x1FFF, 0xFFFF0000, 0x0, 0x0, .never⟩
  | .belDrops => ⟨0x4308, 0, 1, 0, 1, 0x0, 0x0, 0xFFFFFFFF, 0x0, 0x0, 0x0, .never⟩
  | .belMcastLo => ⟨0x430C, 0, 1, 0, 1, 0x0, 0xFFFFFFFF, 0x0, 0x0, 0x0, 0x4C000001, .never⟩
  | .belMcastHi => ⟨0x4310, 0, 1, 0, 1, 0x0, 0xFFFF, 0x0, 0x0, 0x0, 0x30C, .never⟩
  | .belTmpl => ⟨0x4400, 32, 8, 4, 8, 0xFFFFFFFF, 0x0, 0x0, 0x0, 0x0, 0x0, .never⟩
  | .lnkCtrl => ⟨0x6000, 128, 48, 0, 1, 0xC000FF00, 0x0, 0x0, 0x0, 0x1, 0x0, .port⟩
  | .lnkStatus => ⟨0x6004, 128, 48, 0, 1, 0x0, 0x0, 0xFF800000, 0x0, 0x0, 0x0, .port⟩
  | .lnkRtt => ⟨0x6008, 128, 48, 0, 1, 0x0, 0x0, 0xFFFFFFFF, 0x0, 0x0, 0x0, .port⟩
  | .lnkAsym => ⟨0x600C, 128, 48, 0, 1, 0x0, 0xFFFFFFFF, 0x0, 0x0, 0x0, 0x0, .port⟩
  | .lnkDelay => ⟨0x6010, 128, 48, 0, 1, 0x0, 0x0, 0xFFFFFFFF, 0x0, 0x0, 0x0, .port⟩
  | .lnkErrs => ⟨0x6014, 128, 48, 0, 1, 0x0, 0x0, 0xFFFFFFFF, 0x0, 0x0, 0x0, .port⟩
  | .lnkEp => ⟨0x6018, 128, 48, 0, 1, 0x0, 0x0, 0xFFFFFFFF, 0x0, 0x0, 0x0, .port⟩
  | .lnkDrvLo => ⟨0x601C, 128, 48, 0, 1, 0x0, 0x0, 0xFFFFFFFF, 0x0, 0x0, 0x0, .port⟩
  | .lnkDrvHi => ⟨0x6020, 128, 48, 0, 1, 0x0, 0x0, 0xFFFFFFFF, 0x0, 0x0, 0x0, .port⟩
  | .lnkSafeMask => ⟨0x6024, 128, 48, 0, 1, 0x0, 0xFFFF, 0x0, 0x0, 0x0, 0x0, .port⟩
  | .lnkBypassCfg => ⟨0x6028, 128, 48, 0, 1, 0x0, 0x1FFFF, 0x0, 0x0, 0x0, 0x0, .port⟩
  | .lnkReadyLo => ⟨0x7800, 0, 1, 0, 1, 0x0, 0x0, 0xFFFFFFFF, 0x0, 0x0, 0x0, .never⟩
  | .lnkReadyHi => ⟨0x7804, 0, 1, 0, 1, 0x0, 0x0, 0xFFFF, 0x0, 0x0, 0x0, .never⟩
  | .lnkHlthEvent => ⟨0x7808, 0, 1, 0, 1, 0x0, 0x0, 0x0, 0x1F, 0x0, 0x0, .never⟩
  | .lnkHlthCfg => ⟨0x7810, 4, 6, 0, 1, 0x0, 0xFFFFFFFF, 0x0, 0x0, 0x0, 0x640801, .never⟩
  | .lnkCgrp => ⟨0x7840, 4, 16, 0, 1, 0x0, 0x803F1F1F, 0x0, 0x0, 0x0, 0x0, .never⟩
  | .lnkRetireInitLo => ⟨0x7880, 0, 1, 0, 1, 0x0, 0xFFFFFFFF, 0x0, 0x0, 0x0, 0x0, .never⟩
  | .lnkRetireInitHi => ⟨0x7884, 0, 1, 0, 1, 0x0, 0xFFFF, 0x0, 0x0, 0x0, 0x0, .never⟩
  | .lnkRetiredLo => ⟨0x7888, 0, 1, 0, 1, 0x0, 0x0, 0xFFFFFFFF, 0x0, 0x0, 0x0, .never⟩
  | .lnkRetiredHi => ⟨0x788C, 0, 1, 0, 1, 0x0, 0x0, 0xFFFF, 0x0, 0x0, 0x0, .never⟩
  | .lnkCgrpMask => ⟨0x7890, 4, 16, 0, 1, 0x0, 0x0, 0xFFFF, 0x0, 0x0, 0x0, .never⟩
  | .lnkHlth => ⟨0x7900, 4, 106, 0, 1, 0x0, 0x0, 0x270700FF, 0x40000000, 0x80000000, 0x0, .channel⟩
  | .gceCtrl => ⟨0x8000, 0, 1, 0, 1, 0x1, 0x0, 0x0, 0x0, 0x0, 0x0, .never⟩
  | .gceStatus => ⟨0x8004, 0, 1, 0, 1, 0x0, 0x0, 0xFFFF, 0x0, 0x0, 0x0, .never⟩
  | .gceEvent => ⟨0x8008, 0, 1, 0, 1, 0x0, 0x0, 0x0, 0x3, 0x0, 0x0, .never⟩
  | .gcePackDrops => ⟨0x800C, 0, 1, 0, 1, 0x0, 0x0, 0xFFFFFFFF, 0x0, 0x0, 0x0, .never⟩
  | .gceForceCtrl => ⟨0x8010, 0, 1, 0, 1, 0x0, 0x0, 0x0, 0x0, 0x1, 0x0, .never⟩
  | .gceGrpPeriod => ⟨0x8020, 8, 8, 0, 1, 0x0, 0xC00FFFFF, 0x0, 0x0, 0x0, 0x0, .never⟩
  | .gceGrpOffset => ⟨0x8024, 8, 8, 0, 1, 0x0, 0xFFFFF, 0x0, 0x0, 0x0, 0x0, .never⟩
  | .gceClass => ⟨0x8080, 4, 8, 0, 1, 0x0, 0xFFFFFFFF, 0x0, 0x0, 0x0, 0x0, .never⟩
  | .gcePortGrp => ⟨0x80C0, 4, 48, 0, 1, 0x0, 0x7, 0x0, 0x0, 0x0, 0x0, .port⟩
  | .gcePair => ⟨0x8200, 4, 400, 0, 1, 0x0, 0xFFFC01FF, 0x0, 0x0, 0x0, 0x0, .pair⟩
  | .gcePairDyn => ⟨0x8A00, 4, 400, 0, 1, 0xFFFF0003, 0x0, 0x0, 0x0, 0x0, 0x0, .pair⟩
  | .gceForce => ⟨0x9100, 4, 25, 0, 1, 0xFFFFFFFF, 0x0, 0x0, 0x0, 0x0, 0x0, .pairWord16⟩
  | .gcePre => ⟨0x9180, 4, 13, 0, 1, 0x0, 0xFFFFFFFF, 0x0, 0x0, 0x0, 0x0, .pairWord32⟩
  | .gceDirect => ⟨0x9200, 4, 16, 0, 1, 0xFFFF, 0x0, 0x0, 0x0, 0x0, 0x0, .never⟩
  | .gceDlFail => ⟨0x9300, 0, 1, 0, 1, 0x0, 0x0, 0x0, 0xFFFFFFFF, 0x0, 0x0, .never⟩
  | .gceDlCoarse => ⟨0x9304, 0, 1, 0, 1, 0x0, 0x0, 0xFFFFFFFF, 0x0, 0x0, 0x0, .never⟩
  | .gceDlMargin => ⟨0x9308, 0, 1, 0, 1, 0x0, 0xFFFFFFFF, 0x0, 0x0, 0x0, 0x18181818, .never⟩
  | .legOutEn => ⟨0xA000, 0, 1, 0, 1, 0xFFFF, 0x0, 0x0, 0x0, 0x0, 0x0, .never⟩
  | .legEvent => ⟨0xA004, 0, 1, 0, 1, 0x0, 0x0, 0x0, 0xF, 0x0, 0x0, .never⟩
  | .legFault => ⟨0xA008, 0, 1, 0, 1, 0x0, 0x0, 0xFFFFFFFF, 0x0, 0x0, 0x0, .never⟩
  | .legIlock => ⟨0xA00C, 0, 1, 0, 1, 0x0, 0x0, 0xFFFFFFFF, 0x0, 0x0, 0x0, .never⟩
  | .legRdyState => ⟨0xA010, 0, 1, 0, 1, 0x0, 0x0, 0xFFFF, 0x0, 0x0, 0x0, .never⟩
  | .legSoft => ⟨0xA014, 0, 1, 0, 1, 0x0, 0x3FF, 0x0, 0x0, 0x0, 0x7D, .never⟩
  | .legCfg => ⟨0xA040, 4, 16, 0, 1, 0x0, 0xFFF, 0x0, 0x0, 0x0, 0x20, .never⟩
  | .legBlank01 => ⟨0xA100, 8, 8, 0, 1, 0x0, 0x3FF03FF, 0x0, 0x0, 0x0, 0x7D007D, .never⟩
  | .legBlank23 => ⟨0xA104, 8, 8, 0, 1, 0x0, 0x3FF03FF, 0x0, 0x0, 0x0, 0x7D007D, .never⟩
  | .legPortTemp => ⟨0xA180, 4, 48, 0, 1, 0x0, 0x8000003F, 0x0, 0x0, 0x0, 0x0, .port⟩
  | .legBootMap => ⟨0xA300, 4, 50, 0, 1, 0x0, 0xBBBBBBBB, 0x0, 0x0, 0x0, 0x0, .pairWord8⟩
  | .legBpRate => ⟨0xA400, 32, 4, 0, 1, 0x0, 0xFFFFFFFF, 0x0, 0x0, 0x0, 0x0, .never⟩
  | .legBpLeak => ⟨0xA404, 32, 4, 0, 1, 0x0, 0xFFFFFFFF, 0x0, 0x0, 0x0, 0x0, .never⟩
  | .legBpLevel => ⟨0xA408, 32, 4, 0, 1, 0x0, 0x80FFFFFF, 0x0, 0x0, 0x0, 0x4000, .never⟩
  | .legBpTref => ⟨0xA40C, 32, 4, 0, 1, 0x0, 0xFFFF, 0x0, 0x0, 0x0, 0x8000, .never⟩
  | .legBpWidth => ⟨0xA410, 32, 4, 0, 1, 0x0, 0xFFFFF, 0x0, 0x0, 0x0, 0x3E80, .never⟩
  | .legBootSel => ⟨0xA500, 0, 1, 0, 1, 0x1FF, 0x0, 0x0, 0x0, 0x0, 0x0, .never⟩
  | .legBootState => ⟨0xA504, 0, 1, 0, 1, 0x0, 0x0, 0xC0FFFFFF, 0x0, 0x0, 0x0, .never⟩
  | .legBootEmpty => ⟨0xA580, 4, 13, 0, 1, 0x0, 0x0, 0x0, 0xFFFFFFFF, 0x0, 0x0, .pairWord32⟩
  | .adcCtrl => ⟨0xB000, 0, 1, 0, 1, 0x80000000, 0x1FF, 0x0, 0x0, 0x0, 0x1FF, .never⟩
  | .adcStatus => ⟨0xB004, 0, 1, 0, 1, 0x0, 0x0, 0xC1FFFFFF, 0x0, 0x0, 0x0, .never⟩
  | .adcEvent => ⟨0xB008, 0, 1, 0, 1, 0x0, 0x0, 0x0, 0x7, 0x0, 0x0, .never⟩
  | .adcOvr => ⟨0xB00C, 0, 1, 0, 1, 0x0, 0x0, 0x0, 0xFFFFFFFF, 0x0, 0x0, .never⟩
  | .adcErr => ⟨0xB010, 0, 1, 0, 1, 0x0, 0x0, 0xFFFFFFFF, 0x0, 0x0, 0x0, .never⟩
  | .adcInjSel => ⟨0xB014, 0, 1, 0, 1, 0xFFFFFF, 0x0, 0x0, 0x0, 0x0, 0x0, .never⟩
  | .adcInjCtrl => ⟨0xB018, 0, 1, 0, 1, 0x0, 0x0, 0x0, 0x0, 0x1, 0x0, .never⟩
  | .adcCalCtrl => ⟨0xB01C, 0, 1, 0, 1, 0x70000, 0x0, 0x0, 0x0, 0xFF, 0x0, .never⟩
  | .adcBset => ⟨0xB020, 4, 3, 0, 1, 0x0, 0xFFFFFF, 0x0, 0x0, 0x0, 0x0, .never⟩
  | .adcCalStatus => ⟨0xB030, 0, 1, 0, 1, 0x0, 0x0, 0xFFFF, 0x0, 0x0, 0x0, .never⟩
  | .adcResultTs => ⟨0xB034, 0, 1, 0, 1, 0x0, 0x0, 0xFFFFFFFF, 0x0, 0x0, 0x0, .never⟩
  | .adcCalRef => ⟨0xB040, 4, 8, 0, 1, 0x0, 0x0, 0x3FFFF, 0x0, 0x0, 0x1D4C0, .never⟩
  | .adcCalOfs => ⟨0xB100, 32, 8, 8, 4, 0xFFFFF, 0x0, 0x0, 0x0, 0x0, 0x0, .never⟩
  | .adcCalGain => ⟨0xB104, 32, 8, 8, 4, 0x3FFFF, 0x0, 0x0, 0x0, 0x0, 0x20000, .never⟩
  | .adcResult => ⟨0xB200, 4, 32, 0, 1, 0x0, 0x0, 0xE003FFFF, 0x0, 0x0, 0x0, .never⟩
  | .adcSeq => ⟨0xB400, 4, 512, 0, 1, 0x0, 0xFFFFFFFF, 0x0, 0x0, 0x0, 0x0, .never⟩
  | .fadCtrl => ⟨0xC000, 0, 1, 0, 1, 0x3F, 0x0, 0x0, 0x0, 0x0, 0x0, .fad⟩
  | .fadStatus => ⟨0xC004, 0, 1, 0, 1, 0x0, 0x0, 0x3F3F, 0x0, 0x0, 0x0, .fad⟩
  | .fadEvent => ⟨0xC008, 0, 1, 0, 1, 0x0, 0x0, 0x0, 0x7, 0x0, 0x0, .fad⟩
  | .fadCalCtrl => ⟨0xC00C, 0, 1, 0, 1, 0x70000, 0x0, 0x0, 0x0, 0x3F, 0x0, .fad⟩
  | .fadCalStatus => ⟨0xC010, 0, 1, 0, 1, 0x0, 0x0, 0x3F3F, 0x0, 0x0, 0x0, .fad⟩
  | .fadTrip => ⟨0xC014, 0, 1, 0, 1, 0x0, 0x0, 0x0, 0x3F, 0x0, 0x0, .fad⟩
  | .fadErr => ⟨0xC018, 0, 1, 0, 1, 0x0, 0x0, 0xFFFFFFFF, 0x0, 0x0, 0x0, .fad⟩
  | .fadCalRef => ⟨0xC020, 4, 6, 0, 1, 0x0, 0x0, 0xFFF, 0x0, 0x0, 0x733, .fad⟩
  | .fadProtCfg => ⟨0xC040, 4, 6, 0, 1, 0x0, 0x801FFFFF, 0x0, 0x0, 0x0, 0x10000, .fad⟩
  | .fadProtLim => ⟨0xC060, 4, 6, 0, 1, 0x0, 0xFFF0FFF, 0x0, 0x0, 0x0, 0x7FF0800, .fad⟩
  | .fadResult => ⟨0xC080, 4, 6, 0, 1, 0x0, 0x0, 0x80000FFF, 0x0, 0x0, 0x0, .fad⟩
  | .fadCalOfs => ⟨0xC100, 32, 6, 8, 4, 0xFFFFF, 0x0, 0x0, 0x0, 0x0, 0x0, .fad⟩
  | .fadCalGain => ⟨0xC104, 32, 6, 8, 4, 0x3FFFF, 0x0, 0x0, 0x0, 0x0, 0x20000, .fad⟩
  | .milCtrl => ⟨0xD000, 0, 1, 0, 1, 0x0, 0xFF0000, 0x0, 0x0, 0x0, 0x40000, .never⟩
  | .milStatus => ⟨0xD004, 0, 1, 0, 1, 0x0, 0x0, 0xFFF10FFF, 0x0, 0x0, 0x0, .never⟩
  | .milEvent => ⟨0xD008, 0, 1, 0, 1, 0x0, 0x0, 0x0, 0x1F, 0x0, 0x0, .never⟩
  | .milTaskCfg => ⟨0xD020, 16, 3, 0, 1, 0x0, 0x80000007, 0x0, 0x0, 0x0, 0x0, .never⟩
  | .milTaskCost => ⟨0xD024, 16, 3, 0, 1, 0x0, 0x0, 0xFFFFFFFF, 0x0, 0x0, 0x0, .never⟩
  | .milTaskStatus => ⟨0xD028, 16, 3, 0, 1, 0x0, 0x0, 0xFFFFFFFF, 0x0, 0x0, 0x0, .never⟩
  | .milTaskPeriods => ⟨0xD02C, 16, 3, 0, 1, 0x0, 0x0, 0xFFFFFFFF, 0x0, 0x0, 0x0, .never⟩
  | .milTraceCtrl => ⟨0xD060, 0, 1, 0, 1, 0x7FF07, 0x0, 0x0, 0x0, 0x0, 0x0, .never⟩
  | .milSel => ⟨0xD070, 0, 1, 0, 1, 0xF000FFFF, 0x0, 0x0, 0x0, 0x0, 0x0, .never⟩
  | .milData => ⟨0xD074, 4, 4, 0, 1, 0x0, 0x0, 0xFFFFFFFF, 0x0, 0x0, 0x0, .never⟩
  | .milTlmCtrl => ⟨0xD090, 0, 1, 0, 1, 0x8FFFFFFF, 0x0, 0x0, 0x0, 0x0, 0x3E8, .never⟩
  | .milHoLo => ⟨0xD100, 8, 16, 0, 1, 0x0, 0x0, 0xFFFFFFFF, 0x0, 0x0, 0x0, .never⟩
  | .milHoHi => ⟨0xD104, 8, 16, 0, 1, 0x0, 0x0, 0xFFFFFFFF, 0x0, 0x0, 0x0, .never⟩
  | .milBlkFlags => ⟨0xD400, 4, 256, 0, 1, 0x0, 0x0, 0x0, 0xFFFFFFFF, 0x0, 0x0, .never⟩
  | .milTlmSel => ⟨0xD800, 4, 64, 0, 1, 0xFFFFFFFF, 0x0, 0x0, 0x0, 0x0, 0xFFFFFFFF, .never⟩
  | .milInCfg => ⟨0xE000, 4, 1024, 0, 1, 0x0, 0xFFFF0003, 0x0, 0x0, 0x0, 0xFF000002, .never⟩
  | .milBlock => ⟨0x10000, 32, 2048, 4, 8, 0x0, 0x0, 0xFFFFFFFF, 0x0, 0x0, 0x0, .never⟩
  | .pairCtrl => ⟨0x24000, 0, 1, 0, 1, 0x0, 0x80000001, 0x0, 0x0, 0x0, 0x0, .pairUnit⟩
  | .pairStatus => ⟨0x24004, 0, 1, 0, 1, 0x0, 0x0, 0xFC00FF00, 0x0, 0x0, 0x10000000, .pairUnit⟩
  | .pairEvent => ⟨0x24008, 0, 1, 0, 1, 0x0, 0x0, 0x0, 0xFF, 0x0, 0x0, .pairUnit⟩
  | .pairCfg => ⟨0x2400C, 0, 1, 0, 1, 0x0, 0xFFFF, 0x0, 0x0, 0x0, 0x3E8, .pairUnit⟩
  | .pairAsym => ⟨0x24010, 0, 1, 0, 1, 0x0, 0xFFFFFFFF, 0x0, 0x0, 0x0, 0x0, .pairUnit⟩
  | .pairOffsetLo => ⟨0x24014, 0, 1, 0, 1, 0x0, 0x0, 0xFFFFFFFF, 0x0, 0x0, 0x0, .pairUnit⟩
  | .pairOffsetHi => ⟨0x24018, 0, 1, 0, 1, 0x0, 0x0, 0xFFFFFFFF, 0x0, 0x0, 0x0, .pairUnit⟩
  | .pairHashErrs => ⟨0x2401C, 0, 1, 0, 1, 0x0, 0x0, 0xFFFFFFFF, 0x0, 0x0, 0x0, .pairUnit⟩
  | .pairPeer => ⟨0x24020, 0, 1, 0, 1, 0x0, 0x0, 0x3FFFF000, 0x0, 0x0, 0x0, .pairUnit⟩
  | .capEvent => ⟨0x20000, 0, 1, 0, 1, 0x0, 0x0, 0x0, 0xF, 0x0, 0x0, .cap⟩
  | .capUnitCfg => ⟨0x20100, 64, 8, 0, 1, 0xBF0000FF, 0x0, 0x0, 0x0, 0x0, 0x0, .cap⟩
  | .capUnitRegion => ⟨0x20104, 64, 8, 0, 1, 0x3FFF3FFF, 0x0, 0x0, 0x0, 0x0, 0x0, .cap⟩
  | .capUnitPre => ⟨0x20108, 64, 8, 0, 1, 0xFFFFFFFF, 0x0, 0x0, 0x0, 0x0, 0x0, .cap⟩
  | .capUnitPost => ⟨0x2010C, 64, 8, 0, 1, 0xFFFFFFFF, 0x0, 0x0, 0x0, 0x0, 0x0, .cap⟩
  | .capUnitStream => ⟨0x20110, 64, 8, 4, 8, 0xFFFF0FFF, 0x0, 0x0, 0x0, 0x0, 0x0, .cap⟩
  | .capUnitStatus => ⟨0x20130, 64, 8, 0, 1, 0x0, 0x0, 0xF800FFFF, 0x0, 0x0, 0x0, .cap⟩
  | .capUnitBytesLo => ⟨0x20134, 64, 8, 0, 1, 0x0, 0x0, 0xFFFFFFFF, 0x0, 0x0, 0x0, .cap⟩
  | .capUnitBytesHi => ⟨0x20138, 64, 8, 0, 1, 0x0, 0x0, 0xFFFFFFFF, 0x0, 0x0, 0x0, .cap⟩
  | .capAtrgCfg => ⟨0x20400, 16, 8, 0, 1, 0xFCFFF0FF, 0x0, 0x0, 0x0, 0x0, 0x0, .trig⟩
  | .capAtrgHi => ⟨0x20404, 16, 8, 0, 1, 0x3FFFF, 0x0, 0x0, 0x0, 0x0, 0x0, .trig⟩
  | .capAtrgLo => ⟨0x20408, 16, 8, 0, 1, 0x3FFFF, 0x0, 0x0, 0x0, 0x0, 0x0, .trig⟩
  | .capAtrgTimes => ⟨0x2040C, 16, 8, 0, 1, 0xFFFFFFFF, 0x0, 0x0, 0x0, 0x0, 0x0, .trig⟩
  | .capMatchA => ⟨0x20500, 8, 32, 0, 1, 0xFFFFFC00, 0x0, 0x0, 0x0, 0x0, 0x0, .trig⟩
  | .capMatchB => ⟨0x20504, 8, 32, 0, 1, 0xFFFFFFFF, 0x0, 0x0, 0x0, 0x0, 0x0, .trig⟩
  | .capSeqSt => ⟨0x20600, 64, 4, 8, 8, 0xFFF00FFF, 0x0, 0x0, 0x0, 0x0, 0x0, .trig⟩
  | .capSeqTmr => ⟨0x20604, 64, 4, 8, 8, 0xFFFFFFFF, 0x0, 0x0, 0x0, 0x0, 0x0, .trig⟩
  | .capSeqCtrl => ⟨0x20700, 4, 4, 0, 1, 0x80000000, 0x0, 0x7, 0x0, 0x0, 0x0, .trig⟩
  | .capTwCfg => ⟨0x20800, 16, 6, 0, 1, 0xF0000FFF, 0x0, 0x8000000, 0x0, 0x0, 0x0, .trig⟩
  | .capTwComp => ⟨0x20804, 16, 6, 0, 1, 0xFFFFFFFF, 0x0, 0x0, 0x0, 0x0, 0x0, .trig⟩
  | .capTwLastLo => ⟨0x20808, 16, 6, 0, 1, 0x0, 0x0, 0xFFFFFFFF, 0x0, 0x0, 0x0, .trig⟩
  | .capTwLastHi => ⟨0x2080C, 16, 6, 0, 1, 0x0, 0x0, 0xFFFFFFFF, 0x0, 0x0, 0x0, .trig⟩
  | .pmuCtrl => ⟨0x21000, 0, 1, 0, 1, 0xFC0F00FF, 0x0, 0x0, 0x0, 0x0, 0x32, .pmu⟩
  | .pmuStatus => ⟨0x21004, 0, 1, 0, 1, 0x0, 0x0, 0x8F0003FF, 0x0, 0x0, 0x0, .pmu⟩
  | .pmuLen => ⟨0x21008, 0, 1, 0, 1, 0x3FF03FF, 0x0, 0x0, 0x0, 0x0, 0x0, .pmu⟩
  | .pmuCh => ⟨0x21040, 4, 16, 0, 1, 0x8000001F, 0x0, 0x0, 0x0, 0x0, 0x0, .pmu⟩
  | .pmuCoef => ⟨0x22000, 2048, 2, 4, 512, 0xFFFFFFFF, 0x0, 0x0, 0x0, 0x0, 0x0, .pmu⟩
  | .memCtrl => ⟨0x29000, 0, 1, 0, 1, 0x0, 0x1, 0x0, 0x0, 0x0, 0x0, .mem⟩
  | .memStatus => ⟨0x29004, 0, 1, 0, 1, 0x0, 0x0, 0xC000FFFF, 0x30000000, 0x0, 0x0, .mem⟩
  | .memEcc => ⟨0x29008, 0, 1, 0, 1, 0x0, 0x0, 0xFFFFFFFF, 0x0, 0x0, 0x0, .mem⟩
  | .safStatus => ⟨0x25000, 0, 1, 0, 1, 0x0, 0x0, 0xFCFFFFFF, 0x0, 0x0, 0x0, .never⟩
  | .safEvent => ⟨0x25004, 0, 1, 0, 1, 0x0, 0x0, 0x0, 0x7F, 0x0, 0x0, .never⟩
  | .safPchk => ⟨0x25008, 0, 1, 0, 1, 0x0, 0x0, 0xFFFFFFFF, 0x0, 0x0, 0x0, .never⟩
  | .safConfirm => ⟨0x2500C, 0, 1, 0, 1, 0xFFFFFFFF, 0x0, 0x0, 0x0, 0x0, 0x0, .never⟩
  | .safInState => ⟨0x25010, 0, 1, 0, 1, 0x0, 0x0, 0xFFFFFF00, 0x0, 0x0, 0x0, .never⟩
  | .safOutStatus => ⟨0x25014, 0, 1, 0, 1, 0x0, 0x0, 0xFF, 0x0, 0xF0000000, 0x0, .never⟩
  | .safConsStatus => ⟨0x25018, 0, 1, 0, 1, 0x0, 0x0, 0xFF00FFFF, 0x0, 0x0, 0x0, .never⟩
  | .safCellOkLo => ⟨0x25020, 0, 1, 0, 1, 0x0, 0x0, 0xFFFFFFFF, 0x0, 0x0, 0x0, .never⟩
  | .safCellOkHi => ⟨0x25024, 0, 1, 0, 1, 0x0, 0x0, 0xFFFF, 0x0, 0x0, 0x0, .never⟩
  | .safGrantLo => ⟨0x25028, 0, 1, 0, 1, 0x0, 0x0, 0xFFFFFFFF, 0x0, 0x0, 0x0, .never⟩
  | .safGrantHi => ⟨0x2502C, 0, 1, 0, 1, 0x0, 0x0, 0xFFFF, 0x0, 0x0, 0x0, .never⟩
  | .safInCfg => ⟨0x25100, 4, 8, 0, 1, 0x0, 0xF00F1FFF, 0x0, 0x0, 0x0, 0x20014, .never⟩
  | .safOutCfg => ⟨0x25120, 4, 4, 0, 1, 0x0, 0xC0FFFFFF, 0x0, 0x0, 0x0, 0x40000000, .never⟩
  | .safPermCfg => ⟨0x25130, 0, 1, 0, 1, 0x0, 0xC0FFFFFF, 0x0, 0x0, 0x0, 0x40000000, .never⟩
  | .safAckCfg => ⟨0x25134, 0, 1, 0, 1, 0x0, 0x80000007, 0x0, 0x0, 0x0, 0x0, .never⟩
  | .safTest => ⟨0x25138, 0, 1, 0, 1, 0x0, 0xFFFF001F, 0x0, 0x0, 0x0, 0x3E80014, .never⟩
  | .safCellWd => ⟨0x2513C, 0, 1, 0, 1, 0x0, 0xFFFF, 0x0, 0x0, 0x0, 0x14, .never⟩
  | .safCellBaseLo => ⟨0x25140, 0, 1, 0, 1, 0x0, 0xFFFFFFFF, 0x0, 0x0, 0x0, 0x0, .never⟩
  | .safCellBaseHi => ⟨0x25144, 0, 1, 0, 1, 0x0, 0xFFFFFFFF, 0x0, 0x0, 0x0, 0x0, .never⟩
  | .safPortsLo => ⟨0x25148, 0, 1, 0, 1, 0x0, 0xFFFFFFFF, 0x0, 0x0, 0x0, 0x0, .never⟩
  | .safPortsHi => ⟨0x2514C, 0, 1, 0, 1, 0x0, 0xFFFF, 0x0, 0x0, 0x0, 0x0, .never⟩
  | .safConsCfg => ⟨0x25200, 16, 8, 0, 1, 0x0, 0x803FFFFF, 0x0, 0x0, 0x0, 0x20064, .never⟩
  | .safConsIdLo => ⟨0x25204, 16, 8, 0, 1, 0x0, 0xFFFFFFFF, 0x0, 0x0, 0x0, 0x0, .never⟩
  | .safConsIdHi => ⟨0x25208, 16, 8, 0, 1, 0x0, 0xFFFFFFFF, 0x0, 0x0, 0x0, 0x0, .never⟩
  | .safProdCfg => ⟨0x25280, 16, 8, 0, 1, 0x0, 0x80FFFFFF, 0x0, 0x0, 0x0, 0x10064, .never⟩
  | .safProdIdLo => ⟨0x25284, 16, 8, 0, 1, 0x0, 0xFFFFFFFF, 0x0, 0x0, 0x0, 0x0, .never⟩
  | .safProdIdHi => ⟨0x25288, 16, 8, 0, 1, 0x0, 0xFFFFFFFF, 0x0, 0x0, 0x0, 0x0, .never⟩
  | .wchCtrl => ⟨0x26000, 0, 1, 0, 1, 0x1, 0x0, 0x0, 0x0, 0x0, 0x0, .never⟩
  | .wchStatus => ⟨0x26004, 0, 1, 0, 1, 0x0, 0x0, 0x63FF03FF, 0x80000000, 0x0, 0x3FF, .never⟩
  | .wchErrn => ⟨0x26008, 0, 1, 0, 1, 0x80000000, 0xFF, 0x40000000, 0x0, 0x0, 0xA, .never⟩
  | .wchForceIdx => ⟨0x2600C, 0, 1, 0, 1, 0xFFFF, 0x0, 0x0, 0x0, 0x0, 0xFFFF, .never⟩
  | .wchLatch => ⟨0x26040, 4, 19, 0, 1, 0x0, 0x0, 0x0, 0xFFFFFFFF, 0x0, 0x0, .never⟩
  | .wchForce => ⟨0x26100, 4, 19, 0, 1, 0x0, 0x0, 0x0, 0x0, 0xFFFFFFFF, 0x0, .never⟩
  | .wchCfg => ⟨0x26400, 4, 608, 0, 1, 0x0, 0x107, 0xFF000000, 0x0, 0x0, 0x0, .source⟩
  | .bkEvent => ⟨0x27000, 0, 1, 0, 1, 0x0, 0x0, 0x0, 0x7, 0x0, 0x0, .never⟩
  | .bkStatus => ⟨0x27004, 0, 1, 0, 1, 0x0, 0x0, 0xC0FFFFFF, 0x0, 0x0, 0x0, .never⟩
  | .bkSeqLo => ⟨0x27008, 0, 1, 0, 1, 0x0, 0x0, 0xFFFFFFFF, 0x0, 0x0, 0x0, .never⟩
  | .bkSeqHi => ⟨0x2700C, 0, 1, 0, 1, 0x0, 0x0, 0xFFFFFFFF, 0x0, 0x0, 0x0, .never⟩
  | .bkFill => ⟨0x27010, 0, 1, 0, 1, 0x0, 0x0, 0x1FFFF, 0x0, 0x0, 0x0, .never⟩
  | .bkRate => ⟨0x27014, 0, 1, 0, 1, 0x0, 0xFFFF00FF, 0x0, 0x0, 0x0, 0x640010, .never⟩
  | .bkLwStatus => ⟨0x27018, 0, 1, 0, 1, 0x0, 0x0, 0x1F1F, 0x0, 0x0, 0x0, .never⟩
  | .bkLw => ⟨0x27400, 64, 16, 4, 16, 0x0, 0x0, 0xFFFFFFFF, 0x0, 0x0, 0x0, .never⟩
  | .thmEvent => ⟨0x28000, 0, 1, 0, 1, 0x0, 0x0, 0x0, 0x1F, 0x0, 0x0, .never⟩
  | .thmBands => ⟨0x28004, 0, 1, 0, 1, 0x0, 0xFFFFFFFF, 0x0, 0x0, 0x0, 0x3644619, .never⟩
  | .thmBandState => ⟨0x28008, 0, 1, 0, 1, 0x0, 0x0, 0x3FFFFF, 0x0, 0x0, 0x0, .never⟩
  | .thmCond => ⟨0x2800C, 0, 1, 0, 1, 0x0, 0x0, 0x7FF07FF, 0x0, 0x0, 0x0, .never⟩
  | .thmChCfg => ⟨0x28040, 4, 8, 0, 1, 0x0, 0xF0000003, 0x0, 0x0, 0x0, 0x3, .never⟩
  | .thmChPar => ⟨0x28060, 4, 8, 0, 1, 0x0, 0xFFFF, 0x0, 0x0, 0x0, 0x4000, .never⟩
  | .thmChR0 => ⟨0x28080, 4, 8, 0, 1, 0x0, 0xFFFFF000, 0x0, 0x0, 0x0, 0x2710000, .never⟩
  | .thmLim => ⟨0x280A0, 4, 11, 0, 1, 0x0, 0xFFFFFFFF, 0x0, 0x0, 0x0, 0x3C000500, .never⟩
  | .thmTemp => ⟨0x28100, 4, 11, 0, 1, 0x0, 0x0, 0x8003FFFF, 0x0, 0x0, 0x0, .never⟩
  | .thmTab => ⟨0x28200, 64, 2, 4, 16, 0x0, 0xFFFFFFFF, 0x0, 0x0, 0x0, 0x0, .never⟩

/-- Registers of the SYS window. -/
def regsSys : List Reg :=
  [.sysCap0, .sysResetCause, .sysReset, .sysBootStatus, .sysLock, .sysLeads, .sysLeadTimes, .sysMode, .sysModeReq, .sysModeResult, .sysModeCtrl, .sysModeTimeLo] ++
  [.sysModeTimeHi, .sysHandover, .sysHandoverStatus]

/-- Registers of the CLK window. -/
def regsClk : List Reg :=
  [.clkStatus, .clkEvent, .clkRefCtrl, .clkGateForce, .pllABand, .pllBOut, .pllBTarget, .pllBPhase]

/-- Registers of the SEC window. -/
def regsSec : List Reg :=
  [.secRecoveryAddrLo, .secRecoveryAddrHi, .secRecoveryLen, .secRecoveryCtrl]

/-- Registers of the DQ window. -/
def regsDq : List Reg :=
  [.dqPoll, .dqStatus, .dqDbAddrLo, .dqDbAddrHi, .dqShAddrLo, .dqShAddrHi, .dqRingBaseLo, .dqRingBaseHi, .dqRingCfg, .dqRingStatus, .dqRingDataLo, .dqRingDataHi] ++
  [.dqRingDataSize, .dqRingIndex, .msixTable, .msixPba]

/-- Registers of the TIM window. -/
def regsTim : List Reg :=
  [.timCtrl, .timStatus, .timCountLo, .timCountHi, .timNow, .timOffset, .timRateLo, .timRateHi, .timTargetLo, .timTargetHi, .timSlew, .timSet] ++
  [.timPpsCtrl, .timPpsIn, .ptpPortCtrl, .ptpPortStatus, .ptpTxComp, .ptpRxComp, .ptpLinkDelay, .ptpCtrl, .ptpMacLo, .ptpMacHi, .belCtrl, .belStatus] ++
  [.belDrops, .belMcastLo, .belMcastHi, .belTmpl]

/-- Registers of the LNK window. -/
def regsLnk : List Reg :=
  [.lnkCtrl, .lnkStatus, .lnkRtt, .lnkAsym, .lnkDelay, .lnkErrs, .lnkEp, .lnkDrvLo, .lnkDrvHi, .lnkSafeMask, .lnkBypassCfg, .lnkReadyLo] ++
  [.lnkReadyHi, .lnkHlthEvent, .lnkHlthCfg, .lnkCgrp, .lnkRetireInitLo, .lnkRetireInitHi, .lnkRetiredLo, .lnkRetiredHi, .lnkCgrpMask, .lnkHlth]

/-- Registers of the GCE window. -/
def regsGce : List Reg :=
  [.gceCtrl, .gceStatus, .gceEvent, .gcePackDrops, .gceForceCtrl, .gceGrpPeriod, .gceGrpOffset, .gceClass, .gcePortGrp, .gcePair, .gcePairDyn, .gceForce] ++
  [.gcePre, .gceDirect, .gceDlFail, .gceDlCoarse, .gceDlMargin]

/-- Registers of the LEG window. -/
def regsLeg : List Reg :=
  [.legOutEn, .legEvent, .legFault, .legIlock, .legRdyState, .legSoft, .legCfg, .legBlank01, .legBlank23, .legPortTemp, .legBootMap, .legBpRate] ++
  [.legBpLeak, .legBpLevel, .legBpTref, .legBpWidth, .legBootSel, .legBootState, .legBootEmpty]

/-- Registers of the ADC window. -/
def regsAdc : List Reg :=
  [.adcCtrl, .adcStatus, .adcEvent, .adcOvr, .adcErr, .adcInjSel, .adcInjCtrl, .adcCalCtrl, .adcBset, .adcCalStatus, .adcResultTs, .adcCalRef] ++
  [.adcCalOfs, .adcCalGain, .adcResult, .adcSeq]

/-- Registers of the FAD window. -/
def regsFad : List Reg :=
  [.fadCtrl, .fadStatus, .fadEvent, .fadCalCtrl, .fadCalStatus, .fadTrip, .fadErr, .fadCalRef, .fadProtCfg, .fadProtLim, .fadResult, .fadCalOfs] ++
  [.fadCalGain]

/-- Registers of the MIL window. -/
def regsMil : List Reg :=
  [.milCtrl, .milStatus, .milEvent, .milTaskCfg, .milTaskCost, .milTaskStatus, .milTaskPeriods, .milTraceCtrl, .milSel, .milData, .milTlmCtrl, .milHoLo] ++
  [.milHoHi, .milBlkFlags, .milTlmSel, .milInCfg, .milBlock]

/-- Registers of the CAP window. -/
def regsCap : List Reg :=
  [.capEvent, .capUnitCfg, .capUnitRegion, .capUnitPre, .capUnitPost, .capUnitStream, .capUnitStatus, .capUnitBytesLo, .capUnitBytesHi, .capAtrgCfg, .capAtrgHi, .capAtrgLo] ++
  [.capAtrgTimes, .capMatchA, .capMatchB, .capSeqSt, .capSeqTmr, .capSeqCtrl, .capTwCfg, .capTwComp, .capTwLastLo, .capTwLastHi, .pmuCtrl, .pmuStatus] ++
  [.pmuLen, .pmuCh, .pmuCoef]

/-- Registers of the PAIR window. -/
def regsPair : List Reg :=
  [.pairCtrl, .pairStatus, .pairEvent, .pairCfg, .pairAsym, .pairOffsetLo, .pairOffsetHi, .pairHashErrs, .pairPeer]

/-- Registers of the SAF window. -/
def regsSaf : List Reg :=
  [.safStatus, .safEvent, .safPchk, .safConfirm, .safInState, .safOutStatus, .safConsStatus, .safCellOkLo, .safCellOkHi, .safGrantLo, .safGrantHi, .safInCfg] ++
  [.safOutCfg, .safPermCfg, .safAckCfg, .safTest, .safCellWd, .safCellBaseLo, .safCellBaseHi, .safPortsLo, .safPortsHi, .safConsCfg, .safConsIdLo, .safConsIdHi] ++
  [.safProdCfg, .safProdIdLo, .safProdIdHi]

/-- Registers of the WCH window. -/
def regsWch : List Reg :=
  [.wchCtrl, .wchStatus, .wchErrn, .wchForceIdx, .wchLatch, .wchForce, .wchCfg]

/-- Registers of the BK window. -/
def regsBk : List Reg :=
  [.bkEvent, .bkStatus, .bkSeqLo, .bkSeqHi, .bkFill, .bkRate, .bkLwStatus, .bkLw]

/-- Registers of the THM window. -/
def regsThm : List Reg :=
  [.thmEvent, .thmBands, .thmBandState, .thmCond, .thmChCfg, .thmChPar, .thmChR0, .thmLim, .thmTemp, .thmTab]

/-- Registers of the MEM window. -/
def regsMem : List Reg :=
  [.memCtrl, .memStatus, .memEcc]

/-- Unit window of an offset: the unit code of R131 (0: none; 0x13: block memory), its registers. -/
def windowOf (off : Nat) : Nat × List Reg :=
  if off < 0x1000 then (1, regsSys) else
  if off < 0x2000 then (2, regsClk) else
  if off < 0x3000 then (3, regsSec) else
  if off < 0x4000 then (4, regsDq) else
  if off < 0x6000 then (5, regsTim) else
  if off < 0x8000 then (6, regsLnk) else
  if off < 0xA000 then (7, regsGce) else
  if off < 0xB000 then (8, regsLeg) else
  if off < 0xC000 then (9, regsAdc) else
  if off < 0xD000 then (10, regsFad) else
  if off < 0x10000 then (11, regsMil) else if off < 0x20000 then (0x13, regsMil) else
  if off < 0x24000 then (12, regsCap) else
  if off < 0x25000 then (13, regsPair) else
  if off < 0x26000 then (14, regsSaf) else
  if off < 0x27000 then (15, regsWch) else
  if off < 0x28000 then (16, regsBk) else
  if off < 0x29000 then (17, regsThm) else
  if off < 0x2A000 then (18, regsMem) else
  (0, [])

/-- The Watch sources: number and default severity (R473). -/
def sources : List (Nat × Nat) :=
  [(32, 2), (33, 1), (64, 2), (65, 2), (66, 1), (67, 1), (68, 2), (72, 1), (73, 2), (128, 2), (129, 2), (160, 1), (161, 1), (162, 2)] ++
  [(192, 2), (193, 4), (194, 2), (195, 4), (196, 1), (200, 2), (201, 2), (202, 2), (203, 2), (204, 1), (224, 2), (225, 1), (256, 2), (257, 2)] ++
  [(258, 2), (259, 2), (288, 1), (289, 1), (290, 1), (320, 1), (321, 2), (322, 1), (323, 2), (352, 2), (353, 1), (354, 2), (355, 1), (356, 1)] ++
  [(384, 1), (385, 1), (386, 1), (387, 1), (416, 2), (417, 1), (418, 1), (419, 2), (420, 2), (421, 2), (422, 1), (423, 2), (424, 1), (448, 2)] ++
  [(449, 2), (450, 2), (451, 2), (452, 5), (453, 2), (454, 1), (512, 2), (513, 1), (514, 1), (544, 2), (545, 2), (546, 2), (547, 1), (548, 2)] ++
  [(576, 1), (577, 2), (578, 2)]

/-! ### Variants -/

/-- Cell ports present (R4). -/
def Variant.cellPorts : Variant → Nat
  | .f24 => 24
  | _ => 48

/-- Capture, phasor, trigger, fast converters and memory present (R2, R4). -/
def Variant.hasCap : Variant → Bool
  | .c48 => false
  | _ => true

/-- Pair link present (R2, R4). -/
def Variant.hasPair : Variant → Bool
  | .s48 => false
  | _ => true

/-- SYS_CAP0 of a variant (R4). -/
def Variant.cap0 : Variant → Nat
  | .f48 => 0x0130003F
  | .c48 => 0x02300020
  | .s48 => 0x0330001F
  | .f24 => 0x0418003F

/-- A cell port that exists (R2, R28). -/
def portOk (v : Variant) (p : Nat) : Bool := p < v.cellPorts

/-- A pair that exists (R27, R28). -/
def pairOk (v : Variant) (m : Nat) : Bool := m < 400 && (384 ≤ m || portOk v (m / 8))

/-- A health channel that exists (R368). -/
def channelOk (v : Variant) (h : Nat) : Bool :=
  if h < 48 then portOk v h else if h < 96 then true else if h < 102 then v.hasCap
  else if h < 104 then true else h < 106 && v.hasPair

/-- A unit that exists, by its code (R131). -/
def unitOk (v : Variant) (u : Nat) : Bool :=
  if u = 10 ∨ u = 12 ∨ u = 18 then v.hasCap else if u = 13 then v.hasPair else 1 ≤ u && u ≤ 18

/-- A Watch source that exists (R473). -/
def sourceOk (v : Variant) (n : Nat) : Bool := sources.any (fun x => x.1 = n) && unitOk v (n / 32)

/-- A register word is absent on a variant. -/
def absentReg (v : Variant) (a : Absent) (i : Nat) : Bool :=
  match a with
  | .never => false
  | .port => !portOk v i
  | .channel => !channelOk v i
  | .pair => !pairOk v i
  | .pairWord8 => !pairOk v (8 * i)
  | .pairWord16 => !pairOk v (16 * i)
  | .pairWord32 => !(pairOk v (32 * i))
  | .fad | .cap | .trig | .pmu | .mem => !v.hasCap
  | .pairUnit => !v.hasPair
  | .source => !sourceOk v i

/-! ### Offsets -/

/-- BAR0 offset of element [i][j] of a register. -/
def Reg.addr (r : Reg) (i : Nat := 0) (j : Nat := 0) : Nat := r.row.base + r.row.s1 * i + r.row.s2 * j

/-- The indices at which a row covers an offset. -/
def RegRow.at_ (w : RegRow) (off : Nat) : Option (Nat × Nat) :=
  if off < w.base then none
  else
    let d := off - w.base
    let i := if w.s1 = 0 then 0 else d / w.s1
    let e := d - w.s1 * i
    let j := if w.s2 = 0 then 0 else e / w.s2
    if i < w.c1 ∧ j < w.c2 ∧ w.s1 * i + w.s2 * j = d then some (i, j) else none

/-- The register at an offset, searched in a list. -/
def findIn (off : Nat) : List Reg → Option (Reg × Nat × Nat)
  | [] => none
  | r :: l => match r.row.at_ off with
    | some ij => some (r, ij)
    | none => findIn off l

/-- The register at an offset. -/
def findReg (off : Nat) : Option (Reg × Nat × Nat) :=
  if off % 4 = 0 then findIn off (windowOf off).2 else none

/-! ### Reset values -/

/-- Reset value of DQ_RING_CFG[i]: log2size 4, role i, and cq, prio, dir of the role (R134, R157). -/
def ringCfgReset (i : Nat) : Nat :=
  let cq := nth [1, 0, 1, 0, 5, 0, 0, 0, 1, 0, 1, 0, 13, 0, 1, 0] i 0
  let prio := nth [1, 1, 0, 2, 3, 3, 3, 2, 2, 2, 0, 0, 1, 1, 1, 2] i 0
  let dir := if i % 2 = 1 ∨ i = 6 then 1 else 0
  4 + i * 2 ^ 12 + dir * 2 ^ 20 + prio * 2 ^ 22 + cq * 2 ^ 24

/-- Reset value of register element [i][j]. -/
def Reg.resetAt (r : Reg) (i _j : Nat) : Nat :=
  match r with
  | .dqRingCfg => ringCfgReset i
  | .wchCfg => ((sources.find? (fun x => x.1 = i)).map Prod.snd).getD 0
  | .msixTable => if _j = 3 then 1 else 0
  | .ptpMacHi => 0x0200
  | _ => r.row.reset

/-- Reset value of the word at an offset. -/
def regReset (off : Nat) : Word :=
  match findReg off with
  | some (r, i, j) => word (r.resetAt i j)
  | none => 0

/-! ### The register file -/

/-- The stored word of register element [i][j]. -/
def State.reg (s : State) (r : Reg) (i : Nat := 0) (j : Nat := 0) : Word :=
  tget regReset s.regs (r.addr i j)

/-- A field of a stored register. -/
def State.rf (s : State) (r : Reg) (i hi lo : Nat) : Nat := fld (s.reg r i) hi lo

/-- A bit of a stored register. -/
def State.rb (s : State) (r : Reg) (i n : Nat) : Bool := bit (s.reg r i) n

/-- Stores a word. -/
def State.setReg (s : State) (r : Reg) (i : Nat) (v : Word) (j : Nat := 0) : State :=
  { s with regs := tput regReset s.regs (r.addr i j) v }

/-- Stores a field [hi:lo] of a register. -/
def State.setRf (s : State) (r : Reg) (i hi lo v : Nat) : State := s.setReg r i (wfld (s.reg r i) hi lo v)

/-- Sets one bit of a register. -/
def State.setRb (s : State) (r : Reg) (i n : Nat) (b : Bool) : State := s.setRf r i n n (b2n b)

/-- Adds to a counting field, saturating. -/
def State.bump (s : State) (r : Reg) (i hi lo : Nat) (k : Nat := 1) : State :=
  s.setRf r i hi lo (satAdd (2 ^ (hi + 1 - lo) - 1) (s.rf r i hi lo) k)

/-- The registers the AON island retains (R78, R104, R380). -/
def retained (off : Nat) : Bool :=
  off = Reg.clkRefCtrl.addr || (Reg.pllABand.addr ≤ off && off < Reg.pllABand.addr 16) ||
  off = Reg.sysResetCause.addr || off = Reg.lnkRetireInitLo.addr || off = Reg.lnkRetireInitHi.addr

/-- The DQ window (R83). -/
def dqWindow (off : Nat) : Bool := 0x3000 ≤ off && off < 0x4000

end Sys2Proof.Machine
end

