-- ==== Sys2Proof/Machine/Ops.lean ====
section
/-! DEFINITION. Updates of one part of the state, time (R158 to R163), PLL-B catch-up (R73, R74), host memory. -/

namespace Sys2Proof.Machine

/-! ### Updates of one part of the state -/

/-- Changes `clk` alone. -/
def State.modClk (s : State) (f : Clk → Clk) : State := { s with clk := f s.clk }
/-- Changes `sec` alone. -/
def State.modSec (s : State) (f : Sec → Sec) : State := { s with sec := f s.sec }
/-- Changes `mode` alone. -/
def State.modMode (s : State) (f : Mode → Mode) : State := { s with mode := f s.mode }
/-- Changes `host` alone. -/
def State.modHostIf (s : State) (f : HostIf → HostIf) : State := { s with host := f s.host }
/-- Changes `tim` alone. -/
def State.modTim (s : State) (f : Tim → Tim) : State := { s with tim := f s.tim }
/-- Changes `bell` alone. -/
def State.modBell (s : State) (f : Bell → Bell) : State := { s with bell := f s.bell }
/-- Changes `gce` alone. -/
def State.modGce (s : State) (f : Gce → Gce) : State := { s with gce := f s.gce }
/-- Changes `adc` alone. -/
def State.modAdc (s : State) (f : Adc → Adc) : State := { s with adc := f s.adc }
/-- Changes `fad` alone. -/
def State.modFad (s : State) (f : Fad → Fad) : State := { s with fad := f s.fad }
/-- Changes `mill` alone. -/
def State.modMill (s : State) (f : Mill → Mill) : State := { s with mill := f s.mill }
/-- Changes `pair` alone. -/
def State.modPair (s : State) (f : Pair → Pair) : State := { s with pair := f s.pair }
/-- Changes `cap` alone. -/
def State.modCap (s : State) (f : Cap → Cap) : State := { s with cap := f s.cap }
/-- Changes `pmu` alone. -/
def State.modPmu (s : State) (f : Pmu → Pmu) : State := { s with pmu := f s.pmu }
/-- Changes `saf` alone. -/
def State.modSaf (s : State) (f : Saf → Saf) : State := { s with saf := f s.saf }
/-- Changes `wch` alone. -/
def State.modWch (s : State) (f : Wch → Wch) : State := { s with wch := f s.wch }
/-- Changes `book` alone. -/
def State.modBook (s : State) (f : Book → Book) : State := { s with book := f s.book }
/-- Changes `thm` alone. -/
def State.modThm (s : State) (f : Thm → Thm) : State := { s with thm := f s.thm }
/-- Element of `ports`. -/
def State.port (s : State) (k : Nat) : Port := tget (fun _ => Port.reset) s.ports k
/-- Changes one element of `ports`. -/
def State.modPort (s : State) (k : Nat) (f : Port → Port) : State :=
  { s with ports := tput (fun _ => Port.reset) s.ports k (f (s.port k)) }
/-- Element of `health`. -/
def State.health1 (s : State) (k : Nat) : Health := tget (fun _ => Health.reset) s.health k
/-- Changes one element of `health`. -/
def State.modHealth1 (s : State) (k : Nat) (f : Health → Health) : State :=
  { s with health := tput (fun _ => Health.reset) s.health k (f (s.health1 k)) }
/-- Element of `rings`. -/
def State.ring (s : State) (k : Nat) : Ring := tget (fun _ => Ring.reset) s.host.rings k
/-- Changes one element of `rings`. -/
def State.modRing (s : State) (k : Nat) (f : Ring → Ring) : State :=
  { s with host := { s.host with rings := tput (fun _ => Ring.reset) s.host.rings k (f (s.ring k)) } }
/-- Element of `ports`. -/
def State.sta (s : State) (k : Nat) : StaPort := tget (fun _ => StaPort.reset) s.tim.ports k
/-- Changes one element of `ports`. -/
def State.modSta (s : State) (k : Nat) (f : StaPort → StaPort) : State :=
  { s with tim := { s.tim with ports := tput (fun _ => StaPort.reset) s.tim.ports k (f (s.sta k)) } }
/-- Element of `groups`. -/
def State.grp (s : State) (k : Nat) : Grp := tget (fun _ => Grp.reset) s.gce.groups k
/-- Changes one element of `groups`. -/
def State.modGrp (s : State) (k : Nat) (f : Grp → Grp) : State :=
  { s with gce := { s.gce with groups := tput (fun _ => Grp.reset) s.gce.groups k (f (s.grp k)) } }
/-- Element of `pairs`. -/
def State.pst (s : State) (k : Nat) : PairSt := tget (fun _ => PairSt.reset) s.gce.pairs k
/-- Changes one element of `pairs`. -/
def State.modPst (s : State) (k : Nat) (f : PairSt → PairSt) : State :=
  { s with gce := { s.gce with pairs := tput (fun _ => PairSt.reset) s.gce.pairs k (f (s.pst k)) } }
/-- Element of `lines`. -/
def State.line (s : State) (k : Nat) : DelayLine := tget (fun _ => DelayLine.reset) s.gce.lines k
/-- Changes one element of `lines`. -/
def State.modLine (s : State) (k : Nat) (f : DelayLine → DelayLine) : State :=
  { s with gce := { s.gce with lines := tput (fun _ => DelayLine.reset) s.gce.lines k (f (s.line k)) } }
/-- Element of `sw`. -/
def State.sw (s : State) (k : Nat) : Sw := tget (fun _ => Sw.reset) s.leg.sw k
/-- Changes one element of `sw`. -/
def State.modSw (s : State) (k : Nat) (f : Sw → Sw) : State :=
  { s with leg := { s.leg with sw := tput (fun _ => Sw.reset) s.leg.sw k (f (s.sw k)) } }
/-- Element of `lg`. -/
def State.lg (s : State) (k : Nat) : Lg := tget (fun _ => Lg.reset) s.leg.lg k
/-- Changes one element of `lg`. -/
def State.modLg (s : State) (k : Nat) (f : Lg → Lg) : State :=
  { s with leg := { s.leg with lg := tput (fun _ => Lg.reset) s.leg.lg k (f (s.lg k)) } }
/-- Element of `cal`. -/
def State.acal (s : State) (k : Nat) : Cal := tget (fun _ => Cal.reset) s.adc.cal k
/-- Changes one element of `cal`. -/
def State.modAcal (s : State) (k : Nat) (f : Cal → Cal) : State :=
  { s with adc := { s.adc with cal := tput (fun _ => Cal.reset) s.adc.cal k (f (s.acal k)) } }
/-- Element of `res`. -/
def State.ares (s : State) (k : Nat) : ConvRes := tget (fun _ => ConvRes.reset) s.adc.res k
/-- Changes one element of `res`. -/
def State.modAres (s : State) (k : Nat) (f : ConvRes → ConvRes) : State :=
  { s with adc := { s.adc with res := tput (fun _ => ConvRes.reset) s.adc.res k (f (s.ares k)) } }
/-- Element of `avg`. -/
def State.aavg (s : State) (k : Nat) : Avg := tget (fun _ => Avg.reset) s.adc.avg k
/-- Changes one element of `avg`. -/
def State.modAavg (s : State) (k : Nat) (f : Avg → Avg) : State :=
  { s with adc := { s.adc with avg := tput (fun _ => Avg.reset) s.adc.avg k (f (s.aavg k)) } }
/-- Element of `cal`. -/
def State.fcal (s : State) (k : Nat) : Cal := tget (fun _ => Cal.reset) s.fad.cal k
/-- Changes one element of `cal`. -/
def State.modFcal (s : State) (k : Nat) (f : Cal → Cal) : State :=
  { s with fad := { s.fad with cal := tput (fun _ => Cal.reset) s.fad.cal k (f (s.fcal k)) } }
/-- Element of `res`. -/
def State.fres (s : State) (k : Nat) : ConvRes := tget (fun _ => ConvRes.reset) s.fad.res k
/-- Changes one element of `res`. -/
def State.modFres (s : State) (k : Nat) (f : ConvRes → ConvRes) : State :=
  { s with fad := { s.fad with res := tput (fun _ => ConvRes.reset) s.fad.res k (f (s.fres k)) } }
/-- Element of `tasks`. -/
def State.task (s : State) (k : Nat) : MTask := tget (fun _ => MTask.reset) s.mill.tasks k
/-- Changes one element of `tasks`. -/
def State.modTask (s : State) (k : Nat) (f : MTask → MTask) : State :=
  { s with mill := { s.mill with tasks := tput (fun _ => MTask.reset) s.mill.tasks k (f (s.task k)) } }
/-- Element of `units`. -/
def State.unit (s : State) (k : Nat) : CapUnit := tget (fun _ => CapUnit.reset) s.cap.units k
/-- Changes one element of `units`. -/
def State.modUnit (s : State) (k : Nat) (f : CapUnit → CapUnit) : State :=
  { s with cap := { s.cap with units := tput (fun _ => CapUnit.reset) s.cap.units k (f (s.unit k)) } }
/-- Element of `atrg`. -/
def State.atrg (s : State) (k : Nat) : Atrg := tget (fun _ => Atrg.reset) s.cap.atrg k
/-- Changes one element of `atrg`. -/
def State.modAtrg (s : State) (k : Nat) (f : Atrg → Atrg) : State :=
  { s with cap := { s.cap with atrg := tput (fun _ => Atrg.reset) s.cap.atrg k (f (s.atrg k)) } }
/-- Element of `seqs`. -/
def State.seqe (s : State) (k : Nat) : SeqE := tget (fun _ => SeqE.reset) s.cap.seqs k
/-- Changes one element of `seqs`. -/
def State.modSeqe (s : State) (k : Nat) (f : SeqE → SeqE) : State :=
  { s with cap := { s.cap with seqs := tput (fun _ => SeqE.reset) s.cap.seqs k (f (s.seqe k)) } }
/-- Element of `tws`. -/
def State.tw (s : State) (k : Nat) : Tw := tget (fun _ => Tw.reset) s.cap.tws k
/-- Changes one element of `tws`. -/
def State.modTw (s : State) (k : Nat) (f : Tw → Tw) : State :=
  { s with cap := { s.cap with tws := tput (fun _ => Tw.reset) s.cap.tws k (f (s.tw k)) } }
/-- Element of `cons`. -/
def State.cons (s : State) (k : Nat) : Cons := tget (fun _ => Cons.reset) s.saf.cons k
/-- Changes one element of `cons`. -/
def State.modCons (s : State) (k : Nat) (f : Cons → Cons) : State :=
  { s with saf := { s.saf with cons := tput (fun _ => Cons.reset) s.saf.cons k (f (s.cons k)) } }
/-- Element of `sensors`. -/
def State.sensor (s : State) (k : Nat) : Sensor := tget (fun _ => Sensor.reset) s.thm.sensors k
/-- Changes one element of `sensors`. -/
def State.modSensor (s : State) (k : Nat) (f : Sensor → Sensor) : State :=
  { s with thm := { s.thm with sensors := tput (fun _ => Sensor.reset) s.thm.sensors k (f (s.sensor k)) } }
/-- Element of `outs`. -/
def State.out (s : State) (k : Nat) : PllOut := tget (fun _ => PllOut.reset) s.clk.outs k
/-- Changes one element of `outs`. -/
def State.modOut (s : State) (k : Nat) (f : PllOut → PllOut) : State :=
  { s with clk := { s.clk with outs := tput (fun _ => PllOut.reset) s.clk.outs k (f (s.out k)) } }
/-- Element of `tags`. -/
def State.tag (s : State) (k : Nat) : Tag := tget (fun _ => Tag.reset) s.mill.tags k
/-- Changes one element of `tags`. -/
def State.modTag (s : State) (k : Nat) (f : Tag → Tag) : State :=
  { s with mill := { s.mill with tags := tput (fun _ => Tag.reset) s.mill.tags k (f (s.tag k)) } }

/-! ### The local count -/

/-- The root runs and is released (R54, R84): the local count advances. -/
def State.released (s : State) : Bool :=
  match s.clk.phase with
  | .booting | .bootFailed | .running => true
  | _ => false

/-- The firmware runs (R84 step 8). -/
def State.up (s : State) : Bool := s.clk.phase = .running

/-- Passes the rising edges of a PLL-B output up to an instant, in 1/32 ns (R73, R74): the first |target - phase|
periods are one unit longer or shorter, the rest are 8 × div; the phase moves at the edge that opens a changed period (DESIGN
CHOICE, log entry 113). -/
def PllOut.catchUp (o : PllOut) (period : Nat) (target : Int) (now32 : Nat) : PllOut :=
  if now32 < o.edge || period = 0 then o
  else
    let d := target - o.phase
    let q := if d < 0 then period - 1 else period + 1
    let k := min ((now32 - o.edge) / q + 1) d.natAbs
    let e := o.edge + k * q
    let p := if d < 0 then o.phase - (k : Int) else o.phase + (k : Int)
    let e' := if now32 < e then e else e + ((now32 - e) / period + 1) * period
    { o with edge := e', phase := p }

/-- Spread is on (R76, R80: 0b11 acts as off). -/
def spreadOn (w : Word) : Bool := fld w 30 29 = 1 || fld w 30 29 = 2

/-- R76: the frequency of an output with spread in parts of 12,800,000 of 4,000 MHz ÷ div at a tick: a triangle of 31.25 kHz from
f down to f × (1 - d), or over f × (1 ± d/2), with d = (depth + 1)/400. -/
def PllOut.spreadFreq (o : PllOut) (w : Word) (now : Nat) : Int :=
  let x := (o.tri + now) % 32000
  let h := if x < 16000 then x else 32000 - x
  let d := fld w 28 26 + 1
  if fld w 30 29 = 1 then 12800000 - 2 * (d * h : Nat)
  else if fld w 30 29 = 2 then 12800000 + (d : Int) * (16000 - 2 * (h : Int))
  else 12800000

/-- The longest period of a modulated output in 1/32 ns: f × (1 - d) is the least frequency. -/
def spreadPeriod (w : Word) : Nat := 8 * fld w 11 0 * 400 / (399 - fld w 28 26) + 1

/-- A modulated output's next edge after an instant: open within a period, the phase holds (R76, DESIGN CHOICE, log entry 108). -/
def PllOut.spreadUp (o : PllOut) (w : Word) (now32 : Nat) : PllOut :=
  if now32 < o.edge then o else { o with edge := now32 + 1 + Config.sscEdge o.tri now32 % spreadPeriod w }

/-- Passes the edges of output j, unless it is stopped. -/
def State.catchUpOut (s : State) (j : Nat) : State :=
  let w := s.reg .pllBOut j
  if !(s.out j).running then s
  else if spreadOn w then s.modOut j fun o => o.spreadUp w (32 * s.clk.now)
  else s.modOut j fun o => o.catchUp (8 * fld w 11 0) (sx 32 (s.reg .pllBTarget j).toNat) (32 * s.clk.now)

/-- Sets the local count (DESIGN CHOICE, log entry 1): it never goes back, and stands still while the root is not released. -/
def State.tickTo (s : State) (t : Nat) : State :=
  if s.released then
    (((s.modClk fun c => { c with now := max c.now t }).catchUpOut 0).catchUpOut 1).catchUpOut 2
  else s

/-- The core cycle of a tick: the even count at or before it. -/
def coreCycle (t : Nat) : Nat := t - t % 2

/-! ### Time -/

/-- T of a stamp in 1/32 ns units (R159). -/
def Tim.timeOf (m : Tim) (stamp : Int) : Nat :=
  (((m.offset : Int) + stamp + stamp * m.rate / 2 ^ 48) % 2 ^ 96).toNat

/-- T of a whole tick. -/
def State.timeAt (s : State) (c : Nat) : Nat := s.tim.timeOf (32 * (c : Int))

/-- The four words of TS128 (R162). -/
def tsWords (T : Nat) : List Word :=
  let sec := T / 32000000000
  [word sec, word (sec / 2 ^ 32), word (T % 32000000000 / 32), word (T % 32 * 2 ^ 27)]

/-- TS128 as it lies in memory. -/
def tsBytes (T : Nat) : Bytes := (tsWords T).flatMap fun w => le 4 w.toNat

/-- T of four TS128 words, fraction bits [26:0] read as 0 (R164). -/
def tsValue (w : List Word) : Nat :=
  ((nth w 0 0).toNat + (nth w 1 0).toNat * 2 ^ 32) * 32000000000 + (nth w 2 0).toNat * 32 + fld (nth w 3 0) 31 27

/-! ### Host memory: what the device has written -/

/-- The form of a memory list: addresses strictly rising, no byte equal to what an unlisted address reads as. -/
def Memory.wf : List Host.Cell → Bool
  | [] => true
  | [(_, b)] => b != 0
  | (a, b) :: (a', b') :: r => b != 0 && (a < a' && Memory.wf ((a', b') :: r))

/-- A byte of host memory as the device last wrote it; 0 where it has written nothing. -/
def State.hostByte (s : State) (a : Nat) : Byte := tget (fun _ => 0) s.hostMem a

/-- Writes one byte. -/
def memPut (m : List Host.Cell) (a : Nat) (b : Byte) : List Host.Cell := tput (fun _ => 0) m a b

/-- Writes bytes from an address up. -/
def memWrite (m : List Host.Cell) (a : Nat) : Bytes → List Host.Cell
  | [] => m
  | b :: r => memWrite (memPut m a b) (a + 1) r

/-- The pieces of a transfer: none larger than a limit (R129), none across 4 KiB (PRESUMED, PCI Express, log entry 115). -/
def splitReq (limit : Nat) : Nat → Nat → Nat → List (Nat × Nat)
  | 0, _, _ => []
  | f + 1, a, n =>
    if n = 0 then []
    else
      let k := min n (min (max 1 limit) (4096 - a % 4096))
      (a, k) :: splitReq limit f (a + k) (n - k)

/-- Issues the memory requests of a transfer, without Relaxed Ordering, ID-Based Ordering and No Snoop (R129). -/
def State.issue (s : State) (write : Bool) (limit a n : Nat) : State :=
  { s with reqs := ((splitReq limit n a n).map fun e => ⟨write, e.1, e.2, false, false, false⟩).reverse ++ s.reqs }

/-- A DMA write to host memory. -/
def State.hostWrite (s : State) (a : Nat) (b : Bytes) : State :=
  { s with hostMem := memWrite s.hostMem a b, reqs := (s.issue true s.host.mps a b.length).reqs }

/-- A DMA read from host memory; what it returns comes with the command. -/
def State.hostRead (s : State) (a n : Nat) : State := s.issue false s.host.mrrs a n

/-! ### The lock -/

/-- SYS_LOCK is set (R102). -/
def State.locked (s : State) : Bool := s.rb .sysLock 0 0

/-! ### Free values and raw event bits -/

/-- Takes a free value (DESIGN CHOICE, log entry 5). -/
def State.free (s : State) : Word × State := (Config.freeValue s.freeCtr, { s with freeCtr := s.freeCtr + 1 })

/-- Sets bit b of a unit's event register. -/
def State.setEvent (s : State) (r : Reg) (b : Nat) : State := s.setRb r 0 b true

/-! ### What the variant has -/

def State.var (s : State) : Variant := s.clk.variant
def State.hasPort (s : State) (p : Nat) : Bool := portOk s.var p
def State.hasPair (s : State) (m : Nat) : Bool := pairOk s.var m
def State.hasChannel (s : State) (h : Nat) : Bool := channelOk s.var h
def State.hasCap (s : State) : Bool := s.var.hasCap
def State.hasPeer (s : State) : Bool := s.var.hasPair

/-- Folds an update over a list of indices. -/
def State.forAll (s : State) (l : List Nat) (f : Nat → State → State) : State := l.foldl (fun s i => f i s) s

/-- Applies an update when a condition holds. -/
def State.iff (s : State) (c : Bool) (f : State → State) : State := if c then f s else s

end Sys2Proof.Machine
end

