-- ==== Sys2Proof/Machine/Rings.lean ====
section
/-! DEFINITION. The ring engine (R134 to R156): descriptors, reservation, completions in order, records, the shadow
block, MSI-X. -/

namespace Sys2Proof.Machine

/-! ### Configuration of a ring -/

def State.ringRole (s : State) (i : Nat) : Nat := s.rf .dqRingCfg i 15 12
def State.ringCq (s : State) (i : Nat) : Nat := s.rf .dqRingCfg i 27 24
/-- Entries of ring i. -/
def State.ringSize (s : State) (i : Nat) : Nat := 2 ^ s.rf .dqRingCfg i 3 0
/-- Host address of ring i. -/
def State.ringBase (s : State) (i : Nat) : Nat :=
  (s.reg .dqRingBaseLo i).toNat + 2 ^ 32 * (s.reg .dqRingBaseHi i).toNat
/-- Host address of the data area of ring i. -/
def State.ringData (s : State) (i : Nat) : Nat :=
  (s.reg .dqRingDataLo i).toNat + 2 ^ 32 * (s.reg .dqRingDataHi i).toNat
/-- Size of the data area: 0 when there is none. -/
def State.ringDataSize (s : State) (i : Nat) : Nat :=
  let n := s.rf .dqRingDataSize i 4 0
  if 12 ≤ n ∧ n ≤ 26 then 2 ^ n else 0

/-- Roles that take descriptors (R134). -/
def submitRole (r : Nat) : Bool := r = 0 || r = 2 || r = 4 || r = 8 || r = 10 || r = 12 || r = 14
/-- Roles whose ring carries completions of submit rings. -/
def complRole (r : Nat) : Bool := r = 1 || r = 5 || r = 13

/-- The ring that holds a role and is not Disabled. -/
def State.roleRing (s : State) (role : Nat) : Option Nat :=
  (List.range 16).find? fun i => (s.ring i).state != 0 && s.ringRole i = role

/-- The Running ring that holds a role. -/
def State.runningRing (s : State) (role : Nat) : Option Nat :=
  (List.range 16).find? fun i => (s.ring i).state = 1 && s.ringRole i = role

/-- The device may issue memory requests (R130). -/
def State.canDma (s : State) : Bool := s.host.bme && !s.host.d3 && !s.host.stalled

/-- Unconsumed entries of a stream ring (R138). -/
def Ring.unconsumed (r : Ring) : Nat := (r.dev + 65536 - r.host) % 65536

/-- Entries of a stream ring that are free and not reserved (R148, R150). -/
def State.freeEntries (s : State) (i : Nat) : Nat :=
  s.ringSize i - (s.ring i).unconsumed - (s.ring i).reserved

/-! ### MSI-X (R156) -/

/-- The message of a vector may go out (R130, R156; MSI-X Enable and Function Mask as PCI Express has them). -/
def State.msixOpen (s : State) (v : Nat) : Bool := s.canDma && s.host.msixEn && !s.host.msixMask && !bit (s.reg .msixTable v 3) 0

/-- Sends or holds the message of a vector: masked or without bus mastering it sets its PBA bit. -/
def State.signal (s : State) (v : Nat) : State :=
  if s.msixOpen v then
    s.modHostIf fun h => { h with msix := v :: h.msix, pba := nset h.pba v false }
  else s.modHostIf fun h => { h with pba := nset h.pba v true }

/-- Sends the held messages whose vector is not masked. -/
def State.sendHeld (s : State) : State :=
  s.forAll (List.range 17) fun v s => s.iff (nbit s.host.pba v && s.msixOpen v) (·.signal v)

/-! ### Shadow block (R139 to R141) -/

/-- The shadow block without its poll count: ring words and the error map. -/
def State.shadowKey (s : State) : Bytes :=
  ((List.range 16).flatMap fun i => le 4 ((s.ring i).host * 65536 + (s.ring i).dev)) ++
  le 4 (maskOf 16 fun i => (s.ring i).state = 3)

/-- Ring vectors after a shadow write that advanced their device index (R156). -/
def State.ringVectors (s : State) : State :=
  s.forAll (List.range 16) fun i s =>
    let r := s.ring i
    if r.state = 0 || r.dev = r.shown then s
    else
      let want := s.rb .dqRingCfg i 21 && (!submitRole (s.ringRole i) || r.wantIrq)
      (s.modRing i fun r => { r with shown := r.dev, wantIrq := false }).iff want (·.signal i)

/-- Writes the shadow block and signals the ring vectors. -/
def State.shadowWrite (s : State) : State :=
  let k := s.shadowKey
  let a := (s.reg .dqShAddrLo).toNat + 2 ^ 32 * (s.reg .dqShAddrHi).toNat
  let b := k.take 64 ++ le 4 s.clk.now ++ k.drop 64 ++ zeros 56
  ((s.hostWrite a b).modHostIf fun h => { h with shadow := k }).ringVectors

/-! ### Completions -/

/-- A completion's 16 bytes (R146). -/
def complBytes (tag ring status idx op flags value len : Nat) : Bytes :=
  le 2 tag ++ le 1 ring ++ le 1 status ++ le 2 idx ++ le 1 op ++ le 1 flags ++ le 4 value ++ le 4 len

/-- Writes the next entry of a stream ring. -/
def State.putEntry (s : State) (i : Nat) (b : Bytes) : State :=
  let r := s.ring i
  (s.hostWrite (s.ringBase i + 16 * (r.dev % s.ringSize i)) b).modRing i fun r =>
    { r with dev := (r.dev + 1) % 65536, wrote := min 4096 (r.wrote + 1) }

/-- Writes waiting notices while entries are free (R427). -/
def State.putWaiting (s : State) (i : Nat) : Nat → State
  | 0 => s
  | n + 1 =>
    match (s.ring i).waiting with
    | [] => s
    | b :: r =>
      if s.canDma && (s.ring i).state = 1 && 0 < s.freeEntries i then
        ((s.putEntry i b).modRing i fun x => { x with waiting := r }).putWaiting i n
      else s

/-! ### Descriptors -/

/-- Reads a descriptor (R142, R143). -/
def parseDesc (b : Bytes) : Desc :=
  ⟨lef b 0 1, lef b 1 1, lef b 2 2, lef b 4 4, lef b 8 8, lef b 16 4, lef b 20 4, b⟩

/-- Opcodes of each role (R144, R145, R183, R346, R125, R492, R381, R406, R425, R179, R468, R214, R98). -/
def roleOps (role : Nat) : List Nat :=
  match role with
  | 0 => [0x00, 0x01, 0x10, 0x11, 0x20, 0x21, 0x22, 0x28, 0x29, 0x30, 0x31, 0x38]
  | 2 => [0x01]
  | 4 => [1, 2, 3, 4, 5]
  | 8 => [1]
  | 10 => [1]
  | 12 => [1, 2, 3]
  | 14 => [1, 2, 3, 4, 5, 6]
  | _ => []

/-- A field that the command's layout wants 0 is not 0 (R142; DEDUCED, log entry 20). -/
def badFields (role : Nat) (d : Desc) : Bool :=
  let rest := d.buf != 0 || d.len != 0 || d.arg2 != 0
  match role, d.op with
  | 0, 0x01 => d.arg / 8 != 0 || rest
  | 0, 0x30 | 0, 0x31 => d.arg / 128 != 0 || rest
  | 0, 0x38 => d.arg != 0 || rest
  | 0, 0x10 => d.arg = 0 || 128 < d.arg
  | 0, 0x21 => d.arg / 65536 != 0
  | 4, _ => d.arg / 8 != 0
  | 10, _ => d.arg / 8 != 0 || d.arg2 / 256 != 0 || d.len < 64
  | 12, 1 => d.arg / 64 != 0 || d.arg2 != 0
  | 12, 2 => d.arg / 64 != 0 || d.arg2 / 65536 != 0
  | 12, _ => d.arg / 64 != 0 || d.arg2 / 2 ^ 18 != 0
  | _, _ => false

/-- The status with which a descriptor ends as it starts, if it does (R142, R147). -/
def State.startStatus (s : State) (role : Nat) (d : Desc) : Option Nat :=
  if d.flags / 4 != 0 then some 0x84
  else if role != 2 && (lef d.raw 24 8 != 0 || d.buf % 64 != 0 || d.len % 64 != 0) then some 0x84
  else if !(roleOps role).contains d.op then some 0x80
  else if badFields role d then some 0x84
  else if role = 0 && d.op = 0x38 && !s.hasPeer then some 0x83
  else if role = 0 && (d.op = 0x30 || d.op = 0x31) && !s.hasChannel d.arg then some 0x83
  else if role = 12 && !s.hasPort (d.arg % 64) then some 0x83
  else none

/-- A descriptor is finished: its completion waits for its turn (R148, R154). -/
def State.markDone (s : State) (i idx : Nat) (c : Compl) : State :=
  (s.modRing i fun r =>
    { r with acts := replFirst (fun a => a.idx = idx) (fun a => { a with st := .done c }) r.acts, moved := nput r.moved idx 0 }).modHostIf
    fun h => { h with finished := h.finished ++ [(i, idx)] }

/-- Writes out the descriptor at the head of ring i, finished with c: its completion if it owes one (R148), its index. -/
def State.flushHead (s : State) (i idx : Nat) (d : Desc) (c : Compl) (rest : List Act) : State :=
  let q := s.ringCq i
  let s := (s.modRing q fun r => { r with reserved := r.reserved - 1 }).modHostIf fun h =>
    { h with finished := delFirst (fun e => e = (i, idx)) h.finished }
  let s := s.iff ((nbit d.flags 0 || c.status != 0) && (s.ring q).state = 1)
    (·.putEntry q (complBytes d.tag i c.status idx d.op 0 c.value c.length))
  s.modRing i fun r => { r with acts := rest, dev := (idx + 1) % 65536, wantIrq := r.wantIrq || nbit d.flags 1 }

/-- Writes out the finished descriptors at the head of ring i, oldest first (R148). -/
def State.flushActs (s : State) (i : Nat) : Nat → State
  | 0 => s
  | n + 1 =>
    match (s.ring i).acts with
    | ⟨idx, d, .done c⟩ :: rest => if !s.canDma then s else (s.flushHead i idx d c rest).flushActs i n
    | _ => s

/-- Starts queued descriptors in order, one reserved entry of the cq each (R148). -/
def State.startActs (s : State) (i : Nat) : Nat → State
  | 0 => s
  | n + 1 =>
    match (s.ring i).queue with
    | [] => s
    | (idx, d) :: rest =>
      let q := s.ringCq i
      if (s.ring i).state = 1 && (s.ring q).state = 1 && 0 < s.freeEntries q then
        let s := (s.modRing q fun r => { r with reserved := r.reserved + 1 }).modRing i fun r =>
          { r with queue := rest, acts := r.acts ++ [⟨idx, d, .waiting⟩] }
        (match s.startStatus (s.ringRole i) d with
          | some c => s.markDone i idx ⟨c, 0, 0⟩
          | none => s).startActs i n
      else s

/-- A ring that becomes Disabled: indices 0, nothing held, the error code kept (R151, R152). -/
def Ring.disabled (r : Ring) : Ring := { Ring.reset with error := r.error, dropped := r.dropped, reserved := r.reserved }

/-- A Stopping ring with nothing in execution makes its final shadow write and is Disabled; one in Error makes the write and
holds (R151). -/
def State.endStop (s : State) (i : Nat) : State :=
  let r := s.ring i
  if r.acts.isEmpty && s.canDma then
    if r.state = 2 then s.shadowWrite.modRing i Ring.disabled
    else if r.state = 3 && !r.held then s.shadowWrite.modRing i fun r => { r with held := true }
    else s
  else s

/-- Moves ring i on: finished descriptors out, queued ones in. -/
def State.pump (s : State) (i : Nat) : State :=
  let s := s.flushActs i (s.ring i).acts.length
  let s := s.startActs i (s.ring i).queue.length
  (s.flushActs i (s.ring i).acts.length).endStop i

/-- Ends descriptor idx of ring i. -/
def State.finishAct (s : State) (i idx : Nat) (c : Compl) : State := (s.markDone i idx c).pump i

/-- Marks descriptor idx of ring i as in execution. -/
def State.holdAct (s : State) (i idx : Nat) : State :=
  s.modRing i fun r =>
    { r with acts := replFirst (fun a => a.idx = idx) (fun a => { a with st := .executing }) r.acts }

/-- Ends a descriptor with a status and a value. -/
def State.ends (s : State) (i k status : Nat) (value : Nat := 0) (len : Nat := 0) : State :=
  s.finishAct i k ⟨status, value % 2 ^ 32, len⟩

/-- Reads n bytes of a descriptor's buffer: while memory requests are held the command waits, an error ends it with 0x81 (R129, R130,
R147). -/
def State.readBuf (s : State) (i k addr n : Nat) (buf : Option Bytes) (f : Bytes → State → State) : State :=
  if !s.canDma then s
  else match buf with
  | none => (s.hostRead addr n).ends i k 0x81
  | some b => f b (s.hostRead addr n)

/-- A descriptor ends with a write to its buffer: on a ring that left Running the transfer ends at this request with status 0x82 and
the bytes written so far (R151); while memory requests are held it waits (R130). -/
def State.bufEnd (s : State) (i idx a : Nat) (b : Bytes) (c : Compl) : State :=
  if !s.canDma then (s.holdAct i idx).modHostIf fun h => { h with bufs := h.bufs ++ [⟨i, idx, a, b, c⟩] }
  else if (s.ring i).state = 1 then (s.hostWrite a b).finishAct i idx c
  else s.finishAct i idx ⟨0x82, 0, nget (s.ring i).moved idx⟩

/-- The buffer writes that waited go out, oldest first. -/
def State.bufsOut (s : State) : State :=
  if s.canDma then
    s.host.bufs.foldl (fun (s : State) (w : BufW) => s.bufEnd w.ring w.idx w.addr w.bytes w.c) (s.modHostIf fun h => { h with bufs := [] })
  else s

/-! ### Arbitration (R154, R155) -/

def State.ringPrio (s : State) (i : Nat) : Nat := s.rf .dqRingCfg i 23 22

/-- Of the rings with a request ready (ascending) the one that goes next: the highest level, within it the rings in turn (R155). -/
def State.grantRing (s : State) (l : List Nat) : Option Nat :=
  let level := l.foldl (fun m i => min m (s.ringPrio i)) 4
  let c := l.filter fun i => s.ringPrio i = level
  (c.find? fun i => nget s.host.turns level ≤ i).or c.head?

/-- A ring has had its turn. -/
def State.hadTurn (s : State) (i : Nat) : State := s.modHostIf fun h => { h with turns := nput h.turns (s.ringPrio i) (i + 1) }

/-- The index of a finished descriptor at the head of ring i. -/
def State.headDone (s : State) (i : Nat) : Option Nat :=
  match (s.ring i).acts with
  | ⟨idx, _, .done _⟩ :: _ => some idx
  | _ => none

/-- Rings whose head may be written out now: of the rings that share a cq the one whose head finished first (R154). -/
def State.readyRings (s : State) : List Nat :=
  let heads := s.host.finished.filter fun e => s.headDone e.1 = some e.2
  (List.range 16).filter fun i =>
    (heads.find? fun e => s.ringCq e.1 = s.ringCq i).any fun e => e.1 = i

/-- Writes out finished descriptors of all rings, one request at a time, at most n. -/
def State.flushAll (s : State) : Nat → State
  | 0 => s
  | n + 1 =>
    if !s.canDma then s
    else match s.grantRing s.readyRings with
    | some i => ((s.flushActs i 1).hadTurn i).flushAll n
    | none => s

/-- Moves every ring on: notices and completions out, queued descriptors in. -/
def State.pumpAll (s : State) : State :=
  let s := s.bufsOut.forAll (List.range 16) fun i s => s.putWaiting i (s.ring i).waiting.length
  (s.flushAll s.host.finished.length).forAll (List.range 16) fun i s => s.pump i

/-! ### Descriptor reads (R129, R155) -/

/-- Descriptors in one read of ring i from an index on: at most min(Max_Read_Request_Size, 256) bytes, not across the ring's end. -/
def State.fetchChunk (s : State) (i from_ : Nat) : Nat :=
  min ((((s.ring i).host + 65536 - from_) % 65536)) (min (min s.host.mrrs 256 / 32) (s.ringSize i - from_ % s.ringSize i))

/-- The index up to which reads of ring i have been issued. -/
def State.issuedTo (s : State) (i : Nat) : Nat :=
  ((s.ring i).fetched + ((s.host.reads.filter fun e => e.1 = i).map Prod.snd).sum) % 65536

/-- Rings with descriptors to read. -/
def State.fetchRings (s : State) : List Nat :=
  (List.range 16).filter fun i => (s.ring i).state = 1 && submitRole (s.ringRole i) && (s.ring i).host != s.issuedTo i

/-- Issues descriptor reads in the order of R155, at most n; 64 may be outstanding (R128). -/
def State.issueReads (s : State) : Nat → State
  | 0 => s
  | n + 1 =>
    if !s.canDma || 64 ≤ s.host.reads.length then s
    else match s.grantRing s.fetchRings with
    | some i =>
      let a := s.issuedTo i
      let k := s.fetchChunk i a
      (((s.issue false (min s.host.mrrs 256) (s.ringBase i + 32 * (a % s.ringSize i)) (32 * k)).modHostIf fun h =>
        { h with reads := h.reads ++ [(i, k)] }).hadTurn i).issueReads n
    | none => s

/-- The read of ring i that completes next: its descriptors, and the state without it; one that was not issued yet is now. -/
def State.takeRead (s : State) (i : Nat) : Nat × State :=
  match s.host.reads.find? fun e => e.1 = i with
  | some e => (e.2, s.modHostIf fun h => { h with reads := delFirst (fun x => x.1 = i) h.reads })
  | none =>
    let a := (s.ring i).fetched
    let k := s.fetchChunk i a
    (k, (s.issue false (min s.host.mrrs 256) (s.ringBase i + 32 * (a % s.ringSize i)) (32 * k)).hadTurn i)

/-- Ends a descriptor of the ring with a role. -/
def State.finishRole (s : State) (role idx : Nat) (c : Compl) : State :=
  match s.roleRing role with
  | some i => s.finishAct i idx c
  | none => s

/-- Ends a descriptor of the ring with a role by a write to its buffer. -/
def State.roleEnd (s : State) (role idx a : Nat) (b : Bytes) (c : Compl) : State :=
  match s.roleRing role with
  | some i => s.bufEnd i idx a b c
  | none => s

/-- The descriptor a row of a role acts on: the oldest one of the role's ring that waits, if its opcode is the row's. -/
def State.turn (s : State) (role op : Nat) : Option (Nat × Nat × Desc) :=
  match s.roleRing role with
  | none => none
  | some i =>
    match (s.ring i).acts.find? (fun a => a.st = .waiting) with
    | some a => if a.desc.op = op then some (i, a.idx, a.desc) else none
    | none => none

/-- Runs a row on its descriptor (ring, index, descriptor); without one nothing happens. -/
def State.onTurn (s : State) (role op : Nat) (f : Nat → Nat → Desc → State → State) : State :=
  match s.turn role op with
  | some (i, k, d) => f i k d s
  | none => s

/-! ### Records (R149, R150) -/

/-- Where R149 places a record: offset and whether the tail was too short. -/
def placeRecord (size wp pad : Nat) (oldest : Option Nat) : Option (Nat × Bool) :=
  match oldest with
  | none => if pad ≤ size then some (0, false) else none
  | some o =>
    if o < wp then
      if wp + pad ≤ size then some (wp, false) else if pad ≤ o then some (0, true) else none
    else if wp + pad ≤ o then some (wp, false) else none

/-- A record of a role's ring: placed, or dropped and counted. -/
def State.emitRecord (s : State) (role kind : Nat) (b : Bytes) : State :=
  match s.runningRing role with
  | none => s
  | some i =>
    let r := s.ring i
    let pad := (b.length + 63) / 64 * 64
    match (if s.canDma && 0 < s.freeEntries i then
        placeRecord (s.ringDataSize i) r.wp pad (r.recs.head?.map Prod.snd) else none) with
    | none => s.modRing i fun r => { r with dropped := satAdd 0xFFFF r.dropped 1, seq := r.seq + 1 }
    | some (o, z) =>
      let s := s.hostWrite (s.ringData i + o) (padTo pad b)
      let s := s.modRing i fun r => { r with recs := r.recs ++ [(r.dev, o)], wp := o + pad, seq := r.seq + 1 }
      s.putEntry i (complBytes r.seq i 0 0 kind (if z then 3 else 1) o b.length)

/-- A completion outside the order of descriptors (R427), written when an entry of the cq is free. -/
def State.notice (s : State) (q : Nat) (b : Bytes) : State :=
  if (s.ring q).state = 1 then
    (s.modRing q fun r => { r with waiting := r.waiting ++ [b] }).putWaiting q ((s.ring q).waiting.length + 1)
  else s

end Sys2Proof.Machine
end

