-- ==== Sys2Proof/Machine/Watch.lean ====
section
/-! DEFINITION. The Watch (R473 to R479): raising a source, its record, the rate limiter (R484), the book's queue
(R485, R486), ring 7 (R491), interrupt, ERR_N. -/

namespace Sys2Proof.Machine

/-! ### Sources -/

/-- The unit bit of a source (R473), if it has one. -/
def unitEvent (src : Nat) : Option (Reg × Nat) :=
  let b := src % 32
  match src / 32 with
  | 0x02 => if b ≤ 4 then some (.clkEvent, b) else none
  | 0x06 => if b ≤ 4 then some (.lnkHlthEvent, b) else none
  | 0x07 => some (.gceEvent, b)
  | 0x08 => some (.legEvent, b)
  | 0x09 => some (.adcEvent, b)
  | 0x0A => if b ≤ 2 then some (.fadEvent, b) else none
  | 0x0B => some (.milEvent, b)
  | 0x0C => some (.capEvent, b)
  | 0x0D => if b ≤ 7 then some (.pairEvent, b) else none
  | 0x0E => some (.safEvent, b)
  | 0x10 => some (.bkEvent, b)
  | 0x11 => some (.thmEvent, b)
  | 0x12 => if b = 0 then some (.memStatus, 28) else if b = 1 then some (.memStatus, 29) else none
  | _ => none

/-- The health channel named by a raise of severity 3 (R476). -/
def degradeChannel (src idx : Nat) : Option Nat :=
  match src / 32, src % 32 with
  | 0x06, b => if 8 ≤ b && idx < 48 then some idx else none
  | 0x07, 0 => if idx < 48 then some idx else none
  | 0x0E, 3 => if idx < 48 then some idx else none
  | 0x08, 0 | 0x08, 1 => if 768 ≤ idx && idx < 800 then some (48 + (idx - 768) / 2) else none
  | 0x08, 2 => if idx < 16 then some (48 + idx) else none
  | 0x07, 1 => if idx < 32 then some (48 + idx / 2) else none
  | 0x08, 3 => if idx < 384 then some (idx / 8) else if idx < 400 then some (48 + idx - 384) else none
  | 0x09, 1 | 0x09, 2 => if idx < 32 then some (64 + idx) else none
  | 0x0A, 1 | 0x0A, 2 => if idx < 6 then some (96 + idx) else none
  | 0x0B, 3 | 0x0B, 4 =>
    if idx < 0x300 then some (idx / 16) else if idx < 0x320 then some (64 + idx - 0x300) else none
  | _, _ => none

/-- Severity in force, codes 6 and 7 as 5 (R474). -/
def State.severity (s : State) (src : Nat) : Nat := min 5 (s.rf .wchCfg src 2 0)

/-- WCH_LATCH bit of a source. -/
def State.latched (s : State) (src : Nat) : Bool := s.rb .wchLatch (src / 32) (src % 32)

/-- Some latch bit is set: only then are the sources searched. -/
def State.anyLatched (s : State) : Bool := s.regs.any fun e => 0x26040 ≤ e.1 && e.1 < 0x2608C

/-- The latched sources, ascending. -/
def State.latchedSources (s : State) : List Nat :=
  if s.anyLatched then (sources.map Prod.fst).filter s.latched else []

/-- The blocking set (R481), ascending. -/
def State.blocking (s : State) : List Nat :=
  s.latchedSources.filter fun n =>
    4 ≤ s.severity n ||
    (2 ≤ s.severity n && match s.mode.lastStop with
      | some c => c ≤ nget s.wch.raisedAt n
      | none => false)

/-- WCH_STATUS as it reads (R481). -/
def State.wchStatusWord (s : State) : Nat :=
  let l := s.latchedSources
  b2n (s.rb .wchStatus 0 31) * 2 ^ 31 + b2n (l.any fun n => s.severity n = 5) * 2 ^ 30 +
  b2n (l.any fun n => 4 ≤ s.severity n) * 2 ^ 29 + s.rf .wchStatus 0 25 16 * 2 ^ 16 + s.blocking.head?.getD 0x3FF

/-! ### Records -/

/-- T while time is set (R483). -/
def State.netNow (s : State) : Option Nat := if s.tim.quality = 0 then none else some (s.timeAt s.clk.now)

/-- A record's 64 bytes (R483). -/
def RaiseRec.bytes (r : RaiseRec) (seq : Nat) : Bytes :=
  let b := le 8 seq ++ le 2 r.src ++ le 1 r.sev ++ le 1 r.flags ++ le 2 r.index ++ le 1 r.mode ++ zeros 1 ++
    le 8 r.time ++ (match r.net with | some T => tsBytes T | none => zeros 16) ++ le 4 r.w0 ++ le 4 r.w1 ++ zeros 8 ++
    le 4 r.n
  b ++ le 4 (crc32c b)

/-- The same record under another sequence number. -/
def renumber (b : Bytes) (seq : Nat) : Bytes :=
  let c := le 8 seq ++ slice b 8 52
  c ++ le 4 (crc32c c)

/-- Tokens a bucket may hold (R484: 0 acts as 1). -/
def State.burst (s : State) : Nat := max 1 (s.rf .bkRate 0 7 0)

/-- One record against a bucket: whether it passes, and the bucket after. -/
def Bucket.take (b : Bucket) (burst : Nat) (r : RaiseRec) : Bool × Bucket :=
  let t := if b.used then b.tokens else burst
  if 0 < t then (true, { b with tokens := t - 1, used := true, full := 0 })
  else (false, { b with tokens := 0, used := true, full := 0, supp := b.supp + 1, sev := r.sev })

/-- The rate limiter (R484): whether the record passes. -/
def State.limit (s : State) (r : RaiseRec) : Bool × State :=
  if 4 ≤ r.sev || 2 ≤ r.flags then (true, s)
  else
    let mine := fun b : Bucket => b.src = r.src && b.index = r.index
    match s.book.buckets.find? mine with
    | some b =>
      let (ok, b') := b.take s.burst r
      (ok, s.modBook fun k => { k with buckets := replFirst mine (fun _ => b') k.buckets })
    | none =>
      if s.book.buckets.length < 256 then
        let (ok, b') := { Bucket.reset with src := r.src, index := r.index }.take s.burst r
        (ok, s.modBook fun k => { k with buckets := k.buckets ++ [b'] })
      else
        let (ok, b') := { s.book.overflow with src := 0x3FF, index := 0xFFFF }.take s.burst r
        (ok, s.modBook fun k => { k with overflow := b' })

/-- Adds a record to the batch of this step. -/
def State.record (s : State) (r : RaiseRec) : State := s.modWch fun w => { w with batch := w.batch ++ [r] }

/-- The sequence number of a record produced now: the next one; while the scan runs it is not known (DESIGN CHOICE, log entry 22). -/
def State.recordSeq (s : State) : Nat × State :=
  if s.book.ready || s.book.failed then
    (s.book.nextSeq, s.modBook fun b => { b with nextSeq := b.nextSeq + 1 })
  else let (v, s) := s.free
       (v.toNat, s)

/-! ### Raising without the actions of severities 3 to 5 -/

/-- ERR_N pulse (R479): low from the path "Watch source to latch, Watch latch to ERR_N" on. -/
def State.errPulse (s : State) : State :=
  let w := max 10 (s.rf .wchErrn 0 7 0)
  let f := s.clk.now + Config.watchToErrN
  s.modWch fun k =>
    { k with pulseFrom := (match k.pulseEnd with | some e => if e < s.clk.now then f else k.pulseFrom | none => f),
             pulseEnd := some (f + w * 1000) }

/-- Notes a raise among those of its core cycle (R480: a clear of the same core cycle comes before it). -/
def State.freshRaise (s : State) (src : Nat) : State :=
  let c := coreCycle s.clk.now
  let was := match unitEvent src with
    | some (r, b) => s.rb r 0 b
    | none => false
  s.modWch fun w =>
    let l := if w.freshAt = c then w.fresh else []
    { w with freshAt := c,
             fresh := if l.any (fun x => x.src = src) then replFirst (fun x => x.src = src) (fun x => { x with n := x.n + 1 }) l
               else l ++ [⟨src, 1, was⟩] }

/-- The event bit and the count of a raise (R475); a forced raise sets no event bit. -/
def State.countRaise (s : State) (src : Nat) (forced : Bool) : State :=
  (s.iff (!forced) fun s => match unitEvent src with
    | some (r, b) => s.setEvent r b
    | none => s).bump .wchCfg src 31 24

/-- The latch of a raise, its local count, and WCH_STATUS.last: of the sources one step raises, the highest is the last latched
(R477). -/
def State.latchRaise (s : State) (src : Nat) : State :=
  let s := s.setRb .wchLatch (src / 32) (src % 32) true
  let s := s.modWch fun w => { w with raisedAt := nput w.raisedAt src s.clk.now }
  s.setRf .wchStatus 0 25 16 (s.wch.batch.foldl (fun m r => max m r.src) src)

/-- Usable capacity in MiB (R409). -/
def State.usableMem (s : State) : Nat := if s.cap.eccOn then s.cap.memMiB * 7 / 8 else s.cap.memMiB

/-- TIM_STATUS as it reads. -/
def State.timStatus (s : State) : Nat :=
  b2n (s.tim.rate != s.tim.target) * 16 + b2n s.tim.timeSet * 8 + s.tim.quality

/-- THM_TEMP[i] as it reads. -/
def State.thmTempWord (s : State) (i : Nat) : Nat :=
  let x := s.sensor i
  b2n x.valid * 2 ^ 31 + x.band * 2 ^ 16 + cx 16 x.temp

/-- Detail word 0: the event register of the source's unit as it stands (R473, R483), for sources without a bit of their own too
(DEDUCED, log entry 135). -/
def State.detail0 (s : State) (src : Nat) : Nat :=
  match src / 32 with
  | 0x02 => (s.reg .clkEvent).toNat
  | 0x06 => (s.reg .lnkHlthEvent).toNat
  | 0x07 => (s.reg .gceEvent).toNat
  | 0x08 => (s.reg .legEvent).toNat
  | 0x09 => (s.reg .adcEvent).toNat
  | 0x0A => (s.reg .fadEvent).toNat
  | 0x0B => (s.reg .milEvent).toNat
  | 0x0C => (s.reg .capEvent).toNat
  | 0x0D => (s.reg .pairEvent).toNat
  | 0x0E => (s.reg .safEvent).toNat
  | 0x10 => (s.reg .bkEvent).toNat
  | 0x11 => (s.reg .thmEvent).toNat
  | 0x12 => (s.reg .memStatus).toNat + b2n s.cap.eccOn * 2 ^ 30 + s.usableMem
  | _ => 0

/-- Detail word 1: the datum of the source (R483), `w` being the event word of a cell_event. -/
def State.detail1 (s : State) (src idx w : Nat) : Nat :=
  match src / 32, src % 32 with
  | 0x06, 12 => w
  | 0x06, b => if 8 ≤ b && idx < 48 then (s.port idx).up.state else 0
  | 0x01, 1 => (s.reg .sysModeResult).toNat
  | 0x05, 0 => s.timStatus
  | 0x11, _ => if idx < 11 then s.thmTempWord idx else 0
  | _, _ => 0

/-- The record of a raise (R483). -/
def State.recordRaise (s : State) (src sev idx w1 : Nat) (forced : Bool) : State :=
  s.record ⟨src, sev, b2n forced, idx, s.mode.mode, s.clk.now, s.netNow, s.detail0 src, s.detail1 src idx w1, 1⟩

/-- ERR_N pulse and interrupt of a raise (R478, R479). -/
def State.alarmRaise (s : State) (src sev : Nat) : State :=
  let s := s.iff (4 ≤ sev || s.rb .wchCfg src 8) State.errPulse
  if 2 ≤ sev then
    let first := !s.rb .wchStatus 0 31
    let c := some (coreCycle s.clk.now)
    let s := s.modWch fun w => { w with irqRaise := c, irqRise := if first then c else w.irqRise }
    (s.setRb .wchStatus 0 31 true).iff (first && s.rb .wchCtrl 0 0) (·.signal 16)
  else s

/-- Count, latch, record, interrupt and pulse of a raise (R475, R478, R479). -/
def State.raiseCore (s : State) (src idx w1 : Nat) (forced : Bool) : State :=
  if !sourceOk s.var src then s
  else
    let s := (s.freshRaise src).countRaise src forced
    let sev := s.severity src
    if sev = 0 then s else ((s.latchRaise src).recordRaise src sev idx w1 forced).alarmRaise src sev

/-- The Safe stop request of a raise on its way: it reaches the mode controller after the path "Watch latch to Safe stop request"
(R474, R508). -/
def State.watchStop (s : State) (src : Nat) : State :=
  let c := coreCycle s.clk.now + Config.watchToStop
  if 4 ≤ s.severity src && sourceOk s.var src && s.wch.stops.getLast? != some c then
    s.modWch fun w => { w with stops := w.stops ++ [c] }
  else s

/-- Sends one record to the book's queue and to ring 7 (R486, R491). -/
def State.sendRecord (s : State) (r : RaiseRec) : State :=
  let (ok, s) := s.limit r
  if !ok then s
  else
    let (q, s) := s.recordSeq
    let b := r.bytes q
    let s := s.emitRecord 7 0x01 b
    if (r.src / 32 = 0x10 && r.flags != 2) || s.book.failed then s
    else if s.book.queue.length < 256 then s.modBook fun k => { k with queue := k.queue ++ [b] }
    else (s.modBook fun k => { k with dropped := satAdd 0xFFFF k.dropped 1 }).raiseCore 514 0xFFFF 0 false |>.watchStop 514

/-- Sends the batch in ascending source and index (R477). -/
def State.sendBatch (s : State) : State :=
  let l := sortBy (fun a b : RaiseRec => a.src < b.src || (a.src = b.src && a.index < b.index)) s.wch.batch
  l.foldl (fun s r => s.sendRecord r) (s.modWch fun w => { w with batch := [] })

/-- Whether a source of severity 5 is latched (R453, WCH_STATUS.trip). -/
def State.tripLatched (s : State) : Bool := s.latchedSources.any fun n => s.severity n = 5

/-- Shows a changed trip state to the safety channels after its path (R453, R506); of several changes within the path the last two are
kept (DESIGN CHOICE, log entry 134). -/
def State.showTrip (s : State) : State :=
  let t := s.tripLatched
  if t = s.saf.trip then s
  else s.modSaf fun f => { f with trip := t, tripPrev := f.trip, tripFrom := s.clk.now + Config.watchToSafetyB }

/-- Ends a step: the records of its raises in order, then those of book_drop raises, then the trip state. -/
def State.settle (s : State) : State := s.sendBatch.sendBatch.showTrip

/-- A request passes the gate stage of a gated block: the gate is open and the idle count starts again (R65 to R67). -/
def State.openGate (s : State) (b : Nat) : State :=
  s.modClk fun c => { c with gateShut := nset c.gateShut b false, idleFrom := nput c.idleFrom b c.now }

/-- An ERR_N pulse is in progress (R479). -/
def State.errPulsing (s : State) : Bool :=
  match s.wch.pulseEnd with
  | some e => s.wch.pulseFrom ≤ s.clk.now && s.clk.now < e
  | none => false

/-- The ERR_N pin: the AON island, else a pulse, else WCH_ERRN.level (R479). -/
def State.errNLow (s : State) : Bool :=
  s.clk.aonErrN || s.errPulsing || !s.rb .wchErrn 0 31

/-- Writes a last-word record, over the oldest when 16 are held (R490). -/
def State.lastWord (s : State) (src aon w1 : Nat) : State :=
  let r : RaiseRec := ⟨src, s.severity src, 2, 0xFFFF, s.mode.mode, 0, none, aon % 2 ^ 32, w1, 1⟩
  s.modBook fun b =>
    if b.lw.length < 16 then { b with lw := b.lw ++ [⟨r.bytes 0, false⟩] }
    else { b with lw := setNth b.lw b.lwNext ⟨r.bytes 0, false⟩, lwNext := (b.lwNext + 1) % 16 }

end Sys2Proof.Machine
end

