-- ==== Sys2Proof/Machine/Stop.lean ====
section
/-! DEFINITION. Pair messages, results of mode requests (R115), soft-off (R268), Safe stop (R114, R116, R117), raising a
source with its action (R474), retiring a channel (R368 to R381), health events (R369). -/

namespace Sys2Proof.Machine

/-! ### Pair link: sending -/

/-- The unit has a linked peer and is not the active one (R399). -/
def State.standby (s : State) : Bool := s.hasPeer && (1 ≤ s.pair.st && s.pair.st ≤ 4) && !s.pair.active

/-- The unit is active in Paired or Verify with a peer that is too: with one in Link or Join it is effectively Solo (R393, R398). -/
def State.leads (s : State) : Bool :=
  s.hasPeer && (s.pair.st = 3 || s.pair.st = 4) && s.pair.active && (s.pair.peerSt = 3 || s.pair.peerSt = 4)

/-- Paired or Verify, on either unit (R397). -/
def State.paired (s : State) : Bool := s.leads || (s.hasPeer && (s.pair.st = 3 || s.pair.st = 4) && !s.pair.active)

/-- Queues a pair message (R386). -/
def State.pairSend (s : State) (kind : Nat) (body : Bytes) : State :=
  if s.hasPeer && s.pair.peerSeen && 1 ≤ s.pair.st && s.pair.st ≤ 5 then s.modPair fun p => { p with outbox := p.outbox ++ [(kind, body)] }
  else s

/-- Forwards a request to the active unit (R399); its body's layout is open (DESIGN CHOICE, log entry 9).  A RESULT is awaited by mode requests
and by descriptors. -/
def State.forward (s : State) (kind act : Nat) (args : List Nat) : State :=
  (s.pairSend 0x09 (Config.pairEncode 9 (kind :: s.pair.fwdNo :: args))).modPair fun p =>
    { p with fwdNo := p.fwdNo + 1, forwarded := p.forwarded ++ (if kind = 1 || act != 0 then [(p.fwdNo, kind, act)] else []) }

/-- Numbers from here on stand for the peer's requests in place of a descriptor's index (R399). -/
def remoteBase : Nat := 2 ^ 20

/-- Ends a request: a descriptor of a role's ring, or the peer's request by a RESULT (R399). -/
def State.answer (s : State) (role k : Nat) (c : Compl) : State :=
  if remoteBase ≤ k then
    s.pairSend 0x0A (Config.pairEncode 10 [k - remoteBase, c.status, c.value, c.length, (s.reg .sysModeResult).toNat])
  else s.finishRole role k c

/-- The aligned count of a tick (R389). -/
def State.aligned (s : State) (t : Nat) : Nat := ((t : Int) + s.pair.o / 32).toNat

/-- The aligned count now. -/
def State.nowA (s : State) : Nat := s.aligned s.clk.now

/-- The local count of an aligned count. -/
def State.unaligned (s : State) (a : Nat) : Nat := ((a : Int) - s.pair.o / 32).toNat

/-! ### Results of mode requests -/

/-- Writes SYS_MODE_RESULT and completes a ring 0 request (R115). -/
def State.modeEnd (s : State) (src target result check index : Nat) (act : Option Nat) : State :=
  let v := src * 2 ^ 28 + result * 2 ^ 24 + check * 2 ^ 16 + index % 256 * 2 ^ 8 + target * 2 ^ 4 + s.mode.mode
  let s := s.setReg .sysModeResult 0 (word v)
  match act with
  | some k => s.answer 0 k ⟨result, 0, 0⟩
  | none => s

/-- Raises a source with every action but the retirement of severity 3. -/
def State.raise0 (s : State) (src idx : Nat) (w1 : Nat := 0) (forced : Bool := false) : State :=
  (s.raiseCore src idx w1 forced).watchStop src

/-- Raises mode_refused for a Bell request that was not taken (R115). -/
def State.refusedRaise (s : State) (src target : Nat) : State :=
  s.iff (src = 3) (·.raise0 33 target)

/-! ### Soft-off of a local switch (R268) -/

/-- Starts soft-off of local switch n with its pin changing at a tick; of two soft-offs whose pin has not changed yet the
earlier instant stands (R509). -/
def State.softOff (s : State) (n at_ : Nat) : State :=
  let x := s.sw n
  let early := x.hold.isSome && 32 * s.clk.now ≤ x.offAt && 32 * at_ < x.offAt
  if x.on || early then
    s.modSw n fun w => { w with on := false, offAt := 32 * at_, hold := some (at_ + s.rf .legSoft 0 9 0 * 8) }
  else s

/-! ### Leaving Dormant and Configure -/

/-- A transition out of Configure puts MEM_CTRL.ecc in force; at a change every unit returns to Idle (R409). -/
def State.capTransition (s : State) : State :=
  let e := s.rb .memCtrl 0 0 && s.cap.memMiB != 0
  if e = s.cap.eccOn then s
  else
    let s := s.modCap fun c => { c with eccOn := e }
    s.forAll (List.range 8) fun u s => s.modUnit u fun x => { CapUnit.reset with queue := x.queue }

/-- Leaving Dormant: enabled cell ports go to Acquire (R209), an enabled sequencer starts (R290). -/
def State.leaveDormant (s : State) : State :=
  let s := s.forAll (List.range 48) fun p s =>
    s.iff (s.hasPort p && s.rb .lnkCtrl p 31 && (s.port p).st = 0)
      (·.modPort p fun x => { x with st := 1, good := 0, sum := 0, cnt := 0, badUp := 0, passes := 0 })
  s.iff (s.rb .adcCtrl 0 31) (·.modAdc fun a => { a with seqOn := true, entry := 0, rep := 0, retake := false, due := coreCycle s.clk.now + 2 })

/-- What a transition out of a mode puts in force: the leads (R22) and MEM_CTRL.ecc (R409) out of Configure. -/
def State.leaving (s : State) (old new : Nat) : State :=
  let s := s.iff (old = 0 && new != 0) State.leaveDormant
  s.iff (old = 1 && new != 1) fun s => (s.modMode fun m => { m with extended := s.rb .sysLeads 0 0 }).capTransition

/-! ### Safe stop -/

/-- Ends a request with result 6 (R114, R116). -/
def State.preempted (s : State) (q : ModeReq) : State := (s.modeEnd q.source q.target 6 0 0 q.act).refusedRaise q.source q.target

/-- A Safe stop clears the pending request and pre-empts the requests of its own core cycle (R114, R116). -/
def State.dropPending (s : State) : State :=
  let l := s.mode.pending.toList ++ s.mode.inbox
  l.foldl State.preempted (s.modMode fun m => { m with pending := none, inbox := [], takeAt := none })

/-- The groups adopt a mode at once. -/
def State.allGroupsMode (s : State) (m : Nat) : State :=
  s.modMode fun k => { k with groupMode := (List.range 8).foldl (fun t g => nput t g m) k.groupMode }

/-- Both positions of a pair are taken off (R117). -/
def PairSt.halt (x : PairSt) : PairSt :=
  { x with even := { x.even with on := false, carry := none }, odd := { x.odd with on := false, carry := none } }

/-- Entry to Safe stop in core cycle c (R116, R117); a descriptor that asked for it ends with the core cycle. -/
def State.enterStop (s : State) (src c : Nat) (act : Option Nat) : State :=
  let s := s.dropPending
  let s := (s.modeEnd src 7 1 0 0 none).leaving s.mode.mode 7
  let s := s.modMode fun m =>
    { m with previous := m.mode, mode := 7, ramps := [], handover := [], hoDelta := [], lastStop := some c, stopAct := act }
  let s := (s.allGroupsMode 7).setRf .sysHandoverStatus 0 23 16 0
  let s := (s.setReg .sysModeTimeLo 0 (word c)).setReg .sysModeTimeHi 0 (word (c / 2 ^ 32))
  let s := s.modGce fun g =>
    { g with pairs := tmap PairSt.halt g.pairs,
             sched := (g.sched.map fun e => (e.1, e.2.filter fun l => l.at32 < 32 * c)).filter fun e => !e.2.isEmpty }
  let s := s.forAll (List.range 32) fun n s => s.softOff n (c + Config.safeStopToSoftOff)
  s.iff (!s.standby) (·.pairSend 0x08 (le 4 c))

/-- Rank of the sources of Safe stop requests that meet in one core cycle: safety logic, Watch, pair link, SYS_MODE_REQ, ring 0,
Bell (R114). -/
def stopRank (src : Nat) : Nat := match src with
  | 5 => 0 | 4 => 1 | 6 => 2 | 1 => 3 | 2 => 4 | _ => 5

/-- A Safe stop request in the core cycle of one already taken: of the two the one of higher rank is the one taken, the other ends
with result 2; SYS_MODE_RESULT goes on to read the request taken (R114, R115). -/
def State.stopAgain (s : State) (src : Nat) (act : Option Nat) : State :=
  let was := s.rf .sysModeResult 0 31 28
  let mine := stopRank src < stopRank was
  let lost := if mine then s.mode.stopAct else act
  let s := match lost with
    | some k => s.answer 0 k ⟨2, 0, 0⟩
    | none => s
  let s := s.iff mine fun s => (s.setRf .sysModeResult 0 31 28 src).modMode fun m => { m with stopAct := act }
  s.refusedRaise (if mine then was else src) 7

/-- A Safe stop request that reaches the mode controller in core cycle c (R114, R116); a standby also forwards it (R399). -/
def State.stopRequest (s : State) (src c : Nat) (act : Option Nat) : State :=
  let s := s.iff (s.standby && src != 6) (·.forward 1 0 [src, 7])
  if s.mode.mode = 7 then
    if s.mode.lastStop = some c then s.stopAgain src act
    else (s.modeEnd src 7 2 0 0 act).refusedRaise src 7
  else s.enterStop src c act

/-! ### Retirement -/

/-- Carrier group of a local leg. -/
def State.legGroup (s : State) (n : Nat) : Nat := s.rf .gcePair (384 + n) 29 27

/-- Carrier group of a cell port. -/
def State.portGroup (s : State) (p : Nat) : Nat := s.rf .gcePortGrp p 2 0

/-- The retirement of a leg takes effect: both switches held off, one that is on through soft-off (R370). -/
def State.legHeld (s : State) (n : Nat) : State :=
  let s := (s.softOff (2 * n) s.clk.now).softOff (2 * n + 1) s.clk.now
  (s.modHealth1 (48 + n) fun h => { h with state := 3, pendState := none }).modLg n fun l => { l with retired := true }

/-- The return of a leg takes effect. -/
def State.legBack (s : State) (n : Nat) : State :=
  (s.modHealth1 (48 + n) fun h => { h with state := 0, pendState := none }).modLg n fun l => { l with retired := false }

/-- Marks a channel's retirement: cause, event bit, source (R370). -/
def State.markRetired (s : State) (h cause : Nat) : State :=
  (s.modHealth1 h fun x => { x with cause := cause, held := false }).raise0 192 h 0

/-- The channel can be retired: Active and no retirement under way, or a cell port that is returning (R378). -/
def State.retirable (s : State) (h : Nat) : Bool :=
  let x := s.health1 h
  s.hasChannel h && ((x.state = 0 && x.pendState != some 3) || (h < 48 && x.state = 4))

/-- A retire request has reached channel h in this core cycle, whatever it does: a return in the same one is refused (R378). -/
def State.retireAsked (s : State) (h : Nat) : State :=
  s.iff (s.hasChannel h) (·.modHealth1 h fun x => { x with retireAt := coreCycle s.clk.now + 1 })

/-- Lane k leaves use; the standby of a link on one lane cannot stay in Paired (R370, R387). -/
def State.laneOut (s : State) (k : Nat) : State :=
  let s := s.modPair fun p => if k = 0 then { p with lane0 := false } else { p with lane1 := false }
  s.iff (s.standby && s.paired) (·.modPair fun p => { p with st := 1 })

/-- Retires a leg: at the boundary of its running group, else at once (R371). -/
def State.retireLeg (s : State) (n cause : Nat) : State :=
  let s := s.retireAsked (48 + n)
  if s.retirable (48 + n) then
    let s := if (s.grp (s.legGroup n)).running then s.modHealth1 (48 + n) fun x => { x with pendState := some 3 }
      else s.legHeld n
    s.markRetired (48 + n) cause
  else s

/-- Retires a channel with a cause (R370 to R372, R378, R379). -/
def State.retireChannel (s : State) (h cause : Nat) : State :=
  let s := s.retireAsked h
  if !s.retirable h then s
  else if h < 48 then
    if s.mode.mode ≤ 1 then (s.modHealth1 h fun x => { x with state := 3 }).markRetired h cause
    else if (s.health1 h).state = 4 then
      ((s.modHealth1 h fun x => { x with state := 2 }).modPort h fun p => { p with byFrom := 0, preRel := false }).markRetired h cause
    else (s.modHealth1 h fun x => { x with state := 1 }).markRetired h cause
  else if h < 64 then s.retireLeg (h - 48) cause
  else
    let s := (s.modHealth1 h fun x => { x with state := 3 }).markRetired h cause
    let s := s.iff (104 ≤ h) (·.laneOut (h - 104))
    if 96 ≤ h && h < 102 && s.rb .fadProtCfg (h - 96) 31 then
      s.forAll (bitsOf 16 (s.rf .fadProtCfg (h - 96) 15 0)) fun n s => s.retireLeg n 7
    else s

/-- Raises a source with every action of its severity (R474 to R476). -/
def State.raise (s : State) (src idx : Nat) (w1 : Nat := 0) (forced : Bool := false) : State :=
  let s := s.raise0 src idx w1 forced
  if s.severity src = 3 && sourceOk s.var src then match degradeChannel src idx with
    | some h => s.retireChannel h 3
    | none => s
  else s

/-! ### Time quality (R166) -/

/-- Changes the quality; every change out of Locked raises time_quality. -/
def State.setQuality (s : State) (q : Nat) : State :=
  if q = s.tim.quality then s
  else
    let was := s.tim.quality
    let s := s.modTim fun m => { m with quality := q, inBand := 0, holdSince := if q = 4 then some s.clk.now else m.holdSince }
    if was = 3 then s.raise 160 0xFFFF else s

/-! ### Health counters -/

/-- Kind of a channel (R368). -/
def kindOf (h : Nat) : Nat := if h < 48 then 0 else if h < 64 then 1 else if h < 96 then 2 else if h < 102 then 3 else if h < 104 then 4 else 5

/-- A counted event of a channel (R369); on a standby a cell port does not retire (R398). -/
def State.healthCount (s : State) (h : Nat) : State :=
  if !s.hasChannel h then s
  else
    let s := s.modHealth1 h fun x => { x with count := satAdd 255 x.count 1 }
    let lim := s.rf .lnkHlthCfg (kindOf h) 15 8
    if lim != 0 && lim ≤ (s.health1 h).count && !(h < 48 && s.standby) then s.retireChannel h 1 else s

/-- A permanent event of a channel (R369). -/
def State.healthPerm (s : State) (h : Nat) : State :=
  if !s.hasChannel h then s
  else if h < 48 && s.standby then s.modHealth1 h fun x => { x with perm := true }
  else (s.modHealth1 h fun x => { x with perm := true }).retireChannel h 2

end Sys2Proof.Machine
end

