-- ==== Sys2Proof/Machine/Timeline.lean ====
section
/-! DEFINITION. Carrier groups on the timeline (R11, R231, R389): boundaries in the aligned count, which is the local count
while the pair offset is 0. -/

namespace Sys2Proof.Machine

/-- Group g is enabled (R231). -/
def State.grpOn (s : State) (g : Nat) : Bool := g < 8 && s.rb .gceGrpPeriod g 31

/-- Group g has windows to form: it is enabled, or its enable was cleared and it runs out (DESIGN CHOICE, log entry 122). -/
def State.grpLive (s : State) (g : Nat) : Bool := s.grpOn g || (g < 8 && (s.grp g).started && (s.grp g).stopAfter.isSome)

/-- Ticks per unit of a group's value and offset: core cycles or frames. -/
def State.grpUnit (s : State) (g : Nat) : Nat := if s.rb .gceGrpPeriod g 30 then 1000 else 2

/-- Period P of group g in ticks. -/
def State.grpPeriod (s : State) (g : Nat) : Nat := s.grpUnit g * s.rf .gceGrpPeriod g 19 0

/-- Boundary offset o of group g in ticks. -/
def State.grpOffset (s : State) (g : Nat) : Nat := s.grpUnit g * s.rf .gceGrpOffset g 19 0

/-- c is a boundary of group g. -/
def State.isBoundary (s : State) (g c : Nat) : Bool :=
  0 < s.grpPeriod g && s.grpOffset g ≤ c && (c - s.grpOffset g) % s.grpPeriod g = 0

/-- The last boundary of group g at or before c. -/
def State.boundaryBefore (s : State) (g c : Nat) : Nat :=
  if s.grpPeriod g = 0 then 0 else c - (c - s.grpOffset g) % s.grpPeriod g

/-- The smallest boundary of group g at or after c. -/
def State.boundaryFrom (s : State) (g c : Nat) : Nat :=
  let p := s.grpPeriod g
  let o := s.grpOffset g
  if p = 0 || c ≤ o then o else o + (c - o + p - 1) / p * p

/-- A boundary of group g that falls in its run: at or after the first, before the one at which it stops. -/
def State.runsAt (s : State) (g b : Nat) : Bool :=
  let x := s.grp g
  x.started && x.b0 ≤ b && (match x.stopAfter with
    | some k => b ≤ k
    | none => true)

/-- Task t is enabled, and the group it is tied to. -/
def State.taskOn (s : State) (t : Nat) : Bool := t < 3 && s.rb .milTaskCfg t 31
def State.taskGroup (s : State) (t : Nat) : Nat := s.rf .milTaskCfg t 2 0

/-- Enabled tasks tied to group g, ascending. -/
def State.tasksOf (s : State) (g : Nat) : List Nat :=
  (List.range 3).filter fun t => s.taskOn t && s.taskGroup t = g

/-- Position that task t's boundary set names for core c (R287). -/
def State.bset (s : State) (t c : Nat) : Option Nat :=
  let f := s.rf .adcBset t (3 * c + 2) (3 * c)
  if 4 ≤ f then some (f % 4) else none

/-- Precision input n is in the boundary set of task t. -/
def State.inBset (s : State) (t n : Nat) : Bool := s.bset t (n % 8) = some (n / 8)

end Sys2Proof.Machine
end

