-- ==== Sys2Proof/Machine/Shake.lean ====
section
/-! DEFINITION. SHAKE256 (FIPS 202), which R86 names as the hash of chapter 4 and R400 as the plan hash. -/

namespace Sys2Proof.Machine

/-- A Keccak lane. -/
abbrev Lane := BitVec 64

/-- Rotation offsets of lane x + 5y. -/
def keccakRot : List Nat :=
  [0, 1, 62, 28, 27, 36, 44, 6, 55, 20, 3, 10, 43, 25, 39, 41, 45, 15, 21, 8, 18, 2, 61, 56, 14]

/-- Round constants. -/
def keccakRC : List Nat :=
  [0x1, 0x8082, 0x800000000000808A, 0x8000000080008000, 0x808B, 0x80000001, 0x8000000080008081,
   0x8000000000008009, 0x8A, 0x88, 0x80008009, 0x8000000A] ++
  [0x8000808B, 0x800000000000008B, 0x8000000000008089, 0x8000000000008003, 0x8000000000008002,
   0x8000000000000080, 0x800A, 0x800000008000000A, 0x8000000080008081, 0x8000000000008080, 0x80000001,
   0x8000000080008008]

/-- Lane x + 5y, indices taken modulo 5. -/
def lane (a : List Lane) (x y : Nat) : Lane := nth a (x % 5 + 5 * (y % 5)) 0

/-- One round: theta, rho and pi, chi, iota. -/
def keccakRound (a : List Lane) (rc : Nat) : List Lane :=
  let c := (List.range 5).map (fun x => lane a x 0 ^^^ lane a x 1 ^^^ lane a x 2 ^^^ lane a x 3 ^^^ lane a x 4)
  let d := (List.range 5).map (fun x => nth c ((x + 4) % 5) 0 ^^^ (nth c ((x + 1) % 5) 0).rotateLeft 1)
  let t := (List.range 25).map (fun i => nth a i 0 ^^^ nth d (i % 5) 0)
  let b := (List.range 25).map (fun i =>
    let x := i % 5
    let y := i / 5
    let sx := (x + 3 * y) % 5
    let sy := x
    (lane t sx sy).rotateLeft (nth keccakRot (sx + 5 * sy) 0))
  let e := (List.range 25).map (fun i =>
    let x := i % 5
    let y := i / 5
    lane b x y ^^^ ((~~~ lane b (x + 1) y) &&& lane b (x + 2) y))
  match e with
  | [] => []
  | h :: r => (h ^^^ BitVec.ofNat 64 rc) :: r

/-- The permutation: 24 rounds. -/
def keccakF (a : List Lane) : List Lane := keccakRC.foldl keccakRound a

/-- Absorbs one 136-byte block. -/
def absorb (a : List Lane) (blk : Bytes) : List Lane :=
  keccakF ((List.range 25).map (fun i =>
    nth a i 0 ^^^ (if i < 17 then BitVec.ofNat 64 (lef blk (8 * i) 8) else 0)))

/-- Cuts a message into blocks, on fuel. -/
def blocksOf (n : Nat) : Nat → Bytes → List Bytes
  | 0, _ => []
  | f + 1, b => if b.length ≤ n then [b] else b.take n :: blocksOf n f (b.drop n)

/-- The padded message: domain 1111, then 10*1. -/
def shakePad (m : Bytes) : Bytes :=
  let k := 136 - m.length % 136
  if k = 1 then m ++ [0x9F] else m ++ [0x1F] ++ zeros (k - 2) ++ [0x80]

/-- SHAKE256 with an output of at most 136 bytes (the spec uses 8, 32 and 64). -/
def shake256 (n : Nat) (m : Bytes) : Bytes :=
  let p := shakePad m
  let a := (blocksOf 136 (p.length / 136 + 1) p).foldl absorb (List.replicate 25 0)
  ((a.take 17).flatMap (fun l => le 8 l.toNat)).take n

/-- The chapter's hash: SHAKE256 with a 64-byte output (R86). -/
def hash64 (m : Bytes) : Bytes := shake256 64 m

end Sys2Proof.Machine
end

