-- ==== Sys2Proof/Machine/Boot.lean ====
section
/-! DEFINITION. Supplies, AON island, references, PLL-A, resets, secure boot (R34 to R60, R69 to R72, R81 to R97). -/

namespace Sys2Proof.Machine

/-! ### Measured boot (R96, R97) -/

/-- Extends the chain with an event. -/
def State.measure (s : State) (kind : Nat) (v : Bytes) : State :=
  s.modSec fun x =>
    let c := hash64 (x.chain ++ le 4 kind ++ v)
    if x.events.length < 16 then { x with chain := c, events := x.events ++ [(kind, v)] }
    else { x with chain := c, truncated := true }

/-! ### Resets (R81 to R84) -/

/-- The security block after a reset: OTP kept, chain and boot results cleared. -/
def Sec.restart (x : Sec) : Sec :=
  { x with chain := zeros 64, events := [], truncated := false, slots := [], reading := none, recovering := false,
           recoverLen := 0, writing := none, runVersion := 0, runSlotB := false, runRecovery := false }

/-- Clocks after a device reset: the AON island's knowledge and the supplies kept, everything root-derived reset; of PLL-A's
state the hold stays and vtune_margin goes to its reset value (DESIGN CHOICE, log entry 109). -/
def Clk.restart (c : Clk) : Clk :=
  { c with now := 0, gateShut := 0, idleFrom := [], pllBLock := false, outs := [], vtune := false, shdn := false }

/-- Everything outside the AON island returns to its reset values (R81, R104): the Parish book's storage and the OTP are
non-volatile, the retained registers and the last-word store stay, and the model's own fields stay. -/
def State.resetLogic (s : State) (keep : Nat → Bool) : State :=
  { State.reset with
    clk := s.clk.restart, sec := s.sec.restart,
    book := { Book.reset with slots := s.book.slots, lw := s.book.lw, lwNext := s.book.lwNext },
    regs := s.regs.filter fun e => keep e.1,
    rdata := s.rdata, hostMem := s.hostMem, reqs := s.reqs, freeCtr := s.freeCtr, pending := s.pending }

/-- Retirement states after a device reset (R380). -/
def State.initRetired (s : State) : State :=
  let m := (s.reg .lnkRetireInitLo).toNat + 2 ^ 32 * s.rf .lnkRetireInitHi 0 15 0
  s.forAll (bitsOf 48 m) fun p s => s.iff (s.hasPort p) (·.modHealth1 p fun h => { h with state := 3, cause := 6 })

/-- The boot ROM runs (R84 steps 4 and 5): the station MAC from the OTP serial number (R194), memory trained (R408),
the chain's first event (R96). -/
def State.enterBoot (s : State) : State :=
  let s := s.modClk fun c => { c with phase := .booting, now := 0, aonErrN := false }
  let m := 2 ^ 41 + s.sec.otpSerial % 2 ^ 40
  let s := (s.setReg .ptpMacHi 0 (word (m / 2 ^ 32))).setReg .ptpMacLo 0 (word m)
  let mib := if s.hasCap && s.clk.supplyMem then Config.memoryMiB else 0
  let s := s.modCap fun c => { c with memMiB := mib }
  let s := s.setRb .memStatus 0 31 (0 < mib)
  s.measure 1 Config.romHash

/-- A device reset with a cause bit (R82). -/
def State.deviceReset (s : State) (bit : Nat) : State :=
  ((s.resetLogic retained).setRb .sysResetCause 0 bit true).initRetired

/-- A device reset with PLL-A still locked: the sequence starts at step 4 (R84). -/
def State.softReset (s : State) (bit : Nat) : State := (s.deviceReset bit).enterBoot

/-! ### Power -/

/-- The logic runs, so that the Watch can take a raise. What happens to a supply while it does not run, or stands through a reset, is
raised at no later time: R41 does not say (DESIGN CHOICE, log entry 138). -/
def State.iffReleased (s : State) (f : State → State) : State := if s.released then f s else s

/-! ### References (R49 to R60) -/

/-- A count within the 25 MHz limits, within the 10 MHz limits (R49). -/
def in25 (n : Nat) : Bool := 994 ≤ n && n ≤ 1054
def in10 (n : Nat) : Bool := 397 ≤ n && n ≤ 422

/-- One window of R49. -/
def Proving.window (p : Proving) (pass : Bool) (n : Nat) : Proving :=
  if !pass then ⟨0, n, false, true⟩
  else
    let near := p.passes != 0 && n ≤ p.last + 2 && p.last ≤ n + 2
    let k := if near then min 8 (p.passes + 1) else 1
    let ok := p.proven || k = 8
    ⟨k, n, ok, p.missing && !ok⟩

def Clk.src (c : Clk) (i : Nat) : Proving := if i = 0 then c.xtal else if i = 1 then c.refIn else c.root
def Clk.setSrc (c : Clk) (i : Nat) (p : Proving) : Clk :=
  if i = 0 then { c with xtal := p } else if i = 1 then { c with refIn := p } else { c with root := p }

/-- The mean of the tuning word over the 1,024 comparison cycles of 200 ns that end at a tick (R56), rounded down (DESIGN
CHOICE, log entry 107). -/
def tuneMean (now : Nat) : Nat := ((List.range 1024).foldl (fun a i => a + Config.tuneWord (now / 200 - i)) 0) / 1024

/-- PLL-A enters hold on the loss of the source in use: its tuning word is frozen at the mean, the selector leaves the source at
once (R56, R57). -/
def Clk.enterHold (c : Clk) : Clk :=
  { c with hold := true, sel := none, tune := if c.hold then c.tune else some (tuneMean c.now) }

/-- PLL-A leaves hold on a source (R58, R59). -/
def Clk.leaveHold (c : Clk) (i : Nat) : Clk := { c with hold := false, source := some i, sel := some i, tune := none }

/-- A source goes missing (R50): its event, and hold when it is in use (R56). -/
def State.goMissing (s : State) (i : Nat) : State :=
  let was := (s.clk.src i).missing
  let s := s.modClk fun c => c.setSrc i { (c.src i) with passes := 0, proven := false, missing := true }
  let s := s.iff (s.clk.source = some i && s.clk.pllALock) (·.modClk Clk.enterHold)
  if was then s else s.iffReleased (·.raise (64 + i) 0xFFFF)

/-- PLL-A loses lock (R53, R69 to R71): the record is written and ERR_N goes low; running domains stop at the first count at which
every division of R61 is at a cycle boundary and keep their state, and their reset waits for the root. -/
def State.loseLock (s : State) (aon : Nat) : State :=
  let run := s.released
  (s.lastWord 73 aon 0).modClk fun c =>
    { c with phase := if c.phase = .thermalShutdown then c.phase else .locking, pllALock := false, hold := false, tune := none,
             aonErrN := true, attempts := if run then 0 else c.attempts, rootRun := 0, clockLoss := true,
             now := if run then (c.now + 39) / 40 * 40 else c.now }

/-- A window of the root divided by 160 (R49, R50, R53, R54): one that fails while the root is released is a loss of lock. -/
def State.rootWindow (s : State) (count aon : Nat) : State :=
  let pass := in25 count
  let s := s.modClk fun c => { c with root := c.root.window pass count, rootRun := if pass then c.rootRun + 1 else 0 }
  s.iff (!pass && s.released) (·.loseLock aon)

/-- The source PLL-A starts on (R51): the preferred one if proven, else the other. -/
def State.startSource (s : State) : Option Nat :=
  let p := s.rf .clkRefCtrl 0 0 0
  if (s.clk.src p).proven then some p else if (s.clk.src (1 - p)).proven then some (1 - p) else none

/-- The band-table entry for the AON temperature (R52). -/
def State.tableBand (s : State) : Option Nat :=
  ((List.range 16).find? fun i => s.rb .pllABand i 31 && s.clk.aonTemp ≤ sx 8 (s.rf .pllABand i 23 16)).map
    fun i => s.rf .pllABand i 5 0

/-! ### Gating (R65 to R68) -/

/-! ### PLL-B (R73 to R77, R80) -/

/-- Starts an output under R73; the place of the triangle of its spread is open (R76, DESIGN CHOICE, log entry 108). -/
def State.startOut (s : State) (j : Nat) : State :=
  let w := s.reg .pllBOut j
  let f := (s.clk.now + 2000 + 999) / 1000 * 1000
  s.modOut j fun o =>
    { o with running := true, edge := ((32 * f + fld w 23 16 : Nat) + o.phase).toNat, tri := Config.sscStart s.clk.now % 32000 }

/-- A signed 32-bit target plus a signed argument, saturated (R75). -/
def stepTarget (v : Word) (a : Int) : Word := word (cx 32 (sat 32 (sx 32 v.toNat + a)))

/-- A Bell step of PLL_B_TARGET[j] (R75). -/
def State.stepPllTarget (s : State) (j : Nat) (a : Int) : State :=
  let c := s.clk.now / 2 + 1
  (s.setReg .pllBTarget j (stepTarget (s.reg .pllBTarget j) a)).modOut j fun o =>
    { o with steps := (if o.stepCyc = c then o.steps else []) ++ [a], stepCyc := c }

/-- A host write to PLL_B_TARGET[j]: the Bell's steps of the same core cycle are applied after it (R75). -/
def State.writePllTarget (s : State) (j : Nat) (v : Word) : State :=
  let o := s.out j
  s.setReg .pllBTarget j (if o.stepCyc = s.clk.now / 2 + 1 then o.steps.foldl stepTarget v else v)

/-- A write to PLL_B_OUT[j] (R80).  An output enabled while PLL-B is not locked waits for the relock (DESIGN CHOICE, log entry
110). -/
def State.writePllOut (s : State) (j : Nat) (v : Word) : State :=
  if s.rb .pllBOut j 31 then
    if bit v 31 then s
    else (s.setRb .pllBOut j 31 false).modOut j fun o => { o with running := false }
  else
    let d := min 4000 (max 8 (fld v 11 0))
    let s := s.setReg .pllBOut j (wfld (v &&& 0xFCFF0FFF) 11 0 d)
    s.iff (bit v 31 && s.clk.pllBLock) (·.startOut j)

/-! ### Images and the boot ROM (R86 to R92) -/

def hdrMagic : Nat := 0x3834434C
def hdrLength (b : Bytes) : Nat := lef b 0x10 4
def hdrVersion (b : Bytes) : Nat := lef b 8 4
def hdrHash (b : Bytes) : Bytes := slice b 0x20 64
def hdrKey (b : Bytes) : Bytes := slice b 0x80 1952

/-- R88 item 1 for an image type. -/
def hdrForm (b : Bytes) (type : Nat) : Bool :=
  lef b 0 4 = hdrMagic && lef b 4 2 = 1 && lef b 6 2 = type && lef b 0x0D 3 = 0 && allZero (slice b 0x60 32) &&
  0x150D ≤ b.length

/-- R88 item 5: the signature with the type's context (R87). -/
def hdrSigned (b : Bytes) (ctx : String) : Bool :=
  Config.mldsaVerify (hdrKey b) (ascii ctx) (slice b 0 0x820) (slice b 0x820 3309)

/-- The hash of the header bytes that are read. -/
def hdrMeasure (b : Bytes) : Bytes := hash64 (slice b 0 0x150D)

/-- The first check of R88 that a firmware header fails; 0 when none. -/
def State.headerCheck (s : State) (b : Bytes) : Nat :=
  let k := hash64 (hdrKey b)
  let vendor := (List.range 2).any fun i =>
    nbit s.sec.vendorValid i && !nbit s.sec.vendorRevoked i && tget (fun _ => []) s.sec.vendorHash i = k
  if !hdrForm b 1 then 1
  else if hdrLength b % 64 != 0 || 1048576 < hdrLength b || hdrLength b ≤ lef b 0x14 4 then 2
  else if 3 < lef b 0x0C 1 then 3
  else if !vendor then 4
  else if !hdrSigned b "OCR-BOOT" then 5
  else if hdrVersion b < s.sec.rollback then 6
  else 0

def State.slotInfo (s : State) (b : Bytes) : SlotInfo :=
  ⟨s.headerCheck b, hdrVersion b, hdrLength b, hdrHash b, hdrMeasure b⟩

def noSlot : SlotInfo := ⟨1, 0, 0, [], []⟩
def State.slot (s : State) (i : Nat) : SlotInfo := tget (fun _ => noSlot) s.sec.slots i

/-- Stores a slot's check code in SYS_BOOT_STATUS. -/
def State.slotCheck (s : State) (i c : Nat) : State :=
  if i = 0 then s.setRf .sysBootStatus 0 23 16 c else s.setRf .sysBootStatus 0 15 8 c

/-- Boot has failed (R91). -/
def State.failBoot (s : State) : State :=
  ((s.modSec fun x => { x with reading := none }).setRb .sysBootStatus 0 1 true).modClk fun c => { c with phase := .bootFailed }

/-- Starts reading a candidate's payload: its header is accepted (R96 kind 2). -/
def State.readSlot (s : State) (i : Nat) : State :=
  (s.modSec fun x => { x with reading := some i }).measure 2 (s.slot i).hdrHash

/-- Firmware starts (R84 step 8): Dormant. -/
def State.startFirmware (s : State) (slotB recovery : Bool) (version : Nat) : State :=
  let s := s.modSec fun x => { x with reading := none, recovering := false, runVersion := version, runSlotB := slotB, runRecovery := recovery }
  let s := s.setRf .sysBootStatus 0 3 0 (b2n recovery * 8 + b2n slotB * 4 + 1)
  (s.modMode fun m => { m with mode := 0 }).modClk fun c => { c with phase := .running }

/-- A write to SEC_RECOVERY_CTRL (R92); the fetch takes the length as it stands at its start (DEDUCED, log entry 141). -/
def State.startRecovery (s : State) (v : Word) : State :=
  if s.clk.phase = .bootFailed && bit v 0 && !s.sec.recovering then
    let n := (s.reg .secRecoveryLen).toNat
    if 8256 ≤ n && n ≤ 1056768 then s.modSec fun x => { x with recovering := true, recoverLen := n }
    else s.setRf .secRecoveryCtrl 0 7 4 9
  else s

/-! ### Reset commands -/

/-- A write to SYS_RESET (R105). -/
def State.writeSysReset (s : State) (v : Word) : State :=
  if fld v 31 16 = 0x5A17 && bit v 0 then s.softReset 3 else s

def SlotReq.noAct (q : SlotReq) : SlotReq := { q with act := none }
/-- Only the peer's requests are kept. -/
def keepRemote (a : Option Nat) : Option Nat := a.filter fun k => remoteBase ≤ k
def ModeReq.noAct (q : ModeReq) : ModeReq := { q with act := keepRemote q.act }
def ParamW.noAct (w : ParamW) : ParamW := { w with act := keepRemote w.act }
def Offer.noAct (o : Offer) : Offer := { o with act := keepRemote o.act }
def Port.noAct (p : Port) : Port := { p with req := p.req.map SlotReq.noAct, hostQ := p.hostQ.map SlotReq.noAct }

/-- Forgets which descriptor a piece of work in progress belongs to (R83: every transfer in flight is discarded); the write of an
owner key's hash ends without its valid fuse (R95; DESIGN CHOICE, log entry 144). -/
def State.dropActs (s : State) : State :=
  let s := s.modMode fun m => { m with pending := m.pending.map ModeReq.noAct, inbox := m.inbox.map ModeReq.noAct, stopAct := keepRemote m.stopAct }
  let s := s.modMill fun m => { m with setps := m.setps.filter (fun (e : Nat × List Nat × Nat) => remoteBase ≤ e.1), params := m.params.map ParamW.noAct }
  let s := { s with ports := tmap Port.noAct s.ports }
  let s := s.modSec fun x => { x with writing := none }
  let s := s.modPair fun p =>
    { p with offer := p.offer.map Offer.noAct, forwarded := p.forwarded.map fun (f : Nat × Nat × Nat) => (f.1, f.2.1, 0) }
  s.modSaf fun f => { f with pdus := f.pdus.map fun (x : Nat × Option Nat × Bytes) => (x.1, none, x.2.2) }

/-! ### Thermal shutdown (R499) -/

end Sys2Proof.Machine
end

