-- ==== Sys2Proof/Machine/Security.lean ====
section
/-! DEFINITION. The commands of ring 14 (R93 to R100) and the acceptance of signed images (R101). -/

namespace Sys2Proof.Machine

/-- OTP may be written: Configure, unlocked (R98). -/
def State.otpOpen (s : State) : Bool := s.mode.mode = 1 && !s.locked

/-- A ring 14 command that runs on its descriptor (R98). -/
def State.onSec (s : State) (op : Nat) (f : Nat → Nat → Desc → State → State) : State :=
  s.iff s.up (·.onTurn 14 op f)

/-- The attestation record without its signature (R100). -/
def State.attestBody (s : State) (nonce : Bytes) : Bytes :=
  let flags := b2n s.sec.truncated * 16 + b2n s.sec.ownerEnforce * 8 + b2n s.sec.runRecovery * 4 +
    b2n s.sec.runSlotB * 2 + b2n s.locked
  le 4 0x5454414F ++ le 2 1 ++ le 2 s.sec.events.length ++ le 8 s.sec.otpSerial ++ tsBytes (s.timeAt s.clk.now) ++
  padTo 32 (nonce.take 32) ++ le 4 s.sec.runVersion ++ le 4 s.sec.rollback ++ le 1 s.mode.mode ++ le 1 flags ++
  zeros 2 ++ le 4 (if s.saf.confirmed then s.saf.pchk else 0) ++ s.sec.chain ++
  s.sec.events.flatMap fun e => le 4 e.1 ++ zeros 4 ++ e.2

/-- Acceptance of a Mill program or configuration image (R101): 0, or the code of SYS_BOOT_STATUS.a_check, or 8 for an
owner-key mismatch. -/
def State.imageCheck (s : State) (b : Bytes) (type : Nat) (ctx : String) : Nat :=
  let k := hash64 (hdrKey b)
  let owner := (List.range 4).any fun i =>
    nbit s.sec.ownerValid i && !nbit s.sec.ownerRevoked i && tget (fun _ => []) s.sec.ownerHash i = k
  if !hdrForm b type then 1
  else if !hdrSigned b ctx then 5
  else if hash64 (slice b 0x2000 (hdrLength b)) != hdrHash b then 7
  else if s.sec.ownerEnforce && !owner then 8
  else 0

end Sys2Proof.Machine
end

