-- ==== Sys2Proof/Machine/Time.lean ====
section
/-! DEFINITION. Time, its quality and sources, PPS (R158 to R170), the Bell table (R181 to R188, R192). -/

namespace Sys2Proof.Machine

/-! ### Local count of a network time (R184) -/

/-- 32 × c + floor(32 × c × rate ÷ 2^48). -/
def Tim.raw (m : Tim) (c : Nat) : Int := 32 * (c : Int) + 32 * (c : Int) * m.rate / 2 ^ 48

/-- The smallest local count c for which T(32 × c) is at or after a time (in 1/32 ns). -/
def State.countAt (s : State) (T : Nat) : Nat :=
  let goal := s.tim.raw s.clk.now + ((T : Int) - s.timeAt s.clk.now)
  let c := (goal * 2 ^ 48 / (32 * (2 ^ 48 + s.tim.rate))).toNat
  (([c - 1, c, c + 1].find? fun x => goal ≤ s.tim.raw x).getD (c + 2))

/-! ### The Bell table -/

/-- Rank of R185. -/
def bellBefore (a b : BellE) : Bool := a.lc < b.lc || (a.lc = b.lc && a.order < b.order)

/-- Recomputes the local count of every entry in network time (R184). -/
def State.retimeBell (s : State) : State :=
  s.modBell fun b =>
    { b with entries := sortBy bellBefore (b.entries.map fun e => if e.net then { e with lc := s.countAt (32 * e.ntime) } else e) }

/-- Bell entries that hold a slot: those of the table and those fired in this very tick (R187). -/
def State.bellUsed (s : State) : Nat :=
  s.bell.entries.length + (s.bell.fired.filter fun f => f.fireAt = s.clk.now && !f.e.rep).length

/-- The table of actions (R182): whether unit, index and argument are allowed, and whether the unit is present.  An index of a port that
the variant lacks is a bad entry, as an index that is not allowed (R28; DESIGN CHOICE, log entry 127). -/
def State.bellAction (s : State) (unit action index arg : Nat) : Bool × Bool :=
  match action with
  | 0x01 => (unit = 0x0B && index < 128 && arg < 65536, true)
  | 0x02 =>
    let n := match s.mill.prog with
      | some p => p.blocks.length
      | none => 0
    (unit = 0x0B && index / 4 < n && index < 8192, true)
  | 0x03 => (unit = 0x01 && index = 0 && arg < 8, true)
  | 0x04 | 0x05 => (unit = 0x0C && (index < 8 || index = 0xFFFF) && arg = 0, s.hasCap)
  | 0x06 => (unit = 0x02 && index < 3, true)
  | 0x07 =>
    match unit with
    | 0x06 => ((s.hasPort index || index = 0xFFFF) && arg ≤ 1, true)
    | 0x07 => ((index < 32 || index = 0xFFFF) && arg = 0, true)
    | 0x09 => ((index < 8 || index = 0xFFFF) && arg ≤ 4, true)
    | 0x0A => ((index < 6 || index = 0xFFFF) && arg ≤ 4, s.hasCap)
    | _ => (false, true)
  | 0x08 | 0x09 => (unit = 0x06 && s.hasPort index && arg = 0, true)
  | 0x0A => (unit = 0x05 && index < 8, true)
  | _ => (false, true)

/-- The full second count of a seconds field (R184). -/
def State.fullSeconds (s : State) (field : Nat) : Int :=
  let s0 : Int := ((s.timeAt s.clk.now / 32000000000 : Nat) : Int)
  s0 + (((field : Int) - s0 + 2 ^ 31) % 2 ^ 32) - 2 ^ 31

/-- The device field names this device only, all devices, or another one. -/
def State.bellHere (s : State) (dev : Nat) : Bool := nbit dev 15 || dev % 2 ^ 14 = s.rf .belCtrl 0 13 0

/-- The entry's form is wrong (R181, R182, R184). -/
def State.bellBad (s : State) (b : Bytes) : Bool :=
  let flags := lef b 0x0E 2
  let period := lef b 0x14 4
  !(s.bellAction (lef b 0x0A 1) (lef b 0x0B 1) (lef b 0x0C 2) (lef b 0x10 4)).1 ||
  nbit (lef b 8 2) 14 || 8 ≤ flags || lef b 0x1C 4 != 0 ||
  (if nbit flags 2 then period < 1000 else period != 0) ||
  (nbit flags 0 && 1000000000 ≤ lef b 0 4) ||
  (!(!nbit (lef b 8 2) 15 && s.bellHere (lef b 8 2)) && !nbit flags 0)

/-- Inserts one entry: 0, or 4 bad, 5 unit absent, 3 late, 2 full (R183, R186, R187; order: DEDUCED, log entry 24). -/
def State.bellInsert (s : State) (b : Bytes) : Nat × State :=
  let flags := lef b 0x0E 2
  let net := nbit flags 0
  if s.bellBad b then (4, s)
  else if !(s.bellAction (lef b 0x0A 1) (lef b 0x0B 1) (lef b 0x0C 2) (lef b 0x10 4)).2 then (5, s)
  else
    let ntime := (s.fullSeconds (lef b 4 4)).toNat * 1000000000 + lef b 0 4
    let lc := if net then s.countAt (32 * ntime) else lef b 0 8
    if lc ≤ s.clk.now && !nbit flags 1 then (3, s)
    else if 4096 ≤ s.bellUsed then (2, s)
    else
      let e : BellE := ⟨lc, s.bell.nextOrder, net, if net then ntime else 0, nbit flags 1, nbit flags 2, lef b 0x0A 1, lef b 0x0B 1,
        lef b 0x0C 2, lef b 0x10 4, lef b 0x14 4, lef b 0x18 4⟩
      (0, s.modBell fun x => { x with entries := insBy bellBefore e x.entries, nextOrder := x.nextOrder + 1 })

/-- Inserts an entry of a received frame: refusals are counted and raised (R186, R187, R192). -/
def State.bellInsertFrame (s : State) (b : Bytes) : State :=
  let (c, s) := s.bellInsert b
  if c = 3 then (s.bump .belDrops 0 15 0).raise 161 0xFFFF
  else if c = 2 then (s.bump .belDrops 0 31 16).raise 162 0xFFFF
  else s.iff (c != 0) (·.modBell fun x => { x with refused := x.refused + 1 })

/-! ### Setting and steering -/

/-- Sets time to v (1/32 ns) in this tick (R164); the selected source has then not been present since the set (R166). -/
def State.setTime (s : State) (v : Nat) : State :=
  let m := s.tim
  let off := ((v : Int) - m.raw s.clk.now) % 2 ^ 96
  let s := s.modTim fun m => { m with offset := off.toNat, timeSet := true, ptpOk := false, ppsOk := false }
  (s.setQuality 1).retimeBell

/-- A write of 1 to TIM_CTRL.set (R164). -/
def State.writeTimSet (s : State) : State :=
  let w := (List.range 4).map fun i => s.reg .timSet i
  let sec := (nth w 0 0).toNat + (nth w 1 0).toNat * 2 ^ 32
  if s.mode.mode = 1 && sec < 2475880078570760549 then s.setTime (tsValue w) else s

/-- Limits of TIM_TARGET (R161). -/
def clampTarget (x : Int) : Int := max (-56294995342) (min 56294995342 x)

/-- Puts a value into TIM_TARGET. -/
def State.putTarget (s : State) (x : Int) : State :=
  let v := clampTarget x
  ((s.setReg .timTargetLo 0 (word (cx 64 v))).setReg .timTargetHi 0 (word (cx 64 v / 2 ^ 32))).modTim fun m =>
    { m with target := v, rateHeld := false }

/-- A host write to TIM_TARGET_HI, which makes the pair take effect (R161, R165, R194). -/
def State.writeTargetHi (s : State) (v : Word) : State :=
  if s.rb .timCtrl 0 6 then s.putTarget (sx 64 (v.toNat * 2 ^ 32 + (s.reg .timTargetLo).toNat)) else s

/-- The source TIM_CTRL selects: 0 PTP, 1 PPS_IN, 2 none (R166). -/
def State.timSource (s : State) : Nat := min 2 (s.rf .timCtrl 0 5 4)

/-- The port that the best master clock algorithm makes the slave port: the one with the better Announce that has not timed out (R178;
the ranking is PRESUMED, log entry 25; three intervals are the receipt timeout of both profiles: PRESUMED, log entry 128). -/
def State.slavePort (s : State) : Option Nat :=
  let live := fun (n : Nat) => (tget (fun _ => StaPort.reset) s.tim.ports n).ann.filter fun a => s.clk.now < a.at_ + 3 * a.every
  match live 0, live 1 with
  | some a, some b => some (if b.key < a.key then 1 else 0)
  | some _, none => some 0
  | none, some _ => some 1
  | none, none => none

/-- A PTP source is lost: no Sync for 4 intervals, or the announce receipt timeout has run out (R167). -/
def State.ptpLost (s : State) : Bool := s.slavePort.isNone || s.tim.lastSync + 4 * s.tim.syncEvery ≤ s.clk.now

/-- A PPS_IN source is lost: no rising edge for 2.5 s (R167). -/
def State.ppsLost (s : State) : Bool := s.tim.lastPps + 2500000000 ≤ s.clk.now

/-- The selected source is present (R166). -/
def State.srcPresent (s : State) : Bool := (s.timSource = 0 && s.tim.ptpOk) || (s.timSource = 1 && s.tim.ppsOk)

/-- Says of the selected source whether it is present. -/
def State.putSrc (s : State) (v : Bool) : State :=
  s.modTim fun m => { m with ptpOk := if s.timSource = 0 then v else m.ptpOk, ppsOk := if s.timSource = 1 then v else m.ppsOk }

/-- The selected source becomes present (R166). -/
def State.sourcePresent (s : State) : State :=
  if s.srcPresent then s
  else
    let s := (s.putSrc true).modTim fun m => { m with rateHeld := false }
    if s.tim.timeSet && s.tim.quality != 3 then s.setQuality 2 else s

/-- The selected source is lost (R166, R167). -/
def State.sourceLost (s : State) : State :=
  let s := (s.putSrc false).modTim fun m => { m with rateHeld := true }
  if s.tim.quality = 3 then s.setQuality 4 else if s.tim.quality = 2 then s.setQuality 1 else s

/-- An offset estimate (R166). -/
def State.estimate (s : State) (e : Int) : State :=
  let q := s.tim.quality
  if q = 3 then if 200 < e.natAbs then s.setQuality 2 else s
  else if q = 2 then
    if e.natAbs ≤ 50 then
      if s.tim.inBand + 1 = 16 then s.setQuality 3
      else s.modTim fun m => { m with inBand := m.inBand + 1 }
    else s.modTim fun m => { m with inBand := 0 }
  else s

/-- What the firmware servo does with one measurement (R165, R166).  A set it makes without naming a time takes the estimate off T
(DESIGN CHOICE, log entry 129). -/
def State.servo (s : State) (v : Servo) : State :=
  let own := !s.rb .timCtrl 0 6 && s.srcPresent
  let s := match v.est with
    | some e => s.estimate e
    | none => s
  let s := match v.target with
    | some x => s.iff own (·.putTarget x)
    | none => s
  match v.est with
  | some e => s.iff (own && s.mode.mode = 1 && s.rb .timCtrl 0 7 && 1000 < e.natAbs) fun s =>
      s.setTime (v.setTo.getD ((s.timeAt s.clk.now : Int) - 32 * e).toNat)
  | none => s

/-! ### PPS -/

/-- Seconds of T at a tick advanced by the compensation of PPS_OUT (R169). -/
def State.ppsSecond (s : State) (c : Nat) : Nat :=
  s.tim.timeOf (32 * ((c : Int) + sx 16 (s.rf .timPpsCtrl 0 15 0))) / 32000000000

/-! ### Firing (R185, R188) -/

/-- Up to the next even tick. -/
def ceilCore (t : Nat) : Nat := t + t % 2

/-- Up to the next LINK edge. -/
def ceilLink (t : Nat) : Nat := (t + 7) / 8 * 8

/-- When a fired action reaches its unit (R511). -/
def bellArrive (action t : Nat) : Nat :=
  if action = 0x0A then ceilLink t + Config.bellFireStation else ceilCore t + Config.bellFire

/-- The entry after a firing with repeat (R188). -/
def State.bellNext (s : State) (e : BellE) : BellE :=
  if e.net then
    let n := e.ntime + e.period
    { e with ntime := n, lc := s.countAt (32 * n), lateOk := true }
  else { e with lc := e.lc + e.period, lateOk := true }

/-- The highest-ranked due entry fires, one per tick (R185, R188). -/
def State.bellFire (s : State) : State :=
  match s.bell.entries with
  | e :: rest =>
    let now := s.clk.now
    if s.up && e.lc ≤ now && s.bell.lastFire != some now then
      let l := max (s.rf .belStatus 0 31 16) (min 0xFFFF (now - e.lc))
      let s := s.setRf .belStatus 0 31 16 l
      let keep := if e.rep then insBy bellBefore (s.bellNext e) rest else rest
      s.modBell fun b =>
        { b with entries := keep, fired := b.fired ++ [⟨e, now, bellArrive e.action now⟩], lastFire := some now }
    else s
  | [] => s

/-- Takes the oldest fired action with a code that has reached its unit. -/
def State.onFired (s : State) (action : Nat) (unit : Option Nat) (f : Fired → State → State) : State :=
  let mine := fun x : Fired => x.e.action = action && x.arrive ≤ s.clk.now && (unit.isNone || unit = some x.e.unit)
  match s.bell.fired.find? mine with
  | some x => if s.up then f x (s.modBell fun b => { b with fired := delFirst mine b.fired }) else s
  | none => s

end Sys2Proof.Machine
end

