-- ==== Sys2Proof/Machine/Station.lean ====
section
/-! DEFINITION. The two station ports (R171 to R180), Bell frames (R190 to R193), BELL_ADD, EMIT_FRAME.  A frame is its
octets from the destination address to the FCS.  The places of PTP message fields are IEEE 1588's (PRESUMED, log entry 25). -/

namespace Sys2Proof.Machine

/-! ### Egress -/

/-- A frame with its FCS. -/
def withFcs (b : Bytes) : Bytes := b ++ le 4 (crc32 b)

/-- Pads a frame without FCS to the Ethernet minimum. -/
def padFrame (b : Bytes) : Bytes := padTo 60 b

/-- The port runs and has link, and is not retired (R370). -/
def State.staUp (s : State) (n : Nat) : Bool :=
  n < 2 && s.up && s.rb .ptpPortCtrl n 31 && (s.sta n).link && (s.health1 (102 + n)).state != 3

/-- Sends what the line has had time for, the high queue first (R173); a frame takes its octets and 20 more at 8 ns. -/
def StaPort.drain (now : Nat) : Nat → StaPort → StaPort
  | 0, p => p
  | k + 1, p =>
    if now < p.lineFree then p
    else match (p.txq.find? (·.high)).or p.txq.head? with
      | none => p
      | some f =>
        StaPort.drain now k { p with txq := delFirst (fun x => x = f) p.txq, sent := f.bytes :: p.sent,
                                     lineFree := max p.lineFree (now - 1) + (f.bytes.length + 20) * 8 }

/-- Octets in the low queue (R173: 16 KiB). -/
def StaPort.lowBytes (p : StaPort) : Nat := ((p.txq.filter fun f => !f.high).map fun f => f.bytes.length).sum

/-- Counts a dropped frame. -/
def State.staDrop (s : State) (n : Nat) : State := s.modSta n fun p => { p with drops := satAdd 0xFFFF p.drops 1 }

/-- Queues a frame on a port; one that does not fit is dropped and counted. -/
def State.staQueue (s : State) (n : Nat) (high : Bool) (b : Bytes) : State :=
  if !s.staUp n then s
  else
    let s := s.modSta n fun p => p.drain s.clk.now p.txq.length
    if !high && 16384 < (s.sta n).lowBytes + b.length then s.staDrop n
    else s.modSta n fun p => ({ p with txq := p.txq ++ [(⟨high, b⟩ : TxFrame)] } : StaPort).drain s.clk.now 1

/-! ### Addresses and kinds -/

/-- A MAC address held in a _HI and _LO pair, first octet first. -/
def macBytes (hi lo : Word) : Bytes := be 2 hi.toNat ++ be 4 lo.toNat

def State.ownMac (s : State) : Bytes := macBytes (s.reg .ptpMacHi) (s.reg .ptpMacLo)
def State.bellMac (s : State) : Bytes := macBytes (s.reg .belMcastHi) (s.reg .belMcastLo)

/-- Octet offset of the payload, behind one 802.1Q tag if there is one. -/
def payloadAt (b : Bytes) : Nat := if beVal (slice b 12 2) = 0x8100 then 18 else 14
def etherType (b : Bytes) : Nat := beVal (slice b (payloadAt b - 2) 2)

/-- PTP fields of a frame, at their places in the message (IEEE 1588). -/
def ptpType (b : Bytes) : Nat := lef b (payloadAt b) 1 % 16
def ptpTwoStep (b : Bytes) : Bool := nbit (lef b (payloadAt b + 6) 1) 1
def ptpDomain (b : Bytes) : Nat := lef b (payloadAt b + 4) 1
def ptpCorr (b : Bytes) : Int := sx 64 (beVal (slice b (payloadAt b + 8) 8))
def ptpPortId (b : Bytes) : Bytes := slice b (payloadAt b + 20) 10
def ptpSeq (b : Bytes) : Nat := beVal (slice b (payloadAt b + 30) 2)

/-- Replaces n octets at an offset. -/
def patch (b : Bytes) (off : Nat) (v : Bytes) : Bytes := b.take off ++ v ++ b.drop (off + v.length)

/-- Adds to the correctionField, saturating at its greatest value, and renews the FCS (R175). -/
def addCorr (b : Bytes) (x : Int) : Bytes :=
  let c := min (2 ^ 63 - 1) (ptpCorr b + x)
  let d := patch b (payloadAt b + 8) (be 8 (cx 64 c))
  withFcs (d.take (d.length - 4))

/-- Stamps of R174 from the passage at the serializer: 7.2 ns and 21.6 ns are 230.4 and 691.2 units, taken to the nearest unit
(DESIGN CHOICE, log entry 125). -/
def State.rxStamp (s : State) (n raw : Nat) : Int := (raw : Int) - 691 - sx 32 (s.reg .ptpRxComp n).toNat
def State.txStamp (s : State) (n raw : Nat) : Int := (raw : Int) + 230 + sx 32 (s.reg .ptpTxComp n).toNat

/-- A PTP event message, or a Bell frame: it takes the high queue (R173). -/
def State.staHigh (s : State) (b : Bytes) : Bool :=
  (etherType b = 0x88F7 && ptpType b < 8) || (b.take 6 = s.bellMac && etherType b = s.rf .belCtrl 0 31 16)

/-- The identity of PTP port n: the MAC as an EUI-64, and the port's number. -/
def State.ptpIdentity (s : State) (n : Nat) : Bytes := s.ownMac.take 3 ++ [0xFF, 0xFE] ++ s.ownMac.drop 3 ++ be 2 (n + 1)

/-- A peer delay message of port n, in a frame (IEEE 1588: PRESUMED, log entry 25). -/
def State.pdelayFrame (s : State) (n ty seq : Nat) (corr : Int) (tail : Bytes) : Bytes :=
  let head := le 1 ty ++ le 1 2 ++ be 2 54 ++ le 1 (s.rf .ptpCtrl 0 31 24) ++ zeros 3 ++ be 8 (cx 64 corr) ++ zeros 4 ++
    s.ptpIdentity n ++ be 2 seq ++ le 1 5 ++ le 1 0x7F
  withFcs (padFrame (be 6 0x0180C200000E ++ s.ownMac ++ be 2 0x88F7 ++ head ++ zeros 10 ++ tail))

/-- The interval that a message announces, in ticks: 2 to the power of its logMessageInterval, in seconds; 0x7F names none and stands for
the profiles' one second. -/
def ptpInterval (b : Bytes) : Nat :=
  let x := lef b (payloadAt b + 33) 1
  if x = 0x7F then 1000000000 else if x < 128 then 1000000000 * 2 ^ x else 1000000000 / 2 ^ (256 - x)

/-- The rank of an Announce: priority 1, clock quality, priority 2, grandmaster, steps removed, sender (IEEE 1588: PRESUMED, log entry
25). -/
def annKey (b : Bytes) : Nat := beVal (slice b (payloadAt b + 47) 16 ++ ptpPortId b)

/-- The IEEE_C37_238 TLV among the TLVs of a message: an organization extension of 1C-12-9D. -/
def findTlv : Nat → Bytes → Option Bytes
  | 0, _ => none
  | k + 1, b =>
    let n := beVal (slice b 2 2)
    if b.length < 4 || b.length < 4 + n then none
    else if beVal (slice b 0 2) = 3 && beVal (slice b 4 3) = 0x1C129D then some (b.take (4 + n))
    else findTlv k (b.drop (4 + n))

/-! ### Bell frames -/

/-- A Bell frame (R191) with the next sequence number, queued high on both ports (R190). -/
def State.sendBell (s : State) (es : List Bytes) : State :=
  let p := le 1 1 ++ le 1 es.length ++ le 1 (s.rf .ptpCtrl 0 31 24) ++ zeros 1 ++ le 2 (s.rf .belCtrl 0 13 0) ++ zeros 2 ++
    le 4 s.bell.frameSeq ++ zeros 4 ++ es.flatten
  let f := withFcs (padFrame (s.bellMac ++ s.ownMac ++ be 2 (s.rf .belCtrl 0 31 16) ++ p))
  let s := s.modBell fun b => { b with frameSeq := (b.frameSeq + 1) % 2 ^ 32 }
  (s.staQueue 0 true f).staQueue 1 true f

/-- Sends entries in frames of up to 8. -/
def State.sendBells (s : State) : Nat → List Bytes → State
  | 0, _ => s
  | k + 1, es => if es.isEmpty then s else (s.sendBell (es.take 8)).sendBells k (es.drop 8)

/-- Inserts entries in order until one fails: status, how many passed, entries for other devices, the state. -/
def State.bellAddGo (s : State) (n : Nat) (out : List Bytes) : List Bytes → Nat × Nat × List Bytes × State
  | [] => (0, n, out, s)
  | b :: r =>
    let dev := lef b 8 2
    let out' := if !nbit dev 15 && s.bellHere dev then out else out ++ [b]
    if s.bellHere dev then
      let (c, s') := s.bellInsert b
      if c = 0 then s'.bellAddGo (n + 1) out' r else (c, n, out, s')
    else if s.bellBad b then (4, n, out, s)
    else s.bellAddGo (n + 1) out' r

/-- n entries of 32 bytes. -/
def entries32 (b : Bytes) (n : Nat) : List Bytes := (List.range n).map fun i => slice b (32 * i) 32

/-- A template's 32 bytes. -/
def State.template (s : State) (t : Nat) : Bytes := (List.range 8).flatMap fun w => le 4 (s.reg .belTmpl t w).toNat

/-- Sends a template as a one-entry Bell frame with the time of an instant in 1/32 ns (R190, R193, R429). -/
def State.sendTemplate (s : State) (i : Nat) (stamp : Int) : State :=
  let T := s.tim.timeOf stamp
  let b := le 4 (T % 32000000000 / 32) ++ le 4 (T / 32000000000) ++ (s.template i).drop 8
  let s := s.sendBell [b]
  s.iff (s.bellHere (lef b 8 2)) fun s => (s.bellInsert b).2

/-- Payload of a received Bell frame in the form of R191: sender's domain and entries. -/
def parseBell (b : Bytes) : Option (Nat × List Bytes) :=
  let p := slice b (payloadAt b) (b.length - 4 - payloadAt b)
  let n := lef p 1 1
  let es := entries32 (p.drop 16) n
  if lef p 0 1 = 1 && 1 ≤ n && n ≤ 8 && lef p 3 1 = 0 && lef p 6 2 = 0 && lef p 12 4 = 0 && p.length = 16 + 32 * n &&
      es.all (fun e => nbit (lef e 0x0E 2) 0) then
    some (lef p 2 1, es)
  else none

/-- A Bell frame's entries for this device (R192). -/
def State.bellReceive (s : State) (dom : Nat) (es : List Bytes) : State :=
  if !s.rb .belCtrl 0 15 || dom != s.rf .ptpCtrl 0 31 24 then s
  else es.foldl (fun s e => s.iff (s.bellHere (lef e 8 2)) (·.bellInsertFrame e)) s

/-! ### Reception -/

/-- A record of ring 9 (R180). -/
def State.deliver (s : State) (n : Nat) (stamp : Int) (b : Bytes) : State :=
  let f := b.take (b.length - 4)
  s.emitRecord 9 0x01 (tsBytes (s.tim.timeOf stamp) ++ le 1 n ++ zeros 1 ++ le 2 f.length ++ zeros 12 ++ f)

/-- An Announce on port n: the port keeps the best one that has not timed out; under IEEE C37.238 its TLV is read (R178). -/
def State.announce (s : State) (n : Nat) (b : Bytes) : State :=
  let new : Ann := ⟨annKey b, ptpPortId b, s.clk.now, ptpInterval b⟩
  let takes := match (s.sta n).ann with
    | some a => a.sender = new.sender || a.at_ + 3 * a.every ≤ s.clk.now || new.key < a.key
    | none => true
  let s := s.iff takes (·.modSta n fun p => { p with ann := some new })
  match findTlv 64 (slice b (payloadAt b + 64) (b.length - 4 - (payloadAt b + 64))) with
  | some x => s.iff (s.rf .ptpCtrl 0 19 16 = 1) (·.modTim fun m => { m with tlv := x })
  | none => s

/-- What the PTP logic does with a frame of ingress stamp `stamp`: peer delay (R177), Announce (R178), Sync of the slave port (R166), the
servo (R165).  `out` is the egress stamp of a response, which as a one-step responder carries its turnaround. -/
def State.ptpLogic (s : State) (n : Nat) (stamp out : Int) (b : Bytes) (v : Servo) : State :=
  let ty := ptpType b
  if ty = 2 then s.staQueue n true (s.pdelayFrame n 3 (ptpSeq b) (ptpCorr b + (out - stamp) * 2048) (ptpPortId b))
  else if ty = 3 then
    match (s.sta n).req with
    | some (q, t1) =>
      if q = ptpSeq b && slice b (payloadAt b + 44) 10 = s.ptpIdentity n then
        let d := tdivI ((stamp - t1) * 2048 - ptpCorr b) 4096
        s.modSta n fun p =>
          { p with req := none, linkDelay := d, exchanges := min 3 (p.exchanges + 1), pdelayOk := p.pdelayOk || 3 ≤ p.exchanges + 1 }
      else s
    | none => s
  else if ptpDomain b != s.rf .ptpCtrl 0 31 24 then s
  else if ty = 0xB then s.announce n b
  else if s.slavePort = some n && ((s.sta n).ann.map fun a => a.sender) = some (ptpPortId b) && (ty = 0 || ty = 8) then
    let s := s.iff (ty = 0) (·.modTim fun m => { m with lastSync := s.clk.now, syncEvery := ptpInterval b })
    s.iff (s.timSource = 0) fun s => (s.iff (ty = 0) State.sourcePresent).servo v
  else s

/-- The frame as it leaves the other port: Sync and Follow_Up corrected (R175, R176). -/
def State.corrected (s : State) (n : Nat) (stamp out : Int) (b : Bytes) : Bytes × State :=
  let x := ((s.tim.timeOf out : Int) - s.tim.timeOf stamp + (s.sta n).linkDelay) * 2048
  if ptpType b = 0 then
    if ptpTwoStep b then
      (b, s.modSta n fun p =>
        { p with held := (if p.held.length < 8 then p.held else p.held.drop 1) ++ [⟨ptpSeq b, ptpPortId b, x⟩] })
    else (addCorr b x, s)
  else if ptpType b = 8 then
    let mine := fun h : HeldSync => h.seqId = ptpSeq b && h.portId = ptpPortId b
    match (s.sta n).held.find? mine with
    | some h => (addCorr b h.corr, s.modSta n fun p => { p with held := delFirst mine p.held })
    | none => (b, s.modSta n fun p => { p with fuMiss := satAdd 255 p.fuMiss 1 })
  else (b, s)

/-- The table of R172 for a frame with a good FCS; a Bell frame whose payload breaks its layout is dropped (R191).  `out` is the egress stamp
of what the frame makes leave: itself on the other port, a peer delay response on its own. -/
def State.switchFrame (s : State) (n : Nat) (stamp out : Int) (b : Bytes) (v : Servo) : State :=
  let dst := b.take 6
  let copy := s.rb .ptpCtrl 0 1
  if dst = s.ownMac then s.deliver n stamp b
  else if slice b 6 6 = s.ownMac then s.staDrop n
  else if dst = be 6 0x0180C200000E then s.ptpLogic n stamp out b v
  else if dst = be 6 0x011B19000000 && etherType b = 0x88F7 then
    let s := s.ptpLogic n stamp out b v
    let (c, s) := s.corrected n stamp out b
    (s.staQueue (1 - n) (s.staHigh b) c).iff copy (·.deliver n stamp b)
  else if dst = s.bellMac && etherType b = s.rf .belCtrl 0 31 16 then
    match parseBell b with
    | none => s.staDrop n
    | some (dom, es) => ((s.staQueue (1 - n) true b).bellReceive dom es).iff copy (·.deliver n stamp b)
  else if dst = be 6 0xFFFFFFFFFFFF then (s.staQueue (1 - n) (s.staHigh b) b).deliver n stamp b
  else if nbit (lef dst 0 1) 0 then (s.staQueue (1 - n) (s.staHigh b) b).iff (s.rb .ptpCtrl 0 0) (·.deliver n stamp b)
  else s.staQueue (1 - n) (s.staHigh b) b

/-- The link of a station port falls (R369, R370): counted, and the port restarts. -/
def State.staFall (s : State) (n : Nat) : State :=
  if (s.sta n).link then
    (s.modSta n fun p => { p with link := false, pdelayOk := false, exchanges := 0, req := none, restarting := true }).healthCount (102 + n)
  else s

end Sys2Proof.Machine
end

