-- ==== Sys2Proof/Machine/Capture.lean ====
section
/-! DEFINITION. Capture units (R408 to R429): streams, chunks, reductions, triggers, records, ring 4. -/

namespace Sys2Proof.Machine

/-! ### Memory and streams -/

/-- The stream exists on this part (R411, R417). -/
def State.streamOk (s : State) (code : Nat) : Bool :=
  code < 6 || (0x10 ≤ code && code < 0x30) || (0x40 ≤ code && code < 0x70 && s.hasPort (code - 0x40)) ||
  (0x80 ≤ code && code < 0xB0 && s.hasPort (code - 0x80)) || (0xC0 ≤ code && code < 0xF0 && s.hasPort (code - 0xC0)) ||
  code = 0xF0 || (0xF8 ≤ code && code < 0xFB)

/-- A slot word of CAP_UNIT_STREAM. -/
def State.slotWord (s : State) (u i : Nat) : Word := s.reg .capUnitStream u i
def slotOn (w : Word) : Bool := fld w 11 8 != 0
def slotCode (w : Word) : Nat := fld w 7 0

/-- Samples in a group (R414). -/
def slotN (w : Word) : Nat := 2 ^ max 1 (fld w 19 16)

/-- Chunks the unit's region holds. -/
def State.regionChunks (s : State) (u : Nat) : Nat := s.rf .capUnitRegion u 29 16 * 16384

/-- Post-trigger end of the record. -/
def State.capStop (s : State) (u : Nat) : Int := (s.unit u).trig + (s.reg .capUnitPost u).toNat

/-! ### Chunks -/

def Chunk.empty : Chunk := ⟨0, 0, 0, 0, 0, 0, []⟩

/-- The open chunk of a slot's form. -/
def CapUnit.open1 (x : CapUnit) (k : Nat) : Chunk := tget (fun _ => Chunk.empty) x.opens k
def CapUnit.putOpen (x : CapUnit) (k : Nat) (c : Chunk) : CapUnit :=
  { x with opens := tput (fun _ => Chunk.empty) x.opens k c }

/-- Settles the record's first chunk (R419): older chunks are left out. -/
def CapUnit.fix (x : CapUnit) (pre : Nat) : CapUnit :=
  if x.fixed then x
  else
    let b := x.trig - pre
    let old := match x.chunks.head? with
      | some c => c.time ≤ b
      | none => x.opens.any fun e => e.2.time ≤ b
    { x with fixed := true, short := !old, chunks := x.chunks.dropWhile fun c => c.time < b }

/-- 64 bytes of a chunk, its time counted from the trigger instant (R412, R413). -/
def Chunk.bytes (c : Chunk) (trig : Int) : Bytes :=
  le 1 c.code ++ le 1 c.red ++ le 1 c.count ++ le 1 c.isize ++ le 4 (cx 32 (c.time - trig)) ++ padTo 56 c.items

/-- What stays in write queues after b half bytes have been written: queues that hold something share alike, and what a queue that runs
empty leaves goes to the others, in as many rounds as there are queues. -/
def drainQueues : Nat → List Nat → Nat → List Nat
  | 0, l, _ => l
  | n + 1, l, b =>
    let share := b / max 1 (l.filter fun q => q != 0).length
    drainQueues n (l.map fun q => q - share) (b - (l.map fun q => min q share).sum)

/-- Drains the write queues up to now at 12 or 10.5 bytes per tick or more, the units sharing alike: R410 gives the least sustained
bandwidth, what is written beyond it is free (DESIGN CHOICE, log entry 26). -/
def State.capDrain (s : State) : State :=
  let b := (s.clk.now - s.cap.qAt) * (if s.cap.eccOn then 21 else 24) + Config.capSpare s.cap.qAt s.clk.now
  let l := drainQueues 8 ((List.range 8).map fun u => (s.unit u).queue) b
  (s.forAll (List.range 8) fun u s => s.modUnit u fun x => { x with queue := nth l u 0 }).modCap fun c => { c with qAt := s.clk.now }

/-! ### Measurements (R423, R424) -/

/-- Samples of a raw fast stream in a list of chunks: instant and code. -/
def rawSamples (code : Nat) (l : List Chunk) : List (Int × Int) :=
  l.flatMap fun c => if c.code = code && c.red = 0 then
    (List.range c.count).map fun (i : Nat) => (c.time + 25 * (i : Int), sx 16 (lef c.items (2 * i) 2)) else []

/-- The instant in 1/32 ns at which two consecutive samples cross a level upward. -/
def crossAt (v : Int) (a b : Int × Int) : Option Int :=
  if b.1 = a.1 + 25 && a.2 < v && v ≤ b.2 then some (32 * a.1 + tdivI (800 * (v - a.2)) (b.2 - a.2)) else none

/-- Upward crossings of a level with hysteresis, from an armed flag on: one between samples that are not consecutive has no instant. -/
def crossings (v h : Int) : Bool → List (Int × Int) → List Int
  | armed, a :: b :: r =>
    let armed := armed || decide (a.2 < v - h)
    if armed && v ≤ b.2 then (crossAt v a b).toList ++ crossings v h false (b :: r) else crossings v h armed (b :: r)
  | _, _ => []

/-- All upward crossings of a level. -/
def allCrossings (v : Int) : List (Int × Int) → List Int
  | a :: b :: r => (crossAt v a b).toList ++ allCrossings v (b :: r)
  | _ => []

/-- The measurement part of the header, from 0x2C to 0x4F. -/
def measure2 (l : List (Int × Int)) (trig : Int) : Bytes :=
  let xs := l.map Prod.snd
  let mn := xs.foldl min (xs.headD 0)
  let mx := xs.foldl max (xs.headD 0)
  let amp := mx - mn
  let sq := (xs.map fun x => x.natAbs * x.natAbs).sum
  let n := xs.length
  let rms := if n = 0 then 0 else isqrt ((sq + n / 2) / n)
  let cr := crossings (asr (mx + mn) 1) (asr amp 3) false l
  let period := if 2 ≤ cr.length then tdivI (cr.getLastD 0 - cr.headD 0) (cr.length - 1) else 0
  let rise := match (allCrossings (mn + tdivI (amp * 10) 100) l).find? (fun t => 32 * trig ≤ t) with
    | some t10 => match (allCrossings (mn + tdivI (amp * 90) 100) l).find? (fun t => t10 < t) with
      | some t90 => t90 - t10
      | none => 0
    | none => 0
  le 2 (cx 16 mn) ++ le 2 (cx 16 mx) ++ le 2 (max mn.natAbs mx.natAbs) ++ le 2 amp.toNat ++ le 2 rms ++ zeros 2 ++
  le 4 cr.length ++ zeros 4 ++ le 8 period.toNat ++ le 8 rise.toNat

/-- The instant of the last item that a unit's record stores, the trigger's without one (R423; DESIGN CHOICE, log entry 26). -/
def CapUnit.lastItem (x : CapUnit) : Int := (x.chunks.map fun c => c.last).foldl max ((x.chunks.head?.map fun c => c.last).getD x.trig)

/-- The record header (R423). -/
def State.capHeader (s : State) (u : Nat) (x : CapUnit) : Bytes :=
  let w := s.slotWord u (s.rf .capUnitCfg u 26 24)
  let code := slotCode w
  let l := if code < 6 && bit w 8 then rawSamples code x.chunks else []
  let ok := 2 ≤ l.length && !x.lostMeas
  let tw := s.tw code
  let lo := 32 * (x.trig - (s.reg .capUnitPre u).toNat)
  let hi := 32 * (x.trig + (s.reg .capUnitPost u).toNat)
  let stamp := if code < 6 && tw.found && lo ≤ tw.stamp && tw.stamp ≤ hi then tw.stamp else 0
  let first := match x.chunks.head? with
    | some c => c.time - x.trig
    | none => 0
  padTo 128 (le 8 (cx 64 x.trig) ++
    (if s.tim.quality = 0 then zeros 16 else tsBytes (s.tim.timeOf (32 * x.trig))) ++ le 4 (cx 32 first) ++
    le 4 (cx 32 (x.lastItem - x.trig)) ++ le 8 (128 + 64 * x.chunks.length) ++ le 1 x.src ++
    le 1 (b2n x.ovrun + 2 * b2n x.trunc + 4 * b2n x.short + 8 * b2n ok) ++ le 2 u ++
    (if ok then measure2 l x.trig else zeros 36) ++ le 8 (cx 64 stamp))

/-! ### The end of a record -/

/-- Appends the open chunks while there is room; the rest is lost and the record truncated (R420, R421). -/
def CapUnit.flushOpens (x : CapUnit) (cap : Nat) : CapUnit :=
  let l := x.opens.map fun (e : Nat × Chunk) => e.2
  let n := cap - x.chunks.length
  { x with chunks := x.chunks ++ l.take n, opens := [], trunc := x.trunc || n < l.length }

/-- Ends the record of unit u (R420 to R423, R427).  An overflow loses the open chunks too. -/
def State.capEnd (s : State) (u : Nat) (ovrun trunc : Bool) : State :=
  let s := s.modUnit u fun x =>
    let x := { x.fix (s.reg .capUnitPre u).toNat with ovrun := ovrun, trunc := trunc }
    if ovrun then { x with opens := [], lostMeas := x.lostMeas || (x.open1 (8 * s.rf .capUnitCfg u 26 24)).count != 0 }
    else x.flushOpens (s.regionChunks u)
  let s := s.modUnit u fun x => { x with st := 3, reds := [], header := s.capHeader u x }
  let x := s.unit u
  let s := s.setRf .capUnitStatus u 7 0 (s.rf .capUnitStatus u 7 0 + 1)
  let s := s.setRf .capUnitStatus u 29 27 (4 * b2n x.ovrun + 2 * b2n x.trunc + b2n x.short)
  let s := s.iff ovrun (·.raise 384 u)
  let s := s.iff x.trunc (·.raise 385 u)
  match s.roleRing 4 with
  | some i =>
    let st := if ovrun then 0x11 else if x.trunc then 0x10 else 0
    s.notice (s.ringCq i) (complBytes u i st 0 0x40 0 ((128 + 64 * x.chunks.length) % 2 ^ 32) 0)
  | none => s

/-- Writes a closed chunk into the unit's region (R413, R416, R421, R422). -/
def State.capStore (s : State) (u : Nat) (c : Chunk) : State :=
  let x := s.unit u
  if x.st != 1 && x.st != 2 then s
  else
    let s := s.capDrain
    if 131072 < (s.unit u).queue + 128 then
      let s := s.iff (c.code = slotCode (s.slotWord u (s.rf .capUnitCfg u 26 24)) && c.red = 0)
        (·.modUnit u fun x => { x with lostMeas := true })
      let s := s.iff (x.st = 1) (·.modUnit u fun x => { x with trig := s.clk.now, src := 0 })
      s.capEnd u true false
    else
      let room := s.regionChunks u
      let settled := x.trigCyc != coreCycle s.clk.now || room ≤ x.chunks.length
      let s := s.modUnit u fun x => { (if x.st = 2 && settled then x.fix (s.reg .capUnitPre u).toNat else x) with queue := x.queue + 128 }
      let x := s.unit u
      if x.chunks.length < room then s.modUnit u fun x => { x with chunks := x.chunks ++ [c] }
      else if x.st = 1 then s.modUnit u fun x => { x with chunks := x.chunks.drop 1 ++ [c] }
      else s.capEnd u false true

/-- Closes the open chunk of a slot's form. -/
def State.capClose (s : State) (u k : Nat) : State :=
  let c := (s.unit u).open1 k
  if c.count = 0 then s else (s.modUnit u fun x => x.putOpen k Chunk.empty).capStore u c

/-- How the items of a stream lie: at a fixed spacing, with an offset of their own, or one behind the other. -/
inductive Lay where
  | spaced (n : Nat)
  | offset
  | follow
  deriving DecidableEq, Repr

/-- Adds one item to a slot's form (R412, R413); items at or after the record's end are not stored (R420). -/
def State.capItem (s : State) (u k code red : Nat) (lay : Lay) (inst : Int) (b : Bytes) : State :=
  let x := s.unit u
  if (x.st != 1 && x.st != 2) || (x.st = 2 && s.capStop u ≤ inst) then s
  else
    let c := x.open1 k
    let gap := match lay with
      | .spaced n => c.count != 0 && inst != c.time + (c.count * n : Nat)
      | _ => false
    let s := s.iff gap (·.capClose u k)
    let x := s.unit u
    if x.st != 1 && x.st != 2 then s
    else
      let c := x.open1 k
      let time := if c.count = 0 then inst else c.time
      let item := match lay with
        | .offset => le 4 (cx 32 (inst - time)) ++ b
        | _ => b
      let d : Chunk := ⟨code, red, c.count + 1, item.length, time, inst, c.items ++ item⟩
      let s := s.modUnit u fun x => x.putOpen k d
      s.iff (56 < (d.count + 1) * d.isize) (·.capClose u k)

/-- Applies an update to every slot of every unit that stores a stream. -/
def State.capEach (s : State) (code : Nat) (f : Nat → Nat → Word → State → State) : State :=
  s.forAll (List.range 8) fun u s =>
    if (s.unit u).st = 1 || (s.unit u).st = 2 then
      s.forAll (List.range 8) fun i s =>
        let w := s.slotWord u i
        s.iff (slotOn w && slotCode w = code) (f u i w)
    else s

/-- The watermark of a stream moves (R420). -/
def State.capMark (s : State) (code : Nat) (m : Int) : State :=
  if iget s.cap.marks code < m then
    s.modCap fun c => { c with marks := iput c.marks code m, markAt := nput c.markAt code s.clk.now }
  else s

/-- A raw item of a stream. -/
def State.capRaw (s : State) (code : Nat) (lay : Lay) (inst : Int) (b : Bytes) : State :=
  s.capEach code fun u i w s => s.iff (bit w 8) (·.capItem u (8 * i) code 0 lay inst b)

/-- A gap in a stream closes its chunks (R413). -/
def State.capGap (s : State) (code : Nat) : State :=
  s.capEach code fun u i _ s => s.forAll (List.range 5) fun r s => s.capClose u (8 * i + r)

/-! ### Reductions (R414, R415) -/

def CapUnit.red1 (x : CapUnit) (k : Nat) : Red := tget (fun _ => Red.reset) x.reds k
def CapUnit.putRed (x : CapUnit) (k : Nat) (r : Red) : CapUnit := { x with reds := tput (fun _ => Red.reset) x.reds k r }

/-- The instant at which the group of n samples around one starts: a multiple of 25 × n of the aligned count, which is the local count
while the pair offset is 0 (R389, R414; DEDUCED, log entry 142). -/
def State.groupStart (s : State) (n inst : Nat) : Int := (inst : Int) - (s.aligned inst % (25 * n) : Nat)

/-- One sample into the groups of a slot. -/
def State.capGroup (s : State) (u i code : Nat) (w : Word) (inst : Nat) (v : Int) : State :=
  let n := slotN w
  let g := s.groupStart n inst
  let r0 := (s.unit u).red1 (2 * i)
  let r : Red := if r0.n != 0 && r0.start = g then
      { r0 with n := r0.n + 1, sum := r0.sum + v, mn := min r0.mn v, mx := max r0.mx v }
    else { Red.reset with start := g, n := 1, sum := v, mn := v, mx := v, bad := inst != g || g < (s.unit u).armAt }
  if r.n < n && inst + 25 < g + 25 * n then s.modUnit u fun x => x.putRed (2 * i) r
  else
    let s := s.modUnit u fun x => x.putRed (2 * i) Red.reset
    if r.bad || r.n < n then s
    else
      let k := max 1 (fld w 19 16)
      let p := fun (red : Nat) (y : Int) (s : State) => s.capItem u (8 * i + red) code red (.spaced (25 * n)) g (le 2 (cx 16 y))
      let s := s.iff (bit w 9) fun s => p 2 r.mx (p 1 r.mn s)
      s.iff (bit w 10) (p 3 (asr (r.sum + 2 ^ (k - 1)) k))

/-- Writes the RMS item of a cycle that ends. -/
def State.capRms (s : State) (u i code : Nat) (r : Red) (forced : Bool) : State :=
  let rms := isqrt ((r.sq + r.n / 2) / r.n)
  s.capItem u (8 * i + 4) code 4 .follow r.start (le 2 rms ++ le 2 (b2n forced) ++ le 4 r.n)

/-- One sample into the RMS cycles of a slot. -/
def State.capCycle (s : State) (u i code : Nat) (w : Word) (inst : Nat) (v : Int) : State :=
  let r := (s.unit u).red1 (2 * i + 1)
  let r : Red := if r.live && r.n != 0 && r.start + (25 * r.n : Nat) != inst then { r with live := false, n := 0, sq := 0 } else r
  let crossing := r.armed && 0 ≤ v
  let s := s.iff (crossing && r.live && r.n != 0) (·.capRms u i code r false)
  let r : Red := if crossing then { Red.reset with start := inst, live := true }
    else if r.live && r.n = 0 then { r with start := inst } else r
  let r : Red := { r with armed := (r.armed && !crossing) || decide (v < -(fld w 31 20 : Int)) }
  let r : Red := if r.live then { r with n := r.n + 1, sq := r.sq + v.natAbs * v.natAbs } else r
  if r.live && 2 ^ 24 ≤ r.n then
    (s.capRms u i code r true).modUnit u fun x => x.putRed (2 * i + 1) { Red.reset with live := true, armed := r.armed }
  else s.modUnit u fun x => x.putRed (2 * i + 1) r

/-- A valid fast sample reaches the units (R411, R414, R415). -/
def State.capFast (s : State) (n inst : Nat) (v : Int) : State :=
  let s := s.capEach n fun u i w s =>
    let s := s.iff (bit w 8) (·.capItem u (8 * i) n 0 (.spaced 25) inst (le 2 (cx 16 v)))
    let s := s.iff (bit w 9 || bit w 10) (·.capGroup u i n w inst v)
    s.iff (bit w 11) (·.capCycle u i n w inst v)
  s.capMark n inst

/-- An invalid fast sample: chunks close, its group and cycle are lost. -/
def State.capFastGap (s : State) (n inst : Nat) : State :=
  let s := s.capGap n
  let s := s.capEach n fun u i w s => s.modUnit u fun x =>
    let g := s.groupStart (slotN w) inst
    let r := x.red1 (2 * i)
    let r : Red := if r.n != 0 && r.start = g then { r with bad := true } else { Red.reset with start := g, n := 1, bad := true }
    let c := x.red1 (2 * i + 1)
    (x.putRed (2 * i) r).putRed (2 * i + 1) { c with live := false, n := 0, sq := 0 }
  s.capMark n inst

/-! ### Triggers (R418, R419, R429) -/

/-- Sends the cross-trigger of a source trigger. -/
def State.crossTrigger (s : State) (u : Nat) (T : Int) : State :=
  if !s.rb .capUnitCfg u 31 then s
  else if s.tim.quality = 0 || s.tim.quality = 1 || s.tim.quality = 5 then s.raise 386 u
  else s.sendTemplate (s.rf .capUnitCfg u 29 27) (32 * T)

/-- A trigger reaches unit u with its instant, source code and rank; of those of one core cycle the one with the smallest instant, and on equal
instants the lowest rank, is taken.  A force that finds the unit outside Armed is counted. -/
def State.capTrigger (s : State) (u : Nat) (T : Int) (src rank : Nat) : State :=
  let x := s.unit u
  let now := coreCycle s.clk.now
  let take := fun s : State => s.modUnit u fun x => { x with st := 2, trig := T, src := src, trigCyc := now, rank := rank }
  if x.st = 1 && coreCycle x.armAt != now then (take s).iff (rank = 2) (·.crossTrigger u T)
  else if x.st = 2 && x.trigCyc = now then
    s.iff (T < x.trig || (T = x.trig && rank < x.rank)) fun s => (take s).iff (rank = 2) (·.crossTrigger u T)
  else s.iff (rank != 2) (·.bump .capUnitStatus u 15 8)

/-- A trigger of a source reaches every unit that names it. -/
def State.capFire (s : State) (src : Nat) (T : Int) : State :=
  s.forAll (List.range 8) fun u s => s.iff (s.rf .capUnitCfg u 7 0 = src) (·.capTrigger u T src 2)

/-! ### Arming and leaving -/

/-- Whether two regions in MiB share anything. -/
def overlap (b1 n1 b2 n2 : Nat) : Bool := b1 < b2 + n2 && b2 < b1 + n1

/-- The configuration check of ARM (R417); meas may name a slot of a stream that is no fast input (DEDUCED, log entry 132). -/
def State.armBad (s : State) (u : Nat) : Bool :=
  let size := s.rf .capUnitRegion u 29 16
  let base := s.rf .capUnitRegion u 13 0
  let ws := (List.range 8).map fun i => s.slotWord u i
  let m := s.slotWord u (s.rf .capUnitCfg u 26 24)
  size = 0 || s.usableMem < base + size ||
  ((List.range 8).any fun v => v != u && (s.unit v).st != 0 &&
    overlap base size (s.rf .capUnitRegion v 13 0) (s.rf .capUnitRegion v 29 16)) ||
  !ws.any slotOn || (ws.any fun w => slotOn w && (!s.streamOk (slotCode w) || (6 ≤ slotCode w && fld w 11 9 != 0))) ||
  2000000000 < (s.reg .capUnitPre u).toNat || 2000000000 < (s.reg .capUnitPost u).toNat ||
  (slotCode m < 6 && !bit m 8)

/-- ARM: its status, and the state (R408, R417); in Dormant capture is stopped (R107) and the state is a wrong one (DESIGN CHOICE, log
entry 117). -/
def State.capArm (s : State) (u : Nat) : Nat × State :=
  if (s.unit u).st != 0 || s.mode.mode = 0 then (2, s)
  else if s.cap.memMiB = 0 then (3, s)
  else if s.armBad u then (4, s)
  else (0, s.modUnit u fun x => { CapUnit.reset with st := 1, armAt := s.clk.now, queue := x.queue })

/-- ABORT (R425). -/
def State.capAbort (s : State) (u : Nat) : State :=
  if (s.unit u).st = 1 then s.modUnit u fun x => { CapUnit.reset with queue := x.queue }
  else if (s.unit u).st = 2 then s.capEnd u false true
  else s

/-- Entry to Dormant (R417). -/
def State.capDormant (s : State) : State := s.forAll (List.range 8) fun u s => s.capAbort u

/-- A stream no longer holds the record of unit u open (R420). -/
def State.capPast (s : State) (u code : Nat) : Bool :=
  let m : Int := if code = 0xF0 then (s.clk.now : Int) - 1 else iget s.cap.marks code
  s.capStop u ≤ m || nget s.cap.markAt code + 1000000 ≤ s.clk.now

/-- The watermark of every enabled stream lies at or after the record's end. -/
def State.capDue (s : State) (u : Nat) : Bool :=
  (s.unit u).st = 2 && (List.range 8).all fun i => let w := s.slotWord u i
                                                   !slotOn w || s.capPast u (slotCode w)

/-! ### Commands -/

/-- A ring 4 command with the unit in its argument. -/
def State.onCap (s : State) (op : Nat) (f : Nat → Nat → Desc → Nat → State → State) : State :=
  s.onTurn 4 op fun i k d s => f i k d (d.arg % 8) s

/-- Record bytes of unit u. -/
def State.recordBytes (s : State) (u : Nat) : Bytes :=
  (s.unit u).header ++ (s.unit u).chunks.flatMap fun c => c.bytes (s.unit u).trig

/-- R409: the chunks of a record as a copy-out reads them; `ue` gives the chunks in which a double-bit error is found, with the 64
bytes read, which go out with bit 7 of their flags byte set. -/
def readChunks (l : List Bytes) (ue : List (Nat × Bytes)) : List Bytes :=
  (List.range l.length).map fun j =>
    match ue.find? fun e => e.1 = j with
    | some e => le 1 (lef e.2 0 1) ++ le 1 (128 + lef e.2 1 1 % 128) ++ padTo 62 (e.2.drop 2)
    | none => nth l j []

/-- A copy-out of n record bytes from an offset reads some of chunk j. -/
def readsChunk (off n j : Nat) : Bool := off < 192 + 64 * j && 128 + 64 * j < off + n

/-- R409: the errors found while a copy-out reads: `ce` corrected ones, and one double-bit error per chunk of `ue`
(which errors the board's memory has is the sender's: DESIGN CHOICE, log entry 39). -/
def State.memErrors (s : State) (ce : Nat) (ue : List (Nat × Bytes)) : State :=
  let s := s.forAll (List.range ce) fun _ s => (s.bump .memEcc 0 15 0).raise 576 0xFFFF
  ue.foldl (fun (s : State) _ => (s.bump .memEcc 0 31 16).raise 577 0xFFFF) s

/-- Record bytes of unit u as a copy-out reads them with SECDED in force. -/
def State.readRecord (s : State) (u : Nat) (ue : List (Nat × Bytes)) : Bytes :=
  (s.unit u).header ++ (readChunks ((s.unit u).chunks.map fun c => c.bytes (s.unit u).trig) ue).flatten

/-- The units a Bell action names. -/
def bellUnits (index : Nat) : List Nat := if index = 0xFFFF then List.range 8 else [index]

end Sys2Proof.Machine
end

