-- ==== Sys2Proof/Machine/Trigger.lean ====
section
/-! DEFINITION. Analog triggers (R430, R431), match units and sequence engines (R432, R433), travelling-wave detectors
(R434). -/

namespace Sys2Proof.Machine

/-! ### Analog triggers -/

/-- One comparator: state before, sample, level, hysteresis. -/
def comparator (was : Bool) (x v : Int) (hys : Nat) : Bool := if was then decide (v - hys ≤ x) else decide (v ≤ x)

/-- A width against T1 and T2 (R430). -/
def accepted (inside : Bool) (t1 t2 w : Nat) : Bool := if inside then t1 ≤ w && w ≤ t2 else !(t1 ≤ w && w ≤ t2)

/-- One valid sample in trigger i: whether it fires, and the comparators after. -/
def State.atrgStep (s : State) (i : Nat) (v : Int) : Bool × Atrg :=
  let w := s.reg .capAtrgCfg i
  let a := s.atrg i
  let hys := fld w 23 12
  let h := comparator a.hi v (sx 18 (s.reg .capAtrgHi i).toNat) hys
  let l := comparator a.lo v (sx 18 (s.reg .capAtrgLo i).toNat) hys
  if !a.valid then
    (false, { Atrg.reset with valid := true, hi := decide (sx 18 (s.reg .capAtrgHi i).toNat ≤ v),
                              lo := decide (sx 18 (s.reg .capAtrgLo i).toNat ≤ v) })
  else
    let pol := bit w 27
    let riseH := if pol then a.hi && !h else !a.hi && h
    let fallH := if pol then !a.hi && h else a.hi && !h
    let riseL := if pol then a.lo && !l else !a.lo && l
    let fallL := if pol then !a.lo && l else a.lo && !l
    let t1 := s.rf .capAtrgTimes i 15 0
    let t2 := s.rf .capAtrgTimes i 31 16
    let sinceL := if riseL then 0 else a.sinceL + 1
    let seenL := a.seenL || riseL
    let hadHi := (a.hadHi && !riseL) || riseH
    let run := if h = a.hi then a.run + 1 else 0
    let firedRun := if h = a.hi then a.firedRun else false
    let fires := match fld w 30 28 with
      | 0 => riseH
      | 1 => fallH && a.seenH && accepted (bit w 26) t1 t2 (a.sinceH + 1)
      | 2 => fallL && seenL && !hadHi
      | 3 => run = t1 && h = a.hi && !firedRun
      | 4 => riseH && seenL && accepted (bit w 26) t1 t2 sinceL
      | _ => false
    (fires, ⟨true, h, l, if riseH then 0 else a.sinceH + 1, sinceL, run, hadHi, a.seenH || riseH, seenL,
      firedRun || (run = t1 && h = a.hi)⟩)

/-- Applies an update to every enabled trigger that watches a stream. -/
def State.atrgEach (s : State) (code : Nat) (f : Nat → State → State) : State :=
  s.forAll (List.range 8) fun i s => s.iff (s.rb .capAtrgCfg i 31 && s.rf .capAtrgCfg i 7 0 = code) (f i)

/-- A valid sample of a stream reaches its triggers. -/
def State.atrgSample (s : State) (code inst : Nat) (v : Int) : State :=
  s.atrgEach code fun i s =>
    let (fires, a) := s.atrgStep i v
    (s.modAtrg i fun _ => a).iff fires (·.capFire (1 + i) inst)

/-- An invalid sample or a re-arm resets the comparators of the stream's triggers (R431). -/
def State.atrgReset (s : State) (code : Nat) : State := s.atrgEach code fun i s => s.modAtrg i fun _ => Atrg.reset

/-! ### Match units and sequence engines -/

/-- States of engine j that can be entered from state 0. -/
def State.seqReach (s : State) (j : Nat) : Nat → List Nat → List Nat
  | 0, l => l
  | n + 1, l =>
    let more := l.flatMap fun q => let w := s.reg .capSeqSt j q
                                   [fld w 25 23, fld w 22 20]
    s.seqReach j n (more.foldl (fun (a : List Nat) q => if a.contains q then a else a ++ [q]) l)

/-- Stream code base of a match unit's kind. -/
def matchBase (kind : Nat) : Nat := if kind = 0 then 0x40 else if kind = 1 then 0x80 else 0xC0

/-- Streams a match unit draws on (R432). -/
def State.matchStreams (s : State) (k : Nat) : List Nat :=
  let w := s.reg .capMatchA k
  let kind := fld w 30 28
  if !bit w 31 || 3 ≤ kind then []
  else if bit w 27 then ((List.range 48).filter s.hasPort).map fun p => matchBase kind + p
  else if s.hasPort (fld w 25 20) then [matchBase kind + fld w 25 20] else []

/-- How far engine j may process: the least watermark of its streams (R433); a stream that has not moved for 1,000
frames does not hold it (DEDUCED, log entry 27). -/
def State.seqHorizon (s : State) (j : Nat) : Int :=
  let units := (s.seqReach j 8 [0]).map fun q => fld (s.reg .capSeqSt j q) 30 26
  let codes := units.flatMap s.matchStreams
  let live := codes.filter fun c => s.clk.now < nget s.cap.markAt c + 1000000
  live.foldl (fun (m : Int) c => min m (iget s.cap.marks c)) s.clk.now

/-- Order of matches (R433). -/
def SeqM.before (a b : SeqM) : Bool :=
  a.inst < b.inst || (a.inst = b.inst && (a.port < b.port || (a.port = b.port && (a.sub < b.sub ||
    (a.sub = b.sub && a.unit < b.unit)))))

/-- Enters a state. -/
def State.seqEnter (s : State) (j q : Nat) (inst : Int) : State :=
  s.modSeqe j fun e => { e with state := q, entered := inst, count := 0 }

/-- Processes the matches and timers of engine j up to its horizon. -/
def State.seqRun (s : State) (j : Nat) (hor : Int) : Nat → State
  | 0 => s
  | n + 1 =>
    let e := s.seqe j
    let w := s.reg .capSeqSt j e.state
    let tmr := (s.reg .capSeqTmr j e.state).toNat
    let m? := e.waits.head?.filter fun m => m.inst ≤ hor
    let till := match m? with
      | some m => m.inst - 1
      | none => hor
    if tmr != 0 && e.entered + tmr ≤ till then
      (s.seqEnter j (fld w 22 20) (e.entered + tmr)).seqRun j hor n
    else match m? with
      | none => s
      | some m =>
        let s := s.modSeqe j fun e => { e with waits := e.waits.drop 1 }
        if m.unit = fld w 30 26 && e.entered ≤ m.inst then
          if e.count + 1 = fld w 11 0 + 1 then
            if bit w 31 then ((s.seqEnter j 0 m.inst).capFire (0x09 + j) m.inst).seqRun j hor n
            else (s.seqEnter j (fld w 25 23) m.inst).seqRun j hor n
          else (s.modSeqe j fun e => { e with count := e.count + 1 }).seqRun j hor n
        else s.seqRun j hor n

/-- Runs engine j as far as its watermarks allow. -/
def State.seqGo (s : State) (j : Nat) : State :=
  if !s.rb .capSeqCtrl j 31 then s
  else
    let h := s.seqHorizon j
    let e := s.seqe j
    s.seqRun j h (2 * e.waits.length + (h - e.entered).toNat + 2)

/-- Runs every engine. -/
def State.seqGoAll (s : State) : State := s.forAll (List.range 4) fun j s => s.seqGo j

/-- Gives the matches of an item to the engines that are enabled. -/
def State.seqOffer (s : State) (kind port : Nat) (inst : Int) (sub : Nat → Nat) (ok : Word → Word → Bool) : State :=
  let ms := (List.range 32).filterMap fun k =>
    let a := s.reg .capMatchA k
    if bit a 31 && fld a 30 28 = kind && (bit a 27 || fld a 25 20 = port) && ok a (s.reg .capMatchB k) then
      some (⟨inst, port, sub (fld a 19 16), k⟩ : SeqM)
    else none
  if ms.isEmpty then s
  else s.forAll (List.range 4) fun j s =>
    if s.rb .capSeqCtrl j 31 then
      let units := (s.seqReach j 8 [0]).map fun q => fld (s.reg .capSeqSt j q) 30 26
      s.modSeqe j fun e =>
        { e with waits := (ms.filter fun m => units.contains m.unit).foldl (fun a m => insBy SeqM.before m a) e.waits }
    else s

/-- A telemetry frame (R432, kind 0). -/
def State.seqTele (s : State) (p : Nat) (inst : Int) (tele : List Int) : State :=
  s.seqOffer 0 p inst (fun c => c) fun a b =>
    let x := nth tele (fld a 19 16) 0
    let within := decide (sx 16 (fld b 15 0) ≤ x) && decide (x ≤ sx 16 (fld b 31 16))
    within = bit a 26

/-- An event word (kind 1). -/
def State.seqEvent (s : State) (p : Nat) (inst : Int) (w : Nat) : State :=
  s.seqOffer 1 p inst (fun _ => w / 2 ^ 24 % 16) fun a _ =>
    w / 2 ^ 28 = fld a 15 12 && (!bit a 11 || w / 2 ^ 24 % 16 = fld a 19 16)

/-- An edge event sent (kind 2). -/
def State.seqEdge (s : State) (p : Nat) (inst : Int) (q : Nat) (level : Bool) : State :=
  s.seqOffer 2 p inst (fun _ => q) fun a _ => fld a 19 16 = q && bit a 10 = level

/-! ### Travelling waves -/

/-- A valid fast sample in the detector of core n (R434). -/
def State.twSample (s : State) (n inst : Nat) (x : Int) : State :=
  let w := s.reg .capTwCfg n
  if !bit w 31 then s
  else
    let z := s.tw n
    let l := max 1 (fld w 30 28)
    let th := fld w 11 0
    let hist := (x :: z.hist).take 8
    if z.hist.length < l then s.modTw n fun z => { z with hist := hist, quiet := 0, prevD := 0 }
    else
      let d := x - nth z.hist (l - 1) 0
      let s := s.modTw n fun z => { z with hist := hist, prevD := d }
      if z.armed && th ≤ d.natAbs then
        let stamp := 32 * ((inst : Int) - 25) + tdivI (800 * ((th : Int) - z.prevD.natAbs)) ((d.natAbs : Int) - z.prevD.natAbs) -
          sx 32 (s.reg .capTwComp n).toNat
        let v := cx 64 stamp
        let s := s.modTw n fun z => { z with armed := false, quiet := 0, stamp := stamp, found := true, neg := d < 0 }
        let s := (s.setReg .capTwLastLo n (word v)).setReg .capTwLastHi n (word (v / 2 ^ 32))
        (s.setRb .capTwCfg n 27 (d < 0)).capFire (0x10 + n) (asr stamp 5)
      else
        let q := if d.natAbs < th / 2 then min 64 (z.quiet + 1) else 0
        s.modTw n fun z => { z with quiet := q, armed := z.armed || 64 ≤ q }

/-- An invalid sample disarms the detector. -/
def State.twReset (s : State) (n : Nat) : State :=
  s.modTw n fun z => { z with armed := false, quiet := 0, hist := [], prevD := 0 }

/-! ### Commands -/

/-- A write to CAP_SEQ_CTRL[j] (R433). -/
def State.writeSeqCtrl (s : State) (j : Nat) (v : Word) : State :=
  let was := s.rb .capSeqCtrl j 31
  let s := s.setRb .capSeqCtrl j 31 (bit v 31)
  if bit v 31 && !was then s.modSeqe j fun _ => ⟨0, s.clk.now, 0, []⟩ else s

end Sys2Proof.Machine
end

