-- ==== Sys2Proof/Machine/Phasor.lean ====
section
/-! DEFINITION. The phasor estimator (R436 to R442). -/

namespace Sys2Proof.Machine

def State.pmuF0 (s : State) : Nat := if s.rb .pmuCtrl 0 30 then 60 else 50
def State.pmuRate (s : State) : Nat := s.rf .pmuCtrl 0 7 0
def State.pmuTask (s : State) : Nat := s.rf .pmuCtrl 0 27 26
/-- Tap count L of the class in force. -/
def State.pmuTaps (s : State) : Nat := if s.rb .pmuCtrl 0 29 then s.rf .pmuLen 0 25 16 else s.rf .pmuLen 0 9 0
/-- Tap m of the class in force. -/
def State.pmuTap (s : State) (m : Nat) : Int :=
  sx 16 ((s.reg .pmuCoef (b2n (s.rb .pmuCtrl 0 29)) (m / 2)).toNat >>> (16 * (m % 2)))
/-- Enabled channels, ascending, and the input of each. -/
def State.pmuChannels (s : State) : List Nat := (List.range 16).filter fun c => s.rb .pmuCh c 31
def State.pmuInput (s : State) (c : Nat) : Nat := s.rf .pmuCh c 4 0

/-- Rates of R440. -/
def pmuRateOk (f0 rate : Nat) : Bool :=
  if f0 = 50 then [10, 25, 50, 100, 200].contains rate else [10, 12, 15, 20, 30, 60, 120, 240].contains rate

/-- First failing check of R436, 0 for none. -/
def State.pmuCheck (s : State) : Nat :=
  let t := s.pmuTask
  let p := s.grpPeriod (s.taskGroup t)
  if !(s.taskOn t && s.grpOn (s.taskGroup t)) then 1
  else if p < 50000 || 250000 < p then 2
  else if !pmuRateOk s.pmuF0 s.pmuRate then 3
  else if (s.pmuChannels.any fun c => !s.inBset t (s.pmuInput c)) then 4
  else if s.pmuTaps % 2 = 0 || 1023 < s.pmuTaps then 5
  else if !s.rb .pmuCh (s.rf .pmuCtrl 0 19 16) 31 then 6
  else 0

/-- Firmware writes one class of Ocrelin's coefficients (R442). -/
def State.pmuLoad (s : State) (cl : Nat) : State :=
  let l := Config.pmuCoef (s.rb .pmuCtrl 0 30) (s.grpPeriod (s.taskGroup s.pmuTask)) s.pmuRate (cl = 1)
  let s := if cl = 1 then s.setRf .pmuLen 0 25 16 l.length else s.setRf .pmuLen 0 9 0 l.length
  s.forAll (List.range 512) fun w s =>
    s.setReg .pmuCoef cl (word (cx 16 (nth l (2 * w) 0) + 2 ^ 16 * cx 16 (nth l (2 * w + 1) 0))) w

/-- A write to PMU_CTRL (R436). -/
def State.writePmuCtrl (s : State) (v : Word) : State :=
  if s.pmu.running then
    if bit v 31 then s else (s.setRb .pmuCtrl 0 31 false).modPmu fun p => { p with running := false, live := false }
  else
    let s := s.setReg .pmuCtrl 0 (v &&& 0xFC0F00FF)
    if !bit v 31 then s
    else
      let s := if bit v 28 then s else (s.pmuLoad 0).pmuLoad 1
      let c := s.pmuCheck
      if c = 0 then s.modPmu fun _ => { Pmu.reset with running := true }
      else (s.modPmu fun p => { p with cfgErr := c }).raise 387 c

/-- Report instants r of one second as 32 × 10^9 × F_r fractions: the distance of a time T from report (sec, m), times F_r. -/
def pmuDist (T sec m rate : Nat) : Int := (T : Int) * rate - ((sec * rate + m) * 32000000000 : Nat)

/-- A boundary result of input n reaches the estimator (R437). -/
def State.pmuTake (s : State) (n b : Nat) (x : Int) (ovr : Bool) : State :=
  if !(s.pmu.running && 2 ≤ s.mode.mode && s.inBset s.pmuTask n && s.isBoundary (s.taskGroup s.pmuTask) (s.aligned b)) then s
  else
    let T := s.timeAt b
    let r := T % 32000000000
    let a := s.pmuF0 * r * 2 ^ 27 / 10 ^ 9 % 2 ^ 32
    let add := (s.pmuChannels.filter fun c => s.pmuInput c = n).map fun c => (⟨b, c, x * cos32 a, -(x * sin32 a), ovr⟩ : PmuS)
    let keep := 1024 * s.grpPeriod (s.taskGroup s.pmuTask)
    let s := if s.pmu.live then s
      else
        let rate := s.pmuRate
        let m := (r * rate + 31999999999) / 32000000000
        s.modPmu fun p => { p with live := true, sec := T / 32000000000 + m / rate, m := m % rate, reports := 0 }
    s.modPmu fun p => { p with samples := add ++ p.samples.filter fun x => b ≤ x.inst + keep }

/-- Limits to 32 bits. -/
def sat32 (x : Int) : Int := sat 32 x

/-- Sum of taps against the samples of channel c around a centre (R438), with missing and over-range marks. -/
def State.pmuSum (s : State) (c centre p h : Nat) : Int × Int × Bool × Bool :=
  (List.range s.pmuTaps).foldl (fun (a : Int × Int × Bool × Bool) (m : Nat) =>
    let b := ((centre : Int) + ((m : Int) - h) * p).toNat
    match s.pmu.samples.find? fun x => x.inst = b && x.ch = c with
    | some x => (a.1 + s.pmuTap m * x.i, a.2.1 + s.pmuTap m * x.q, a.2.2.1, a.2.2.2 || x.ovr)
    | none => (a.1, a.2.1, true, a.2.2.2)) (0, 0, false, false)

/-- Rounds to nearest, ties away from zero (R439). -/
def roundDev (d : Int) (rate : Nat) : Int := roundDiv (d * rate * 10 ^ 6) (2 ^ 32)

/-- The centre sample of report (sec, m): the boundary nearest its instant, the earlier on a tie (R438). -/
def State.pmuCentre (s : State) : Nat :=
  let g := s.taskGroup s.pmuTask
  let rate := s.pmuRate
  let goal := ((s.pmu.sec * rate + s.pmu.m) * 32000000000 + rate - 1) / rate
  let c := s.countAt goal
  let lo := s.unaligned (s.boundaryBefore g (s.aligned c))
  let hi := lo + s.grpPeriod g
  let d := fun b => pmuDist (s.timeAt b) s.pmu.sec s.pmu.m rate
  if (d lo).natAbs ≤ (d hi).natAbs then lo else hi

end Sys2Proof.Machine
end

