-- ==== Sys2Proof/Machine/Analog.lean ====
section
/-! DEFINITION. Precision and fast conversion (R281 to R311). -/

namespace Sys2Proof.Machine

/-! ### Coefficients (R294, R300) -/

/-- Band of the analog die (R498). -/
def State.analogBand (s : State) : Nat := (s.sensor 9).band

/-- Coefficients of the band in force for precision core c: offset in quarter LSBs and gain. -/
def State.adcCoef (s : State) (c : Nat) : Int × Nat :=
  (sx 20 (s.reg .adcCalOfs c s.analogBand).toNat, fld (s.reg .adcCalGain c s.analogBand) 17 0)

/-- The same for fast core n. -/
def State.fadCoef (s : State) (n : Nat) : Int × Nat :=
  (sx 20 (s.reg .fadCalOfs n s.analogBand).toNat, fld (s.reg .fadCalGain n s.analogBand) 17 0)

/-- Keeps the coefficients of core c for sample instants up to a tick, before they change. -/
def State.adcKeep (s : State) (c till : Nat) : State :=
  s.modAdc fun a =>
    let l := (tget (fun _ => []) a.hist c).filter fun (x : CoefWas) => s.clk.now ≤ x.till + 1000
    { a with hist := tput (fun _ => []) a.hist c (l ++ [⟨till, (s.adcCoef c).1, (s.adcCoef c).2⟩]) }

def State.fadKeep (s : State) (n till : Nat) : State :=
  s.modFad fun a =>
    let l := (tget (fun _ => []) a.hist n).filter fun (x : CoefWas) => s.clk.now ≤ x.till + 1000
    { a with hist := tput (fun _ => []) a.hist n (l ++ [⟨till, (s.fadCoef n).1, (s.fadCoef n).2⟩]) }

/-- A change of the analog die's band takes effect from the first sample instant after it (R294). -/
def State.bandKeep (s : State) : State :=
  (s.forAll (List.range 8) fun c s => s.adcKeep c s.clk.now).forAll (List.range 6) fun n s => s.fadKeep n s.clk.now

/-- The coefficients in force at a sample instant. -/
def coefAt (hist : List CoefWas) (now : Int × Nat) (inst : Nat) : Int × Nat :=
  match hist.find? fun x => inst ≤ x.till with
  | some x => (x.o4, x.gain)
  | none => now

/-- Limits to n bits and says whether it had to. -/
def satF (n : Nat) (x : Int) : Int × Bool := (sat n x, sat n x != x)

/-- R294: the corrected code, and whether it saturated. -/
def correct (n : Nat) (raw : Int) (k : Int × Nat) : Int × Bool := satF n (asr ((4 * raw - k.1) * k.2 + 262144) 19)

/-! ### Spans (R283, R285) -/

def State.spansOf (s : State) (c : Nat) : List Span := tget (fun _ => []) s.adc.spans c
def State.setSpans (s : State) (c : Nat) (l : List Span) : State :=
  s.modAdc fun a => { a with spans := tput (fun _ => []) a.spans c l }
def State.addSpan (s : State) (c : Nat) (x : Span) : State := s.setSpans c (s.spansOf c ++ [x])

/-- A span occupies its core for 500 ticks; its sample instant is 150 ticks after its start. -/
def Span.busy (x : Span) (now : Nat) : Bool := now < x.start + 500
def Span.sample (x : Span) : Nat := x.start + 150

/-- A boundary span of core c lies in or reaches into the 500 ticks from `now`. -/
def State.boundaryNear (s : State) (c now : Nat) : Bool :=
  (List.range 3).any fun t =>
    s.taskOn t && (s.bset t c).isSome &&
    let g := s.taskGroup t
    let b := s.boundaryFrom g (s.aligned now - 349)
    s.grpOn g && 0 < s.grpPeriod g && b < s.aligned now + 650 && s.runsAt g b

/-- Core c has a span in progress. -/
def State.coreBusy (s : State) (c : Nat) : Bool := (s.spansOf c).any fun x => x.busy s.clk.now

/-- The pending injection names core c. -/
def State.injNames (s : State) (c : Nat) : Bool :=
  match s.adc.inj with
  | some sel => nbit sel (3 * c + 2)
  | none => false

/-! ### The sequencer -/

/-- Entry i of the sequencer table (R289). -/
def State.seqEntry (s : State) (i : Nat) : Word := s.reg .adcSeq i

/-- Starts the sequencer (R290): entry 0, the first step due in the next core cycle. -/
def State.seqStart (s : State) : State :=
  s.modAdc fun a => { a with seqOn := true, entry := 0, rep := 0, retake := false, due := coreCycle s.clk.now + 2 }

/-- A step of the sequencer is in progress: its spans, or the time a wait entry takes for them, have not ended (R290). -/
def State.seqStepping (s : State) : Bool := match s.adc.stepAt with
  | some a => s.clk.now < a + 500
  | none => false

/-- The sequencer runs until its last step has written its results (R291). -/
def State.seqRunning (s : State) : Bool :=
  s.adc.seqOn || s.adc.retake || s.seqStepping || (List.range 8).any fun c => (s.spansOf c).any fun x => x.kind = 1

/-- Where the sums of core c are kept in a pass through an entry: the results of one pass come in while the next may have begun. -/
def avgKey (c run : Nat) : Nat := 2 * c + run % 2

/-- A core loses a repetition of an averaging entry. -/
def State.avgLost (s : State) (c run : Nat) : State :=
  s.modAavg (avgKey c run) fun a => if a.run = run then { a with lost := true } else a

/-! ### Injection -/

/-- A write to ADC_INJ_CTRL with start at 1 (R293). -/
def State.injWrite (s : State) : State :=
  if s.adc.inj.isSome || s.mode.mode = 0 then s
  else s.modAdc fun a => { a with inj := some (s.rf .adcInjSel 0 23 0), injAt := coreCycle s.clk.now + Config.injection }

/-- Aborts the sequencer step in progress: discarded on all its cores, taken again at a due time (R291). -/
def State.abortStep (s : State) (x : Span) (due : Nat) : State :=
  let s := s.forAll (List.range 8) fun c s => s.setSpans c ((s.spansOf c).filter fun y => !(y.kind = 1 && y.start = x.start))
  s.modAdc fun a => { a with entry := x.entry, rep := x.rep, run := x.run, due := due, retake := true, stepAt := none }

/-! ### Results (R301 to R303) -/

/-- Takes a span off its core's list. -/
def State.dropSpan (s : State) (c : Nat) (x : Span) : State := s.setSpans c (delFirst (fun y => y = x) (s.spansOf c))

/-- Puts a value into the input bank of the Mill (R320): the newest four of each node are kept. -/
def State.bankPut (s : State) (node : Nat) (v : InVal) : State :=
  s.modMill fun m => { m with bank := tput (fun _ => []) m.bank node ((v :: tget (fun _ => []) m.bank node).take 4) }

/-- A result of input n: register, input bank, capture, trigger, estimator. -/
def State.deliverResult (s : State) (kind n inst : Nat) (y : Int) (ovr : Bool) : State :=
  let s := s.modAres n fun _ => ⟨kind, ovr, y, inst⟩
  let s := s.iff ovr fun s => (s.setRb .adcOvr 0 n true).raise 289 n
  let s := if kind = 2 then
      let l := (⟨y, inst, s.clk.now, some (s.aligned inst), true⟩ : InVal) :: (tget (fun _ => []) s.mill.bndBank (0x300 + n)).take 15
      s.modMill fun m => { m with bndBank := tput (fun _ => []) m.bndBank (0x300 + n) l }
    else s.bankPut (0x300 + n) ⟨y, inst, s.clk.now, none, true⟩
  let s := s.capRaw (0x10 + n) .offset inst (le 4 (kind * 2 ^ 30 + b2n ovr * 2 ^ 29 + cx 18 y))
  let s := (s.capMark (0x10 + n) inst).atrgSample (0x10 + n) inst y
  s.iff (kind = 2) (·.pmuTake n inst y ovr)

/-! ### Calibration of a precision core (R296 to R299) -/

/-- A request for core c with a band code. -/
def State.calRequest (s : State) (c band : Nat) : State :=
  if s.mode.mode = 0 || (s.acal c).active || (s.acal c).requested then s
  else s.modAcal c fun k => { k with requested := true, reqBand := if band ≤ 4 then band else 0 }

/-- A write to ADC_CAL_CTRL (R296). -/
def State.writeAdcCal (s : State) (v : Word) : State :=
  (s.setRf .adcCalCtrl 0 18 16 (fld v 18 16)).forAll (bitsOf 8 (fld v 7 0)) fun c s => s.calRequest c (fld v 18 16)

/-- Counts the calibration spans of core c that have ended (R297). -/
def State.calTally (s : State) (c : Nat) : State :=
  let done := (s.spansOf c).filter fun x => x.kind = 4 && !x.busy s.clk.now
  let s := s.setSpans c ((s.spansOf c).filter fun x => !(x.kind = 4 && !x.busy s.clk.now))
  s.modAcal c fun k => done.foldl (fun (k : Cal) x =>
    if k.count < 256 then { k with count := k.count + 1, z := k.z + x.raw, last := x.start + 500 }
    else { k with count := k.count + 1, r := k.r + x.raw, last := x.start + 500 }) k

/-- The next calibration span of core c starts if the core is free (R285). -/
def State.calSpan (s : State) (c : Nat) (raw : Int) : State :=
  let s := s.calTally c
  if (s.acal c).active && (s.acal c).count < 512 && s.clk.now % 2 = 0 && !s.coreBusy c && !s.boundaryNear c s.clk.now &&
      -131072 ≤ raw && raw ≤ 131071 then
    s.addSpan c ⟨4, c, s.clk.now, 0, 0, 0, 0, raw⟩
  else s

/-- The values of R298 and whether they pass: o4, g. -/
def calValues (z r : Int) (sh : Nat) (k : Int) : Option (Int × Nat) :=
  let h : Int := 2 ^ (sh - 1)
  let o4 := asr (z + h) sh
  let d := asr (r + h) sh - o4
  if d ≤ 0 then none
  else
    let g := tdivI (k * 524288 + asr d 1) d
    if 117965 ≤ g && g ≤ 144179 && -2048 ≤ o4 && o4 ≤ 2047 then some (o4, g.toNat) else none

/-- A write to ADC_CAL_OFS[c][b]: staged (R300). -/
def State.writeAdcOfs (s : State) (c b : Nat) (v : Word) : State :=
  if (s.acal c).active && (s.acal c).band = b then s
  else s.modAdc fun a => { a with stO4 := tput (fun _ => none) a.stO4 (4 * c + b) (some (fld v 19 0)) }

/-- A write to ADC_CAL_GAIN[c][b] (R300). -/
def State.writeAdcGain (s : State) (c b : Nat) (v : Word) : State :=
  if (s.acal c).active && (s.acal c).band = b then s
  else
    let s := s.iff (b = s.analogBand) (·.adcKeep c s.clk.now)
    let s := match tget (fun _ => none) s.adc.stO4 (4 * c + b) with
      | some o => s.setReg .adcCalOfs c (word o) b
      | none => s
    (s.setReg .adcCalGain c (word (fld v 17 0)) b).modAdc fun a => { a with stO4 := tdel (4 * c + b) a.stO4 }

/-! ### Fast converters (R304 to R308) -/

/-- Fast core n runs (R305). -/
def State.fastOn (s : State) (n : Nat) : Bool :=
  s.up && s.hasCap && n < 6 && s.clk.supplyFad && 1 ≤ s.mode.mode && s.rb .fadCtrl 0 n

/-- Every consumer skips an invalid sample (R307). -/
def State.fastInvalid (s : State) (n inst : Nat) : State :=
  ((((s.capFastGap n inst).atrgReset n).twReset n).modFad fun f => { f with prot := nput f.prot n 0 }).modFres n fun r =>
    { r with kind := 0 }

/-- Fast protection trips on core n (R308), with the pin instants of the path from a sample. -/
def State.fastTrip (s : State) (n inst : Nat) : State :=
  let legs := bitsOf 16 (s.rf .fadProtCfg n 15 0)
  let s := s.forAll legs fun l s => s.forAll [2 * l, 2 * l + 1] fun w s =>
    (s.softOff w (inst + Config.fastToSoftOff)).modSw w fun x => { x with latch := true }
  let s := (s.setRb .fadTrip 0 n true).raise 321 n
  s.forAll legs fun l s => s.healthCount (48 + l)

/-- Fast protection's count on a valid sample; it starts again after a trip (DEDUCED, log entry 29), and once protection acts again. -/
def State.fastProtect (s : State) (n inst : Nat) (y : Int) : State :=
  if !(s.rb .fadProtCfg n 31 && 2 ≤ s.mode.mode) then s.modFad fun f => { f with prot := nput f.prot n 0 }
  else
    let w := s.reg .fadProtLim n
    let out := decide (sx 12 (fld w 27 16) < y) || decide (y < sx 12 (fld w 11 0))
    let k := if out then nget s.fad.prot n + 1 else 0
    let trip := out && max 1 (s.rf .fadProtCfg n 20 16) ≤ k
    (s.modFad fun f => { f with prot := nput f.prot n (if trip then 0 else k) }).iff trip (·.fastTrip n inst)

/-- A sample taken while core n is calibrating (R306). -/
def State.fadCalSample (s : State) (n inst : Nat) (raw : Int) : State :=
  s.modFcal n fun k =>
    if k.count < 1024 then { k with count := k.count + 1, z := k.z + raw, last := inst }
    else { k with count := k.count + 1, r := k.r + raw, last := inst }

/-- The sample instant belongs to a calibration of core n in progress. -/
def State.fadCalAt (s : State) (n inst : Nat) : Bool :=
  (s.fcal n).active && (s.fcal n).since ≤ inst && (s.fcal n).count < 2048

/-- A calibration request for fast core n (R306). -/
def State.fadRequest (s : State) (n band : Nat) : State :=
  if s.mode.mode = 0 || (s.fcal n).active then s
  else s.modFcal n fun _ =>
    { Cal.reset with active := true, band := if band = 0 || 4 < band then s.analogBand else band - 1, since := s.clk.now }

/-- A write to FAD_CAL_CTRL (R306). -/
def State.writeFadCal (s : State) (v : Word) : State :=
  (s.setRf .fadCalCtrl 0 18 16 (fld v 18 16)).forAll (bitsOf 6 (fld v 5 0)) fun n s => s.fadRequest n (fld v 18 16)

/-- A write to FAD_CAL_OFS[c][b]: staged (R300, R306). -/
def State.writeFadOfs (s : State) (c b : Nat) (v : Word) : State :=
  if (s.fcal c).active && (s.fcal c).band = b then s
  else s.modFad fun a => { a with stO4 := tput (fun _ => none) a.stO4 (4 * c + b) (some (fld v 19 0)) }

/-- A write to FAD_CAL_GAIN[c][b]. -/
def State.writeFadGain (s : State) (c b : Nat) (v : Word) : State :=
  if (s.fcal c).active && (s.fcal c).band = b then s
  else
    let s := s.iff (b = s.analogBand) (·.fadKeep c s.clk.now)
    let s := match tget (fun _ => none) s.fad.stO4 (4 * c + b) with
      | some o => s.setReg .fadCalOfs c (word o) b
      | none => s
    (s.setReg .fadCalGain c (word (fld v 17 0)) b).modFad fun a => { a with stO4 := tdel (4 * c + b) a.stO4 }

/-- Entry to Dormant (R286): spans, sequencer, injection and calibrations end. -/
def State.adcDormant (s : State) : State :=
  let s := s.modAdc fun a => { a with spans := [], seqOn := false, retake := false, stepAt := none, inj := none, cal := [] }
  s.modFad fun f => { f with cal := [] }

end Sys2Proof.Machine
end

