-- ==== Sys2Proof/Machine/MillBlocks.lean ====
section
/-! DEFINITION. Mill arithmetic to the bit (R350 to R360) and the blocks (R329 to R335): a descriptor, its operands and its
state to its outputs, its next state and its sticky flags. -/

namespace Sys2Proof.Machine

/-! ### Raw codes with the saturation mark (R352, R356) -/

/-- A raw code, and whether some step that led to it saturated. -/
structure Sv where
  v : Int
  s : Bool
  deriving DecidableEq, Repr

def lit (x : Int) : Sv := ⟨x, false⟩
/-- A frac16 raw code as acc40 (R351). -/
def acc (x : Int) : Sv := ⟨x * 65536, false⟩
/-- Product of two frac16 raw codes as acc40. -/
def mul16 (a b : Int) : Sv := ⟨2 * a * b, false⟩
def limitS (n : Nat) (x : Int) (s : Bool) : Sv := ⟨sat n x, s || sat n x != x⟩
def addA (a b : Sv) : Sv := limitS 40 (a.v + b.v) (a.s || b.s)
def subA (a b : Sv) : Sv := limitS 40 (a.v - b.v) (a.s || b.s)
def negA (a : Sv) : Sv := limitS 40 (-a.v) a.s
def shlA (a : Sv) (cs : Nat) : Sv := limitS 40 (a.v * 2 ^ cs) a.s
def narrowA (a : Sv) : Sv := limitS 16 (asr (a.v + 32768) 16) a.s
def sub16 (a b : Int) : Sv := limitS 16 (a - b) false
/-- frac16 × frac16 where the first operand carries a mark. -/
def mulS (k : Int) (x : Sv) : Sv := ⟨2 * k * x.v, x.s⟩

/-! ### Descriptors (R329) -/

/-- A block descriptor, field by field. -/
structure Blk where
  typ : Nat
  task : Nat
  lane : Nat
  barrier : Bool
  fb : Nat
  out : Nat
  a : Nat
  b : Nat
  c : Nat
  guard : Nat
  tun : Bool
  rsv : Nat
  cs : Nat
  n : Nat
  stride : Nat
  aux : Nat
  p : List Int
  w6 : Nat
  deriving DecidableEq, Repr

/-- Reads a descriptor from its eight words. -/
def parseBlk (w : List Word) : Blk :=
  let x := fun i => nth w i 0
  { typ := fld (x 0) 31 24, task := fld (x 0) 23 22, lane := fld (x 0) 21 19, barrier := bit (x 0) 18,
    fb := fld (x 0) 17 16, out := fld (x 0) 15 0, a := fld (x 1) 15 0, b := fld (x 1) 31 16, c := fld (x 2) 15 0,
    guard := fld (x 2) 31 16, tun := bit (x 3) 31, rsv := fld (x 3) 30 28, cs := fld (x 3) 27 24, n := fld (x 3) 23 16,
    stride := fld (x 3) 15 8, aux := fld (x 3) 7 0,
    p := (List.range 8).map fun i => sx 16 (if i % 2 = 0 then fld (x (4 + i / 2)) 31 16 else fld (x (4 + i / 2)) 15 0),
    w6 := (x 6).toNat }

def Blk.par (k : Blk) (i : Nat) : Int := nth k.p i 0

/-- PI, CLOOP, PR and PLL (R324). -/
def Blk.closedLoop (k : Blk) : Bool := k.typ = 0x07 || k.typ = 0x08 || k.typ = 0x09 || k.typ = 0x0B

/-- Cost in core cycles on its lane (R330). -/
def Blk.cost (k : Blk) : Nat :=
  match k.typ with
  | 0x01 | 0x03 | 0x0C => 3
  | 0x02 | 0x06 => 5
  | 0x04 => 4
  | 0x05 | 0x11 | 0x12 => 2
  | 0x07 => 8
  | 0x08 => 10
  | 0x09 => 12
  | 0x0A => 9
  | 0x0B => 14
  | 0x0D => 6
  | 0x0E => 20
  | 0x0F => 6 + 3 * k.n
  | 0x10 => 6 + k.n * (k.n - 1) / 2
  | _ => 1

/-- Nodes a block writes, in order: none for NOP and TAP. -/
def Blk.outs (k : Blk) : List Nat :=
  match k.typ with
  | 0x00 | 0x12 => []
  | 0x0B | 0x0C | 0x0D => [k.out, k.out + 1]
  | 0x0F | 0x10 => (List.range k.n).map fun i => k.out + i
  | _ => [k.out]

/-- Member nodes of DIST and SORT (R335). -/
def Blk.members (k : Blk) : List Nat :=
  match k.typ with
  | 0x0F => (List.range k.n).map fun i => k.c + i * k.stride
  | 0x10 => (List.range k.n).map fun i => k.a + i * k.stride
  | _ => []

/-- Nodes a block reads as operands and members, 0xFFFF left out. -/
def Blk.reads (k : Blk) : List Nat :=
  let ops := match k.typ with
    | 0x00 => []
    | 0x0F => [k.a, k.b]
    | 0x10 => []
    | _ => [k.a, k.b, k.c]
  (ops.filter fun x => x != 0xFFFF) ++ k.members

/-! ### One block in one period -/

/-- What a block makes of a period: its outputs, its state, its sat and lim flags. -/
structure BOut where
  ys : List Int
  st : BSt
  sat : Bool
  lim : Bool
  deriving DecidableEq, Repr

/-- y limited to hi and lo, with the lim flag (R332). -/
def clampHL (hi lo : Int) (y : Sv) : Int × Bool :=
  let z := min hi (max lo y.v)
  (z, z != y.v)

/-- PI and CLOOP: the shifted proportional term. -/
def piTerm (k : Blk) (e : Sv) (c : Int) : Sv :=
  let p := mulS (k.par 0) e
  shlA (if k.typ = 0x08 then addA p (mul16 (k.par 5) c) else p) k.cs

/-- PI and CLOOP in a closed period; `tgt` preloads (R332, R334, R359). -/
def runPi (k : Blk) (a b c : Int) (st : BSt) (tgt : Option Int) : BOut :=
  let hi := k.par 2
  let lo := k.par 3
  let e := sub16 a b
  let p := piTerm k e c
  let r : Sv × Sv × Bool := match tgt with
    | some y => let i := subA (acc y) p
                let u := addA p i
                (i, narrowA u, false)
    | none =>
      let ke := mulS (k.par 1) e
      let i1 := addA (lit st.s1) ke
      let u := narrowA (addA p i1)
      if (hi < u.v && 0 < ke.v) || (u.v < lo && ke.v < 0) then (⟨st.s1, i1.s⟩, narrowA (addA p (lit st.s1)), u.s)
      else (i1, u, false)
  let y := clampHL hi lo r.2.1
  ⟨[y.1], { st with s1 := r.1.v, s3 := y.1 }, r.1.s || r.2.1.s || r.2.2, y.2⟩

/-- PR (R332, R334). -/
def runPr (k : Blk) (a b c : Int) (st : BSt) (tgt : Option Int) : BOut :=
  let e := sub16 a b
  let ke := mulS (k.par 0) e
  let r : Sv × Sv := match tgt with
    | some y => (subA (acc y) ke, lit 0)
    | none =>
      let d := subA (mulS c (narrowA (mulS (k.par 1) e))) (mulS c (narrowA (lit st.s2)))
      let x1 := addA (lit st.s1) (shlA d k.cs)
      (x1, addA (lit st.s2) (shlA (mulS c (narrowA x1)) k.cs))
  let u := narrowA (addA ke r.1)
  let y := clampHL (k.par 2) (k.par 3) u
  ⟨[y.1], { st with s1 := r.1.v, s2 := r.2.v }, u.s || r.2.s, y.2⟩

/-- Advance of a PLL's angle (R357). -/
def pllTheta (k : Blk) (θ f : Int) : Int := (θ + k.w6 + f * 2 ^ (k.aux % 16)) % 2 ^ 32

/-- Angle output of a PLL: bits [31:16] as a frac16 raw code. -/
def pllAngle (θ : Int) : Int := sx 16 (θ.toNat / 65536)

/-- PLL (R332, R334, R357): s1 is I, s2 is f_prev, s3 is θ. -/
def runPll (k : Blk) (a b : Int) (st : BSt) (tgt : Option Int) : BOut :=
  let th := st.s3.toNat
  let q := narrowA (subA (mul16 b (cos32 th)) (mul16 a (sin32 th)))
  let p := shlA (mulS (k.par 0) q) k.cs
  let i := match tgt with
    | some y => subA (acc y) p
    | none => addA (lit st.s1) (mulS (k.par 1) q)
  let f := narrowA (addA p i)
  ⟨[pllAngle st.s3, f.v], { st with s1 := i.v, s2 := f.v, s3 := pllTheta k st.s3 f.v }, f.s, false⟩

/-- BIQUAD (R331, R334). -/
def runBiquad (k : Blk) (a : Int) (st : BSt) (tgt : Option Int) : BOut :=
  let f := shlA (mul16 (k.par 0) a) k.cs
  match tgt with
  | some y =>
    let s1 := subA (acc y) f
    let o := narrowA (addA f s1)
    ⟨[o.v], { st with s1 := s1.v }, o.s, false⟩
  | none =>
    let o := narrowA (addA f (lit st.s1))
    let s1 := addA (shlA (subA (mul16 (k.par 1) a) (mulS (k.par 3) o)) k.cs) (lit st.s2)
    let s2 := shlA (subA (mul16 (k.par 2) a) (mulS (k.par 4) o)) k.cs
    ⟨[o.v], { st with s1 := s1.v, s2 := s2.v }, s1.s || s2.s || o.s, false⟩

/-- LIMIT (R331): s3 is y_prev. -/
def runLimit (k : Blk) (a : Int) (st : BSt) : BOut :=
  let rate := k.par 2 % 65536
  let v := min (k.par 0) (max (k.par 1) a)
  let w := if 0 < rate then limitS 16 (min (st.s3 + rate) (max (st.s3 - rate) v)) false else lit v
  ⟨[w.v], { st with s3 := w.v }, w.s, w.v != a⟩

/-- Reciprocal of the member count (R335). -/
def rtab (j : Nat) : Int := ((min 32767 ((65536 + j) / (2 * j)) : Nat) : Int)

/-- DIST (R335). -/
def runDist (k : Blk) (a b : Int) (xs : List (Int × Bool)) (st : BSt) : BOut :=
  let na := (xs.filter fun x => x.2).length
  if na = 0 then ⟨xs.map fun _ => 0, st, false, true⟩
  else
    let r := rtab na
    let sum := xs.foldl (fun (m : Sv) x => if x.2 then addA m (mul16 x.1 r) else m) (lit 0)
    let m := narrowA sum
    let base := shlA (mul16 a r) k.cs
    let kb := k.par 0
    let ys := xs.map fun x =>
      if x.2 then
        let d := subA (mulS kb m) (mul16 kb x.1)
        narrowA (addA base (if 0 ≤ b then d else negA d))
      else lit 0
    ⟨ys.map Sv.v, st, m.s || base.s || ys.any Sv.s, false⟩

/-- SORT (R335): ranks of the members. -/
def runSort (k : Blk) (xs : List (Int × Bool)) (st : BSt) : BOut :=
  let desc := nbit k.aux 5
  let l := (List.range xs.length).map fun i => (i, nth xs i (0, false))
  let na := (xs.filter fun x => x.2).length
  let rank := fun (e : Nat × Int × Bool) =>
    if e.2.2 then
      (l.filter fun f => f.2.2 && ((if desc then e.2.1 < f.2.1 else f.2.1 < e.2.1) || (f.2.1 = e.2.1 && f.1 < e.1))).length
    else na + (l.filter fun f => !f.2.2 && f.1 < e.1).length
  ⟨l.map fun e => ((rank e : Nat) : Int), st, false, false⟩

/-- A block in a closed period (R331 to R336); `tgt` preloads it. -/
def runBlk (k : Blk) (a b c : Int) (xs : List (Int × Bool)) (st : BSt) (tgt : Option Int) : BOut :=
  let one := fun (y : Sv) => (⟨[y.v], st, y.s, false⟩ : BOut)
  match k.typ with
  | 0x01 => one (narrowA (addA (shlA (mul16 (k.par 0) a) k.cs) (acc (k.par 1))))
  | 0x02 => one (narrowA (shlA (addA (addA (mul16 (k.par 0) a) (mul16 (k.par 1) b)) (mul16 (k.par 2) c)) k.cs))
  | 0x03 => one (narrowA (shlA (mul16 a b) k.cs))
  | 0x04 => runLimit k a st
  | 0x05 => one (lit (if 0 ≤ c then a else b))
  | 0x06 =>
    let y := narrowA (shlA (subA (addA (mul16 (k.par 0) a) (mul16 (k.par 1) a)) (mul16 (k.par 1) st.s3)) k.cs)
    ⟨[y.v], { st with s3 := a }, y.s, false⟩
  | 0x07 | 0x08 => runPi k a b c st tgt
  | 0x09 => runPr k a b c st tgt
  | 0x0A => runBiquad k a st tgt
  | 0x0B => runPll k a b st tgt
  | 0x0C =>
    let t := cx 16 a * 65536
    ⟨[cos32 t, sin32 t], st, false, false⟩
  | 0x0D =>
    let t := cx 16 c * 65536
    let y := narrowA ((if nbit k.aux 0 then subA else addA) (mul16 a (cos32 t)) (mul16 b (sin32 t)))
    let z := if nbit k.aux 0 then narrowA (addA (mul16 a (sin32 t)) (mul16 b (cos32 t)))
      else narrowA (subA (mul16 b (cos32 t)) (mul16 a (sin32 t)))
    ⟨[y.v, z.v], st, y.s || z.s, false⟩
  | 0x0E => if 0 < a then one (lit (min 32767 (2 ^ (30 - k.aux % 16) / a))) else ⟨[32767], st, true, false⟩
  | 0x0F => runDist k a b xs st
  | 0x10 => runSort k xs st
  | 0x11 => one (lit a)
  | _ => ⟨[], st, false, false⟩

/-- The output of a closed-loop block while it is open (R324). -/
def openOut (k : Blk) (c : Int) (st : BSt) : BOut :=
  let ff := narrowA (shlA (mul16 (k.par 5) c) k.cs)
  let y : Sv := match k.fb with
    | 1 => lit (k.par (if k.typ = 0x0B then 2 else 4))
    | 2 => if k.typ = 0x08 then ff else lit st.lastClosed
    | 3 => lit 0
    | _ => lit st.lastClosed
  if k.typ = 0x0B then ⟨[pllAngle st.s3, y.v], { st with s3 := pllTheta k st.s3 y.v }, false, false⟩
  else ⟨[y.v], st, y.s, false⟩

/-- The output that preloads and fallbacks of a block go by: f for PLL, else its output. -/
def BOut.main (o : BOut) (k : Blk) : Int := if k.typ = 0x0B then nth o.ys 1 0 else nth o.ys 0 0

/-- One period of a block (R324, R325): `usable` is whether its guard is, `reclose` the periods before it closes again. Answers
the result, whether it was open, and whether it opened. -/
def periodBlk (k : Blk) (a b c : Int) (xs : List (Int × Bool)) (st : BSt) (tgt : Option Int) (usable : Bool) (reclose : Nat) :
    BOut × Bool × Bool :=
  if !k.closedLoop then (runBlk k a b c xs st tgt, false, false)
  else
    let close := fun (g : Option Int) =>
      let o := runBlk k a b c xs st g
      ({ o with st := { o.st with open_ := false, reclose := 0, lastClosed := o.main k, prevOut := o.main k } }, false, false)
    if !usable then
      let o := openOut k c st
      ({ o with st := { o.st with open_ := true, reclose := 0, prevOut := o.main k } }, true, !st.open_)
    else if !st.open_ then close tgt
    else if reclose ≤ st.reclose + 1 then close (match tgt with
      | some y => some y
      | none => some st.prevOut)
    else
      let o := openOut k c st
      ({ o with st := { o.st with open_ := true, reclose := st.reclose + 1, prevOut := o.main k } }, true, false)

end Sys2Proof.Machine
end

