-- ==== Sys2Proof/Machine/MillProg.lean ====
section
/-! DEFINITION. A Mill program as it stands: steps and costs (R312, R314), what it reads and writes, the checks of R345, and the
leads, windows and cost check that follow from it (R18, R19, R316, R517). -/

namespace Sys2Proof.Machine

/-! ### Blocks, steps, costs -/

/-- Blocks with their numbers. -/
def Prog.blks (p : Prog) : List (Nat × Blk) := p.blocks.zipIdx.map fun e => (e.2, parseBlk e.1)

/-- Blocks of task t, in list order. -/
def Prog.of (p : Prog) (t : Nat) : List (Nat × Blk) := p.blks.filter fun e => e.2.task = t

/-- Cuts a task's blocks into its steps (R312). -/
def stepsOf : List (Nat × Blk) → List (List (Nat × Blk))
  | [] => []
  | x :: r =>
    match stepsOf r with
    | (y :: ys) :: rest => if y.2.barrier then [x] :: (y :: ys) :: rest else (x :: y :: ys) :: rest
    | l => [x] :: l

/-- Steps of task t. -/
def Prog.steps (p : Prog) (t : Nat) : List (List (Nat × Blk)) := stepsOf (p.of t)

/-- Cost of a step in core cycles (R314). -/
def stepCost (l : List (Nat × Blk)) : Nat :=
  2 + (List.range 8).foldl (fun m lane =>
    max m ((l.filter fun e => e.2.lane = lane).foldl (fun a e => a + e.2.cost) 0)) 0

/-- A hand-over entry (R344). -/
structure HoE where
  run : Nat
  isl : Nat
  slot : Nat
  runBlk : Nat
  islBlk : Nat
  on : Bool
  deriving DecidableEq, Repr

/-- Reads a hand-over entry from its 64 bits. -/
def parseHo (x : Nat) : HoE :=
  ⟨x % 65536, x / 2 ^ 16 % 65536, x / 2 ^ 32 % 512, x / 2 ^ 41 % 2048, x / 2 ^ 52 % 2048, x.testBit 63⟩

/-- Enabled hand-over entries with their numbers. -/
def Prog.entries (p : Prog) : List (Nat × HoE) :=
  ((List.range p.ho.length).map fun i => (i, parseHo (nth p.ho i 0))).filter fun e => e.2.on

/-- Block number b. -/
def Prog.blk (p : Prog) (b : Nat) : Blk := parseBlk (nth p.blocks b [])

/-- Enabled entries whose slot task t writes. -/
def Prog.entriesOf (p : Prog) (t : Nat) : List (Nat × HoE) := p.entries.filter fun e => (p.blk e.2.runBlk).task = t

/-- Cost of the final part of task t (R316). -/
def Prog.finalCost (p : Prog) (t : Nat) : Nat := 2 + 2 * (p.entriesOf t).length

/-- C_t (R314). -/
def Prog.cost (p : Prog) (t : Nat) : Nat :=
  4 + (p.steps t).foldl (fun a l => a + stepCost l) 0 + 2 * (p.entriesOf t).length

/-- Longest step or final part of task t. -/
def Prog.longest (p : Prog) (t : Nat) : Nat := (p.steps t).foldl (fun a l => max a (stepCost l)) (p.finalCost t)

/-! ### What a task reads -/

/-- The input node that an address reads, itself or through its tag (R317). -/
def inputOf (x : Nat) : Option Nat :=
  if x < 0x400 then some x else if 0x8000 ≤ x && x < 0x8400 then some (x - 0x8000) else none

/-- Input nodes that a block reads: operands, members, tags, guard. -/
def Blk.inputs (k : Blk) : List Nat :=
  (k.reads.filterMap inputOf) ++ (if k.closedLoop && k.guard < 0x400 then [k.guard] else [])

/-- Input nodes read by task t, ascending, system inputs left out. -/
def Prog.inputs (p : Prog) (t : Nat) : List Nat :=
  let l := (p.of t).flatMap fun e => e.2.inputs
  (List.range 0x3E0).filter fun x => l.contains x

/-- Task t reads a remote input. -/
def Prog.remote (p : Prog) (t : Nat) : Bool := (p.of t).any fun e => e.2.inputs.any fun x => x < 0x300

def State.inputsOf (s : State) (t : Nat) : List Nat :=
  match s.mill.prog with
  | some p => p.inputs t
  | none => []

/-- Task t reads a remote input (R18). -/
def State.taskRemote (s : State) (t : Nat) : Bool :=
  match s.mill.prog with
  | some p => p.remote t
  | none => false

/-! ### Ports in use, remote groups -/

/-- Pair m has a used position (R235). -/
def State.pairUsed (s : State) (m : Nat) : Bool := s.hasPair m && s.rf .gcePair m 31 30 != 0

/-- Port p is in use: a position of it or a telemetry input of it appears in the configuration (R108; DEDUCED, log entry 31). -/
def State.portUsed (s : State) (p : Nat) : Bool :=
  s.hasPort p && ((List.range 8).any (fun i => s.pairUsed (8 * p + i)) ||
    (List.range 3).any fun t => s.taskOn t && (s.inputsOf t).any fun x => x < 0x300 && x / 16 = p)

/-- Group g contains a remote position (R18). -/
def State.groupRemote (s : State) (g : Nat) : Bool :=
  (List.range 48).any fun p => s.portGroup p = g && (List.range 8).any fun i => s.pairUsed (8 * p + i)

/-! ### Leads (R18, R517), in ticks; `ext` is the lead setting -/

def State.inputLeadAs (s : State) (ext : Bool) (t : Nat) : Nat :=
  if s.taskRemote t then (if ext then 11200 else 3200) else 800
def State.freezeLeadAs (s : State) (ext : Bool) (g : Nat) : Nat :=
  if s.groupRemote g then (if ext then 12000 else 4000) else 200
/-- Minimum compute window. -/
def State.minWindow (s : State) (g : Nat) : Nat := if s.groupRemote g then 2000 else 1000

def State.inputLead (s : State) (t : Nat) : Nat := s.inputLeadAs s.mode.extended t
def State.freezeLead (s : State) (g : Nat) : Nat := s.freezeLeadAs s.mode.extended g

/-- Lead of the input close of group g (R517). -/
def State.groupLeadAs (s : State) (ext : Bool) (g : Nat) : Nat :=
  match s.tasksOf g with
  | t :: _ => s.inputLeadAs ext t
  | [] => 800
def State.groupLead (s : State) (g : Nat) : Nat := s.groupLeadAs s.mode.extended g

/-! ### The checks of R345 -/

/-- First element that meets a test. -/
def firstWhere {α : Type} (f : α → Bool) : List α → Option α
  | [] => none
  | a :: r => if f a then some a else firstWhere f r

/-- Types that use operand a, b, c (R330). -/
def usesA (t : Nat) : Bool := t != 0x00
def usesB (t : Nat) : Bool := [0x02, 0x03, 0x05, 0x07, 0x08, 0x09, 0x0B, 0x0D, 0x0F, 0x12].contains t
def usesC (t : Nat) : Bool := [0x02, 0x05, 0x08, 0x09, 0x0D, 0x0F, 0x12].contains t
/-- Bits of aux that a type defines. -/
def auxBits (t : Nat) : Nat :=
  match t with
  | 0x0B | 0x0E => 16
  | 0x0D => 2
  | 0x0F => 32
  | 0x10 => 64
  | 0x12 => 256
  | _ => 1

/-- Check 0x03: the descriptor's own fields (R329, R518). -/
def Blk.formBad (k : Blk) : Bool :=
  let t := k.typ
  let group := t = 0x0F || t = 0x10
  k.rsv != 0 || 0x12 < t || k.task = 3 ||
  (!usesA t && k.a != 0xFFFF) || (!usesB t && k.b != 0xFFFF) || (!usesC t && k.c != 0xFFFF) ||
  ((t = 0x00 || t = 0x12) && k.out != 0xFFFF) ||
  (!k.closedLoop && (k.guard != 0xFFFF || k.fb != 0)) ||
  ([0x00, 0x04, 0x05, 0x0C, 0x0D, 0x0E, 0x10, 0x11, 0x12].contains t && k.cs != 0) ||
  (if group then k.n = 0 || 16 < k.n || k.stride = 0 else k.n != 0 || k.stride != 0) ||
  auxBits t ≤ k.aux

/-- An input node that exists (R317, R28). -/
def inputOk (v : Variant) (x : Nat) : Bool := x < 0x400 && (0x300 ≤ x || portOk v (x / 16))

/-- Nodes that task t writes: outputs of its blocks and slots of its entries (R318). -/
def Prog.writes (p : Prog) (t : Nat) : List Nat :=
  ((p.of t).flatMap fun e => e.2.outs) ++ (p.entriesOf t).map fun e => 0x400 + e.2.slot

/-- Check 0x04 of a block, with the nodes its task writes. -/
def Blk.nodesBad (v : Variant) (own : List Nat) (k : Blk) : Bool :=
  let readOk := fun x => x = 0xFFFF || inputOk v x || (0x8000 ≤ x && inputOk v (x - 0x8000)) ||
    (0x400 ≤ x && x < 0x1000 && own.contains x)
  let outOk := fun x => if k.typ = 0x11 then 0x3A0 ≤ x && x < 0x3E0 else 0x400 ≤ x && x < 0x1000
  !k.reads.all readOk || !(k.guard = 0xFFFF || inputOk v k.guard) || !k.outs.all outOk

/-- The blocks in list order with their numbers, each with the number of its step within its task. -/
def Prog.stepped (p : Prog) : List (Nat × Blk × Nat) :=
  let nos := (List.range 3).map fun t => p.steps t
  p.blks.map fun e => (e.1, e.2, (nth nos e.2.task []).findIdx fun l => l.any fun f => f.1 = e.1)

/-- Check 0x05 at block i: it writes a node that an earlier block of another task or of its own step writes. -/
def stepClash (l : List (Nat × Blk × Nat)) (e : Nat × Blk × Nat) : Bool :=
  l.any fun f => f.1 < e.1 && (f.2.1.task != e.2.1.task || f.2.2 = e.2.2) && f.2.1.outs.any fun x => e.2.1.outs.contains x

/-- Check 0x06 at an enabled entry. -/
def Prog.entryBad (p : Prog) (h : Nat) (e : HoE) : Bool :=
  let n := p.blocks.length
  let rb := p.blk e.runBlk
  let ib := p.blk e.islBlk
  n ≤ e.runBlk || n ≤ e.islBlk || rb.task != ib.task || !rb.outs.contains e.run || !ib.outs.contains e.isl ||
  e.run < 0x400 || e.isl < 0x400 || p.entries.any fun f => f.1 != h && f.2.slot = e.slot

/-- Tap values of task t (R341). -/
def Blk.tapNodes (k : Blk) : List Nat := if k.typ = 0x12 then [k.a, k.b, k.c].filter fun x => x != 0xFFFF else []
def Prog.taps (p : Prog) (t : Nat) : Nat := (p.of t).foldl (fun a e => a + e.2.tapNodes.length) 0

/-- Reads a payload without checking it (R344). -/
def parseProg (b : Bytes) : Prog :=
  { blocks := (List.range (lef b 6 2)).map fun i => (List.range 8).map fun w => word (lef b (0x100 + 32 * i + 4 * w) 4),
    ho := (List.range 16).map fun h => lef b (0x40 + 8 * h) 8 }

/-- The first failed check of R345 and its block, entry or task number. -/
def progCheck (v : Variant) (len : Nat) (b : Bytes) : Option (Nat × Nat) :=
  let n := lef b 6 2
  let p := parseProg b
  let l := p.blks
  let own := (List.range 3).map p.writes
  if lef b 0 4 != 0x504C494D || lef b 4 2 != 1 || !allZero (slice b 8 56) || !allZero (slice b 0xC0 64) then some (1, 0)
  else if n = 0 || 2048 < n || len != (256 + 32 * n + 63) / 64 * 64 then some (2, 0)
  else match firstWhere (fun e : Nat × Blk => e.2.formBad) l with
  | some e => some (3, e.1)
  | none => match firstWhere (fun e : Nat × Blk => e.2.nodesBad v (nth own e.2.task [])) l with
  | some e => some (4, e.1)
  | none => match firstWhere (stepClash p.stepped) p.stepped with
  | some e => some (5, e.1)
  | none => match firstWhere (fun e : Nat × HoE => l.any fun f => f.2.outs.contains (0x400 + e.2.slot)) p.entries with
  | some e => some (5, e.1)
  | none => match firstWhere (fun e : Nat × HoE => p.entryBad e.1 e.2) p.entries with
  | some e => some (6, e.1)
  | none => (firstWhere (fun t : Nat => 2040 < p.taps t) [0, 1, 2]).map fun t => (7, t)

/-! ### Windows (R19, R316) -/

/-- Window of task t in ticks as an integer. -/
def State.windowAs (s : State) (ext : Bool) (t : Nat) : Int :=
  let g := s.taskGroup t
  (s.grpPeriod g : Int) - s.inputLeadAs ext t - s.freezeLeadAs ext g

/-- Check 0x05 of R316: the first task that fails; `less` ticks are taken off each window (R397). -/
def State.costCheck (s : State) (ext : Bool) (less : Nat → Nat) : Option Nat :=
  match s.mill.prog with
  | none => none
  | some p =>
    let on := (List.range 3).filter s.taskOn
    firstWhere (fun t : Nat =>
      let i := (s.windowAs ext t - less t) / 2
      let w := i.toNat
      let low := ((List.range 3).filter fun x => t < x).foldl (fun a x => max a (p.longest x)) 0
      let high := (on.filter fun x => x < t).foldl (fun a x =>
        let q := s.grpPeriod (s.taskGroup x) / 2
        a + (if q = 0 then 0 else ((w + q - 1) / q + 1) * p.cost x)) 0
      ((p.of t) != [] && !s.grpOn (s.taskGroup t)) || (s.grpOn (s.taskGroup t) && i < (p.cost t + low + high : Nat))) on

/-! ### Active masks (R363, R364) -/

/-- Member i of cell group g: its port, if it counts for this group. -/
def State.memberPort (s : State) (g i : Nat) : Option Nat :=
  let size := fun (g : Nat) => min 16 (max 1 (s.rf .lnkCgrp g 12 8))
  let names := fun (g p : Nat) =>
    s.rb .lnkCgrp g 31 && s.rf .lnkCgrp g 21 16 ≤ p && p < s.rf .lnkCgrp g 21 16 + size g
  let p := s.rf .lnkCgrp g 21 16 + i
  if names g p && s.hasPort p && !(List.range g).any (fun h => names h p) then some p else none

/-- A port counts in the mask of its cell group (R364). -/
def State.portActive (s : State) (p : Nat) : Bool :=
  s.portUsed p && (s.port p).st = 3 && (s.health1 p).state ≤ 1 && !nbit (s.port p).up.state 3 && !nbit (s.port p).up.state 5

/-- Active mask of cell group g. -/
def State.activeMask (s : State) (g : Nat) : Nat :=
  maskOf 16 fun i => match s.memberPort g i with
    | some p => s.portActive p
    | none => false

end Sys2Proof.Machine
end

