-- ==== Sys2Proof/Machine/Slots.lean ====
section
/-! DEFINITION. Cell ports: the endpoint words the device keeps in force (R271, R272, R382, R519), port states (R209), the return
that fails with its port (R376), health events of a port with their retries (R370), bands (R498). -/

namespace Sys2Proof.Machine

/-! ### Temperature bands -/

/-- Limit Lj of THM_BANDS in 1/128 °C, and the hysteresis. -/
def State.bandLimit (s : State) (j : Nat) : Int := sx 8 (s.rf .thmBands 0 (8 * j + 7) (8 * j)) * 128
def State.bandHys (s : State) : Int := (s.rf .thmBands 0 31 24 : Int) * 128

/-- The band after a valid temperature (R498); `none` before the first one. -/
def State.bandAfter (s : State) (was : Option Nat) (T : Int) : Nat :=
  let up := ((List.range 3).filter fun j => s.bandLimit j ≤ T).length
  let down := ((List.range 3).filter fun j => s.bandLimit j - s.bandHys ≤ T).length
  match was with
  | none => up
  | some b => if b < up then up else if down < b then down else b

/-- Band of cell port p (R271) where LEG_PORT_TEMP[p] holds `w`. -/
def State.portBandOf (s : State) (p : Nat) (w : Word) : Nat :=
  let x := s.port p
  match x.tband with
  | some b => if bit w 31 && x.st = 3 && x.tmiss < 8 then b else fld w 5 4
  | none => fld w 5 4

/-- Band of cell port p (R271). -/
def State.portBand (s : State) (p : Nat) : Nat := s.portBandOf p (s.reg .legPortTemp p)

/-! ### Switch classes -/

/-- Effective dead time and minimum pulse of a class (R234). -/
def State.deadTime (s : State) (c : Nat) (remote : Bool) : Nat := max (s.rf .gceClass c 15 0) (if remote then 640 else 64)
def State.minOn (s : State) (c : Nat) (remote : Bool) : Nat := max (s.rf .gceClass c 30 16) (if remote then 640 else 64)

/-- Blanking of a class in a band, in 8 ns (R265): values outside 25 to 625 are never stored. -/
def State.blanking (s : State) (c band : Nat) : Nat :=
  let v := match band with
    | 0 => s.rf .legBlank01 c 9 0
    | 1 => s.rf .legBlank01 c 25 16
    | 2 => s.rf .legBlank23 c 9 0
    | _ => s.rf .legBlank23 c 25 16
  v

/-- Class of a pair. -/
def State.pairClass (s : State) (m : Nat) : Nat := s.rf .gcePair m 26 24

/-! ### Endpoint words -/

/-- pos_cfg[q] of port p (R272). -/
def State.posWord (s : State) (p q : Nat) : Nat :=
  let m := 8 * p + q / 2
  let c := s.pairClass m
  b2n (s.rb .gcePair m (31 - q % 2)) * 2 ^ 31 + min 255 ((s.deadTime c true - 32) / 256) * 2 ^ 16 + s.blanking c (s.portBand p)

/-- The words the device keeps at the endpoint of port p, with their addresses. -/
def State.wantWords (s : State) (p : Nat) : List (Nat × Nat) :=
  ((List.range 16).map fun (q : Nat) => (0x10 + q, s.posWord p q)) ++
  [(0x20, s.rf .lnkSafeMask p 15 0), (0x21, s.rf .lnkBypassCfg p 16 0)]

/-- A firmware request that writes one to three words from an address up. -/
def fwReq (a : Nat) (v : List Nat) : SlotReq := ⟨0, 0x10 + v.length, a, v.flatMap (le 4), true, none, 0, 0⟩

/-- Adds a word to runs of up to three consecutive addresses (DEDUCED, log entry 30). -/
def runJoin (l : List (Nat × List Nat)) (e : Nat × Nat) : List (Nat × List Nat) :=
  match l.getLast? with
  | some (a, v) => if v.length < 3 && a + v.length = e.1 then l.dropLast ++ [(a, v ++ [e.2])] else l ++ [(e.1, [e.2])]
  | none => [(e.1, [e.2])]

/-- Queues the words that are not in force, and the commit (R272, R519). -/
def State.fwPush (s : State) (p : Nat) (commit : Bool) : State :=
  let x := s.port p
  if x.st != 3 then s
  else
    let going := fun (e : Nat × Nat) => match x.req with
      | some r => r.fw && r.addr ≤ e.1 && slice r.data (4 * (e.1 - r.addr)) 4 = le 4 e.2
      | none => false
    let miss := (s.wantWords p).filter fun e => nget x.inForce e.1 != e.2 + 1 && !going e
    let com := commit || x.fwQ.any fun r => r.addr = 2
    let c := if com then [fwReq 2 [s.rf .lnkCtrl p 15 8]] else []
    s.modPort p fun x => { x with fwQ := ((miss.foldl runJoin []).map fun e => fwReq e.1 e.2) ++ c, pushing := x.pushing || commit }

/-- Pushes to every Ready port (R272: SYS_LOCK is first set). -/
def State.pushAll (s : State) : State := s.forAll (List.range 48) fun p s => s.iff ((s.port p).st = 3) (·.fwPush p false)

/-! ### Returning that fails (R376) -/

/-- Back to Bypassing from the next frame. -/
def State.returnFail (s : State) (p : Nat) : State :=
  ((s.modHealth1 p fun h => { h with state := 2 }).modPort p fun x =>
    { x with byFrom := 0, preRel := false, byNext := true, relFrom := none }).raise 194 p

/-! ### Port states (R209) -/

/-- The lead setting that governs new judgements (R22). -/
def State.extNow (s : State) : Bool := if s.mode.mode ≤ 1 then s.rb .sysLeads 0 0 else s.mode.extended

/-- Enters Acquire; a retry starts the passes anew. -/
def State.toAcquire (s : State) (p : Nat) (retry : Bool) : State :=
  s.modPort p fun x =>
    { x with st := 1, good := 0, sum := 0, cnt := 0, badUp := 0, passes := if retry then 0 else x.passes }

/-- What leaving Ready takes along: firmware requests (they are pushed anew), a return in progress. -/
def State.leaveReady (s : State) (p : Nat) : State :=
  let x := s.port p
  if x.st != 3 then s
  else
    let own := match x.req with
      | some r => if r.fw then none else some r
      | none => none
    let s := s.modPort p fun x => { x with req := own, fwQ := [], pushing := false, missRun := 0 }
    s.iff ((s.health1 p).state = 4) (·.returnFail p)

/-- Down, Out of range, Delay fault, Crossed: source, health event, and the retry of a counted one (R209, R370). -/
def State.portFault (s : State) (p st : Nat) : State :=
  let s := (s.leaveReady p).modPort p fun x => { x with st := st }
  let s := s.raise (196 + st) p
  if st = 4 || st = 6 then (s.healthCount p).toAcquire p true else s.healthPerm p

/-- Enters Ready: the pushes and the commit (R272, R382, R519). -/
def State.toReady (s : State) (p : Nat) : State :=
  let s := s.modPort p fun x =>
    { x with st := 3, sum := 0, cnt := 0, passes := 0, missRun := 0, inForce := [], committed := none, committing := true,
             comFrom := if x.committing then x.comFrom else s.clk.now }
  s.fwPush p true

/-- Goes to Off. -/
def State.portOff (s : State) (p : Nat) : State :=
  (s.leaveReady p).modPort p fun x => { x with st := 0 }

/-- Every port goes to Off (entry to Dormant). -/
def State.portsOff (s : State) : State := s.forAll (List.range 48) fun p s => s.iff ((s.port p).st != 0) (·.portOff p)

/-- A retry to Acquire, ignored in Off. -/
def State.portRetry (s : State) (p : Nat) : State :=
  if (s.port p).st = 0 then s else (s.leaveReady p).toAcquire p true

/-- A counted event whose retry pushes the words not in force and commits again (R370). -/
def State.portPushEvent (s : State) (p : Nat) : State :=
  let s := s.healthCount p
  s.iff (!(s.port p).pushing) (·.fwPush p true)

end Sys2Proof.Machine
end

