-- ==== Sys2Proof/Machine/ModeOps.lean ====
section
/-! DEFINITION. Mode transitions: the checks of R16 and R108, entering a mode with everything that goes with it (R102, R113, R122,
R232, R328), and requests (R110 to R115). -/

namespace Sys2Proof.Machine

/-! ### Checks of R16: the first that fails, with its index -/

/-- Length of the path "pair forward" for task t in core cycles (R515). -/
def State.pairForward (s : State) (t : Nat) : Nat :=
  let n := (s.inputsOf t).length
  let area := if s.pair.lane0 && s.pair.lane1 then 1206 else 581
  500 * ((308 + 4 * n + area - 1) / area + 1) + 40

/-- 0x01: group g needs frame boundaries and does not have them (R12, R231). -/
def State.badFrames (s : State) (g : Nat) : Bool :=
  s.grpOn g && (s.groupRemote g || (s.tasksOf g).any s.taskRemote) && !s.rb .gceGrpPeriod g 30 &&
  (s.rf .gceGrpPeriod g 19 0 % 500 != 0 || s.rf .gceGrpOffset g 19 0 % 500 != 0)

/-- 0x02: two tasks on core c are not aligned, or name different positions of it (R15, R288). -/
def State.badCore (s : State) (c : Nat) : Bool :=
  let on := (List.range 3).filter fun t => s.taskOn t && (s.bset t c).isSome
  on.any fun a => on.any fun b =>
    let ga := s.taskGroup a
    let gb := s.taskGroup b
    a < b && (s.bset a c != s.bset b c ||
      (let (p, o, q, r) := if s.grpPeriod ga ≤ s.grpPeriod gb
          then (s.grpPeriod ga, s.grpOffset ga, s.grpPeriod gb, s.grpOffset gb)
          else (s.grpPeriod gb, s.grpOffset gb, s.grpPeriod ga, s.grpOffset ga)
       p = 0 || q % p != 0 || r % p != o % p))

/-- 0x03: a window of group g is below its minimum (R19, R517). -/
def State.badWindow (s : State) (ext : Bool) (g : Nat) : Bool :=
  let room := fun (lead : Nat) => s.grpPeriod g < lead + s.freezeLeadAs ext g + s.minWindow g
  s.grpOn g && (if s.tasksOf g = [] then room 800 else (s.tasksOf g).any fun t => room (s.inputLeadAs ext t))

/-- 0x04: period outside the limits of R231. -/
def State.badPeriod (s : State) (g : Nat) : Bool :=
  let v := s.rf .gceGrpPeriod g 19 0
  s.grpOn g && ((if s.rb .gceGrpPeriod g 30 then v < 2 || 1000 < v else v < 1000 || 500000 < v) || v ≤ s.rf .gceGrpOffset g 19 0)

/-- The checks of R16 in their order, with the lead setting that the transition would put in force. -/
def State.check16 (s : State) : Option (Nat × Nat) :=
  let ext := s.extNow
  match firstWhere s.badFrames (List.range 8) with
  | some g => some (1, g)
  | none => match firstWhere s.badCore (List.range 8) with
  | some c => some (2, c)
  | none => match firstWhere (s.badWindow ext) (List.range 8) with
  | some g => some (3, g)
  | none => match firstWhere s.badPeriod (List.range 8) with
  | some g => some (4, g)
  | none => match s.costCheck ext (fun t => if s.paired then 2 * s.pairForward t else 0) with
  | some t => some (5, t)
  | none => if s.grpOn (s.rf .sysModeCtrl 0 2 0) then none else some (0x0C, s.rf .sysModeCtrl 0 2 0)

/-! ### The other preconditions of R108 -/

def State.check06 (s : State) : Option (Nat × Nat) := if s.mill.prog.isSome then none else some (6, 0)
def State.check07 (s : State) : Option (Nat × Nat) := if s.saf.confirmed then none else some (7, 0)
def State.check08 (s : State) : Option (Nat × Nat) :=
  (s.latchedSources.find? fun n => 4 ≤ s.severity n).map fun n => (8, n)
/-- Limits of R21 and R207 in 1/32 ns. -/
def State.downLimit (s : State) : Int := if s.extNow then 320000 else 64000
def State.upLimit (s : State) : Int := if s.extNow then 321536 else 65536
def State.check09 (s : State) : Option (Nat × Nat) :=
  (firstWhere (fun (p : Nat) =>
    s.portUsed p && ((s.port p).st = 5 || s.downLimit < (s.port p).dDown || s.upLimit < (s.port p).dUp)) (List.range 48)).map
    fun p => (9, p)
def State.check0A (s : State) : Option (Nat × Nat) :=
  (firstWhere (fun (p : Nat) => s.portUsed p && (s.health1 p).state ≤ 1 && !nbit s.saf.grants p) (List.range 48)).map
    fun p => (0x0A, p)
def State.check0B (s : State) : Option (Nat × Nat) := s.blocking.head?.map fun n => (0x0B, n)

/-- The first of several checks that fails. -/
def firstOf : List (Option (Nat × Nat)) → Option (Nat × Nat)
  | [] => none
  | some x :: _ => some x
  | none :: r => firstOf r

/-- Some carrier group runs (R232). -/
def State.groupsRun (s : State) : Bool := (List.range 8).any fun g => (s.grp g).started

/-- A transition of the table of R108: `none` when it is not allowed, else its first failed check. -/
def State.transition (s : State) (a b : Nat) : Option (Option (Nat × Nat)) :=
  let prep := [s.check16, s.check06, s.check07]
  match a, b with
  | 0, 1 | 1, 0 | 2, 1 | 5, 6 | 6, 5 | 5, 4 | 6, 4 | 4, 1 => some none
  | 1, 2 => some (firstOf [s.check16, s.check06])
  | 1, 3 => some (firstOf (prep ++ [s.check08, s.check09]))
  | 2, 3 => some (firstOf [s.check07, s.check08, s.check09])
  | 3, 4 => some s.check08
  | 4, 5 | 4, 6 => some (firstOf [s.check08, s.check0A])
  | 7, 4 => some (firstOf ([s.check0B, s.check08] ++ if s.groupsRun then [] else prep ++ [s.check09]))
  | 7, 1 => some s.check0B
  | _, _ => none

/-! ### Starting the groups (R232, R328) -/

/-- Ends the ring 2 descriptors that wait, with value v (R145). -/
def State.setpointsDone (s : State) (ids : List Nat) (v : Nat) : State :=
  let s := s.modMill fun m => { m with setps := m.setps.filter fun e => !ids.contains e.1 }
  s.forAll ids fun k s => s.answer 2 k ⟨0, v, 0⟩

/-- The Mill as a start of the groups in the core cycle at local count c leaves it. -/
def State.millClear (s : State) (c : Nat) : State :=
  let ids := s.mill.setps.map fun e => e.1
  let s := s.modMill fun m =>
    { m with nodes := [], blocks := [], bank := [], bndBank := [], tele := [], tags := [], masks := [], short := 0,
             tasks := [], cur := none, laneFree := 0, startAt := c, commitAt := 0, nodesWas := [] }
  let s := s.forAll (List.range 3) fun t s => s.modTask t fun x => { x with prevClose := c }
  s.setpointsDone ids 0

/-- The bootstrap-fed pair m's 4 bits of LEG_BOOT_MAP (R273). -/
def State.bootBits (s : State) (m : Nat) : Nat := s.rf .legBootMap (m / 8) (4 * (m % 8) + 3) (4 * (m % 8))

/-- Carrier group of a pair (R233). -/
def State.pairGroup (s : State) (m : Nat) : Nat :=
  if m < 384 then s.portGroup (m / 8) else s.rf .gcePair m 29 27

/-- The groups start in the core cycle at local count c (R232): first boundaries, continuity (R239), bootstrap (R274). -/
def State.startGroups (s : State) (c : Nat) : State :=
  let a := s.aligned c
  let s := s.forAll (List.range 8) fun g s => s.iff (s.grpOn g) fun s =>
    let b := s.boundaryFrom g (a + 2000)
    s.modGrp g fun x => { Grp.reset with started := true, b0 := b, bk := b, force := x.force, forceAt := x.forceAt }
  let s := s.modGce fun g => { g with pairs := [] }
  ((s.millClear c).forAll (List.range 3) fun t s => s.setReg .milTaskPeriods t 0).modMode fun m => { m with ramps := [], handover := [], hoDelta := [] }

/-! ### Taking a transition -/

/-- The words of one register that hold an RWL field: offset, absence and index. -/
def Reg.rwlWords (r : Reg) : List (Nat × Absent × Nat) :=
  if r.row.rwl = 0 then []
  else (List.range r.row.c1).flatMap fun i => (List.range r.row.c2).map fun j => (r.addr i j, r.row.absent, i)

/-- Every word of BAR0 that holds an RWL field, in ascending offset. -/
def rwlWords : List (Nat × Absent × Nat) :=
  [regsSys, regsClk, regsSec, regsDq, regsTim, regsLnk, regsGce, regsLeg, regsAdc, regsFad, regsMil, regsCap, regsPair,
   regsSaf, regsWch, regsBk, regsThm, regsMem].flatMap fun l =>
    sortBy (fun a b => a.1 < b.1) (l.flatMap Reg.rwlWords)

/-- A register with RWL fields as it reads: of the fields that are not stored WCH_ERRN.pulsing alone lies in one. -/
def State.rwlRead (s : State) (off : Nat) : Nat :=
  (tget regReset s.regs off).toNat ||| (if off = Reg.wchErrn.addr then b2n s.errPulsing * 2 ^ 30 else 0)

/-- SYS_LOCK is set: the measurement (R96 kind 6, R102) and the pushes (R272). -/
def State.rwlRegs (s : State) : Bytes :=
  (rwlWords.filter fun e => !absentReg s.var e.2.1 e.2.2).flatMap fun e => le 4 e.1 ++ le 4 (s.rwlRead e.1)
/-- Sets the lock. -/
def State.setLock (s : State) : State :=
  if s.locked then s
  else
    let s := s.setRb .sysLock 0 0 true
    (s.measure 6 (hash64 s.rwlRegs)).pushAll

/-- Applies a parameter word (R347). -/
def State.putParam (s : State) (w v : Nat) : State :=
  s.modMill fun m => { m with prog := m.prog.map fun p =>
    { p with blocks := setNth p.blocks (w / 4) (setNth (nth p.blocks (w / 4) []) (4 + w % 4) (word v)) } }

/-- Applies every waiting parameter write at once. -/
def State.paramsNow (s : State) : State :=
  let l := s.mill.params
  let s := s.modMill fun m => { m with params := [] }
  l.foldl (fun s x => match x.act with
    | some k => (s.putParam x.w x.val).answer 0 k ⟨0, 0, 0⟩
    | none => s.putParam x.w x.val) s

/-- The mode becomes `new`; SYS_MODE_TIME holds `at_`. -/
def State.enterMode (s : State) (new at_ : Nat) : State :=
  let old := s.mode.mode
  let s := s.leaving old new
  let s := s.modMode fun m => { m with previous := old, mode := new, pending := none, takeAt := none }
  let s := s.iff ((old = 5 && new = 6) || (old = 6 && new = 5)) (·.modMode fun m =>
    { m with hoNo := m.hoNo + 1, hoOver := false, hoDelta := [] })
  let s := (s.setReg .sysModeTimeLo 0 (word at_)).setReg .sysModeTimeHi 0 (word (at_ / 2 ^ 32))
  let s := s.iff (new != 5 && new != 6) fun s =>
    (s.modMode fun m => { m with ramps := [], handover := [], hoDelta := [] }).setRf .sysHandoverStatus 0 23 16 0
  let s := s.iff (new = 0) fun s => s.portsOff.capDormant.adcDormant
  let s := s.iff (new ≤ 1) State.paramsNow
  s.iff (3 ≤ new && new ≤ 6) State.setLock

/-- A transition under R113, taken in the core cycle at local count c; every group has the mode at once. -/
def State.takeNow (s : State) (src target c : Nat) (act : Option Nat) : State :=
  let idle := s.mode.mode = 1 || !s.groupsRun
  let s := (s.modeEnd src target 1 0 0 act).enterMode target c
  let s := s.allGroupsMode target
  s.iff (2 ≤ target && target ≤ 6 && idle) (·.startGroups c)

/-! ### Requests (R110, R114, R115) -/

/-- A request that is judged ends with a result (R115). -/
def State.endRequest (s : State) (q : ModeReq) (result check index : Nat) : State :=
  (s.modeEnd q.source q.target result check index q.act).refusedRaise q.source q.target

/-- Judges one request under R108; one that passes becomes the pending request and supersedes the one before (R110). -/
def State.judge (s : State) (q : ModeReq) : State :=
  match s.transition s.mode.mode q.target with
  | none => s.endRequest q 2 0 0
  | some (some (k, i)) => s.endRequest q (if k ≤ 5 || k = 0x0C then 4 else 3) k i
  | some none =>
    let s := match s.mode.pending with
      | some p => (s.modMode fun m => { m with pending := none }).endRequest p 5 0 0
      | none => s
    s.modMode fun x => { x with pending := some q, pendAt := x.boxAt }

/-- The order of application of the requests of one core cycle: the peer's (DESIGN CHOICE, log entry 114), SYS_MODE_REQ, ring 0,
Bell (R114). -/
def ModeReq.rank (q : ModeReq) : Nat := if q.source = 6 then 0 else q.source

/-- Judges the requests that reached the controller in core cycle `boxAt`; a transition of R113 is taken in the core cycle after. -/
def State.arbitrate (s : State) : State :=
  let l := sortBy (fun a b : ModeReq => a.rank < b.rank) s.mode.inbox
  let s := l.foldl State.judge (s.modMode fun m => { m with inbox := [] })
  let m := s.mode.mode
  s.iff (s.mode.pending.isSome && (m ≤ 1 || (m = 7 && !s.groupsRun))) (·.modMode fun m => { m with takeAt := some (m.boxAt + 2) })

/-- A request for a mode from a source; `act` is the descriptor of a ring 0 request. -/
def State.modeRequest (s : State) (src target : Nat) (act : Option Nat) : State :=
  let c := coreCycle s.clk.now
  if target = 7 then s.stopRequest src c act
  else if s.standby && src != 6 then s.forward 1 (match act with
    | some k => 65536 + k
    | none => 0) [src, target]
  else if s.mode.mode = 7 && s.mode.lastStop = some c then
    let v := s.reg .sysModeResult
    (s.preempted ⟨target, src, act⟩).setReg .sysModeResult 0 v
  else s.modMode fun m => { m with inbox := m.inbox ++ [⟨target, src, act⟩], boxAt := c }

end Sys2Proof.Machine
end

