-- ==== Sys2Proof/Machine/Snapshot.lean ====
section
/-! DEFINITION. The join snapshot (R395): what it holds as numbers, and what taking it does.  The bytes of a SNAPSHOT body are open
(DESIGN CHOICE, log entry 9). -/

namespace Sys2Proof.Machine

/-- An integer as a number: even for 0 and above, odd below. -/
def zz (x : Int) : Nat := if x < 0 then 2 * x.natAbs - 1 else 2 * x.natAbs
def unzz (n : Nat) : Int := if n % 2 = 1 then -((n + 1) / 2 : Nat) else (n / 2 : Nat)

/-- Lists of numbers as one list, each with its length in front, and back. -/
def joinNums (l : List (List Nat)) : List Nat := l.flatMap fun x => x.length :: x
def splitNums : Nat → List Nat → List (List Nat)
  | 0, _ => []
  | _ + 1, [] => []
  | f + 1, n :: r => r.take n :: splitNums f (r.drop n)

/-- Rows of k numbers. -/
def rowsOf (k : Nat) (l : List Nat) : List (List Nat) := (List.range (l.length / k)).map fun i => (l.drop (k * i)).take k

def PosSt.nums (x : PosSt) : List Nat := [b2n x.on, zz x.onAt, zz x.offAt, (x.carry.map (· + 1)).getD 0]
def posOf (l : List Nat) : PosSt :=
  ⟨nth l 0 0 = 1, unzz (nth l 1 0), unzz (nth l 2 0), if nth l 3 0 = 0 then none else some (nth l 3 0 - 1)⟩

/-- The snapshot as numbers: mode and law set, the input close it is taken at, committed copies, tags, retirement states, latched copies, levels and charge. -/
def State.snapNums (s : State) : List Nat :=
  let gs := (List.range 8).map fun g => (g, s.grp g)
  let ints := fun (f : Grp → Tbl Int) => gs.flatMap fun x => (f x.2).flatMap fun e => [x.1, e.1, zz e.2]
  let words := fun (f : Grp → Tbl Word) => gs.flatMap fun x => (f x.2).flatMap fun (e : Nat × Word) => [x.1, e.1, e.2.toNat]
  joinNums
    [[s.mode.mode, s.mode.previous, s.nowA] ++ (List.range 8).map (fun (g : Nat) => nget s.mode.groupMode g),
     s.mill.nodes.flatMap fun e => [e.1, zz e.2],
     s.mill.blocks.flatMap fun (e : Nat × BSt) =>
       let b := e.2
       [e.1, zz b.s1, zz b.s2, zz b.s3, b2n b.open_, b.reclose, zz b.lastClosed, zz b.prevOut],
     s.mill.tags.flatMap fun (e : Nat × Tag) =>
       let x := e.2
       [e.1, zz x.val, x.age, x.z, b2n x.frozen, b2n x.stale, b2n x.wasUsable, b2n x.hasPrev, zz x.prev, s.aligned x.inst, b2n x.fresh],
     s.health.flatMap fun (e : Nat × Health) => [e.1, e.2.state, (e.2.pendState.map (· + 1)).getD 0],
     gs.flatMap fun x => [x.1, b2n x.2.running, b2n x.2.started, x.2.b0, x.2.bk, (x.2.stopAfter.map (· + 1)).getD 0, x.2.frozen],
     ints (·.plan), ints (·.direct), words (·.dyn), words (·.force),
     s.gce.pairs.flatMap fun (e : Nat × PairSt) =>
       let x := e.2
       [e.1, b2n x.ref, zz x.refAt] ++ x.even.nums ++ x.odd.nums ++ [x.q, x.noLow, b2n x.required]]

/-- The SNAPSHOT record: its length, then its bytes (DESIGN CHOICE, log entry 9). -/
def State.snapshot (s : State) : Bytes :=
  let b := Config.pairEncode 0x0B s.snapNums
  le 4 b.length ++ b

/-- The active unit owes its peer in Join a snapshot (R395). -/
def State.snapDue (s : State) : Bool := s.hasPeer && s.pair.peerSeen && s.pair.active && s.pair.snapWant

/-- Takes a snapshot: everything it holds replaces the unit's own (R395). -/
def State.takeSnapshot (s : State) (nums : List Nat) : State :=
  let l := splitNums 11 nums
  let part := fun (i k : Nat) => rowsOf k (nth l i [])
  let head := nth l 0 []
  let s := s.enterMode (nth head 0 0 % 8) s.clk.now
  let s := s.modMode fun m =>
    { m with previous := nth head 1 0 % 8,
             groupMode := (List.range 8).foldl (fun (t : Tbl Nat) g => nput t g (nth head (3 + g) 0 % 8)) [] }
  let s := s.modMill fun m =>
    { m with nodes := (part 1 2).foldl (fun (t : Tbl Int) r => iput t (nth r 0 0) (unzz (nth r 1 0))) [],
             blocks := (part 2 8).foldl (fun (t : Tbl BSt) r =>
               tput (fun _ => BSt.reset) t (nth r 0 0)
                 ⟨unzz (nth r 1 0), unzz (nth r 2 0), unzz (nth r 3 0), nth r 4 0 = 1, nth r 5 0, unzz (nth r 6 0), unzz (nth r 7 0)⟩) [],
             tags := (part 3 11).foldl (fun (t : Tbl Tag) r =>
               tput (fun _ => Tag.reset) t (nth r 0 0)
                 ⟨unzz (nth r 1 0), nth r 2 0, nth r 3 0, nth r 4 0 = 1, nth r 5 0 = 1, nth r 6 0 = 1, nth r 7 0 = 1, unzz (nth r 8 0),
                  s.unaligned (nth r 9 0), nth r 10 0 = 1⟩) [],
             tasks := [], cur := none, laneFree := 0, startAt := 0, commitAt := 0, nodesWas := [] }
  let s := s.forAll (List.range 3) fun t s => s.modTask t fun x =>
    { x with prevClose := s.unaligned (nth head 2 0), mode := nget s.mode.groupMode (s.taskGroup t) }
  let s := (List.range 106).foldl (fun (s : State) h => s.modHealth1 h fun x => { x with state := 0, pendState := none }) s
  let s := (part 4 3).foldl (fun (s : State) r => s.iff (s.hasChannel (nth r 0 0)) (·.modHealth1 (nth r 0 0) fun x =>
    { x with state := nth r 1 0, pendState := if nth r 2 0 = 0 then none else some (nth r 2 0 - 1) })) s
  let s := s.forAll (List.range 48) fun p s => s.modPort p fun x =>
    { x with byFrom := 0, byNext := (s.health1 p).state = 2, preRel := false, retFrom := s.clk.now, retRun := 0, relFrom := none }
  let s := s.forAll (List.range 16) fun n s => s.modLg n fun l => { l with retired := (s.health1 (48 + n)).state = 3 }
  let s := (part 5 7).foldl (fun (s : State) r => s.modGrp (nth r 0 0) fun _ =>
    { Grp.reset with running := nth r 1 0 = 1, started := nth r 2 0 = 1, b0 := nth r 3 0, bk := nth r 4 0,
                     stopAfter := if nth r 5 0 = 0 then none else some (nth r 5 0 - 1), frozen := nth r 6 0,
                     forceAt := coreCycle s.clk.now }) s
  let s := (part 6 3).foldl (fun (s : State) r => s.modGrp (nth r 0 0) fun x => { x with plan := iput x.plan (nth r 1 0) (unzz (nth r 2 0)) }) s
  let s := (part 7 3).foldl (fun (s : State) r => s.modGrp (nth r 0 0) fun x => { x with direct := iput x.direct (nth r 1 0) (unzz (nth r 2 0)) }) s
  let wput := fun (t : Tbl Word) (r : List Nat) => tput (fun _ => (0 : Word)) t (nth r 1 0) (word (nth r 2 0))
  let s := (part 8 3).foldl (fun (s : State) r => s.modGrp (nth r 0 0) fun x => { x with dyn := wput x.dyn r }) s
  let s := (part 9 3).foldl (fun (s : State) r => s.modGrp (nth r 0 0) fun x => { x with force := wput x.force r }) s
  s.modGce fun c => { c with pairs := (part 10 14).foldl (fun (t : Tbl PairSt) r =>
    tput (fun _ => PairSt.reset) t (nth r 0 0)
      { ref := nth r 1 0 = 1, refAt := unzz (nth r 2 0), even := posOf ((r.drop 3).take 4), odd := posOf ((r.drop 7).take 4),
        q := nth r 11 0, noLow := nth r 12 0, required := nth r 13 0 = 1 }) [] }

end Sys2Proof.Machine
end

