-- ==== Sys2Proof/Machine/Advance.lean ====
section
/-! DEFINITION. Time passes: what the device does by itself between commands (the mode controller's judging and taking of requests,
R110 to R116), and the frame of every command. -/

namespace Sys2Proof.Machine

/-- The lesser of two instants. -/
def minAt (a b : Option Nat) : Option Nat :=
  match a, b with
  | some x, some y => some (min x y)
  | some x, none => some x
  | none, y => y

/-- The next core cycle in which the mode controller acts by itself: it judges the requests of the cycle before, ends the descriptor
of a Safe stop taken, takes a Safe stop request of the Watch or a transition of R113. -/
def State.nextDue (s : State) : Option Nat :=
  let m := s.mode
  minAt (if m.inbox.isEmpty then none else some (m.boxAt + 2))
    (minAt (if m.stopAct.isSome then m.lastStop.map (· + 2) else none) (minAt s.wch.stops.head? m.takeAt))

/-- Takes the pending request under R113. -/
def State.takePending (s : State) (c : Nat) : State :=
  match s.mode.pending with
  | some q => s.takeNow q.source q.target c q.act
  | none => s.modMode fun m => { m with takeAt := none }

/-- What the mode controller does in a core cycle in which something is due. -/
def State.doDue (s : State) (d : Nat) : State :=
  let m := s.mode
  if !m.inbox.isEmpty && m.boxAt + 2 ≤ d then s.arbitrate
  else if m.stopAct.isSome && (match m.lastStop with
      | some c => c + 2 ≤ d
      | none => true) then
    let s := s.modMode fun m => { m with stopAct := none }
    match m.stopAct with
    | some k => s.answer 0 k ⟨1, 0, 0⟩
    | none => s
  else match s.wch.stops with
  | c :: r => if c ≤ d then (s.modWch fun w => { w with stops := r }).stopRequest 4 c none else s.takePending d
  | [] => s.takePending d

/-- Time reaches t in stages, at most n of them. -/
def State.runTo (s : State) (t : Nat) : Nat → State
  | 0 => s.tickTo t
  | n + 1 =>
    match s.nextDue with
    | some d => if d ≤ t then (((s.tickTo d).doDue d).settle).runTo t n else s.tickTo t
    | none => s.tickTo t

/-- Time reaches t while the root is released: what falls due on the way happens in its own core cycle. -/
def State.advanceTo (s : State) (t : Nat) : State := if s.released then s.runTo t (s.wch.stops.length + 8) else s

/-- The lock will be set by a mode entry in this host cycle, so that its RWL writes are ignored already (R103): a transition of R113
that falls due, or the pending request at the input close of the reference group (R111). -/
def State.lockSoon (s : State) : Bool :=
  let h := s.clk.now / 4 * 4
  (!s.mode.inbox.isEmpty || s.mode.takeAt.isSome) && (s.advanceTo (h + 3)).locked ||
  (match s.mode.pending with
  | some q =>
    let g := s.rf .sysModeCtrl 0 2 0
    3 ≤ q.target && q.target ≤ 6 && s.mode.takeAt.isNone && s.grpOn g &&
    (List.range 4).any fun i =>
      let b := s.aligned (h + i) - s.groupLead g
      s.clk.now ≤ h + i && s.mode.pendAt < coreCycle (h + i) && s.groupLead g ≤ s.aligned (h + i) && s.isBoundary g b && s.runsAt g b
  | none => false)

/-- RWL fields ignore a write received now (R102, R103). -/
def State.rwlShut (s : State) : Bool := s.locked || s.lockSoon

/-- What a step does with no command waiting: one tick passes when the root is released (DESIGN CHOICE, log entry 2). -/
def State.idle (s : State) : State := s.advanceTo (s.clk.now + 1)

/-- What a command of the AON island does: time reaches t, the command acts, its records go out. -/
def actAon (t : Nat) (s : State) (f : State → State) : Host.Outcome State Fault Refusal :=
  .next (f (s.advanceTo t)).settle

/-- What every other command does: it acts while the root is released, as every clock but the AON island's stands still before (R54,
R69). -/
def act (t : Nat) (s : State) (f : State → State) : Host.Outcome State Fault Refusal :=
  actAon t s fun s => s.iff s.released f

/-- A step whose request passes the gate stage of a gated block (R65 to R67). -/
def actIn (b t : Nat) (s : State) (f : State → State) : Host.Outcome State Fault Refusal := act t s fun s => f (s.openGate b)

/-! ### Clock gates (R65 to R68) -/

/-- Ticks per clock cycle of a gated block: Mill, GCE, capture, memory and book at CORE, links and the analog die link at LINK, rings
at HOST (R61). -/
def gateClock (b : Nat) : Nat := match b with
  | 2 | 4 => 8
  | 5 => 4
  | _ => 2

/-- The block of a bit of CLK_GATE_FORCE has work (R66; what is work of a block is DEDUCED, log entry 19). -/
def State.blockBusy (s : State) (b : Nat) : Bool :=
  match b with
  | 0 => (List.range 3).any (fun t => (s.task t).st != 0) || !s.mill.params.isEmpty || !s.mill.setps.isEmpty
  | 1 => (List.range 8).any (fun g => (s.grp g).running || (s.grp g).started) || !s.gce.sched.isEmpty
  | 2 => (List.range 48).any (fun p => (s.port p).st != 0) || s.pair.lane0 || s.pair.lane1
  | 3 => (List.range 8).any (fun u => (s.unit u).st = 1 || (s.unit u).st = 2) || s.pmu.running
  | 4 => s.adc.seqOn || s.adc.retake || s.adc.inj.isSome || s.adc.spans.any (fun e => !e.2.isEmpty)
  | 5 => (List.range 16).any (fun i => !(s.ring i).acts.isEmpty || !(s.ring i).queue.isEmpty) || s.host.polling
  | 6 => (List.range 8).any fun u => (s.unit u).queue != 0
  | 7 => !s.book.queue.isEmpty || (!s.book.ready && !s.book.failed)
  | _ => false

/-- The gate of a block is closed: work that comes up inside the device opens it as a request does (R65, R68). -/
def State.gateClosed (s : State) (b : Nat) : Bool := nbit s.clk.gateShut b && !s.blockBusy b && !s.rb .clkGateForce 0 b

end Sys2Proof.Machine
end

