-- ==== Sys2Proof/Machine/AnalogSteps.lean ====
section
/-! DEFINITION. Converters: the commands. -/

namespace Sys2Proof.Machine

/-- A write to ADC_CTRL (R290, R291). -/
def State.writeAdcCtrl (s : State) (v : Word) : State :=
  let was := s.rb .adcCtrl 0 31
  let s := s.setReg .adcCtrl 0 (if s.rwlShut then wfld (s.reg .adcCtrl) 31 31 (fld v 31 31) else v &&& 0x800001FF)
  if bit v 31 && !was && 1 ≤ s.mode.mode then s.seqStart
  else if !bit v 31 then s.modAdc fun a => { a with seqOn := false }
  else s

/-- BOUNDARY_SPAN (R286, R287): 150 ticks before a boundary of group g, on a core that a task tied to g names. -/
def execBoundarySpan (t : Nat) (c g : Nat) (s : State) : Host.Outcome State Fault Refusal :=
  actIn 4 t s fun s =>
    let b := s.nowA + 150
    match (s.tasksOf g).find? fun t => (s.bset t c).isSome with
    | some t =>
      let j := (s.bset t c).getD 0
      if c < 8 && s.grpOn g && s.isBoundary g b && s.runsAt g b && 1 ≤ s.mode.mode &&
          !((s.spansOf c).any fun x => x.kind = 2 && x.start = s.clk.now) then
        s.addSpan c ⟨2, 8 * j + c, s.clk.now, 0, 0, 0, 0, 0⟩
      else s
    | none => s

/-- ADC_SEQ_START (R290). -/
def execAdcSeqStart (t : Nat) (v : Word) (s : State) : Host.Outcome State Fault Refusal :=
  actIn 4 t s fun s => s.iff (s.up && bit v 31) (·.writeAdcCtrl v)

/-- ADC_SEQ_STOP (R291). -/
def execAdcSeqStop (t : Nat) (v : Word) (s : State) : Host.Outcome State Fault Refusal :=
  actIn 4 t s fun s => s.iff (s.up && !bit v 31) (·.writeAdcCtrl v)

/-- SEQUENCER_STEP (R290 to R292): the step that is due starts in the first core cycle in which nothing stands against it; after a
stop only one that was aborted is taken again. -/
def execSequencerStep (t : Nat) (s : State) : Host.Outcome State Fault Refusal :=
  actIn 4 t s fun s =>
    let now := s.clk.now
    let e := s.adc.entry
    let rep := s.adc.rep
    let run := s.adc.run + b2n (rep = 0 && !s.adc.retake)
    let w := s.seqEntry e
    let mask := bitsOf 8 (fld w 31 24)
    let skip := mask.filter fun c => (s.acal c).active
    let cores := mask.filter fun c => !(s.acal c).active
    if !((s.adc.seqOn || s.adc.retake) && now % 2 = 0 && s.adc.due ≤ now && 1 ≤ s.mode.mode) then s
    else if cores.any fun c => s.coreBusy c || s.boundaryNear c now || s.injNames c then s
    else
      let s := s.iff (rep = 0) (·.forAll (List.range 8) fun c s => s.modAavg (avgKey c run) fun _ => { Avg.reset with run := run })
      let s := s.forAll skip fun c s => (s.bump .adcErr 0 15 0).avgLost c run
      let s := s.forAll cores fun c s => s.addSpan c ⟨1, 8 * fld w 23 22 + c, now, e, rep, run, w, 0⟩
      let last := rep = fld w 16 9
      s.modAdc fun a =>
        { a with due := now + 500 + 16 * fld w 8 0, run := run, retake := false, stepAt := some now, stepEntry := e, stepRep := rep, rep := if last then 0 else rep + 1,
                 entry := if last then (if e = s.rf .adcCtrl 0 8 0 then 0 else (e + 1) % 512) else e }

/-- ADC_INJ_START (R293). -/
def execAdcInjStart (t : Nat) (v : Word) (s : State) : Host.Outcome State Fault Refusal :=
  actIn 4 t s fun s => s.iff (s.up && bit v 0) State.injWrite

/-- INJECTED_SPAN (R293): the pending injection starts. -/
def execInjectedSpan (t : Nat) (s : State) : Host.Outcome State Fault Refusal :=
  actIn 4 t s fun s =>
    let now := s.clk.now
    match s.adc.inj with
    | none => s
    | some sel =>
      let cores := (List.range 8).filter fun c => nbit sel (3 * c + 2)
      let held := cores.any fun c => s.boundaryNear c now ||
        (s.spansOf c).any fun x => x.busy now && (x.kind = 2 || x.kind = 3)
      if now % 2 = 1 || now < s.adc.injAt || held then s
      else
        let step := (cores.flatMap s.spansOf).find? fun x => x.kind = 1 && x.busy now
        let s := match step with
          | some x => s.abortStep x (now + 500)
          | none => s
        let s := s.forAll cores fun c s =>
          let s := s.setSpans c ((s.spansOf c).filter fun x => !(x.kind = 4 && x.busy now))
          s.addSpan c ⟨3, 8 * (sel / 2 ^ (3 * c) % 4) + c, now, 0, 0, 0, 0, 0⟩
        s.modAdc fun a => { a with inj := none }

/-- PRECISION_RESULT (R294, R295, R301, R302): the oldest conversion of core c whose path has run. -/
def execPrecisionResult (t : Nat) (c : Nat) (raw : Int) (s : State) : Host.Outcome State Fault Refusal :=
  actIn 4 t s fun s =>
    match (s.spansOf c).find? fun x => x.kind != 4 with
    | none => s
    | some x =>
      if s.clk.now < x.sample + Config.precisionToBank || raw < -131072 || 131071 < raw then s
      else
        let k := coefAt (tget (fun _ => []) s.adc.hist c) (s.adcCoef c) x.sample
        let y := correct 18 raw k
        let ovr := raw = -131072 || raw = 131071 || y.2
        let s := s.dropSpan c x
        if x.kind != 1 then s.deliverResult x.kind x.input x.sample y.1 ovr
        else
          let w := x.word
          let k := avgKey c x.run
          let count := fld w 16 9
          if !bit w 17 || count = 0 then s.deliverResult 1 x.input x.sample y.1 ovr
          else
            let s := s.modAavg k fun a => if a.run = x.run then { a with sum := a.sum + y.1, ovr := a.ovr || ovr } else a
            let a := s.aavg k
            if x.rep = count && a.run = x.run && !a.lost then
              let sh := min 8 (fld w 21 18)
              let h : Int := if sh = 0 then 0 else 2 ^ (sh - 1)
              let z := satF 18 (asr (a.sum + h) sh)
              s.deliverResult 1 x.input x.sample z.1 (a.ovr || z.2)
            else s

/-- PRECISION_LINK_ERROR (R303). -/
def execPrecisionLinkError (t : Nat) (c : Nat) (s : State) : Host.Outcome State Fault Refusal :=
  actIn 4 t s fun s =>
    match (s.spansOf c).find? fun x => x.kind != 4 with
    | none => s
    | some x =>
      if s.clk.now < x.sample + Config.precisionLinkError then s
      else
        let s := (s.dropSpan c x).iff (x.kind = 1) (·.avgLost c x.run)
        ((s.bump .adcErr 0 31 16).raise 290 x.input).healthCount (64 + x.input)

/-- ADC_CAL_START (R296). -/
def execAdcCalStart (t : Nat) (v : Word) (s : State) : Host.Outcome State Fault Refusal :=
  actIn 4 t s fun s => s.iff (s.up && fld v 7 0 != 0) (·.writeAdcCal v)

/-- CALIBRATE_ADC (R296). -/
def execCalibrateAdc (t : Nat) (s : State) : Host.Outcome State Fault Refusal :=
  actIn 4 t s fun s => s.onFired 0x07 (some 0x09) fun x s =>
    s.forAll (bellUnits x.e.index) fun c s => s.calRequest c x.e.arg

/-- CALIBRATION_START (R297): with its first span where the core is free; `raw` is that span's code. -/
def execCalibrationStart (t : Nat) (c : Nat) (raw : Int) (s : State) : Host.Outcome State Fault Refusal :=
  actIn 4 t s fun s =>
    let k := s.acal c
    if c < 8 && k.requested && s.clk.now % 2 = 0 && !s.injNames c &&
        !((s.spansOf c).any fun x => x.kind = 3 && x.busy s.clk.now) then
      (s.modAcal c fun k =>
        { Cal.reset with active := true, band := if k.reqBand = 0 then s.analogBand else k.reqBand - 1, since := s.clk.now }).calSpan c raw
    else s

/-- CALIBRATION_SPAN (R297). -/
def execCalibrationSpan (t : Nat) (c : Nat) (raw : Int) (s : State) : Host.Outcome State Fault Refusal :=
  actIn 4 t s fun s => s.iff (c < 8) (·.calSpan c raw)

/-- CALIBRATION_END (R298, R299): the last calibration span has ended. -/
def execCalibrationEnd (t : Nat) (c : Nat) (s : State) : Host.Outcome State Fault Refusal :=
  actIn 4 t s fun s =>
    if 8 ≤ c then s
    else
      let s := s.calTally c
      let k := s.acal c
      if !(k.active && k.count = 512) then s
      else
        let s := s.modAcal c fun _ => Cal.reset
        match calValues k.z k.r 6 (s.rf .adcCalRef c 17 0) with
        | some (o4, g) =>
          let s := s.iff (k.band = s.analogBand) (·.adcKeep c (k.last + 1))
          let s := (s.setReg .adcCalOfs c (word (cx 20 o4)) k.band).setReg .adcCalGain c (word g) k.band
          (s.setRb .adcCalStatus 0 (8 + c) false).setRb .adcCalStatus 0 c true
        | none => (s.setRb .adcCalStatus 0 (8 + c) true).raise 288 c

/-- ADC_CAL_GAIN_WRITE (R300). -/
def execAdcCalGainWrite (t : Nat) (c b : Nat) (v : Word) (s : State) : Host.Outcome State Fault Refusal :=
  actIn 4 t s fun s => s.iff (s.up && c < 8 && b < 4) (·.writeAdcGain c b v)

/-- FAST_SAMPLE (R304, R305): the sample of instant `at_` arrives, 272 ticks after it. -/
def execFastSample (t : Nat) (n at_ : Nat) (raw : Int) (s : State) : Host.Outcome State Fault Refusal :=
  actIn 4 t s fun s =>
    if !s.fastOn n || s.aligned at_ % 25 != 0 || s.clk.now < at_ + Config.fastSample || raw < -2048 || 2047 < raw then s
    else if s.fadCalAt n at_ then (s.fadCalSample n at_ raw).fastInvalid n at_
    else
      let y := correct 12 raw (coefAt (tget (fun _ => []) s.fad.hist n) (s.fadCoef n) at_)
      let ovr := raw = -2048 || raw = 2047 || y.2
      let s := s.modFres n fun _ => ⟨1, ovr, y.1, at_⟩
      if (s.health1 (96 + n)).state = 3 then s.fastInvalid n at_
      else (((s.capFast n at_ y.1).atrgSample n at_ y.1).twSample n at_ y.1).fastProtect n at_ y.1

/-- FAST_LINK_ERROR (R307). -/
def execFastLinkError (t : Nat) (n at_ : Nat) (s : State) : Host.Outcome State Fault Refusal :=
  actIn 4 t s fun s =>
    if !s.fastOn n || s.aligned at_ % 25 != 0 || s.clk.now < at_ + Config.fastLinkError then s
    else (((s.fastInvalid n at_).bump .fadErr 0 31 0).raise 322 n).healthCount (96 + n)

/-- FAD_CAL_START (R306). -/
def execFadCalStart (t : Nat) (v : Word) (s : State) : Host.Outcome State Fault Refusal :=
  actIn 4 t s fun s => s.iff (s.up && s.hasCap && fld v 5 0 != 0) (·.writeFadCal v)

/-- CALIBRATE_FAD (R306). -/
def execCalibrateFad (t : Nat) (s : State) : Host.Outcome State Fault Refusal :=
  actIn 4 t s fun s => s.onFired 0x07 (some 0x0A) fun x s =>
    s.forAll (if x.e.index = 0xFFFF then List.range 6 else [x.e.index]) fun n s => s.fadRequest n x.e.arg

/-- FAST_CALIBRATION_END (R306). -/
def execFastCalibrationEnd (t : Nat) (n : Nat) (s : State) : Host.Outcome State Fault Refusal :=
  actIn 4 t s fun s =>
    let k := s.fcal n
    if !(n < 6 && k.active && k.count = 2048) then s
    else
      let s := s.modFcal n fun _ => Cal.reset
      match calValues k.z k.r 8 (sx 12 (s.rf .fadCalRef n 11 0)) with
      | some (o4, g) =>
        let s := s.iff (k.band = s.analogBand) (·.fadKeep n k.last)
        let s := (s.setReg .fadCalOfs n (word (cx 20 o4)) k.band).setReg .fadCalGain n (word g) k.band
        (s.setRb .fadCalStatus 0 (8 + n) false).setRb .fadCalStatus 0 n true
      | none => (s.setRb .fadCalStatus 0 (8 + n) true).raise 320 n

/-- FAD_CAL_GAIN_WRITE (R311). -/
def execFadCalGainWrite (t : Nat) (c b : Nat) (v : Word) (s : State) : Host.Outcome State Fault Refusal :=
  actIn 4 t s fun s => s.iff (s.up && s.hasCap && c < 6 && b < 4) (·.writeFadGain c b v)

end Sys2Proof.Machine
end

