-- ==== Sys2Proof/Machine/Gate.lean ====
section
/-! DEFINITION. The gate pipeline for one pair and one window, stages 1 to 10 of R230, in edge LSBs from the window's boundary, and
the packing of R250.  Nothing here reads the state. -/

namespace Sys2Proof.Machine

/-! ### Stages 1 to 3: the reference as its high intervals, end exclusive -/

/-- High from `start` on for `len` edge LSBs, modulo P_L. -/
def arc (pl : Nat) (start : Int) (len : Nat) : List (Int × Int) :=
  let a := start % pl
  if len = 0 then []
  else if pl ≤ len then [(0, pl)]
  else if a + len ≤ pl then [(a, a + len)]
  else [(0, a + len - pl), (a, pl)]

/-- The pulse of R236 from u on. -/
def pwmRef (pl u phase : Nat) : List (Int × Int) :=
  let d := (u * pl + 32768) / 65536
  let c := (pl / 2 + phase * pl / 65536) % pl
  arc pl ((c : Int) - (d / 2 : Nat)) d

/-- Stage 1 (R236 to R238): `x i` is the raw code of slot s + i, or for mod 7 of its GCE_DIRECT register. -/
def sourceRef (pl md : Nat) (x : Nat → Int) (sign : Bool) (leg phase : Nat) : List (Int × Int) :=
  let half := pl / 2
  let th0 : Int := (phase * pl / 65536 : Nat)
  match md with
  | 1 | 7 => pwmRef pl (if sign then 32768 - x 0 else 32768 + x 0).toNat phase
  | 2 =>
    let h := max (x 0) (max (x 1) (x 2)) + min (x 0) (min (x 1) (x 2))
    let vo := -(asr h 1)
    let u := if leg = 3 then 32768 + vo else 32768 + x leg + vo
    pwmRef pl (min 65536 (max 0 u)).toNat phase
  | 3 => arc pl th0 half
  | 4 => arc pl (th0 + half - asr (max 0 (x 1) * half) 15) half
  | 5 => arc pl (th0 + asr (x 0 * half) 15) half
  | 6 => arc pl (th0 + half + asr (x 0 * half) 15) half
  | _ => []

/-- Stage 2 (R247): force codes 0b01 and 0b10. -/
def forceRef (pl code : Nat) (l : List (Int × Int)) : List (Int × Int) :=
  if code = 1 then [] else if code = 2 then [(0, pl)] else l

/-- What lies between the intervals, from `t` to P_L. -/
def complRef (pl : Int) : Int → List (Int × Int) → List (Int × Int)
  | t, [] => if t < pl then [(t, pl)] else []
  | t, (a, b) :: r => (if t < a then [(t, a)] else []) ++ complRef pl b r

/-- Stage 3 (R246). -/
def invertRef (pl : Nat) (inv : Bool) (l : List (Int × Int)) : List (Int × Int) := if inv then complRef pl 0 l else l

/-- The reference level at offset 0. -/
def levelAt0 (l : List (Int × Int)) : Bool := match l with
  | (a, _) :: _ => a = 0
  | [] => false

/-! ### Stages 4 and 5: continuity and dead time -/

/-- Transitions of the reference in the window, given the level it left (R239). -/
def changes (pl : Nat) (was : Bool) (l : List (Int × Int)) : List (Int × Bool) :=
  (if was = levelAt0 l then [] else [(0, levelAt0 l)]) ++
  l.flatMap fun (e : Int × Int) => (if 0 < e.1 then [(e.1, true)] else []) ++ (if e.2 < pl then [(e.2, false)] else [])

/-- Spans of constant level, from the last transition before the window to its end. -/
def spans (pl : Int) : Bool → Int → List (Int × Bool) → List (Bool × Int × Int)
  | v, f, [] => [(v, f, pl)]
  | v, f, (t, v') :: r => (v, f, t) :: spans pl v' t r

/-- Where the position that follows level `v` is on (R240): from dt after each rise of that level to its fall. -/
def onSpans (dt : Nat) (v : Bool) (l : List (Bool × Int × Int)) : List (Int × Int) :=
  l.filterMap fun (e : Bool × Int × Int) =>
    let a := max 0 (e.2.1 + dt)
    if e.1 = v && decide (a < e.2.2) then some (a, e.2.2) else none

/-! ### Pulses -/

/-- An on-pulse of a position: its on-edge was emitted in an earlier window, its on-edge and off-edge (P_L: no off-edge in
this window), and whether each edge is a refresh edge. -/
structure Pls where
  old : Bool
  on : Int
  off : Int
  onRef : Bool
  offRef : Bool
  deriving DecidableEq, Repr

/-- Joins a pulse with those whose on-edge its off-edge at c reaches or passes less the dead time (R243). -/
def joinOver (dt : Nat) (c : Int) : Pls → List Pls → List Pls
  | p, [] => [p]
  | p, n :: r => if n.on - dt ≤ c then joinOver dt c { p with off := max p.off n.off } r else p :: n :: r

/-- The pulses of a position from the intervals its timeline is on and what the last window left (R239, R243). -/
def pulsesOf (dt : Nat) (x : PosSt) (l : List (Int × Int)) : List Pls :=
  let new := fun (e : Int × Int) => (⟨false, e.1, e.2, false, false⟩ : Pls)
  if x.on then
    let ps : List Pls := match l with
      | (a, b) :: r => if a = 0 then ⟨true, x.onAt, b, false, false⟩ :: r.map new else ⟨true, x.onAt, 0, false, false⟩ :: l.map new
      | [] => [⟨true, x.onAt, 0, false, false⟩]
    match x.carry, ps with
    | some c, p :: r => joinOver dt c { p with off := max p.off c } r
    | _, ps => ps
  else l.map new

/-- Edges of the pulses: instant, level, refresh. -/
def edgesOf (pl : Nat) (l : List Pls) : List (Int × Bool × Bool) :=
  l.flatMap fun (p : Pls) => (if p.old then [] else [(p.on, true, p.onRef)]) ++ (if p.off < pl then [(p.off, false, p.offRef)] else [])

/-- On-time of the pulses in the window. -/
def onTime (pl : Nat) (l : List Pls) : Nat := l.foldl (fun a (p : Pls) => a + (min (pl : Int) p.off - max 0 p.on).toNat) 0

/-! ### Stage 8: the guard (R241) -/

/-- Where an on-edge at t must move because of the partner's pulses and its last off-edge before the window. -/
def guardAt (pl dt : Nat) (prev : Int) (partner : List Pls) (t : Int) : Option Int :=
  match partner.find? (fun q => decide (q.on ≤ t) && decide (t < q.off)) with
  | some q => some (if q.off < pl then q.off + dt else pl)
  | none =>
    let last := partner.foldl (fun m q => if q.off ≤ t then max m q.off else m) prev
    if t < last + dt then some (last + dt) else none

/-- Order of on-edges: earlier first, the even position first at one instant. -/
def onBefore (a b : Bool × Pls) : Bool := decide (a.2.on < b.2.on) || (decide (a.2.on = b.2.on) && (!a.1 && b.1))

/-- Takes the on-edges of both positions (true: odd) in order; moves each until nothing of the partner holds it, or removes it
with its off-edge. -/
def guardGo (pl dt : Nat) (prevE prevO : Int) : Nat → List (Bool × Pls) → List Pls → List Pls → List Pls × List Pls
  | 0, _, e, o => (e, o)
  | _ + 1, [], e, o => (e, o)
  | n + 1, (odd, p) :: r, e, o =>
    let keep := if odd then (e, o ++ [p]) else (e ++ [p], o)
    if p.old then guardGo pl dt prevE prevO n r keep.1 keep.2
    else
      match guardAt pl dt (if odd then prevE else prevO) (if odd then e else o) p.on with
      | none => guardGo pl dt prevE prevO n r keep.1 keep.2
      | some t =>
        if p.off ≤ t then guardGo pl dt prevE prevO n r e o
        else guardGo pl dt prevE prevO n (insBy onBefore (odd, { p with on := t }) r) e o

/-- Stage 8. -/
def guardPair (pl dt : Nat) (prevE prevO : Int) (e o : List Pls) : List Pls × List Pls :=
  let l := sortBy onBefore (e.map (fun p => (false, p)) ++ o.map fun p => (true, p))
  guardGo pl dt prevE prevO 64 l [] []

/-! ### Stage 9: minimum pulse (R242, R243) -/

/-- Moves the later on-edges of the partner behind a stretched pulse. -/
def guardAgain (pl dt : Nat) (prev : Int) (mine : List Pls) (from_ : Int) (l : List Pls) : List Pls :=
  l.filterMap fun (p : Pls) =>
    if p.old || decide (p.on < from_) then some p
    else
      match guardAt pl dt prev mine p.on with
      | none => some p
      | some t => if p.off ≤ t then none else some { p with on := t }

/-- Handles one short pulse of a position's list: the list and the carried off-edge, `none` when nothing changes. -/
def shortPulse (pl dt minOn : Nat) (stretch : Bool) (p : Pls) : List Pls → List Pls × Option Nat
  | [] => ([], none)
  | x :: r =>
    if x = p then
      let nb := p.on + minOn
      if !p.old && !stretch then (r, none)
      else
        match r with
        | n :: r' =>
          if n.on - dt ≤ nb then ({ p with off := n.off } :: r', none)
          else if (pl : Int) ≤ nb then ({ p with off := pl } :: r, some (nb - pl).toNat)
          else ({ p with off := nb } :: r, none)
        | [] =>
          if (pl : Int) ≤ nb then ([{ p with off := pl }], some (nb - pl).toNat)
          else ([{ p with off := nb }], none)
    else
      let (l, c) := shortPulse pl dt minOn stretch p r
      (x :: l, c)

/-- Result of stage 9: pulses and carried off-edges of the two positions. -/
structure Stage9 where
  e : List Pls
  o : List Pls
  ce : Option Nat
  co : Option Nat
  deriving DecidableEq, Repr

/-- Treats each pulse once, in order of the on-edges; `done` is the last one treated. -/
def minPulseGo (pl dt minOn : Nat) (stretch : Bool) (prevE prevO : Int) : Nat → Option (Bool × Pls) → Stage9 → Stage9
  | 0, _, z => z
  | n + 1, done, z =>
    let l := (sortBy onBefore (z.e.map (fun p => (false, p)) ++ z.o.map fun p => (true, p))).filter fun x => match done with
      | none => true
      | some d => onBefore d x
    match l with
    | [] => z
    | (odd, p) :: _ =>
      let w := p.off - p.on
      if p.off < pl && 0 < w && w < minOn then
        let (mine, c) := shortPulse pl dt minOn stretch p (if odd then z.o else z.e)
        let z := if odd then { z with o := mine, co := c.orElse fun _ => z.co, e := guardAgain pl dt prevO mine p.on z.e }
          else { z with e := mine, ce := c.orElse fun _ => z.ce, o := guardAgain pl dt prevE mine p.on z.o }
        minPulseGo pl dt minOn stretch prevE prevO n (some (odd, p)) z
      else minPulseGo pl dt minOn stretch prevE prevO n (some (odd, p)) z

/-! ### Stages 4 to 9 for one pair -/

/-- What stages 4 to 9 need to know of a pair beyond its reference. -/
structure GateCfg where
  pl : Nat
  dt : Nat
  minOn : Nat
  stretch : Bool
  swap : Bool
  off : Bool
  usedE : Bool
  usedO : Bool
  /-- first window since the start of the group (R239) -/
  first : Bool
  deriving DecidableEq, Repr

/-- Stages 4 to 9: the pulses, the carried off-edges, and the reference level and transition left behind. -/
def gatePair (c : GateCfg) (x : PairSt) (l : List (Int × Int)) : Stage9 × Bool × Int :=
  let was := if c.first then !levelAt0 l else x.ref
  let sp := spans c.pl was (if c.first then 0 else x.refAt) (changes c.pl was l)
  let last := sp.getLast?.getD (was, x.refAt, 0)
  let hi := onSpans c.dt true sp
  let lo := onSpans c.dt false sp
  let (a, b) := if c.swap then (lo, hi) else (hi, lo)
  let e := if !c.usedE then [] else pulsesOf c.dt x.even (if c.off then [] else a)
  let o := if !c.usedO then [] else pulsesOf c.dt x.odd (if c.off then [] else b)
  let (e, o) := guardPair c.pl c.dt x.even.offAt x.odd.offAt e o
  (minPulseGo c.pl c.dt c.minOn c.stretch x.even.offAt x.odd.offAt 32 none ⟨e, o, none, none⟩, last.1, last.2.1 - c.pl)

/-! ### Stage 10: bootstrap refresh (R273 to R278) -/

/-- A bootstrap-fed pair: profile, band leakage, whether a refresh may be placed (R279), whether the pair's empty bit is set. -/
structure BootCfg where
  rOn : Nat
  rChg : Nat
  leak : Nat
  noNotch : Bool
  interval : Nat
  qTh : Nat
  tRef : Nat
  wRef : Nat
  place : Bool
  empty : Bool
  deriving DecidableEq, Repr

/-- Drain and charge of a window (R274). -/
def bootDrain (c : BootCfg) (pl h : Nat) : Nat := (h * c.rOn + pl * c.leak + 65535) / 65536
def bootCharge (c : BootCfg) (l : Nat) : Nat := l * c.rChg / 65536
/-- next(Q, H, L) of R274. -/
def bootNext (c : BootCfg) (pl q h l : Nat) : Nat := min 65535 (q - bootDrain c pl h + bootCharge c l)

/-- The high side is on at offset t. -/
def onAtOff (l : List Pls) (t : Int) : Bool := l.any fun (p : Pls) => decide (p.on ≤ t) && decide (t < p.off)

/-- The first candidate offset of R276. -/
def refreshAt (pl dt w : Nat) (tRef : Int) (hi : List Pls) : Option Int :=
  let es := (edgesOf pl hi).map fun e => e.1
  let cs := tRef :: sortBy (fun a b => decide (a < b)) (es.filter fun t => decide (tRef < t))
  cs.find? fun t => decide (t + 2 * dt + w ≤ pl) && !es.any fun x => decide (t < x) && decide (x < t + 2 * dt + w)

/-- Takes the high side off from t to u; the new edges are refresh edges. -/
def notch (t u : Int) (l : List Pls) : List Pls :=
  l.flatMap fun (p : Pls) =>
    if p.on ≤ t && t < p.off then
      (if p.old || p.on < t then [{ p with off := t, offRef := true }] else []) ++
      (if u < p.off then [{ p with old := false, on := u, onRef := true }] else [])
    else [p]

/-- Turns the low side on from t to u, joined with what it does already (DEDUCED, log entry 33). -/
def addLow (t u : Int) (l : List Pls) : List Pls :=
  let hit := l.filter fun (p : Pls) => decide (p.on ≤ u) && decide (t ≤ p.off)
  let p : Pls := hit.foldl (fun a (q : Pls) =>
    let a := if q.on ≤ a.on then { a with old := q.old, on := q.on, onRef := q.onRef } else a
    if a.off ≤ q.off then { a with off := q.off, offRef := q.offRef } else a) ⟨false, t, u, true, true⟩
  (l.filter fun (q : Pls) => decide (q.off < t)) ++ [p] ++ l.filter fun (q : Pls) => decide (u < q.on)

/-- The high side off for the whole window, with an off-edge at offset 0 where it is on there (R277, R278). -/
def highOff (l : List Pls) : List Pls :=
  (l.filter fun (p : Pls) => p.old).map fun (p : Pls) => { p with off := 0, offRef := false }

/-- Stage 10 for a bootstrap-fed pair: pulses of the high and low side, whether a refresh stays required, whether the model
emptied. -/
def stage10 (c : BootCfg) (pl dt minOn : Nat) (x : PairSt) (hi lo : List Pls) : List Pls × List Pls × Bool × Bool :=
  let h0 := onTime pl hi
  let l0 := onTime pl lo
  let need := x.required || bootNext c pl x.q h0 l0 < c.qTh || (l0 = 0 && c.interval != 0 && c.interval ≤ x.noLow + 1)
  let w := max c.wRef minOn
  let at_ := if need && c.place then refreshAt pl dt w (c.tRef * pl / 65536 : Nat) hi else none
  let placed := at_.filter fun t => !(onAtOff hi t && c.noNotch)
  let (hi', lo') := match placed with
    | some t =>
      (if onAtOff hi t then notch t (t + 2 * dt + w) hi else hi, addLow (t + dt) (t + dt + w) lo)
    | none => (hi, lo)
  let empties := need && c.place && placed.isNone && x.q ≤ bootDrain c pl h0 && bootCharge c l0 = 0
  let shut := empties || (c.empty && x.q < c.qTh)
  (if shut then highOff hi' else hi', lo', need && placed.isNone, empties)

/-! ### Packing remote edges (R250) -/

/-- An edge in a port's window: offset, position, level, refresh. -/
structure PEdge where
  t : Int
  q : Nat
  level : Bool
  refresh : Bool
  deriving DecidableEq, Repr

/-- Order by target instant, then position. -/
def PEdge.before (a b : PEdge) : Bool := decide (a.t < b.t) || (decide (a.t = b.t) && decide (a.q < b.q))

/-- Frames of a period: entry i is carrying frame i - 1, at most 16 edges each. -/
abbrev Frames := List (List PEdge)

/-- The place of an edge: the earliest frame of its window with a free slot. -/
def placeOf (f : Frames) (e : PEdge) : Option Nat :=
  let j := (e.t / 32000).toNat
  (List.range (j + 1)).find? fun i => decide (j ≤ i + 6) && decide ((nth f i []).length < 16)

/-- Places an edge. -/
def putEdge (f : Frames) (e : PEdge) : Option Frames := (placeOf f e).map fun i => setNth f i (nth f i [] ++ [e])

/-- The units of a position's edges after its closing edge: each on-edge with the next off-edge, or alone. -/
def unitsOf : List PEdge → List (PEdge × Option PEdge)
  | [] => []
  | [a] => [(a, none)]
  | a :: b :: r => if a.level && !b.level then (a, some b) :: unitsOf r else (a, none) :: unitsOf (b :: r)

/-- A position's closing edge and the rest. -/
def splitClosing (l : List PEdge) : List PEdge × List PEdge := match l with
  | [] => ([], [])
  | a :: r => if a.level then ([], l) else ([a], r)

/-- The procedure of R250 over the edges of each position, in order: the frames and the number of dropped units. -/
def packPort (n : Nat) (ls : List (List PEdge)) : Frames × Nat :=
  let closing := sortBy PEdge.before (ls.flatMap fun l => (splitClosing l).1)
  let units := sortBy (fun a b : PEdge × Option PEdge => a.1.before b.1) (ls.flatMap fun l => unitsOf (splitClosing l).2)
  let f := closing.foldl (fun f e => (putEdge f e).getD f) (List.replicate n ([] : List PEdge))
  units.foldl (fun (a : Frames × Nat) u =>
    match (putEdge a.1 u.1).bind (fun f => match u.2 with
      | some e => putEdge f e
      | none => some f) with
    | some f => (f, a.2)
    | none => (a.1, a.2 + 1)) (f, 0)

/-! ### What a window leaves -/

/-- A position after its emitted edges of a window (R239). -/
def PosSt.after (x : PosSt) (pl : Nat) (carry : Option Nat) (es : List (Int × Bool)) : PosSt :=
  let y := es.foldl (fun (y : PosSt) e => if e.2 then { y with on := true, onAt := e.1 } else { y with on := false, offAt := e.1 }) x
  { y with onAt := y.onAt - pl, offAt := y.offAt - pl, carry := if y.on then carry else none }

/-- On-time of emitted edges in a window that opens at a level. -/
def emittedOn (pl : Nat) (on : Bool) (es : List (Int × Bool)) : Nat :=
  let (v, f, a) := es.foldl (fun (s : Bool × Int × Int) e =>
    if e.2 then (if s.1 then s else (true, e.1, s.2.2)) else (if s.1 then (false, 0, s.2.2 + e.1 - s.2.1) else s))
    (on, (0 : Int), (0 : Int))
  (if v then a + pl - f else a).toNat

end Sys2Proof.Machine
end

