-- ==== Sys2Proof/Machine/Mill.lean ====
section
/-! DEFINITION. The Mill at work: sealing (R17, R319 to R323, R365, R366), steps (R312, R313, R324, R337), commits and hand-over
(R119 to R122, R326, R339 to R341), loading and parameters (R344 to R347), telemetry (R342), reading (R348). -/

namespace Sys2Proof.Machine

/-! ### Tags and node values -/

/-- Tag of input node x for task t. -/
def State.tag1 (s : State) (t x : Nat) : Tag := tget (fun _ => Tag.reset) s.mill.tags (1024 * t + x)
def State.putTag (s : State) (t x : Nat) (g : Tag) : State :=
  s.modMill fun m => { m with tags := tput (fun _ => Tag.reset) m.tags (1024 * t + x) g }

/-- A system input (R317) while mode m is in force. -/
def sysInput (m x : Nat) : Int :=
  match x with
  | 0x3E0 => m
  | 0x3E1 => if m = 6 then 1 else 0
  | 0x3E3 => 0x7FFF
  | 0x3E4 => -0x8000
  | _ => 0

/-- A tag as a raw integer (R317). -/
def Tag.code (g : Tag) : Int := if g.frozen then 0x7FFF else g.age

/-- Input node x is usable for task t (R322). -/
def State.usable (s : State) (t x : Nat) : Bool :=
  x = 0xFFFF || 0x3E0 ≤ x || (!(s.tag1 t x).stale && !(s.tag1 t x).frozen)

/-- A code as it enters its node (R319). -/
def State.nodeValue (s : State) (x : Nat) (code : Int) : Int :=
  if 0x300 ≤ x && x < 0x320 then
    let sh := min 2 (s.rf .milInCfg x 1 0)
    sat 16 (asr (code + (if sh = 0 then 0 else 2 ^ (sh - 1))) sh)
  else code

/-! ### Sealing (R320 to R323) -/

/-- The fresh code of input node x for the period of task t at boundary b, with its instant: what reached the bank before the input
close; a result sampled before the close before it and held since then is fresh too (R320, R321). -/
def State.freshOf (s : State) (t x b : Nat) : Option (Int × Nat) :=
  let now := (s.task t).closeAt
  let since := (s.task t).since
  if x < 0x300 then
    let p := x / 16
    match (tget (fun _ => []) s.mill.tele p).find? fun f => f.bnd = b && f.at_ < now with
    | some f => if (s.port p).st = 3 && nbit f.fresh (x % 16) then some (nth f.vals (x % 16) 0, s.unaligned b) else none
    | none => none
  else
    let bank := tget (fun _ => []) s.mill.bank x
    if x < 0x320 then
      let bnd := tget (fun _ => []) s.mill.bndBank x
      if s.inBset t (x - 0x300) then (bnd.find? fun v => v.bnd = some b && v.at_ < now).map fun v => (v.val, v.inst)
      else
        let l := (bank ++ bnd).filter fun v => v.at_ < now && s.mill.startAt < v.inst && (since < v.inst || since ≤ v.at_)
        (l.foldl (fun (a : Option InVal) v => match a with
          | some w => if w.inst < v.inst then some v else a
          | none => some v) none).map fun v => (v.val, v.inst)
    else (bank.find? fun v => v.at_ < now && since ≤ v.at_).map fun v => (v.val, v.inst)

/-- Input node x of task t takes its tag (R320, R322, R323, R370). -/
def State.sealTag (s : State) (t x : Nat) (f : Option (Int × Nat)) : State :=
  let g := s.tag1 t x
  let g1 : Tag := match f with
    | some (c, i) => { g with val := s.nodeValue x c, age := 0, inst := i, fresh := true, prev := c, hasPrev := true,
                              z := if g.hasPrev && g.prev = c then g.z + 1 else 0 }
    | none => { g with age := min 255 (g.age + 1), fresh := false }
  let out := 0x300 ≤ x && x < 0x320 && (s.health1 (64 + x - 0x300)).state = 3
  let frz := s.rf .milInCfg x 23 16
  let stale := out || s.rf .milInCfg x 31 24 < g1.age
  let frozen := out || (frz != 0 && frz ≤ g1.z)
  let s := s.putTag t x { g1 with stale := stale, frozen := frozen, wasUsable := g.wasUsable || (!stale && !frozen) }
  let s := s.iff (stale && !g.stale && g.wasUsable) (·.raise 355 x)
  s.iff (frozen && !g.frozen) (·.raise 356 x)

/-- Mask of cell group g sealed for task t. -/
def State.mask1 (s : State) (t g : Nat) : Nat := nget s.mill.masks (16 * t + g)

/-- Seals the masks of task t and judges them (R365, R366). -/
def State.sealMasks (s : State) (t : Nat) (mask : Nat → Nat) : State :=
  s.forAll (List.range 16) fun g s =>
    let k := mask g
    let s := s.modMill fun m => { m with masks := nput m.masks (16 * t + g) k }
    let low := s.rb .lnkCgrp g 31 && popc 16 k < s.rf .lnkCgrp g 4 0
    let was := nbit s.mill.short g
    (s.modMill fun m => { m with short := nset m.short g low }).iff (low && !was) (·.raise 195 g)

/-- At most n of the words that are due, oldest first, and the rest. -/
def takeParams (due : ParamW → Bool) : Nat → List ParamW → List ParamW × List ParamW
  | _, [] => ([], [])
  | n, x :: r =>
    if due x && 0 < n then
      let (a, b) := takeParams due (n - 1) r
      (x :: a, b)
    else
      let (a, b) := takeParams due n r
      (a, x :: b)

/-- Parameter words of task t that reached the Mill before its input close are applied (R17, R347), in Paired and Verify at most 32
(R514); answers them. -/
def State.sealParams (s : State) (t : Nat) : List (Nat × Nat) × State :=
  match s.mill.prog with
  | none => ([], s)
  | some p =>
    let due := fun (x : ParamW) => (p.blk (x.w / 4)).task = t && x.at_ < (s.task t).closeAt
    let (l, rest) := takeParams due (if s.paired then 32 else s.mill.params.length) s.mill.params
    let s := s.modMill fun m => { m with params := rest }
    (l.map fun x => (x.w, x.val), l.foldl (fun s x => match x.act with
      | some k => (s.putParam x.w x.val).answer 0 k ⟨0, s.clk.now % 2 ^ 32, 0⟩
      | none => s.putParam x.w x.val) s)

/-! ### BANK records (R396, R397) -/

/-- Sends a record: as one message where it fits the area, else as messages of one kind, each with its segment word (R386).  Records
are numbered from 1, so that a segment word is not the start of a record (DESIGN CHOICE, log entry 118). -/
def State.pairRecord (s : State) (kind : Nat) (b : Bytes) : State :=
  let area := if s.pair.lane0 && s.pair.lane1 then 1206 else 581
  let no := s.pair.recNo % 65535 + 1
  if b.length ≤ area + 4 then s.pairSend kind b
  else
  let l := blocksOf area (b.length / area + 1) b
  let s := s.modPair fun p => { p with recNo := p.recNo + 1 }
  s.forAll (List.range l.length) fun i s => s.pairSend kind (le 4 (no * 65536 + i) ++ nth l i [])

/-- The BANK record of task t at boundary b (R396). -/
def State.bankRecord (s : State) (t b : Nat) (params : List (Nat × Nat)) : Bytes :=
  let m := (s.task t).mode
  le 1 t ++ zeros 3 ++ le 4 (s.reg .milTaskPeriods t).toNat ++ le 4 b ++ le 1 m ++ le 1 (b2n (m = 6)) ++ zeros 2 ++
  ((List.range 16).flatMap fun g => le 2 (s.mask1 t g)) ++ le 4 params.length ++
  (params.flatMap fun x => le 4 x.1 ++ le 4 x.2) ++
  (s.inputsOf t).flatMap fun x =>
    let g := s.tag1 t x
    le 4 (b2n g.fresh * 2 ^ 31 + cx 18 g.prev)

/-- Takes the positions of a pair to be at given levels (R239, R259, R374). -/
def PairSt.taken (x : PairSt) (even odd : Bool) : PairSt :=
  let put := fun (y : PosSt) (v : Bool) =>
    if y.on = v then { y with carry := none } else { y with on := v, onAt := -(2 ^ 40), offAt := -(2 ^ 40), carry := none }
  { x with even := put x.even even, odd := put x.odd odd }

/-- Port p is Active again: its positions move on from the levels of LNK_SAFE_MASK (R375, R374). -/
def State.portBack (s : State) (p : Nat) : State :=
  let l := s.rf .lnkSafeMask p 15 0
  let s := (s.modHealth1 p fun h => { h with state := 0 }).modPort p fun x => { x with relFrom := none }
  s.forAll ((List.range 8).filter fun i => s.pairUsed (8 * p + i)) fun i s =>
    s.modPst (8 * p + i) (·.taken (nbit l (2 * i)) (nbit l (2 * i + 1)))

/-- Retirement states follow the masks of the record (R398; DEDUCED, log entry 32). -/
def State.followMask (s : State) (g k b : Nat) : State :=
  s.forAll (List.range 16) fun i s => match s.memberPort g i with
    | none => s
    | some p =>
      if s.portActive p && !nbit k i then
        (s.modHealth1 p fun h => { h with state := 2 }).modPort p fun x => { x with byFrom := b, preRel := true }
      else if nbit k i && 2 ≤ (s.health1 p).state then s.portBack p
      else s

/-- The period of task t computes under mode m: the first one of a change between Run and Island is a hand-over of the task, as is one
after a hand-over period that was abandoned (R119, R340).  Sealed with the bank (R349). -/
def State.takeMode (s : State) (t m : Nat) : State :=
  let was := (s.task t).mode
  let s := s.iff ((was = 5 && m = 6) || (was = 6 && m = 5)) (·.modMode fun k =>
    { k with handover := tput (fun _ => false) k.handover t true })
  s.modTask t fun x =>
    { x with mode := m, sealed := true, ho := tget (fun _ => false) s.mode.handover t, reclose := max 1 (s.rf .milCtrl 0 23 16) }

/-- Keeps the sealed period of task t for recomputation, two periods of each task (R402). -/
def State.keepTask (s : State) (t : Nat) : State :=
  s.iff s.paired (·.modPair fun p =>
    { p with keptT := (p.keptT.filter fun k => k.t != t) ++ (((p.keptT.filter fun k => k.t = t).reverse.take 1)) ++
      [⟨t, (s.task t).bk, s.mill, s.mode, s.reg .milTaskPeriods t⟩] })

/-- The device follows the mode of a record (R397): group g of the task does, and the unit with the tasks of the reference group, or
with every task where that group has none.  A record sealed before a Safe stop does not end it. -/
def State.followMode (s : State) (t m : Nat) : State :=
  let g := s.taskGroup t
  let x := s.task t
  let ref := s.rf .sysModeCtrl 0 2 0
  let stopped : Bool := match s.mode.lastStop with
    | some c => decide (x.closeAt ≤ c)
    | none => false
  if stopped then s
  else
  let s := s.iff (m != s.mode.mode && (g = ref || s.tasksOf ref = []) && s.pair.modeAt ≤ x.closeAt) fun s =>
    (s.enterMode m (s.unaligned (x.bk + s.grpPeriod g))).modPair fun p => { p with modeAt := x.closeAt }
  s.modMode fun k => { k with groupMode := nput k.groupMode g m }

/-- The standby seals the record of its task in place of its own bank; `false` when the record is not there. -/
def State.sealFromPeer (s : State) (t : Nat) : Bool × State :=
  let x := s.task t
  let r := tget (fun _ => []) s.pair.banks t
  let n := lef r 0x30 4
  let ins := s.inputsOf t
  if r.length < 0x34 + 8 * n + 4 * ins.length || lef r 8 4 != x.bk % 2 ^ 32 then (false, s)
  else
    let m := lef r 12 1
    let s := (s.followMode t m).takeMode t m
    let s := s.setReg .milTaskPeriods t (word (lef r 4 4))
    let s := (List.range n).foldl (fun s i => s.putParam (lef r (0x34 + 8 * i) 4) (lef r (0x38 + 8 * i) 4)) s
    let s := s.forAll (List.range 16) fun g s => s.followMask g (lef r (0x10 + 2 * g) 2) (x.bk + s.grpPeriod (s.taskGroup t))
    let s := s.sealMasks t fun g => lef r (0x10 + 2 * g) 2
    let s := s.forAll (List.range ins.length) fun i s =>
      let w := lef r (0x34 + 8 * n + 4 * i) 4
      s.sealTag t (nth ins i 0) (if nbit w 31 then some (sx 18 w, s.unaligned x.bk) else none)
    (true, s.keepTask t)

/-! ### INPUT_CLOSE -/

/-- A ring 2 descriptor ends at the first input close that uses one of its values (R145). -/
def State.setpointsUsed (s : State) (t : Nat) : State :=
  let ins := s.inputsOf t
  let c := (s.task t).closeAt
  s.setpointsDone ((s.mill.setps.filter fun e => e.2.2 < c && e.2.1.any fun x => ins.contains x).map fun e => e.1) (c % 2 ^ 32)

/-- The input close of group g at boundary b (R111, R112, R371, R372). -/
def State.groupClose (s : State) (g b : Nat) : State :=
  let now := s.clk.now
  let next := b + s.grpPeriod g
  let s := s.modGrp g fun x => { x with closed := b + 1 }
  let s := match s.mode.pending with
    | some q =>
      if g = s.rf .sysModeCtrl 0 2 0 && s.mode.pendAt < now then
        (s.modeEnd q.source q.target 1 0 0 q.act).enterMode q.target (s.unaligned next)
      else s
    | none => s
  let m := s.mode.mode
  let s := s.modMode fun k => { k with groupMode := nput k.groupMode g m }
  let s := s.iff (m = 1) (·.modGrp g fun x => { x with stopAfter := match x.stopAfter with
    | some k => some k
    | none => some next })
  s.forAll (List.range 48) fun p s =>
    if s.portGroup p != g then s
    else
      let h := (s.health1 p).state
      if h = 1 then
        (s.modHealth1 p fun h => { h with state := 2 }).modPort p fun x => { x with byFrom := next, preRel := true }
      else if h = 2 && (s.port p).byFrom = 0 && !(s.port p).byNext then s.modPort p fun x => { x with byFrom := next }
      else s

/-- The lead of the input close of group g (R517). -/
def State.closeLead (s : State) (g : Nat) : Nat :=
  match (s.tasksOf g).head? with
  | some t => s.inputLead t
  | none => 800

/-- Passes the input close of group g if it falls in this core cycle. -/
def State.closeGroup (s : State) (g : Nat) : State :=
  let lead := s.closeLead g
  let b := s.nowA - lead
  s.iff (s.grpOn g && lead ≤ s.nowA && s.isBoundary g b && s.runsAt g b && (s.grp g).closed != b + 1) (·.groupClose g b)

/-- Every group input close of this core cycle, the reference group's first (R112), before any task seals its masks (R365). -/
def State.closeGroups (s : State) : State :=
  (s.closeGroup (s.rf .sysModeCtrl 0 2 0)).forAll (List.range 8) fun g s => s.closeGroup g

/-- The unit takes the active unit's banks in place of its own: a standby in Paired or Verify whose peer is there (R397, R404). -/
def State.takesBank (s : State) : Bool := s.paired && !s.pair.active && s.pair.seize.isNone

/-- The bank of task t's period is sealed from the unit's own inputs; the active unit sends it to a linked peer (R396). -/
def State.sealOwn (s : State) (t : Nat) : State :=
  let b := (s.task t).bk
  let s := s.takeMode t (nget s.mode.groupMode (s.taskGroup t))
  let (ps, s) := s.sealParams t
  let s := s.forAll (s.inputsOf t) fun x s => s.sealTag t x (s.freshOf t x b)
  let s := (s.sealMasks t s.activeMask).setpointsUsed t
  (s.iff s.pair.active (·.pairRecord 0x01 (s.bankRecord t b ps))).keepTask t

/-- The input close of task t at boundary b: the period's bank is sealed and the task becomes ready. -/
def State.taskClose (s : State) (t b : Nat) : State :=
  let now := s.clk.now
  let ready := match s.mill.prog with
    | some p => p.steps t != []
    | none => false
  let s := s.setReg .milTaskPeriods t (word ((s.reg .milTaskPeriods t).toNat + 1))
  let s := s.modTask t fun x =>
    { x with st := if ready then 1 else 0, step := 0, bk := b, closeAt := now, since := x.prevClose, prevClose := now, nodes := [],
             trans := [], blocks := [], taps := [], satRose := false, anyOpen := false, sealed := false }
  s.iff (!s.takesBank) (·.sealOwn t)

/-- The snapshot that a peer in Join is owed: as the period's input close of the reference group finds the Mill, before it seals
(R395; DEDUCED, log entry 119). -/
def State.sendSnapshot (s : State) (g : Nat) : State :=
  s.iff (g = s.rf .sysModeCtrl 0 2 0 && s.snapDue && !s.pair.outbox.any fun m => m.1 = 0x0B) fun s => s.pairRecord 0x0B s.snapshot

/-- INPUT_CLOSE (R17): of task `task`, or with task 3 of a group that no enabled task is tied to (R517). -/
def execInputClose (t : Nat) (g : Nat) (task : Nat) (s : State) : Host.Outcome State Fault Refusal :=
  actIn 0 t s fun s =>
    let lead := if task < 3 then s.inputLead task else 800
    let own := if task < 3 then s.taskOn task && s.taskGroup task = g else task = 3 && s.tasksOf g = []
    let b := s.nowA - lead
    if !(s.up && s.grpOn g && own && lead ≤ s.nowA && s.isBoundary g b && s.runsAt g b) then s
    else if task < 3 && (s.task task).bk = b && (s.task task).closeAt = s.clk.now then s
    else
      let s := s.closeGroups
      let s := s.iff (task = 3 || (s.tasksOf g).head? = some task) (·.sendSnapshot g)
      s.iff (task < 3 && 2 ≤ nget s.mode.groupMode g && nget s.mode.groupMode g ≤ 7) (·.taskClose task b)

/-! ### TASK_STEP -/

/-- The tick at which task t starts after its input close (R397, R506). -/
def State.taskStart (s : State) (t : Nat) : Nat :=
  (s.task t).closeAt + if s.paired then 2 * s.pairForward t else Config.closeToStart

/-- A node as task t reads it (R313, R317). -/
def State.readNode (s : State) (t x : Nat) : Int :=
  let k := s.task t
  if x = 0xFFFF then 0
  else if x < 0x3E0 then (s.tag1 t x).val
  else if x < 0x400 then sysInput k.mode x
  else if x < 0x1000 then tget (fun n => iget s.mill.nodes n) k.nodes x
  else if 0x8000 ≤ x && x < 0x83E0 then (s.tag1 t (x - 0x8000)).code
  else 0

/-- Committed state of a block, and its state in the working copy of task t. -/
def State.blockSt (s : State) (b : Nat) : BSt := tget (fun _ => BSt.reset) s.mill.blocks b

/-- The value that hand-over preloads block b with, if this period preloads it (R119, R340). -/
def State.preloadOf (s : State) (p : Prog) (t b : Nat) : Option Int :=
  let k := s.task t
  let typ := (p.blk b).typ
  if k.ho && (k.mode = 5 || k.mode = 6) && (typ = 0x07 || typ = 0x08 || typ = 0x0A) then
    ((p.entriesOf t).find? fun e => (if k.mode = 6 then e.2.islBlk else e.2.runBlk) = b).map fun e =>
      iget s.mill.nodes (0x400 + e.2.slot)
  else none

/-- Sets sticky flags of block b: bits of [3] open, [2] lim, [1] sat, [0] ran; a first sat raises mill_sat (R337). -/
def State.blockFlags (s : State) (t b f : Nat) : State :=
  let lo := 4 * (b % 8)
  let was := s.rf .milBlkFlags (b / 8) (lo + 3) lo
  let s := s.setRf .milBlkFlags (b / 8) (lo + 3) lo (was ||| f)
  let s := s.iff (nbit f 3) (·.modTask t fun x => { x with anyOpen := true })
  s.iff (nbit f 1 && !nbit was 1) fun s => (s.modTask t fun x => { x with satRose := true }).raise 353 b

/-- What block b of task t makes of the state `s0` at the start of its step (R313, R324, R335). -/
def State.runBlock (s0 : State) (p : Prog) (t b : Nat) (k : Blk) : BOut × Bool × Bool :=
  let rd := s0.readNode t
  let mask := s0.mask1 t (k.aux % 16)
  let xs := (List.range k.members.length).map fun i => (rd (nth k.members i 0), !nbit k.aux 4 || nbit mask i)
  let st := tget (fun n => s0.blockSt n) (s0.task t).blocks b
  periodBlk k (rd k.a) (rd k.b) (rd k.c) xs st (s0.preloadOf p t b) (s0.usable t k.guard) (s0.task t).reclose

/-- The block's results go into the working copy, its flags and raises out. -/
def State.putBlock (s : State) (t b : Nat) (k : Blk) (r : BOut × Bool × Bool) (taps : List Int) : State :=
  let o := r.1
  let s := s.modTask t fun x =>
    let x := { x with blocks := tput (fun n => s.blockSt n) x.blocks b o.st }
    if k.typ = 0x11 then { x with trans := tins k.out (nth o.ys 0 0) (tdel k.out x.trans) }
    else if k.typ = 0x12 then { x with taps := tins b taps (tdel b x.taps) }
    else { x with nodes := (List.range k.outs.length).foldl (fun n i =>
      tput (fun n => iget s.mill.nodes n) n (nth k.outs i 0) (nth o.ys i 0)) x.nodes }
  let s := s.blockFlags t b (1 + 2 * b2n o.sat + 4 * b2n o.lim + 8 * b2n r.2.1)
  s.iff r.2.2 (·.raise 354 b)

/-- One step of task t: every block reads the values at the start of the step. -/
def State.runStep (s : State) (p : Prog) (t : Nat) (l : List (Nat × Blk)) : State :=
  l.foldl (fun z e => z.putBlock t e.1 e.2 (s.runBlock p t e.1 e.2) (e.2.tapNodes.map (s.readNode t))) s

/-- A step of task t starts now: the lanes are held for its cost, and for the final part after the last one (R314, R315). -/
def State.stepNow (s : State) (p : Prog) (t : Nat) : State :=
  let l := p.steps t
  let i := (s.task t).step
  let now := s.clk.now
  let s := s.iff (i = 0) (·.modTask t fun x => { x with startAt := now })
  let s := s.runStep p t (nth l i [])
  let e := now + 2 * stepCost (nth l i [])
  let last := l.length ≤ i + 1
  (s.modTask t fun x => { x with step := i + 1, st := if last then 2 else 1 }).modMill fun m =>
    { m with cur := some t, laneFree := if last then e + 2 * p.finalCost t else e }

/-- Task t may take the lanes. -/
def State.taskWaits (s : State) (t : Nat) : Bool := (s.task t).st = 1 && s.taskStart t ≤ s.clk.now

/-- Task t is ready and keeps lower tasks from a step: from its input close, in a pair from its start (R315, R397). -/
def State.taskReady (s : State) (t : Nat) : Bool :=
  (s.task t).st = 1 && (if s.paired then s.taskStart t else (s.task t).closeAt) ≤ s.clk.now

/-- TASK_STEP (R312, R315): the next step of the task, when it is the one that may take the lanes. -/
def execTaskStep (t : Nat) (task : Nat) (s : State) : Host.Outcome State Fault Refusal :=
  actIn 0 t s fun s =>
    match s.mill.prog with
    | none => s
    | some p =>
      if !(s.up && task < 3 && s.clk.now % 2 = 0 && s.taskWaits task && s.mill.laneFree ≤ s.clk.now) then s
      else if (List.range task).any s.taskReady || (List.range 3).any fun h => (s.task h).st = 2 then s
      else if (s.task task).sealed then s.stepNow p task
      else
        let (ok, s) := s.sealFromPeer task
        if ok then s.stepNow p task
        else if s.takesBank then (s.modTask task fun x => { x with st := 0 }).modPair fun q => { q with st := 2 }
        else (s.sealOwn task).stepNow p task

/-! ### TASK_COMMIT -/

/-- The freeze point of the period at boundary b of group g, in the aligned count. -/
def State.freezeAt (s : State) (g b : Nat) : Nat := b + s.grpPeriod g - s.freezeLead g

/-- Periods since a ramp began. -/
def State.rampAt (s : State) (r : Ramp) : Nat := ((s.reg .milTaskPeriods r.task).toNat + 2 ^ 32 - r.start) % 2 ^ 32

/-- SYS_HANDOVER_STATUS.left after a period (R126). -/
def State.setLeft (s : State) : State :=
  s.setRf .sysHandoverStatus 0 23 16 (s.mode.ramps.foldl (fun m e => if e.2.live then max m (e.2.n - 1 - s.rampAt e.2) else m) 0)

/-- The hand-over outputs of task t: comparison, ramps, slots (R120, R121, R339, R340).  Every output of a hand-over has its offset
formed at its task's commit; the offsets act once one of the outputs is found beyond the limit.  An output that was committed before
that has had y_in in its first period (DESIGN CHOICE, log entry 58).  The sticky flag is that of the incoming block (DESIGN CHOICE, log
entry 120). -/
def State.handOver (s : State) (p : Prog) (t : Nat) : State :=
  let m := (s.task t).mode
  let es := p.entriesOf t
  let src := fun (e : HoE) => s.readNode t (if m = 6 then e.isl else e.run)
  let old := fun (e : HoE) => iget s.mill.nodes (0x400 + e.slot)
  let now := (s.task t).ho && tget (fun _ => false) s.mode.handover t && (m = 5 || m = 6) && es != []
  let per := (s.reg .milTaskPeriods t).toNat
  let s := if !now then s
    else
      let dmax := es.foldl (fun (a : Nat) e => max a (src e.2 - old e.2).natAbs) 0
      let n := max 1 (s.rf .sysHandover 0 23 16)
      let all := max dmax (iget s.mode.hoDelta 0).toNat
      let beyond := s.mode.hoOver || s.rf .sysHandover 0 15 0 < dmax
      let s := s.modMode fun k =>
        { k with handover := tput (fun _ => false) k.handover t false, hoDelta := iput k.hoDelta 0 all, hoOver := beyond,
                 ramps := es.foldl (fun r e =>
                   let e0 := old e.2 - src e.2
                   tins e.1 ⟨e0, tdivI e0 n, n, per, t, k.hoNo, false⟩ r) (k.ramps.filter fun e => e.2.task != t) }
      let s := s.modMode fun k => { k with ramps := k.ramps.map fun e => (e.1, { e.2 with live := e.2.live || (beyond && e.2.ho = k.hoNo) }) }
      s.setRf .sysHandoverStatus 0 15 0 (min 0xFFFF all)
  let ended := fun (e : Nat × Ramp) => e.2.task = t && e.2.n ≤ s.rampAt e.2
  let s := s.modMode fun k => { k with ramps := k.ramps.filter fun e => !ended e }
  let s := es.foldl (fun s e =>
    let y := src e.2
    let z : Int × Nat := match s.mode.ramps.find? fun r => r.1 = e.1 && r.2.live with
      | some r =>
        let v := y + (r.2.e0 - (s.rampAt r.2 : Int) * r.2.step)
        (sat 16 v, b2n (sat 16 v != v))
      | none => (y, 0)
    let s := s.modTask t fun x => { x with nodes := tput (fun n => iget s.mill.nodes n) x.nodes (0x400 + e.2.slot) z.1 }
    s.iff (z.2 = 1) (·.blockFlags t (if m = 6 then e.2.islBlk else e.2.runBlk) 2)) s
  s.setLeft

/-- The trace record of task t (R341). -/
def State.traceBytes (s : State) (t : Nat) : Bytes :=
  let x := s.task t
  let v := x.taps.flatMap fun e => e.2
  le 8 (s.unaligned x.bk) ++ le 4 (s.reg .milTaskPeriods t).toNat ++ le 1 t ++
  le 1 (b2n (x.mode = 6) + 2 * b2n x.anyOpen + 4 * b2n x.satRose) ++ le 2 v.length ++ v.flatMap fun y => le 2 (cx 16 y)

/-- The trace record goes to ring role 6 and to capture. -/
def State.trace (s : State) (t : Nat) : State :=
  let b := s.traceBytes t
  let at_ := s.unaligned (s.task t).bk
  let due := (s.reg .milTaskPeriods t).toNat % (s.rf .milTraceCtrl 0 15 8 + 1) = 0
  let s := s.iff (due && s.rb .milTraceCtrl 0 t) (·.emitRecord 6 0x01 b)
  let s := s.iff (due && s.rb .milTraceCtrl 0 (16 + t)) fun s => b.foldl (fun s y => s.capRaw (0xF8 + t) .follow at_ [y]) s
  s.capMark (0xF8 + t) at_

/-- The working copy of task t becomes the committed copy (R326). -/
def State.commit (s : State) (t : Nat) : State :=
  let x := s.task t
  let now := s.clk.now
  let c := coreCycle now + 1
  let s := s.modMill fun m =>
    { m with nodesWas := if m.commitAt = c then m.nodesWas else m.nodes, commitAt := c,
             nodes := x.nodes.foldl (fun n e => iput n e.1 e.2) m.nodes,
             blocks := x.blocks.foldl (fun b e => tput (fun _ => BSt.reset) b e.1 e.2) m.blocks,
             cur := none }
  let s := x.trans.foldl (fun s e => s.bankPut e.1 ⟨e.2, now, now, none, true⟩) s
  (s.setRf .milTaskStatus t 19 0 (min 0xFFFFF ((now - x.startAt) / 2))).modTask t fun x => { x with st := 0 }

/-- TASK_COMMIT (R326, R339): at the end of the final part, if the freeze point has not come (R327). -/
def execTaskCommit (t : Nat) (task : Nat) (s : State) : Host.Outcome State Fault Refusal :=
  actIn 0 t s fun s =>
    match s.mill.prog with
    | none => s
    | some p =>
      let x := s.task task
      let f := s.unaligned (s.freezeAt (s.taskGroup task) x.bk)
      if s.up && task < 3 && x.st = 2 && s.mill.laneFree ≤ s.clk.now + 2 && coreCycle s.clk.now < f then
        ((s.handOver p task).trace task).commit task
      else s

/-- The committed nodes at the end of the core cycle before f: a commit in the freeze cycle or later is not used (R24). -/
def State.nodesAt (s : State) (f : Nat) : Tbl Int := if s.mill.commitAt = f + 1 then s.mill.nodesWas else s.mill.nodes

/-- A task that has not committed is abandoned in the freeze cycle (R327). -/
def State.abandon (s : State) (t : Nat) : State :=
  let s := s.modTask t fun x => { x with st := 0, nodes := [], trans := [], blocks := [], taps := [] }
  let s := s.modMill fun m => { m with cur := if m.cur = some t then none else m.cur,
                                       laneFree := if m.cur = some t then s.clk.now else m.laneFree }
  let s := s.modPair fun p => { p with keptT := p.keptT.filter fun k => k.t != t || k.bk != (s.task t).bk }
  ((s.bump .milTaskStatus t 31 20).setLeft).raise 352 t

/-! ### Loading and parameters -/

/-- The registers that show a loaded program (R348). -/
def State.showProg (s : State) (p : Prog) : State :=
  let s := (s.setRf .milStatus 0 31 31 1).setRf .milStatus 0 11 0 p.blocks.length
  let s := s.forAll (List.range 3) fun t s => s.setReg .milTaskCost t (word ((p.steps t).length * 2 ^ 20 + p.cost t))
  s.forAll (List.range 16) fun h s =>
    (s.setReg .milHoLo h (word (nth p.ho h 0))).setReg .milHoHi h (word (nth p.ho h 0 / 2 ^ 32))

/-- MILL_LOAD (R346). -/
def execMillLoad (t : Nat) (buf : Option Bytes) (s : State) : Host.Outcome State Fault Refusal :=
  actIn 0 t s fun s => s.iff s.up (·.onTurn 0 0x20 fun i k d s =>
    if s.mode.mode != 1 then s.ends i k 2
    else if d.len < 0x2000 then s.ends i k 5
    else s.readBuf i k d.buf 0x2000 buf fun b s =>
      let n := hdrLength b
      let c := s.imageCheck b 2 "OCR-MILL"
      if d.len < 0x2000 + n then s.ends i k 5
      else
      let s := s.hostRead (d.buf + 0x2000) n
      if c != 0 then s.ends i k 3 c
      else match progCheck s.var n (slice b 0x2000 n) with
      | some (c, j) => s.ends i k 4 (c * 65536 + j)
      | none =>
        let p := parseProg (slice b 0x2000 n)
        let s := (s.modMill fun m => { m with prog := some p, params := [] }).showProg p
        ((s.measure 4 (hdrHash b)).millClear (coreCycle s.clk.now)).ends i k 0)

/-- Parameter word w: `none` when it does not exist, else whether it may be written (R347). -/
def State.paramOpen (s : State) (w : Nat) : Option Bool :=
  match s.mill.prog with
  | some p => if w < 8192 && w / 4 < p.blocks.length then some (p.blk (w / 4)).tun else none
  | none => none

/-- MILL_PARAM (R347). -/
def execMillParam (t : Nat) (s : State) : Host.Outcome State Fault Refusal :=
  actIn 0 t s fun s => s.iff s.up (·.onTurn 0 0x21 fun i k d s =>
    if s.standby then (s.holdAct i k).forward 3 (65536 * (i + 1) + k) [d.arg, d.arg2]
    else if s.mill.prog.isNone then s.ends i k 3
    else match s.paramOpen d.arg with
    | none => s.ends i k 4
    | some false => s.ends i k 2
    | some true =>
      if s.mode.mode ≤ 1 then (s.putParam d.arg d.arg2).ends i k 0
      else (s.holdAct i k).modMill fun m => { m with params := m.params ++ [⟨d.arg, d.arg2, s.clk.now, some k⟩] })

/-- A parameter write of the Bell that has reached the Mill (R347). -/
def State.bellParam (s : State) (w v : Nat) : State :=
  match s.paramOpen w with
  | some true =>
    if s.mode.mode ≤ 1 then s.putParam w v
    else s.modMill fun m => { m with params := m.params ++ [⟨w, v, s.clk.now, none⟩] }
  | _ => s.bump .milStatus 0 27 20

/-- WRITE_PARAM (R347). -/
def execWriteParam (t : Nat) (s : State) : Host.Outcome State Fault Refusal :=
  actIn 0 t s fun s => s.onFired 0x02 none fun x s =>
    if s.standby then s.forward 7 0 [x.e.index, x.e.arg] else s.bellParam x.e.index x.e.arg

/-- Writes setpoint input i (R17). -/
def State.putSetpoint (s : State) (i v : Nat) : State :=
  s.bankPut (0x320 + i) ⟨sx 16 v, s.clk.now, s.clk.now, none, true⟩

/-- A value of a ring for setpoint input i, which a Bell value of the same core cycle overrides (R189). -/
def State.ringSetpoint (s : State) (i v : Nat) : State :=
  if nget s.mill.bellIn i = coreCycle s.clk.now + 1 then s else s.putSetpoint i v

/-- WRITE_INPUT (R182). -/
def execWriteInput (t : Nat) (s : State) : Host.Outcome State Fault Refusal :=
  actIn 0 t s fun s => s.onFired 0x01 none fun x s =>
    if s.standby then s.forward 6 0 [x.e.index, x.e.arg]
    else (s.putSetpoint x.e.index x.e.arg).modMill fun m => { m with bellIn := nput m.bellIn x.e.index (coreCycle s.clk.now + 1) }

/-- The used slots of a SETPOINT descriptor: input and raw value (R145). -/
def Desc.setpoints (d : Desc) : List (Nat × Nat) :=
  ((List.range 7).map fun i => (lef d.raw (4 + 4 * i) 2, lef d.raw (6 + 4 * i) 2)).filter fun e => e.1 != 0xFFFF

/-- SETPOINT (R145). -/
def execSetpoint (t : Nat) (s : State) : Host.Outcome State Fault Refusal :=
  actIn 0 t s fun s => s.iff s.up (·.onTurn 2 1 fun i k d s =>
    let l := d.setpoints
    if l.any fun e => 128 ≤ e.1 then s.ends i k 0x84
    else if s.standby then (s.holdAct i k).forward 2 (65536 * (i + 1) + k) (l.flatMap fun e => [e.1, e.2])
    else if l = [] then s.ends i k 0
    else
      let s := l.foldl (fun s e => s.ringSetpoint e.1 e.2) s
      (s.holdAct i k).modMill fun m => { m with setps := m.setps ++ [(k, l.map fun e => 0x320 + e.1, s.clk.now)] })

/-! ### Reading -/

/-- The lowest enabled task that reads an input node. -/
def State.readerOf (s : State) (x : Nat) : Option Nat :=
  match s.mill.prog with
  | some p => (List.range 3).find? fun t => s.taskOn t && (p.of t).any fun e => e.2.inputs.contains x
  | none => none

/-- Value j of a telemetry record (R343). -/
def State.teleValue (s : State) (x : Nat) : Int :=
  if x < 0x400 then match s.readerOf x with
    | some t => s.readNode t x
    | none => 0
  else if x < 0x1000 then iget s.mill.nodes x
  else if 0x8000 ≤ x && x < 0x83E0 then match s.readerOf (x - 0x8000) with
    | some t => (s.tag1 t (x - 0x8000)).code
    | none => 0
  else 0

/-- Bit p for every cell port in Ready; for every one in states 2 to 5 (R382). -/
def State.readyMask (s : State) : Nat := maskOf 48 fun p => (s.port p).st = 3
def State.retiredMask (s : State) : Nat := maskOf 48 fun p => 2 ≤ (s.health1 p).state

/-- The periodic telemetry record (R342). -/
def State.teleBytes (s : State) (status : Nat) : Bytes :=
  let n := s.rf .milTlmCtrl 0 27 20
  let now := s.clk.now
  le 8 now ++ (if s.tim.quality = 0 then zeros 16 else tsBytes (s.timeAt now)) ++ le 1 s.mode.mode ++
  le 1 (s.tim.quality + 8 * b2n (s.mode.mode = 6) + 16 * b2n s.mill.prog.isSome) ++ le 2 n ++ le 4 status ++
  le 8 s.readyMask ++ le 8 s.retiredMask ++ ((List.range 16).flatMap fun g => le 2 (s.activeMask g)) ++
  (List.range n).flatMap fun j =>
    le 2 (cx 16 (s.teleValue (if j % 2 = 0 then s.rf .milTlmSel (j / 2) 15 0 else s.rf .milTlmSel (j / 2) 31 16)))

/-- TELEMETRY_RECORD (R342): at every whole multiple of the interval. -/
def execTelemetryRecord (t : Nat) (s : State) : Host.Outcome State Fault Refusal :=
  actIn 0 t s fun s =>
    if s.up && s.rb .milTlmCtrl 0 31 && s.clk.now % (s.rf .milTlmCtrl 0 19 0 * 1000) = 0 then
      s.emitRecord 15 0x01 (s.teleBytes s.wchStatusWord)
    else s

/-- Bytes of an acc40 and of a frac16 (R358). -/
def acc40 (x : Int) : Bytes := le 8 (cx 64 x)
def frac16 (x : Int) : Bytes := le 2 (cx 16 x)

/-- The state record of a block (R358). -/
def stateRecord (typ : Nat) (b : BSt) : Bytes :=
  padTo 16 (match typ with
    | 0x07 | 0x08 => acc40 b.s1 ++ frac16 b.s3
    | 0x09 | 0x0A => acc40 b.s1 ++ acc40 b.s2
    | 0x0B => acc40 b.s1 ++ le 4 (cx 32 b.s3) ++ frac16 b.s2
    | 0x04 | 0x06 => frac16 b.s3
    | _ => [])

/-- The four words that MIL_SEL names (R348). -/
def State.milWords (s : State) : List Word :=
  let x := s.rf .milSel 0 15 0
  let t := if s.rf .milSel 0 29 28 = 3 then 0 else s.rf .milSel 0 29 28
  let reads := match s.mill.prog with
    | some p => (p.of t).any fun e => e.2.inputs.contains (x % 0x8000)
    | none => false
  match s.rf .milSel 0 31 30 with
  | 1 =>
    let b := match s.mill.prog with
      | some p => if x < p.blocks.length then stateRecord (p.blk x).typ (s.blockSt x) else zeros 16
      | none => zeros 16
    (List.range 4).map fun i => word (lef b (4 * i) 4)
  | 2 =>
    if reads && x < 0x3E0 then
      let g := s.tag1 t x
      [word (g.age * 2 ^ 24 + b2n g.frozen * 2 ^ 23 + b2n g.stale * 2 ^ 22 + cx 18 g.val), word g.inst, 0, 0]
    else [0, 0, 0, 0]
  | _ =>
    let v := if x < 0x400 || 0x8000 ≤ x then (if reads then s.readNode t x else 0) else if x < 0x1000 then iget s.mill.nodes x else 0
    [word (cx 16 v), 0, 0, 0]

/-- MIL_DATA_READ (R348): a read of MIL_DATA[0] latches the four words; while the window is not decoded it returns 0 (R85, R132). -/
def execMilDataRead (t : Nat) (s : State) : Host.Outcome State Fault Refusal :=
  actIn 0 t s fun s =>
    if !s.up then { s with rdata := 0 }
    else
      let w := s.milWords
      let s := (List.range 4).foldl (fun s i => { s with hiLatch := tput (fun _ => 0) s.hiLatch (Reg.milData.addr i) (nth w i 0) }) s
      { s with rdata := nth w 0 0 }

end Sys2Proof.Machine
end

