-- ==== Sys2Proof/Machine/PairOps.lean ====
section
/-! DEFINITION. What the pair unit shares with the rest: plan-path writes (R398, R508), plan hashes (R400, R401). -/

namespace Sys2Proof.Machine

/-! ### Plan-path writes -/

/-- Core cycle at which a plan-path write made now reaches the GCE: the path "BAR0 write to GCE shadow", or on an active unit of
a pair the path "pair forward" with m = 1 (R398, R508, R515). -/
def State.planArrival (s : State) : Nat := coreCycle s.clk.now + (if s.leads then 2080 else 14)

/-- Stores a plan-path word that reaches the GCE in core cycle c; entries that have arrived at every GCE are dropped. -/
def State.planStore (s : State) (off c : Nat) (v : Word) : State :=
  let old := tget regReset s.regs off
  let s := s.modPair fun p =>
    { p with delayed := (p.delayed.filter fun e => coreCycle s.clk.now ≤ e.1) ++ [(c, off, old)] }
  { s with regs := tput regReset s.regs off v }

/-- A word as it stood at the GCE at the end of the core cycle before f (R244). -/
def State.gceWord (s : State) (f : Nat) (r : Reg) (i : Nat := 0) : Word :=
  match s.pair.delayed.find? fun e => e.2.1 = r.addr i && f ≤ e.1 with
  | some e => e.2.2
  | none => s.reg r i

/-- A commit of the force codes that reaches the GCE in core cycle c (R247). -/
def State.forceCommit (s : State) (c : Nat) : State :=
  s.modGce fun g => { g with staged := (g.staged ++ [(c, (List.range 25).filterMap fun (w : Nat) =>
    if s.reg .gceForce w = 0 then none else some (w, s.reg .gceForce w))]) }

/-- A plan-path write from BAR0: ignored on a standby; an active unit in Paired or Verify sends it to its peer (R398). -/
def State.planWrite (s : State) (off : Nat) (v : Word) : State :=
  if s.standby then s
  else
    let c := s.planArrival
    let s := s.iff s.leads (·.pairSend 0x02 (Config.pairEncode 2 [off, v.toNat, s.aligned c]))
    if off = Reg.gceForceCtrl.addr then s.iff (bit v 0) (·.forceCommit c)
    else s.planStore off c v

/-- GCE_FORCE_COMMIT (R247). -/
def execGceForceCommit (t : Nat) (v : Word) (s : State) : Host.Outcome State Fault Refusal :=
  act t s fun s => if s.up && bit v 0 then s.planWrite Reg.gceForceCtrl.addr v else s

/-! ### Plan hashes -/

/-- The hashes of group g at boundary b differ (R401). -/
def State.pairMismatch (s : State) (g b : Nat) : State :=
  let s := ((s.bump .pairHashErrs 0 31 16).modPair fun p => { p with lastMatch := false }).raise 417 0xFFFF
  s.iff (s.pair.st = 3) (·.modPair fun p => { p with st := 4, verif := some ⟨g, b, s.clk.now, none, none⟩ })

/-- Compares the two hashes of group g at boundary b once both are here. -/
def State.hashCompare (s : State) (g b : Nat) : State :=
  let mine := fun (h : PlanHash) => h.g = g && h.b = b % 2 ^ 32
  match s.pair.own.find? mine, s.pair.peerH.find? mine with
  | some x, some y =>
    let s := s.modPair fun p => { p with own := p.own.filter fun h => !mine h, peerH := p.peerH.filter fun h => !mine h }
    if x.hash = y.hash then s.modPair fun p => { p with lastMatch := true } else s.pairMismatch g b
  | _, _ => s

/-- A plan record of group g for the window at boundary b: hashed, kept for two periods, sent (R400 to R402). -/
def State.planRecord (s : State) (g b : Nat) (r : Bytes) : State :=
  let h := shake256 8 (ascii "OCR-PAIR" ++ r)
  let s := s.modPair fun p =>
    { p with own := p.own ++ [⟨g, b % 2 ^ 32, h, s.clk.now⟩],
             kept := (p.kept.filter fun k => k.g != g) ++ (p.kept.filter fun k => k.g = g).reverse.take 1 ++
               [⟨g, b, nget s.mode.groupMode g, s.grp g, s.gce.pairs, r⟩] }
  (s.pairSend 0x03 (le 1 g ++ zeros 3 ++ le 4 b ++ h)).hashCompare g b

end Sys2Proof.Machine
end

