-- ==== Sys2Proof/Machine/Gce.lean ====
section
/-! DEFINITION. The Gate Command Engine on the state: the freeze point (R244 to R253, R273 to R279, R374, R400), group boundaries
(R231, R232, R259), delay lines (R254 to R257). -/

namespace Sys2Proof.Machine

/-! ### The latch -/

/-- Used pairs of group g, ascending (R233, R235). -/
def State.groupPairs (s : State) (g : Nat) : List Nat := (List.range 400).filter fun m => s.pairUsed m && s.pairGroup m = g

/-- Ports of group g that exist. -/
def State.groupPorts (s : State) (g : Nat) : List Nat := (List.range 48).filter fun p => s.hasPort p && s.portGroup p = g

/-- The latch of group g in freeze cycle f for the window at boundary b (R244, R245, R247). -/
def State.latch (s : State) (g f b : Nat) : State :=
  let x := s.grp g
  let keep := bit (s.gceWord f .gceCtrl) 0 && x.frozen != 0
  let plan := (s.nodesAt f).filterMap fun (e : Nat × Int) => if 0x400 ≤ e.1 && e.1 < 0x600 then some (e.1 - 0x400, e.2) else none
  let direct := (List.range 16).foldl (fun (t : Tbl Int) j => iput t j (sx 16 (s.gceWord f .gceDirect j).toNat)) []
  let dyn := (s.groupPairs g).filterMap fun (m : Nat) =>
    if s.gceWord f .gcePairDyn m = 0 then none else some (m, s.gceWord f .gcePairDyn m)
  let new := (s.gce.staged.filter fun e => e.1 < f).getLast?
  let (code, at_) := match new with
    | some e => if x.forceAt < e.1 then (e.2, e.1) else (x.force, x.forceAt)
    | none => (x.force, x.forceAt)
  let s := s.modGrp g fun x =>
    { x with plan := plan, direct := if keep then x.direct else direct, dyn := if keep then x.dyn else dyn, force := code,
             forceAt := at_, frozen := b }
  s.modGce fun k => { k with staged := (match new with
    | some e => [e]
    | none => []) ++ k.staged.filter fun e => f ≤ e.1 }

/-- Active force code of pair m in group g. -/
def Grp.code (x : Grp) (m : Nat) : Nat := fld (tget (fun _ => 0) x.force (m / 16)) (2 * (m % 16) + 1) (2 * (m % 16))

/-- Latched GCE_PAIR_DYN word of pair m. -/
def Grp.dynOf (x : Grp) (m : Nat) : Word := tget (fun _ => 0) x.dyn m

/-! ### One pair -/

/-- Temperature band of local leg n (R270). -/
def State.legBand (s : State) (n : Nat) : Nat :=
  let c := s.rf .legCfg n 11 8
  (s.sensor (if 1 ≤ c && c ≤ 8 then c - 1 else 8)).band

/-- GCE_PRE bit of pair m. -/
def State.preBit (s : State) (m : Nat) : Bool := s.rb .gcePre (m / 32) (m % 32)

/-- LEG_BOOT_EMPTY bit of pair m. -/
def State.emptyBit (s : State) (m : Nat) : Bool := s.rb .legBootEmpty (m / 32) (m % 32)

/-- Pair m is bootstrap-fed (R273). -/
def State.fed (s : State) (m : Nat) : Bool := nbit (s.bootBits m) 3

/-- Bootstrap settings of pair m under mode md with force code `code` (R273 to R279). -/
def State.bootCfg (s : State) (m md code : Nat) : BootCfg :=
  let f := s.bootBits m % 4
  let band := if m < 384 then s.portBand (m / 8) else s.legBand (m - 384)
  let l := s.reg .legBpLevel f
  { rOn := s.rf .legBpRate f 15 0, rChg := s.rf .legBpRate f 31 16, leak := s.rf .legBpLeak f (8 * band + 7) (8 * band),
    noNotch := bit l 31, interval := fld l 23 16, qTh := fld l 15 0, tRef := s.rf .legBpTref f 15 0,
    wRef := s.rf .legBpWidth f 19 0, empty := s.emptyBit m,
    place := (md = 2 || (md = 3 && s.preBit m) || md = 4 || md = 5 || md = 6) && code != 3 && s.rf .gcePair m 23 21 != 0 &&
      s.rf .gcePair m 31 30 = 3 }

/-- What the stages make of one pair. -/
structure PairOut where
  m : Nat
  even : List (Int × Bool × Bool)
  odd : List (Int × Bool × Bool)
  next : PairSt
  empties : Bool
  ce : Option Nat
  co : Option Nat
  deriving DecidableEq, Repr

/-- Stages 1 to 10 for pair m of group g (R230 to R249, R273 to R278) from its state x. -/
def State.pairOut (s : State) (g m : Nat) (x : PairSt) : PairOut :=
  let k := s.grp g
  let w := s.reg .gcePair m
  let md := nget s.mode.groupMode g
  let pl := 32 * s.grpPeriod g
  let cl := s.pairClass m
  let remote := decide (m < 384)
  let typ := fld w 23 21
  let slot := fld w 8 0
  let dyn := k.dynOf m
  let code := k.code m
  let code' := if md = 2 || md = 3 || md = 5 || md = 6 then code else 0
  let val := fun i => if typ = 7 then iget k.direct (slot % 16) else if slot + i < 512 then iget k.plan (slot + i) else 0
  let ref := invertRef pl (bit dyn 0) (forceRef pl code' (sourceRef pl typ val (bit w 20) (fld w 19 18) (fld dyn 31 16)))
  let dt := s.deadTime cl remote
  let minOn := s.minOn cl remote
  let off := !s.grpOn g || md ≤ 1 || md = 4 || md = 7 || (md = 3 && !s.preBit m) || code' = 3 || typ = 0 || (remote && typ = 2)
  let c : GateCfg :=
    { pl := pl, dt := dt, minOn := minOn, stretch := s.rb .gceClass cl 31, swap := bit dyn 1, off := off, usedE := bit w 31,
      usedO := bit w 30, first := x.refAt = 1 }
  let z := gatePair c x ref
  let b := s.bootCfg m md code'
  let (hi, lo, req, emp) := if s.fed m then stage10 b pl dt minOn x z.1.e z.1.o else (z.1.e, z.1.o, false, false)
  { m := m, even := edgesOf pl hi, odd := edgesOf pl lo, empties := emp, ce := z.1.ce, co := z.1.co,
    next := { x with ref := z.2.1, refAt := z.2.2, required := req } }

/-- The pair's state after its window with the edges that were emitted (R239, R279). -/
def State.pairAfter (s : State) (g : Nat) (o : PairOut) (es os : List (Int × Bool)) : PairSt :=
  let pl := 32 * s.grpPeriod g
  let x := o.next
  let h := emittedOn pl x.even.on es
  let l := emittedOn pl x.odd.on os
  let md := nget s.mode.groupMode g
  let y := { x with even := x.even.after pl o.ce es, odd := x.odd.after pl o.co os }
  if s.fed o.m then
    { y with q := bootNext (s.bootCfg o.m md 0) pl x.q h l, noLow := if l = 0 then satAdd 255 x.noLow 1 else 0 } else y

/-- The pair after its window, and what an emptied bootstrap supply raises. -/
def State.settlePair (s : State) (g : Nat) (o : PairOut) (es os : List (Int × Bool)) : State :=
  let s := s.modPst o.m fun _ => s.pairAfter g o es os
  if o.empties then
    let s := (s.setRb .legBootEmpty (o.m / 32) (o.m % 32) true).raise 259 o.m
    s.iff (384 ≤ o.m) (·.healthCount (48 + (o.m - 384)))
  else s

/-! ### Ports and legs at a freeze point -/

/-- Levels that the GCE takes the positions of port p to hold, when they are not those of its own edges (R239, R374). -/
def State.portLevels (s : State) (p : Nat) : Option Nat :=
  let h := (s.health1 p).state
  if h = 2 || h = 3 then some (s.rf .lnkBypassCfg p 15 0)
  else if 4 ≤ h then some (s.rf .lnkSafeMask p 15 0)
  else if (s.port p).st != 3 || s.rb .lnkCtrl p 30 || s.pair.st = 7 then some (s.port p).safe
  else none

/-- The port sends its edges (R199, R374). -/
def State.portSends (s : State) (p : Nat) : Bool := (s.port p).st = 3 && (s.health1 p).state ≤ 1

/-- The pair's state with the levels that are taken for its port. -/
def State.pstTaken (s : State) (p i : Nat) : PairSt :=
  let x := s.pst (8 * p + i)
  match s.portLevels p with
  | some l => x.taken (nbit l (2 * i)) (nbit l (2 * i + 1))
  | none => x

/-- An edge event of R198 for carrying frame c. -/
def PEdge.event (e : PEdge) (first : Nat) : CellEdge :=
  ⟨first + (e.t / 32000).toNat, (e.t % 32000).toNat, e.level, e.q, e.refresh, false⟩

/-- Bits of an edge event carried in frame c. -/
def CellEdge.word (e : CellEdge) (c : Nat) : Nat :=
  b2n e.soft * 2 ^ 24 + b2n e.refresh * 2 ^ 23 + (e.target - c) % 8 * 2 ^ 20 + e.time * 2 ^ 5 + b2n e.level * 2 ^ 4 + e.pos

/-- Instant of an edge event's target on the local count, in ticks. -/
def State.edgeInst (s : State) (e : CellEdge) : Int := ((32000 * e.target + e.time : Nat) - s.pair.o) / 32

/-- Puts packed frames into the framer of port p: the first carrying frame has number `n0` - 1 (R250, R251). -/
def State.loadFrames (s : State) (p n0 : Nat) (f : Frames) : State :=
  (List.range f.length).foldl (fun (s : State) i =>
    let l := (sortBy PEdge.before (nth f i [])).map fun e => e.event n0
    if l.isEmpty then s
    else
      let c := n0 + i - 1
      let s := s.modPort p fun x => { x with edges := tput (fun _ => []) x.edges c l }
      l.foldl (fun (s : State) e =>
        (s.capRaw (0xC0 + p) .offset (s.edgeInst e) (le 4 (e.word c))).seqEdge p (s.edgeInst e) e.pos e.level) s) s

/-- The pairs of port p of group g for the window at boundary b. -/
def State.freezePort (s : State) (g b p : Nat) : State :=
  let ms := (List.range 8).filter fun i => s.pairUsed (8 * p + i)
  let outs := ms.map fun i => (i, s.pairOut g (8 * p + i) (s.pstTaken p i))
  let lift := fun (q : Nat) (l : List (Int × Bool × Bool)) => l.map fun e => (⟨e.1, q, e.2.1, e.2.2⟩ : PEdge)
  let (f, drops) := packPort (s.grpPeriod g / 1000) (outs.flatMap fun o => [lift (2 * o.1) o.2.even, lift (2 * o.1 + 1) o.2.odd])
  let sent := if s.portSends p then sortBy PEdge.before f.flatten else []
  let of := fun (q : Nat) => (sent.filter fun e => e.q = q).map fun e => (e.t, e.level)
  let s := outs.foldl (fun (s : State) o => s.settlePair g o.2 (of (2 * o.1)) (of (2 * o.1 + 1))) s
  let s := s.iff (s.portSends p) (·.loadFrames p (b / 1000) f)
  let s := (s.bump .gcePackDrops 0 31 0 drops).forAll (List.range drops) fun _ s => s.raise 224 p
  s.capMark (0xC0 + p) ((s.unaligned (b + s.grpPeriod g) : Int) - 1)

/-- Leg n will emit its edges in the window that opens at the next boundary, as far as is known: its output enable and retirement as
they take effect there (R259, R371). -/
def State.legEmits (s : State) (n : Nat) : Bool :=
  s.rb .legOutEn 0 n && (match (s.health1 (48 + n)).pendState with
    | some 3 => false
    | some _ => true
    | none => !(s.lg n).retired)

/-- Local pair m of group g for the window at boundary b (R252, R389).  A leg that is held in the present window, or will be in the
next, is taken as off at the boundary (R259); the charge and the levels follow the edges that are emitted (R279), and what they would
be otherwise is kept for a change before the boundary. -/
def State.freezeLeg (s : State) (g b m : Nat) : State :=
  let n := m - 384
  let emits := s.legEmits n
  let held := !(s.lg n).out || (s.lg n).retired || !emits
  let s := s.iff held (·.modPst m fun x => x.taken false false)
  let o := s.pairOut g m (s.pst m)
  let plan := fun (l : List (Int × Bool × Bool)) => l.map fun e =>
    (⟨((32 * b : Nat) - s.pair.o + e.1).toNat, e.2.1, e.2.2⟩ : LEdge)
  let es := o.even.map fun e => (e.1, e.2.1)
  let os := o.odd.map fun e => (e.1, e.2.1)
  let yes := s.pairAfter g o es os
  let no := (s.pairAfter g o [] []).taken false false
  let s := (s.settlePair g o es os).modPst m fun _ => if emits then yes else no
  let s := s.modLg n fun l => { l with planOut := emits, other := some (if emits then no else yes) }
  let add := fun (k : Nat) (l : List LEdge) (t : Tbl (List LEdge)) => tput (fun _ => []) t k (tget (fun _ => []) t k ++ l)
  s.modGce fun c => { c with sched := add (2 * n + 1) (plan o.odd) (add (2 * n) (plan o.even) c.sched) }

/-- The plan record of group g for the window at boundary b, before stage 10 (R400). -/
def State.planBytes (s : State) (g b : Nat) : Bytes :=
  let k := s.grp g
  le 8 b ++ le 1 g ++ le 1 (nget s.mode.groupMode g) ++ zeros 6 ++ (s.groupPairs g).flatMap fun m =>
    let w := s.reg .gcePair m
    let reads := match fld w 23 21 with
      | 1 => [true, false, false]
      | 2 => [true, true, true]
      | 4 => [false, true, false]
      | 5 | 6 => [true, false, false]
      | _ => [false, false, false]
    let slot := fun (i : Nat) => if nth reads i false && fld w 8 0 + i < 512 then cx 16 (iget k.plan (fld w 8 0 + i)) else 0
    le 2 (slot 0) ++ le 2 (slot 1) ++ le 2 (slot 2) ++ le 2 (k.code m) ++ le 4 (k.dynOf m).toNat ++ le 2 (s.pst m).q ++ zeros 2

/-- The pairs of group g start their first window (R239): marked by a transition instant no window leaves. -/
def State.firstWindow (s : State) (g : Nat) : State :=
  s.forAll (s.groupPairs g) fun m s => s.modPst m fun _ => { PairSt.reset with refAt := 1 }

/-- The freeze point of group g for the window at boundary b, in core cycle f. -/
def State.freeze (s : State) (g b f : Nat) : State :=
  let s := s.forAll ((s.tasksOf g).filter fun k => (s.task k).st != 0) fun k s => s.abandon k
  let s := s.iff ((s.grp g).frozen = 0) (·.firstWindow g)
  let s := s.latch g f b
  let s := s.iff (s.paired && !(s.groupPairs g).isEmpty) (·.planRecord g b (s.planBytes g b))
  let s := s.forAll ((s.groupPairs g).filter fun m => 384 ≤ m) fun m s => s.freezeLeg g b m
  (s.forAll (s.groupPorts g) fun p s => s.freezePort g b p).seqGoAll

/-- FREEZE_POINT (R244): due at B(k+1) less the freeze lead, while the group runs. -/
def execFreezePoint (t : Nat) (g : Nat) (s : State) : Host.Outcome State Fault Refusal :=
  actIn 1 t s fun s =>
    let b := s.nowA + s.freezeLead g
    let p := s.grpPeriod g
    if s.up && s.grpLive g && p ≤ b && s.isBoundary g b && s.runsAt g b && s.runsAt g (b - p) && (s.grp g).frozen < b then
      s.freeze g b (coreCycle s.clk.now)
    else s

/-! ### Delay lines -/

/-- C_0 to C_48: the sums of the first t accumulators. -/
def DelayLine.sums (x : DelayLine) : List Nat := 0 :: go 0 x.acc
where
  /-- The running sums after `c`. -/
  go : Nat → List Nat → List Nat
    | _, [] => []
    | c, a :: r => (c + a) :: go (c + a) r

/-- |32 × C_t - f × S| (R255). -/
def dlErr (total f c : Nat) : Nat := ((32 * c : Nat) - (f * total : Nat) : Int).natAbs

/-- The tap of the smallest error for step f, the lowest on a tie. -/
def dlTap (total f : Nat) : Nat → Nat × Nat → List Nat → Nat
  | _, best, [] => best.1
  | t, best, c :: r => dlTap total f (t + 1) (if dlErr total f c < best.2 then (t, dlErr total f c) else best) r

/-- The table of R255, valid or not. -/
def DelayLine.build (x : DelayLine) : List Nat :=
  let c := x.sums
  let total := nth c 48 0
  (List.range 32).map fun f => dlTap total f 0 (0, dlErr total f 0) (c.take 48)

/-- The table is valid under margin M. -/
def DelayLine.ok (x : DelayLine) (tab : List Nat) (margin : Nat) : Bool :=
  let c := x.sums
  let total := nth c 48 0
  4096 ≤ total && (List.range 31).all (fun f => nth tab f 0 < nth tab (f + 1) 0) &&
  (List.range 32).all fun f => dlErr total f (nth c (nth tab f 0) 0) * 1000 ≤ margin * 32 * total

/-- Margin in force (R255). -/
def State.dlMargin (s : State) : Nat :=
  let b := (s.sensor 8).band
  s.rf .gceDlMargin 0 (8 * b + 7) (8 * b)

/-- An update instant of output n with the hits of each bin since the last one (R254 to R256).  An output that has never had a valid
table has its bit of GCE_DL_COARSE from its first failed build (DEDUCED, log entry 121). -/
def State.lineUpdate (s : State) (n : Nat) (hits : List Nat) : State :=
  let s := s.modLine n fun x =>
    { x with acc := (List.range 48).map fun i => let a := nth x.acc i 0
                                                min 65535 (a - a / 16 + nth hits i 0),
             tab := x.next, last := s.clk.now + 1 }
  let x := s.line n
  let tab := x.build
  if x.ok tab s.dlMargin then (s.modLine n fun x => { x with next := tab, fails := 0 }).setRb .gceDlCoarse 0 n false
  else
    let s := (s.modLine n fun x => { x with fails := satAdd 64 x.fails 1 }).setRb .gceDlFail 0 n true
    (s.iff ((s.line n).fails = 64 || ((s.line n).tab = [] && (s.line n).next = [])) (·.setRb .gceDlCoarse 0 n true)).raise 225 n

/-- DELAY_LINE_UPDATE (R254): at a local count that is a multiple of 2,000, of an output whose group does not run. -/
def execDelayLineUpdate (t : Nat) (n : Nat) (hits : List Nat) (s : State) : Host.Outcome State Fault Refusal :=
  actIn 1 t s fun s =>
    if s.released && n < 32 && s.clk.now % 2000 = 0 && (s.line n).last != s.clk.now + 1 && !(s.grp (s.legGroup (n / 2))).running then
      s.lineUpdate n hits
    else s

/-- CALIBRATE_DELAY_LINE (R257). -/
def execCalibrateDelayLine (t : Nat) (s : State) : Host.Outcome State Fault Refusal :=
  actIn 1 t s fun s => s.onFired 0x07 (some 0x07) fun x s =>
    s.forAll (if x.e.index = 0xFFFF then List.range 32 else [x.e.index]) fun n s =>
      s.modLine n fun l => { l with acc := List.replicate 48 0 }

/-! ### Boundaries -/

/-- The output enable of leg n takes effect (R259). -/
def State.legOut (s : State) (n : Nat) (v : Bool) : State :=
  let s := s.modLg n fun l => { l with out := v }
  s.iff (!v) fun s => s.forAll [2 * n, 2 * n + 1] fun k s =>
    s.modSw k fun w => if w.on then { w with on := false, offAt := 32 * s.clk.now } else w

/-- The pair of leg n stands as the freeze point left it, unless what it counted on has changed since. -/
def State.legPair (s : State) (n : Nat) : State :=
  let l := s.lg n
  let s := match l.other with
    | some y => s.iff ((l.out && !l.retired) != l.planOut) (·.modPst (384 + n) fun _ => y)
    | none => s
  s.modLg n fun l => { l with other := none }

/-- What waits for a boundary of leg n's group: output enable, retirement, return (R259, R371). -/
def State.legBoundary (s : State) (n : Nat) : State :=
  let s := s.iff ((s.lg n).out != s.rb .legOutEn 0 n) (·.legOut n (s.rb .legOutEn 0 n))
  (match (s.health1 (48 + n)).pendState with
    | some 3 => s.legHeld n
    | some _ => s.legBack n
    | none => s).legPair n

/-- Group g stops (R232). -/
def State.groupStop (s : State) (g : Nat) : State :=
  let s := s.modGrp g fun x => { x with started := false, running := false, stopAfter := none }
  let s := s.forAll (s.groupPairs g) fun m s => s.modPst m PairSt.halt
  s.iff (s.taskGroup s.pmuTask = g) (·.modPmu fun p => { p with live := false })

/-- The enable of group g was cleared while it ran: its next window is formed with both positions of every pair off (R233), and at that
window's end the group stops; before its first window it stops at once (R231; DESIGN CHOICE, log entry 122). -/
def State.groupOff (s : State) (g : Nat) : State :=
  let x := s.grp g
  if !x.started then s
  else if x.frozen = 0 then s.groupStop g
  else s.modGrp g fun x => { x with stopAfter := some (match x.stopAfter with
    | some k => min k (x.frozen + s.grpPeriod g)
    | none => x.frozen + s.grpPeriod g) }

/-- Local legs of group g. -/
def State.groupLegs (s : State) (g : Nat) : List Nat := (List.range 16).filter fun n => s.legGroup n = g

/-- GROUP_BOUNDARY (R231, R232): `hits` gives the delay-line hits of the group's outputs in ascending order. -/
def execGroupBoundary (t : Nat) (g : Nat) (hits : List (List Nat)) (s : State) : Host.Outcome State Fault Refusal :=
  actIn 1 t s fun s =>
    let b := s.nowA
    let x := s.grp g
    if !(s.up && s.grpLive g && x.started && s.isBoundary g b && x.b0 ≤ b && (!x.running || x.bk < b)) then s
    else
      let s := s.modGrp g fun x => { x with running := true, bk := b }
      let s := s.forAll (s.groupLegs g) fun n s => s.legBoundary n
      let outs := (s.groupLegs g).flatMap fun n => [2 * n, 2 * n + 1]
      let s := (List.range outs.length).foldl (fun (s : State) i => s.lineUpdate (nth outs i 0) (nth hits i [])) s
      s.iff (!s.runsAt g b) (·.groupStop g)

end Sys2Proof.Machine
end

