-- ==== Sys2Proof/Machine/Joining.lean ====
section
/-! DEFINITION. What a joining unit makes of a snapshot (R395): it installs it, and computes the periods that lie between the input
close of the snapshot and now from the BANK records of them, with the freeze points among them (DESIGN CHOICE, log entry 123). -/

namespace Sys2Proof.Machine

/-- What lies between a snapshot and its installation: a period with its BANK record, a freeze point of a group for a boundary. -/
inductive Missed where
  | period (r : Bytes)
  | freeze (g b : Nat)
  deriving DecidableEq, Repr

/-- The boundary B(k) that a BANK record names by its 32 low bits (R396): the last one before now. -/
def State.recordAt (s : State) (r : Bytes) : Nat := s.nowA - (s.nowA + 2 ^ 32 - lef r 8 4) % 2 ^ 32

/-- The aligned count of the input close of a BANK record's period. -/
def State.recordClose (s : State) (r : Bytes) : Nat := s.recordAt r + s.inputLead (lef r 0 1)

/-- The aligned count at which something missed took place. -/
def State.missedAt (s : State) : Missed → Nat
  | .period r => s.recordClose r
  | .freeze g b => b - s.freezeLead g

/-- Freeze points of group g up to now that the state has not passed. -/
def State.missedFreezes (s : State) (g : Nat) : List Missed :=
  let x := s.grp g
  let p := s.grpPeriod g
  let first := if x.frozen = 0 then x.b0 else x.frozen + p
  if p = 0 || !s.grpLive g then []
  else (List.range ((s.nowA + s.freezeLead g + p - first) / p)).filterMap fun i =>
    let b := first + i * p
    if p ≤ b && s.runsAt g b && s.runsAt g (b - p) then some (.freeze g b) else none

/-- A whole period of task t, its bank sealed: its steps, the hand-over, the commit. -/
def State.runPeriod (s : State) (p : Prog) (t : Nat) : State :=
  let s := s.modTask t fun x => { x with startAt := s.clk.now }
  let s := (p.steps t).foldl (fun (s : State) l => s.runStep p t l) s
  ((s.handOver p t).trace t).commit t

/-- The period of a BANK record: it waits for its start, or is computed at once where that has passed. -/
def State.missedPeriod (s : State) (r : Bytes) : State :=
  let t := lef r 0 1
  match s.mill.prog with
  | none => s
  | some p =>
    if !s.taskOn t then s
    else
      let c := s.unaligned (s.recordClose r)
      let ready := p.steps t != []
      let s := (s.modPair fun q => { q with banks := tput (fun _ => []) q.banks t r }).setReg .milTaskPeriods t (word (lef r 4 4))
      let s := s.modTask t fun x =>
        { x with st := if ready then 1 else 0, step := 0, bk := s.recordAt r, closeAt := c, since := x.prevClose, prevClose := c,
                 nodes := [], trans := [], blocks := [], taps := [], satRose := false, anyOpen := false, sealed := false }
      if s.clk.now < c + 2 * s.pairForward t then s
      else
        let (ok, s) := s.sealFromPeer t
        if ok && ready then s.runPeriod p t else s.modTask t fun x => { x with st := 0 }

/-- Makes up for what was missed, in the order in which it took place. -/
def State.makeUp (s : State) (l : List Missed) : State :=
  (sortBy (fun a b => s.missedAt a < s.missedAt b) l).foldl (fun (s : State) e => match e with
    | .period r => s.missedPeriod r
    | .freeze g b => s.freeze g b (coreCycle (s.unaligned (b - s.freezeLead g)))) s

/-- A whole snapshot is installed, what followed it is made up for, and the unit is in Paired (R395). -/
def State.install (s : State) (nums : List Nat) : State :=
  let c := nth (nth (splitNums 1 nums) 0 []) 2 0
  let s := s.takeSnapshot nums
  let rs := (s.pair.backlog.filter fun r => c ≤ s.recordClose r).map Missed.period
  let s := s.makeUp (rs ++ (List.range 8).flatMap s.missedFreezes)
  s.modPair fun p => { p with st := 3, segs := [], segNext := 0, backlog := [], joinCode := 0, lastMatch := true }

/-! ### Recomputation (R402) -/

/-- The plan slots that the kept period of a task writes when it is computed again. -/
def State.againSlots (s : State) (k : KeptTask) : List (Nat × Int) :=
  match k.mill.prog with
  | none => []
  | some p =>
    let z := ({ s with mill := k.mill, mode := k.mode }).setReg .milTaskPeriods k.t k.periods
    let z := ((p.steps k.t).foldl (fun (z : State) l => z.runStep p k.t l) z).handOver p k.t
    (z.task k.t).nodes.filterMap fun e => if 0x400 ≤ e.1 && e.1 < 0x600 then some (e.1 - 0x400, e.2) else none

/-- The unit reproduces its own plan record of group g for the window at boundary b (R402): the period's tasks are computed again from
their kept banks and copies, the record is rebuilt from them and the kept copies of the GCE, and hashed. -/
def State.reproduces (s : State) (g b : Nat) : Bool :=
  match s.pair.kept.find? fun k => k.g = g && k.b % 2 ^ 32 = b % 2 ^ 32 with
  | none => false
  | some k =>
    let ts := s.pair.keptT.filter fun x => s.taskGroup x.t = g && x.bk + s.grpPeriod g = k.b
    let plan := (ts.flatMap s.againSlots).foldl (fun t e => iput t e.1 e.2) k.grp.plan
    let z := (s.modGrp g fun _ => { k.grp with plan := plan }).modMode fun m => { m with groupMode := nput m.groupMode g k.mode }
    let r := (z.modGce fun c => { c with pairs := k.pairs }).planBytes g k.b
    shake256 8 (ascii "OCR-PAIR" ++ r) = shake256 8 (ascii "OCR-PAIR" ++ k.record)

end Sys2Proof.Machine
end

