-- ==== Sys2Proof/Machine/Legs.lean ====
section
/-! DEFINITION. Local legs (R252, R259 to R268): edges at the pins, interlock, ready, blanking, desaturation, soft-off. -/

namespace Sys2Proof.Machine

/-- The unit drives its LEG pins (R384). -/
def State.drives (s : State) : Bool := !s.hasPeer || s.pair.active

/-- Level of the pin of local switch n (R259, R384). -/
def State.pinHigh (s : State) (n : Nat) : Bool := (s.sw n).on && (s.lg (n / 2)).out && s.drives

/-- Instant at which an edge of output n leaves, in 1/32 ns: at a whole tick while the output has no valid table or is coarse
(R252, R256). -/
def State.edgeAt (s : State) (n : Nat) (e : LEdge) : Nat :=
  if s.rb .gceDlCoarse 0 n || (s.line n).tab = [] then (e.at32 + 16) / 32 * 32 else e.at32

/-- An edge at a LEG pin goes to capture (R411). -/
def State.pinItem (s : State) (n at_ : Nat) (v : Bool) : State :=
  s.iff ((s.lg (n / 2)).out && s.drives)
    (·.capRaw 0xF0 .offset ((at_ / 32 : Nat) : Int) (le 4 (at_ % 32 * 64 + b2n v * 32 + n)))

/-- A refused on-edge (R261). -/
def State.refuseOn (s : State) (n : Nat) : State :=
  ((s.modSw n fun w => { w with ilock := true }).raise 257 (768 + n)).healthCount (48 + n / 2)

/-- The interlock holds an on-edge of switch n at an instant (R261). -/
def State.interlocked (s : State) (n at_ : Nat) : Bool :=
  let w := s.sw (if n % 2 = 0 then n + 1 else n - 1)
  w.on || at_ < w.offAt + 64 && w.offAt != 0 || (match w.hold with
    | some e => at_ < 32 * e + 64
    | none => false)

/-- Switch n is held off without the interlock: output disabled, leg retired, not ready, fault latch, its own hold (R259, R264,
R267, R370). -/
def State.heldOff (s : State) (n at_ : Nat) : Bool :=
  let l := s.lg (n / 2)
  let w := s.sw n
  !l.out || l.retired || !l.ready || (l.lastLow != 0 && at_ < 32 * (l.lastLow + 1000)) || w.latch || (match w.hold with
    | some e => at_ < 32 * e
    | none => false)

/-- A scheduled edge of switch n at an instant; `clash`: the partner has an on-edge at the same instant (R261 to R267). -/
def State.applyEdge (s : State) (n at_ : Nat) (e : LEdge) (clash : Bool) : State :=
  let w := s.sw n
  let partner := s.sw (if n % 2 = 0 then n + 1 else n - 1)
  if !e.level then
    let clears := w.latch && !e.refresh && w.desatAt != some (at_ / 32)
    let s := s.iff clears (·.modSw n fun w => { w with latch := false })
    if w.on then (s.modSw n fun w => { w with on := false, offAt := at_ }).pinItem n at_ false else s
  else if w.on then s
  else if clash && !partner.on then s.refuseOn n
  else if s.heldOff n at_ then s
  else if s.interlocked n at_ then s.refuseOn n
  else
    let b := s.blanking (s.pairClass (384 + n / 2)) (s.legBand (n / 2))
    let s := s.modSw n fun w =>
      { w with on := true, onAt := at_, ilock := false, blank := at_ / 32 + 8 * b, blanked := true, desatAt := none }
    s.pinItem n at_ true

/-- Scheduled edges of switch n. -/
def State.schedOf (s : State) (n : Nat) : List LEdge := tget (fun _ => []) s.gce.sched n

/-- LOCAL_EDGE (R252, R261): the next edge of switch n leaves, after every edge of the leg that lies before it. -/
def execLocalEdge (t : Nat) (n : Nat) (s : State) : Host.Outcome State Fault Refusal :=
  act t s fun s =>
    match s.schedOf n with
    | [] => s
    | h :: _ =>
      let lim := s.edgeAt n h
      if !(s.up && n < 32 && lim / 32 ≤ s.clk.now) then s
      else
        let a := n / 2 * 2
        let of := fun (k : Nat) => (s.schedOf k).map fun e => (s.edgeAt k e, k, e)
        let l := sortBy (fun (x y : Nat × Nat × LEdge) => x.1 < y.1) ((of a ++ of (a + 1)).filter fun x => x.1 ≤ lim)
        let drop := fun (k : Nat) (t : Tbl (List LEdge)) => tput (fun _ => []) t k ((s.schedOf k).filter fun e => lim < s.edgeAt k e)
        let s := s.modGce fun c => { c with sched := drop (a + 1) (drop a c.sched) }
        l.foldl (fun (s : State) x =>
          s.applyEdge x.2.1 x.1 x.2.2 (l.any fun y => y.1 = x.1 && y.2.1 != x.2.1 && y.2.2.level)) s

/-- A write to LEG_OUT_EN (R259): a changed bit waits for a boundary of the leg's group while it runs. -/
def State.writeOutEn (s : State) (v : Word) : State :=
  let s := s.setReg .legOutEn 0 (word (fld v 15 0))
  s.forAll (List.range 16) fun n s =>
    if (s.grp (s.legGroup n)).running || (s.lg n).out = bit v n then s else s.legOut n (bit v n)

/-- LEG_OUT_EN_WRITE (R259). -/
def execLegOutEnWrite (t : Nat) (v : Word) (s : State) : Host.Outcome State Fault Refusal :=
  act t s fun s => s.iff s.up (·.writeOutEn v)

/-- What a sample of LEG_RDY[n] reads, by the level of the pin (R260). -/
def State.rdySample (s : State) (n : Nat) (pin : Bool) : Bool := pin != s.rb .legCfg n 1

/-- What a sample of a LEG_DS input of leg n reads, by the level of the pin (R260). -/
def State.dsSample (s : State) (n : Nat) (pin : Bool) : Bool := pin != s.rb .legCfg n 0

/-- LEG_RDY_LOSS (R260, R264): a sample of LEG_RDY[p.n] reads 0; both switches go off on the path "local ready loss to
outputs off". -/
def execLegRdyLoss (t : Nat) (p : PinIn) (s : State) : Host.Outcome State Fault Refusal :=
  act t s fun s =>
    if !(s.released && p.n < 16) || s.rdySample p.n p.high then s
    else
      let was := (s.lg p.n).ready
      let s := s.modLg p.n fun l => { l with ready := false, seen := true }
      let off := 32 * (s.clk.now + (Config.readyToOff - 2))
      let s := s.forAll [2 * p.n, 2 * p.n + 1] fun k s => s.modSw k fun w => if w.on then { w with on := false, offAt := off } else w
      if was then (s.raise 258 p.n).healthCount (48 + p.n) else s

/-- LEG_RDY_RETURN (R260, R264): a sample reads 1; the last one that read 0 is the one before, if any did. -/
def execLegRdyReturn (t : Nat) (p : PinIn) (s : State) : Host.Outcome State Fault Refusal :=
  act t s fun s =>
    if !(s.released && p.n < 16) || !s.rdySample p.n p.high || (s.lg p.n).ready then s
    else s.modLg p.n fun l => { l with ready := true, lastLow := if l.seen then s.clk.now - 1 else 0 }

/-- BLANKING_END (R265). -/
def execBlankingEnd (t : Nat) (n : Nat) (s : State) : Host.Outcome State Fault Refusal :=
  act t s fun s => if n < 32 && (s.sw n).blank ≤ s.clk.now then s.modSw n fun w => { w with blanked := false } else s

/-- DESATURATION (R260, R266): the last of F consecutive samples that read 1, of a switch that is on and out of
blanking. -/
def execDesaturation (t : Nat) (p : PinIn) (s : State) : Host.Outcome State Fault Refusal :=
  act t s fun s =>
    let w := s.sw p.n
    let f := max 1 (s.rf .legCfg (p.n / 2) 7 3)
    if !(p.n < 32 && s.dsSample (p.n / 2) p.high && w.on && (!w.blanked || w.blank ≤ s.clk.now) && w.blank + f ≤ s.clk.now + 1) then s
    else
      let now := s.clk.now
      let s := (s.softOff p.n (now + Config.desatToSoftOff)).modSw p.n fun w => { w with latch := true, desatAt := some now }
      (s.raise 256 (768 + p.n)).healthCount (48 + p.n / 2)

/-- SOFT_OFF_HOLD_END (R268): the pin is driven low. -/
def execSoftOffHoldEnd (t : Nat) (n : Nat) (s : State) : Host.Outcome State Fault Refusal :=
  act t s fun s =>
    match (s.sw n).hold with
    | some e => if e ≤ s.clk.now then s.modSw n fun w => { w with hold := none, offAt := max w.offAt (32 * e) } else s
    | none => s

/-- A write to LEG_BOOT_EMPTY[w] (R278): a bit clears while its pair is charged. -/
def State.writeBootEmpty (s : State) (w : Nat) (v : Word) : State :=
  s.forAll (bitsOf 32 v.toNat) fun i s =>
    let m := 32 * w + i
    s.iff (m < 400 && s.rf .legBpLevel (s.bootBits m % 4) 15 0 ≤ (s.pst m).q) (·.setRb .legBootEmpty w i false)

/-- LEG_BOOT_EMPTY_CLEAR (R278). -/
def execLegBootEmptyClear (t : Nat) (w : Nat) (v : Word) (s : State) : Host.Outcome State Fault Refusal :=
  act t s fun s => s.iff (s.up && w < 13) (·.writeBootEmpty w v)

end Sys2Proof.Machine
end

