-- ==== Sys2Proof/Machine/Health.lean ====
section
/-! DEFINITION. Health channels (R369) and the returns and requests of retirement (R373 to R382). -/

namespace Sys2Proof.Machine

/-- Close of the upstream slot of the frame on port p whose boundary is at aligned count b, as a local count in 1/32 ns (R209). -/
def State.slotClose (s : State) (p b : Nat) : Int := 32 * (b : Int) - s.pair.o + 2048 + (s.port p).dUp + 35200

/-! ### Returning -/

/-- A return of channel h is refused (R377). -/
def State.returnRefused (s : State) (h : Nat) : Bool :=
  let lim := s.rf .lnkHlthCfg (kindOf h) 15 8
  (s.health1 h).perm || (lim != 0 && lim ≤ (s.health1 h).count) || (h < 48 && (s.port h).st != 3)

/-- A return starts (R371, R375, R379). -/
def State.startReturn (s : State) (h : Nat) : State :=
  let s := s.modHealth1 h fun x => { x with held := false }
  if h < 48 then
    if s.mode.mode ≤ 1 then s.modHealth1 h fun x => { x with state := 0 }
    else (s.modHealth1 h fun x => { x with state := 4 }).modPort h fun p =>
      { p with retFrom := s.clk.now, retRun := 0, relFrom := none, byNext := false }
  else if h < 64 then
    if (s.grp (s.legGroup (h - 48))).running then s.modHealth1 h fun x => { x with pendState := some 0 } else s.legBack (h - 48)
  else s.modHealth1 h fun x => { x with state := 0 }

/-- A return of a retired channel: its status and the state after (R375, R377). -/
def State.tryReturn (s : State) (h : Nat) : Nat × State :=
  if s.returnRefused h then (3, (s.modHealth1 h fun x => { x with held := false }).raise 196 h) else (0, s.startReturn h)

/-- The held return of port p is carried out once the bypass is confirmed or has failed (R378). -/
def State.heldReturn (s : State) (p : Nat) : State := if (s.health1 p).held then (s.tryReturn p).2 else s

/-! ### Requests (R378, R381) -/

/-- A return request: its status and the state after. -/
def State.returnRequest (s : State) (h : Nat) : Nat × State :=
  let x := s.health1 h
  if x.retireAt = coreCycle s.clk.now + 1 then (3, s.raise 196 h)
  else match x.state with
  | 1 => if x.cause = 4 || x.cause = 5 then (2, s.modHealth1 h fun x => { x with state := 0 }) else (3, s.raise 196 h)
  | 2 => (4, s.modHealth1 h fun x => { x with held := true })
  | 3 | 5 => s.tryReturn h
  | _ => (0, s)

/-- HEALTH_LEAK (R369): at a whole multiple of window × 1,000,000, once. -/
def execHealthLeak (t : Nat) (kind : Nat) (s : State) : Host.Outcome State Fault Refusal :=
  act t s fun s =>
    let w := max 1 (s.rf .lnkHlthCfg kind 31 16)
    let leak := s.rf .lnkHlthCfg kind 7 0
    if !(s.released && kind < 6 && s.clk.now % (w * 1000000) = 0) then s
    else s.forAll ((List.range 106).filter fun h => kindOf h = kind && s.hasChannel h) fun h s =>
      if (s.health1 h).leakAt = s.clk.now + 1 then s
      else s.modHealth1 h fun x => { x with count := x.count - leak, leakAt := s.clk.now + 1 }

/-- BYPASS_DEADLINE (R373): the slot of the frame at B(k′+1) + 8,000 ns has closed without a confirmation. -/
def execBypassDeadline (t : Nat) (p : Nat) (s : State) : Host.Outcome State Fault Refusal :=
  act t s fun s =>
    let b := (s.port p).byFrom
    if s.up && s.hasPort p && (s.health1 p).state = 2 && b != 0 && s.slotClose p (b + 8000) ≤ 32 * (s.clk.now : Int) then
      ((s.modHealth1 p fun x => { x with state := 5 }).raise 193 p).heldReturn p
    else s

/-- RETURN_TIMEOUT (R376): 64 frames after the port entered Returning. -/
def execReturnTimeout (t : Nat) (p : Nat) (s : State) : Host.Outcome State Fault Refusal :=
  act t s fun s =>
    s.iff (s.up && s.hasPort p && (s.health1 p).state = 4 && (s.port p).retFrom + 64000 ≤ s.clk.now) (·.returnFail p)

/-- RETIRE (R378, R381). -/
def execRetire (t : Nat) (s : State) : Host.Outcome State Fault Refusal :=
  act t s fun s => s.iff s.up (·.onTurn 0 0x30 fun i k d s =>
    if s.standby then (s.holdAct i k).forward 4 (65536 * (i + 1) + k) [d.arg]
    else
      let s := s.retireChannel d.arg 4
      s.ends i k 0 (s.health1 d.arg).state)

/-- RETURN (R378, R381). -/
def execReturnCh (t : Nat) (s : State) : Host.Outcome State Fault Refusal :=
  act t s fun s => s.iff s.up (·.onTurn 0 0x31 fun i k d s =>
    if s.standby then (s.holdAct i k).forward 5 (65536 * (i + 1) + k) [d.arg]
    else
      let (st, s) := s.returnRequest d.arg
      s.ends i k st (s.health1 d.arg).state)

/-- CELL_RETIRE (R381). -/
def execCellRetire (t : Nat) (s : State) : Host.Outcome State Fault Refusal :=
  act t s fun s => s.onFired 0x08 none fun x s =>
    if s.standby then s.forward 9 0 [x.e.index] else s.iff (x.e.index < 48) (·.retireChannel x.e.index 5)

/-- CELL_RETURN (R381). -/
def execCellReturn (t : Nat) (s : State) : Host.Outcome State Fault Refusal :=
  act t s fun s => s.onFired 0x09 none fun x s =>
    if s.standby then s.forward 10 0 [x.e.index] else s.iff (x.e.index < 48) fun s => (s.returnRequest x.e.index).2

/-- A write to LNK_HLTH[h] (R382). -/
def State.writeHlth (s : State) (h : Nat) (v : Word) : State :=
  s.iff (s.hasChannel h) (·.modHealth1 h fun x =>
    { x with count := if bit v 31 then 0 else x.count, perm := x.perm && !bit v 30 })

/-- LNK_HLTH_CLEAR (R382). -/
def execLnkHlthClear (t : Nat) (h : Nat) (v : Word) (s : State) : Host.Outcome State Fault Refusal :=
  act t s fun s => s.iff s.up (·.writeHlth h v)

end Sys2Proof.Machine
end

