-- ==== Sys2Proof/Machine/LineCode.lean ====
section
/-! DEFINITION. The 8b/10b code of the lanes (R195): its tables are those of IEEE 802.3 Clause 36 (PRESUMED, log entry 131).  A code
group is ten bits in the order a to j, the first one on the line the most significant. -/

namespace Sys2Proof.Machine

/-- The six-bit blocks abcdei of D.0 to D.31 at negative running disparity. -/
def code6 : List Nat :=
  [0b100111, 0b011101, 0b101101, 0b110001, 0b110101, 0b101001, 0b011001, 0b111000, 0b111001, 0b100101, 0b010101, 0b110100, 0b001101,
   0b101100, 0b011100, 0b010111, 0b011011, 0b100011, 0b010011, 0b110010, 0b001011, 0b101010, 0b011010, 0b111010, 0b110011, 0b100110,
   0b010110, 0b110110, 0b001110, 0b101110, 0b011110, 0b101011]

/-- The four-bit blocks fghj of D.x.0 to D.x.6 and of the primary D.x.7 at negative running disparity. -/
def code4 : List Nat := [0b1011, 0b1001, 0b0101, 0b1100, 0b1101, 0b1010, 0b0110, 0b1110]

/-- Ones among the n low bits. -/
def onesOf (n v : Nat) : Nat := ((List.range n).filter fun i => nbit v i).length

/-- A block of n bits of the table at a running disparity, and the disparity behind it; `turns`: a balanced block that is still
complemented. -/
def codeBlock (n v : Nat) (turns rd : Bool) : Nat × Bool :=
  let level := 2 * onesOf n v = n
  (if rd && (!level || turns) then 2 ^ n - 1 - v else v, if level then rd else !rd)

/-- The code group of a data octet at a running disparity, and the disparity behind it. -/
def codeData (b : Nat) (rd : Bool) : Nat × Bool :=
  let x := b % 32
  let y := b / 32
  let a := codeBlock 6 (nth code6 x 0) (x = 7) rd
  let alt := y = 7 && (if a.2 then x = 11 || x = 13 || x = 14 else x = 17 || x = 18 || x = 20)
  let c := codeBlock 4 (if alt then 0b0111 else nth code4 y 0) (y = 3) a.2
  (a.1 * 16 + c.1, c.2)

/-- K28.5, the only control character (R195). -/
def codeComma (rd : Bool) : Nat × Bool := (if rd then 0b1100000101 else 0b0011111010, !rd)

/-- The octets of a frame behind its comma. -/
def codeOctets : Bool → List Nat → List Nat × Bool
  | rd, [] => ([], rd)
  | rd, b :: r =>
    let x := codeData b rd
    let z := codeOctets x.2 r
    (x.1 :: z.1, z.2)

/-- A frame whose octet 0 is K28.5. -/
def codeFrame (rd : Bool) (b : List Nat) : List Nat × Bool :=
  let k := codeComma rd
  let z := codeOctets k.2 (b.drop 1)
  (k.1 :: z.1, z.2)

end Sys2Proof.Machine
end

