-- ==== Sys2Proof/Machine/Safety.lean ====
section
/-! DEFINITION. The safety functions (R445 to R470): filters, pairs, permit and restart, outputs, PDUs, confirmation. -/

namespace Sys2Proof.Machine

/-! ### Register pairs and settings -/

/-- A 64-bit value of a _LO and a _HI register. -/
def State.reg64 (s : State) (lo hi : Reg) (i : Nat := 0) : Nat := (s.reg lo i).toNat + 2 ^ 32 * (s.reg hi i).toNat

/-- Ports in SAF_PORTS that exist. -/
def State.safPorts (s : State) : List Nat := (List.range 48).filter fun p => s.hasPort p && nbit (s.reg64 .safPortsLo .safPortsHi) p

/-- Identity of a cell connection: the permissive of port p (dir 0) or its status (dir 1) (R464, R465). -/
def State.cellId (s : State) (p dir : Nat) : Nat := (s.reg64 .safCellBaseLo .safCellBaseHi + 2 * p + dir) % 2 ^ 64

/-- Consumer settings: identity, kind, data bytes, watchdog in 0.1 ms. -/
def State.consCfg (s : State) (k : Nat) : Nat × Nat × Nat × Nat :=
  if k < 8 then (s.reg64 .safConsIdLo .safConsIdHi k, 0x53, s.rf .safConsCfg k 21 16, s.rf .safConsCfg k 15 0)
  else (s.cellId (k - 8) 1, 0x52, 2, s.rf .safCellWd 0 15 0)

/-- Check value of a PDU (R462). -/
def pduCheck (id : Nat) (b : Bytes) : Nat := crc32c (le 8 id ++ b)

/-- A PDU (R461). -/
def pduBytes (id kind seq wd status : Nat) (data : Bytes) : Bytes :=
  let b := data ++ le 1 status ++ le 1 kind ++ le 2 seq ++ le 2 wd
  b ++ le 4 (pduCheck id b)

/-! ### Consumers (R462, R465) -/

/-- The consumer holds. -/
def Cons.holds (x : Cons) : Bool := 2 ≤ x.r

/-- A consumer lost its hold: station, or cell status (R462, R465). -/
def State.consLost (s : State) (k : Nat) : State := if k < 8 then s.raise 450 k else s.raise 451 (k - 8)

/-- A PDU at consumer k: the status of R468 and the state after it. -/
def State.consume (s : State) (k : Nat) (b : Bytes) : Nat × State :=
  let (id, kind, n, wd) := s.consCfg k
  let bad := fun (c : Nat) => (c, s.bump .safConsStatus 0 15 0)
  let x := s.cons k
  let seq := lef b (n + 2) 2
  if b.length != n + 10 then bad 5
  else if lef b (n + 6) 4 != pduCheck id (b.take (n + 6)) || lef b (n + 1) 1 != kind || lef b (n + 4) 2 != wd then bad 3
  else
    let d := match x.last with
      | some l => (seq + 65536 - l) % 65536
      | none => 1
    if d = 0 then (2, s)
    else if 15 < d then bad 4
    else
      let f := nbit (lef b n 1) 0
      let s := s.modCons k fun x => { x with last := some seq, r := if f then 0 else min 2 (x.r + 1), newAt := s.clk.now, data := b.take n }
      (0, s.iff (f && x.holds) (·.consLost k))

/-- The watchdog of consumer k expires at a cycle boundary (R462). -/
def State.consExpire (s : State) (k : Nat) : State :=
  let x := s.cons k
  if x.last.isSome && x.newAt + (s.consCfg k).2.2.2 * 100000 ≤ s.clk.now then
    (s.modCons k fun x => { x with last := none, r := 0 }).iff x.holds (·.consLost k)
  else s

/-- The cell status of port p arrives (R465). -/
def State.cellStatus (s : State) (p : Nat) (b : Bytes) : State := if s.safPorts.contains p then (s.consume (8 + p) b).2 else s

/-! ### Contacts and pairs (R450, R451) -/

/-- One sample of a contact under filter length f. -/
def Flt.sample (x : Flt) (f : Nat) (v : Bool) : Flt :=
  if v = x.on then { x with run := 0 } else if f ≤ x.run + 1 then ⟨v, 0⟩ else { x with run := x.run + 1 }

/-- One cycle of a pair with discrepancy limit d10 in cycles; `ok`: the pair is in use. -/
def PairIn.cycle (x : PairIn) (ok a b : Bool) (d10 : Nat) : PairIn :=
  let d := if a = b then 0 else x.d + 1
  let f := (x.fault || d10 < d) && (a || b)
  { d := d, fault := ok && f, on := ok && a && b && !f, onRun := x.onRun }

/-- Discrepancy limit of pair n in cycles: 10 × D (R451). -/
def State.discLimit (s : State) (n : Nat) : Nat := 10 * min 5000 (max 1 (s.rf .safInCfg n 12 0))

def flt (t : Tbl Flt) (k : Nat) : Flt := tget (fun _ => Flt.reset) t k
def pin (t : Tbl PairIn) (k : Nat) : PairIn := tget (fun _ => PairIn.reset) t k

/-- Samples the 16 contacts of one channel: contact a of pair n at n, contact b at 8 + n. -/
def State.sampleContacts (s : State) (t : Tbl Flt) (levels : Nat) : Tbl Flt :=
  (List.range 16).foldl (fun (t : Tbl Flt) i =>
    let n := i % 8
    let v := nbit levels i != (8 ≤ i && s.rb .safInCfg n 29)
    tput (fun _ => Flt.reset) t i ((flt t i).sample (s.rf .safInCfg n 19 16 + 1) v)) t

/-- Evaluates the pairs of one channel after it adopts the faults `adopt`. -/
def State.evalPairs (s : State) (t : Tbl PairIn) (f : Tbl Flt) (adopt : Nat) : Tbl PairIn :=
  (List.range 8).foldl (fun (t : Tbl PairIn) n =>
    let x := pin t n
    tput (fun _ => PairIn.reset) t n ({ x with fault := x.fault || nbit adopt n }.cycle (s.rb .safInCfg n 31) (flt f n).on
      (flt f (8 + n)).on (s.discLimit n))) t

/-- Pairs with a fault in either channel. -/
def Saf.pairFaults (x : Saf) : Nat := maskOf 8 fun n => (pin x.pairA n).fault || (pin x.pairB n).fault

/-- Pairs that are on in both channels (DEDUCED, log entry 34). -/
def Saf.pairsOn (x : Saf) : Nat := maskOf 8 fun n => (pin x.pairA n).on && (pin x.pairB n).on

/-- Contact-derived values of the two channels differ. -/
def Saf.contactsDiffer (x : Saf) : Bool :=
  (List.range 16).any (fun i => (flt x.fltA i).on != (flt x.fltB i).on) ||
  (List.range 8).any fun n =>
    let a := pin x.pairA n
    let b := pin x.pairB n
    a.on != b.on || a.fault != b.fault || a.d != b.d

/-! ### The parameter block (R469) -/

/-- The 512 bytes of the block. -/
def State.safBlock (s : State) : Bytes := (List.range 128).flatMap fun w => le 4 (tget regReset s.regs (0x25100 + 4 * w)).toNat

/-- Identities of enabled station consumers and producers. -/
def State.safIds (s : State) : List Nat :=
  ((List.range 8).filter fun c => s.rb .safConsCfg c 31).map (fun c => s.reg64 .safConsIdLo .safConsIdHi c) ++
  ((List.range 8).filter fun c => s.rb .safProdCfg c 31).map fun c => s.reg64 .safProdIdLo .safProdIdHi c

/-- No element occurs twice. -/
def distinct : List Nat → Bool
  | [] => true
  | a :: r => !r.contains a && distinct r

/-- A mask names only enabled pairs of function 0 and enabled consumers. -/
def State.maskOk (s : State) (m : Nat) : Bool :=
  (List.range 8).all fun n =>
    (!nbit m n || (s.rb .safInCfg n 31 && !s.rb .safInCfg n 28)) &&
    ((!nbit m (8 + n) && !nbit m (16 + n)) || s.rb .safConsCfg n 31)

/-- The block is valid. -/
def State.safValid (s : State) : Bool :=
  let wd := fun (x : Nat) => 3 ≤ x
  let ids := s.safIds
  let cells := (List.range 48).flatMap fun p => [s.cellId p 0, s.cellId p 1]
  wd (s.rf .safCellWd 0 15 0) && (List.range 8).all (fun c => wd (s.rf .safConsCfg c 15 0) && wd (s.rf .safProdCfg c 15 0)) &&
  (List.range 8).all (fun c => !s.rb .safConsCfg c 31 || (2 ≤ s.rf .safConsCfg c 21 16 && s.rf .safConsCfg c 21 16 ≤ 32)) &&
  (List.range 4).all (fun j => s.maskOk (s.rf .safOutCfg j 23 0)) && s.maskOk (s.rf .safPermCfg 0 23 0) &&
  (!s.rb .safAckCfg 0 31 || (s.rb .safInCfg (s.rf .safAckCfg 0 2 0) 31 && s.rb .safInCfg (s.rf .safAckCfg 0 2 0) 28)) &&
  distinct ids && ids.all fun x => x != 0 && !cells.contains x

/-! ### Channel fault (R448, R456) -/

/-- The channels latch a fault. -/
def State.channelFault (s : State) : State :=
  if s.saf.fault then s
  else
    let s := s.modSaf fun f => { f with fault := true, outOn := 0, closed := 0, grant := false, grants := 0, box := [], boxPrev := [] }
    (s.stopRequest 5 (coreCycle s.clk.now) none).raise 452 0xFFFF

/-- CHANNEL_A_SILENCE (R446): while no root-derived clock runs, channel B alone opens the outputs (R10, R69). -/
def execChannelASilence (t : Nat) (s : State) : Host.Outcome State Fault Refusal :=
  actAon t s fun s => if s.released then s.channelFault else s.modSaf fun f => { f with outOn := 0, closed := 0 }

/-! ### Permit, restart, outputs (R453 to R460) -/

/-- The source vector (R453). -/
def State.sourceVec (s : State) : Nat :=
  let on := s.saf.pairsOn
  let c := fun (k : Nat) (b : Nat) => (s.cons k).holds && nbit (lef (s.cons k).data 0 1) b && s.rb .safConsCfg k 31
  let trip := if s.saf.tripFrom ≤ s.clk.now then s.saf.trip else s.saf.tripPrev
  maskOf 8 (fun n => nbit on n && !s.rb .safInCfg n 28) + maskOf 8 (fun k => c k 0) * 2 ^ 8 +
  maskOf 8 (fun k => c k 1) * 2 ^ 16 + b2n (!trip) * 2 ^ 24

/-- The conditions that outputs and the grant share: mode, confirmation, channels, the mask `m` and bit 24 in S (R454, R455). -/
def State.permits (s : State) (m : Nat) : Bool :=
  let v := s.saf.srcVec
  2 ≤ s.mode.mode && s.saf.confirmed && !s.saf.fault && nbit v 24 && (List.range 24).all fun i => !nbit m i || nbit v i

/-- Restart after a cycle: kept while the other conditions hold, regained by an acknowledgement (R454). -/
def restart (needs was others ack : Bool) : Bool := others && (!needs || was || ack)

/-- Ticks since output j's test instant, none without an interval (R459). -/
def State.sinceTest (s : State) (j : Nat) : Option Nat :=
  let i := s.rf .safTest 0 31 16 * 1000000
  if i = 0 then none else some ((s.clk.now + i - j * 1000000 % i) % i)

/-- Width of a test pulse in ticks, and of the whole cycles that it falls in (R459). -/
def State.testWidth (s : State) : Nat := s.rf .safTest 0 4 0 * 10000
def State.testSpan (s : State) : Nat := (s.testWidth + 99999) / 100000 * 100000

/-- Output j is in a cycle that a test pulse falls in: the high-side pulse, or the low-side pulse, which starts with the first cycle after
it (R459; DEDUCED, log entry 35). -/
def State.testCycle (s : State) (j : Nat) : Option Bool :=
  match s.sinceTest j with
  | some e => if e < s.testSpan then some false else if e < 2 * s.testSpan then some true else none
  | none => none

/-- The last 10 µs of a test pulse of output j, high side first: one more than the instant at which the pulse began (R459). -/
def State.testRead (s : State) (j : Nat) (low : Bool) : Option Nat :=
  match s.sinceTest j with
  | some e =>
    let a := b2n low * s.testSpan
    if a + s.testWidth ≤ e + 10000 && e < a + s.testWidth then some (s.clk.now + a - e + 1) else none
  | none => none

/-- A test pulse holds the switch of output j open, high side or low (R459). -/
def State.testOpen (s : State) (j : Nat) (low : Bool) : Bool :=
  2 ≤ s.mode.mode && nbit s.saf.outOn j && (match s.sinceTest j with
    | some e => b2n low * s.testSpan ≤ e && e < b2n low * s.testSpan + s.testWidth
    | none => false)

/-- An output fault of j (R460). -/
def State.outputFault (s : State) (j : Nat) : State :=
  if nbit s.saf.outFault j then s
  else (s.modSaf fun f => { f with outFault := nset f.outFault j true, outOn := nset f.outOn j false, closed := nset f.closed j false }).raise 449 j

/-- Judges the readback and current of output j in a cycle, `on` being its command without a new fault (R457, R459). -/
def State.judgeOutput (s : State) (inp : SafetyIn) (j : Nat) (on : Bool) : State :=
  let closed := nbit s.saf.closed j
  let h := nbit inp.rbH j
  let l := nbit inp.rbL j
  let wrongOn := closed && on && (s.testCycle j).isNone && !(h && !l)
  let wrongOff := !closed && nget s.saf.openRun j = 2 && (h || l)
  let n := if nbit inp.overCur j then nget s.saf.overRun j + 1 else 0
  let s := s.modSaf fun f => { f with overRun := nput f.overRun j (min 10 n) }
  s.iff (wrongOn || wrongOff || 10 ≤ n) (·.outputFault j)

/-- Output j is permitted: the conditions of R454 but for restart. -/
def State.outPermit (s : State) (j : Nat) : Bool :=
  s.rb .safOutCfg j 31 && s.clk.supplySaf && !nbit s.saf.outFault j && s.permits (s.rf .safOutCfg j 23 0)

/-- The outputs of a cycle: switches close at its start where the command was on before, and open in it (R454). -/
def State.outputs (s : State) (inp : SafetyIn) (ack : Bool) : State :=
  let s := s.modSaf fun f => { f with closed := f.outOn, rbH1 := f.rbH, rbL1 := f.rbL, rbH := inp.rbH % 16, rbL := inp.rbL % 16 }
  s.forAll (List.range 4) fun j s =>
    let sat := fun (s : State) => restart (s.rb .safOutCfg j 30) (nbit s.saf.rsOut j) (s.outPermit j) ack
    let s := s.judgeOutput inp j (sat s)
    let on := sat s
    s.modSaf fun f =>
      let closed := nbit f.closed j && on
      { f with rsOut := nset f.rsOut j on, outOn := nset f.outOn j on, closed := nset f.closed j closed,
               openRun := nput f.openRun j (if closed then 0 else min 2 (nget f.openRun j + 1)) }

/-- The cell status of port p permits (R455). -/
def State.cellOk (s : State) (p : Nat) : Bool := (s.cons (8 + p)).holds && !nbit (lef (s.cons (8 + p)).data 0 1) 2

/-- The grants of a cycle (R455, R456). -/
def State.grantCycle (s : State) (ack : Bool) : State :=
  let needs := s.rb .safPermCfg 0 30
  let g := restart needs s.saf.rsPerm (s.rb .safPermCfg 0 31 && s.permits (s.rf .safPermCfg 0 23 0)) ack
  let ports := s.safPorts
  let rs := maskOf 48 fun p => s.cellOk p && (!needs || nbit s.saf.rsPort p || (ack && g && ports.contains p))
  let fell := s.saf.grant && !g && 2 ≤ s.mode.mode
  let s := s.modSaf fun f =>
    { f with grant := g, rsPerm := g, rsPort := rs, grants := maskOf 48 fun p => g && nbit rs p && ports.contains p }
  s.iff fell (·.stopRequest 5 (coreCycle s.clk.now) none)

/-! ### Producers (R463, R464, R467) -/

def Saf.prod (x : Saf) (k : Nat) : Prod := tget (fun _ => Prod.reset) x.prods k

/-- Producer k sends a PDU: its bytes, and the state after. -/
def State.produce (s : State) (k id kind wd : Nat) (data : Bytes) : Bytes × State :=
  let x := s.saf.prod k
  (pduBytes id kind x.seq wd (b2n (x.sent < 16) * 2) data,
   let y := { x with seq := (x.seq + 1) % 65536, sent := min 16 (x.sent + 1), wait := 0 }
   s.modSaf fun f => { f with prods := tput (fun _ => Prod.reset) f.prods k y })

/-- The permissive PDUs of a cycle go into the containers (R464). -/
def State.permissives (s : State) : State :=
  let wd := s.rf .safCellWd 0 15 0
  let r := !s.rb .safPermCfg 0 30 || s.saf.ackAge < 16
  let s := s.modSaf fun f => { f with boxPrev := f.box, box := [], boxAt := s.clk.now + Config.safetyToFrame }
  s.forAll s.safPorts fun p s =>
    let g := nbit s.saf.grants p
    let (b, s) := s.produce (8 + p) (s.cellId p 0) 0x51 wd (le 2 (b2n g + 2 * b2n (g && r)))
    s.modSaf fun f => { f with box := tput (fun _ => []) f.box p b }

/-- The station PDUs of a cycle (R463, R467). -/
def State.stationPdus (s : State) : State :=
  s.forAll (List.range 8) fun c s =>
    if !s.rb .safProdCfg c 31 then s
    else
      let x := s.saf.prod c
      let every := max 1 (s.rf .safProdCfg c 23 16)
      if x.sent != 0 && x.wait + 1 < every then
        let y := { x with wait := x.wait + 1 }
        s.modSaf fun f => { f with prods := tput (fun _ => Prod.reset) f.prods c y }
      else
        let trip := !nbit s.saf.srcVec 24
        let data := le 1 s.saf.pairsOn ++ le 1 (s.saf.outOn + 16 * s.saf.outFault) ++
          le 1 (b2n s.saf.grant + 2 * b2n trip + 4 * b2n (!s.clk.supplySaf)) ++ zeros 1
        let (b, s) := s.produce c (s.reg64 .safProdIdLo .safProdIdHi c) 0x53 (s.rf .safProdCfg c 15 0) data
        s.emitRecord 11 0x01 (le 1 c ++ zeros 1 ++ le 2 b.length ++ le 4 s.clk.now ++ zeros 8 ++ b)

/-- The container that a frame for port p formed now carries (R215, R464). -/
def State.container (s : State) (p : Nat) : Bytes :=
  padTo 12 (tget (fun _ => []) (if s.saf.boxAt ≤ s.clk.now then s.saf.box else s.saf.boxPrev) p)

/-! ### The cycle -/

/-- PDUs that reached the safety logic are taken at the boundary (R468). -/
def State.takePdus (s : State) : State :=
  let l := s.saf.pdus
  let s := s.modSaf fun f => { f with pdus := [] }
  l.foldl (fun (s : State) e =>
    let (st, s) := if s.rb .safConsCfg e.1 31 then s.consume e.1 e.2.2 else (5, s)
    match e.2.1 with
    | some k => s.finishRole 10 k ⟨st, s.clk.now % 2 ^ 32, 0⟩
    | none => s) s

/-- Contacts, pairs and acknowledgement of a cycle; answers whether an acknowledgement is accepted (R450 to R452). -/
def State.inputs (s : State) (inp : SafetyIn) : Bool × State :=
  let was := s.saf.pairFaults
  let on := s.saf.pairsOn
  let s := s.modSaf fun f =>
    let a := s.sampleContacts f.fltA inp.levelA
    let b := s.sampleContacts f.fltB inp.levelB
    { f with fltA := a, fltB := b, pairA := s.evalPairs f.pairA a was, pairB := s.evalPairs f.pairB b was }
  let k := s.rf .safAckCfg 0 2 0
  let run := (pin s.saf.pairA k).onRun
  let now := s.saf.pairsOn
  let ack := s.rb .safAckCfg 0 31 && s.rb .safInCfg k 28 && nbit on k && !nbit now k && 50 ≤ run && run ≤ 50000
  let s := s.modSaf fun f =>
    { f with ackAge := if ack then 0 else min 255 (f.ackAge + 1),
             pairA := (List.range 8).foldl (fun (t : Tbl PairIn) n =>
               let x := pin t n
               tput (fun _ => PairIn.reset) t n { x with onRun := if nbit now n then min 50001 (x.onRun + 1) else 0 }) f.pairA,
             differ := if f.contactsDiffer then min 5 (f.differ + 1) else 0 }
  (ack, s.forAll ((bitsOf 8 s.saf.pairFaults).filter fun n => !nbit was n) fun n s => s.raise 448 n)

/-- SAFETY_CYCLE (R445): due at every whole multiple of 100 µs (DEDUCED, log entry 36); what channel B's own oscillator shows is the
sender's operand (R446; DEDUCED, log entry 133). -/
def execSafetyCycle (t : Nat) (inp : SafetyIn) (s : State) : Host.Outcome State Fault Refusal :=
  act t s fun s =>
    if !(s.released && s.clk.now % 100000 = 0 && (s.saf.cycles = 0 || s.saf.cycleAt < s.clk.now)) then s
    else
      let s := s.modSaf fun f => { f with cycles := f.cycles + 1, cycleAt := s.clk.now }
      let s := (s.forAll (List.range 56) fun k s => s.consExpire k).takePdus
      let (ack, s) := s.inputs inp
      let s := s.modSaf fun f => { f with noReply := if inp.reply then 0 else f.noReply + 1 }
      let s := s.iff (!inp.agree || 4 < s.saf.differ || 2 ≤ s.saf.noReply) State.channelFault
      let s := s.modSaf fun f => { f with pchk := crc32c s.safBlock, valid := s.safValid, srcVec := s.sourceVec }
      let s := (s.outputs inp ack).grantCycle ack
      if s.saf.fault then s else s.permissives.stationPdus

/-- CONSUMER_WATCHDOG (R462): at a cycle boundary, consumer c, or 8 + p for the status of port p. -/
def execConsumerWatchdog (t : Nat) (c : Nat) (s : State) : Host.Outcome State Fault Refusal :=
  act t s fun s => if s.released && s.clk.now % 100000 = 0 && c < 56 then s.consExpire c else s

/-- OUTPUT_TEST (R459): the readback in the last 10 µs of a test pulse of output j, high side first. -/
def execOutputTest (t : Nat) (j : Nat) (low h l : Bool) (s : State) : Host.Outcome State Fault Refusal :=
  act t s fun s =>
    match (if j < 4 && s.released && 2 ≤ s.mode.mode && nbit s.saf.outOn j && nbit s.saf.closed j then s.testRead j low else none) with
    | none => s
    | some at_ =>
      if nget s.saf.testing (2 * j + b2n low) = at_ then s else
      let s := s.modSaf fun f => { f with testing := nput f.testing (2 * j + b2n low) at_ }
      s.iff (h != low || l != low) (·.outputFault j)

/-- SAF_OUT_CLEAR (R460): the latch clears if both pins read low in the 2 preceding cycles. -/
def State.safOutClear (s : State) (v : Word) : State :=
  s.forAll (List.range 4) fun j s =>
    let high := nbit s.saf.rbH j || nbit s.saf.rbL j || nbit s.saf.rbH1 j || nbit s.saf.rbL1 j
    s.iff (bit v (28 + j) && !high && 2 ≤ s.saf.cycles) (·.modSaf fun f => { f with outFault := nset f.outFault j false })
def execSafOutClear (t : Nat) (v : Word) (s : State) : Host.Outcome State Fault Refusal :=
  act t s fun s => if s.up then s.safOutClear v else s

/-- SAF_CONFIRM (R470). -/
def State.safConfirm (s : State) (v : Word) : State :=
  if s.mode.mode = 2 && !s.saf.fault && s.saf.valid && s.saf.pchk = v.toNat then
    ((s.modSaf fun f => { f with confirmed := true }).setReg .safConfirm 0 v).measure 7 (padTo 64 (le 4 v.toNat))
  else s.raise 454 0xFFFF
def execSafConfirm (t : Nat) (v : Word) (s : State) : Host.Outcome State Fault Refusal :=
  act t s fun s => if s.up then s.safConfirm v else s

/-- A word of the block changed (R470). -/
def State.unconfirm (s : State) : State := (s.modSaf fun f => { f with confirmed := false }).setReg .safConfirm 0 0

/-- SAFETY_PDU (R468): the PDU waits for the next cycle boundary. -/
def execSafetyPdu (t : Nat) (buf : Option Bytes) (s : State) : Host.Outcome State Fault Refusal :=
  act t s fun s => s.onTurn 10 1 fun i k d s =>
    s.readBuf i k d.buf (d.arg2 % 256) buf fun b s =>
      (s.holdAct i k).modSaf fun f => { f with pdus := f.pdus ++ [(d.arg % 8, some k, b.take (d.arg2 % 256))] }

end Sys2Proof.Machine
end

