-- ==== Sys2Proof/Machine/Link.lean ====
section
/-! DEFINITION. Cell links (R195 to R229, R519, R520): downstream frames, upstream frames, delay measurement, port states, the
slot, ring 12. -/

namespace Sys2Proof.Machine

/-! ### Downstream frames -/

/-- Instant at which frame n is formed for port p, 8 link words before its comma leaves, in 1/32 ns (R205, R389, R507). -/
def State.formAt (s : State) (p n : Nat) : Int := 32000 * (n : Int) - s.pair.o - (s.port p).adv - 2048

/-- The frame of port p that is formed in the present tick (R205, R507). -/
def State.frameNow (s : State) (p : Nat) : Option Nat :=
  let q := (32 * (s.clk.now : Int) + 31 + s.pair.o + (s.port p).adv + 2048) / 32000
  let n := q.toNat
  let due := decide (0 < q) && decide (32 * (s.clk.now : Int) ≤ s.formAt p n) && (match (s.port p).lastFrame with
    | some m => m < n
    | none => true)
  if due then some n else none

/-- The mode whose frames go out: the previous one until the path "safe stop to frame packed" has ended (R117, R507). -/
def State.frameMode (s : State) : Nat :=
  match s.mode.lastStop with
  | some c => if s.mode.mode = 7 && s.clk.now < c + Config.safeStopToFrame then s.mode.previous else s.mode.mode
  | none => s.mode.mode

/-- source[15] of frame n on port p (R394, R403, R404). -/
def State.sourceBit (s : State) (p n : Nat) : Bool :=
  match s.pair.seize with
  | some m => (m ≤ n && n ≤ m + 2) || (m + 2 < n && (s.port p).seized)
  | none =>
    if !s.hasPeer || s.pair.st = 0 || s.pair.st = 5 then true
    else if s.pair.st = 6 || s.pair.st = 7 then false
    else match s.pair.offer with
      | some o => if o.accepted then (if o.outgoing then n ≤ o.ns + 2 else o.ns ≤ n) else s.pair.active
      | none => s.pair.active

/-- What a frame is: RUN or IDLE, and its control bits. -/
structure FrameKind where
  run : Bool
  bypass : Bool
  release : Bool
  hold : Bool
  /-- it carries edges -/
  edges : Bool
  deriving DecidableEq, Repr

/-- Bypass is in force for frame n of port p (R372, R376; in Bypass failed it stays set beside hold_safe, DEDUCED, log entry 52). -/
def State.bypassAt (s : State) (p n : Nat) : Bool :=
  let x := s.port p
  match (s.health1 p).state with
  | 2 => (x.byFrom != 0 && x.byFrom ≤ 1000 * n + 1000) || x.byNext
  | 3 | 5 => true
  | _ => false

/-- The kind of frame n on port p (R107, R117, R197, R209, R371, R375, R379; DEDUCED, log entry 45).  From mode 2 on a port that is
bypassed carries bypass whether it is Ready or not. -/
def State.frameKind (s : State) (p n : Nat) : FrameKind :=
  let x := s.port p
  let m := s.frameMode
  let h := (s.health1 p).state
  let hold := s.rb .lnkCtrl p 30 || h = 5 || s.pair.st = 7
  if m = 7 then
    let by_ := h = 2 || h = 3 || h = 5
    ⟨by_, by_, false, hold || x.st != 3, false⟩
  else if x.st != 3 then ⟨2 ≤ m, 2 ≤ m && s.bypassAt p n, false, true, false⟩
  else if m ≤ 1 then
    let run := (s.grp (s.portGroup p)).started
    ⟨run, false, false, hold, run && h ≤ 1⟩
  else
    let by_ := s.bypassAt p n
    ⟨true, by_, (h ≤ 1 || (h = 2 && !by_ && x.preRel) || (h = 4 && 8 ≤ x.retRun)), hold, !by_ && h ≤ 2⟩

/-- A slot's 16 bytes (R212). -/
def SlotReq.bytes (r : SlotReq) : Bytes := le 1 r.kind ++ le 1 r.seq ++ le 2 r.addr ++ padTo 12 r.data

/-- A request that failed after 4 sends (R213, R370). -/
def State.slotFail (s : State) (p : Nat) (r : SlotReq) : State :=
  let s := s.modPort p fun x => { x with req := none, pushing := x.pushing && !r.fw }
  let s := match r.act with
    | some k => s.finishRole 12 k ⟨3, 0, 0⟩
    | none => s
  s.portPushEvent p

/-- The next request when none is outstanding: firmware before ring 12, a new seq (R213). -/
def State.slotTake (s : State) (p n : Nat) : State :=
  let x := s.port p
  let go := fun (r : SlotReq) (y : Port) =>
    { y with req := some { r with seq := x.nextSeq, sends := 0, next := n }, nextSeq := if x.nextSeq = 255 then 1 else x.nextSeq + 1 }
  match x.req, x.fwQ, x.hostQ with
  | some _, _, _ => s
  | none, r :: l, _ => s.modPort p fun y => go r { y with fwQ := l }
  | none, [], r :: l => s.modPort p fun y => go r { y with hostQ := l }
  | none, [], [] => s

/-- The slot of frame n on port p, and the state after. -/
def State.slotSend (s : State) (p n : Nat) : Bytes × State :=
  let s := s.slotTake p n
  match (s.port p).req with
  | some r =>
    if n < r.next then (zeros 16, s)
    else if 4 ≤ r.sends then (zeros 16, s.slotFail p r)
    else (r.bytes, s.modPort p fun x => { x with req := some { r with sends := r.sends + 1, next := n + 16 } })
  | none => (zeros 16, s)

/-- The bytes of a downstream frame (R196, R197). -/
def State.frameBytes (s : State) (p n : Nat) (k : FrameKind) (ev : List CellEdge) (slot : Bytes) : Bytes :=
  let body := le 1 (if k.run then 2 else 1) ++ le 1 ev.length ++ le 5 n ++ le 1 (s.rf .lnkCtrl p 15 8) ++
    le 2 (b2n (s.sourceBit p n) * 2 ^ 15 + s.rf .belCtrl 0 13 0) ++ le 1 (b2n s.extNow * 64 + p) ++
    le 1 (b2n k.bypass * 4 + b2n k.release * 2 + b2n k.hold) ++ padTo 80 (ev.flatMap fun e => le 5 (e.word n)) ++
    s.container p ++ slot
  le 1 0xBC ++ body ++ le 4 (crc32 body)

/-- Frame n is formed for port p. -/
def State.formFrame (s : State) (p n : Nat) : State :=
  let purge := s.mode.mode = 7 && s.frameMode = 7
  let s := s.iff purge (·.modPort p fun x => { x with edges := [] })
  let k := s.frameKind p n
  let s := s.iff (k.bypass && (s.health1 p).state = 2 && (s.port p).byNext) (·.modPort p fun x =>
    { x with byNext := false, byFrom := 1000 * n })
  let ev := if k.edges then tget (fun _ => []) (s.port p).edges n else []
  let (slot, s) := if (s.port p).st = 3 then s.slotSend p n else (zeros 16, s)
  let b := s.frameBytes p n k ev slot
  let s := s.modPort p fun x =>
    let z := codeFrame x.rd (b.map fun y => y.toNat)
    { x with edges := x.edges.filter (fun e => n < e.1), lastFrame := some n, lastBytes := b, line := z.1, rd := z.2,
             sent := ((n, 32000 * (n : Int) - s.pair.o - x.adv) :: x.sent).take 32,
             relFrom := if k.release && x.relFrom.isNone && (s.health1 p).state = 4 then some n else x.relFrom }
  s

/-- DOWNSTREAM_FRAME (R205, R507): the frame of port p whose forming instant lies in this tick. -/
def execDownstreamFrame (t : Nat) (p : Nat) (s : State) : Host.Outcome State Fault Refusal :=
  actIn 2 t s fun s =>
    if s.up && s.hasPort p && (s.port p).st != 0 && s.mode.mode != 0 then
      match s.frameNow p with
      | some n => s.formFrame p n
      | none => s
    else s

/-! ### Upstream frames -/

/-- Event words of an upstream frame, in order. -/
def upEvents (b : Bytes) : List Nat := ((List.range 8).map fun i => lef b (0x10 + 4 * i) 4).filter fun w => w != 0

/-- An event word meets its layout (R201): a kind that is sent, a time inside the frame or the mark of a saturated ago, a detail that
its kind knows. -/
def eventOk (w : Nat) : Bool :=
  let k := w / 2 ^ 28
  let time := w / 2 ^ 6 % 2 ^ 15
  let d := w % 64
  k != 0 && k != 0xF && (time < 32000 || (time = 0x7FFF && w / 2 ^ 21 % 8 = 7)) &&
  (if k = 4 then 1 ≤ d && d ≤ 5 else if k = 5 then 1 ≤ d && d ≤ 4 else true)

/-- A reply slot meets its layout (R212): all zero, or a reply with a sequence number, a rejection with one of the reasons. -/
def replyOk (r : Bytes) : Bool :=
  let k := lef r 0 1
  let reason := lef r 4 1
  if k = 0 then allZero r
  else lef r 1 1 != 0 && ([0x91, 0x92, 0x93, 0xA1, 0xB0].contains k || (k = 0xFF && 1 ≤ reason && reason ≤ 5))

/-- A good upstream frame (R196, R200, R201). -/
def upGood (b : Bytes) (clean : Bool) : Bool :=
  let e := lef b 0x52 1
  clean && b.length = 125 && lef b 0 1 = 0xBC && lef b 1 1 = 0x81 && lef b 0x79 4 = crc32 (slice b 1 0x78) &&
  !nbit (lef b 7 1) 7 && !nbit e 6 && (nbit e 7 || e = 0) && (upEvents b).all eventOk && replyOk (slice b 0x30 16)

/-- Reads the fields the device keeps. -/
def parseUp (b : Bytes) : UpF :=
  { echo := lef b 2 5, state := lef b 7 1, driver := lef b 8 8, badRx := lef b 0x4C 1, missed := lef b 0x4D 1,
    evLost := lef b 0x4E 1, edgeDrop := lef b 0x4F 1, fresh := lef b 0x50 2, genEcho := lef b 0x53 1,
    tele := (List.range 16).map fun c => sx 16 (lef b (0x59 + 2 * c) 2) }

/-! #### Delay measurement (R203 to R207) -/

/-- A new mean of port p (R204, R206, R207, R209). -/
def State.newMean (s : State) (p : Nat) (sum : Int) : State :=
  let mean := (sum + 128) / 256
  let down := (mean - 2048) / 2 + sx 32 (s.reg .lnkAsym p).toNat
  let s := s.modPort p fun x => { x with mean := mean, dDown := down, dUp := mean - 2048 - down, sum := 0, cnt := 0 }
  let x := s.port p
  if s.downLimit < x.dDown || s.upLimit < x.dUp then s.portFault p 5
  else
    let d := (x.dDown - x.adv).natAbs
    if x.st = 2 then
      if d ≤ 2 then s.toReady p
      else if 3 ≤ x.passes then s.portFault p 6
      else (s.modPort p fun x => { x with adv := x.dDown, passes := x.passes + 1 }).toAcquire p false
    else if 64 < d then s.portFault p 6
    else s

/-- One sample of the round trip (R203). -/
def State.rttSample (s : State) (p : Nat) (rtt : Int) : State :=
  let s := s.modPort p fun x => { x with sum := x.sum + rtt, cnt := x.cnt + 1 }
  if (s.port p).cnt = 256 then s.newMean p (s.port p).sum else s

/-- Port state of a good frame with a valid echo (R209): `echo` is port_echo; one without bit 7 neither passes nor fails the test, so
the run of good frames stands. -/
def State.upState (s : State) (p echo : Nat) (rtt : Int) : State :=
  let x := s.port p
  if nbit echo 7 && echo % 64 != p && (x.st = 1 || x.st = 3) then s.portFault p 7
  else match x.st with
  | 1 =>
    let g := x.good + b2n (nbit echo 7)
    s.modPort p fun x => if 8 ≤ g then { x with st := 2, good := 0, sum := 0, cnt := 0 } else { x with good := g }
  | 2 | 3 => s.rttSample p rtt
  | _ => s

/-! #### Telemetry, events, replies -/

/-- Telemetry of frame n reaches the Mill, capture and the sequence engines (R321, R411, R432, R271). -/
def State.upTele (s : State) (p rx n : Nat) (b : Bytes) (u : UpF) : State :=
  let at_ := (rx + 32000 + 255) / 256 * 8 + Config.telemetryToBank
  let f : TeleF := ⟨1000 * n, at_, u.fresh, u.tele⟩
  let s := s.modMill fun m => { m with tele := tput (fun _ => []) m.tele p ((f :: tget (fun _ => []) m.tele p).take 16) }
  let inst : Int := s.unaligned (1000 * n)
  let item := slice b 0x59 32 ++ slice b 0x50 2 ++ slice b 7 1 ++ zeros 1 ++ slice b 8 8
  let s := (s.capRaw (0x40 + p) (.spaced 1000) inst item).seqTele p inst u.tele
  let c := s.rf .legPortTemp p 3 0
  s.modPort p fun x =>
    if nbit u.fresh c then { x with tband := some (s.bandAfter x.tband (nth u.tele c 0)), tmiss := 0 }
    else { x with tmiss := satAdd 8 x.tmiss 1 }

/-- Event words of a frame that echoes n (R201, R370, R411, R519).  On a standby a port that reports the end of its bypass is returning
on the active unit, and returns here too (R398; DEDUCED, log entry 32). -/
def State.upEvent (s : State) (p n w : Nat) : State :=
  let kind := w / 2 ^ 28
  let f := n - w / 2 ^ 21 % 8
  let at_ : Int := (s.unaligned (1000 * f) : Int) + (w / 2 ^ 6 % 2 ^ 15 / 32 : Nat)
  let x := s.port p
  let fc := s.unaligned (1000 * f)
  let excused := (x.committing && x.comFrom ≤ fc) || x.comWins.any fun e => e.1 ≤ fc && fc ≤ e.2
  let s := s.raise 204 p w
  let s := (s.capRaw (0x80 + p) .offset at_ (le 4 w)).seqEvent p at_ w
  let s := s.iff (kind = 1 || kind = 2 || kind = 3 || kind = 7) (·.healthCount p)
  let h := (s.health1 p).state
  let s := s.iff (kind = 5 && w % 64 = 4 && s.standby && (h = 2 || h = 3)) (·.startReturn p)
  s.iff (kind = 5 && w % 64 = 3 && !excused) (·.portPushEvent p)

/-- A commit was answered in tick `now`: unless a newer one waits, its span ends (R519).  Spans that no event word can reach any more
are dropped. -/
def Port.comEnd (x : Port) (now : Nat) : Port :=
  if !x.committing || x.fwQ.any (fun q => q.addr = 2) then x
  else { x with committing := false, comWins := (x.comFrom, now) :: x.comWins.filter fun e => now ≤ e.2 + 100000 }

/-- A firmware request is done: the word is in force (R272, R519). -/
def State.fwDone (s : State) (p : Nat) (r : SlotReq) : State :=
  let v := leVal r.data
  if r.addr = 2 then
    s.modPort p fun x => { x.comEnd s.clk.now with req := none, committed := some v, pushing := x.pushing && x.fwQ.any fun q => q.addr = 2 }
  else
    let w := (List.range (r.data.length / 4)).map fun i => (r.addr + i, lef r.data (4 * i) 4)
    s.modPort p fun x =>
      { x with req := none, inForce := w.foldl (fun l e => nput l e.1 (e.2 + 1)) x.inForce,
               safe := w.foldl (fun v e => if e.1 = 0x20 then e.2 else v) x.safe }

/-- A firmware request is rejected (R520). -/
def State.fwReject (s : State) (p : Nat) (r : SlotReq) (reason : Nat) : State :=
  let s := s.modPort p fun x =>
    if r.addr = 2 then { x.comEnd s.clk.now with req := none, pushing := false }
    else { x with req := none, pushing := false }
  if reason = 4 then s else s.portPushEvent p

/-- The buffer of a ring 12 descriptor that is in execution. -/
def State.actBuf (s : State) (role k : Nat) : Nat :=
  match s.roleRing role with
  | some i => (((s.ring i).acts.find? fun a => a.idx = k).map fun a => a.desc.buf).getD 0
  | none => 0

/-- The reply slot of a good frame in Ready (R212, R213, R214). -/
def State.upReply (s : State) (p : Nat) (b : Bytes) : State :=
  let kind := lef b 0x30 1
  match (s.port p).req with
  | none => s
  | some r =>
    if kind = 0 || lef b 0x31 1 != r.seq || r.sends = 0 then s
    else if kind = r.kind + 0x80 then
      if r.fw then s.fwDone p r
      else
        let s := s.modPort p fun x => { x with req := none }
        match r.act with
        | some k => s.roleEnd 12 k (s.actBuf 12 k + 16) (slice b 0x34 12) ⟨0, 0, 12⟩
        | none => s
    else if kind = 0xFF then
      let reason := lef b 0x34 1
      if r.fw then s.fwReject p r reason
      else
        let s := s.modPort p fun x => { x with req := none }
        match r.act with
        | some k => s.finishRole 12 k ⟨4, reason, 0⟩
        | none => s
    else s

/-! #### Retirement and role -/

/-- Retirement state of port p after a good frame that echoes n with state byte st (R373, R375). -/
def State.upRetire (s : State) (p n st : Nat) : State :=
  let x := s.port p
  match (s.health1 p).state with
  | 2 =>
    if nbit st 5 && x.byFrom != 0 && x.byFrom + 1000 ≤ 1000 * n && 1000 * n ≤ x.byFrom + 8000 then
      (s.modHealth1 p fun h => { h with state := 3 }).heldReturn p
    else s
  | 4 =>
    let ok := match x.relFrom with
      | some r => r ≤ n && !nbit st 3 && !nbit st 5
      | none => false
    if ok then s.portBack p
    else s.modPort p fun x => { x with retRun := if 8 ≤ x.retRun then x.retRun else if nbit st 3 && !nbit st 5 then x.retRun + 1 else 0 }
  | _ => s

/-- A port that shows it is followed ends a seizure: the unit is active (R404). -/
def State.upSeize (s : State) (p n st : Nat) : State :=
  match s.pair.seize with
  | some m =>
    if nbit st 6 && m ≤ n then
      (s.modPort p fun x => { x with seized := true }).modPair fun q => { q with active := true, st := if q.st = 3 || q.st = 4 then 5 else q.st }
    else s
  | none => s

/-- A bad upstream frame (R196, R229). -/
def State.upBad (s : State) (p : Nat) : State :=
  s.modPort p fun x => { x with badUp := satAdd 0xFFFF x.badUp 1, good := 0, retRun := if 8 ≤ x.retRun then x.retRun else 0 }

/-- A good upstream frame of port p whose comma arrived at rx. -/
def State.upFrame (s : State) (p rx : Nat) (b : Bytes) : State :=
  let u := parseUp b
  let n := u.echo
  let was := (s.port p).up.state
  let band := s.portBand p
  let inSlot := decide ((rx : Int) + 32000 ≤ s.slotClose p (1000 * n))
  let tx := ((s.port p).sent.find? fun e => e.1 = n).map fun e => e.2
  let s := s.modPort p fun x => { x with up := u, echoes := if inSlot then (n :: x.echoes).take 64 else x.echoes }
  let s := match tx with
    | some a => s.upState p (lef b 0x52 1) ((rx : Int) - a)
    | none => s.modPort p fun x => { x with good := 0 }
  let s := s.upTele p rx n b u
  let s := (upEvents b).foldl (fun (s : State) w => s.upEvent p n w) s
  let s := s.iff ((s.port p).st = 3) (·.upReply p b)
  let s := s.iff (nbit u.state 6 && !nbit was 6) fun s => s.fwPush p ((s.port p).committed != some (s.rf .lnkCtrl p 15 8))
  let s := (s.upSeize p n u.state).upRetire p n u.state
  let s := s.cellStatus p (slice b 0x40 12)
  (s.iff (s.portBand p != band) (·.fwPush p false)).seqGoAll

/-- UPSTREAM_FRAME (R195, R196, R200 to R209): a frame whose comma reached the pins at rx, in 1/32 ns, has been received; `clean`: its
octet 0 was the control character K28.5 and no code or disparity error was found behind it. -/
def execUpstreamFrame (t : Nat) (p : Nat) (rx : Nat) (frame : Bytes) (clean : Bool) (s : State) : Host.Outcome State Fault Refusal :=
  actIn 2 t s fun s =>
    if !(s.up && s.hasPort p && (s.port p).st != 0 && rx + 32000 ≤ 32 * (s.clk.now + 1)) then s
    else if upGood frame clean then s.upFrame p rx frame
    else s.upBad p

/-- UPSTREAM_SLOT_CLOSE (R209): the upstream slot of frame n on port p has closed. -/
def execUpstreamSlotClose (t : Nat) (p : Nat) (n : Nat) (s : State) : Host.Outcome State Fault Refusal :=
  actIn 2 t s fun s =>
    let x := s.port p
    let fresh := match x.slotDone with
      | some m => m < n
      | none => true
    if !(s.up && s.hasPort p && x.st != 0 && fresh && x.sent.any (fun e => e.1 = n) &&
        decide (s.slotClose p (1000 * n) ≤ 32 * (s.clk.now : Int))) then s
    else
      let band := s.portBand p
      let missed := !x.echoes.contains n
      let s := s.modPort p fun x =>
        { x with slotDone := some n, missRun := if missed then x.missRun + 1 else 0,
                 tmiss := if missed then satAdd 8 x.tmiss 1 else x.tmiss,
                 retRun := if missed && x.retRun < 8 then 0 else x.retRun }
      let s := s.iff missed (·.capGap (0x40 + p))
      let s := s.capMark (0x40 + p) (s.unaligned (1000 * n))
      let s := s.capMark (0x80 + p) ((s.unaligned (1000 * (n - 6)) : Int) - 1)
      let s := s.iff (s.portBand p != band) (·.fwPush p false)
      (s.iff ((s.port p).st = 3 && 3 ≤ (s.port p).missRun) (·.portFault p 4)).seqGoAll

/-- CELL_LOS (R209): CELL_LOS[p] has been high for 8 consecutive link words. -/
def execCellLos (t : Nat) (p : Nat) (s : State) : Host.Outcome State Fault Refusal :=
  actIn 2 t s fun s => s.iff (s.up && s.hasPort p && (s.port p).st = 3) (·.portFault p 4)

/-- ADVANCE_STEP (R206): frame n, a multiple of 1,024, is the next one of the port. -/
def execAdvanceStep (t : Nat) (p : Nat) (n : Nat) (s : State) : Host.Outcome State Fault Refusal :=
  actIn 2 t s fun s =>
    let x := s.port p
    if s.up && s.hasPort p && x.st = 3 && n % 1024 = 0 && x.lastFrame = some (n - 1) && 0 < n && x.stepAt ≤ n then
      s.modPort p fun x =>
        { x with stepAt := n + 1, adv := if x.adv < x.dDown then x.adv + 1 else if x.dDown < x.adv then x.adv - 1 else x.adv }
    else s

/-! ### LNK_CTRL -/

/-- A write to LNK_CTRL[p] (R209, R229, R519). -/
def State.lnkCtrlWrite (s : State) (p : Nat) (v : Word) : State :=
  if !s.hasPort p then s
  else
    let gen := s.rf .lnkCtrl p 15 8
    let s := s.setReg .lnkCtrl p (v &&& 0xC000FF00)
    let s := if bit v 31 then
        s.iff ((s.port p).st = 0 && s.mode.mode != 0) fun s => s.toAcquire p true
      else s.iff ((s.port p).st != 0) (·.portOff p)
    let s := s.iff (bit v 0) (·.portRetry p)
    if fld v 15 8 != gen && (s.port p).st = 3 then
      (s.modPort p fun x => { x with committing := true, comFrom := if x.committing then x.comFrom else s.clk.now }).fwPush p true
    else s

/-- LNK_ENABLE (R209). -/
def execLnkEnable (t : Nat) (p : Nat) (v : Word) (s : State) : Host.Outcome State Fault Refusal :=
  actIn 2 t s fun s => s.iff (s.up && bit v 31) (·.lnkCtrlWrite p v)

/-- LNK_DISABLE (R209). -/
def execLnkDisable (t : Nat) (p : Nat) (v : Word) (s : State) : Host.Outcome State Fault Refusal :=
  actIn 2 t s fun s => s.iff (s.up && !bit v 31) (·.lnkCtrlWrite p v)

/-- LNK_RETRAIN (R209). -/
def execLnkRetrain (t : Nat) (p : Nat) (v : Word) (s : State) : Host.Outcome State Fault Refusal :=
  actIn 2 t s fun s => s.iff (s.up && bit v 0) (·.lnkCtrlWrite p v)

/-- LNK_GENERATION_WRITE (R519). -/
def execLnkGenerationWrite (t : Nat) (p : Nat) (v : Word) (s : State) : Host.Outcome State Fault Refusal :=
  actIn 2 t s fun s => s.iff (s.up && fld v 15 8 != s.rf .lnkCtrl p 15 8) (·.lnkCtrlWrite p v)

/-- CALIBRATE_LINK (R211). -/
def execCalibrateLink (t : Nat) (s : State) : Host.Outcome State Fault Refusal :=
  actIn 2 t s fun s => s.onFired 0x07 (some 0x06) fun x s =>
    s.forAll (if x.e.index = 0xFFFF then List.range 48 else [x.e.index]) fun p s =>
      if !s.hasPort p then s
      else if x.e.arg = 0 then s.iff ((s.port p).st = 3) (·.modPort p fun x => { x with sum := 0, cnt := 0 })
      else s.portRetry p

/-! ### Ring 12 (R214) -/

/-- A slot request of ring 12: its descriptor waits for the reply; `bad`: the status that ends it at once. -/
def State.hostSlot (s : State) (op : Nat) (buf : Option Bytes) (bad : Desc → Bool) (f : Desc → Bytes → SlotReq) : State :=
  s.onTurn 12 op fun i k d s =>
    let p := d.arg % 64
    if d.len < 64 then s.ends i k 1 64
    else if (s.port p).st != 3 then s.ends i k 2
    else if bad d then s.ends i k 5
    else s.readBuf i k d.buf 64 buf fun b s =>
      (s.holdAct i k).modPort p fun x => { x with hostQ := x.hostQ ++ [{ f d b with act := some k }] }

/-- MAILBOX (R214). -/
def execMailbox (t : Nat) (buf : Option Bytes) (s : State) : Host.Outcome State Fault Refusal :=
  actIn 2 t s fun s => s.iff s.up (·.hostSlot 1 buf (fun _ => false) fun _ b => ⟨0, 0x30, 0, slice b 0 12, false, none, 0, 0⟩)

/-- PARAM_READ (R214). -/
def execParamRead (t : Nat) (buf : Option Bytes) (s : State) : Host.Outcome State Fault Refusal :=
  actIn 2 t s fun s => s.iff s.up (·.hostSlot 2 buf (fun _ => false) fun d _ => ⟨0, 0x21, d.arg2 % 65536, [], false, none, 0, 0⟩)

/-- PARAM_WRITE (R214). -/
def execParamWrite (t : Nat) (buf : Option Bytes) (s : State) : Host.Outcome State Fault Refusal :=
  actIn 2 t s fun s => s.iff s.up (·.hostSlot 3 buf
    (fun d =>
      let a := d.arg2 % 65536
      let n := d.arg2 / 65536 % 4
      n = 0 || !((a = 0x22 && n = 1) || (0x1000 ≤ a && a ≤ 0xFFFD)))
    fun d b =>
      let n := d.arg2 / 65536 % 4
      ⟨0, 0x10 + n, d.arg2 % 65536, slice b 0 (4 * n), false, none, 0, 0⟩)

end Sys2Proof.Machine
end

