-- ==== Sys2Proof/Machine/PairFrames.lean ====
section
/-! DEFINITION. The pair link (R383 to R406): frames, the offset between the timelines, roles, joining, forwarded requests,
verdicts, handover, a lost peer. -/

namespace Sys2Proof.Machine

/-! ### Frames -/

/-- Both lanes carry the link: neither is retired (R370, R387). -/
def State.twoLanes (s : State) : Bool := (s.health1 104).state = 0 && (s.health1 105).state = 0

/-- The unit's number. -/
def State.unitNo (s : State) : Nat := s.rf .pairCtrl 0 0 0

/-- A message's bytes (R386). -/
def msgBytes (m : Nat × Bytes) : Bytes := le 1 m.1 ++ zeros 1 ++ le 2 m.2.length ++ m.2

/-- The messages that fit an area, oldest first. -/
def fitMsgs (area : Nat) : List (Nat × Bytes) → Nat
  | [] => 0
  | m :: r => let n := (msgBytes m).length
              if n ≤ area then fitMsgs (area - n) r + 1 else 0

/-- Cuts a message area into its messages; `none` when one is bad (R386). -/
def parseMsgs : Nat → Bytes → Option (List (Nat × Bytes))
  | 0, _ => none
  | f + 1, b =>
    if b = [] then some []
    else
      let n := lef b 2 2
      if b.length < 4 + n || lef b 1 1 != 0 || lef b 0 1 = 0 || 0x0C < lef b 0 1 then none
      else (parseMsgs f (b.drop (4 + n))).map fun l => (lef b 0 1, slice b 4 n) :: l

/-- The check value of a pair frame matches (R385). -/
def pairCrcOk (b : Bytes) : Bool :=
  if lef b 2 1 = 1 then lef b 0x4DE 4 = crc32 (slice b 2 0x4DC) else lef b 0x26D 4 = crc32 (slice b 2 0x26B)

/-- The messages of a good pair frame (R385, R386). -/
def pairGood (b : Bytes) (clean : Bool) : Option (List (Nat × Bytes)) :=
  let two := lef b 2 1 = 1
  let form := (if two then b.length = 1250 && lef b 0 2 = 0xBCBC else b.length = 625 && lef b 0 2 = 0x00BC) &&
    (two || lef b 2 1 = 2) && lef b 3 1 < 4 && lef b 4 1 < 8 && lef b 5 1 < 2 && lef b 6 2 < 2 ^ 14 && lef b 0xD 3 = 0 &&
    lef b 0x18 2 ≤ (if two then 1214 else 589) && allZero (slice b 0x1A 6)
  if clean && form && pairCrcOk b then parseMsgs 400 (slice b 0x20 (lef b 0x18 2)) else none

/-- The three DIGEST values (R386: kinds 4, 5 and 6 of R96). -/
def State.digestBytes (s : State) : Bytes :=
  [4, 5, 6].flatMap fun (k : Nat) =>
    padTo 64 (((s.sec.events.filter fun e => e.1 = k).getLast?.map fun e => e.2).getD [])

/-- The order in which messages go out: a HASH in the first frame formed after it is ready (R401), segments of a snapshot behind what
the periods under way need (DESIGN CHOICE, log entry 123), else oldest first. -/
def sendOrder (l : List (Nat × Bytes)) : List (Nat × Bytes) :=
  l.filter (fun m => m.1 = 3) ++ l.filter (fun m => m.1 != 3 && m.1 != 0x0B) ++ l.filter fun m => m.1 = 0x0B

/-- PAIR_FRAME_FORM (R385): frame n is formed at F(n) on the unit's own count. -/
def execPairFrameForm (t : Nat) (s : State) : Host.Outcome State Fault Refusal :=
  actIn 2 t s fun s =>
    let n := s.clk.now / 1000
    let up := (s.health1 104).state = 0 || (s.health1 105).state = 0
    if !(s.up && s.hasPeer && s.pair.st != 0 && up && s.clk.now % 1000 = 0 && s.pair.formed ≤ n) then s
    else
      let two := s.twoLanes
      let s := s.iff (s.pair.st = 1 && n % 1000 = 0) (·.pairSend 0x0C s.digestBytes)
      let s := s.iff (!two) (·.modPair fun p => { p with outbox := p.outbox.filter fun m => m.1 != 0x01 && m.1 != 0x0B })
      let area := if two then 1214 else 589
      let out := sendOrder s.pair.outbox
      let k := fitMsgs area out
      let msgs := (out.take k).flatMap msgBytes
      let stamp := ((s.pair.stamps.find? fun e => e.1 + 1 = n).map fun e => e.2).getD 0
      let body := le 1 (if two then 1 else 2) ++ le 1 (b2n s.pair.active + 2 * b2n s.paired) ++ le 1 s.pair.st ++ le 1 s.unitNo ++
        le 2 (s.rf .belCtrl 0 13 0) ++ le 8 (n % 2 ^ 40) ++ le 8 stamp ++ le 2 msgs.length ++ zeros 6 ++ padTo area msgs
      let b := (if two then le 2 0xBCBC else le 2 0x00BC) ++ body ++ le 4 (crc32 body)
      s.modPair fun p =>
        { p with formed := n + 1, tx := b, outbox := out.drop k, stamps := p.stamps.filter fun e => n ≤ e.1 + 1 }

/-! ### Roles -/

/-- Ready ports whose endpoint follows them (R393). -/
def State.followed (s : State) : Nat :=
  ((List.range 48).filter fun p => (s.port p).st = 3 && nbit (s.port p).up.state 6).length

/-- The roles are settled when the link comes up (R393).  What the peer's mode and count are no laid-out field carries: a free
value (DESIGN CHOICE, log entry 46). -/
def State.settleRoles (s : State) : State :=
  let (v, s) := s.free
  let s := s.modPair fun p => { p with peerSeen := true, sum := 0, cnt := 0, lastOff := none, outbox := [], seize := none, digest := none }
  let own := 2 ≤ s.mode.mode
  let peer := bit v 0
  let n := fld v 13 8
  let role := fun (a : Bool) (st : Nat) => s.modPair fun p => { p with active := a, st := st }
  if s.pair.st = 7 then s
  else if own && !peer then role true 1
  else if !own && peer then role false 1
  else if !own then role (s.unitNo = 0) 1
  else if n < s.followed || (n = s.followed && s.unitNo = 0) then role true 1
  else role false 6

/-- The peer is gone: a handover that is asked for or under way has failed with "no peer in Paired or Verify" (R406), here or, forwarded,
at the peer; of another forwarded request no RESULT comes any more (DESIGN CHOICE, log entry 124). -/
def State.handoverLost (s : State) : State :=
  let s := match s.pair.offer with
    | some o => (match o.act with
      | some k => (s.modPair fun p => { p with offer := none }).answer 0 k ⟨2, 0, 0⟩
      | none => s.modPair fun p => { p with offer := none })
    | none => s
  let l := s.pair.forwarded.filter fun f => f.2.1 = 11 && f.2.2 != 0
  (s.modPair fun p => { p with forwarded := [] }).forAll (l.map fun f => f.2.2) fun a s =>
    s.finishAct (a / 65536 - 1) (a % 65536) ⟨2, 0, 0⟩

/-- A write that changes PAIR_CTRL.enable (R392); only a device reset leaves Failed. -/
def State.pairEnable (s : State) (on : Bool) : State :=
  if s.pair.st = 7 then s
  else if on then s.iff (s.pair.st = 0) (·.modPair fun p => { p with st := 5, active := true })
  else s.handoverLost.modPair fun p => { Pair.reset with o := p.o, joined := p.joined, delayed := p.delayed, fwdNo := p.fwdNo }

/-- The link is left for Link with a join code (R391, R395). -/
def State.joinFail (s : State) (code : Nat) : State :=
  (s.modPair fun p => { p with st := 1, joinCode := code }).raise 424 code

/-! ### The offset (R388 to R391) and the join (R395) -/

/-- The unit sets O: numbering jumps, every port that is not Off returns to Acquire (R390). -/
def State.setOffset (s : State) (o : Int) : State :=
  let s := s.modPair fun p => { p with o := o, joined := true, st := 2, backlog := [], segs := [], segNext := 0 }
  let s := s.forAll (List.range 8) fun g s => s.iff (s.grp g).started (·.groupStop g)
  s.forAll (List.range 48) fun p s =>
    s.iff ((s.port p).st != 0) fun s =>
      ((s.leaveReady p).toAcquire p true).modPort p fun x =>
        { x with lastFrame := none, sent := [], edges := [], slotDone := none, echoes := [], stepAt := 0,
                 req := x.req.map fun r => { r with next := 0 } }

/-- The steps of a join at the end of a measurement (R395). -/
def State.joinTry (s : State) (off : Int) (peerUnit : Nat) : State :=
  match s.pair.lastOff with
  | none => s
  | some was =>
    if s.unitNo = peerUnit then s.joinFail 1
    else if 2 < (off - was).natAbs then s.joinFail 2
    else if !s.locked then s.joinFail 4
    else match s.pair.digest with
      | none => s
      | some d => if d = s.digestBytes then s.setOffset (-off) else s.joinFail 3

/-- One value D (R388). -/
def State.pairMeasure (s : State) (d : Int) (peerUnit : Nat) : State :=
  let s := s.modPair fun p => { p with sum := p.sum + d, cnt := p.cnt + 1 }
  if s.pair.cnt != 256 then s
  else
    let off := (s.pair.sum + 256) / 512 - sx 32 (s.reg .pairAsym).toNat
    let s := s.modPair fun p => { p with sum := 0, cnt := 0 }
    let s := if s.paired && s.pair.joined && 16 < (off + s.pair.o).natAbs then s.joinFail 2
      else if s.pair.st = 1 && !s.pair.active then s.joinTry off peerUnit
      else s
    s.modPair fun p => { p with lastOff := some off }

/-! ### Messages -/

/-- A message of a record that may come in segments (R386), after `have_` with `next` awaited: a whole record has 0 where a segment word
has the record number, which counts from 1 (DESIGN CHOICE, log entry 118). -/
def takeSeg (have_ : Bytes) (next : Nat) (b : Bytes) : Bytes × Nat :=
  let no := lef b 2 2
  let i := lef b 0 2
  if no = 0 then (b, 0)
  else if i = 0 then (b.drop 4, no * 65536 + 1)
  else if next = no * 65536 + i then (have_ ++ b.drop 4, next + 1)
  else ([], 0)

/-- A BANK message: the record is kept for its task once it is whole, in Join for the periods after the snapshot (R395 to R397). -/
def State.bankMsg (s : State) (b : Bytes) : State :=
  let (r, n) := takeSeg s.pair.bankSegs s.pair.bankNext b
  let t := lef r 0 1
  if r.length < 0x34 || r.length < 0x34 + 8 * lef r 0x30 4 + 4 * (s.inputsOf t).length then
    s.modPair fun p => { p with bankSegs := r, bankNext := n }
  else s.modPair fun p =>
    { p with banks := tput (fun _ => []) p.banks t r, bankSegs := [], bankNext := 0,
             backlog := if p.st = 2 then p.backlog ++ [r] else p.backlog }

/-- A SNAPSHOT message: a whole snapshot is installed (R395). -/
def State.snapMsg (s : State) (b : Bytes) : State :=
  let (r, n) := takeSeg s.pair.segs s.pair.segNext b
  let s := s.modPair fun p => { p with segs := r, segNext := n }
  if r.length < 4 || r.length < 4 + lef r 0 4 || s.pair.st != 2 then s
  else s.install (Config.pairDecode 0x0B (slice r 4 (lef r 0 4)))

/-- A plan-path write of the active unit, at its aligned cycle (R398). -/
def State.writeMsg (s : State) (b : Bytes) : State :=
  let l := Config.pairDecode 2 b
  let off := nth l 0 0
  let v := word (nth l 1 0)
  let c := s.unaligned (nth l 2 0)
  if !s.paired || s.pair.active then s
  else if off = Reg.gceForceCtrl.addr then s.iff (bit v 0) (·.forceCommit c)
  else s.planStore off c v

/-- A handover begins with an offer to the peer (R403). -/
def State.makeOffer (s : State) (reason : Nat) (act : Option Nat) : State :=
  let ns := (s.nowA + 24000 + 999) / 1000
  (s.pairSend 0x05 (le 5 ns ++ le 1 reason)).modPair fun p =>
    { p with offer := some { ns := ns, reason := reason, accepted := false, outgoing := true, act := act, lapse := 1000 * ns - 12000 } }

/-- An offer ends without a handover (R403, R406). -/
def State.offerFails (s : State) (status value : Nat) : State :=
  match s.pair.offer with
  | some o =>
    let s := (s.modPair fun p => { p with offer := none }).raise 419 0xFFFF
    match o.act with
    | some k => s.answer 0 k ⟨status, value, 0⟩
    | none => s
  | none => s

/-- An OFFER at the standby (R403); the reason of a REFUSE is open: a free value (DESIGN CHOICE, log entry 47). -/
def State.offerMsg (s : State) (b : Bytes) : State :=
  let ns := lef b 0 5
  if s.pair.active then s
  else if s.paired && (s.pair.lastMatch || (s.pair.verif.bind fun v => v.own) = some true) && (List.range 48).all (fun p => !s.portUsed p || (s.port p).st = 3) then
    (s.pairSend 0x06 (le 5 ns)).modPair fun p =>
      { p with offer := some { ns := ns, reason := lef b 5 1, accepted := true, outgoing := false, act := none, lapse := 0 } }
  else
    let (v, s) := s.free
    s.pairSend 0x07 (le 5 ns ++ le 1 (fld v 7 0))

/-- ACCEPT or REFUSE at the active unit. -/
def State.offerAnswer (s : State) (yes : Bool) (b : Bytes) : State :=
  match s.pair.offer with
  | some o =>
    if !o.outgoing || o.accepted || o.ns != lef b 0 5 then s
    else if yes then s.modPair fun p => { p with offer := some { o with accepted := true } }
    else s.offerFails 3 (lef b 5 1)
  | none => s

/-- PAIR_HANDOVER at a unit that is not a standby (R403, R405, R406): `k` is the descriptor or the peer's request. -/
def State.handoverRequest (s : State) (k : Nat) : State :=
  if s.pair.st = 6 then
    ((s.stopRequest 6 (coreCycle s.clk.now) none).modPair fun p => { p with st := 5, active := true }).answer 0 k ⟨0, 0, 0⟩
  else if s.leads && s.pair.offer.isNone then s.makeOffer 0 (some k)
  else s.answer 0 k ⟨2, 0, 0⟩

/-! ### Verdicts (R402) -/

/-- The verdict once both results are known. -/
def State.verdict (s : State) : State :=
  match s.pair.verif with
  | some ⟨_, _, _, some own, some peer⟩ =>
    let s := s.modPair fun p => { p with verif := none, st := 3, lastMatch := p.lastMatch || own }
    let mine := s.pair.active
    let a := if mine then own else peer
    let b := if mine then peer else own
    match a, b with
    | true, true => (s.raise 422 0xFFFF).iff (!mine) (·.modPair fun p => { p with st := 2 })
    | true, false =>
      if mine then (s.modPair fun p => { p with st := 5 }).raise 420 0xFFFF
      else (s.modPair fun p => { p with st := 7 }).raise 421 0xFFFF
    | false, true => if mine then (s.makeOffer 1 none).raise 421 0xFFFF else s.raise 420 0xFFFF
    | false, false => (s.raise 423 0xFFFF).iff (!mine) (·.modPair fun p => { p with st := 2 })
  | _ => s

/-- A VERIFY of the peer. -/
def State.verifyMsg (s : State) (b : Bytes) : State :=
  match s.pair.verif with
  | some v =>
    if v.g = lef b 0 1 && v.b % 2 ^ 32 = lef b 4 4 then
      (s.modPair fun p => { p with verif := some { v with peer := some (lef b 8 1 = 1) } }).verdict
    else s
  | none => s

/-! ### Requests of the peer (R399) -/

/-- A forwarded request acts as if it had come from its own source. -/
def State.remoteRequest (s : State) (l : List Nat) : State :=
  let k := remoteBase + nth l 1 0
  let a := nth l 2 0
  let b := nth l 3 0
  match nth l 0 0 with
  | 1 => s.modeRequest a (b % 8) (some k)
  | 2 =>
    let es := (rowsOf 2 (l.drop 2)).map fun r => (nth r 0 0, nth r 1 0)
    if es = [] then s.answer 2 k ⟨0, 0, 0⟩
    else
      let s := es.foldl (fun (s : State) (e : Nat × Nat) => s.ringSetpoint e.1 e.2) s
      s.modMill fun m => { m with setps := m.setps ++ [(k, es.map fun e => 0x320 + e.1, s.clk.now)] }
  | 3 =>
    if s.mill.prog.isNone then s.answer 0 k ⟨3, 0, 0⟩
    else match s.paramOpen a with
    | none => s.answer 0 k ⟨4, 0, 0⟩
    | some false => s.answer 0 k ⟨2, 0, 0⟩
    | some true =>
      if s.mode.mode ≤ 1 then (s.putParam a b).answer 0 k ⟨0, 0, 0⟩
      else s.modMill fun m => { m with params := m.params ++ [⟨a, b, s.clk.now, some k⟩] }
  | 4 =>
    let s := s.retireChannel a 4
    s.answer 0 k ⟨0, (s.health1 a).state, 0⟩
  | 5 =>
    let (st, s) := s.returnRequest a
    s.answer 0 k ⟨st, (s.health1 a).state, 0⟩
  | 6 => s.putSetpoint a b
  | 7 => s.bellParam a b
  | 9 => s.retireChannel a 5
  | 10 => (s.returnRequest a).2
  | 11 => s.handoverRequest k
  | _ => s

/-- A RESULT at the standby: SYS_MODE_RESULT with source 6, and the waiting descriptor (R399). -/
def State.resultMsg (s : State) (b : Bytes) : State :=
  let l := Config.pairDecode 0x0A b
  match s.pair.forwarded.find? fun f => f.1 = nth l 0 0 with
  | none => s
  | some f =>
    let s := s.modPair fun p => { p with forwarded := p.forwarded.filter fun x => x.1 != f.1 }
    let s := s.iff (f.2.1 = 1) (·.setReg .sysModeResult 0 (wfld (word (nth l 4 0)) 31 28 6))
    if f.2.2 = 0 then s
    else
      let c : Compl := ⟨nth l 1 0 % 256, nth l 2 0 % 2 ^ 32, nth l 3 0⟩
      if f.2.1 = 1 then s.finishRole 0 (f.2.2 % 65536) c else s.finishAct (f.2.2 / 65536 - 1) (f.2.2 % 65536) c

/-- One message of a good frame (R386). -/
def State.pairMsg (s : State) (m : Nat × Bytes) : State :=
  let b := m.2
  match m.1 with
  | 0x01 => s.bankMsg b
  | 0x02 => s.writeMsg b
  | 0x03 =>
    if s.paired then
      let h : PlanHash := ⟨lef b 0 1, lef b 4 4, slice b 8 8, s.clk.now⟩
      (s.modPair fun p => { p with peerH := (p.peerH ++ [h]).drop (p.peerH.length - 31) }).hashCompare h.g h.b
    else s
  | 0x04 => s.verifyMsg b
  | 0x05 => s.offerMsg b
  | 0x06 => s.offerAnswer true b
  | 0x07 => s.offerAnswer false b
  | 0x08 => s.iff s.standby (·.stopRequest 6 (coreCycle s.clk.now) none)
  | 0x09 => s.iff s.pair.active (·.remoteRequest (Config.pairDecode 9 b))
  | 0x0A => s.resultMsg b
  | 0x0B => s.snapMsg b
  | _ => s.modPair fun p => { p with digest := some b }

/-! ### Frames that arrive -/

/-- What the peer's state means for an active unit (R392, R393). -/
def State.followPeer (s : State) (ps : Nat) : State :=
  if !s.pair.active || s.pair.st = 0 || 6 ≤ s.pair.st then s
  else
    let s := s.modPair fun p => { p with snapWant := ps = 2 }
    let st := s.pair.st
    if st = 3 || st = 4 then s.iff (ps = 0 || ps = 1 || 5 ≤ ps) (·.modPair fun p => { p with st := 5 })
    else s.iff (ps = 3) (·.modPair fun p => { p with st := 3 })

/-- A good pair frame whose comma arrived at rx (R385 to R399). -/
def State.pairGoodFrame (s : State) (rx : Nat) (b : Bytes) (msgs : List (Nat × Bytes)) : State :=
  let n := lef b 8 5
  let ps := lef b 4 1
  let unit := lef b 5 1
  let s := if lef b 2 1 = 1 then s.modPair fun p =>
      { p with lane0 := (s.health1 104).state = 0, lane1 := (s.health1 105).state = 0, resync0 := false, resync1 := false }
    else s.iff (!s.pair.lane0 && !s.pair.lane1) (·.modPair fun p =>
      { p with lane0 := (s.health1 104).state = 0, lane1 := (s.health1 104).state != 0 })
  let s := s.modPair fun p => { p with peerSt := ps }
  let s := s.setReg .pairPeer 0 (word (lef b 6 2 * 2 ^ 16 + ps * 2 ^ 13 + lef b 3 1 % 2 * 2 ^ 12))
  let s := if !s.pair.peerSeen then s.settleRoles
    else s.iff (s.pair.st = 6) (·.modPair fun p => { p with st := 1, active := false })
  let prev := lef b 0x10 8
  let ok := s.pair.rxFrame + 1 = n && prev != 0 && s.pair.rxStamp != 0
  let d : Int := (s.pair.rxStamp : Int) - prev
  let s := s.modPair fun p => { p with rxStamp := rx, rxFrame := n, stamps := (n, rx) :: p.stamps }
  let s := s.iff ok (·.pairMeasure d unit)
  let s := s.iff (lef b 2 1 = 2 && s.standby && s.paired) (·.modPair fun p => { p with st := 1 })
  (msgs.foldl (fun (s : State) m => s.pairMsg m) s).followPeer ps

/-- A loss of alignment or a check error on lane k (R370). -/
def State.laneEvent (s : State) (k : Nat) : State :=
  let s := s.healthCount (104 + k)
  s.modPair fun p => if k = 0 then { p with resync0 := true } else { p with resync1 := true }

/-- PAIR_FRAME (R385): a frame whose comma reached the pins at rx, in 1/32 ns. -/
def execPairFrame (t : Nat) (rx : Nat) (frame : Bytes) (clean : Bool) (s : State) : Host.Outcome State Fault Refusal :=
  actIn 2 t s fun s =>
    if !(s.up && s.hasPeer && s.pair.st != 0 && rx + 32000 ≤ 32 * (s.clk.now + 1)) then s
    else match pairGood frame clean with
      | some l => s.pairGoodFrame rx frame l
      | none =>
        if clean && (frame.length = 1250 || frame.length = 625) && !pairCrcOk frame then
          (s.iff s.pair.lane0 (·.laneEvent 0)).iff s.pair.lane1 (·.laneEvent 1)
        else s

/-- PAIR_LANE_ALIGNMENT_LOSS (R370). -/
def execPairLaneAlignmentLoss (t : Nat) (lane : Nat) (s : State) : Host.Outcome State Fault Refusal :=
  actIn 2 t s fun s =>
    if s.up && s.hasPeer && s.pair.st != 0 && lane < 2 then
      (s.modPair fun p => if lane = 0 then { p with lane0 := false } else { p with lane1 := false }).laneEvent lane
    else s

/-! ### Losses and time-outs -/

/-- The first frame number that the unit forms from now on on every Ready port (R404). -/
def State.nextFrame (s : State) : Nat :=
  (List.range 48).foldl (fun (m : Nat) p =>
    if (s.port p).st = 3 then match (s.port p).lastFrame with
      | some n => max m (n + 1)
      | none => m
    else m) (s.nowA / 1000)

/-- PEER_LOST (R387, R404): three slots have passed without a good frame, or both lanes are retired. -/
def execPeerLost (t : Nat) (s : State) : Host.Outcome State Fault Refusal :=
  actIn 2 t s fun s =>
    let due := s.pair.rxStamp + 128000 ≤ 32 * s.clk.now || ((s.health1 104).state != 0 && (s.health1 105).state != 0)
    if !(s.up && s.hasPeer && s.pair.st != 0 && s.pair.peerSeen && due) then s
    else
      let was := s.pair.st
      let n := s.nextFrame
      let s := s.handoverLost.modPair fun p =>
        { p with peerSeen := false, peerSt := 0, lane0 := false, lane1 := false, outbox := [], verif := none, own := [], peerH := [],
                 sum := 0, cnt := 0, lastOff := none, digest := none, snapWant := false, segs := [], segNext := 0, bankSegs := [], bankNext := 0,
                 backlog := [], lossAt := s.clk.now }
      let s := if was = 7 || was = 6 then s
        else if s.pair.active then s.modPair fun p => { p with st := 5 }
        else if was = 3 || was = 4 then
          (s.forAll (List.range 48) fun p s => s.iff (s.port p).seized (·.modPort p fun x => { x with seized := false })).modPair fun p =>
            { p with seize := some n }
        else s.modPair fun p => { p with st := 6 }
      s.raise 416 0xFFFF

/-- FOLLOW_TIMEOUT (R404): 16 frames after the loss no port has shown that it is followed. -/
def execFollowTimeout (t : Nat) (s : State) : Host.Outcome State Fault Refusal :=
  actIn 2 t s fun s =>
    s.iff (s.pair.seize.isSome && !s.pair.active && (s.pair.st = 3 || s.pair.st = 4) && s.pair.lossAt + 16000 ≤ s.clk.now)
      (·.modPair fun p => { p with st := 6, seize := none })

/-- HASH_TIMEOUT (R401): the peer's hash of group g at boundary b is 8 frames late. -/
def execHashTimeout (t : Nat) (g : Nat) (b : Nat) (s : State) : Host.Outcome State Fault Refusal :=
  actIn 2 t s fun s =>
    let mine := fun (h : PlanHash) => h.g = g && h.b = b % 2 ^ 32 && h.at_ + 8000 ≤ s.clk.now
    if s.pair.own.any mine then (s.modPair fun p => { p with own := p.own.filter fun h => !mine h }).bump .pairHashErrs 0 15 0
    else s

/-- VERIFY_DONE (R402): the unit's recomputation has ended; `sound`: no fault of the device disturbed it. -/
def execVerifyDone (t : Nat) (sound : Bool) (s : State) : Host.Outcome State Fault Refusal :=
  actIn 2 t s fun s =>
    match s.pair.verif with
    | some v =>
      if v.own.isSome then s
      else
        let reproduced := sound && s.reproduces v.g v.b
        ((s.pairSend 0x04 (le 1 v.g ++ zeros 3 ++ le 4 v.b ++ le 1 (b2n reproduced))).modPair fun p =>
        { p with verif := some { v with own := some reproduced } }).verdict
    | none => s

/-- VERIFY_TIMEOUT (R402): a result that has not arrived counts as 0. -/
def execVerifyTimeout (t : Nat) (s : State) : Host.Outcome State Fault Refusal :=
  actIn 2 t s fun s =>
    match s.pair.verif with
    | some v =>
      if v.at_ + 1000 * max 1 (s.rf .pairCfg 0 15 0) ≤ s.clk.now then
        (s.modPair fun p => { p with verif := some { v with own := some (v.own.getD false), peer := some (v.peer.getD false) } }).verdict
      else s
    | none => s

/-- PAIR_HANDOVER (R406): on a standby it is forwarded. -/
def execPairHandover (t : Nat) (s : State) : Host.Outcome State Fault Refusal :=
  actIn 2 t s fun s => s.iff (s.up && s.pair.offer.isNone) (·.onTurn 0 0x38 fun i k _ s =>
    let s := s.holdAct i k
    if s.standby then s.forward 11 (65536 * (i + 1) + k) [] else s.handoverRequest k)

/-- OFFER_LAPSE (R403). -/
def execOfferLapse (t : Nat) (s : State) : Host.Outcome State Fault Refusal :=
  actIn 2 t s fun s =>
    match s.pair.offer with
    | some o => s.iff (o.outgoing && !o.accepted && o.lapse ≤ s.nowA) (·.offerFails 4 0)
    | none => s

/-- HANDOVER_SWITCH (R403): at F(n_s + 3) the roles change. -/
def execHandoverSwitch (t : Nat) (s : State) : Host.Outcome State Fault Refusal :=
  actIn 2 t s fun s =>
    match s.pair.offer with
    | some o =>
      if !(o.accepted && 1000 * (o.ns + 3) ≤ s.nowA) then s
      else
        let s := (s.modPair fun p =>
          { p with offer := none, active := !o.outgoing,
                   failAt := if o.outgoing && o.reason = 1 then some (1000 * (o.ns + 3) + 16000) else p.failAt }).raise 418 0xFFFF
        match o.act with
        | some k => s.answer 0 k ⟨0, o.ns % 2 ^ 32, 0⟩
        | none => s
    | none => s

/-- FAILED_ENTRY (R402): 16 frames after the handover. -/
def execFailedEntry (t : Nat) (s : State) : Host.Outcome State Fault Refusal :=
  actIn 2 t s fun s =>
    match s.pair.failAt with
    | some f => s.iff (f ≤ s.nowA) (·.modPair fun p => { p with failAt := none, st := 7, active := false })
    | none => s

end Sys2Proof.Machine
end

