-- ==== Sys2Proof/Machine/Watches.lean ====
section
/-! DEFINITION. The Watch from BAR0 (R478 to R482), the Parish book (R483 to R492), temperature (R493 to R498). -/

namespace Sys2Proof.Machine

/-! ### Latches (R480) -/

/-- A remote channel is in use (R493). -/
def State.channelOn (s : State) (i : Nat) : Bool := s.rb .thmChCfg i 31

/-- Some sensor's remote result is invalid (R496). -/
def State.sensorBad (s : State) : Bool :=
  (List.range 8).any fun i => s.channelOn i && (s.sensor i).seen && !(s.sensor i).valid

/-- A listed condition of source n holds (R480). -/
def State.causeHolds (s : State) (n : Nat) : Bool :=
  let portIn := fun (k : Nat) => (List.range 48).any fun p => s.hasPort p && (s.port p).st = k
  match n with
  | 200 => portIn 4
  | 201 => portIn 5
  | 202 => portIn 6
  | 203 => portIn 7
  | 160 => s.tim.quality != 3
  | 193 => (List.range 48).any fun p => (s.health1 p).state = 5
  | 195 => s.mill.short != 0
  | 421 => s.pair.st = 7
  | 452 => s.saf.fault
  | 453 => !s.clk.supplySaf
  | 323 => !s.clk.supplyFad
  | 578 => !s.clk.supplyMem
  | 512 => s.book.failed
  | 544 => (List.range 11).any fun i => (s.sensor i).level
  | 545 => (List.range 11).any fun i => (s.sensor i).rate
  | 546 => s.sensorBad
  | _ => false

/-- The cause of source n is gone (R480). -/
def State.causeGone (s : State) (n : Nat) : Bool :=
  (match unitEvent n with
    | some (r, b) => !s.rb r 0 b
    | none => true) && !s.causeHolds n

/-- A clear of source n (R480).  The raises of the same core cycle come after it: they leave the bit set and are all that is counted; their
own unit bit is no cause that the clear met, and a listed condition is judged as it stands (DEDUCED, log entry 143). -/
def State.clearLatch (s : State) (n : Nat) : State :=
  match (if s.wch.freshAt = coreCycle s.clk.now then s.wch.fresh.find? fun x => x.src = n else none) with
  | some x => s.iff (!x.was && !s.causeHolds n) fun s => s.setRf .wchCfg n 31 24 (min 255 x.n)
  | none => s.iff (s.causeGone n) fun s => (s.setRb .wchLatch (n / 32) (n % 32) false).setRf .wchCfg n 31 24 0

/-- A write to WCH_LATCH[w] (R480). -/
def State.writeLatch (s : State) (w : Nat) (v : Word) : State :=
  s.forAll (bitsOf 32 v.toNat) fun b s => s.iff (sourceOk s.var (32 * w + b)) (·.clearLatch (32 * w + b))

/-- WCH_LATCH_CLEAR (R480). -/
def execWchLatchClear (t : Nat) (w : Nat) (v : Word) (s : State) : Host.Outcome State Fault Refusal :=
  act t s fun s => s.iff (s.up && w < 19) (·.writeLatch w v)

/-- A write to WCH_FORCE[w] (R482). -/
def State.writeForce (s : State) (w : Nat) (v : Word) : State :=
  s.iff (s.mode.mode = 2) fun s => s.forAll (bitsOf 32 v.toNat) fun b s =>
    s.raise (32 * w + b) (s.rf .wchForceIdx 0 15 0) 0 true

/-- WCH_FORCE (R482). -/
def execWchForce (t : Nat) (w : Nat) (v : Word) (s : State) : Host.Outcome State Fault Refusal :=
  act t s fun s => s.iff (s.up && w < 19) (·.writeForce w v)

/-! ### Interrupt and ERR_N (R478, R479) -/

/-- A write to WCH_STATUS (R478): a raise of the same core cycle comes after it, so that irq is set again, with a new message where it had
been set before that core cycle. -/
def State.writeWchStatus (s : State) (v : Word) : State :=
  let c := some (coreCycle s.clk.now)
  s.iff (bit v 31) fun s =>
    if s.wch.irqRaise != c then s.setRb .wchStatus 0 31 false
    else if s.wch.irqRise = c then s
    else (s.modWch fun w => { w with irqRise := c }).iff (s.rb .wchCtrl 0 0) (·.signal 16)

/-- WCH_IRQ_CLEAR (R478). -/
def execWchIrqClear (t : Nat) (v : Word) (s : State) : Host.Outcome State Fault Refusal :=
  act t s fun s => s.iff s.up (·.writeWchStatus v)

/-- A write to WCH_CTRL. -/
def State.writeWchCtrl (s : State) (v : Word) : State :=
  (s.setReg .wchCtrl 0 (v &&& 1)).iff (bit v 0 && s.rb .wchStatus 0 31) (·.signal 16)

/-- WCH_IRQ_ENABLE (R478). -/
def execWchIrqEnable (t : Nat) (v : Word) (s : State) : Host.Outcome State Fault Refusal :=
  act t s fun s => s.iff s.up (·.writeWchCtrl v)

/-- A write to WCH_ERRN (R479, R500): the pulse width is RWL and at least 10. -/
def State.writeErrn (s : State) (v : Word) : State :=
  (s.setRb .wchErrn 0 31 (bit v 31)).iff (!s.rwlShut) (·.setRf .wchErrn 0 7 0 (max 10 (fld v 7 0)))

/-- WCH_ERRN_LEVEL (R479). -/
def execWchErrnLevel (t : Nat) (v : Word) (s : State) : Host.Outcome State Fault Refusal :=
  act t s fun s => s.iff s.up (·.writeErrn v)

/-- ERRN_PULSE_END (R479): the width has passed. -/
def execErrnPulseEnd (t : Nat) (s : State) : Host.Outcome State Fault Refusal :=
  act t s fun s =>
    match s.wch.pulseEnd with
    | some e => s.iff (e ≤ s.clk.now) (·.modWch fun w => { w with pulseEnd := none })
    | none => s

/-! ### The book -/

/-- BK_STATUS as it reads. -/
def State.bkStatusWord (s : State) : Nat :=
  b2n s.book.failed * 2 ^ 31 + b2n s.book.ready * 2 ^ 30 + min 255 s.book.badCount * 2 ^ 16 + min 0xFFFF s.book.dropped

/-- The book fails (R489); the AON count of its last-word record is a free value. -/
def State.bookFail (s : State) : State :=
  let s := s.modBook fun b => { b with failed := true, queue := [] }
  let s := s.raise 512 0xFFFF
  let (v, s) := s.free
  s.lastWord 512 v.toNat s.bkStatusWord

/-- Severity and sequence number of a record in a slot. -/
def recSev (b : Bytes) : Nat := lef b 0x0A 1
def recSeq (b : Bytes) : Nat := lef b 0 8

/-- The lowest slot from k on that holds nothing and is not bad. -/
def freeFrom (bad : List Nat) : Nat → Nat → Tbl Bytes → Option Nat
  | 0, _, _ => none
  | f + 1, k, t =>
    if 65536 ≤ k then none
    else match t with
      | [] => if bad.contains k then freeFrom bad f (k + 1) [] else some k
      | e :: r => if e.1 ≤ k then freeFrom bad f (max k (e.1 + 1)) r
        else if bad.contains k then freeFrom bad f (k + 1) (e :: r) else some k

/-- The victim of R485: the oldest record of the lowest severity. -/
def victim (t : Tbl Bytes) : Option (Nat × Bytes) :=
  t.foldl (fun (a : Option (Nat × Bytes)) e => match a with
    | none => some e
    | some x => if recSev e.2 < recSev x.2 || (recSev e.2 = recSev x.2 && recSeq e.2 < recSeq x.2) then some e else some x) none

/-- The slot that a record goes to (R485). -/
def Book.slotFor (k : Book) (b : Bytes) : Option Nat :=
  match freeFrom k.bad (k.slots.length + k.bad.length + 1) 0 k.slots with
  | some i => some i
  | none => match victim (k.slots.filter fun e => !k.bad.contains e.1) with
    | some (i, v) => if recSev v ≤ recSev b then some i else none
    | none => none

/-- BOOK_WRITE (R485, R488): the record at the head of the queue; whether its first and its second write read back. -/
def execBookWrite (t : Nat) (first : Bool) (second : Bool) (s : State) : Host.Outcome State Fault Refusal :=
  actIn 7 t s fun s =>
    match s.book.queue with
    | [] => s
    | b :: rest =>
      if !(s.up && s.book.ready && !s.book.failed) then s
      else match s.book.slotFor b with
      | none =>
        (s.modBook fun k => { k with queue := rest, dropped := satAdd 0xFFFF k.dropped 1, lastBad := k.curBad, curBad := false }).raise 514 0xFFFF
      | some i =>
        if first || second then
          s.modBook fun k =>
            { k with queue := rest, slots := tput (fun _ => []) k.slots i b, lastBad := k.curBad, curBad := false }
        else
          let two := s.book.lastBad
          let s := s.modBook fun k =>
            { k with slots := tdel i k.slots, bad := k.bad ++ [i], badCount := satAdd 255 k.badCount 1, curBad := true }
          let s := s.raise 513 0xFFFF
          s.iff (two || 4 ≤ s.book.bad.length) State.bookFail

/-- The boot record (R483, R487). -/
def State.bootRecord (s : State) : State :=
  s.sendRecord ⟨0, 1, 8, 0xFFFF, s.mode.mode, s.clk.now, s.netNow, (s.reg .sysResetCause).toNat, (s.reg .sysBootStatus).toNat, 1⟩

/-- A last-word record is imported (R473, R490). -/
def State.importOne (s : State) (b : Bytes) : State :=
  let n := lef b 8 2
  let s := s.sendRecord ⟨n, s.severity n, 2, lef b 0x0C 2, lef b 0x0E 1, 0, none, lef b 0x28 4, lef b 0x2C 4, 1⟩
  s.iff (n = 72 || n = 73 || n = 548) (·.raise n 0xFFFF)

/-- Last-word records in the order they were written. -/
def Book.lastWords (k : Book) : List LastWord := k.lw.drop k.lwNext ++ k.lw.take k.lwNext

/-- BOOK_SCAN (R487): slots whose check failed, and the longest run of die-link check failures. -/
def execBookScan (t : Nat) (bad : List Nat) (linkRun : Nat) (s : State) : Host.Outcome State Fault Refusal :=
  actIn 7 t s fun s =>
    if !(s.up && !s.book.ready && !s.book.failed) then s
    else
      let lost := bad.filter fun i => i < 65536
      let s := s.modBook fun k =>
        { k with slots := k.slots.filter (fun e => !lost.contains e.1), badCount := satAdd 255 k.badCount lost.length }
      let s := s.iff (!lost.isEmpty) (·.raise 513 0xFFFF)
      if 16 ≤ linkRun then s.bookFail
      else
        let wait := s.book.queue
        let words := s.book.lastWords.filter fun w => !w.imported
        let s := s.modBook fun k =>
          { k with ready := true, queue := [], nextSeq := k.slots.foldl (fun (m : Nat) e => max m (recSeq e.2)) 0 + 1 }
        let s := words.foldl (fun (s : State) w => s.importOne w.bytes) s.bootRecord
        s.modBook fun k =>
          { k with lw := k.lw.map (fun w => { w with imported := true }),
                   queue := k.queue ++ (List.range wait.length).map (fun (i : Nat) => renumber (nth wait i []) (k.nextSeq + i)),
                   nextSeq := k.nextSeq + wait.length }

/-- One bucket at a refill instant: the bucket after, and the summary it gives (R484). -/
def Bucket.refill (b : Bucket) (burst : Nat) : Bucket × Option (Nat × Nat) :=
  if !b.used then (b, none)
  else if b.supp != 0 then ({ b with supp := 0, full := 0 }, some (b.supp, b.sev))
  else
    let k := min burst (b.tokens + 1)
    ({ b with tokens := k, full := if k = burst then b.full + 1 else 0 }, none)

/-- RATE_REFILL (R484): at a whole multiple of interval × 1,000,000, once. -/
def execRateRefill (t : Nat) (s : State) : Host.Outcome State Fault Refusal :=
  actIn 7 t s fun s =>
    let w := max 1 (s.rf .bkRate 0 31 16) * 1000000
    if !(s.up && s.clk.now % w = 0 && s.book.refillAt != s.clk.now + 1) then s
    else
      let burst := s.burst
      let l := s.book.buckets.map fun b => b.refill burst
      let o := s.book.overflow.refill burst
      let s := s.modBook fun k =>
        { k with refillAt := s.clk.now + 1, buckets := (l.map fun x => x.1).filter (fun b => b.full < 256), overflow := o.1 }
      let all := l ++ [o]
      all.foldl (fun (s : State) x => match x.2 with
        | some (n, sev) => s.record ⟨x.1.src, sev, 4, x.1.index, s.mode.mode, s.clk.now, s.netNow, 0, 0, n⟩
        | none => s) s

/-- BOOK_READ (R492). -/
def execBookRead (t : Nat) (s : State) : Host.Outcome State Fault Refusal :=
  actIn 7 t s fun s => s.iff s.up (·.onTurn 0 0x28 fun i k d s =>
    if d.len < 64 then s.ends i k 1 64
    else if s.book.failed then s.ends i k 2
    else if !s.book.ready then s.ends i k 3
    else
      let start := d.arg + 2 ^ 32 * d.arg2
      let l := sortBy (fun (a b : Bytes) => recSeq a < recSeq b) ((s.book.slots.map fun e => e.2).filter fun b => start ≤ recSeq b)
      let out := l.take (d.len / 64)
      let next := if l.length ≤ d.len / 64 then s.book.nextSeq else (out.getLast?.map fun b => recSeq b + 1).getD s.book.nextSeq
      s.bufEnd i k d.buf out.flatten ⟨0, next % 2 ^ 32, 64 * out.length⟩)

/-- BOOK_CLEAR (R492): `pass` says whether every slot passed its test. -/
def execBookClear (t : Nat) (pass : Bool) (s : State) : Host.Outcome State Fault Refusal :=
  actIn 7 t s fun s => s.iff s.up (·.onTurn 0 0x29 fun i k d s =>
    if s.mode.mode != 1 then s.ends i k 2
    else if !s.book.ready && !s.book.failed then s.ends i k 3
    else
      let s := s.modBook fun b => { b with slots := [] }
      let s := s.iff (nbit d.arg 0) (·.modBook fun b => { b with lw := [], lwNext := 0 })
      let s := if pass then s.modBook fun b => { b with failed := false, ready := true, lastBad := false, curBad := false }
        else s.iff (!s.book.failed) State.bookFail
      s.bootRecord.ends i k 0 (b2n s.book.failed))

/-! ### Temperature -/

/-- A thermistor's table: resistances and temperatures up to the first zero (R495). -/
def State.thmTable (s : State) (t : Nat) : List (Nat × Int) :=
  ((List.range 16).map fun (e : Nat) =>
    let w := s.reg .thmTab t e
    (fld w 31 12, sx 12 w.toNat)).takeWhile fun x => x.1 != 0

/-- The pair of neighbours between which a resistance lies. -/
def tabPair (mohm : Nat) : List (Nat × Int) → Option ((Nat × Int) × (Nat × Int))
  | a :: b :: r => if mohm ≤ 1000 * a.1 && 1000 * b.1 ≤ mohm && b.1 < a.1 then some (a, b) else tabPair mohm (b :: r)
  | _ => none

/-- ln of a positive whole number. -/
def lnNat (n : Nat) : Int := fln ((n : Int) * fone)

/-- What a measurement gives. -/
inductive TempOut where
  | invalid
  | value (t : Int)
  /-- the rule states no result (R494, R495; DESIGN CHOICE, log entry 48) -/
  | open_
  deriving DecidableEq, Repr

/-- 1/128 °C of a temperature in kelvin in the fixed-point form of `fone`. -/
def fromKelvin (k : Int) : Int := sat 16 (roundDiv ((k * 100 - 27315 * fone) * 128) (100 * fone.toNat))

/-- One measurement of sensor i (R493 to R496). -/
def State.measureTemp (s : State) (i : Nat) (m : TempIn) : Option TempOut :=
  let cfg := s.reg .thmChCfg i
  let par := s.rf .thmChPar i 15 0
  match m with
  | .onDie u => if 8 ≤ i && i < 11 then some (.value (sat 16 (roundDiv (u * 128) 1000000))) else none
  | .diode v1 v2 v3 =>
    if !(i < 8 && bit cfg 31 && !bit cfg 30) then none
    else
      let x := 4 * (v2 - v1) - (v3 - v2)
      let eta := if par = 0 then 16384 else par
      if v1 < 200000000 || 950000000 < v1 || x ≤ 0 then some .invalid
      else some (.value (sat 16 (roundDiv (x * 16384 * 10 * 12800 - 27315 * 128 * 3 * eta * 1194616) (3 * eta * 1194616 * 100))))
  | .ntc r =>
    if !(i < 8 && bit cfg 31 && bit cfg 30) then none
    else if r < 20000 || 2000000000 < r then some .invalid
    else if bit cfg 29 then
      let t := s.thmTable (b2n (bit cfg 28))
      if t.length < 2 then some .invalid
      else match tabPair r t with
        | none => some .invalid
        | some (a, b) =>
          let la := lnNat (1000 * a.1)
          some (.value (sat 16 (roundDiv (32 * (a.2 * (lnNat (1000 * b.1) - la) + (b.2 - a.2) * (lnNat r - la)) * -1)
            (la - lnNat (1000 * b.1)).toNat)))
    else
      let r0 := s.rf .thmChR0 i 31 12
      if r0 = 0 || par = 0 then some .open_
      else
        let d := 2000000 * fone / 596300000 + (lnNat r - lnNat (1000 * r0)) / par
        if d ≤ 0 then some .open_ else some (.value (fromKelvin (fdiv fone d)))

/-- The band of sensor i changes (R498). -/
def State.setBand (s : State) (i b : Nat) : State :=
  if (s.sensor i).band = b then s
  else
    let s := s.iff (i = 9) State.bandKeep
    let s := s.modSensor i fun x => { x with band := b }
    s.raise 547 i

/-- An invalid result of remote sensor i (R496). -/
def State.tempInvalid (s : State) (i : Nat) : State :=
  let was := (s.sensor i).valid
  let s := s.modSensor i fun x => { x with valid := false, hist := [], seen := true }
  let s := s.iff was (·.raise 546 i)
  s.setBand i (s.rf .thmChCfg i 1 0)

/-- A valid result of sensor i (R497, R498).  The first result of all sets the band and changes none (DEDUCED, log entry 51). -/
def State.tempValid (s : State) (i : Nat) (T : Int) : State :=
  let x := s.sensor i
  let w := s.reg .thmLim i
  let hi := sx 16 (fld w 31 16)
  let hys : Int := fld w 15 8
  let rate : Int := fld w 7 0
  let level := if x.level then !decide (T < hi - 128 * hys) else decide (hi ≤ T)
  let r := T - nth x.hist 99 0
  let run := decide (100 ≤ x.hist.length)
  let fast := rate != 0 && run && (if x.rate then !decide (r < 64 * rate) else decide (128 * rate ≤ r))
  let s := s.modSensor i fun y =>
    { y with valid := true, temp := T, level := level, rate := fast, hist := (T :: x.hist).take 100, seen := true, banded := true }
  let s := s.iff (level && !x.level) (·.raise 544 i)
  let s := s.iff (fast && !x.rate) (·.raise 545 i)
  let b := s.bandAfter (if x.banded then some x.band else none) T
  if x.seen then s.setBand i b
  else (s.iff (i = 9 && b != x.band) State.bandKeep).modSensor i fun y => { y with band := b }

/-- TEMPERATURE_RESULT (R493). -/
def execTemperatureResult (t : Nat) (i : Nat) (m : TempIn) (s : State) : Host.Outcome State Fault Refusal :=
  act t s fun s =>
    if !s.released then s
    else match s.measureTemp i m with
      | none => s
      | some .invalid => s.tempInvalid i
      | some (.value T) => s.tempValid i T
      | some .open_ =>
        let (v, s) := s.free
        s.tempValid i (sx 16 v.toNat)

end Sys2Proof.Machine
end

