-- ==== Sys2Proof/Machine/Flags.lean ====
section
/-! DEFINITION. Sticky bits and status words: what a write of ones clears (R6, R79) and what the read-only registers show of
the units' state (the layout tables of every chapter). -/

namespace Sys2Proof.Machine

/-! ### Bits that a write of 1 clears -/

/-- Conditions of CLK_EVENT that are still present (R79). -/
def State.clkHolds (s : State) : Nat :=
  b2n s.clk.xtal.missing + b2n s.clk.refIn.missing * 2 + b2n s.clk.vtune * 8 + b2n (!s.clk.pllBLock) * 16

/-- Bits of a W1C field that stay set whatever is written: the CLK_EVENT bits whose condition is present (R79). -/
def State.stuckBits (s : State) (r : Reg) : Nat :=
  match r with
  | .clkEvent => s.clkHolds
  | _ => 0

/-- Clears the bits written 1 (R6). -/
def State.clearOnes (s : State) (r : Reg) (i j : Nat) (v : Word) : State :=
  let m := word r.row.w1c &&& v &&& ~~~(word (s.stuckBits r))
  s.setReg r i (s.reg r i j &&& ~~~m) j

/-! ### Clocks, modes, rings, time -/

/-- CLK_STATUS (R78). -/
def State.clkStatusWord (s : State) : Nat :=
  let c := s.clk
  let sel := match c.sel with
    | some 0 => 0
    | some _ => if c.tenMHz then 1 else 2
    | none => 3
  c.band * 2 ^ 20 + b2n c.bandSrc * 2 ^ 19 + b2n c.pllBLock * 2 ^ 11 + b2n c.vtune * 2 ^ 10 + b2n c.hold * 2 ^ 9 +
  b2n c.pllALock * 2 ^ 8 + sel * 2 ^ 4 + b2n c.refIn.proven * 8 + b2n c.xtal.proven * 4

/-- SYS_MODE (R126). -/
def State.sysModeWord (s : State) : Nat :=
  let m := s.mode
  b2n (s.rf .sysHandoverStatus 0 23 16 != 0) * 2 ^ 11 + b2n m.pending.isSome * 2 ^ 10 +
  ((m.pending.map fun q => q.target).getD 0) * 2 ^ 7 + m.previous * 2 ^ 4 + m.mode

/-- DQ_RING_STATUS[i] (R157). -/
def State.ringStatusWord (s : State) (i : Nat) : Nat :=
  let r := s.ring i
  r.state * 2 ^ 30 + r.error * 2 ^ 24 + min 0xFFFF r.dropped

/-- A role is a stream role (R134). -/
def streamRole (role : Nat) : Bool := role % 2 = 1 || role = 6

/-- PTP_PORT_STATUS[n] (R177). -/
def State.ptpStatusWord (s : State) (n : Nat) : Nat :=
  let p := s.sta n
  b2n p.link * 2 ^ 31 + b2n p.pdelayOk * 2 ^ 30 + min 255 p.fuMiss * 2 ^ 16 + min 0xFFFF p.drops

/-! ### Cell links -/

/-- LNK_STATUS[p] (R229): the state byte of the last good upstream frame; no match before the first one (DEDUCED, log entry 49). -/
def State.lnkStatusWord (s : State) (p : Nat) : Nat :=
  let x := s.port p
  let b := fun (k : Nat) => b2n (nbit x.up.state k)
  x.st * 2 ^ 29 + b 6 * 2 ^ 28 + b 3 * 2 ^ 27 + b 5 * 2 ^ 26 + b 4 * 2 ^ 25 + b 2 * 2 ^ 24 +
  b2n (x.up != UpF.reset && x.up.genEcho = s.rf .lnkCtrl p 15 8) * 2 ^ 23

/-- LNK_HLTH[h] (R382). -/
def State.healthWord (s : State) (h : Nat) : Nat :=
  let x := s.health1 h
  b2n x.perm * 2 ^ 30 + b2n x.held * 2 ^ 29 + x.cause * 2 ^ 24 + x.state * 2 ^ 16 + min 255 x.count

/-- Ports that are Ready, and ports in retirement states 2 to 5 (R229, R382). -/
def State.readyPorts (s : State) : Nat := maskOf 48 fun p => (s.port p).st = 3
def State.retiredPorts (s : State) : Nat := maskOf 48 fun p => 2 ≤ (s.health1 p).state && (s.health1 p).state ≤ 5

/-! ### GCE, legs, converters, Mill -/

/-- Group g has not yet taken the force codes committed last (R247). -/
def State.forcePending (s : State) (g : Nat) : Bool :=
  match (s.gce.staged.filter fun e => e.1 ≤ s.clk.now).getLast? with
  | some e => (s.grp g).forceAt < e.1
  | none => false

/-- GCE_STATUS (R258). -/
def State.gceStatusWord (s : State) : Nat := maskOf 8 s.forcePending * 2 ^ 8 + maskOf 8 fun g => (s.grp g).running

/-- LEG_BOOT_STATE: the pair named in LEG_BOOT_SEL (R280). -/
def State.bootStateWord (s : State) : Nat :=
  let m := s.rf .legBootSel 0 8 0
  if !s.hasPair m then 0
  else
    let x := s.pst m
    b2n (s.emptyBit m) * 2 ^ 31 + b2n x.required * 2 ^ 30 + min 255 x.noLow * 2 ^ 16 + min 65535 x.q

/-- ADC_STATUS (R310). -/
def State.adcStatusWord (s : State) : Nat :=
  b2n s.seqRunning * 2 ^ 31 + b2n s.adc.inj.isSome * 2 ^ 30 +
  (if s.seqStepping then s.adc.stepEntry * 2 ^ 16 + s.adc.stepRep * 2 ^ 8 else s.adc.entry * 2 ^ 16 + s.adc.rep * 2 ^ 8) +
  maskOf 8 fun c => (s.acal c).active

/-- ADC_RESULT[n] (R301, R310). -/
def State.adcResultWord (s : State) (n : Nat) : Nat :=
  let r := s.ares n
  r.kind * 2 ^ 30 + b2n r.ovr * 2 ^ 29 + cx 18 r.code

/-- FAD_STATUS (R311). -/
def State.fadStatusWord (s : State) : Nat := (maskOf 6 fun n => (s.fcal n).active) * 2 ^ 8 + maskOf 6 fun n => s.fastOn n

/-- Task t runs (R328). -/
def State.taskRuns (s : State) (t : Nat) : Bool := s.taskOn t && 2 ≤ s.mode.mode && (s.grp (s.taskGroup t)).running

/-- Word j of block i of the loaded program (R348). -/
def State.blockWord (s : State) (i j : Nat) : Word :=
  match s.mill.prog with
  | some p => nth (nth p.blocks i []) j 0
  | none => 0

/-! ### Pair, capture, phasors -/

/-- PAIR_STATUS (R407). -/
def State.pairStatusWord (s : State) : Nat :=
  let p := s.pair
  p.st * 2 ^ 29 + b2n p.active * 2 ^ 28 + b2n p.lane1 * 2 ^ 27 + b2n p.lane0 * 2 ^ 26 + p.joinCode * 2 ^ 8

/-- State field of CAP_UNIT_STATUS[u] (R416, R443): its flags of the last record and its counters stand in the register. -/
def State.capStatusBits (s : State) (u : Nat) : Nat := (s.unit u).st * 2 ^ 30

/-- Record bytes so far: the header and the stored chunks; none in Idle (DEDUCED, log entry 49). -/
def State.capBytes (s : State) (u : Nat) : Nat := if (s.unit u).st = 0 then 0 else 128 + 64 * (s.unit u).chunks.length

/-- PMU_STATUS (R443). -/
def State.pmuStatusWord (s : State) : Nat := b2n s.pmu.running * 2 ^ 31 + s.pmu.cfgErr * 2 ^ 24 + s.pmuTaps

/-! ### Safety, Watch, book, thermal -/

/-- SAF_STATUS (R471). -/
def State.safStatusWord (s : State) : Nat :=
  let f := s.saf
  b2n f.fault * 2 ^ 31 + b2n f.confirmed * 2 ^ 30 + b2n f.valid * 2 ^ 29 + b2n f.grant * 2 ^ 28 + b2n s.tripLatched * 2 ^ 27 +
  b2n (!s.clk.supplySaf) * 2 ^ 26 + f.pairFaults * 2 ^ 16 + f.pairsOn * 2 ^ 8 + f.outOn * 2 ^ 4 + f.outFault

/-- SAF_IN_STATE (R471), as channel A holds it. -/
def State.safInWord (s : State) : Nat :=
  (maskOf 8 fun n => (flt s.saf.fltA n).on) * 2 ^ 24 + (maskOf 8 fun n => (flt s.saf.fltA (8 + n)).on) * 2 ^ 16 +
  (maskOf 8 fun n => (pin s.saf.pairA n).d != 0) * 2 ^ 8

/-- Ports whose cell status holds (R465). -/
def State.cellOkPorts (s : State) : Nat := maskOf 48 fun p => (s.cons (8 + p)).holds

/-- BK_SEQ: the next sequence number, known once the scan is complete (R487, R501); 0 until then (DESIGN CHOICE, log entry 136). -/
def State.bookNext (s : State) : Nat := if s.book.ready then s.book.nextSeq else 0

/-- BK_LW_STATUS (R501). -/
def State.lwStatusWord (s : State) : Nat :=
  (s.book.lw.filter fun e => !e.imported).length * 2 ^ 8 + s.book.lw.length

/-- Word w of last-word slot i (R501). -/
def State.lwWord (s : State) (i w : Nat) : Nat := lef ((s.book.lw[i]?.map fun e => e.bytes).getD []) (4 * w) 4

/-! ### Every read-only field -/

/-- The current value of the fields that units keep for a register element: what stands in its read-only fields beside the
stored word. -/
def State.shown (s : State) (r : Reg) (i j : Nat) : Nat :=
  match r with
  | .sysCap0 => s.var.cap0
  | .sysLeadTimes => if s.mode.extended then 0x2EE02BC0 else 0x0FA00C80
  | .sysMode => s.sysModeWord
  | .clkStatus => s.clkStatusWord
  | .pllBPhase => cx 32 (s.out i).phase
  | .dqStatus => b2n s.host.polling
  | .dqRingCfg => b2n (streamRole (s.rf .dqRingCfg i 15 12)) * 2 ^ 20
  | .dqRingStatus => s.ringStatusWord i
  | .dqRingIndex => (s.ring i).host * 2 ^ 16 + (s.ring i).dev
  | .msixPba => if i = 0 then s.host.pba else 0
  | .timStatus => s.timStatus
  | .timCountLo => s.clk.now
  | .timCountHi => s.clk.now / 2 ^ 32
  | .timNow => (nth (tsWords (s.timeAt s.clk.now)) i 0).toNat
  | .timOffset => s.tim.offset / 2 ^ (32 * i)
  | .timRateLo => cx 64 s.tim.rate
  | .timRateHi => cx 64 s.tim.rate / 2 ^ 32
  | .timPpsIn => (nth (tsWords s.tim.ppsStamp) i 0).toNat
  | .ptpPortStatus => s.ptpStatusWord i
  | .ptpLinkDelay => cx 32 (s.sta i).linkDelay
  | .belStatus => min 4096 s.bellUsed
  | .lnkStatus => s.lnkStatusWord i
  | .lnkRtt => cx 32 (s.port i).mean
  | .lnkDelay => cx 32 (s.port i).adv
  | .lnkErrs => min 0xFFFF (s.port i).badUp * 2 ^ 16 + (s.port i).up.badRx * 2 ^ 8 + (s.port i).up.missed
  | .lnkEp => (s.port i).up.genEcho * 2 ^ 24 + (s.port i).up.edgeDrop * 2 ^ 16 + (s.port i).up.evLost * 2 ^ 8 + (s.port i).up.state
  | .lnkDrvLo => (s.port i).up.driver
  | .lnkDrvHi => (s.port i).up.driver / 2 ^ 32
  | .lnkReadyLo => s.readyPorts
  | .lnkReadyHi => s.readyPorts / 2 ^ 32
  | .lnkRetiredLo => s.retiredPorts
  | .lnkRetiredHi => s.retiredPorts / 2 ^ 32
  | .lnkCgrpMask => s.activeMask i
  | .lnkHlth => s.healthWord i
  | .gceStatus => s.gceStatusWord
  | .legFault => maskOf 32 fun n => (s.sw n).latch
  | .legIlock => maskOf 32 fun n => (s.sw n).ilock
  | .legRdyState => maskOf 16 fun n => (s.lg n).ready
  | .legBootState => s.bootStateWord
  | .adcStatus => s.adcStatusWord
  | .adcResultTs => (tget (fun _ => 0) s.hiLatch Reg.adcResultTs.addr).toNat
  | .adcResult => s.adcResultWord i
  | .fadStatus => s.fadStatusWord
  | .fadResult => b2n ((s.fres i).kind != 0) * 2 ^ 31 + cx 12 (s.fres i).code
  | .milStatus => (maskOf 3 s.taskRuns) * 2 ^ 28 + b2n (s.mode.mode = 6) * 2 ^ 16
  | .milData => (tget (fun _ => 0) s.hiLatch (Reg.milData.addr i)).toNat
  | .milBlock => (s.blockWord i j).toNat
  | .pairStatus => s.pairStatusWord
  | .pairOffsetLo => cx 64 s.pair.o
  | .pairOffsetHi => cx 64 s.pair.o / 2 ^ 32
  | .capUnitStatus => s.capStatusBits i
  | .capUnitBytesLo => s.capBytes i
  | .capUnitBytesHi => s.capBytes i / 2 ^ 32
  | .capSeqCtrl => (s.seqe i).state
  | .pmuStatus => s.pmuStatusWord
  | .memStatus => b2n s.cap.eccOn * 2 ^ 30 + s.usableMem
  | .safStatus => s.safStatusWord
  | .safPchk => s.saf.pchk
  | .safInState => s.safInWord
  | .safOutStatus => s.saf.rbH % 16 * 16 + s.saf.rbL % 16
  | .safConsStatus => (maskOf 8 fun c => (s.cons c).holds) * 2 ^ 24
  | .safCellOkLo => s.cellOkPorts
  | .safCellOkHi => s.cellOkPorts / 2 ^ 32
  | .safGrantLo => s.saf.grants
  | .safGrantHi => s.saf.grants / 2 ^ 32
  | .wchStatus => s.wchStatusWord
  | .wchErrn => b2n s.errPulsing * 2 ^ 30
  | .bkStatus => s.bkStatusWord
  | .bkSeqLo => s.bookNext
  | .bkSeqHi => s.bookNext / 2 ^ 32
  | .bkFill => if s.book.ready then s.book.slots.length else 0
  | .bkLwStatus => s.lwStatusWord
  | .bkLw => s.lwWord i j
  | .thmBandState => (List.range 11).foldl (fun (a k : Nat) => a + (s.sensor k).band % 4 * 2 ^ (2 * k)) 0
  | .thmCond => (maskOf 11 fun k => (s.sensor k).rate) * 2 ^ 16 + maskOf 11 fun k => (s.sensor k).level
  | .thmTemp => s.thmTempWord i
  | _ => 0

/-- Registers whose word is not stored at all: `shown` is the whole of it. -/
def notStored (r : Reg) : Bool :=
  match r with
  | .sysCap0 | .sysLeadTimes | .sysMode | .clkStatus | .timStatus | .timCountLo | .timCountHi | .timNow | .timOffset | .timRateLo | .timRateHi
  | .timPpsIn | .lnkHlth | .gceStatus | .pairStatus | .wchStatus => true
  | _ => false

/-- The bits of a register that a read returns: all but W1S and reserved ones (R6). -/
def RegRow.readable (w : RegRow) : Nat := w.rw ||| w.rwl ||| w.ro ||| w.w1c

/-- The current value of register element [i][j] (R6): stored fields and shown ones. -/
def State.live (s : State) (r : Reg) (i j : Nat) : Word :=
  let st := if notStored r then 0 else s.reg r i j
  (st ||| word (s.shown r i j)) &&& word r.row.readable

end Sys2Proof.Machine
end

