-- ==== Sys2Proof/Machine/HostLink.lean ====
section
/-! DEFINITION. Rings as the host drives them: enable and stop (R135, R151, R152), polls (R138 to R141), descriptor
fetches, NOP. -/

namespace Sys2Proof.Machine

/-- Puts a ring into Error (R151, R152): what has not started is discarded. -/
def State.ringFail (s : State) (i code : Nat) : State :=
  ((s.modRing i fun r => { r with state := 3, error := code, queue := [], held := false }).raise 128 i).pump i

/-- Rings with an entry reserved in a completion ring that left Running go to Error with code 3 (R152). -/
def State.cqLost (s : State) (q : Nat) : State :=
  s.forAll (List.range 16) fun j s =>
    s.iff ((s.ring j).state = 1 && submitRole (s.ringRole j) && s.ringCq j = q && !(s.ring j).acts.isEmpty) (·.ringFail j 3)

/-- An index or fetch error of ring i (R152). -/
def State.ringError (s : State) (i code : Nat) : State :=
  let s := s.ringFail i code
  s.iff (complRole (s.ringRole i)) (·.cqLost i)

/-- The code with which an enable is refused, 0 when it is not (R135).  A ring that is Stopping or in Error counts as enabled, and of
several codes the lowest is set (DESIGN CHOICE, log entry 116). -/
def State.enableCheck (s : State) (i : Nat) : Nat :=
  let role := s.ringRole i
  let n := s.rf .dqRingCfg i 3 0
  let q := s.ringCq i
  let d := s.ringDataSize i
  let record := role = 3 || role = 6 || role = 7 || role = 9 || role = 11 || role = 15
  if (List.range 16).any fun j => j != i && (s.ring j).state != 0 && s.ringRole j = role then 4
  else if (role = 3 || role = 4 || role = 5) && !s.hasCap then 5
  else if n < 4 || 12 < n then 6
  else if submitRole role && !((s.ring q).state != 0 && complRole (s.ringRole q)) then 7
  else if record && (d = 0 || s.ringData i % d != 0) then 8
  else if s.ringBase i % 4096 != 0 then 9
  else 0

/-- A write to DQ_RING_CFG[i] (R135, R151). -/
def State.writeRingCfg (s : State) (i : Nat) (v : Word) : State :=
  let r := s.ring i
  if r.state = 0 then
    let s := s.setReg .dqRingCfg i (wfld (v &&& 0x8FE0F00F) 31 31 0)
    if bit v 31 then
      let c := s.enableCheck i
      if c = 0 then
        ((s.setRb .dqRingCfg i 31 true).modRing i fun r => { Ring.reset with state := 1, reserved := r.reserved }).modHostIf fun h =>
          { h with reads := h.reads.filter fun e => e.1 != i }
      else s.modRing i fun r => { r with error := c }
    else s
  else if bit v 31 then s
  else
    let s := s.setRb .dqRingCfg i 31 false
    if r.state = 1 then
      let s := s.modRing i fun r => { r with state := 2, queue := [] }
      (s.iff (complRole (s.ringRole i)) (·.cqLost i)).pump i
    else if r.state = 3 then
      if r.held then s.modRing i Ring.disabled else (s.modRing i fun r => { r with state := 2 }).pump i
    else s

/-- RING_ENABLE (R135): the write that sets enable. -/
def execRingEnable (t : Nat) (ring : Nat) (v : Word) (s : State) : Host.Outcome State Fault Refusal :=
  actIn 5 t s fun s => s.iff (s.up && ring < 16 && bit v 31) (·.writeRingCfg ring v)

/-- RING_STOP (R151): the write that clears enable. -/
def execRingStop (t : Nat) (ring : Nat) (v : Word) (s : State) : Host.Outcome State Fault Refusal :=
  actIn 5 t s fun s => s.iff (s.up && ring < 16 && !bit v 31) (·.writeRingCfg ring v)

/-- The host address of the doorbell block (R136). -/
def State.dbAddr (s : State) : Nat := (s.reg .dqDbAddrLo).toNat + 2 ^ 32 * (s.reg .dqDbAddrHi).toNat

/-- POLL (R130, R139, R140): at a multiple of the period; the poll's own requests go first (R155), then what was held. -/
def execPoll (t : Nat) (s : State) : Host.Outcome State Fault Refusal :=
  actIn 5 t s fun s =>
    if !(s.up && s.rb .dqPoll 0 31 && s.clk.now % s.rf .dqPoll 0 19 0 = 0) then s
    else if !s.host.bme || s.host.d3 then s
    else
      let held := s.host.stalled
      let s := s.modHostIf fun h => { h with stalled := false }
      let s := s.iff (s.shadowKey != s.host.shadow) State.shadowWrite
      let s := if s.host.polling then s.bump .dqStatus 0 31 16
        else (s.hostRead s.dbAddr 64).modHostIf fun h => { h with polling := true }
      s.iff held (·.sendHeld.pumpAll.issueReads 64)

/-- One ring's host index from a good doorbell read (R138). -/
def State.takeIndex (s : State) (i h : Nat) : State :=
  let r := s.ring i
  if r.state = 0 then s
  else
    let s := s.modRing i fun r => { r with host := h }
    if r.state != 1 then s
    else if submitRole (s.ringRole i) then
      s.iff (s.ringSize i < (h + 65536 - r.dev) % 65536) (·.ringError i 1)
    else
      let u := (r.dev + 65536 - h) % 65536
      if min (s.ringSize i) r.wrote < u then s.ringError i 1
      else s.modRing i fun r => { r with recs := r.recs.filter fun e => (r.dev + 65536 - e.1) % 65536 ≤ u }

/-- DOORBELL_READ (R138, R153): the outstanding read completes, `none` with an error. -/
def execDoorbellRead (t : Nat) (slots : Option (List Word)) (s : State) : Host.Outcome State Fault Refusal :=
  actIn 5 t s fun s =>
    if !s.host.polling then s
    else
      let s := s.modHostIf fun h => { h with polling := false }
      match slots with
      | none => (s.setRb .dqStatus 0 1 true).raise 129 0xFFFF
      | some l => (s.forAll (List.range 16) fun i s => s.takeIndex i (fld (nth l i 0) 15 0)).pumpAll.issueReads 64

/-- Puts fetched descriptors into the ring's queue, oldest first. -/
def State.enqueue (s : State) (i : Nat) : List Bytes → State
  | [] => s
  | b :: r =>
    (s.modRing i fun x =>
      { x with queue := x.queue ++ [(x.fetched, parseDesc (b.take 32))], fetched := (x.fetched + 1) % 65536 }).enqueue i r

/-- DESCRIPTOR_FETCH (R129, R148, R152): the oldest read of the ring completes, with `none` when it failed; a ring that left Running
takes nothing from it. -/
def execDescriptorFetch (t : Nat) (ring : Nat) (descs : Option (List Bytes)) (s : State) : Host.Outcome State Fault Refusal :=
  actIn 5 t s fun s =>
    let r := s.ring ring
    if 16 ≤ ring || r.host = r.fetched || !s.canDma then s
    else if r.state != 1 || !submitRole (s.ringRole ring) then
      s.modHostIf fun h => { h with reads := delFirst (fun e => e.1 = ring) h.reads }
    else
      let (n, s) := s.takeRead ring
      match descs with
      | none => s.ringError ring 2
      | some l => ((s.enqueue ring (l.take n)).pump ring).issueReads 64

/-- NOP (R144). -/
def execNop (t : Nat) (s : State) : Host.Outcome State Fault Refusal :=
  actIn 5 t s fun s => s.onTurn 0 0 fun i k _ s => s.finishAct i k ⟨0, 0, 0⟩

end Sys2Proof.Machine
end

