-- ==== Sys2Proof/Machine/Modes.lean ====
section
/-! DEFINITION. Mode requests from BAR0, ring 0 and the Bell (R110 to R115, R127, R144, R182), the lock (R102). -/

namespace Sys2Proof.Machine

/-- A write to SYS_MODE_REQ (R127): a request with the key and the request bit, else the target field alone. -/
def State.writeModeReq (s : State) (v : Word) : State :=
  let s := s.setReg .sysModeReq 0 (word (fld v 2 0))
  s.iff (fld v 31 16 = 0x4D4F && bit v 8) (·.modeRequest 1 (fld v 2 0) none)

/-- SYS_MODE_REQ (R110, R127). -/
def execSysModeReq (t : Nat) (v : Word) (s : State) : Host.Outcome State Fault Refusal :=
  act t s fun s => s.iff s.up (·.writeModeReq v)

/-- SET_MODE (R144): the descriptor waits for the request's result. -/
def execSetMode (t : Nat) (s : State) : Host.Outcome State Fault Refusal :=
  act t s fun s => s.iff s.up (·.onTurn 0 0x01 fun i k d s => (s.holdAct i k).modeRequest 2 (d.arg % 8) (some k))

/-- CHANGE_MODE (R182): the fired action reaches the mode controller. -/
def execChangeMode (t : Nat) (s : State) : Host.Outcome State Fault Refusal :=
  act t s fun s => s.onFired 0x03 none fun x s => s.modeRequest 3 (x.e.arg % 8) none

/-- A write to SYS_LOCK (R102). -/
def State.writeLock (s : State) (v : Word) : State := s.iff (bit v 0) State.setLock

/-- SYS_LOCK (R102). -/
def execSysLock (t : Nat) (v : Word) (s : State) : Host.Outcome State Fault Refusal :=
  act t s fun s => s.iffReleased (·.writeLock v)

end Sys2Proof.Machine
end

