-- ==== Sys2Proof/Machine/TimeSteps.lean ====
section
/-! DEFINITION. Time and the Bell: the commands. -/

namespace Sys2Proof.Machine

/-- A write to TIM_CTRL (R164, R166).  Another source that is selected is present if it was so since the last set and has not been lost
since; time is then being acquired anew (DEDUCED, log entry 130). -/
def State.writeTimCtrl (s : State) (v : Word) : State :=
  let old := s.timSource
  let m := if s.rwlShut then 0xFFFF00C0 else 0xFFFF00F0
  let s := s.setReg .timCtrl 0 ((s.reg .timCtrl &&& ~~~m) ||| (v &&& m))
  let s := if s.timSource = old then s
    else
      let here := s.srcPresent && !(if s.timSource = 0 then s.ptpLost else s.ppsLost)
      let s := (s.putSrc here).modTim fun m => { m with rateHeld := m.rateHeld && !here }
      if s.tim.timeSet then s.setQuality (if here then 2 else 1) else s
  s.iff (bit v 0) State.writeTimSet

/-- UPDATE_INSTANT (R160): at a multiple of 1,000,000 the rate moves toward its target and T stays continuous. -/
def execUpdateInstant (t : Nat) (s : State) : Host.Outcome State Fault Refusal :=
  act t s fun s =>
    if !(s.released && s.clk.now % 1000000 = 0 && s.tim.updAt != some s.clk.now) then s
    else
      let st : Int := s.rf .timSlew 0 23 0
      let d := s.tim.target - s.tim.rate
      let r := if s.tim.rateHeld then s.tim.rate
        else if (d.natAbs : Int) ≤ st then s.tim.target else if d < 0 then s.tim.rate - st else s.tim.rate + st
      let u : Int := 32 * s.clk.now
      let off := ((s.tim.offset : Int) + u * s.tim.rate / 2 ^ 48 - u * r / 2 ^ 48) % 2 ^ 96
      (s.modTim fun m => { m with rate := r, offset := off.toNat, updAt := some s.clk.now }).retimeBell

/-- TIM_CTRL_SET (R164). -/
def execTimCtrlSet (t : Nat) (v : Word) (s : State) : Host.Outcome State Fault Refusal :=
  act t s fun s => s.iff (s.up && bit v 0) (·.writeTimCtrl v)

/-- TIM_TARGET_WRITE (R161, R165): the write of TIM_TARGET_HI. -/
def execTimTargetWrite (t : Nat) (v : Word) (s : State) : Host.Outcome State Fault Refusal :=
  act t s fun s => s.iff s.up (·.writeTargetHi v)

/-- PTP_SOURCE_LOST (R167): 4 Sync intervals without a Sync, or the announce receipt timeout. -/
def execPtpSourceLost (t : Nat) (s : State) : Host.Outcome State Fault Refusal :=
  act t s fun s => s.iff (s.up && s.timSource = 0 && s.tim.ptpOk && s.ptpLost) State.sourceLost

/-- PPS_SOURCE_LOST (R167): 2.5 s without a rising edge. -/
def execPpsSourceLost (t : Nat) (s : State) : Host.Outcome State Fault Refusal :=
  act t s fun s =>
    s.iff (s.up && s.timSource = 1 && s.tim.ppsOk && s.ppsLost) State.sourceLost

/-- HOLDOVER_EXPIRED (R166). -/
def execHoldoverExpired (t : Nat) (s : State) : Host.Outcome State Fault Refusal :=
  act t s fun s =>
    match s.tim.quality, s.tim.holdSince with
    | 4, some c => s.iff (c + max 1 (s.rf .timCtrl 0 31 16) * 1000000000 ≤ s.clk.now) (·.setQuality 5)
    | _, _ => s

/-- PPS_OUT_RISE (R169): the first tick at or after a whole second. -/
def execPpsOutRise (t : Nat) (s : State) : Host.Outcome State Fault Refusal :=
  act t s fun s =>
    let on := (s.rb .timPpsCtrl 0 31 && (s.tim.quality = 3 || s.tim.quality = 4)) || s.rb .timPpsCtrl 0 30
    let c := s.clk.now
    if s.up && on && !s.tim.ppsPin && 0 < c && s.ppsSecond c != s.ppsSecond (c - 1) then
      s.modTim fun m =>
        { m with ppsPin := true, ppsSec := s.ppsSecond c, ppsFall := c + max 1 (s.rf .timPpsCtrl 0 23 16) * 1000000 }
    else s

/-- PPS_OUT_FALL (R169). -/
def execPpsOutFall (t : Nat) (s : State) : Host.Outcome State Fault Refusal :=
  act t s fun s => s.iff (s.tim.ppsPin && s.tim.ppsFall ≤ s.clk.now) (·.modTim fun m => { m with ppsPin := false })

/-- PPS_IN_EDGE (R166, R170): `edge` is the TIME edge at which the pin first reads 1. -/
def execPpsInEdge (t : Nat) (edge : Nat) (servo : Servo) (s : State) : Host.Outcome State Fault Refusal :=
  act t s fun s =>
    if !s.up then s
    else
      let s := s.modTim fun m => { m with ppsStamp := s.timeAt (edge + Config.ppsToStamp), lastPps := s.clk.now }
      if s.timSource = 1 then s.sourcePresent.servo servo else s

/-- BELL_FIRE (R185): the highest-ranked due entry fires; one per tick. -/
def execBellFire (t : Nat) (s : State) : Host.Outcome State Fault Refusal := act t s State.bellFire

/-- PHASE_STEP (R75): adds to the target, saturating. -/
def execPhaseStep (t : Nat) (s : State) : Host.Outcome State Fault Refusal :=
  act t s fun s => s.onFired 0x06 none fun x s =>
    s.stepPllTarget x.e.index (sx 32 x.e.arg)

/-- BELL_CANCEL (R183): removes every entry with the cookie; one of them that fires in this very tick fires first (R189). -/
def execBellCancel (t : Nat) (s : State) : Host.Outcome State Fault Refusal :=
  act t s fun s => s.onTurn 0 0x11 fun i k d s =>
    let s := s.iff ((s.bell.entries.head?.map fun e => e.cookie) = some d.arg) State.bellFire
    let n := (s.bell.entries.filter fun e => e.cookie = d.arg).length
    (s.modBell fun b => { b with entries := b.entries.filter fun e => e.cookie != d.arg }).ends i k 0 n

end Sys2Proof.Machine
end

