-- ==== Sys2Proof/Machine/Access.lean ====
section
/-! DEFINITION. BAR0 accesses (R6, R7, R80, R85, R102, R103, R131 to R133, R157): what a read returns and latches, what a write
does, and CONFIG_LOAD (R124, R125), which applies writes. -/

namespace Sys2Proof.Machine

/-! ### Windows (R85, R131) -/

/-- A window is decoded: it exists on the part, and before step 8 it is SYS or SEC (R85, R131). -/
def State.windowOpen (s : State) (u : Nat) : Bool :=
  s.released && (s.up || u = 1 || u = 3) && u != 0 && (u = 0x13 || unitOk s.var u)

/-- The register element at an offset that an access reaches: assigned, in an open window, not absent (R28, R131, R132). -/
def State.locate (s : State) (off : Nat) : Option (Reg × Nat × Nat) :=
  if !s.windowOpen (windowOf off).1 then none
  else match findReg off with
  | some (r, i, j) => if absentReg s.var r.row.absent i then none else some (r, i, j)
  | none => none

/-- Offset of the UNIT_ID register of a unit: the last word of its window (R131). -/
def unitIdAt (u : Nat) : Nat :=
  nth [0, 0xFFC, 0x1FFC, 0x2FFC, 0x3FFC, 0x5FFC, 0x7FFC, 0x9FFC, 0xAFFC, 0xBFFC, 0xCFFC, 0xFFFC, 0x23FFC, 0x24FFC, 0x25FFC, 0x26FFC,
    0x27FFC, 0x28FFC, 0x29FFC] u 0

/-- UNIT_ID of a unit (R131). -/
def unitId (u : Nat) : Word := word (u * 2 ^ 24 + 0x100)

/-- The gated block of a window (R66), 8 for none. -/
def gateOf (u : Nat) : Nat :=
  match u with
  | 11 | 0x13 => 0
  | 7 => 1
  | 6 | 13 => 2
  | 12 => 3
  | 9 | 10 => 4
  | 4 => 5
  | 18 => 6
  | 16 => 7
  | _ => 8

/-- An access passes the gate stage of its block (R65). -/
def State.passGate (s : State) (off : Nat) : State := s.openGate (gateOf (windowOf off).1)

/-! ### Reads (R6, R7, R163) -/

/-- The _HI register of a _LO register that together hold one value (R7; which registers are such pairs: DEDUCED, log entry 50). -/
def hiOf (r : Reg) : Option Reg :=
  match r with
  | .sysModeTimeLo => some .sysModeTimeHi
  | .secRecoveryAddrLo => some .secRecoveryAddrHi
  | .dqDbAddrLo => some .dqDbAddrHi
  | .dqShAddrLo => some .dqShAddrHi
  | .dqRingBaseLo => some .dqRingBaseHi
  | .dqRingDataLo => some .dqRingDataHi
  | .timCountLo => some .timCountHi
  | .timRateLo => some .timRateHi
  | .timTargetLo => some .timTargetHi
  | .ptpMacLo => some .ptpMacHi
  | .belMcastLo => some .belMcastHi
  | .lnkDrvLo => some .lnkDrvHi
  | .lnkReadyLo => some .lnkReadyHi
  | .lnkRetireInitLo => some .lnkRetireInitHi
  | .lnkRetiredLo => some .lnkRetiredHi
  | .milHoLo => some .milHoHi
  | .pairOffsetLo => some .pairOffsetHi
  | .capUnitBytesLo => some .capUnitBytesHi
  | .capTwLastLo => some .capTwLastHi
  | .safCellOkLo => some .safCellOkHi
  | .safGrantLo => some .safGrantHi
  | .safCellBaseLo => some .safCellBaseHi
  | .safPortsLo => some .safPortsHi
  | .safConsIdLo => some .safConsIdHi
  | .safProdIdLo => some .safProdIdHi
  | .bkSeqLo => some .bkSeqHi
  | _ => none

/-- The upper halves: what a read returns is what the last _LO read latched (R7); before any, 0 (DESIGN CHOICE, log entry 37). -/
def isHi (r : Reg) : Bool :=
  match r with
  | .sysModeTimeHi | .secRecoveryAddrHi | .dqDbAddrHi | .dqShAddrHi | .dqRingBaseHi | .dqRingDataHi | .timCountHi
  | .timRateHi | .timTargetHi | .ptpMacHi | .belMcastHi | .lnkDrvHi | .lnkReadyHi | .lnkRetireInitHi | .lnkRetiredHi
  | .milHoHi | .pairOffsetHi | .capUnitBytesHi | .capTwLastHi | .safCellOkHi | .safGrantHi | .safCellBaseHi
  | .safPortsHi | .safConsIdHi | .safProdIdHi | .bkSeqHi => true
  | _ => false

/-- Registers whose later words return what a read of word 0 latched (R163, R170). -/
def latchedWord (r : Reg) (i : Nat) : Bool :=
  match r with
  | .timNow | .timOffset | .timPpsIn => i != 0
  | _ => isHi r

/-- A latched word. -/
def State.latchAt (s : State) (off : Nat) : Word := tget (fun _ => 0) s.hiLatch off

/-- Latches a word. -/
def State.setLatch (s : State) (off : Nat) (v : Word) : State := { s with hiLatch := tput (fun _ => 0) s.hiLatch off v }

/-- What a read of an offset returns (R6, R7, R131, R132). -/
def State.view (s : State) (off : Nat) : Word :=
  match s.locate off with
  | some (r, i, j) =>
    if latchedWord r i then s.latchAt off
    else if r = .milData && i = 0 then nth s.milWords 0 0
    else s.live r i j
  | none =>
    let u := (windowOf off).1
    if s.windowOpen u && off = unitIdAt u then unitId u else 0

/-- Latches the current words 1 to n of a register array (R163, R170). -/
def State.latchWords (s : State) (r : Reg) (n : Nat) : State :=
  s.forAll (List.range n) fun k t => t.setLatch (r.addr (k + 1)) (s.live r (k + 1) 0)

/-- A read command returns a word. -/
def State.returns (s : State) (off : Nat) : State := { s with rdata := s.view off }

/-- A read of a _LO register (R7, R133); an offset that no access reaches returns 0 (R132). -/
def State.readLo (s : State) (off : Nat) : State :=
  match s.locate off with
  | some (r, i, j) =>
    match hiOf r with
    | some h => ((s.passGate off).setLatch (h.addr i j) (s.live h i j)).returns off
    | none => if r = .capAtrgLo then (s.passGate off).returns off else s
  | none => s.returns off

/-- LO_READ (R7): an offset that names a register other than a _LO one is no such read and changes nothing. -/
def execLoRead (t : Nat) (off : Nat) (s : State) : Host.Outcome State Fault Refusal :=
  act t s fun s => s.readLo off

/-- A read of word 0 of a latched array of n + 1 words. -/
def State.readArray (s : State) (r : Reg) (n : Nat) : State :=
  (s.iff (s.locate r.addr).isSome (·.latchWords r n)).returns r.addr

/-- TIM_NOW_READ (R163): word 0 of TIM_NOW or of TIM_OFFSET. -/
def execTimNowRead (t : Nat) (off : Nat) (s : State) : Host.Outcome State Fault Refusal :=
  act t s fun s =>
    if off = Reg.timNow.addr then s.readArray .timNow 3
    else if off = Reg.timOffset.addr then s.readArray .timOffset 2
    else s

/-- TIM_PPS_IN_READ (R170). -/
def execTimPpsInRead (t : Nat) (s : State) : Host.Outcome State Fault Refusal :=
  act t s fun s => s.readArray .timPpsIn 3

/-- ADC_RESULT_READ (R310): ADC_RESULT_TS takes bits [31:0] of the result's sample instant. -/
def execAdcResultRead (t : Nat) (n : Nat) (s : State) : Host.Outcome State Fault Refusal :=
  actIn 4 t s fun s => s.iff (n < 32) fun s =>
    (s.iff (s.locate (Reg.adcResult.addr n)).isSome (·.setLatch Reg.adcResultTs.addr (word (s.ares n).inst))).returns
      (Reg.adcResult.addr n)

/-! ### Writes -/

/-- Limits a field of a word to a range. -/
def clampFld (w : Word) (hi lo a b : Nat) : Word := wfld w hi lo (max a (min b (fld w hi lo)))

/-- The word with its out-of-range fields at the limit that is stored (R157, R269, R342, R459). -/
def clamped (r : Reg) (v : Word) : Word :=
  match r with
  | .dqPoll => clampFld v 19 0 250 1000000
  | .milTlmCtrl => clampFld (clampFld v 27 20 0 128) 19 0 10 1000000
  | .legBlank01 | .legBlank23 => clampFld (clampFld v 25 16 25 625) 9 0 25 625
  | .safTest => clampFld (clampFld v 31 16 10 60000) 4 0 5 30
  | _ => v

/-- Word 12 of the arrays that hold one bit per pair has only pairs 384 to 399 (R258, R280). -/
def lastWordMask (r : Reg) (i : Nat) : Nat :=
  match r with
  | .gcePre => if i = 12 then 0xFFFF else 0xFFFFFFFF
  | _ => 0xFFFFFFFF

/-- Sets the RW fields, and the RWL fields while SYS_LOCK is clear, and clears the W1C bits written 1 (R6, R102). -/
def State.plainWrite (s : State) (r : Reg) (i j : Nat) (v : Word) : State :=
  let w := r.row
  let m := word ((if w.rwl != 0 && s.rwlShut then w.rw else w.rw ||| w.rwl) &&& lastWordMask r i)
  let s := s.iff (m != 0) (·.setReg r i ((s.reg r i j &&& ~~~m) ||| (clamped r v &&& m)) j)
  s.iff (w.w1c != 0) (·.clearOnes r i j v)

/-- Both positions of a pair are set in a mask of 16 (R382). -/
def pairConflict (v : Word) : Bool := (List.range 8).any fun k => bit v (2 * k) && bit v (2 * k + 1)

/-- A write is declared ignored by a rule beside R132's list (R22, R157, R164, R165, R310, R382, R416, R435, R436). -/
def State.ignores (s : State) (r : Reg) (i : Nat) (v : Word) : Bool :=
  match r with
  | .sysLeads => s.mode.mode != 1
  | .sysModeReq => !s.up
  | .dqDbAddrLo | .dqDbAddrHi | .dqShAddrLo | .dqShAddrHi => s.rb .dqPoll 0 31
  | .dqRingBaseLo | .dqRingBaseHi | .dqRingDataLo | .dqRingDataHi | .dqRingDataSize => (s.ring i).state != 0
  | .timTargetLo => !s.rb .timCtrl 0 6
  | .lnkSafeMask | .lnkBypassCfg => pairConflict v
  | .adcSeq => s.rb .adcCtrl 0 31
  | .capUnitCfg | .capUnitRegion | .capUnitPre | .capUnitPost | .capUnitStream => (s.unit i).st = 1 || (s.unit i).st = 2
  | .capSeqSt => s.rb .capSeqCtrl i 31
  | .pmuCh | .pmuLen | .pmuCoef => s.pmu.running
  | _ => false

/-- A word of the safety parameter block (R469). -/
def inSafBlock (off : Nat) : Bool := 0x25100 ≤ off && off < 0x25300

/-- What follows a plain write: a changed word of the safety block clears the confirmation (R470), a detector or trigger that
is off loses its history (R431), a group that is not enabled any more runs out (R231, R233), PAIR_CTRL.enable (R392), CLK_GATE_FORCE opens gates (R68), an unmasked vector sends (R156), a
poll enable clears its skip count (R157). -/
def State.afterWrite (s : State) (was : Word) (r : Reg) (i j : Nat) : State :=
  let now := s.reg r i j
  let s := s.iff (inSafBlock (r.addr i j) && now != was) State.unconfirm
  match r with
  | .pairCtrl => s.iff (bit now 31 != bit was 31) (·.pairEnable (bit now 31))
  | .gceGrpPeriod => s.iff (bit was 31 && !bit now 31) (·.groupOff i)
  | .clkGateForce => s.forAll (bitsOf 8 now.toNat) fun b s => s.openGate b
  | .msixTable => s.sendHeld
  | .dqPoll => s.iff (bit now 31 && !bit was 31) (·.setRf .dqStatus 0 31 16 0)
  | .capAtrgCfg => s.iff (!bit now 31) (·.modAtrg i fun _ => Atrg.reset)
  | .capTwCfg => s.iff (!bit now 31) (·.twReset i)
  | .legPortTemp => s.iff (s.portBandOf i now != s.portBandOf i was) (·.fwPush i false)
  | _ => s

/-- A write to register element [i][j] (R6 and the rules of the register's unit). -/
def State.regWrite (s : State) (r : Reg) (i j : Nat) (v : Word) : State :=
  match r with
  | .sysReset => s.writeSysReset v
  | .sysLock => s.writeLock v
  | .sysModeReq => s.writeModeReq v
  | .pllBOut => s.writePllOut i v
  | .secRecoveryCtrl => s.startRecovery v
  | .dqRingCfg => s.writeRingCfg i v
  | .timCtrl => s.writeTimCtrl v
  | .timTargetHi => s.writeTargetHi v
  | .lnkCtrl => s.lnkCtrlWrite i v
  | .lnkHlth => s.writeHlth i v
  | .gceCtrl | .gcePairDyn | .gceForce | .gceDirect => s.planWrite (r.addr i j) (v &&& word r.row.rw)
  | .gceForceCtrl => s.planWrite (r.addr) v
  | .legOutEn => s.writeOutEn v
  | .legBootEmpty => s.writeBootEmpty i v
  | .adcCtrl => s.writeAdcCtrl v
  | .adcInjCtrl => s.iff (bit v 0) State.injWrite
  | .adcCalCtrl => s.writeAdcCal v
  | .adcCalOfs => s.writeAdcOfs i j v
  | .adcCalGain => s.writeAdcGain i j v
  | .fadCalCtrl => s.writeFadCal v
  | .fadCalOfs => s.writeFadOfs i j v
  | .fadCalGain => s.writeFadGain i j v
  | .capSeqCtrl => s.writeSeqCtrl i v
  | .pmuCtrl => s.writePmuCtrl v
  | .safConfirm => s.safConfirm v
  | .safOutStatus => s.safOutClear v
  | .wchCtrl => s.writeWchCtrl v
  | .wchStatus => s.writeWchStatus v
  | .wchErrn => s.writeErrn v
  | .wchLatch => s.writeLatch i v
  | .wchForce => s.writeForce i v
  | _ => (s.plainWrite r i j v).afterWrite (s.reg r i j) r i j

/-- A BAR0 write with its byte enables (R131 to R133), of a request that PCI Express passed to the function (DESIGN CHOICE, log entry
137). -/
def State.bar0Write (s : State) (off : Nat) (v : Word) (be : Nat) : State :=
  match s.locate off with
  | some (r, i, j) =>
    let s := s.passGate off
    if be % 16 != 15 || s.ignores r i v then s else s.regWrite r i j v
  | none => s

/-- REGISTER_WRITE (R6). -/
def execRegisterWrite (t : Nat) (off : Nat) (v : Word) (be : Nat) (s : State) : Host.Outcome State Fault Refusal :=
  act t s fun s => s.bar0Write off v be

/-! ### CONFIG_LOAD (R124, R125) -/

/-- Entries of a configuration payload: offset and value. -/
def configEntries (b : Bytes) : List (Nat × Word) :=
  (List.range (lef b 8 4)).map fun k => (lef b (0x40 + 8 * k) 4, word (lef b (0x44 + 8 * k) 4))

/-- The fields of R124, for a payload of n bytes. -/
def configForm (b : Bytes) (n : Nat) : Bool :=
  let k := lef b 8 4
  lef b 0 4 = 0x47464E43 && lef b 4 2 = 1 && lef b 6 2 = 0 && (1 ≤ k && k ≤ 32768) && allZero (slice b 0x0C 52) &&
  n = (64 + 8 * k + 63) / 64 * 64 && allZero (slice b (64 + 8 * k) (n - (64 + 8 * k)))

/-- The offset lies in a window that exists (R131). -/
def State.inWindow (s : State) (off : Nat) : Bool :=
  let u := (windowOf off).1
  u != 0 && (u = 0x13 || unitOk s.var u) && !(u = 6 && off < 0x7800 && !s.hasPort ((off - 0x6000) / 0x80))

/-- An entry fails (R125). -/
def State.entryFails (s : State) (e : Nat × Word) : Bool :=
  let (off, v) := e
  let u := (windowOf off).1
  off % 4 != 0 || !s.inWindow off || u = 4 || u = 0x13 || off = Reg.sysLock.addr || off = Reg.safConfirm.addr ||
  (match findReg off with
  | some (r, _, _) => (v &&& word r.row.w1s) != 0
  | none => false)

/-- CONFIG_LOAD (R125): ring 0, in Configure with SYS_LOCK clear; of several statuses 0x02 comes first, then 0x05, then 0x03 (DESIGN
CHOICE, log entry 139). -/
def execConfigLoad (t : Nat) (buf : Option Bytes) (s : State) : Host.Outcome State Fault Refusal :=
  act t s fun s => s.iff s.up (·.onTurn 0 0x22 fun i k d s =>
    if s.mode.mode != 1 || s.locked then s.ends i k 2
    else if d.len < 0x2000 then s.ends i k 5
    else s.readBuf i k d.buf 0x2000 buf fun b s =>
      let n := hdrLength b
      let c := s.imageCheck b 3 "OCR-CONF"
      let p := slice b 0x2000 n
      if d.len < 0x2000 + n then s.ends i k 5
      else
        let s := s.hostRead (d.buf + 0x2000) n
        if c != 0 then s.ends i k 3 c
        else if !configForm p n then s.ends i k 6
        else
        let l := configEntries p
        match (List.range l.length).find? fun x => s.entryFails (nth l x (0, 0)) with
        | some x => s.ends i k 4 x
        | none =>
          let s := l.foldl (fun (s : State) e => s.bar0Write e.1 e.2 15) s
          (s.measure 5 (hdrHash b)).ends i k 0 l.length)

end Sys2Proof.Machine
end

