-- ==== Sys2Proof/Machine/PciConfig.lean ====
section
/-! DEFINITION. The PCIe function as the host sees it (R85, R91, R128): the configuration it presents and its answer to configuration
requests.  What the host programs there is in `HostIf` and comes with BUS_MASTER_ENABLE. -/

namespace Sys2Proof.Machine

/-- The answer to a configuration request. -/
inductive ConfigAnswer where
  /-- the endpoint does not answer: it has not started (before step 5) -/
  | silent
  /-- Configuration Request Retry Status -/
  | retry
  | normal
  deriving DecidableEq, Repr

/-- The endpoint trains its link from step 5 on, and goes on with it when boot has failed (R84, R91); when training ends depends on the
host (DEDUCED, log entry 140). -/
def State.linkTrains (s : State) : Bool := s.released

/-- R85, R91: retry status from step 5 to step 8, normal from step 8 and from the moment boot has failed. -/
def State.configAnswer (s : State) : ConfigAnswer :=
  match s.clk.phase with
  | .booting => .retry
  | .bootFailed | .running => .normal
  | _ => .silent

/-- The configuration of the function (R128). -/
structure PciFunction where
  vendor : Nat
  device : Nat
  subVendor : Nat
  subsystem : Nat
  revision : Nat
  classCode : Nat
  /-- type 0, one function -/
  headerType : Nat
  /-- BAR0: bytes, 64-bit, prefetchable; no other base address register, no expansion ROM -/
  bar0Bytes : Nat
  bar064 : Bool
  bar0Prefetch : Bool
  interruptPin : Nat
  msi : Bool
  /-- MSI-X: vectors, BAR0 offsets of table and PBA -/
  vectors : Nat
  tableAt : Nat
  pbaAt : Nat
  d3hot : Bool
  noSoftReset : Bool
  pme : Bool
  /-- link: highest rate in units of 2.5 GT/s doubled per step (1: 2.5, 4: 16 GT/s) and lanes, both trained down to 1 -/
  rate : Nat
  lanes : Nat
  /-- ASPM, L1 PM substates, LTR -/
  linkPower : Bool
  payloadMax : Nat
  tags : Nat
  flr : Bool
  /-- Completion Timeout Ranges Supported: A to C -/
  timeoutRanges : Nat
  aer : Bool
  /-- Device Serial Number -/
  serial : Nat
  /-- SR-IOV, ATS, PASID -/
  virtual : Bool
  deriving DecidableEq, Repr

/-- Device ID and Subsystem ID of a variant (R128). -/
def Variant.deviceId : Variant → Nat
  | .f48 => 0x0481
  | .c48 => 0x0482
  | .s48 => 0x0483
  | .f24 => 0x0241

/-- What the function presents (R128): fixed in the boot ROM but for the variant and the OTP serial number of R93; the revision is that
of the first silicon. -/
def State.pci (s : State) : PciFunction :=
  { vendor := 0x1FC3, device := s.var.deviceId, subVendor := 0x1FC3, subsystem := s.var.deviceId, revision := 1,
    classCode := 0x118000, headerType := 0, bar0Bytes := 2 ^ 18, bar064 := true, bar0Prefetch := false, interruptPin := 0,
    msi := false, vectors := 17, tableAt := 0x3800, pbaAt := 0x3C00, d3hot := true, noSoftReset := true, pme := false, rate := 4,
    lanes := 4, linkPower := false, payloadMax := 512, tags := 64, flr := true, timeoutRanges := 7, aer := true,
    serial := s.sec.otpSerial, virtual := false }

/-- A configuration write sets what the host programs in the command register, the power state, MSI-X and the device control register:
Memory Space Enable, Bus Master Enable, D3hot, MSI-X Enable and Function Mask, and Max_Payload_Size and Max_Read_Request_Size as
their codes for 128 × 2^code bytes (R91, R128 to R130).  Memory requests held before stay held to the next poll instant (R130). -/
def HostIf.configWrite (h : HostIf) (mse bme d3 msixEn msixMask : Bool) (mps mrrs : Nat) : HostIf :=
  { h with mse := mse, bme := bme, d3 := d3, msixEn := msixEn, msixMask := msixMask, mps := 128 * 2 ^ mps, mrrs := 128 * 2 ^ mrrs,
           stalled := h.stalled || !bme || d3 }

end Sys2Proof.Machine
end

