-- ==== Sys2Proof/Machine/BootSteps.lean ====
section
/-! DEFINITION. Supplies, AON island, references, PLL-A and PLL-B, gates, resets and boot: the commands (R34 to R97, R105, R499). -/

namespace Sys2Proof.Machine

/-- POWER_ON_RESET (R40): everything, the retained registers too; the last-word store when VDD_AON fell. -/
def execPowerOnReset (t : Nat) (aonFell : Bool) (s : State) : Host.Outcome State Fault Refusal :=
  actAon t s fun s =>
    let s := s.resetLogic fun _ => false
    let s := s.iff aonFell (·.modBook fun b => { b with lw := [], lwNext := 0 })
    s.modClk fun c =>
      { c with phase := .powerOnReset, xtal := Proving.reset, refIn := Proving.reset, root := Proving.reset,
               tenMHz := false, rootRun := 0, attempts := 0, lockDead := false, pllALock := false, hold := false,
               clockLoss := false, source := none, sel := none, tune := none, aonErrN := false }

/-- POWER_ON_RESET_RELEASE (R39): proving starts. -/
def execPowerOnResetRelease (t : Nat) (s : State) : Host.Outcome State Fault Refusal :=
  actAon t s fun s => s.iff (s.clk.phase = .powerOnReset) (·.modClk fun c => { c with phase := .proving })

/-- SAFETY_SUPPLY_FAULT (R41): the outputs open at once and the fault is reported. -/
def execSafetySupplyFault (t : Nat) (s : State) : Host.Outcome State Fault Refusal :=
  actAon t s fun s =>
    let s := (s.modClk fun c => { c with supplySaf := false }).modSaf fun f => { f with closed := 0, outOn := 0 }
    s.iffReleased (·.raise 453 0xFFFF)

/-- SAFETY_SUPPLY_RECOVERY (R454). -/
def execSafetySupplyRecovery (t : Nat) (s : State) : Host.Outcome State Fault Refusal :=
  actAon t s fun s => s.modClk fun c => { c with supplySaf := true }

/-- MEMORY_SUPPLY_LOSS (R41). -/
def execMemorySupplyLoss (t : Nat) (s : State) : Host.Outcome State Fault Refusal :=
  actAon t s fun s =>
    (s.modClk fun c => { c with supplyMem := false }).iffReleased (·.raise 578 0xFFFF)

/-- MEMORY_SUPPLY_RECOVERY (R480): the cause of mem_supply ends. -/
def execMemorySupplyRecovery (t : Nat) (s : State) : Host.Outcome State Fault Refusal :=
  actAon t s fun s => s.modClk fun c => { c with supplyMem := true }

/-- FAST_CONVERTER_SUPPLY_LOSS (R41). -/
def execFastConverterSupplyLoss (t : Nat) (s : State) : Host.Outcome State Fault Refusal :=
  actAon t s fun s =>
    (s.modClk fun c => { c with supplyFad := false }).iffReleased (·.raise 323 0xFFFF)

/-- FAST_CONVERTER_SUPPLY_RECOVERY (R480): the cause of fad_supply ends. -/
def execFastConverterSupplyRecovery (t : Nat) (s : State) : Host.Outcome State Fault Refusal :=
  actAon t s fun s => s.modClk fun c => { c with supplyFad := true }

/-- AON_TEMPERATURE (R52). -/
def execAonTemperature (t : Nat) (degC : Int) (s : State) : Host.Outcome State Fault Refusal :=
  actAon t s fun s => s.modClk fun c => { c with aonTemp := degC }

/-- PROVING_WINDOW (R49, R50, R53): source 0 XTAL, 1 REF_IN, 2 the root divided by 160. -/
def execProvingWindow (t src : Nat) (w : WindowIn) (s : State) : Host.Outcome State Fault Refusal :=
  actAon t s fun s =>
    if 2 < src || s.clk.phase = .powerOnReset then s
    else if src = 2 then s.rootWindow w.count w.aon
    else
      let pass := in25 w.count || (src = 1 && in10 w.count)
      if pass then
        let p := (s.clk.src src).window true w.count
        let s := s.modClk fun c => c.setSrc src p
        let s := s.iff (src = 1) (·.modClk fun c => { c with tenMHz := in10 w.count })
        s.iff (p.proven && s.clk.hold && s.clk.source = some src) (·.modClk (·.leaveHold src))
      else s.goMissing src

/-- SOURCE_MISSING (R50, R56). -/
def execSourceMissing (t : Nat) (src : Nat) (s : State) : Host.Outcome State Fault Refusal :=
  actAon t s fun s =>
    if 2 < src || s.clk.phase = .powerOnReset then s
    else if src = 2 then
      s.modClk fun c => { c with root := { c.root with passes := 0, proven := false, missing := true }, rootRun := 0 }
    else s.goMissing src

/-- NO_REFERENCE (R51): 20 ms of proving gave no source. -/
def execNoReference (t : Nat) (aon : Nat) (s : State) : Host.Outcome State Fault Refusal :=
  actAon t s fun s =>
    if s.clk.phase = .proving && !s.clk.xtal.proven && !s.clk.refIn.proven then
      (s.lastWord 72 aon 0).modClk fun c => { c with phase := .noReference, aonErrN := true }
    else s

/-- LOCK_ATTEMPT (R51, R52, R72): `found` is the band a search finds.  A new attempt follows one whose PLL locked but whose root
failed its windows; the source is chosen as at power-on (DESIGN CHOICE, log entry 111). -/
def execLockAttempt (t : Nat) (found : Nat) (s : State) : Host.Outcome State Fault Refusal :=
  actAon t s fun s =>
    match s.startSource with
    | none => s
    | some src =>
      if s.clk.phase = .proving || s.clk.phase = .noReference || s.clk.phase = .locking ||
          (s.clk.phase = .locked && s.clk.root.missing) then
        if 3 ≤ s.clk.attempts then
          s.modClk fun c => { c with phase := .lockFailed, lockDead := true, pllALock := false, aonErrN := true }
        else s.modClk fun c =>
          { c with phase := .locking, attempts := c.attempts + 1, source := some src, sel := some src, hold := false,
                   tune := none, pllALock := false,
                   band := s.tableBand.getD (found % 64), bandSrc := s.tableBand.isSome }
      else s

/-- PLL_A_LOCK (R53): locked, the root not yet released; its two windows are counted from here (DESIGN CHOICE, log entry 112). -/
def execPllALock (t : Nat) (s : State) : Host.Outcome State Fault Refusal :=
  actAon t s fun s =>
    s.iff (s.clk.phase = .locking && s.clk.attempts != 0) (·.modClk fun c =>
      { c with phase := .locked, pllALock := true, root := Proving.reset, rootRun := 0 })

/-- ROOT_RELEASE (R54, R71): two windows of the root have passed; the boot ROM starts, after a loss of lock through a device reset
with the clock cause. -/
def execRootRelease (t : Nat) (s : State) : Host.Outcome State Fault Refusal :=
  actAon t s fun s =>
    s.iff (s.clk.phase = .locked && 2 ≤ s.clk.rootRun) fun s =>
      let s := s.iff s.clk.clockLoss (·.deviceReset 1)
      (s.modClk fun c => { c with attempts := 0, clockLoss := false }).enterBoot

/-- LOSS_OF_LOCK (R53): the phase error of a locked PLL-A outside hold has exceeded 4 ns. -/
def execLossOfLock (t : Nat) (aon : Nat) (s : State) : Host.Outcome State Fault Refusal :=
  actAon t s fun s => s.iff (s.clk.pllALock && !s.clk.hold) (·.loseLock aon)

/-- REFERENCE_SELECT (R57, R58, R60): the selector changes to a proven source, after a loss with auto or back to the
preferred source with revert. -/
def execReferenceSelect (t : Nat) (src : Nat) (s : State) : Host.Outcome State Fault Refusal :=
  actAon t s fun s =>
    let lost := s.clk.hold && s.rb .clkRefCtrl 0 1
    let back := s.rb .clkRefCtrl 0 2 && s.rf .clkRefCtrl 0 0 0 = src
    if src ≤ 1 && s.clk.pllALock && s.clk.source != some src && (s.clk.src src).proven && (lost || back) then
      (s.modClk (·.leaveHold src)).iffReleased fun s =>
        let s := s.raise 66 0xFFFF
        if s.tim.quality = 3 then s.setQuality 2 else if s.tim.quality = 4 then s.setQuality 5 else s
    else s

/-- VTUNE_MARGIN (R54). -/
def execVtuneMargin (t : Nat) (high : Bool) (s : State) : Host.Outcome State Fault Refusal :=
  act t s fun s =>
    s.iff (!s.clk.hold) fun s =>
      let rose := high && !s.clk.vtune
      (s.modClk fun c => { c with vtune := high }).iff rose (·.raise 67 0xFFFF)

/-- GATE_CLOSE (R66 to R68): after 16 cycles of the block's clock without work or access, and not while CLK_GATE_FORCE holds it. -/
def execGateClose (t : Nat) (block : Nat) (s : State) : Host.Outcome State Fault Refusal :=
  act t s fun s =>
    s.iff (block < 8 && !s.rb .clkGateForce 0 block && !s.blockBusy block &&
        nget s.clk.idleFrom block + 16 * gateClock block ≤ s.clk.now) (·.modClk fun c =>
      { c with gateShut := nset c.gateShut block true })

/-- PLL_B_ENABLE (R73): the write that sets enable. -/
def execPllBEnable (t : Nat) (j : Nat) (v : Word) (s : State) : Host.Outcome State Fault Refusal :=
  act t s fun s => s.iff (s.up && j < 3 && bit v 31) (·.writePllOut j v)

/-- PLL_B_DISABLE (R77): the write that clears enable. -/
def execPllBDisable (t : Nat) (j : Nat) (v : Word) (s : State) : Host.Outcome State Fault Refusal :=
  act t s fun s => s.iff (s.up && j < 3 && !bit v 31) (·.writePllOut j v)

/-- PLL_B_TARGET_WRITE (R75). -/
def execPllBTargetWrite (t : Nat) (j : Nat) (v : Word) (s : State) : Host.Outcome State Fault Refusal :=
  act t s fun s => s.iff (s.up && j < 3) (·.writePllTarget j v)

/-- PLL_B_UNLOCK (R77): every output stops low; one raise per enabled output, or one without an index. -/
def execPllBUnlock (t : Nat) (s : State) : Host.Outcome State Fault Refusal :=
  act t s fun s =>
    s.iff (s.released && s.clk.pllBLock) fun s =>
      let s := s.modClk fun c => { c with pllBLock := false }
      let on := (List.range 3).filter fun j => s.rb .pllBOut j 31
      let s := s.forAll (List.range 3) fun j s => s.modOut j fun o => { o with running := false }
      if on.isEmpty then s.raise 68 0xFFFF else s.forAll on fun j s => s.raise 68 j

/-- PLL_B_RELOCK (R77): enabled outputs restart at their target phase. -/
def execPllBRelock (t : Nat) (s : State) : Host.Outcome State Fault Refusal :=
  act t s fun s =>
    s.iff (s.released && !s.clk.pllBLock) fun s =>
      let s := s.modClk fun c => { c with pllBLock := true }
      s.forAll (List.range 3) fun j s =>
        s.iff (s.rb .pllBOut j 31) fun s =>
          (s.modOut j fun o => { o with phase := sx 32 (s.reg .pllBTarget j).toNat }).startOut j

/-- FLASH_HEADER_READ (R88, R89): both headers are read; the higher version is read first, slot A on a tie. -/
def execFlashHeaderRead (t : Nat) (hdrA hdrB : Bytes) (s : State) : Host.Outcome State Fault Refusal :=
  act t s fun s =>
    if s.clk.phase = .booting && s.sec.slots.isEmpty then
      let a := s.slotInfo hdrA
      let b := s.slotInfo hdrB
      let s := s.modSec fun x => { x with slots := [(0, a), (1, b)] }
      let s := (s.slotCheck 0 a.check).slotCheck 1 b.check
      if a.check = 0 && (b.check != 0 || b.version ≤ a.version) then s.readSlot 0
      else if b.check = 0 then s.readSlot 1
      else s.failBoot
    else s

/-- PAYLOAD_READ (R89). -/
def execPayloadRead (t : Nat) (payload : Bytes) (s : State) : Host.Outcome State Fault Refusal :=
  act t s fun s =>
    match s.clk.phase, s.sec.reading with
    | .booting, some i =>
      let x := s.slot i
      if payload.length = x.length && hash64 payload = x.hash then
        (s.measure 3 x.hash).startFirmware (i = 1) false x.version
      else
        let s := (s.slotCheck i 7).modSec fun y => { y with slots := y.slots.map fun e => if e.1 = i then (i, { x with check := 7 }) else e }
        if (s.slot (1 - i)).check = 0 then s.readSlot (1 - i) else s.failBoot
    | _, _ => s

/-- SEC_RECOVERY_START (R92). -/
def execSecRecoveryStart (t : Nat) (v : Word) (s : State) : Host.Outcome State Fault Refusal :=
  act t s fun s => s.startRecovery v

/-- RECOVERY_FETCH_DONE (R92, R96): with bus mastering the reads end, without data or with the SEC_RECOVERY_LEN bytes of the image,
which is checked as a flash slot. -/
def execRecoveryFetchDone (t : Nat) (image : Option Bytes) (s : State) : Host.Outcome State Fault Refusal :=
  act t s fun s =>
    if !(s.clk.phase = .bootFailed && s.sec.recovering && s.host.bme && !s.host.d3) then s
    else
      let n := s.sec.recoverLen
      match image with
      | none => (s.modSec fun x => { x with recovering := false }).setRf .secRecoveryCtrl 0 7 4 8
      | some b => s.iff (b.length = n) fun s =>
        let s := s.modSec fun x => { x with recovering := false }
        let x := s.slotInfo b
        if x.check != 0 then s.setRf .secRecoveryCtrl 0 7 4 x.check
        else
          let s := s.measure 2 x.hdrHash
          if hash64 (slice b 0x2000 x.length) != x.hash || b.length < 0x2000 + x.length then s.setRf .secRecoveryCtrl 0 7 4 7
          else (s.measure 3 x.hash).startFirmware false true x.version

/-- SYS_RESET (R105). -/
def execSysReset (t : Nat) (v : Word) (s : State) : Host.Outcome State Fault Refusal :=
  act t s fun s => s.iffReleased (·.writeSysReset v)

/-- MANAGEMENT_WATCHDOG (R82). -/
def execManagementWatchdog (t : Nat) (s : State) : Host.Outcome State Fault Refusal :=
  act t s fun s => s.iffReleased (·.softReset 4)

/-- HOST_LINK_RESET (R81, R83): the endpoint, the rings and the DQ registers; nothing else. -/
def execHostLinkReset (t : Nat) (s : State) : Host.Outcome State Fault Refusal :=
  act t s fun s =>
    s.iffReleased fun s =>
      let s := { s.dropActs with host := HostIf.reset }
      let s := { s with regs := s.regs.filter fun e => !dqWindow e.1 }
      (s.setRb .sysResetCause 0 5 true).raise 32 0xFFFF

/-- BUS_MASTER_ENABLE (R85, R91, R128 to R130): the host writes the configuration space; a request that is answered with retry status
has no effect, nor has a payload code above the 512 bytes supported or a read request code above 5. -/
def execBusMasterEnable (t : Nat) (c : ConfigIn) (z : SizesIn) (s : State) : Host.Outcome State Fault Refusal :=
  act t s fun s =>
    s.iff (s.configAnswer = .normal && z.mps ≤ 2 && z.mrrs ≤ 5) (·.modHostIf fun h => h.configWrite c.mse c.bme c.d3 c.msixEn c.msixMask z.mps z.mrrs)

/-- THERMAL_SHUTDOWN (R499). -/
def execThermalShutdown (t : Nat) (aon : Nat) (s : State) : Host.Outcome State Fault Refusal :=
  actAon t s fun s =>
    s.iff (s.clk.phase != .powerOnReset && s.clk.phase != .thermalShutdown) fun s =>
      let s := s.lastWord 548 aon 0
      let lock := s.clk.pllALock
      (s.resetLogic retained).modClk fun c =>
        { c with phase := .thermalShutdown, pllALock := lock, shdn := true, aonErrN := true }

/-- THERMAL_RESTART (R499): the device reset that follows; with PLL-A locked it starts at step 4, else at step 3. -/
def execThermalRestart (t : Nat) (s : State) : Host.Outcome State Fault Refusal :=
  actAon t s fun s =>
    s.iff (s.clk.phase = .thermalShutdown) fun s =>
      let s := s.deviceReset 2
      if s.clk.lockDead then s.modClk fun c => { c with phase := .lockFailed }
      else if s.clk.pllALock && 2 ≤ s.clk.rootRun then s.enterBoot
      else if s.clk.pllALock then s.modClk fun c => { c with phase := .locked }
      else s.modClk fun c => { c with phase := .locking }

end Sys2Proof.Machine
end

