-- ==== Sys2Proof/Machine/CaptureSteps.lean ====
section
/-! DEFINITION. Capture: the commands. -/

namespace Sys2Proof.Machine

/-- ARM (R417, R425). -/
def execArm (t : Nat) (s : State) : Host.Outcome State Fault Refusal :=
  actIn 3 t s fun s => s.onCap 1 fun i k _ u s =>
    let (c, s) := s.capArm u
    s.ends i k c

/-- FORCE (R418, R425). -/
def execForce (t : Nat) (s : State) : Host.Outcome State Fault Refusal :=
  actIn 3 t s fun s => s.onCap 2 fun i k _ u s =>
    let x := s.unit u
    let now := coreCycle s.clk.now
    let ok := (x.st = 1 && coreCycle x.armAt != now) || (x.st = 2 && x.trigCyc = now)
    (s.capTrigger u (coreCycle s.clk.now) 0xFE 0).ends i k (if ok then 0 else 2)

/-- ABORT (R425). -/
def execAbort (t : Nat) (s : State) : Host.Outcome State Fault Refusal :=
  actIn 3 t s fun s => s.onCap 3 fun i k _ u s => (s.capAbort u).ends i k 0

/-- COPY_OUT (R426): with `sent` none the transfer goes out to its end; else that many bytes more go out, and then it fails (`failed`)
or goes on with the next command.  On a ring that left Running it ends at its next write request (R151).  `ce` and `ue` are the
memory errors found on the way (R409). -/
def execCopyOut (t : Nat) (c : CopyIn) (s : State) : Host.Outcome State Fault Refusal :=
  actIn 3 t s fun s => s.onCap 4 fun i k d u s =>
    if (s.unit u).st != 3 then s.ends i k 2
    else if d.arg2 % 64 != 0 then s.ends i k 0x84
    else if !s.canDma then s
    else
      let m := nget (s.ring i).moved k
      let b := (slice (if s.cap.eccOn then s.readRecord u c.ue else s.recordBytes u) d.arg2 d.len).drop m
      if (s.ring i).state != 1 then s.ends i k 0x82 0 m
      else
        let n := min (c.sent.getD b.length) b.length
        let s := s.iff s.cap.eccOn (·.memErrors c.ce (c.ue.filter fun e => e.1 < (s.unit u).chunks.length && readsChunk (d.arg2 + m) n e.1))
        let s := s.hostWrite (d.buf + m) (b.take n)
        if c.sent.isNone then s.ends i k 0 (128 + 64 * (s.unit u).chunks.length) (m + n)
        else if c.failed then s.ends i k 0x81 0 (m + n)
        else s.modRing i fun r => { r with moved := nput r.moved k (m + n) }

/-- RELEASE (R425). -/
def execRelease (t : Nat) (s : State) : Host.Outcome State Fault Refusal :=
  actIn 3 t s fun s => s.onCap 5 fun i k _ u s =>
    if (s.unit u).st != 3 then s.ends i k 2
    else (s.modUnit u fun x => { CapUnit.reset with queue := x.queue }).ends i k 0

/-- RECORD_END (R420): the first core cycle in which every watermark has passed the record's end. -/
def execRecordEnd (t : Nat) (u : Nat) (s : State) : Host.Outcome State Fault Refusal :=
  actIn 3 t s fun s => s.iff (u < 8 && s.capDue u) (·.capEnd u false false)

/-- CAPTURE_ARM (R428): a refused arm is counted. -/
def execCaptureArm (t : Nat) (s : State) : Host.Outcome State Fault Refusal :=
  actIn 3 t s fun s => s.onFired 0x04 none fun x s =>
    s.forAll (bellUnits x.e.index) fun u s =>
      let (c, s) := s.capArm u
      s.iff (c != 0) (·.bump .capUnitStatus u 15 8)

/-- CAPTURE_FORCE (R428): T is the entry's local count. -/
def execCaptureForce (t : Nat) (s : State) : Host.Outcome State Fault Refusal :=
  actIn 3 t s fun s => s.onFired 0x05 none fun x s =>
    s.forAll (bellUnits x.e.index) fun u s => s.capTrigger u x.e.lc 0xFD 1

end Sys2Proof.Machine
end

