-- ==== Sys2Proof/Machine/PhasorSteps.lean ====
section
/-! DEFINITION. Phasors: the commands. -/

namespace Sys2Proof.Machine

/-- PMU_ENABLE (R436). -/
def execPmuEnable (t : Nat) (v : Word) (s : State) : Host.Outcome State Fault Refusal :=
  actIn 3 t s fun s => s.iff (s.up && s.hasCap && bit v 31) (·.writePmuCtrl v)

/-- PMU_STOP (R436). -/
def execPmuStop (t : Nat) (v : Word) (s : State) : Host.Outcome State Fault Refusal :=
  actIn 3 t s fun s => s.iff (s.up && s.hasCap && !bit v 31) (·.writePmuCtrl v)

/-- PHASOR_REPORT (R438, R439, R441): the next report, once its last sample has come and its path has run. -/
def execPhasorReport (t : Nat) (s : State) : Host.Outcome State Fault Refusal :=
  actIn 3 t s fun s =>
    let g := s.taskGroup s.pmuTask
    let l := s.pmuTaps
    let h := (l - 1) / 2
    let p := s.grpPeriod g
    let chs := s.pmuChannels
    let c := s.pmuCentre
    if !(s.pmu.running && s.pmu.live && 2 ≤ s.mode.mode && (s.grp g).running &&
        c + h * p + Config.precisionToBank + 2 * (24 + chs.length * (l + 4)) ≤ s.clk.now) then s
    else
      let rate := s.pmuRate
      let sums := chs.map fun ch =>
        let x := s.pmuSum ch c p h
        (ch, sat32 (asr (x.1 + 2 ^ 20) 21), sat32 (asr (x.2.1 + 2 ^ 20) 21), x.2.2.1, x.2.2.2)
      let fch := s.rf .pmuCtrl 0 19 16
      let f := (sums.find? fun x => x.1 = fch).getD (0, 0, 0, false, false)
      let psi := if f.2.1 = 0 && f.2.2.1 = 0 then s.pmu.psi else angle32 f.2.1 f.2.2.1 % 2 ^ 32
      let d := sx 32 ((psi - s.pmu.psi) % 2 ^ 32).toNat
      let fd := if s.pmu.reports = 0 then 0 else roundDev d rate
      let n := s.pmu.reports
      let dev := if n < 2 then 0 else fd + asr (fd - s.pmu.fd) 1
      let rocof := if n < 2 then 0 else (fd - s.pmu.fd) * rate
      let num := s.pmu.sec * rate + s.pmu.m
      let delta := roundDiv (pmuDist (s.timeAt c) s.pmu.sec s.pmu.m rate) (32 * rate)
      let flags := s.tim.quality + 8 * b2n (sums.any fun x => x.2.2.2.1) + 16 * b2n (sums.any fun x => x.2.2.2.2) +
        32 * b2n (s.rb .pmuCtrl 0 29) + 64 * b2n (s.rb .pmuCtrl 0 30)
      let b := tsBytes (num * 32000000000 / rate) ++ le 2 s.pmu.m ++ le 1 chs.length ++ le 1 flags ++ le 4 (cx 32 delta) ++
        le 4 (cx 32 dev) ++ le 4 (cx 32 rocof) ++ sums.flatMap fun x => le 4 (cx 32 x.2.1) ++ le 4 (cx 32 x.2.2.1)
      let s := s.emitRecord 3 0x01 b
      s.modPmu fun p =>
        { p with psi := psi, fd := fd, reports := p.reports + 1, sec := (num + 1) / rate, m := (num + 1) % rate }

end Sys2Proof.Machine
end

