-- ==== Sys2Proof/Machine/SecuritySteps.lean ====
section
/-! DEFINITION. Security ring commands (R93 to R102). -/

namespace Sys2Proof.Machine

/-- READ_IDENTITY (R98). -/
def execReadIdentity (t : Nat) (s : State) : Host.Outcome State Fault Refusal :=
  act t s fun s => s.onSec 1 fun i k d s =>
    if d.len < 5269 then s.ends i k 1 5312
    else
      let b := le 8 s.sec.otpSerial ++ Config.mldsaPk (shake256 32 (ascii "OCR-IDENT-1" ++ s.sec.otpSeed)) ++ s.sec.cert
      s.bufEnd i k d.buf b ⟨0, 0, 5269⟩

/-- ATTEST (R99, R100). -/
def execAttest (t : Nat) (buf : Option Bytes) (s : State) : Host.Outcome State Fault Refusal :=
  act t s fun s => s.onSec 2 fun i k d s =>
    if d.len < 4608 then s.ends i k 1 4608
    else s.readBuf i k d.buf 32 buf fun n s =>
      let b := s.attestBody n
      let r := b ++ Config.mldsaSign (shake256 32 (ascii "OCR-IDENT-1" ++ s.sec.otpSeed)) (ascii "OCR-ATTS") b
      s.bufEnd i k d.buf r ⟨0, 0, b.length + 3309⟩

/-- COMMIT_VERSION (R98): raises the rollback counter, saturating at 64. -/
def execCommitVersion (t : Nat) (burnt : Bool) (s : State) : Host.Outcome State Fault Refusal :=
  act t s fun s => s.onSec 3 fun i k _ s =>
    if !s.otpOpen then s.ends i k 2
    else if !burnt then s.ends i k 3
    else (s.modSec fun x => { x with rollback := min 64 (max x.rollback x.runVersion) }).ends i k 0

/-- The write of slot j goes on or ends: its valid fuse is set where the data read back right (R95). -/
def State.slotWritten (s : State) (i k j : Nat) (w : KeyWrite) : State :=
  match w with
  | .underWay => s
  | .readBack good =>
    let s := s.modSec fun x => { x with writing := none }
    if good then (s.modSec fun x => { x with ownerValid := nset x.ownerValid j true }).ends i k 0 else s.ends i k 3

/-- PROGRAM_OWNER_KEY (R95, R98): the write of the first unused slot begins (`underWay`) and later ends, or it runs in one go; a slot
whose write a reset interrupts, or whose readback differs, stays used without its valid fuse. -/
def execProgramOwnerKey (t : Nat) (buf : Option Bytes) (w : KeyWrite) (s : State) : Host.Outcome State Fault Refusal :=
  act t s fun s => s.onSec 4 fun i k d s =>
    match s.sec.writing with
    | some j => s.slotWritten i k j w
    | none =>
      if !s.otpOpen then s.ends i k 2
      else if d.len < 64 then s.ends i k 1 64
      else s.readBuf i k d.buf 64 buf fun b s =>
        match (List.range 4).find? fun j => !nbit s.sec.ownerUsed j && !nbit s.sec.ownerValid j with
        | none => s.ends i k 3
        | some j =>
          let s := s.modSec fun x =>
            { x with ownerUsed := nset x.ownerUsed j true, ownerHash := tput (fun _ => []) x.ownerHash j (b.take 64), writing := some j }
          s.slotWritten i k j w

/-- REVOKE_OWNER_KEY (R98): the slot number is the first word of the buffer (DEDUCED, log entry 23). -/
def execRevokeOwnerKey (t : Nat) (buf : Option Bytes) (burnt : Bool) (s : State) : Host.Outcome State Fault Refusal :=
  act t s fun s => s.onSec 5 fun i k d s =>
    if !s.otpOpen then s.ends i k 2
    else if d.len < 64 then s.ends i k 1 64
    else s.readBuf i k d.buf 64 buf fun b s =>
      let j := lef b 0 4
      if 3 < j then s.ends i k 4
      else if !burnt then s.ends i k 3
      else (s.modSec fun x => { x with ownerRevoked := nset x.ownerRevoked j true }).ends i k 0

/-- SET_OWNER_ENFORCE (R98). -/
def execSetOwnerEnforce (t : Nat) (burnt : Bool) (s : State) : Host.Outcome State Fault Refusal :=
  act t s fun s => s.onSec 6 fun i k _ s =>
    if !s.otpOpen then s.ends i k 2
    else if !burnt then s.ends i k 3
    else (s.modSec fun x => { x with ownerEnforce := true }).ends i k 0

end Sys2Proof.Machine
end

