-- ==== Sys2Proof/Machine/StationSteps.lean ====
section
/-! DEFINITION. Station ports: the commands. -/

namespace Sys2Proof.Machine

/-- BELL_ADD (R183, R190). -/
def execBellAdd (t : Nat) (buf : Option Bytes) (s : State) : Host.Outcome State Fault Refusal :=
  act t s fun s => s.onTurn 0 0x10 fun i k d s =>
    if d.len < 32 * d.arg then s.ends i k 6
    else s.readBuf i k d.buf (32 * d.arg) buf fun b s =>
      let (c, n, out, s) := s.bellAddGo 0 [] (entries32 b d.arg)
      (s.sendBells out.length out).ends i k c n

/-- EMIT_FRAME (R193). -/
def execEmitFrame (t : Nat) (s : State) : Host.Outcome State Fault Refusal :=
  act t s fun s => s.onFired 0x0A none fun x s =>
    s.sendTemplate x.e.index (32 * ((x.fireAt : Int) + sx 32 x.e.arg))

/-- STATION_FRAME (R171 to R178, R192): `sIn` and `sOut` are the passages at the deserializer and the serializer
(R174), `sOut` of the forwarded frame on the other port or of a peer delay response on this one. -/
def execStationFrame (t : Nat) (port sIn sOut : Nat) (frame : Bytes) (est : Option Int) (steer : Steer) (s : State) :
    Host.Outcome State Fault Refusal :=
  act t s fun s =>
    if !s.staUp port then s
    else
      let tags := beVal (slice frame 12 2) = 0x8100 && beVal (slice frame 16 2) = 0x8100
      if frame.length < 64 || 2004 < frame.length || tags then s.staDrop port
      else
        let body := frame.take (frame.length - 4)
        if lef frame (frame.length - 4) 4 = crc32 body then
          let back := frame.take 6 = be 6 0x0180C200000E
          s.switchFrame port (s.rxStamp port sIn) (s.txStamp (if back then port else 1 - port) sOut) frame ⟨est, steer.target, steer.setTo⟩
        else
          let dst := frame.take 6
          let stays := dst = s.ownMac || slice frame 6 6 = s.ownMac || dst = be 6 0x0180C200000E
          (s.staDrop port).iff (!stays) (·.staQueue (1 - port) (s.staHigh frame) (body ++ le 4 (crc32 body ^^^ 0xFFFFFFFF)))

/-- PDELAY_REQ_SEND (R177): `t1` is the frame's passage at the serializer; an exchange still open has failed. -/
def execPdelayReqSend (t : Nat) (port t1 : Nat) (s : State) : Host.Outcome State Fault Refusal :=
  act t s fun s =>
    if !s.staUp port then s
    else
      let q := (s.sta port).reqSeq
      let s := s.iff (s.sta port).req.isSome (·.modSta port fun p => { p with exchanges := 0, pdelayOk := false })
      let s := s.modSta port fun p => { p with req := some (q, (s.txStamp port t1).toNat), reqSeq := (q + 1) % 65536 }
      s.staQueue port true (s.pdelayFrame port 2 q 0 (zeros 10))

/-- STATION_LINK_DOWN (R370). -/
def execStationLinkDown (t : Nat) (port : Nat) (s : State) : Host.Outcome State Fault Refusal :=
  act t s fun s => s.iff (port < 2 && s.up) (·.staFall port)

/-- STATION_LINK_UP (R370): on an enabled port. -/
def execStationLinkUp (t : Nat) (port : Nat) (s : State) : Host.Outcome State Fault Refusal :=
  act t s fun s => s.iff (port < 2 && s.up && s.rb .ptpPortCtrl port 31) (·.modSta port fun p =>
    { p with link := true, restarting := false })

/-- TRANSMIT (R179): `sOut` is the frame's passage at the serializer (R174). -/
def execTransmit (t : Nat) (buf : Option Bytes) (sOut : Nat) (s : State) : Host.Outcome State Fault Refusal :=
  act t s fun s => s.onTurn 8 1 fun i k d s =>
    let n := d.arg % 2048
    let mask := d.arg / 2 ^ 16 % 4
    let stamp := nbit d.arg 18
    let room := if stamp then n + 16 else n
    if n < 60 || 2000 < n || mask = 0 || (stamp && mask = 3) then s.ends i k 2
    else if d.len < room then s.ends i k 1 ((room + 63) / 64 * 64)
    else if !((nbit mask 0 && s.staUp 0) || (nbit mask 1 && s.staUp 1)) then s.ends i k 3
    else s.readBuf i k d.buf n buf fun b s =>
      let f := b.take n
      let high := s.staHigh f
      let s := s.iff (nbit mask 0) (·.staQueue 0 high (withFcs f))
      let s := s.iff (nbit mask 1) (·.staQueue 1 high (withFcs f))
      if stamp then s.bufEnd i k (d.buf + d.len - 16) (tsBytes (s.tim.timeOf (s.txStamp (mask - 1) sOut))) ⟨0, 0, 16⟩
      else s.ends i k 0

end Sys2Proof.Machine
end

