-- ==== Sys2Proof/Machine/TriggerSteps.lean ====
section
/-! DEFINITION. Triggers and sequences: the commands. -/

namespace Sys2Proof.Machine

/-- CAP_SEQ_ENABLE (R433). -/
def execCapSeqEnable (t : Nat) (j : Nat) (v : Word) (s : State) : Host.Outcome State Fault Refusal :=
  actIn 3 t s fun s => s.iff (s.up && s.hasCap && j < 4 && bit v 31) (·.writeSeqCtrl j v)

/-- SEQUENCE_TIMER (R433): the watermarks pass the timer of a state. -/
def execSequenceTimer (t : Nat) (j : Nat) (s : State) : Host.Outcome State Fault Refusal :=
  actIn 3 t s fun s => s.iff (s.hasCap && j < 4) (·.seqGo j)

end Sys2Proof.Machine
end

