-- ==== Sys2Proof/Machine/Dispatch.lean ====
section
/-! DEFINITION. The dispatch: one arm per command of the table. -/

namespace Sys2Proof.Machine

def exec (i : Instr) (s : State) : Host.Outcome State Fault Refusal :=
  match i with
  | .powerOnReset t aonFell => Sys2Proof.Machine.execPowerOnReset t aonFell s
  | .powerOnResetRelease t => Sys2Proof.Machine.execPowerOnResetRelease t s
  | .safetySupplyFault t => Sys2Proof.Machine.execSafetySupplyFault t s
  | .safetySupplyRecovery t => Sys2Proof.Machine.execSafetySupplyRecovery t s
  | .memorySupplyLoss t => Sys2Proof.Machine.execMemorySupplyLoss t s
  | .fastConverterSupplyLoss t => Sys2Proof.Machine.execFastConverterSupplyLoss t s
  | .aonTemperature t degC => Sys2Proof.Machine.execAonTemperature t degC s
  | .provingWindow t src w => Sys2Proof.Machine.execProvingWindow t src w s
  | .sourceMissing t src => Sys2Proof.Machine.execSourceMissing t src s
  | .noReference t aon => Sys2Proof.Machine.execNoReference t aon s
  | .lockAttempt t found => Sys2Proof.Machine.execLockAttempt t found s
  | .pllALock t => Sys2Proof.Machine.execPllALock t s
  | .rootRelease t => Sys2Proof.Machine.execRootRelease t s
  | .lossOfLock t aon => Sys2Proof.Machine.execLossOfLock t aon s
  | .referenceSelect t src => Sys2Proof.Machine.execReferenceSelect t src s
  | .gateClose t block => Sys2Proof.Machine.execGateClose t block s
  | .pllBEnable t j v => Sys2Proof.Machine.execPllBEnable t j v s
  | .pllBDisable t j v => Sys2Proof.Machine.execPllBDisable t j v s
  | .pllBTargetWrite t j v => Sys2Proof.Machine.execPllBTargetWrite t j v s
  | .pllBUnlock t => Sys2Proof.Machine.execPllBUnlock t s
  | .pllBRelock t => Sys2Proof.Machine.execPllBRelock t s
  | .flashHeaderRead t hdrA hdrB => Sys2Proof.Machine.execFlashHeaderRead t hdrA hdrB s
  | .payloadRead t payload => Sys2Proof.Machine.execPayloadRead t payload s
  | .secRecoveryStart t v => Sys2Proof.Machine.execSecRecoveryStart t v s
  | .recoveryFetchDone t image => Sys2Proof.Machine.execRecoveryFetchDone t image s
  | .sysReset t v => Sys2Proof.Machine.execSysReset t v s
  | .managementWatchdog t => Sys2Proof.Machine.execManagementWatchdog t s
  | .hostLinkReset t => Sys2Proof.Machine.execHostLinkReset t s
  | .busMasterEnable t c z => Sys2Proof.Machine.execBusMasterEnable t c z s
  | .sysLock t v => Sys2Proof.Machine.execSysLock t v s
  | .readIdentity t => Sys2Proof.Machine.execReadIdentity t s
  | .attest t buf => Sys2Proof.Machine.execAttest t buf s
  | .commitVersion t burnt => Sys2Proof.Machine.execCommitVersion t burnt s
  | .programOwnerKey t buf w => Sys2Proof.Machine.execProgramOwnerKey t buf w s
  | .revokeOwnerKey t buf burnt => Sys2Proof.Machine.execRevokeOwnerKey t buf burnt s
  | .setOwnerEnforce t burnt => Sys2Proof.Machine.execSetOwnerEnforce t burnt s
  | .sysModeReq t v => Sys2Proof.Machine.execSysModeReq t v s
  | .setMode t => Sys2Proof.Machine.execSetMode t s
  | .configLoad t buf => Sys2Proof.Machine.execConfigLoad t buf s
  | .nop t => Sys2Proof.Machine.execNop t s
  | .poll t => Sys2Proof.Machine.execPoll t s
  | .doorbellRead t slots => Sys2Proof.Machine.execDoorbellRead t slots s
  | .descriptorFetch t ring descs => Sys2Proof.Machine.execDescriptorFetch t ring descs s
  | .ringEnable t ring v => Sys2Proof.Machine.execRingEnable t ring v s
  | .ringStop t ring v => Sys2Proof.Machine.execRingStop t ring v s
  | .setpoint t => Sys2Proof.Machine.execSetpoint t s
  | .registerWrite t off v be => Sys2Proof.Machine.execRegisterWrite t off v be s
  | .loRead t off => Sys2Proof.Machine.execLoRead t off s
  | .timNowRead t off => Sys2Proof.Machine.execTimNowRead t off s
  | .timPpsInRead t => Sys2Proof.Machine.execTimPpsInRead t s
  | .adcResultRead t n => Sys2Proof.Machine.execAdcResultRead t n s
  | .milDataRead t => Sys2Proof.Machine.execMilDataRead t s
  | .updateInstant t => Sys2Proof.Machine.execUpdateInstant t s
  | .timCtrlSet t v => Sys2Proof.Machine.execTimCtrlSet t v s
  | .timTargetWrite t v => Sys2Proof.Machine.execTimTargetWrite t v s
  | .ptpSourceLost t => Sys2Proof.Machine.execPtpSourceLost t s
  | .ppsSourceLost t => Sys2Proof.Machine.execPpsSourceLost t s
  | .holdoverExpired t => Sys2Proof.Machine.execHoldoverExpired t s
  | .ppsOutRise t => Sys2Proof.Machine.execPpsOutRise t s
  | .ppsOutFall t => Sys2Proof.Machine.execPpsOutFall t s
  | .ppsInEdge t edge servo => Sys2Proof.Machine.execPpsInEdge t edge servo s
  | .stationFrame t port sIn sOut frame est steer => Sys2Proof.Machine.execStationFrame t port sIn sOut frame est steer s
  | .pdelayReqSend t port t1 => Sys2Proof.Machine.execPdelayReqSend t port t1 s
  | .stationLinkDown t port => Sys2Proof.Machine.execStationLinkDown t port s
  | .transmit t buf sOut => Sys2Proof.Machine.execTransmit t buf sOut s
  | .bellAdd t buf => Sys2Proof.Machine.execBellAdd t buf s
  | .bellCancel t => Sys2Proof.Machine.execBellCancel t s
  | .bellFire t => Sys2Proof.Machine.execBellFire t s
  | .writeInput t => Sys2Proof.Machine.execWriteInput t s
  | .writeParam t => Sys2Proof.Machine.execWriteParam t s
  | .changeMode t => Sys2Proof.Machine.execChangeMode t s
  | .captureArm t => Sys2Proof.Machine.execCaptureArm t s
  | .captureForce t => Sys2Proof.Machine.execCaptureForce t s
  | .phaseStep t => Sys2Proof.Machine.execPhaseStep t s
  | .calibrateLink t => Sys2Proof.Machine.execCalibrateLink t s
  | .calibrateDelayLine t => Sys2Proof.Machine.execCalibrateDelayLine t s
  | .calibrateAdc t => Sys2Proof.Machine.execCalibrateAdc t s
  | .calibrateFad t => Sys2Proof.Machine.execCalibrateFad t s
  | .cellRetire t => Sys2Proof.Machine.execCellRetire t s
  | .cellReturn t => Sys2Proof.Machine.execCellReturn t s
  | .emitFrame t => Sys2Proof.Machine.execEmitFrame t s
  | .downstreamFrame t p => Sys2Proof.Machine.execDownstreamFrame t p s
  | .upstreamFrame t p rx frame clean => Sys2Proof.Machine.execUpstreamFrame t p rx frame clean s
  | .upstreamSlotClose t p n => Sys2Proof.Machine.execUpstreamSlotClose t p n s
  | .cellLos t p => Sys2Proof.Machine.execCellLos t p s
  | .advanceStep t p n => Sys2Proof.Machine.execAdvanceStep t p n s
  | .lnkEnable t p v => Sys2Proof.Machine.execLnkEnable t p v s
  | .lnkDisable t p v => Sys2Proof.Machine.execLnkDisable t p v s
  | .lnkRetrain t p v => Sys2Proof.Machine.execLnkRetrain t p v s
  | .lnkGenerationWrite t p v => Sys2Proof.Machine.execLnkGenerationWrite t p v s
  | .mailbox t buf => Sys2Proof.Machine.execMailbox t buf s
  | .paramRead t buf => Sys2Proof.Machine.execParamRead t buf s
  | .paramWrite t buf => Sys2Proof.Machine.execParamWrite t buf s
  | .inputClose t g task => Sys2Proof.Machine.execInputClose t g task s
  | .taskStep t task => Sys2Proof.Machine.execTaskStep t task s
  | .taskCommit t task => Sys2Proof.Machine.execTaskCommit t task s
  | .telemetryRecord t => Sys2Proof.Machine.execTelemetryRecord t s
  | .millLoad t buf => Sys2Proof.Machine.execMillLoad t buf s
  | .millParam t => Sys2Proof.Machine.execMillParam t s
  | .freezePoint t g => Sys2Proof.Machine.execFreezePoint t g s
  | .groupBoundary t g hits => Sys2Proof.Machine.execGroupBoundary t g hits s
  | .gceForceCommit t v => Sys2Proof.Machine.execGceForceCommit t v s
  | .delayLineUpdate t n hits => Sys2Proof.Machine.execDelayLineUpdate t n hits s
  | .localEdge t n => Sys2Proof.Machine.execLocalEdge t n s
  | .legOutEnWrite t v => Sys2Proof.Machine.execLegOutEnWrite t v s
  | .legRdyLoss t p => Sys2Proof.Machine.execLegRdyLoss t p s
  | .blankingEnd t n => Sys2Proof.Machine.execBlankingEnd t n s
  | .desaturation t p => Sys2Proof.Machine.execDesaturation t p s
  | .softOffHoldEnd t n => Sys2Proof.Machine.execSoftOffHoldEnd t n s
  | .legBootEmptyClear t w v => Sys2Proof.Machine.execLegBootEmptyClear t w v s
  | .boundarySpan t c g => Sys2Proof.Machine.execBoundarySpan t c g s
  | .precisionResult t c raw => Sys2Proof.Machine.execPrecisionResult t c raw s
  | .precisionLinkError t c => Sys2Proof.Machine.execPrecisionLinkError t c s
  | .sequencerStep t => Sys2Proof.Machine.execSequencerStep t s
  | .adcSeqStart t v => Sys2Proof.Machine.execAdcSeqStart t v s
  | .adcSeqStop t v => Sys2Proof.Machine.execAdcSeqStop t v s
  | .adcInjStart t v => Sys2Proof.Machine.execAdcInjStart t v s
  | .injectedSpan t => Sys2Proof.Machine.execInjectedSpan t s
  | .adcCalStart t v => Sys2Proof.Machine.execAdcCalStart t v s
  | .calibrationStart t c raw => Sys2Proof.Machine.execCalibrationStart t c raw s
  | .calibrationEnd t c => Sys2Proof.Machine.execCalibrationEnd t c s
  | .adcCalGainWrite t c b v => Sys2Proof.Machine.execAdcCalGainWrite t c b v s
  | .fastSample t n at_ raw => Sys2Proof.Machine.execFastSample t n at_ raw s
  | .fastLinkError t n at_ => Sys2Proof.Machine.execFastLinkError t n at_ s
  | .fadCalStart t v => Sys2Proof.Machine.execFadCalStart t v s
  | .fastCalibrationEnd t n => Sys2Proof.Machine.execFastCalibrationEnd t n s
  | .fadCalGainWrite t c b v => Sys2Proof.Machine.execFadCalGainWrite t c b v s
  | .healthLeak t kind => Sys2Proof.Machine.execHealthLeak t kind s
  | .bypassDeadline t p => Sys2Proof.Machine.execBypassDeadline t p s
  | .returnTimeout t p => Sys2Proof.Machine.execReturnTimeout t p s
  | .retire t => Sys2Proof.Machine.execRetire t s
  | .returnCh t => Sys2Proof.Machine.execReturnCh t s
  | .lnkHlthClear t h v => Sys2Proof.Machine.execLnkHlthClear t h v s
  | .pairFrame t rx frame clean => Sys2Proof.Machine.execPairFrame t rx frame clean s
  | .peerLost t => Sys2Proof.Machine.execPeerLost t s
  | .hashTimeout t g b => Sys2Proof.Machine.execHashTimeout t g b s
  | .verifyDone t reproduced => Sys2Proof.Machine.execVerifyDone t reproduced s
  | .verifyTimeout t => Sys2Proof.Machine.execVerifyTimeout t s
  | .pairHandover t => Sys2Proof.Machine.execPairHandover t s
  | .offerLapse t => Sys2Proof.Machine.execOfferLapse t s
  | .handoverSwitch t => Sys2Proof.Machine.execHandoverSwitch t s
  | .failedEntry t => Sys2Proof.Machine.execFailedEntry t s
  | .followTimeout t => Sys2Proof.Machine.execFollowTimeout t s
  | .arm t => Sys2Proof.Machine.execArm t s
  | .force t => Sys2Proof.Machine.execForce t s
  | .abort t => Sys2Proof.Machine.execAbort t s
  | .copyOut t c => Sys2Proof.Machine.execCopyOut t c s
  | .release t => Sys2Proof.Machine.execRelease t s
  | .recordEnd t u => Sys2Proof.Machine.execRecordEnd t u s
  | .sequenceTimer t j => Sys2Proof.Machine.execSequenceTimer t j s
  | .capSeqEnable t j v => Sys2Proof.Machine.execCapSeqEnable t j v s
  | .pmuEnable t v => Sys2Proof.Machine.execPmuEnable t v s
  | .pmuStop t v => Sys2Proof.Machine.execPmuStop t v s
  | .phasorReport t => Sys2Proof.Machine.execPhasorReport t s
  | .safetyCycle t inp => Sys2Proof.Machine.execSafetyCycle t inp s
  | .channelASilence t => Sys2Proof.Machine.execChannelASilence t s
  | .consumerWatchdog t c => Sys2Proof.Machine.execConsumerWatchdog t c s
  | .outputTest t j low h l => Sys2Proof.Machine.execOutputTest t j low h l s
  | .safOutClear t v => Sys2Proof.Machine.execSafOutClear t v s
  | .safConfirm t v => Sys2Proof.Machine.execSafConfirm t v s
  | .safetyPdu t buf => Sys2Proof.Machine.execSafetyPdu t buf s
  | .wchLatchClear t w v => Sys2Proof.Machine.execWchLatchClear t w v s
  | .wchForce t w v => Sys2Proof.Machine.execWchForce t w v s
  | .wchIrqClear t v => Sys2Proof.Machine.execWchIrqClear t v s
  | .wchIrqEnable t v => Sys2Proof.Machine.execWchIrqEnable t v s
  | .wchErrnLevel t v => Sys2Proof.Machine.execWchErrnLevel t v s
  | .errnPulseEnd t => Sys2Proof.Machine.execErrnPulseEnd t s
  | .bookWrite t first second => Sys2Proof.Machine.execBookWrite t first second s
  | .bookScan t bad linkRun => Sys2Proof.Machine.execBookScan t bad linkRun s
  | .rateRefill t => Sys2Proof.Machine.execRateRefill t s
  | .bookRead t => Sys2Proof.Machine.execBookRead t s
  | .bookClear t pass => Sys2Proof.Machine.execBookClear t pass s
  | .temperatureResult t k m => Sys2Proof.Machine.execTemperatureResult t k m s
  | .thermalShutdown t aon => Sys2Proof.Machine.execThermalShutdown t aon s
  | .thermalRestart t => Sys2Proof.Machine.execThermalRestart t s
  | .vtuneMargin t high => Sys2Proof.Machine.execVtuneMargin t high s
  | .stationLinkUp t port => Sys2Proof.Machine.execStationLinkUp t port s
  | .pairLaneAlignmentLoss t lane => Sys2Proof.Machine.execPairLaneAlignmentLoss t lane s
  | .legRdyReturn t p => Sys2Proof.Machine.execLegRdyReturn t p s
  | .memorySupplyRecovery t => Sys2Proof.Machine.execMemorySupplyRecovery t s
  | .fastConverterSupplyRecovery t => Sys2Proof.Machine.execFastConverterSupplyRecovery t s
  | .calibrationSpan t c raw => Sys2Proof.Machine.execCalibrationSpan t c raw s
  | .pairFrameForm t => Sys2Proof.Machine.execPairFrameForm t s

end Sys2Proof.Machine
end

