-- ==== Sys2Proof/Safety.lean ====
section
/-! DEFINITION. What counts as a safe run: what no command may undo (OTP fuses, R93, R95, R98), and what every state keeps
(no local leg with both switches on, R261; the canonical form of written host memory). -/

namespace Sys2Proof.Machine

/-- Nothing programmed into the OTP of `a` is gone or changed in `b` (R93, R95, R98). -/
structure Sec.Burns (a b : Sec) : Prop where
  seed : b.otpSeed = a.otpSeed
  serial : b.otpSerial = a.otpSerial
  cert : b.cert = a.cert
  vendor : b.vendorHash = a.vendorHash ∧ b.vendorValid = a.vendorValid ∧ b.vendorRevoked = a.vendorRevoked
  rollback : min 64 a.rollback ≤ b.rollback
  valid : ∀ j, nbit a.ownerValid j = true → nbit b.ownerValid j = true
  revoked : ∀ j, nbit a.ownerRevoked j = true → nbit b.ownerRevoked j = true
  used : ∀ j, nbit a.ownerUsed j = true → nbit b.ownerUsed j = true
  hash : ∀ j, nbit a.ownerUsed j = true → tget (fun _ => []) b.ownerHash j = tget (fun _ => []) a.ownerHash j
  enforce : a.ownerEnforce = true → b.ownerEnforce = true

/-- The high-side and the low-side switch of no local leg are both on (R261). -/
def State.LegsSafe (s : State) : Prop := ∀ n, ¬((s.sw (2 * n)).on = true ∧ (s.sw (2 * n + 1)).on = true)

/-- The written host memory is in its canonical form. -/
def State.MemoryWf (s : State) : Prop := Memory.wf s.hostMem = true

/-- What the effect of every command leaves so: the queue and the part are untouched, fuses only burn, free values are never taken
twice, and the two invariants hold after it if they hold before it. -/
structure State.Keeps (s t : State) : Prop where
  queue : t.pending = s.pending
  part : t.clk.variant = s.clk.variant
  fuses : s.sec.Burns t.sec
  fresh : s.freeCtr ≤ t.freeCtr
  memory : s.MemoryWf → t.MemoryWf
  legs : s.LegsSafe → t.LegsSafe

/-- A command completes with a state that `s` is kept by. -/
def State.Completes (s : State) (o : Host.Outcome State Fault Refusal) : Prop := ∃ t, o = .next t ∧ s.Keeps t

/-- Registers in which a raise only sets bits: the unit event registers of R473 and WCH_LATCH. -/
def eventOff (off : Nat) : Bool :=
  [Reg.clkEvent, .lnkHlthEvent, .gceEvent, .legEvent, .adcEvent, .fadEvent, .milEvent, .capEvent, .pairEvent, .safEvent, .bkEvent,
    .thmEvent, .memStatus].any (fun r => r.addr = off) || (0x26040 ≤ off && off < 0x2608C)

/-- Registers that a raise changes besides: counts (R475) and WCH_STATUS (R477, R478). -/
def watchOff (off : Nat) : Bool := Reg.wchStatus.addr = off || (0x26400 ≤ off && off < 0x26D80)

/-- Registers that a raise may change besides with its actions: what its Safe stop writes (R115, R116, R121). -/
def raiseOff (off : Nat) : Bool :=
  [Reg.sysModeResult, .sysModeTimeLo, .sysModeTimeHi, .sysHandoverStatus].any (fun r => r.addr = off) || watchOff off

/-- The state of the host link: bus mastering, the power state, whether memory requests are held, an outstanding doorbell read. -/
def HostIf.link (h : HostIf) : Bool × Bool × Bool × Bool := (h.bme, h.d3, h.stalled, h.polling)

/-- What raising sources, retiring channels and a Safe stop leave alone, whatever their severity: the clocks, the OTP, the time, the
Bell, the fast converters' and the Mill's state, the phasor estimator, the host link, the safety channels but for the trip state they see, the
sensors, the queue, and every register that is neither an event register nor one a raise or a Safe stop writes; bits of event and
latch registers are only set. -/
structure State.Quiet (s t : State) : Prop where
  clk : t.clk = s.clk
  sec : t.sec = s.sec
  tim : t.tim = s.tim
  bell : t.bell = s.bell
  fad : t.fad = s.fad
  mill : t.mill = s.mill
  pmu : t.pmu = s.pmu
  thm : t.thm = s.thm
  saf : t.saf = { s.saf with trip := t.saf.trip, tripPrev := t.saf.tripPrev, tripFrom := t.saf.tripFrom }
  pending : t.pending = s.pending
  link : t.host.link = s.host.link
  rdata : t.rdata = s.rdata
  latches : t.hiLatch = s.hiLatch
  regs : ∀ off, eventOff off = false → raiseOff off = false → tget regReset t.regs off = tget regReset s.regs off
  bits : ∀ off b, eventOff off = true → bit (tget regReset s.regs off) b = true → bit (tget regReset t.regs off) b = true

/-- What the end of a step leaves alone besides: sending the records of a step's raises changes neither the mode nor any port, channel,
gate, leg, converter, capture unit or the pair. -/
structure State.Calm (s t : State) : Prop extends State.Quiet s t where
  mode : t.mode = s.mode
  ports : t.ports = s.ports
  health : t.health = s.health
  gce : t.gce = s.gce
  leg : t.leg = s.leg
  adc : t.adc = s.adc
  cap : t.cap = s.cap
  pair : t.pair = s.pair
  words : ∀ off, eventOff off = false → watchOff off = false → tget regReset t.regs off = tget regReset s.regs off

/-- Between commands no record waits to be sent and the safety channels were told of the present trip state. -/
def State.Settled (s : State) : Prop := s.wch.batch = [] ∧ s.saf.trip = s.tripLatched

/-- Command `c` completes in state `s`, and the state after it has `P`. -/
def State.Runs (s : State) (c : Instr) (P : State → Prop) : Prop := ∃ t, exec c s = .next t ∧ P t

end Sys2Proof.Machine
end

