-- ==== Sys2Proof/Certificates/Slice0/Obligations.lean ====
section
/-! DEFINITION. The obligations: what the provers are asked to show of the model, family by family. -/

open Sys2Proof Sys2Proof.Machine

/-! ### The machine as a whole

In every statement about a command, `x` is the state as the command finds it: the state `s` with its time advanced to the command's
instant `t`, what the device does by itself on the way included (`State.advanceTo`; log entries 1 and 2), and, for a command that is a
request to a gated block, with that block's clock gate opened by the request (`State.openGate`, R65, R67). Conditions and frames are
about `x`. -/

/-- A step takes the command at the front of the queue and runs it with the queue's rest. -/
def Obligations.StepRunsFront : Prop :=
  ∀ (s : State) (c : Instr) (rest : List Instr), s.pending = c :: rest → step s = exec c { s with pending := rest }

/-- On an empty queue, while the root is released and the mode controller has nothing due by then, one tick of the local count passes and
only the PLL-B outputs' edges move besides; nothing happens while the root is not released (the model's choice, DESIGN CHOICE, log entry
2). -/
def Obligations.StepIdles : Prop :=
  ∀ s : State, s.pending = [] →
    (s.released = true → (∀ d, s.nextDue = some d → s.clk.now + 1 < d) →
      ∃ u, step s = .next u ∧ u = { s with clk := { s.clk with now := s.clk.now + 1, outs := u.clk.outs } }) ∧
    (s.released = false → step s = .next s)

/-- No step turns both switches of a local leg on: where no leg has both on before it, none has both on after it (R261). -/
def Obligations.LegsStaySafe : Prop :=
  ∀ s t : State, s.LegsSafe → step s = .next t → t.LegsSafe

/-- At reset no local leg has both switches on. At reset the written host memory is canonical. -/
def Obligations.InvariantsAtReset : Prop :=
  (State.reset.LegsSafe) ∧
  (State.reset.MemoryWf)

/-- The written host memory stays in its canonical form. -/
def Obligations.MemoryStaysCanonical : Prop :=
  ∀ s t : State, s.MemoryWf → step s = .next t → t.MemoryWf

/-- No step undoes what OTP holds: programmed bits stay, a programmed owner-key hash stays as it is, the rollback counter does not fall
below its value limited to 64, the identity never changes (R93, R95, R98). -/
def Obligations.FusesOnlyBurn : Prop :=
  ∀ s t : State, step s = .next t → s.sec.Burns t.sec

/-- Every step ends settled: no record waits to be sent, and the safety channels were told of the trip state (the model's own
bookkeeping). -/
def Obligations.StepsSettle : Prop :=
  (∀ s t : State, s.Settled → step s = .next t → t.Settled) ∧ State.reset.Settled

/-- Every command completes in every state; it neither adds to the queue nor takes from it, and the part stays the part. -/
def Obligations.CommandsComplete : Prop :=
  ∀ (i : Instr) (s : State), s.Runs i fun u => u.pending = s.pending ∧ u.clk.variant = s.clk.variant ∧ s.freeCtr ≤ u.freeCtr

/-! ### Power, references, resets -/

/-- Power-on reset leaves the state right after reset (`State.reset`) but for what is no volatile state of the part: the variant, the
supplies, the AON temperature and the band PLL-A used last; OTP; the Parish book's stored records, and its last-word store while VDD_AON
held; and the model's own record of host memory, requests, the last read and free values (R34, R40, R81). -/
def Obligations.PowerOnReset : Prop :=
  ∀ (s x : State) (t : Nat) (fell : Bool), x = s.advanceTo t →
    exec (.powerOnReset t fell) s = .next { State.reset with
      clk := { Clk.reset with
        variant := x.clk.variant, band := x.clk.band, bandSrc := x.clk.bandSrc, aonTemp := x.clk.aonTemp,
        supplyMem := x.clk.supplyMem, supplyFad := x.clk.supplyFad, supplySaf := x.clk.supplySaf },
      sec := { x.sec with
        chain := zeros 64, events := [], truncated := false, slots := [], reading := none, recovering := false, recoverLen := 0,
        writing := none, runVersion := 0, runSlotB := false, runRecovery := false },
      book := { Book.reset with
        slots := x.book.slots, lw := if fell then [] else x.book.lw, lwNext := if fell then 0 else x.book.lwNext },
      rdata := x.rdata, hostMem := x.hostMem, reqs := x.reqs, freeCtr := x.freeCtr, pending := x.pending }

/-- A supply that fails: its mark falls, the safety outputs open with VSAF_24, and while the root is released the source is latched unless
its severity is 0 (R41). Commands that change one mark of the AON island and nothing else beside the time: the three supplies' recoveries
and the AON temperature (R52, R454, R480). -/
def Obligations.Supplies : Prop :=
  (∀ (s x : State) (t : Nat), x = s.advanceTo t → x.released = true →
    s.Runs (.safetySupplyFault t) (fun u => u.clk = { x.clk with supplySaf := false } ∧ u.saf.closed = 0 ∧ u.saf.outOn = 0 ∧
      (x.severity 453 ≠ 0 → u.latched 453 = true)) ∧
    s.Runs (.memorySupplyLoss t) (fun u => u.clk = { x.clk with supplyMem := false } ∧
      (x.hasCap = true → x.severity 578 ≠ 0 → u.latched 578 = true)) ∧
    s.Runs (.fastConverterSupplyLoss t) (fun u => u.clk = { x.clk with supplyFad := false } ∧
      (x.hasCap = true → x.severity 323 ≠ 0 → u.latched 323 = true))) ∧
  (∀ (s x : State) (t : Nat) (d : Int), x = s.advanceTo t → x.Settled →
    exec (.safetySupplyRecovery t) s = .next (x.modClk fun c => { c with supplySaf := true }) ∧
    exec (.memorySupplyRecovery t) s = .next (x.modClk fun c => { c with supplyMem := true }) ∧
    exec (.fastConverterSupplyRecovery t) s = .next (x.modClk fun c => { c with supplyFad := true }) ∧
    exec (.aonTemperature t d) s = .next (x.modClk fun c => { c with aonTemp := d }))

/-- The sequence from reset to a released root: release of power-on reset starts proving (R39); a lock attempt on the preferred source if
that is proven, else on the other, of which three use up the lock (R51, R72); the lock of PLL-A, from which the root's windows count (R53;
from where they count is the model's choice, log entry 112); the release of the root after two of them, which starts the boot ROM at local
count 0 and measures it, after a loss of lock through a device reset with the clock cause (R54, R71, R84, R96). -/
def Obligations.RootSequence : Prop :=
  ∀ (s x : State) (t found p src : Nat), x = s.advanceTo t → x.Settled →
    (x.clk.phase = .powerOnReset → exec (.powerOnResetRelease t) s = .next (x.modClk fun c => { c with phase := .proving })) ∧
    ((x.clk.phase = .proving ∨ x.clk.phase = .noReference ∨ x.clk.phase = .locking ∨ x.clk.phase = .locked ∧ x.clk.root.missing = true) →
      p = x.rf .clkRefCtrl 0 0 0 →
      ((x.clk.src p).proven = true ∧ src = p ∨
        (x.clk.src p).proven = false ∧ (x.clk.src (1 - p)).proven = true ∧ src = 1 - p) →
      (x.clk.attempts < 3 → exec (.lockAttempt t found) s = .next (x.modClk fun c =>
        { c with phase := .locking, attempts := c.attempts + 1, source := some src, sel := some src, hold := false, tune := none,
                 pllALock := false, band := x.tableBand.getD (found % 64), bandSrc := x.tableBand.isSome })) ∧
      (3 ≤ x.clk.attempts → exec (.lockAttempt t found) s = .next (x.modClk fun c =>
        { c with phase := .lockFailed, lockDead := true, pllALock := false, aonErrN := true }))) ∧
    (x.clk.phase = .locking → x.clk.attempts ≠ 0 → exec (.pllALock t) s = .next (x.modClk fun c =>
      { c with phase := .locked, pllALock := true, root := Proving.reset, rootRun := 0 })) ∧
    (x.clk.phase = .locked → 2 ≤ x.clk.rootRun → x.clk.clockLoss = false → s.Runs (.rootRelease t) fun u =>
      u.clk.phase = .booting ∧ u.clk.now = 0 ∧ u.clk.attempts = 0 ∧ u.clk.aonErrN = false ∧ u.mode = x.mode ∧ u.host = x.host ∧
      u.leg = x.leg ∧ u.book = x.book ∧ u.sec.chain = hash64 (x.sec.chain ++ le 4 1 ++ Config.romHash)) ∧
    (x.clk.phase = .locked → 2 ≤ x.clk.rootRun → x.clk.clockLoss = true → s.Runs (.rootRelease t) fun u =>
      u.clk.phase = .booting ∧ u.clk.now = 0 ∧ u.clk.attempts = 0 ∧ u.clk.clockLoss = false ∧ u.rb .sysResetCause 0 1 = true ∧
      u.mode = Mode.reset ∧ u.host = HostIf.reset ∧ u.leg = Leg.reset ∧ u.book.lw = x.book.lw ∧
      u.sec.chain = hash64 (zeros 64 ++ le 4 1 ++ Config.romHash))

/-- Proving and losing a source: eight passing windows in a row, each within 2 of the one before, prove it, and end a hold of the source
that PLL-A ran on last; a failing window or a stop makes it missing, which puts a PLL-A that it feeds into hold with the selector open and
latches the source's event (R49, R50, R56, R57, R59). Windows of the root, and a loss of lock: the records, the phase, ERR_N; every
register and all other state stay until the root is released (R50, R53, R54, R69, R70). With no proven source ERR_N goes low and the last
word is written (R51). The margin flag outside hold (R54). The selection of another proven source ends the hold (R57, R58). -/
def Obligations.References : Prop :=
  (∀ (s x : State) (t src n aon : Nat), x = s.advanceTo t → x.Settled → src ≤ 1 → x.clk.phase ≠ .powerOnReset →
    (994 ≤ n → n ≤ 1054 → (x.clk.src src).passes = 7 → n ≤ (x.clk.src src).last + 2 → (x.clk.src src).last ≤ n + 2 →
      s.Runs (.provingWindow t src ⟨n, aon⟩) fun u =>
        u.clk.src src = ⟨8, n, true, false⟩ ∧ u.regs = x.regs ∧ u.book = x.book ∧
        (x.clk.hold = true → x.clk.source = some src → u.clk.hold = false ∧ u.clk.sel = some src ∧ u.clk.tune = none)) ∧
    (1054 < n → s.Runs (.provingWindow t src ⟨n, aon⟩) fun u =>
      (u.clk.src src).passes = 0 ∧ (u.clk.src src).proven = false ∧ (u.clk.src src).missing = true ∧
      (x.clk.source = some src → x.clk.pllALock = true → u.clk.hold = true ∧ u.clk.sel = none) ∧
      (x.released = true → (x.clk.src src).missing = false → x.severity (64 + src) ≠ 0 → u.latched (64 + src) = true)) ∧
    s.Runs (.sourceMissing t src) (fun u =>
      (u.clk.src src).passes = 0 ∧ (u.clk.src src).proven = false ∧ (u.clk.src src).missing = true ∧
      (x.clk.source = some src → x.clk.pllALock = true → u.clk.hold = true ∧ u.clk.sel = none) ∧
      (x.released = true → (x.clk.src src).missing = false → x.severity (64 + src) ≠ 0 → u.latched (64 + src) = true))) ∧
  (∀ (s x : State) (t n aon : Nat), x = s.advanceTo t → x.Settled → x.clk.phase ≠ .powerOnReset →
    (994 ≤ n → n ≤ 1054 → exec (.provingWindow t 2 ⟨n, aon⟩) s = .next (x.modClk fun c =>
      { c with root := c.root.window true n, rootRun := c.rootRun + 1 })) ∧
    (1054 < n → x.released = false → exec (.provingWindow t 2 ⟨n, aon⟩) s = .next (x.modClk fun c =>
      { c with root := ⟨0, n, false, true⟩, rootRun := 0 })) ∧
    (1054 < n → x.released = true → s.Runs (.provingWindow t 2 ⟨n, aon⟩) fun u =>
      u.clk.phase = .locking ∧ u.clk.pllALock = false ∧ u.clk.clockLoss = true ∧ u.clk.aonErrN = true ∧ u.regs = x.regs ∧ u.mode = x.mode) ∧
    exec (.sourceMissing t 2) s = .next (x.modClk fun c =>
      { c with root := { c.root with passes := 0, proven := false, missing := true }, rootRun := 0 })) ∧
  (∀ (s x : State) (t aon : Nat) (high : Bool), x = s.advanceTo t → x.Settled →
    (x.clk.phase = .proving → x.clk.xtal.proven = false → x.clk.refIn.proven = false → x.book.lw.length < 16 →
      s.Runs (.noReference t aon) fun u => u.clk = { x.clk with phase := .noReference, aonErrN := true } ∧
        u.book.lw.length = x.book.lw.length + 1 ∧ u.regs = x.regs ∧ u.mode = x.mode) ∧
    (x.clk.pllALock = true → x.clk.hold = false → x.book.lw.length < 16 → s.Runs (.lossOfLock t aon) fun u =>
      u.clk.phase = (if x.clk.phase = .thermalShutdown then .thermalShutdown else .locking) ∧ u.clk.pllALock = false ∧
      u.clk.clockLoss = true ∧ u.clk.aonErrN = true ∧ u.clk.rootRun = 0 ∧
      u.clk.attempts = (if x.released then 0 else x.clk.attempts) ∧
      u.clk.now = (if x.released then (x.clk.now + 39) / 40 * 40 else x.clk.now) ∧
      u.book.lw.length = x.book.lw.length + 1 ∧ u.regs = x.regs ∧ u.mode = x.mode ∧ u.host = x.host ∧ u.leg = x.leg ∧ u.mill = x.mill) ∧
    (x.released = true → x.clk.hold = false → s.Runs (.vtuneMargin t high) fun u => u.clk = { x.clk with vtune := high } ∧
      (high = true → x.clk.vtune = false → x.severity 67 ≠ 0 → u.latched 67 = true)) ∧
    (x.released = true → x.clk.pllALock = true → x.clk.source = some 1 → x.clk.xtal.proven = true → x.clk.hold = true →
      x.rb .clkRefCtrl 0 1 = true →
      s.Runs (.referenceSelect t 0) fun u => u.clk = { x.clk with hold := false, source := some 0, sel := some 0, tune := none } ∧
        (x.severity 66 ≠ 0 → u.latched 66 = true)))

/-! ### Resets, clocks, boot -/

/-- Device resets while the root is released: by the watchdog, and by SYS_RESET with its key and its bit, while any other write of
SYS_RESET does nothing (R82, R84, R105): the cause bit is set, modes, rings and legs are at their reset state, and the boot ROM starts
over at local count 0. Thermal shutdown, from every phase but power-on reset, holds the device reset with THM_SHDN_N low and the lock
kept; its restart sets its cause bit and goes on from the state of PLL-A (R72, R499). A host-link reset returns every DQ register to its
reset value and raises host_link; the time, the Bell and the clocks stay (R83). The host's configuration writes take effect once they are
answered normally (R85, R91, R128 to R130). -/
def Obligations.Resets : Prop :=
  (∀ (s x : State) (t aon : Nat) (v : Word), x = s.advanceTo t →
    (x.released = true → fld v 31 16 = 0x5A17 → bit v 0 = true → s.Runs (.sysReset t v) fun u =>
      u.clk.phase = .booting ∧ u.clk.now = 0 ∧ u.rb .sysResetCause 0 3 = true ∧ u.mode = Mode.reset ∧ u.host = HostIf.reset ∧ u.leg = Leg.reset) ∧
    (x.released = true → x.Settled → fld v 31 16 ≠ 0x5A17 ∨ bit v 0 = false → exec (.sysReset t v) s = .next x) ∧
    (x.released = true → s.Runs (.managementWatchdog t) fun u =>
      u.clk.phase = .booting ∧ u.clk.now = 0 ∧ u.rb .sysResetCause 0 4 = true ∧ u.mode = Mode.reset ∧ u.host = HostIf.reset ∧ u.leg = Leg.reset) ∧
    (x.clk.phase ≠ .powerOnReset → x.clk.phase ≠ .thermalShutdown → s.Runs (.thermalShutdown t aon) fun u =>
      u.clk.phase = .thermalShutdown ∧ u.clk.shdn = true ∧ u.clk.aonErrN = true ∧ u.clk.pllALock = x.clk.pllALock ∧
      u.mode = Mode.reset ∧ u.host = HostIf.reset ∧ u.leg = Leg.reset) ∧
    (x.clk.phase = .thermalShutdown → s.Runs (.thermalRestart t) fun u =>
      u.rb .sysResetCause 0 2 = true ∧ u.mode = Mode.reset ∧ u.clk.shdn = false ∧
      u.clk.phase = (if x.clk.lockDead then .lockFailed
        else if x.clk.pllALock then (if 2 ≤ x.clk.rootRun then .booting else .locked) else .locking) ∧ u.clk.now = 0)) ∧
  (∀ (s x : State) (t : Nat), x = s.advanceTo t → x.released = true → s.Runs (.hostLinkReset t) fun u =>
    u.rb .sysResetCause 0 5 = true ∧ (x.severity 32 ≠ 0 → u.latched 32 = true) ∧
    (∀ r i j, dqWindow (Reg.addr r i j) = true → u.reg r i j = regReset (Reg.addr r i j)) ∧
    u.clk = x.clk ∧ u.tim = x.tim ∧ u.bell = x.bell) ∧
  (∀ (s x : State) (t mps mrrs : Nat) (mse bme d3 en mask : Bool), x = s.advanceTo t → x.Settled →
    (x.clk.phase = .running ∨ x.clk.phase = .bootFailed) → mps ≤ 2 → mrrs ≤ 5 →
    exec (.busMasterEnable t ⟨mse, bme, d3, en, mask⟩ ⟨mps, mrrs⟩) s = .next (x.modHostIf fun h =>
      { h with mse := mse, bme := bme, d3 := d3, msixEn := en, msixMask := mask, mps := 128 * 2 ^ mps, mrrs := 128 * 2 ^ mrrs,
               stalled := h.stalled || !bme || d3 }))

/-- PLL-B: a write of PLL_B_OUT changes only the enable field while that reads 1, and holds the divider to 8 to 4,000 else (R80); an
output that is enabled while PLL-B is locked runs, one enabled without a lock waits (the model's choice, log entry 110), a disabled one
stops (R73, R77); a target is replaced, with the Bell's steps of the same core cycle applied after it (R75); an unlock stops all three, a
relock restarts the enabled ones at their targets (R77). A clock gate shuts where it is not forced open, its block has no work and 16
cycles of its clock have passed without a request, and stays as it is else (R66; what is work is the model's reading, log entry 19). -/
def Obligations.PllBAndGates : Prop :=
  ∀ (s x : State) (t j b : Nat) (v : Word), x = s.advanceTo t → x.Settled → x.up = true → j < 3 →
    (bit v 31 = true → x.rb .pllBOut j 31 = false → x.clk.pllBLock = true → s.Runs (.pllBEnable t j v) fun u =>
      u.reg .pllBOut j = wfld (v &&& 0xFCFF0FFF) 11 0 (min 4000 (max 8 (fld v 11 0))) ∧ (u.out j).running = true ∧
      (∀ k, k ≠ j → u.out k = x.out k) ∧ u.mode = x.mode ∧ u.tim = x.tim ∧ u.host = x.host) ∧
    (bit v 31 = true → x.rb .pllBOut j 31 = false → x.clk.pllBLock = false → exec (.pllBEnable t j v) s =
      .next (x.setReg .pllBOut j (wfld (v &&& 0xFCFF0FFF) 11 0 (min 4000 (max 8 (fld v 11 0)))))) ∧
    (bit v 31 = true → x.rb .pllBOut j 31 = true → exec (.pllBEnable t j v) s = .next x) ∧
    (bit v 31 = false → x.rb .pllBOut j 31 = true → exec (.pllBDisable t j v) s =
      .next ((x.setRb .pllBOut j 31 false).modOut j fun o => { o with running := false })) ∧
    (bit v 31 = false → x.rb .pllBOut j 31 = false → exec (.pllBDisable t j v) s =
      .next (x.setReg .pllBOut j (wfld (v &&& 0xFCFF0FFF) 11 0 (min 4000 (max 8 (fld v 11 0)))))) ∧
    exec (.pllBTargetWrite t j v) s = .next (x.setReg .pllBTarget j
      (if (x.out j).stepCyc = x.clk.now / 2 + 1 then (x.out j).steps.foldl stepTarget v else v)) ∧
    (x.clk.pllBLock = true → s.Runs (.pllBUnlock t) fun u => u.clk.pllBLock = false ∧ (∀ k, k < 3 → (u.out k).running = false) ∧
      (x.severity 68 ≠ 0 → u.latched 68 = true)) ∧
    (x.clk.pllBLock = false → x.rb .pllBOut j 31 = true → s.Runs (.pllBRelock t) fun u =>
      u.clk.pllBLock = true ∧ (u.out j).running = true ∧ (u.out j).phase = sx 32 (x.reg .pllBTarget j).toNat) ∧
    (b < 8 → x.rb .clkGateForce 0 b = false → x.blockBusy b = false → nget x.clk.idleFrom b + 16 * gateClock b ≤ x.clk.now →
      exec (.gateClose t b) s = .next (x.modClk fun c => { c with gateShut := nset c.gateShut b true })) ∧
    (x.rb .clkGateForce 0 b = true ∨ x.blockBusy b = true ∨ x.clk.now < nget x.clk.idleFrom b + 16 * gateClock b →
      exec (.gateClose t b) s = .next x)

/-- Secure boot: of two accepted slots the higher version is read first, slot A on a tie; with none the boot fails; a payload with the
header's length and hash starts the firmware, Dormant; one with another hash fails the boot where the other slot was not accepted (R88,
R89, R91, R84). Recovery after a failed boot (R92): a start with a length in range begins a fetch of that length, one out of range answers
9; with bus mastering in D0 a fetch without data answers 8, and an image of that length that passes the checks of a slot starts the
firmware. -/
def Obligations.BootAndRecovery : Prop :=
  (∀ (s x : State) (t : Nat) (a b p : Bytes), x = s.advanceTo t → x.Settled → x.clk.phase = .booting →
    (x.sec.slots = [] → x.headerCheck a = 0 → (x.headerCheck b = 0 → hdrVersion b ≤ hdrVersion a) → s.Runs (.flashHeaderRead t a b) fun u =>
      u.sec.reading = some 0 ∧ u.clk = x.clk) ∧
    (x.sec.slots = [] → x.headerCheck b = 0 → (x.headerCheck a = 0 → hdrVersion a < hdrVersion b) → s.Runs (.flashHeaderRead t a b) fun u =>
      u.sec.reading = some 1 ∧ u.clk = x.clk) ∧
    (x.sec.slots = [] → x.headerCheck a ≠ 0 → x.headerCheck b ≠ 0 → s.Runs (.flashHeaderRead t a b) fun u =>
      u.clk.phase = .bootFailed ∧ u.sec.reading = none) ∧
    (∀ i, x.sec.reading = some i → p.length = (x.slot i).length → hash64 p = (x.slot i).hash → s.Runs (.payloadRead t p) fun u =>
      u.clk.phase = .running ∧ u.mode.mode = 0 ∧ u.sec.runVersion = (x.slot i).version ∧ u.sec.runSlotB = decide (i = 1) ∧
      u.sec.runRecovery = false ∧ u.sec.reading = none) ∧
    (∀ i, x.sec.reading = some i → hash64 p ≠ (x.slot i).hash → i ≤ 1 → (x.slot (1 - i)).check ≠ 0 → s.Runs (.payloadRead t p) fun u =>
      u.clk.phase = .bootFailed ∧ u.sec.reading = none)) ∧
  (∀ (s x : State) (t : Nat) (v : Word) (b : Bytes), x = s.advanceTo t → x.Settled → x.clk.phase = .bootFailed →
    (bit v 0 = true → x.sec.recovering = false → 8256 ≤ (x.reg .secRecoveryLen).toNat → (x.reg .secRecoveryLen).toNat ≤ 1056768 →
      exec (.secRecoveryStart t v) s = .next (x.modSec fun y =>
        { y with recovering := true, recoverLen := (x.reg .secRecoveryLen).toNat })) ∧
    (bit v 0 = true → x.sec.recovering = false → (x.reg .secRecoveryLen).toNat < 8256 ∨ 1056768 < (x.reg .secRecoveryLen).toNat →
      exec (.secRecoveryStart t v) s = .next (x.setRf .secRecoveryCtrl 0 7 4 9)) ∧
    (x.sec.recovering = true → x.host.bme = true → x.host.d3 = false →
      exec (.recoveryFetchDone t none) s =
        .next ((x.modSec fun y => { y with recovering := false }).setRf .secRecoveryCtrl 0 7 4 8)) ∧
    (x.sec.recovering = true → x.host.bme = true → x.host.d3 = false → b.length = x.sec.recoverLen → x.headerCheck b = 0 →
      hash64 (slice b 0x2000 (hdrLength b)) = hdrHash b → 0x2000 + hdrLength b ≤ b.length → s.Runs (.recoveryFetchDone t (some b)) fun u =>
        u.clk.phase = .running ∧ u.mode.mode = 0 ∧ u.sec.runVersion = hdrVersion b ∧ u.sec.runRecovery = true ∧ u.sec.recovering = false))

/-! ### Modes, lock, accesses -/

/-- Mode requests by SYS_MODE_REQ with its key and bit 8, by a SET_MODE descriptor and by a fired CHANGE_MODE action (R127, R144, R182):
one for Safe stop is taken at once from every other mode, with no ramp, no pending request and Safe stop as the mode of every group (R114,
R116); one for another mode joins the requests of its core cycle, on a unit that is no standby and has not entered Safe stop in that
cycle. Any other write of SYS_MODE_REQ changes only the target field (R127). A request for Configure that is judged in Dormant becomes
pending and is taken a core cycle later, with the mode before and the groups' mode (R108, R110, R113). -/
def Obligations.ModeCommands : Prop :=
  (∀ (s x : State) (t : Nat), x = s.advanceTo t → x.up = true → x.mode.mode ≠ 7 →
    (∀ v, fld v 31 16 = 0x4D4F → bit v 8 = true → fld v 2 0 = 7 → s.Runs (.sysModeReq t v) fun u =>
      u.mode.mode = 7 ∧ u.mode.previous = x.mode.mode ∧ u.mode.pending = none ∧ u.mode.ramps = [] ∧
      (∀ g, g < 8 → nget u.mode.groupMode g = 7) ∧ u.mode.lastStop = some (coreCycle x.clk.now) ∧ u.clk = x.clk) ∧
    (∀ i k d, x.turn 0 0x01 = some (i, k, d) → d.arg % 8 = 7 → s.Runs (.setMode t) fun u =>
      u.mode.mode = 7 ∧ u.mode.previous = x.mode.mode ∧ u.mode.pending = none ∧ u.mode.ramps = [] ∧
      (∀ g, g < 8 → nget u.mode.groupMode g = 7) ∧ u.mode.lastStop = some (coreCycle x.clk.now) ∧ u.clk = x.clk) ∧
    (∀ f, x.bell.fired.find? (fun f => f.e.action = 0x03 && f.arrive ≤ x.clk.now) = some f → f.e.arg % 8 = 7 →
      s.Runs (.changeMode t) fun u => u.mode.mode = 7 ∧ u.mode.previous = x.mode.mode ∧ u.mode.pending = none ∧ u.mode.ramps = [] ∧
      (∀ g, g < 8 → nget u.mode.groupMode g = 7) ∧ u.mode.lastStop = some (coreCycle x.clk.now) ∧ u.clk = x.clk)) ∧
  (∀ (s x : State) (t : Nat), x = s.advanceTo t → x.Settled → x.up = true → x.standby = false →
    ¬(x.mode.mode = 7 ∧ x.mode.lastStop = some (coreCycle x.clk.now)) →
    (∀ v, fld v 31 16 = 0x4D4F → bit v 8 = true → fld v 2 0 ≠ 7 → exec (.sysModeReq t v) s =
      .next ((x.setReg .sysModeReq 0 (word (fld v 2 0))).modMode fun m =>
        { m with inbox := m.inbox ++ [⟨fld v 2 0, 1, none⟩], boxAt := coreCycle x.clk.now })) ∧
    (∀ i k d, x.turn 0 0x01 = some (i, k, d) → d.arg % 8 ≠ 7 → exec (.setMode t) s =
      .next ((x.holdAct i k).modMode fun m => { m with inbox := m.inbox ++ [⟨d.arg % 8, 2, some k⟩], boxAt := coreCycle x.clk.now })) ∧
    (∀ f, x.bell.fired.find? (fun f => f.e.action = 0x03 && f.arrive ≤ x.clk.now) = some f → f.e.arg % 8 ≠ 7 →
      exec (.changeMode t) s = .next ((x.modBell fun b =>
        { b with fired := delFirst (fun f => f.e.action = 0x03 && f.arrive ≤ x.clk.now) b.fired }).modMode fun m =>
        { m with inbox := m.inbox ++ [⟨f.e.arg % 8, 3, none⟩], boxAt := coreCycle x.clk.now }))) ∧
  (∀ (s x : State) (t : Nat) (v : Word), x = s.advanceTo t → x.Settled → x.up = true → fld v 31 16 ≠ 0x4D4F ∨ bit v 8 = false →
    exec (.sysModeReq t v) s = .next (x.setReg .sysModeReq 0 (word (fld v 2 0)))) ∧
  (∀ (s : State) (src c : Nat), s.mode.mode = 0 → s.mode.pending = none →
    (s.mode.inbox = [⟨1, src, none⟩] → s.arbitrate.mode = { s.mode with
      inbox := [], pending := some ⟨1, src, none⟩, pendAt := s.mode.boxAt, takeAt := some (s.mode.boxAt + 2) }) ∧
    (s.takeNow src 1 c none).mode.mode = 1 ∧ (s.takeNow src 1 c none).mode.previous = 0 ∧ (s.takeNow src 1 c none).mode.pending = none ∧
    (∀ g, g < 8 → nget (s.takeNow src 1 c none).mode.groupMode g = 1))

/-- Writing 1 to SYS_LOCK sets it and measures the RWL fields, once (R96, R102); writing 0 does nothing. CONFIG_LOAD (R101, R124, R125) on
the descriptor whose turn it is: outside Configure or under lock it ends with status 2; an image that passes the checks and whose entries
are all allowed writes them in order as BAR0 writes, is measured with kind 5 and answers how many; an entry that is not allowed ends it
with status 4 and the entry's place, before anything is written. -/
def Obligations.LockAndConfiguration : Prop :=
  (∀ (s x : State) (t : Nat) (v : Word), x = s.advanceTo t → x.released = true →
    (bit v 0 = true → x.locked = false → s.Runs (.sysLock t v) fun u => u.locked = true ∧ u.mode = x.mode ∧ u.clk = x.clk ∧
      u.sec.chain = hash64 (x.sec.chain ++ le 4 6 ++ hash64 (x.setRb .sysLock 0 0 true).rwlRegs)) ∧
    (x.Settled → bit v 0 = false ∨ x.locked = true → exec (.sysLock t v) s = .next x)) ∧
  (∀ (s x : State) (t i k : Nat) (d : Desc) (b : Bytes), x = s.advanceTo t → x.Settled → x.up = true → x.turn 0 0x22 = some (i, k, d) →
    ((x.mode.mode ≠ 1 ∨ x.locked = true) → exec (.configLoad t (some b)) s = .next (x.ends i k 2)) ∧
    (x.mode.mode = 1 → x.locked = false → x.canDma = true → 0x2000 + hdrLength b ≤ d.len → x.imageCheck b 3 "OCR-CONF" = 0 →
      configForm (slice b 0x2000 (hdrLength b)) (hdrLength b) = true →
      ∀ y l, y = (x.hostRead d.buf 0x2000).hostRead (d.buf + 0x2000) (hdrLength b) → l = configEntries (slice b 0x2000 (hdrLength b)) →
      ((∀ e ∈ l, x.entryFails e = false) →
        exec (.configLoad t (some b)) s = .next (((l.foldl (fun (s : State) e => s.bar0Write e.1 e.2 15) y).measure 5 (hdrHash b)).ends
          i k 0 l.length).settle) ∧
      (∀ n, n < l.length → x.entryFails (nth l n (0, 0)) = true → (∀ m, m < n → x.entryFails (nth l m (0, 0)) = false) →
        exec (.configLoad t (some b)) s = .next (y.ends i k 4 n))))

/-- BAR0 accesses: a write to nothing, and one whose byte enables are not all set, change no register; a write to BK_RATE changes its
fields, all under lock, only while RWL fields take writes, and no other register; a read of a _LO register latches its _HI register, that
of TIM_COUNT_LO returns the low word of the local count; word 0 of TIM_NOW and of TIM_PPS_IN latches the rest; a result read latches its
sample instant (R6, R7, R102, R103, R132, R163, R170, R310). -/
def Obligations.BarAccesses : Prop :=
  ∀ (s x : State) (t off : Nat) (v : Word) (be : Nat), x = s.advanceTo t → x.up = true → x.Settled →
    (x.locate off = none → exec (.registerWrite t off v be) s = .next x) ∧
    (be % 16 ≠ 15 → x.locate off ≠ none →
      exec (.registerWrite t off v be) s = .next (x.passGate off)) ∧
    (s.Runs (.registerWrite t Reg.bkRate.addr v 15) fun u =>
      u.reg .bkRate = (if (x.passGate Reg.bkRate.addr).rwlShut then x.reg .bkRate
        else (x.reg .bkRate &&& ~~~0xFFFF00FF) ||| (v &&& 0xFFFF00FF)) ∧
      (∀ o, o ≠ Reg.bkRate.addr → tget regReset u.regs o = tget regReset x.regs o) ∧ u.mode = x.mode ∧ u.book = x.book) ∧
    (∀ r i j h, x.locate off = some (r, i, j) → hiOf r = some h → s.Runs (.loRead t off) fun u =>
      u.latchAt (h.addr i j) = x.live h i j ∧ u.regs = x.regs ∧ u.mode = x.mode) ∧
    (s.Runs (.loRead t Reg.timCountLo.addr) fun u =>
      u.rdata = word x.clk.now ∧ u.latchAt Reg.timCountHi.addr = word (x.clk.now / 2 ^ 32) ∧
      u.regs = x.regs ∧ u.mode = x.mode) ∧
    (s.Runs (.timNowRead t Reg.timNow.addr) fun u =>
      u.rdata = nth (tsWords (x.timeAt x.clk.now)) 0 0 ∧
      (∀ k, 1 ≤ k → k ≤ 3 → u.latchAt (Reg.timNow.addr k) = nth (tsWords (x.timeAt x.clk.now)) k 0) ∧
      u.regs = x.regs) ∧
    (s.Runs (.timPpsInRead t) fun u => u.rdata = nth (tsWords x.tim.ppsStamp) 0 0 ∧
      (∀ k, 1 ≤ k → k ≤ 3 → u.latchAt (Reg.timPpsIn.addr k) = nth (tsWords x.tim.ppsStamp) k 0) ∧ u.regs = x.regs) ∧
    (∀ n, n < 32 → x.locate (Reg.adcResult.addr n) ≠ none →
      s.Runs (.adcResultRead t n) fun u => u.latchAt Reg.adcResultTs.addr = word (x.ares n).inst ∧ u.adc = x.adc ∧ u.regs = x.regs)

/-! ### Rings, ring 14 -/

/-- A write that sets enable in DQ_RING_CFG of a Disabled ring stores the fields; without a reason of R135 the ring is Running with its
indices at 0 and nothing queued, else it stays Disabled with the reason's code. A write that clears enable (R151): a Running submit ring
discards what has not started and stays Stopping while started descriptors are not finished; a Running submit ring or a ring in Error with
nothing started is Disabled with its indices at 0 and its error code kept. -/
def Obligations.RingControl : Prop :=
  (∀ (s x y : State) (t i : Nat) (v : Word), x = (s.advanceTo t).openGate 5 → x.Settled → x.up = true → i < 16 → bit v 31 = true →
    (x.ring i).state = 0 → y = x.setReg .dqRingCfg i (wfld (v &&& 0x8FE0F00F) 31 31 0) →
    (y.enableCheck i = 0 → s.Runs (.ringEnable t i v) fun u => (u.ring i).state = 1 ∧ (u.ring i).host = 0 ∧ (u.ring i).dev = 0 ∧
      (u.ring i).queue = [] ∧ (u.ring i).acts = [] ∧ u.rb .dqRingCfg i 31 = true ∧ u.hostMem = x.hostMem ∧ u.mode = x.mode ∧
      (∀ j, j ≠ i → u.ring j = x.ring j)) ∧
    (∀ c, y.enableCheck i = c → c ≠ 0 → s.Runs (.ringEnable t i v) fun u => (u.ring i).state = 0 ∧ (u.ring i).error = c ∧
      u.rb .dqRingCfg i 31 = false ∧ u.hostMem = x.hostMem ∧ u.mode = x.mode ∧ (∀ j, j ≠ i → u.ring j = x.ring j))) ∧
  (∀ (s x : State) (t i : Nat) (v : Word), x = (s.advanceTo t).openGate 5 → x.Settled → x.up = true → i < 16 → bit v 31 = false →
    ((x.ring i).state = 1 → submitRole (x.ringRole i) = true → (∀ a ∈ (x.ring i).acts, a.st = .executing) → (x.ring i).acts ≠ [] →
      s.Runs (.ringStop t i v) fun u => (u.ring i).state = 2 ∧ (u.ring i).queue = [] ∧ (u.ring i).acts = (x.ring i).acts ∧
        u.rb .dqRingCfg i 31 = false ∧ u.mode = x.mode) ∧
    (((x.ring i).state = 1 ∧ submitRole (x.ringRole i) = true ∨ (x.ring i).state = 3) → (x.ring i).acts = [] → x.canDma = true →
      s.Runs (.ringStop t i v) fun u => (u.ring i).state = 0 ∧ (u.ring i).host = 0 ∧ (u.ring i).dev = 0 ∧
        (u.ring i).error = (x.ring i).error ∧ u.rb .dqRingCfg i 31 = false ∧ u.mode = x.mode))

/-- A poll instant with bus mastering in D0 ends a stall and starts the doorbell read; while one is outstanding it is counted in
DQ_STATUS.poll_skip (R130, R139, R140). A failed read sets its bit and raises host_dma; a good one gives every ring its index, moves the
rings on and issues descriptor reads (R138, R153, R155). The host index of a doorbell read (R138, R152): a Running submit ring takes an
index that leaves no more than its entries unfetched and a Running stream ring one that lies in the entries it has written; any other puts
the ring into Error with code 1 and discards what has not started. -/
def Obligations.RingIndices : Prop :=
  (∀ (s x : State) (t : Nat) (l : List Word), x = (s.advanceTo t).openGate 5 → x.up = true →
    (x.rb .dqPoll 0 31 = true → x.clk.now % x.rf .dqPoll 0 19 0 = 0 → x.host.bme = true → x.host.d3 = false →
      s.Runs (.poll t) fun u => u.host.polling = true ∧ u.host.stalled = false ∧ u.mode = x.mode ∧
        u.rf .dqStatus 0 31 16 = (if x.host.polling then min 0xFFFF (x.rf .dqStatus 0 31 16 + 1) else x.rf .dqStatus 0 31 16)) ∧
    (x.host.polling = true →
      s.Runs (.doorbellRead t none) (fun u => u.host.polling = false ∧ u.rb .dqStatus 0 1 = true ∧ (x.severity 129 ≠ 0 → u.latched 129 = true)) ∧
      exec (.doorbellRead t (some l)) s = .next ((((x.modHostIf fun h => { h with polling := false }).forAll
        (List.range 16) fun i s => s.takeIndex i (fld (nth l i 0) 15 0)).pumpAll.issueReads 64)).settle)) ∧
  (∀ (s : State) (i h : Nat), i < 16 → (s.ring i).state = 1 →
    (submitRole (s.ringRole i) = true → (h + 65536 - (s.ring i).dev) % 65536 ≤ s.ringSize i →
      s.takeIndex i h = s.modRing i fun r => { r with host := h }) ∧
    (submitRole (s.ringRole i) = true → s.ringSize i < (h + 65536 - (s.ring i).dev) % 65536 →
      ((s.takeIndex i h).ring i).state = 3 ∧ ((s.takeIndex i h).ring i).error = 1 ∧ ((s.takeIndex i h).ring i).queue = []) ∧
    (submitRole (s.ringRole i) = false → ((s.ring i).dev + 65536 - h) % 65536 ≤ min (s.ringSize i) (s.ring i).wrote →
      ((s.takeIndex i h).ring i).host = h ∧ ((s.takeIndex i h).ring i).state = 1) ∧
    (submitRole (s.ringRole i) = false → min (s.ringSize i) (s.ring i).wrote < ((s.ring i).dev + 65536 - h) % 65536 →
      ((s.takeIndex i h).ring i).state = 3 ∧ ((s.takeIndex i h).ring i).error = 1 ∧ ((s.takeIndex i h).ring i).queue = []))

/-- Descriptors: the oldest outstanding read of a Running submit ring queues what it returned and starts it in order; a failed one puts
the ring into Error with code 2 (R129, R148, R152). NOP ends with status 0; as the only started descriptor of its ring, with a completion
asked for and its completion ring Running, its 16 bytes are written at that ring's next entry and both device indices advance (R144, R146,
R148). -/
def Obligations.Descriptors : Prop :=
  ∀ (s x y : State) (t i n : Nat) (l : List Bytes), x = (s.advanceTo t).openGate 5 → x.Settled → x.up = true →
    (i < 16 → (x.ring i).state = 1 → submitRole (x.ringRole i) = true → (x.ring i).host ≠ (x.ring i).fetched → x.canDma = true →
      x.host.reads.find? (fun e => e.1 = i) = some (i, n) →
      y = x.modHostIf (fun h => { h with reads := delFirst (fun e => e.1 = i) h.reads }) →
      exec (.descriptorFetch t i (some l)) s = .next (((y.enqueue i (l.take n)).pump i).issueReads 64) ∧
      exec (.descriptorFetch t i none) s = .next (y.ringError i 2).settle ∧
      ((y.ringError i 2).ring i).state = 3 ∧ ((y.ringError i 2).ring i).error = 2 ∧ ((y.ringError i 2).ring i).queue = []) ∧
    (∀ k d, x.turn 0 0 = some (i, k, d) →
      exec (.nop t) s = .next (x.finishAct i k ⟨0, 0, 0⟩) ∧
      ((x.ring i).acts = [⟨k, d, .waiting⟩] → (x.ring i).queue = [] → (x.ring i).state = 1 → x.canDma = true → nbit d.flags 0 = true →
        x.ringCq i ≠ i → (x.ring (x.ringCq i)).state = 1 →
        s.Runs (.nop t) fun u => (u.ring i).acts = [] ∧ (u.ring i).dev = (k + 1) % 65536 ∧
          (u.ring (x.ringCq i)).dev = ((x.ring (x.ringCq i)).dev + 1) % 65536 ∧
          u.hostMem = memWrite x.hostMem (x.ringBase (x.ringCq i) + 16 * ((x.ring (x.ringCq i)).dev % x.ringSize (x.ringCq i)))
            (complBytes d.tag i 0 k d.op 0 0 0) ∧ u.regs = x.regs ∧ u.mode = x.mode))

/-- READ_IDENTITY and ATTEST on the descriptor whose turn it is (R98 to R100): the record goes to the descriptor's buffer, the public key
being 1,952 bytes and the signature 3,309 bytes long; a buffer that is too small ends with status 1 and the length it needs. -/
def Obligations.IdentityCommands : Prop :=
  (∀ z, (Config.mldsaPk z).length = 1952) ∧ (∀ k c m, (Config.mldsaSign k c m).length = 3309) ∧ State.reset.sec.cert.length = 3309 ∧
  (∀ (s x : State) (t i k : Nat) (d : Desc) (b : Bytes), x = s.advanceTo t → x.Settled → x.up = true →
    (x.turn 14 1 = some (i, k, d) →
      (5269 ≤ d.len → x.canDma = true → (x.ring i).state = 1 → exec (.readIdentity t) s = .next ((x.hostWrite d.buf
        (le 8 x.sec.otpSerial ++ Config.mldsaPk (shake256 32 (ascii "OCR-IDENT-1" ++ x.sec.otpSeed)) ++ x.sec.cert)).finishAct i k ⟨0, 0, 5269⟩)) ∧
      (d.len < 5269 → exec (.readIdentity t) s = .next (x.ends i k 1 5312))) ∧
    (x.turn 14 2 = some (i, k, d) →
      (4608 ≤ d.len → x.canDma = true → (x.ring i).state = 1 → exec (.attest t (some b)) s = .next (((x.hostRead d.buf 32).hostWrite d.buf
        (x.attestBody b ++ Config.mldsaSign (shake256 32 (ascii "OCR-IDENT-1" ++ x.sec.otpSeed)) (ascii "OCR-ATTS") (x.attestBody b))).finishAct
          i k ⟨0, 0, (x.attestBody b).length + 3309⟩)) ∧
      (d.len < 4608 → exec (.attest t (some b)) s = .next (x.ends i k 1 4608))))

/-- The commands of ring 14 that write OTP, on the descriptor whose turn it is (R93, R95, R98): outside Configure or with SYS_LOCK set
each ends with status 2; a write that does not read back ends with 3. COMMIT_VERSION raises the rollback counter to the running version,
saturating at 64; PROGRAM_OWNER_KEY writes the buffer's 64 bytes into the first unused slot and, when they have read back, sets its valid
fuse, ending with 3 where every slot is used and with 1 for a buffer below 64 bytes; REVOKE_OWNER_KEY sets a slot's revoked fuse and ends
with 4 for a slot above 3, or with 1 as well; SET_OWNER_ENFORCE sets its fuse. -/
def Obligations.FuseCommands : Prop :=
  ∀ (s x y : State) (t i k : Nat) (d : Desc) (b : Bytes), x = s.advanceTo t → x.Settled → x.up = true → y = x.hostRead d.buf 64 →
    (x.turn 14 3 = some (i, k, d) →
      (x.otpOpen = false → ∀ burnt, exec (.commitVersion t burnt) s = .next (x.ends i k 2)) ∧
      (x.otpOpen = true → exec (.commitVersion t false) s = .next (x.ends i k 3) ∧
        exec (.commitVersion t true) s = .next ((x.modSec fun z => { z with rollback := min 64 (max z.rollback z.runVersion) }).ends i k 0))) ∧
    (x.turn 14 4 = some (i, k, d) → x.sec.writing = none →
      (x.otpOpen = false → ∀ w, exec (.programOwnerKey t (some b) w) s = .next (x.ends i k 2)) ∧
      (x.otpOpen = true → d.len < 64 → ∀ w, exec (.programOwnerKey t (some b) w) s = .next (x.ends i k 1 64)) ∧
      (x.otpOpen = true → 64 ≤ d.len → x.canDma = true →
        (∀ j, (List.range 4).find? (fun j => !nbit x.sec.ownerUsed j && !nbit x.sec.ownerValid j) = some j →
          exec (.programOwnerKey t (some b) .underWay) s = .next (y.modSec fun z =>
            { z with ownerUsed := nset z.ownerUsed j true, ownerHash := tput (fun _ => []) z.ownerHash j (b.take 64), writing := some j }) ∧
          exec (.programOwnerKey t (some b) (.readBack true)) s = .next ((y.modSec fun z =>
            { z with ownerUsed := nset z.ownerUsed j true, ownerHash := tput (fun _ => []) z.ownerHash j (b.take 64), writing := none,
                     ownerValid := nset z.ownerValid j true }).ends i k 0) ∧
          exec (.programOwnerKey t (some b) (.readBack false)) s = .next ((y.modSec fun z =>
            { z with ownerUsed := nset z.ownerUsed j true, ownerHash := tput (fun _ => []) z.ownerHash j (b.take 64),
                     writing := none }).ends i k 3)) ∧
        ((List.range 4).find? (fun j => !nbit x.sec.ownerUsed j && !nbit x.sec.ownerValid j) = none →
          ∀ w, exec (.programOwnerKey t (some b) w) s = .next (y.ends i k 3)))) ∧
    (x.turn 14 4 = some (i, k, d) → ∀ j, x.sec.writing = some j →
      exec (.programOwnerKey t none .underWay) s = .next x ∧
      exec (.programOwnerKey t none (.readBack true)) s = .next ((x.modSec fun z =>
        { z with writing := none, ownerValid := nset z.ownerValid j true }).ends i k 0) ∧
      exec (.programOwnerKey t none (.readBack false)) s = .next ((x.modSec fun z => { z with writing := none }).ends i k 3)) ∧
    (x.turn 14 5 = some (i, k, d) →
      (x.otpOpen = false → ∀ burnt, exec (.revokeOwnerKey t (some b) burnt) s = .next (x.ends i k 2)) ∧
      (x.otpOpen = true → d.len < 64 → ∀ burnt, exec (.revokeOwnerKey t (some b) burnt) s = .next (x.ends i k 1 64)) ∧
      (x.otpOpen = true → 64 ≤ d.len → x.canDma = true →
        (lef b 0 4 ≤ 3 → exec (.revokeOwnerKey t (some b) true) s =
            .next ((y.modSec fun z => { z with ownerRevoked := nset z.ownerRevoked (lef b 0 4) true }).ends i k 0) ∧
          exec (.revokeOwnerKey t (some b) false) s = .next (y.ends i k 3)) ∧
        (3 < lef b 0 4 → ∀ burnt, exec (.revokeOwnerKey t (some b) burnt) s = .next (y.ends i k 4)))) ∧
    (x.turn 14 6 = some (i, k, d) →
      (x.otpOpen = false → ∀ burnt, exec (.setOwnerEnforce t burnt) s = .next (x.ends i k 2)) ∧
      (x.otpOpen = true → exec (.setOwnerEnforce t false) s = .next (x.ends i k 3) ∧
        exec (.setOwnerEnforce t true) s = .next ((x.modSec fun z => { z with ownerEnforce := true }).ends i k 0)))

/-! ### Time, the Bell -/

/-- At an update instant the rate moves to its target by at most TIM_SLEW.step, once, and T of that very tick stays what it was (R160); at
any other tick nothing happens. TIM_CTRL.set in Configure makes T of that tick the value of TIM_SET (modulo the 96 bits of T) and the
quality free-running, with no source present since (R164, R166). A write of TIM_TARGET_HI takes the pair, limited to 200 ppm, as the
target while TIM_CTRL.servo is 1 and changes nothing otherwise (R161, R165). -/
def Obligations.TimeSteering : Prop :=
  (∀ (s x : State) (t : Nat), x = s.advanceTo t → x.Settled → x.released = true →
    (x.clk.now % 1000000 = 0 → x.tim.updAt ≠ some x.clk.now →
      s.Runs (.updateInstant t) fun u => u.timeAt x.clk.now = x.timeAt x.clk.now ∧ u.tim.target = x.tim.target ∧
        u.tim.updAt = some x.clk.now ∧ u.clk = x.clk ∧ u.mode = x.mode ∧ u.regs = x.regs ∧
        (x.tim.rateHeld = true → u.tim.rate = x.tim.rate) ∧
        (x.tim.rateHeld = false → (x.tim.target - x.tim.rate).natAbs ≤ x.rf .timSlew 0 23 0 → u.tim.rate = x.tim.target) ∧
        (x.tim.rateHeld = false → x.tim.rate + x.rf .timSlew 0 23 0 < x.tim.target → u.tim.rate = x.tim.rate + x.rf .timSlew 0 23 0) ∧
        (x.tim.rateHeld = false → x.tim.target < x.tim.rate - x.rf .timSlew 0 23 0 → u.tim.rate = x.tim.rate - x.rf .timSlew 0 23 0)) ∧
    ((x.clk.now % 1000000 ≠ 0 ∨ x.tim.updAt = some x.clk.now) → exec (.updateInstant t) s = .next x)) ∧
  (∀ (s x : State) (t : Nat) (v : Word), x = s.advanceTo t → x.Settled → x.up = true →
    (bit v 0 = true → x.mode.mode = 1 → (x.reg .timSet 0).toNat + (x.reg .timSet 1).toNat * 2 ^ 32 < 2475880078570760549 →
      s.Runs (.timCtrlSet t v) fun u =>
        u.timeAt x.clk.now = tsValue [x.reg .timSet 0, x.reg .timSet 1, x.reg .timSet 2, x.reg .timSet 3] % 2 ^ 96 ∧
        u.tim.timeSet = true ∧ u.tim.quality = 1 ∧ u.tim.ptpOk = false ∧ u.tim.ppsOk = false ∧ u.tim.rate = x.tim.rate ∧ u.clk = x.clk) ∧
    (x.rb .timCtrl 0 6 = true → s.Runs (.timTargetWrite t v) fun u =>
      u.tim.target = max (-56294995342) (min 56294995342 (sx 64 (v.toNat * 2 ^ 32 + (x.reg .timTargetLo).toNat))) ∧
      u.tim.rateHeld = false ∧ u.tim.rate = x.tim.rate ∧ u.tim.offset = x.tim.offset ∧ u.mode = x.mode ∧ u.clk = x.clk ∧
      u.reg .timTargetLo = word (cx 64 u.tim.target) ∧ u.reg .timTargetHi = word (cx 64 u.tim.target / 2 ^ 32)) ∧
    (x.rb .timCtrl 0 6 = false → exec (.timTargetWrite t v) s = .next x))

/-- A lost source (R167): a selected PTP source that is present is lost when no Sync has come for 4 of its intervals or no Announce counts
any more, a selected PPS_IN when 2.5 s passed without an edge, and not before; Locked falls to holdover, Acquiring to free-running, the
rate holds, and a fall out of Locked raises time_quality (R166). Holdover ends after TIM_CTRL.holdover_s seconds (R166). Quality from
offset estimates (R166): Acquiring becomes Locked with the sixteenth estimate in a row within 50 ns and starts over on one beyond; Locked
falls to Acquiring on one beyond 200 ns. -/
def Obligations.TimeQuality : Prop :=
  (∀ (s x : State) (t : Nat), x = s.advanceTo t → x.Settled → x.up = true →
    (x.timSource = 0 → x.tim.ptpOk = true → (x.slavePort = none ∨ x.tim.lastSync + 4 * x.tim.syncEvery ≤ x.clk.now) →
      s.Runs (.ptpSourceLost t) fun u => u.tim.ptpOk = false ∧ u.tim.rateHeld = true ∧ u.tim.rate = x.tim.rate ∧ u.clk = x.clk ∧
        u.tim.quality = (if x.tim.quality = 3 then 4 else if x.tim.quality = 2 then 1 else x.tim.quality) ∧
        (x.tim.quality = 3 → x.severity 160 ≠ 0 → u.latched 160 = true)) ∧
    (x.slavePort ≠ none → x.clk.now < x.tim.lastSync + 4 * x.tim.syncEvery → exec (.ptpSourceLost t) s = .next x) ∧
    (x.timSource = 1 → x.tim.ppsOk = true → x.tim.lastPps + 2500000000 ≤ x.clk.now →
      s.Runs (.ppsSourceLost t) fun u => u.tim.ppsOk = false ∧ u.tim.rateHeld = true ∧ u.tim.rate = x.tim.rate ∧ u.clk = x.clk ∧
        u.tim.quality = (if x.tim.quality = 3 then 4 else if x.tim.quality = 2 then 1 else x.tim.quality) ∧
        (x.tim.quality = 3 → x.severity 160 ≠ 0 → u.latched 160 = true)) ∧
    (x.clk.now < x.tim.lastPps + 2500000000 → exec (.ppsSourceLost t) s = .next x) ∧
    (∀ c, x.tim.quality = 4 → x.tim.holdSince = some c → c + max 1 (x.rf .timCtrl 0 31 16) * 1000000000 ≤ x.clk.now →
      s.Runs (.holdoverExpired t) fun u => u.tim.quality = 5 ∧ u.tim.rate = x.tim.rate ∧ u.tim.offset = x.tim.offset ∧ u.regs = x.regs ∧
        u.mode = x.mode)) ∧
  (∀ (s : State) (e : Int),
    (s.tim.quality = 2 → e.natAbs ≤ 50 → s.tim.inBand = 15 → (s.estimate e).tim.quality = 3) ∧
    (s.tim.quality = 2 → e.natAbs ≤ 50 → s.tim.inBand < 15 →
      (s.estimate e).tim.quality = 2 ∧ (s.estimate e).tim.inBand = s.tim.inBand + 1) ∧
    (s.tim.quality = 2 → 50 < e.natAbs → (s.estimate e).tim.quality = 2 ∧ (s.estimate e).tim.inBand = 0) ∧
    (s.tim.quality = 3 → 200 < e.natAbs → (s.estimate e).tim.quality = 2) ∧
    (s.tim.quality = 3 → e.natAbs ≤ 200 → s.estimate e = s))

/-- PPS_OUT rises at the first tick of a second while it is on, stays low while it is off, and falls when its width has passed (R169);
PPS_IN is stamped with T of its edge plus the fixed path, and a selected PPS_IN is then present and acquired where time is set and not
locked (R166, R170). -/
def Obligations.PulsePerSecond : Prop :=
  ∀ (s x : State) (t e : Nat) (v : Servo), x = s.advanceTo t → x.Settled → x.up = true →
    (x.rb .timPpsCtrl 0 30 = true → x.tim.ppsPin = false → 0 < x.clk.now → x.ppsSecond x.clk.now ≠ x.ppsSecond (x.clk.now - 1) →
      s.Runs (.ppsOutRise t) fun u => u.tim.ppsPin = true ∧
        u.tim.ppsFall = x.clk.now + max 1 (x.rf .timPpsCtrl 0 23 16) * 1000000 ∧
        u.tim.ppsSec = x.ppsSecond x.clk.now ∧ u.tim.offset = x.tim.offset ∧ u.regs = x.regs ∧ u.mode = x.mode) ∧
    (x.rb .timPpsCtrl 0 31 = false → x.rb .timPpsCtrl 0 30 = false → exec (.ppsOutRise t) s = .next x) ∧
    (x.tim.ppsPin = true → x.tim.ppsFall ≤ x.clk.now → exec (.ppsOutFall t) s = .next (x.modTim fun m => { m with ppsPin := false })) ∧
    (x.timSource ≠ 1 → exec (.ppsInEdge t e v) s = .next (x.modTim fun m =>
      { m with ppsStamp := x.timeAt (e + Config.ppsToStamp), lastPps := x.clk.now })) ∧
    (x.timSource = 1 → s.Runs (.ppsInEdge t e ⟨none, none, none⟩) fun u =>
      u.tim.ppsStamp = x.timeAt (e + Config.ppsToStamp) ∧ u.tim.ppsOk = true ∧ u.tim.lastPps = x.clk.now ∧ u.clk = x.clk ∧
      u.tim.quality = (if x.tim.ppsOk = false ∧ x.tim.timeSet = true ∧ x.tim.quality ≠ 3 then 2 else x.tim.quality))

/-- The Bell (R181 to R188): the entry in front fires when its count has come, once in a tick, leaves the table unless it repeats, and is
on its way to its unit; a repeating one goes back later by its period; before its count nothing fires. BELL_CANCEL lets the entry in front
fire if it bears the cookie and is due (R189), takes out every entry with its cookie and answers how many. A fired PHASE_STEP moves an
output's target, saturating (R75). -/
def Obligations.BellTable : Prop :=
  ∀ (s x y : State) (t : Nat), x = s.advanceTo t → x.Settled → x.up = true →
    (∀ e rest, x.bell.entries = e :: rest → e.lc ≤ x.clk.now → x.bell.lastFire ≠ some x.clk.now →
      s.Runs (.bellFire t) fun u => u.bell.fired = x.bell.fired ++ [⟨e, x.clk.now, bellArrive e.action x.clk.now⟩] ∧
        u.bell.lastFire = some x.clk.now ∧ (e.rep = false → u.bell.entries = rest) ∧
        (e.rep = true → e.net = false → u.bell.entries = insBy bellBefore { e with lc := e.lc + e.period, lateOk := true } rest) ∧
        u.rf .belStatus 0 31 16 = max (x.rf .belStatus 0 31 16) (min 0xFFFF (x.clk.now - e.lc)) ∧ u.mode = x.mode ∧ u.tim = x.tim) ∧
    (∀ e rest, x.bell.entries = e :: rest → x.clk.now < e.lc → exec (.bellFire t) s = .next x) ∧
    (∀ i k d, x.turn 0 0x11 = some (i, k, d) → (y = if (x.bell.entries.head?.map fun e => e.cookie) = some d.arg then x.bellFire else x) →
      exec (.bellCancel t) s = .next ((y.modBell fun b => { b with entries := b.entries.filter fun e => e.cookie != d.arg }).ends i k 0
        (y.bell.entries.filter fun e => e.cookie = d.arg).length)) ∧
    (∀ g j, x.bell.fired.find? (fun f => f.e.action = 0x06 && f.arrive ≤ x.clk.now) = some g → g.e.index = j → j < 3 →
      s.Runs (.phaseStep t) fun u => u.reg .pllBTarget j = word (cx 32 (sat 32 (sx 32 (x.reg .pllBTarget j).toNat + sx 32 g.e.arg))) ∧
        (∀ o, o ≠ Reg.pllBTarget.addr j → tget regReset u.regs o = tget regReset x.regs o) ∧ u.mode = x.mode ∧ u.tim = x.tim)

/-- BELL_ADD with one entry for this device (R183, R186, R187): a good one is placed by its rank and answered with 1 inserted; one whose
time has passed without late_ok ends with status 3, one with the table full with 2, an ill-formed one with 4; a buffer too short for the
entries ends with 6. A fired EMIT_FRAME sends its template with the firing's instant (R193). -/
def Obligations.BellEntries : Prop :=
  ∀ (s x y : State) (t i k : Nat) (d : Desc) (b : Bytes), x = s.advanceTo t → x.Settled → x.up = true → y = x.hostRead d.buf 32 →
    (x.turn 0 0x10 = some (i, k, d) →
      (d.len < 32 * d.arg → exec (.bellAdd t (some b)) s = .next (x.ends i k 6)) ∧
      (x.canDma = true → d.arg = 1 → 32 ≤ d.len → b.length = 32 → x.bellHere (lef b 8 2) = true → nbit (lef b 8 2) 15 = false →
        (x.bellBad b = true → exec (.bellAdd t (some b)) s = .next (y.ends i k 4 0)) ∧
        (x.bellBad b = false → (x.bellAction (lef b 0x0A 1) (lef b 0x0B 1) (lef b 0x0C 2) (lef b 0x10 4)).2 = true →
          nbit (lef b 0x0E 2) 0 = false →
          (lef b 0 8 ≤ x.clk.now → nbit (lef b 0x0E 2) 1 = false → exec (.bellAdd t (some b)) s = .next (y.ends i k 3 0)) ∧
          (x.clk.now < lef b 0 8 → 4096 ≤ x.bellUsed → exec (.bellAdd t (some b)) s = .next (y.ends i k 2 0)) ∧
          (x.clk.now < lef b 0 8 → x.bellUsed < 4096 → exec (.bellAdd t (some b)) s = .next ((y.modBell fun m =>
            { m with nextOrder := m.nextOrder + 1, entries := insBy bellBefore ⟨lef b 0 8, m.nextOrder, false, 0, nbit (lef b 0x0E 2) 1,
              nbit (lef b 0x0E 2) 2, lef b 0x0A 1, lef b 0x0B 1, lef b 0x0C 2, lef b 0x10 4, lef b 0x14 4, lef b 0x18 4⟩ m.entries }).ends
            i k 0 1))))) ∧
    (∀ f, x.bell.fired.find? (fun f => f.e.action = 0x0A && f.arrive ≤ x.clk.now) = some f →
      exec (.emitFrame t) s = .next (((x.modBell fun m => { m with fired := delFirst (fun f => f.e.action = 0x0A && f.arrive ≤ x.clk.now) m.fired
        }).sendTemplate f.e.index (32 * ((f.fireAt : Int) + sx 32 f.e.arg))).settle))

/-! ### Station ports -/

/-- Frames on a station port (R171 to R174): one too short, too long or with two tags is dropped and counted, and so is one for or from
the device with a bad FCS; a good one for the device's own address is delivered with its ingress stamp and goes nowhere else; one from its
own address is dropped; a broadcast is queued on the other port and delivered; another unicast is queued on the other port alone, and one
for another group address there and, while PTP_CTRL asks for them, delivered; a PTP event message or a Bell frame takes the high queue. -/
def Obligations.StationFrames : Prop :=
  ∀ (s x : State) (t n a b : Nat) (f : Bytes) (e : Option Int) (v : Steer), x = s.advanceTo t → x.Settled → x.staUp n = true →
    ((f.length < 64 ∨ 2004 < f.length) → exec (.stationFrame t n a b f e v) s = .next (x.staDrop n)) ∧
    (beVal (slice f 12 2) = 0x8100 → beVal (slice f 16 2) = 0x8100 → exec (.stationFrame t n a b f e v) s = .next (x.staDrop n)) ∧
    (64 ≤ f.length → f.length ≤ 2004 → beVal (slice f 12 2) ≠ 0x8100 →
      (lef f (f.length - 4) 4 ≠ crc32 (f.take (f.length - 4)) → (f.take 6 = x.ownMac ∨ slice f 6 6 = x.ownMac) →
        exec (.stationFrame t n a b f e v) s = .next (x.staDrop n)) ∧
      (lef f (f.length - 4) 4 = crc32 (f.take (f.length - 4)) →
        (f.take 6 = x.ownMac → exec (.stationFrame t n a b f e v) s = .next (x.deliver n (x.rxStamp n a) f)) ∧
        (f.take 6 ≠ x.ownMac → slice f 6 6 = x.ownMac → exec (.stationFrame t n a b f e v) s = .next (x.staDrop n)) ∧
        (f.take 6 = be 6 0xFFFFFFFFFFFF → x.ownMac ≠ be 6 0xFFFFFFFFFFFF → x.bellMac ≠ be 6 0xFFFFFFFFFFFF → slice f 6 6 ≠ x.ownMac →
          exec (.stationFrame t n a b f e v) s = .next ((x.staQueue (1 - n) (x.staHigh f) f).deliver n (x.rxStamp n a) f)) ∧
        (f.take 6 ≠ x.ownMac → slice f 6 6 ≠ x.ownMac → nbit (lef (f.take 6) 0 1) 0 = false →
          (f.take 6 ≠ x.bellMac ∨ etherType f ≠ x.rf .belCtrl 0 31 16) →
          exec (.stationFrame t n a b f e v) s = .next (x.staQueue (1 - n) (x.staHigh f) f)) ∧
        (f.take 6 ≠ x.ownMac → slice f 6 6 ≠ x.ownMac → nbit (lef (f.take 6) 0 1) 0 = true → f.take 6 ≠ be 6 0x0180C200000E →
          f.take 6 ≠ be 6 0x011B19000000 → f.take 6 ≠ x.bellMac → f.take 6 ≠ be 6 0xFFFFFFFFFFFF → exec (.stationFrame t n a b f e v) s = .next
            (if x.rb .ptpCtrl 0 0 then (x.staQueue (1 - n) (x.staHigh f) f).deliver n (x.rxStamp n a) f
              else x.staQueue (1 - n) (x.staHigh f) f))))

/-- Station port commands: a Pdelay_Req opens an exchange with its egress stamp, failing one still open (R177); the link's fall and return
(R370); TRANSMIT on port 0 queues the descriptor's frame with its FCS, writes the egress stamp where it is asked for, or ends with the
status of R179. -/
def Obligations.StationCommands : Prop :=
  ∀ (s x y z : State) (t n a : Nat) (b : Bytes), x = s.advanceTo t → x.Settled → x.up = true →
    (x.staUp n = true →
      (y = if (x.sta n).req.isSome then x.modSta n fun p => { p with exchanges := 0, pdelayOk := false } else x) →
      exec (.pdelayReqSend t n a) s = .next ((y.modSta n fun p =>
        { p with req := some ((x.sta n).reqSeq, (x.txStamp n a).toNat), reqSeq := ((x.sta n).reqSeq + 1) % 65536 }).staQueue n true
          (x.pdelayFrame n 2 (x.sta n).reqSeq 0 (zeros 10)))) ∧
    (n < 2 → (x.sta n).link = true → s.Runs (.stationLinkDown t n) fun u =>
      (u.sta n).link = false ∧ (u.sta n).pdelayOk = false ∧ (u.sta n).exchanges = 0 ∧ (u.sta n).req = none ∧ (u.sta n).restarting = true) ∧
    (n < 2 → x.rb .ptpPortCtrl n 31 = true →
      exec (.stationLinkUp t n) s = .next (x.modSta n fun p => { p with link := true, restarting := false })) ∧
    (∀ i k d m, x.turn 8 1 = some (i, k, d) → m = d.arg % 2048 →
      (d.arg / 2 ^ 16 % 4 = 0 → exec (.transmit t (some b) a) s = .next (x.ends i k 2)) ∧
      ((m < 60 ∨ 2000 < m) → exec (.transmit t (some b) a) s = .next (x.ends i k 2)) ∧
      (d.arg / 2 ^ 16 % 4 = 1 → 60 ≤ m → m ≤ 2000 →
        (nbit d.arg 18 = false → d.len < m → exec (.transmit t (some b) a) s = .next (x.ends i k 1 ((m + 63) / 64 * 64))) ∧
        (nbit d.arg 18 = true → d.len < m + 16 → exec (.transmit t (some b) a) s = .next (x.ends i k 1 ((m + 79) / 64 * 64))) ∧
        ((if nbit d.arg 18 then m + 16 else m) ≤ d.len → x.staUp 0 = false → exec (.transmit t (some b) a) s = .next (x.ends i k 3)) ∧
        ((if nbit d.arg 18 then m + 16 else m) ≤ d.len → x.staUp 0 = true → x.canDma = true →
          z = (x.hostRead d.buf m).staQueue 0 (x.staHigh (b.take m)) (withFcs (b.take m)) →
          (nbit d.arg 18 = false → exec (.transmit t (some b) a) s = .next (z.ends i k 0)) ∧
          (nbit d.arg 18 = true → (x.ring i).state = 1 → exec (.transmit t (some b) a) s = .next
            ((z.hostWrite (d.buf + d.len - 16) (tsBytes (x.tim.timeOf (x.txStamp 0 a)))).finishAct i k ⟨0, 0, 16⟩)))))

/-! ### Cell links -/

/-- Downstream frames (R195 to R197, R205, R251): a port that is Off sends none; else the frame whose instant has come is formed once,
octet 0xBC first, with its number at byte 3 and the check value last, and only later edges stay queued. Before Ready it carries no edge
and no slot, with hold_safe 0 and, from mode 2 on, type RUN and the bypass of a port that is bypassed (the model's reading, DEDUCED, log
entry 45), and its symbols are the 8b/10b code of its octets. -/
def Obligations.DownstreamFrames : Prop :=
  ∀ (s x y : State) (t p : Nat), x = (s.advanceTo t).openGate 2 → x.up = true → x.hasPort p = true →
    ((x.port p).st = 0 → x.Settled → exec (.downstreamFrame t p) s = .next x) ∧
    (∀ n, (x.port p).st ≠ 0 → x.mode.mode ≠ 0 → x.frameNow p = some n → s.Runs (.downstreamFrame t p) fun u =>
      (u.port p).lastFrame = some n ∧ (∀ e ∈ (u.port p).edges, n < e.1) ∧
      ∃ body, (u.port p).lastBytes = le 1 0xBC ++ body ++ le 4 (crc32 body) ∧ lef body 2 5 = n % 2 ^ 40) ∧
    (∀ n b, ((x.port p).st = 1 ∨ (x.port p).st = 2) → x.mode.mode ≠ 0 → x.mode.mode ≤ 6 → x.frameNow p = some n → x.Settled →
      y = (if 2 ≤ x.mode.mode ∧ x.bypassAt p n = true ∧ (x.health1 p).state = 2 ∧ (x.port p).byNext = true then
        x.modPort p fun q => { q with byNext := false, byFrom := 1000 * n } else x) →
      b = y.frameBytes p n ⟨2 ≤ x.mode.mode, 2 ≤ x.mode.mode && x.bypassAt p n, false, true, false⟩ [] (zeros 16) →
      exec (.downstreamFrame t p) s = .next (y.modPort p fun q =>
        { q with edges := q.edges.filter (fun e => n < e.1), lastFrame := some n, lastBytes := b,
                 line := (codeFrame q.rd (b.map fun o => o.toNat)).1, rd := (codeFrame q.rd (b.map fun o => o.toNat)).2,
                 sent := ((n, 32000 * (n : Int) - x.pair.o - q.adv) :: q.sent).take 32 }))

/-- Upstream frames (R196, R203, R209, R373, R375): a bad one is counted and breaks the runs of good ones; a good one is taken whole. In
Acquire eight good ones with a valid echo and this port's number end it, one whose port_echo has bit 7 clear leaves the run as it is, and
one with another number is Crossed. A confirmed bypass ends Bypassing, and the endpoint's release ends Returning. -/
def Obligations.UpstreamFrames : Prop :=
  (∀ (s x : State) (t p rx : Nat) (f : Bytes) (clean : Bool), x = (s.advanceTo t).openGate 2 → x.up = true → x.hasPort p = true →
    (x.port p).st ≠ 0 → rx + 32000 ≤ 32 * (x.clk.now + 1) →
    (upGood f clean = false → x.Settled → exec (.upstreamFrame t p rx f clean) s = .next (x.modPort p fun y =>
      { y with badUp := min 0xFFFF (y.badUp + 1), good := 0, retRun := if 8 ≤ y.retRun then y.retRun else 0 })) ∧
    (upGood f clean = true → exec (.upstreamFrame t p rx f clean) s = .next (x.upFrame p rx f).settle)) ∧
  ∀ (s : State) (p n echo st : Nat) (rtt : Int),
    ((s.port p).st = 1 → nbit echo 7 = true → echo % 64 = p → (s.port p).good < 7 →
      s.upState p echo rtt = s.modPort p fun y => { y with good := y.good + 1 }) ∧
    ((s.port p).st = 1 → nbit echo 7 = true → echo % 64 = p → 7 ≤ (s.port p).good →
      s.upState p echo rtt = s.modPort p fun y => { y with st := 2, good := 0, sum := 0, cnt := 0 }) ∧
    ((s.port p).st = 1 → nbit echo 7 = false → (s.port p).good < 8 → (s.upState p echo rtt).port p = s.port p) ∧
    ((s.port p).st = 1 ∨ (s.port p).st = 3 → nbit echo 7 = true → echo % 64 ≠ p → s.upState p echo rtt = s.portFault p 7) ∧
    ((s.health1 p).state = 2 → (s.health1 p).held = false → nbit st 5 = true → (s.port p).byFrom ≠ 0 →
      (s.port p).byFrom + 1000 ≤ 1000 * n → 1000 * n ≤ (s.port p).byFrom + 8000 →
      s.upRetire p n st = s.modHealth1 p fun h => { h with state := 3 }) ∧
    (∀ r, (s.health1 p).state = 4 → (s.port p).relFrom = some r → r ≤ n → nbit st 3 = false → nbit st 5 = false →
      s.upRetire p n st = s.portBack p ∧ ((s.portBack p).health1 p).state = 0)

/-- Delay measurement (R203 to R207, R209): the mean of 256 samples, d_down and d_up from it; Measure ends in Ready within 2 units and
goes through another pass with the new advance else, at most 4 passes; a delay beyond its limit is Out of range. In Ready the advance
moves by one unit at frames whose number is a multiple of 1,024. -/
def Obligations.DelayMeasurement : Prop :=
  (∀ (s : State) (p : Nat) (S mean d up : Int), mean = (S + 128) / 256 → d = (mean - 2048) / 2 + sx 32 (s.reg .lnkAsym p).toNat →
    up = mean - 2048 - d →
    (d ≤ s.downLimit → up ≤ s.upLimit →
      ((s.port p).st = 3 → (d - (s.port p).adv).natAbs ≤ 64 → s.newMean p S = s.modPort p fun y =>
        { y with mean := mean, dDown := d, dUp := up, sum := 0, cnt := 0 }) ∧
      ((s.port p).st = 2 → 2 < (d - (s.port p).adv).natAbs → (s.port p).passes < 3 →
        ((s.newMean p S).port p).st = 1 ∧ ((s.newMean p S).port p).adv = d ∧ ((s.newMean p S).port p).passes = (s.port p).passes + 1) ∧
      ((s.port p).st = 2 → 2 < (d - (s.port p).adv).natAbs → 3 ≤ (s.port p).passes →
        s.newMean p S = (s.modPort p fun y => { y with mean := mean, dDown := d, dUp := up, sum := 0, cnt := 0 }).portFault p 6) ∧
      ((s.port p).st = 2 → (d - (s.port p).adv).natAbs ≤ 2 → ((s.newMean p S).port p).st = 3 ∧ ((s.newMean p S).port p).dDown = d ∧
        ((s.newMean p S).port p).adv = (s.port p).adv)) ∧
    (s.downLimit < d ∨ s.upLimit < up → (s.health1 p).state ≠ 4 → s.severity 201 ≠ 0 → sourceOk s.var 201 = true → (s.newMean p S).latched 201 = true)) ∧
  ∀ (s x : State) (t p n : Nat), x = (s.advanceTo t).openGate 2 → x.Settled → x.up = true → x.hasPort p = true →
    ((x.port p).st = 3 → n % 1024 = 0 → 0 < n → (x.port p).lastFrame = some (n - 1) → (x.port p).stepAt ≤ n →
      exec (.advanceStep t p n) s = .next (x.modPort p fun y =>
        { y with stepAt := n + 1, adv := if y.adv < y.dDown then y.adv + 1 else if y.dDown < y.adv then y.adv - 1 else y.adv })) ∧
    (n % 1024 ≠ 0 → exec (.advanceStep t p n) s = .next x)

/-- Ports that fail and ports that are commanded (R209, R519): loss of the signal and the third missed slot in a row take a Ready port
Down with its source, and a retry to Acquire starts at once; a slot that closes with its frame taken ends the run of missed ones. LNK_CTRL
enables, disables, retrains and commits a new generation. -/
def Obligations.PortStates : Prop :=
  ∀ (s x y z : State) (t p : Nat) (v : Word), x = (s.advanceTo t).openGate 2 → x.up = true → x.hasPort p = true →
    ((x.port p).st = 3 → s.Runs (.cellLos t p) fun u => (u.port p).st = 1 ∧ (u.port p).passes = 0 ∧ (u.port p).good = 0 ∧
      ((x.health1 p).state ≠ 4 → x.severity 200 ≠ 0 → u.latched 200 = true) ∧ u.tim = x.tim ∧ u.bell = x.bell) ∧
    ((x.port p).st ≠ 3 → x.Settled → exec (.cellLos t p) s = .next x) ∧
    (∀ n, (x.port p).st = 3 → (x.port p).slotDone = some (n - 1) → 0 < n → (x.port p).sent.any (fun e => e.1 = n) = true →
      x.slotClose p (1000 * n) ≤ 32 * (x.clk.now : Int) →
      ((x.port p).echoes.contains n = true →
        exec (.upstreamSlotClose t p n) s = .next ((((x.modPort p fun y => { y with slotDone := some n, missRun := 0 }).capMark (0x40 + p)
          (x.unaligned (1000 * n))).capMark (0x80 + p) ((x.unaligned (1000 * (n - 6)) : Int) - 1)).seqGoAll).settle) ∧
      ((x.port p).echoes.contains n = false → 2 ≤ (x.port p).missRun →
        y = (((x.modPort p fun q =>
          { q with slotDone := some n, missRun := q.missRun + 1, tmiss := satAdd 8 q.tmiss 1,
                   retRun := if q.retRun < 8 then 0 else q.retRun }).capGap (0x40 + p)).capMark (0x40 + p)
            (x.unaligned (1000 * n))).capMark (0x80 + p) ((x.unaligned (1000 * (n - 6)) : Int) - 1) →
        z = (if y.portBand p = x.portBand p then y else y.fwPush p false) →
        exec (.upstreamSlotClose t p n) s = .next ((z.portFault p 4).seqGoAll).settle ∧ ((z.portFault p 4).port p).st = 1)) ∧
    (bit v 31 = true → bit v 0 = false → (x.port p).st = 0 → x.mode.mode ≠ 0 → x.Settled → exec (.lnkEnable t p v) s =
      .next ((x.setReg .lnkCtrl p (v &&& 0xC000FF00)).modPort p fun y => { y with st := 1, good := 0, sum := 0, cnt := 0, badUp := 0, passes := 0 })) ∧
    (bit v 31 = false → s.Runs (.lnkDisable t p v) fun u => (u.port p).st = 0 ∧ u.reg .lnkCtrl p = v &&& 0xC000FF00 ∧ u.tim = x.tim) ∧
    (bit v 31 = true → bit v 0 = true → (x.port p).st ≠ 0 → s.Runs (.lnkRetrain t p v) fun u => (u.port p).st = 1 ∧ (u.port p).passes = 0 ∧
      (u.port p).badUp = 0 ∧ u.reg .lnkCtrl p = v &&& 0xC000FF00 ∧ u.tim = x.tim) ∧
    (bit v 31 = true → bit v 0 = false → fld v 15 8 ≠ x.rf .lnkCtrl p 15 8 → x.Settled →
      ((x.port p).st = 3 → exec (.lnkGenerationWrite t p v) s = .next (((x.setReg .lnkCtrl p (v &&& 0xC000FF00)).modPort p fun y =>
        { y with committing := true, comFrom := if y.committing then y.comFrom else x.clk.now }).fwPush p true)) ∧
      ((x.port p).st = 1 → exec (.lnkGenerationWrite t p v) s = .next (x.setReg .lnkCtrl p (v &&& 0xC000FF00))))

/-- Ring 12 (R214) and the slot (R213): a request to a Ready port waits for its reply; one with a buffer below 64 bytes ends with 1 and
the length 64, one to a port that is not Ready with 2, an address that may not be written with 5. A request goes out in every 16th frame
and fails after its fourth sending. -/
def Obligations.SlotRequests : Prop :=
  (∀ (s x y : State) (t i k : Nat) (d : Desc) (b : Bytes), x = (s.advanceTo t).openGate 2 → x.up = true → x.Settled →
    y = (x.hostRead d.buf 64).holdAct i k →
    (x.turn 12 1 = some (i, k, d) →
      (d.len < 64 → exec (.mailbox t (some b)) s = .next (x.ends i k 1 64)) ∧
      (64 ≤ d.len → (x.port (d.arg % 64)).st ≠ 3 → exec (.mailbox t (some b)) s = .next (x.ends i k 2)) ∧
      (64 ≤ d.len → (x.port (d.arg % 64)).st = 3 → x.canDma = true → exec (.mailbox t (some b)) s = .next (y.modPort (d.arg % 64) fun q =>
        { q with hostQ := q.hostQ ++ [⟨0, 0x30, 0, slice b 0 12, false, some k, 0, 0⟩] }))) ∧
    (x.turn 12 2 = some (i, k, d) → 64 ≤ d.len → (x.port (d.arg % 64)).st = 3 → x.canDma = true →
      exec (.paramRead t (some b)) s = .next (y.modPort (d.arg % 64) fun q =>
        { q with hostQ := q.hostQ ++ [⟨0, 0x21, d.arg2 % 65536, [], false, some k, 0, 0⟩] })) ∧
    (x.turn 12 3 = some (i, k, d) → 64 ≤ d.len → (x.port (d.arg % 64)).st = 3 → ∀ n, n = d.arg2 / 65536 % 4 →
      (n = 0 → exec (.paramWrite t (some b)) s = .next (x.ends i k 5)) ∧
      (d.arg2 % 65536 < 0x1000 → d.arg2 % 65536 ≠ 0x22 → exec (.paramWrite t (some b)) s = .next (x.ends i k 5)) ∧
      (n ≠ 0 → 0x1000 ≤ d.arg2 % 65536 → d.arg2 % 65536 ≤ 0xFFFD → x.canDma = true →
        exec (.paramWrite t (some b)) s = .next (y.modPort (d.arg % 64) fun q =>
          { q with hostQ := q.hostQ ++ [⟨0, 0x10 + n, d.arg2 % 65536, slice b 0 (4 * n), false, some k, 0, 0⟩] })))) ∧
  ∀ (s : State) (p n : Nat) (r : SlotReq), (s.port p).req = some r →
    (n < r.next → s.slotSend p n = (zeros 16, s)) ∧
    (r.next ≤ n → r.sends < 4 →
      s.slotSend p n = (r.bytes, s.modPort p fun y => { y with req := some { r with sends := r.sends + 1, next := n + 16 } })) ∧
    (r.next ≤ n → 4 ≤ r.sends → s.slotSend p n = (zeros 16, s.slotFail p r))

/-! ### Health channels and retirement -/

/-- Health counters (R369, R382): an event adds one up to 255; at a whole multiple of its kind's window every counter of the kind loses
its leak, not below 0, once; a write to LNK_HLTH[h] clears the counter or the permanent mark and nothing else. Bell actions on cell ports
(R211, R381): CALIBRATE with argument 0 starts the set of samples of a Ready port again, with another argument retries it; CELL_RETIRE and
CELL_RETURN ask for a port's retirement and return, on a standby unit through its peer. -/
def Obligations.HealthAndBell : Prop :=
  ((∀ (s x : State) (t kind : Nat), x = s.advanceTo t → x.Settled → x.released = true → kind < 6 →
    (x.clk.now % (max 1 (x.rf .lnkHlthCfg kind 31 16) * 1000000) = 0 → s.Runs (.healthLeak t kind) fun u =>
      (∀ h, h < 106 → kindOf h = kind → x.hasChannel h = true → (x.health1 h).leakAt ≠ x.clk.now + 1 →
        u.health1 h = { x.health1 h with count := (x.health1 h).count - x.rf .lnkHlthCfg kind 7 0, leakAt := x.clk.now + 1 }) ∧
      (∀ h, 106 ≤ h ∨ kindOf h ≠ kind ∨ x.hasChannel h = false ∨ (x.health1 h).leakAt = x.clk.now + 1 → u.health1 h = x.health1 h) ∧
      u.regs = x.regs ∧ u.mode = x.mode ∧ u.ports = x.ports ∧ u.tim = x.tim) ∧
    (x.clk.now % (max 1 (x.rf .lnkHlthCfg kind 31 16) * 1000000) ≠ 0 → exec (.healthLeak t kind) s = .next x)) ∧
  (∀ (s x : State) (t h : Nat) (v : Word), x = s.advanceTo t → x.Settled → x.up = true →
    (x.hasChannel h = true → exec (.lnkHlthClear t h v) s = .next (x.modHealth1 h fun y =>
      { y with count := if bit v 31 then 0 else y.count, perm := y.perm && !bit v 30 })) ∧
    (x.hasChannel h = false → exec (.lnkHlthClear t h v) s = .next x)) ∧
  ∀ (s : State) (h : Nat), s.hasChannel h = true → s.rf .lnkHlthCfg (kindOf h) 15 8 = 0 →
    s.healthCount h = s.modHealth1 h fun y => { y with count := min 255 (y.count + 1) }) ∧
  (∀ (s x : State) (t p : Nat) (f : Fired), x.up = true → f.e.index = p → p < 48 →
    (x = (s.advanceTo t).openGate 2 → x.bell.fired.find? (fun f => f.e.action = 0x07 && f.arrive ≤ x.clk.now && f.e.unit = 0x06) = some f →
      ∀ y, y = x.modBell (fun b => { b with fired := delFirst (fun f => f.e.action = 0x07 && f.arrive ≤ x.clk.now && f.e.unit = 0x06) b.fired }) →
      (x.hasPort p = true → f.e.arg = 0 → (x.port p).st = 3 → x.Settled →
        exec (.calibrateLink t) s = .next (y.modPort p fun q => { q with sum := 0, cnt := 0 })) ∧
      (x.hasPort p = true → f.e.arg ≠ 0 → exec (.calibrateLink t) s = .next (y.portRetry p).settle) ∧
      (x.hasPort p = false → x.Settled → exec (.calibrateLink t) s = .next y)) ∧
    (x = s.advanceTo t → x.bell.fired.find? (fun f => f.e.action = 0x08 && f.arrive ≤ x.clk.now) = some f →
      ∀ y, y = x.modBell (fun b => { b with fired := delFirst (fun f => f.e.action = 0x08 && f.arrive ≤ x.clk.now) b.fired }) →
      (x.standby = false → exec (.cellRetire t) s = .next (y.retireChannel p 5).settle) ∧
      (x.standby = true → x.Settled → exec (.cellRetire t) s = .next (y.forward 9 0 [p]))) ∧
    (x = s.advanceTo t → x.bell.fired.find? (fun f => f.e.action = 0x09 && f.arrive ≤ x.clk.now) = some f →
      ∀ y, y = x.modBell (fun b => { b with fired := delFirst (fun f => f.e.action = 0x09 && f.arrive ≤ x.clk.now) b.fired }) →
      (x.standby = false → exec (.cellReturn t) s = .next (y.returnRequest p).2.settle) ∧
      (x.standby = true → x.Settled → exec (.cellReturn t) s = .next (y.forward 10 0 [p]))))

/-- Retiring and returning (R372, R373, R376 to R379, R381): RETIRE and RETURN end with the state after the request, or go to the active
unit of a pair; a port in service first waits for its input close, and one in modes 0 and 1 is Retired at once; a return of a bypassing
channel waits, and one in the core cycle of a retire is refused; an unconfirmed bypass is Bypass failed with its source, and a return that
takes 64 frames goes back to Bypassing with its source. -/
def Obligations.RetireAndReturn : Prop :=
  (∀ (s x : State) (t p i k : Nat) (d : Desc), x = s.advanceTo t → x.up = true →
    (x.turn 0 0x30 = some (i, k, d) → x.standby = false → exec (.retire t) s = .next ((x.retireChannel d.arg 4).ends i k 0
      ((x.retireChannel d.arg 4).health1 d.arg).state).settle) ∧
    (x.turn 0 0x31 = some (i, k, d) → x.standby = false → exec (.returnCh t) s = .next ((x.returnRequest d.arg).2.ends i k
      (x.returnRequest d.arg).1 ((x.returnRequest d.arg).2.health1 d.arg).state).settle) ∧
    (x.turn 0 0x30 = some (i, k, d) → x.standby = true → x.Settled →
      exec (.retire t) s = .next ((x.holdAct i k).forward 4 (65536 * (i + 1) + k) [d.arg])) ∧
    (x.turn 0 0x31 = some (i, k, d) → x.standby = true → x.Settled →
      exec (.returnCh t) s = .next ((x.holdAct i k).forward 5 (65536 * (i + 1) + k) [d.arg])) ∧
    (x.hasPort p = true → (x.health1 p).state = 2 → (x.port p).byFrom ≠ 0 →
      x.slotClose p ((x.port p).byFrom + 8000) ≤ 32 * (x.clk.now : Int) → s.Runs (.bypassDeadline t p) fun u =>
        ((x.health1 p).held = false → (u.health1 p).state = 5) ∧ (x.severity 193 ≠ 0 → u.latched 193 = true) ∧
        u.tim = x.tim ∧ u.bell = x.bell ∧ u.mill = x.mill) ∧
    (x.hasPort p = true → (x.health1 p).state = 4 → (x.port p).retFrom + 64000 ≤ x.clk.now → exec (.returnTimeout t p) s =
      .next (((x.modHealth1 p fun y => { y with state := 2 }).modPort p fun y =>
        { y with byFrom := 0, preRel := false, byNext := true, relFrom := none }).raise 194 p).settle) ∧
    ((x.health1 p).state ≠ 4 → x.Settled → exec (.returnTimeout t p) s = .next x)) ∧
  ∀ (s y : State) (h c : Nat), y = s.retireAsked h →
    (s.retirable h = false → s.retireChannel h c = y) ∧
    (s.retirable h = true → h < 48 → s.mode.mode ≤ 1 → s.retireChannel h c = (y.modHealth1 h fun q => { q with state := 3 }).markRetired h c) ∧
    (s.retirable h = true → h < 48 → 2 ≤ s.mode.mode → (s.health1 h).state ≠ 4 →
      s.retireChannel h c = (y.modHealth1 h fun q => { q with state := 1 }).markRetired h c) ∧
    (s.hasChannel h = true → (y.returnRequest h).1 = 3) ∧
    ((s.health1 h).retireAt ≠ coreCycle s.clk.now + 1 →
      ((s.health1 h).state = 0 → s.returnRequest h = (0, s)) ∧
      ((s.health1 h).state = 2 → s.returnRequest h = (4, s.modHealth1 h fun q => { q with held := true })) ∧
      ((s.health1 h).state = 3 → h < 48 → s.mode.mode ≤ 1 → s.returnRefused h = false → (s.returnRequest h).1 = 0 ∧
        ((s.returnRequest h).2.health1 h).state = 0) ∧
      ((s.health1 h).state = 3 → h < 48 → 2 ≤ s.mode.mode → s.returnRefused h = false → (s.returnRequest h).1 = 0 ∧
        ((s.returnRequest h).2.health1 h).state = 4) ∧
      ((s.health1 h).state = 3 → s.returnRefused h = true → (s.returnRequest h).1 = 3))

/-! ### The Mill -/

/-- SETPOINT (R145, R189) writes its used slots into the setpoint inputs, except one that a Bell action wrote in this core cycle, and
waits for the input close that uses them; an index of 128 or more refuses all. WRITE_INPUT (R182) writes one. MILL_PARAM and WRITE_PARAM
(R347) write a tunable word at once in modes 0 and 1 and queue it for its task's input close else. A standby forwards them (R399). What
may not be written is refused with its status, or counted. -/
def Obligations.MillInputs : Prop :=
  ∀ (s x y : State) (t i k : Nat) (d : Desc) (f : Fired), x = (s.advanceTo t).openGate 0 → x.Settled → x.up = true →
    (x.turn 2 1 = some (i, k, d) →
      ((d.setpoints.any fun e => 128 ≤ e.1) = true → exec (.setpoint t) s = .next (x.ends i k 0x84)) ∧
      ((d.setpoints.any fun e => 128 ≤ e.1) = false → x.standby = true → exec (.setpoint t) s =
        .next ((x.holdAct i k).forward 2 (65536 * (i + 1) + k) (d.setpoints.flatMap fun e => [e.1, e.2]))) ∧
      ((d.setpoints.any fun e => 128 ≤ e.1) = false → x.standby = false → d.setpoints = [] → exec (.setpoint t) s = .next (x.ends i k 0)) ∧
      ((d.setpoints.any fun e => 128 ≤ e.1) = false → x.standby = false → d.setpoints ≠ [] → exec (.setpoint t) s =
        .next (((d.setpoints.foldl (fun z e => z.ringSetpoint e.1 e.2) x).holdAct i k).modMill fun m =>
          { m with setps := m.setps ++ [(k, d.setpoints.map fun e => 0x320 + e.1, x.clk.now)] }))) ∧
    (∀ (z : State) (a v : Nat), (nget z.mill.bellIn a = coreCycle z.clk.now + 1 → z.ringSetpoint a v = z) ∧
      (nget z.mill.bellIn a ≠ coreCycle z.clk.now + 1 →
        z.ringSetpoint a v = z.bankPut (0x320 + a) ⟨sx 16 v, z.clk.now, z.clk.now, none, true⟩)) ∧
    (x.turn 0 0x21 = some (i, k, d) →
      (x.standby = true → exec (.millParam t) s = .next ((x.holdAct i k).forward 3 (65536 * (i + 1) + k) [d.arg, d.arg2])) ∧
      (x.standby = false → x.mill.prog = none → exec (.millParam t) s = .next (x.ends i k 3)) ∧
      (x.standby = false → x.mill.prog.isSome = true → x.paramOpen d.arg = none → exec (.millParam t) s = .next (x.ends i k 4)) ∧
      (x.standby = false → x.paramOpen d.arg = some false → exec (.millParam t) s = .next (x.ends i k 2)) ∧
      (x.standby = false → x.paramOpen d.arg = some true → x.mode.mode ≤ 1 →
        exec (.millParam t) s = .next ((x.putParam d.arg d.arg2).ends i k 0)) ∧
      (x.standby = false → x.paramOpen d.arg = some true → 2 ≤ x.mode.mode → exec (.millParam t) s =
        .next ((x.holdAct i k).modMill fun m => { m with params := m.params ++ [⟨d.arg, d.arg2, x.clk.now, some k⟩] }))) ∧
    (x.bell.fired.find? (fun f => f.e.action = 0x01 && f.arrive ≤ x.clk.now) = some f →
      y = x.modBell (fun b => { b with fired := delFirst (fun f => f.e.action = 0x01 && f.arrive ≤ x.clk.now) b.fired }) →
      (x.standby = false → exec (.writeInput t) s = .next ((y.bankPut (0x320 + f.e.index)
        ⟨sx 16 f.e.arg, x.clk.now, x.clk.now, none, true⟩).modMill fun m =>
          { m with bellIn := nput m.bellIn f.e.index (coreCycle x.clk.now + 1) })) ∧
      (x.standby = true → exec (.writeInput t) s = .next (y.forward 6 0 [f.e.index, f.e.arg]))) ∧
    (x.bell.fired.find? (fun f => f.e.action = 0x02 && f.arrive ≤ x.clk.now) = some f →
      y = x.modBell (fun b => { b with fired := delFirst (fun f => f.e.action = 0x02 && f.arrive ≤ x.clk.now) b.fired }) →
      (x.standby = true → exec (.writeParam t) s = .next (y.forward 7 0 [f.e.index, f.e.arg])) ∧
      (x.standby = false → x.paramOpen f.e.index = some true → x.mode.mode ≤ 1 →
        exec (.writeParam t) s = .next (y.putParam f.e.index f.e.arg)) ∧
      (x.standby = false → x.paramOpen f.e.index = some true → 2 ≤ x.mode.mode → exec (.writeParam t) s =
        .next (y.modMill fun m => { m with params := m.params ++ [⟨f.e.index, f.e.arg, x.clk.now, none⟩] })) ∧
      (x.standby = false → x.paramOpen f.e.index ≠ some true → exec (.writeParam t) s = .next (y.bump .milStatus 0 27 20)))

/-- MILL_LOAD (R346) reads the header and the payload by DMA, answers the first check that fails and leaves the loaded program; an image
that passes is loaded and no parameter write waits. A read of MIL_DATA[0] latches the four words that MIL_SEL names (R348), and reads 0
before BAR0 is decoded. The periodic telemetry record (R342): at a whole multiple of the interval one record goes to ring role 15, and at
other instants or while it is off nothing happens. -/
def Obligations.MillProgramsAndTelemetry : Prop :=
  ∀ (s x : State) (t : Nat), x = (s.advanceTo t).openGate 0 → x.Settled →
    (∀ i k d b z c n, x.up = true → x.turn 0 0x20 = some (i, k, d) → n = hdrLength b → c = x.imageCheck b 2 "OCR-MILL" →
      z = (x.hostRead d.buf 0x2000).hostRead (d.buf + 0x2000) n →
      (x.mode.mode ≠ 1 → exec (.millLoad t (some b)) s = .next (x.ends i k 2)) ∧
      (x.mode.mode = 1 → d.len < 0x2000 → exec (.millLoad t (some b)) s = .next (x.ends i k 5)) ∧
      (x.mode.mode = 1 → 0x2000 ≤ d.len → x.canDma = true →
        exec (.millLoad t none) s = .next ((x.hostRead d.buf 0x2000).ends i k 0x81) ∧
        (d.len < 0x2000 + n → exec (.millLoad t (some b)) s = .next ((x.hostRead d.buf 0x2000).ends i k 5)) ∧
        (0x2000 + n ≤ d.len →
          (c ≠ 0 → exec (.millLoad t (some b)) s = .next (z.ends i k 3 c)) ∧
          (∀ e j, c = 0 → progCheck x.var n (slice b 0x2000 n) = some (e, j) →
            exec (.millLoad t (some b)) s = .next (z.ends i k 4 (e * 65536 + j))) ∧
          (c = 0 → progCheck x.var n (slice b 0x2000 n) = none → s.Runs (.millLoad t (some b)) fun u =>
            u.mill.prog = some (parseProg (slice b 0x2000 n)) ∧ u.mill.params = [] ∧ u.mill.blocks = [] ∧ u.mill.nodes = [] ∧
            u.mode = x.mode ∧ u.tim = x.tim)))) ∧
    (x.up = true → s.Runs (.milDataRead t) fun u => u.rdata = nth x.milWords 0 0 ∧
      (∀ j, j < 4 → u.latchAt (Reg.milData.addr j) = nth x.milWords j 0) ∧ u.regs = x.regs ∧ u.mill = x.mill) ∧
    ((s.advanceTo t).released = true → x.up = false → exec (.milDataRead t) s = .next { x with rdata := 0 }) ∧
    (x.up = true → x.rb .milTlmCtrl 0 31 = true → x.clk.now % (x.rf .milTlmCtrl 0 19 0 * 1000) = 0 →
      exec (.telemetryRecord t) s = .next (x.emitRecord 15 0x01 (x.teleBytes x.wchStatusWord))) ∧
    ((s.advanceTo t).released = true → x.rb .milTlmCtrl 0 31 = false ∨ x.clk.now % (x.rf .milTlmCtrl 0 19 0 * 1000) ≠ 0 →
      exec (.telemetryRecord t) s = .next x)

/-- A task's period (R17, R312 to R315, R326, R327, R397): its input close, in a group in one of modes 2 to 7, makes it ready from step 0
with its period's boundary; a step with the bank sealed takes the lanes for its cost, the last one with the final part; a standby that
takes the active unit's bank and has none for the period goes back to Join and runs nothing; the commit ends the period before the freeze
point, and at or past it nothing commits. -/
def Obligations.MillTasks : Prop :=
  ∀ (s x : State) (t task : Nat), x = (s.advanceTo t).openGate 0 → x.up = true → task < 3 →
    (∀ g b, x.grpOn g = true → x.taskOn task = true → x.taskGroup task = g → x.nowA = b + x.inputLead task → x.isBoundary g b = true →
      x.runsAt g b = true → ((x.task task).bk ≠ b ∨ (x.task task).closeAt ≠ x.clk.now) →
      (2 ≤ nget x.closeGroups.mode.groupMode g → nget x.closeGroups.mode.groupMode g ≤ 7 → s.Runs (.inputClose t g task) fun u =>
        (u.task task).bk = b ∧ (u.task task).step = 0 ∧ (u.task task).closeAt = u.clk.now ∧ (u.task task).prevClose = u.clk.now ∧
        (∀ p, x.closeGroups.mill.prog = some p → p.steps task ≠ [] → (u.task task).st = 1)) ∧
      (nget x.closeGroups.mode.groupMode g < 2 → (x.closeGroups.tasksOf g).head? ≠ some task → exec (.inputClose t g task) s =
        .next x.closeGroups.settle)) ∧
    (∀ p, x.mill.prog = some p → (x.task task).st = 1 → x.clk.now % 2 = 0 → x.taskStart task ≤ x.clk.now → x.mill.laneFree ≤ x.clk.now →
      (List.range task).any x.taskReady = false → ((List.range 3).any fun h => (x.task h).st = 2) = false →
      ((x.task task).sealed = true → s.Runs (.taskStep t task) fun u =>
        u.mill.cur = some task ∧ (u.task task).step = (x.task task).step + 1 ∧
        (u.task task).st = (if (p.steps task).length ≤ (x.task task).step + 1 then 2 else 1) ∧
        u.mill.laneFree = x.clk.now + 2 * stepCost (nth (p.steps task) (x.task task).step []) +
          (if (p.steps task).length ≤ (x.task task).step + 1 then 2 * p.finalCost task else 0) ∧ u.tim = x.tim) ∧
      (∀ z, (x.task task).sealed = false → x.sealFromPeer task = (true, z) → exec (.taskStep t task) s = .next (z.stepNow p task).settle) ∧
      ((x.task task).sealed = false → (x.sealFromPeer task).1 = false → x.takesBank = true → s.Runs (.taskStep t task) fun u =>
        (u.task task).st = 0 ∧ u.pair.st = 2 ∧ u.mill.nodes = x.mill.nodes ∧ u.mill.cur = x.mill.cur)) ∧
    (∀ p, x.mill.prog = some p → (x.task task).st = 2 → x.mill.laneFree ≤ x.clk.now + 2 →
      (coreCycle x.clk.now < x.unaligned (x.freezeAt (x.taskGroup task) (x.task task).bk) → s.Runs (.taskCommit t task) fun u =>
        (u.task task).st = 0 ∧ u.mill.cur = none) ∧
      (x.unaligned (x.freezeAt (x.taskGroup task) (x.task task).bk) ≤ coreCycle x.clk.now → x.Settled →
        exec (.taskCommit t task) s = .next x))

/-! ### Carrier groups, delay lines, local legs -/

/-- A carrier group (R231, R232, R244, R245, R247): its freeze point latches the plan for the window at its boundary, once; the latch
keeps direct codes and dynamic words while GCE_CTRL.hold is 1 and one was latched before, and takes the newest force codes committed
before the freeze cycle. A boundary starts the window, and the boundary after the last one stops the group. GCE_FORCE_CTRL.commit stages
the codes as they stand for the plan write's arrival, sends them on where the unit leads a pair, and is ignored on a standby (R398). -/
def Obligations.CarrierGroups : Prop :=
  (∀ (s x : State) (t g b : Nat), x = (s.advanceTo t).openGate 1 → x.up = true →
    (x.grpLive g = true → b = x.nowA + x.freezeLead g → x.grpPeriod g ≤ b → x.isBoundary g b = true → x.runsAt g b = true →
      x.runsAt g (b - x.grpPeriod g) = true → (x.grp g).frozen < b →
      exec (.freezePoint t g) s = .next (x.freeze g b (coreCycle x.clk.now)).settle) ∧
    (x.nowA + x.freezeLead g ≤ (x.grp g).frozen → x.Settled → exec (.freezePoint t g) s = .next x) ∧
    (∀ hits, x.grpLive g = true → (x.grp g).started = true → b = x.nowA → x.isBoundary g b = true → (x.grp g).b0 ≤ b →
      ((x.grp g).running = false ∨ (x.grp g).bk < b) →
      (x.runsAt g b = true → s.Runs (.groupBoundary t g hits) fun u => (u.grp g).running = true ∧ (u.grp g).bk = b ∧ u.tim = x.tim) ∧
      (x.runsAt g b = false → s.Runs (.groupBoundary t g hits) fun u => (u.grp g).running = false ∧ (u.grp g).started = false ∧
        u.tim = x.tim) ∧
      (x.groupLegs g = [] → x.runsAt g b = true → x.Settled → exec (.groupBoundary t g hits) s =
        .next (x.modGrp g fun y => { y with running := true, bk := b }))) ∧
    ((x.grp g).running = true → x.nowA ≤ (x.grp g).bk → x.Settled → ∀ hits, exec (.groupBoundary t g hits) s = .next x)) ∧
  (∀ (s : State) (g f b : Nat), ((s.latch g f b).grp g).frozen = b ∧
    (bit (s.gceWord f .gceCtrl) 0 = true → (s.grp g).frozen ≠ 0 →
      ((s.latch g f b).grp g).direct = (s.grp g).direct ∧ ((s.latch g f b).grp g).dyn = (s.grp g).dyn) ∧
    ((∀ e ∈ s.gce.staged, f ≤ e.1) → ((s.latch g f b).grp g).force = (s.grp g).force) ∧
    (∀ e, (s.gce.staged.filter fun e => e.1 < f).getLast? = some e → (s.grp g).forceAt < e.1 → ((s.latch g f b).grp g).force = e.2) ∧
    (∀ k, k ≠ g → (s.latch g f b).grp k = s.grp k) ∧ (s.latch g f b).regs = s.regs ∧ (s.latch g f b).mode = s.mode) ∧
  ∀ (s x : State) (t : Nat) (v : Word), x = s.advanceTo t → x.Settled → x.up = true →
    (bit v 0 = true → x.standby = false → s.Runs (.gceForceCommit t v) fun u => u.gce.staged = x.gce.staged ++
      [(x.planArrival, (List.range 25).filterMap fun (w : Nat) =>
        if x.reg .gceForce w = 0 then none else some (w, x.reg .gceForce w))] ∧ u.gce.pairs = x.gce.pairs ∧ u.regs = x.regs ∧ u.leg = x.leg ∧
      (x.leads = false → u.pair = x.pair)) ∧
    (bit v 0 = false ∨ x.standby = true → exec (.gceForceCommit t v) s = .next x)

/-- Delay lines (R254 to R257): an update instant takes the hits in, puts the table found at the last one in force and looks for the next;
a table that passes the margin clears the output's failures and coarse bit, one that does not is counted, sets its GCE_DL_FAIL bit and is
raised. No update happens at other instants. CALIBRATE empties the accumulators of the output it names, or of all. -/
def Obligations.DelayLines : Prop :=
  ∀ (s x y : State) (t n : Nat) (hits : List Nat), x = (s.advanceTo t).openGate 1 → (s.advanceTo t).released = true → n < 32 →
    (x.clk.now % 2000 = 0 → (x.line n).last ≠ x.clk.now + 1 → (x.grp (x.legGroup (n / 2))).running = false →
      y = x.modLine n (fun l =>
        { l with last := x.clk.now + 1, tab := l.next, acc := (List.range 48).map fun i => min 65535 (nth l.acc i 0 - nth l.acc i 0 / 16 + nth hits i 0) }) →
      ((y.line n).ok (y.line n).build x.dlMargin = true → x.Settled → exec (.delayLineUpdate t n hits) s =
        .next ((y.modLine n fun l => { l with next := (y.line n).build, fails := 0 }).setRb .gceDlCoarse 0 n false)) ∧
      ((y.line n).ok (y.line n).build x.dlMargin = false → s.Runs (.delayLineUpdate t n hits) fun u =>
        u.rb .gceDlFail 0 n = true ∧ (u.line n).fails = min 64 ((x.line n).fails + 1) ∧ (u.line n).tab = (x.line n).next ∧
        (x.severity 225 ≠ 0 → u.latched 225 = true) ∧ u.tim = x.tim)) ∧
    (x.clk.now % 2000 ≠ 0 → x.Settled → exec (.delayLineUpdate t n hits) s = .next x) ∧
    (∀ f, x.up = true → x.bell.fired.find? (fun f => f.e.action = 0x07 && f.arrive ≤ x.clk.now && f.e.unit = 0x07) = some f → x.Settled →
      y = x.modBell (fun b => { b with fired := delFirst (fun f => f.e.action = 0x07 && f.arrive ≤ x.clk.now && f.e.unit = 0x07) b.fired }) →
      (f.e.index = n → exec (.calibrateDelayLine t) s = .next (y.modLine n fun l => { l with acc := List.replicate 48 0 })) ∧
      (f.e.index = 0xFFFF → s.Runs (.calibrateDelayLine t) fun u => (∀ k, k < 32 → u.line k = { x.line k with acc := List.replicate 48 0 }) ∧
        u.regs = x.regs ∧ u.leg = x.leg ∧ u.tim = x.tim))

/-- Edges of a local switch (R252, R259, R261, R265, R267): the next scheduled edge of a switch, with no other edge of its leg by then,
leaves at its instant; an off-edge ends the conduction and clears the fault latch unless it refreshes or came with the fault; an on-edge
starts it with its blanking unless the switch is on or held off. The interlock refuses an on-edge while the partner is on, while it is in
a soft-off hold, less than 64 units after its last off-edge (offAt 0: none yet) or the end of its hold, or when both switches have an
on-edge at one instant; a refused on-edge leaves the switch off, sets its LEG_ILOCK bit and LEG_EVENT.interlock, and raises leg_interlock.
A write to LEG_OUT_EN acts at once on a leg whose group stands and at a boundary else. -/
def Obligations.LocalEdges : Prop :=
  (∀ (s x : State) (t n p : Nat) (h : LEdge) (r : List LEdge), x = s.advanceTo t → x.up = true → n < 32 → x.schedOf n = h :: r →
    p = (if n % 2 = 0 then n + 1 else n - 1) → (∀ e ∈ r, x.edgeAt n h < x.edgeAt n e) →
    (∀ e ∈ x.schedOf p, x.edgeAt n h < x.edgeAt p e) → x.edgeAt n h / 32 ≤ x.clk.now →
    ∃ y : State, exec (.localEdge t n) s = .next (y.applyEdge n (x.edgeAt n h) h false).settle ∧ y.schedOf n = r ∧
      y.schedOf p = x.schedOf p ∧ y.leg = x.leg ∧ y.regs = x.regs ∧ y.mode = x.mode ∧ y.clk = x.clk) ∧
  (∀ (s : State) (n at_ : Nat) (e : LEdge),
    (e.level = false → (s.sw n).on = true → (s.sw n).latch = false →
      s.applyEdge n at_ e false = (s.modSw n fun w => { w with on := false, offAt := at_ }).pinItem n at_ false) ∧
    (e.level = false → (s.sw n).on = false → (s.sw n).latch = true → s.applyEdge n at_ e false =
      if e.refresh = false ∧ (s.sw n).desatAt ≠ some (at_ / 32) then s.modSw n fun w => { w with latch := false } else s) ∧
    (e.level = true → (s.sw n).on = true → s.applyEdge n at_ e false = s) ∧
    (e.level = true → (s.sw n).on = false → s.heldOff n at_ = true → s.applyEdge n at_ e false = s) ∧
    (∀ y z, e.level = true → (s.sw n).on = false →
      y = s.modSw n (fun w => { w with ilock := true }) → z = y.raise 257 (768 + n) →
      (s.heldOff n at_ = false → s.interlocked n at_ = true → s.applyEdge n at_ e false = z.healthCount (48 + n / 2)) ∧
      ((s.sw (if n % 2 = 0 then n + 1 else n - 1)).on = false → s.applyEdge n at_ e true = z.healthCount (48 + n / 2)) ∧
      (y.sw n).on = false ∧ z.rb .legEvent 0 1 = true ∧ (s.severity 257 ≠ 0 → z.latched 257 = true)) ∧
    (∀ p, p = s.sw (if n % 2 = 0 then n + 1 else n - 1) →
      (p.on = true → s.interlocked n at_ = true) ∧
      (p.offAt ≠ 0 → at_ < p.offAt + 64 → s.interlocked n at_ = true) ∧
      (∀ f, p.hold = some f → at_ < 32 * f + 64 → s.interlocked n at_ = true) ∧
      (p.on = false → p.offAt = 0 ∨ p.offAt + 64 ≤ at_ → (∀ f, p.hold = some f → 32 * f + 64 ≤ at_) → s.interlocked n at_ = false)) ∧
    (e.level = true → (s.sw n).on = false → s.heldOff n at_ = false → s.interlocked n at_ = false →
      s.applyEdge n at_ e false = (s.modSw n fun w =>
        { w with on := true, onAt := at_, ilock := false, blanked := true, desatAt := none, blank := at_ / 32 + 8 * s.blanking (s.pairClass (384 + n / 2)) (s.legBand (n / 2)) }).pinItem n at_ true)) ∧
  ∀ (s x : State) (t n : Nat) (v : Word), x = s.advanceTo t → x.Settled → x.up = true → n < 16 →
    s.Runs (.legOutEnWrite t v) fun u => u.reg .legOutEn 0 = word (fld v 15 0) ∧
      ((x.grp (x.legGroup n)).running = true → (u.lg n).out = (x.lg n).out) ∧
      ((x.grp (x.legGroup n)).running = false → (u.lg n).out = bit v n) ∧
      ((x.grp (x.legGroup n)).running = false → bit v n = false → (x.lg n).out = true →
        (u.sw (2 * n)).on = false ∧ (u.sw (2 * n + 1)).on = false) ∧ u.mode = x.mode ∧ u.gce = x.gce

/-- Protection of local legs (R260, R264 to R268, R278): a sample of LEG_RDY that reads 0, the polarity of LEG_CFG applied, takes both
switches off and is raised once; one that reads 1 gives ready back; desaturation of a switch that is on and out of blanking starts
soft-off and latches the fault; blanking and hold end at their instants; a bootstrap bit clears where it is written 1 and its pair is
charged. -/
def Obligations.LegProtection : Prop :=
  ∀ (s x : State) (t n : Nat) (pin : Bool), x = s.advanceTo t → x.released = true →
    (n < 16 → ∀ y z, z = (fun (w : Sw) => if w.on then { w with on := false, offAt := 32 * (x.clk.now + (Config.readyToOff - 2)) } else w) →
      y = ((x.modLg n fun l => { l with ready := false, seen := true }).modSw (2 * n) z).modSw (2 * n + 1) z →
      ((pin != x.rb .legCfg n 1) = false → (x.lg n).ready = false → x.Settled → exec (.legRdyLoss t ⟨n, pin⟩) s = .next y) ∧
      ((pin != x.rb .legCfg n 1) = false → (x.lg n).ready = true →
        exec (.legRdyLoss t ⟨n, pin⟩) s = .next ((y.raise 258 n).healthCount (48 + n)).settle) ∧
      ((pin != x.rb .legCfg n 1) = true → x.Settled → exec (.legRdyLoss t ⟨n, pin⟩) s = .next x)) ∧
    (n < 16 → x.Settled → ((pin != x.rb .legCfg n 1) = true → (x.lg n).ready = false → exec (.legRdyReturn t ⟨n, pin⟩) s =
        .next (x.modLg n fun l => { l with ready := true, lastLow := if l.seen then x.clk.now - 1 else 0 })) ∧
      ((pin != x.rb .legCfg n 1) = false ∨ (x.lg n).ready = true → exec (.legRdyReturn t ⟨n, pin⟩) s = .next x)) ∧
    (n < 32 → x.Settled → ((x.sw n).blank ≤ x.clk.now → exec (.blankingEnd t n) s = .next (x.modSw n fun w => { w with blanked := false })) ∧
      (x.clk.now < (x.sw n).blank → exec (.blankingEnd t n) s = .next x)) ∧
    (n < 32 → (pin != x.rb .legCfg (n / 2) 0) = true → (x.sw n).on = true → ((x.sw n).blanked = false ∨ (x.sw n).blank ≤ x.clk.now) →
      (x.sw n).blank + max 1 (x.rf .legCfg (n / 2) 7 3) ≤ x.clk.now + 1 →
      exec (.desaturation t ⟨n, pin⟩) s = .next ((((x.softOff n (x.clk.now + Config.desatToSoftOff)).modSw n fun w =>
        { w with latch := true, desatAt := some x.clk.now }).raise 256 (768 + n)).healthCount (48 + n / 2)).settle) ∧
    ((x.sw n).on = false ∨ (pin != x.rb .legCfg (n / 2) 0) = false → x.Settled → exec (.desaturation t ⟨n, pin⟩) s = .next x) ∧
    (∀ e, (x.sw n).hold = some e → x.Settled → (e ≤ x.clk.now → exec (.softOffHoldEnd t n) s =
        .next (x.modSw n fun w => { w with hold := none, offAt := max w.offAt (32 * e) })) ∧
      (x.clk.now < e → exec (.softOffHoldEnd t n) s = .next x)) ∧
    (∀ w i, x.Settled → x.up = true → w < 13 → i < 32 → s.Runs (.legBootEmptyClear t w (word (2 ^ i))) fun u =>
      (32 * w + i < 400 → x.rf .legBpLevel (x.bootBits (32 * w + i) % 4) 15 0 ≤ (x.pst (32 * w + i)).q → u.rb .legBootEmpty w i = false) ∧
      ((400 ≤ 32 * w + i ∨ (x.pst (32 * w + i)).q < x.rf .legBpLevel (x.bootBits (32 * w + i) % 4) 15 0) → u.regs = x.regs) ∧
      u.mode = x.mode ∧ u.leg = x.leg ∧ u.gce = x.gce)

/-! ### Analog -/

/-- Spans (R285 to R293): a boundary span starts 150 ticks before its boundary; the sequencer takes its entries in order, each step 500
ticks and the wait after the last one, on the cores that are free, and passes over those in calibration; ADC_CTRL.enable starts it at
entry 0 and stops it; an injection waits for its core cycle, takes its cores, and aborts a sequencer step in progress there, which is
taken again 500 ticks later. -/
def Obligations.AnalogSpans : Prop :=
  ∀ (s x : State) (t c g : Nat) (v : Word), x = (s.advanceTo t).openGate 4 → (s.advanceTo t).released = true → x.Settled →
    (∀ k j, (x.tasksOf g).find? (fun k => (x.bset k c).isSome) = some k → x.bset k c = some j → c < 8 → x.grpOn g = true →
      x.isBoundary g (x.nowA + 150) = true → x.runsAt g (x.nowA + 150) = true → 1 ≤ x.mode.mode →
      ((x.spansOf c).any fun y => y.kind = 2 && y.start = x.clk.now) = false →
      exec (.boundarySpan t c g) s = .next (x.addSpan c ⟨2, 8 * j + c, x.clk.now, 0, 0, 0, 0, 0⟩)) ∧
    (∀ a b r, a = x.adc.entry → b = x.seqEntry a → r = x.adc.run + (if x.adc.rep = 0 ∧ x.adc.retake = false then 1 else 0) →
      (x.adc.seqOn = true ∨ x.adc.retake = true) → x.clk.now % 2 = 0 → x.adc.due ≤ x.clk.now → 1 ≤ x.mode.mode →
      (∀ k < 8, nbit (fld b 31 24) k = true → (x.acal k).active = false →
        x.coreBusy k = false ∧ x.boundaryNear k x.clk.now = false ∧ x.injNames k = false) →
      s.Runs (.sequencerStep t) fun u => u.adc.due = x.clk.now + 500 + 16 * fld b 8 0 ∧ u.adc.retake = false ∧
        u.adc.rep = (if x.adc.rep = fld b 16 9 then 0 else x.adc.rep + 1) ∧
        u.adc.entry = (if x.adc.rep = fld b 16 9 then (if a = x.rf .adcCtrl 0 8 0 then 0 else (a + 1) % 512) else a) ∧
        (∀ k < 8, nbit (fld b 31 24) k = true → (x.acal k).active = false →
          u.spansOf k = x.spansOf k ++ [⟨1, 8 * fld b 23 22 + k, x.clk.now, a, x.adc.rep, r, b, 0⟩]) ∧
        (∀ k < 8, (nbit (fld b 31 24) k = false ∨ (x.acal k).active = true) → u.spansOf k = x.spansOf k) ∧
        ((∀ k < 8, nbit (fld b 31 24) k = true → (x.acal k).active = false) → u.regs = x.regs) ∧ u.mode = x.mode) ∧
    ((x.adc.seqOn = false ∧ x.adc.retake = false) ∨ x.clk.now < x.adc.due → exec (.sequencerStep t) s = .next x) ∧
    (x.up = true → bit v 31 = true → s.Runs (.adcSeqStart t v) fun u =>
      (x.rb .adcCtrl 0 31 = false → 1 ≤ x.mode.mode → u.adc = { x.adc with
        seqOn := true, entry := 0, rep := 0, retake := false, due := coreCycle x.clk.now + 2 }) ∧
      (x.rb .adcCtrl 0 31 = true ∨ x.mode.mode = 0 → u.adc = x.adc) ∧
      u.reg .adcCtrl 0 = (if x.rwlShut then wfld (x.reg .adcCtrl 0) 31 31 1 else v &&& 0x800001FF) ∧ u.mode = x.mode) ∧
    (x.up = true → bit v 31 = false → s.Runs (.adcSeqStop t v) fun u => u.adc = { x.adc with seqOn := false } ∧
      u.reg .adcCtrl 0 = (if x.rwlShut then wfld (x.reg .adcCtrl 0) 31 31 0 else v &&& 0x800001FF) ∧ u.mode = x.mode) ∧
    (x.up = true → bit v 0 = true → x.adc.inj = none → x.mode.mode ≠ 0 → exec (.adcInjStart t v) s = .next (x.modAdc fun y =>
      { y with inj := some (x.rf .adcInjSel 0 23 0), injAt := coreCycle x.clk.now + Config.injection })) ∧
    (x.up = true → x.adc.inj.isSome = true ∨ x.mode.mode = 0 → exec (.adcInjStart t v) s = .next x) ∧
    (∀ sel, x.adc.inj = some sel → x.adc.injAt ≤ x.clk.now → x.clk.now % 2 = 0 →
      (∀ k < 8, nbit sel (3 * k + 2) = true → x.boundaryNear k x.clk.now = false ∧
        ∀ y ∈ x.spansOf k, y.busy x.clk.now = true → y.kind ≠ 2 ∧ y.kind ≠ 3) →
      ((∀ k < 8, nbit sel (3 * k + 2) = true → ∀ y ∈ x.spansOf k, y.busy x.clk.now = true → y.kind ≠ 1) →
        s.Runs (.injectedSpan t) fun u => u.adc.inj = none ∧ u.adc.entry = x.adc.entry ∧ u.adc.due = x.adc.due ∧ u.regs = x.regs ∧
        u.mode = x.mode ∧
        (∀ k < 8, nbit sel (3 * k + 2) = true → u.spansOf k = (x.spansOf k).filter (fun y => !(y.kind = 4 && y.busy x.clk.now)) ++
          [⟨3, 8 * (sel / 2 ^ (3 * k) % 4) + k, x.clk.now, 0, 0, 0, 0, 0⟩]) ∧
        (∀ k < 8, nbit sel (3 * k + 2) = false → u.spansOf k = x.spansOf k)) ∧
      (∀ y, (((List.range 8).filter fun k => nbit sel (3 * k + 2)).flatMap x.spansOf).find?
          (fun y => y.kind = 1 && y.busy x.clk.now) = some y →
        s.Runs (.injectedSpan t) fun u => u.adc.inj = none ∧ u.adc.retake = true ∧ u.adc.entry = y.entry ∧ u.adc.rep = y.rep ∧
          u.adc.due = x.clk.now + 500 ∧ u.regs = x.regs ∧ u.mode = x.mode))

/-- Results and calibration of precision cores (R294 to R303): a conversion is corrected with the coefficients of its sample instant and
delivered; in an averaging entry it adds to the sum, and the last of an entry's repetitions delivers the rounded, shifted sum; a link
error drops it, counts it and raises its source; a calibration is requested, starts, takes its spans, and ends with new coefficients for
its band or with its failure bit; ADC_CAL_GAIN puts the staged offset and the gain in force, except for the band in calibration. -/
def Obligations.PrecisionCores : Prop :=
  (∀ (s x : State) (t c : Nat) (raw : Int) (y : Span), x = (s.advanceTo t).openGate 4 → (s.advanceTo t).released = true →
    (x.spansOf c).find? (fun y => y.kind != 4) = some y →
    (∀ z o a n sh, z = correct 18 raw (coefAt (tget (fun _ => []) x.adc.hist c) (x.adcCoef c) y.sample) →
      o = (raw = -131072 || raw = 131071 || z.2) → a = x.aavg (avgKey c y.run) → n = fld y.word 16 9 → sh = min 8 (fld y.word 21 18) →
      y.sample + Config.precisionToBank ≤ x.clk.now → -131072 ≤ raw → raw ≤ 131071 →
      (y.kind ≠ 1 → exec (.precisionResult t c raw) s =
        .next ((x.dropSpan c y).deliverResult y.kind y.input y.sample z.1 o).settle) ∧
      (y.kind = 1 → bit y.word 17 = false ∨ n = 0 → exec (.precisionResult t c raw) s =
        .next ((x.dropSpan c y).deliverResult 1 y.input y.sample z.1 o).settle) ∧
      (y.kind = 1 → bit y.word 17 = true → n ≠ 0 → a.run = y.run → ∀ w,
        w = (x.dropSpan c y).modAavg (avgKey c y.run) (fun a => { a with sum := a.sum + z.1, ovr := a.ovr || o }) →
        (y.rep ≠ n ∨ a.lost = true → x.Settled → exec (.precisionResult t c raw) s = .next w) ∧
        (y.rep = n → a.lost = false → ∀ r, r = satF 18 (asr (a.sum + z.1 + (if sh = 0 then 0 else 2 ^ (sh - 1))) sh) →
          exec (.precisionResult t c raw) s = .next (w.deliverResult 1 y.input y.sample r.1 (a.ovr || o || r.2)).settle))) ∧
    (x.clk.now < y.sample + Config.precisionToBank → x.Settled → exec (.precisionResult t c raw) s = .next x) ∧
    (y.sample + Config.precisionLinkError ≤ x.clk.now → s.Runs (.precisionLinkError t c) fun u =>
      u.rf .adcErr 0 31 16 = min 65535 (x.rf .adcErr 0 31 16 + 1) ∧ (x.severity 290 ≠ 0 → u.latched 290 = true) ∧ u.tim = x.tim)) ∧
  (∀ (s x : State) (t c b : Nat) (v : Word) (raw : Int) (f : Fired), x = (s.advanceTo t).openGate 4 → (s.advanceTo t).released = true →
    x.Settled → c < 8 →
    (x.up = true → x.mode.mode ≠ 0 → fld v 7 0 = 2 ^ c → (x.acal c).active = false → (x.acal c).requested = false →
      s.Runs (.adcCalStart t v) fun u => (u.acal c).requested = true ∧ (u.acal c).reqBand = (if fld v 18 16 ≤ 4 then fld v 18 16 else 0) ∧
        (∀ k, k ≠ c → u.acal k = x.acal k) ∧ u.mode = x.mode) ∧
    (x.up = true → x.bell.fired.find? (fun f => f.e.action = 0x07 && f.arrive ≤ x.clk.now && f.e.unit = 0x09) = some f → f.e.index = c →
      exec (.calibrateAdc t) s = .next ((x.modBell fun b =>
        { b with fired := delFirst (fun f => f.e.action = 0x07 && f.arrive ≤ x.clk.now && f.e.unit = 0x09) b.fired }).calRequest c f.e.arg)) ∧
    ((x.acal c).requested = true → x.clk.now % 2 = 0 → x.injNames c = false → x.spansOf c = [] → s.Runs (.calibrationStart t c raw) fun u =>
      (u.acal c).active = true ∧ (u.acal c).requested = false ∧ (u.acal c).since = x.clk.now ∧ (u.acal c).count = 0 ∧
      (u.acal c).band = (if (x.acal c).reqBand = 0 then x.analogBand else (x.acal c).reqBand - 1) ∧ u.regs = x.regs) ∧
    ((x.acal c).active = true → (x.acal c).count < 512 → x.clk.now % 2 = 0 → x.spansOf c = [] → x.boundaryNear c x.clk.now = false →
      -131072 ≤ raw → raw ≤ 131071 → s.Runs (.calibrationSpan t c raw) fun u =>
        u.spansOf c = [⟨4, c, x.clk.now, 0, 0, 0, 0, raw⟩] ∧ u.acal c = x.acal c ∧ u.regs = x.regs) ∧
    ((x.acal c).active = true → (x.acal c).count = 512 → x.spansOf c = [] → (x.acal c).band < 4 →
      (∀ o g, calValues (x.acal c).z (x.acal c).r 6 (x.rf .adcCalRef c 17 0) = some (o, g) → s.Runs (.calibrationEnd t c) fun u =>
        u.acal c = Cal.reset ∧ u.reg .adcCalOfs c (x.acal c).band = word (cx 20 o) ∧ u.reg .adcCalGain c (x.acal c).band = word g ∧
        u.rb .adcCalStatus 0 c = true ∧ u.rb .adcCalStatus 0 (8 + c) = false ∧ u.mode = x.mode) ∧
      (calValues (x.acal c).z (x.acal c).r 6 (x.rf .adcCalRef c 17 0) = none → s.Runs (.calibrationEnd t c) fun u =>
        u.rb .adcCalStatus 0 (8 + c) = true ∧ u.reg .adcCalGain c (x.acal c).band = x.reg .adcCalGain c (x.acal c).band ∧
        (x.severity 288 ≠ 0 → u.latched 288 = true))) ∧
    (x.up = true → b < 4 → ((x.acal c).active = false ∨ (x.acal c).band ≠ b) → s.Runs (.adcCalGainWrite t c b v) fun u =>
      u.reg .adcCalGain c b = word (fld v 17 0) ∧ tget (fun _ => none) u.adc.stO4 (4 * c + b) = none ∧
      (∀ o, tget (fun _ => none) x.adc.stO4 (4 * c + b) = some o → u.reg .adcCalOfs c b = word o) ∧
      (tget (fun _ => none) x.adc.stO4 (4 * c + b) = none → u.reg .adcCalOfs c b = x.reg .adcCalOfs c b) ∧ u.mode = x.mode) ∧
    ((x.acal c).active = true → (x.acal c).band = b → exec (.adcCalGainWrite t c b v) s = .next x))

/-- Fast converters (R304 to R308, R311): a sample of a running core is corrected, shown, and used by capture, triggers, wave detectors
and protection; in a calibration it is gathered and every consumer skips it, as they skip a retired core's; a link error is counted and
raised; a calibration starts with the request and ends after 2,048 samples; FAD_CAL_GAIN puts the staged offset and the gain in force,
except for the band in calibration. -/
def Obligations.FastConverters : Prop :=
  ∀ (s x : State) (t n a b : Nat) (v : Word) (raw : Int) (f : Fired), x = (s.advanceTo t).openGate 4 → (s.advanceTo t).released = true →
    n < 6 → x.hasCap = true →
    (x.fastOn n = true → x.aligned a % 25 = 0 →
      (a + Config.fastSample ≤ x.clk.now → -2048 ≤ raw → raw ≤ 2047 →
        (x.fadCalAt n a = true → exec (.fastSample t n a raw) s = .next ((x.fadCalSample n a raw).fastInvalid n a).settle) ∧
        (x.fadCalAt n a = false → ∀ y z,
          y = correct 12 raw (coefAt (tget (fun _ => []) x.fad.hist n) (x.fadCoef n) a) →
          z = x.modFres n (fun _ => ⟨1, raw = -2048 || raw = 2047 || y.2, y.1, a⟩) →
          ((x.health1 (96 + n)).state ≠ 3 → exec (.fastSample t n a raw) s =
            .next ((((z.capFast n a y.1).atrgSample n a y.1).twSample n a y.1).fastProtect n a y.1).settle) ∧
          ((x.health1 (96 + n)).state = 3 → exec (.fastSample t n a raw) s = .next (z.fastInvalid n a).settle))) ∧
      (x.clk.now < a + Config.fastSample → x.Settled → exec (.fastSample t n a raw) s = .next x) ∧
      (a + Config.fastLinkError ≤ x.clk.now → exec (.fastLinkError t n a) s =
        .next ((((x.fastInvalid n a).bump .fadErr 0 31 0).raise 322 n).healthCount (96 + n)).settle)) ∧
    (x.Settled → x.up = true → x.mode.mode ≠ 0 → (x.fcal n).active = false →
      (fld v 5 0 = 2 ^ n → s.Runs (.fadCalStart t v) fun u => (u.fcal n).active = true ∧ (u.fcal n).since = x.clk.now ∧ (u.fcal n).count = 0 ∧
        (u.fcal n).band = (if fld v 18 16 = 0 ∨ 4 < fld v 18 16 then x.analogBand else fld v 18 16 - 1) ∧ (∀ k, k ≠ n → u.fcal k = x.fcal k)) ∧
      (x.bell.fired.find? (fun f => f.e.action = 0x07 && f.arrive ≤ x.clk.now && f.e.unit = 0x0A) = some f → f.e.index = n →
        exec (.calibrateFad t) s = .next ((x.modBell fun b =>
          { b with fired := delFirst (fun f => f.e.action = 0x07 && f.arrive ≤ x.clk.now && f.e.unit = 0x0A) b.fired }).fadRequest n f.e.arg))) ∧
    (x.Settled → (x.fcal n).active = true → (x.fcal n).count = 2048 → (x.fcal n).band < 4 →
      (∀ o g, calValues (x.fcal n).z (x.fcal n).r 8 (sx 12 (x.rf .fadCalRef n 11 0)) = some (o, g) → s.Runs (.fastCalibrationEnd t n) fun u =>
        u.fcal n = Cal.reset ∧ u.reg .fadCalOfs n (x.fcal n).band = word (cx 20 o) ∧ u.reg .fadCalGain n (x.fcal n).band = word g ∧
        u.rb .fadCalStatus 0 n = true ∧ u.rb .fadCalStatus 0 (8 + n) = false ∧ u.mode = x.mode) ∧
      (calValues (x.fcal n).z (x.fcal n).r 8 (sx 12 (x.rf .fadCalRef n 11 0)) = none → s.Runs (.fastCalibrationEnd t n) fun u =>
        u.rb .fadCalStatus 0 (8 + n) = true ∧ u.reg .fadCalGain n (x.fcal n).band = x.reg .fadCalGain n (x.fcal n).band ∧
        u.fcal n = Cal.reset ∧ (sourceOk x.var 320 = true → x.severity 320 ≠ 0 → u.latched 320 = true))) ∧
    (x.up = true → b < 4 → (x.Settled → ((x.fcal n).active = false ∨ (x.fcal n).band ≠ b) → s.Runs (.fadCalGainWrite t n b v) fun u =>
        u.reg .fadCalGain n b = word (fld v 17 0) ∧ tget (fun _ => none) u.fad.stO4 (4 * n + b) = none ∧
        (∀ o, tget (fun _ => none) x.fad.stO4 (4 * n + b) = some o → u.reg .fadCalOfs n b = word o) ∧
        (tget (fun _ => none) x.fad.stO4 (4 * n + b) = none → u.reg .fadCalOfs n b = x.reg .fadCalOfs n b) ∧ u.mode = x.mode) ∧
      ((x.fcal n).active = true → (x.fcal n).band = b → x.Settled → exec (.fadCalGainWrite t n b v) s = .next x))

/-! ### The pair link -/

/-- Frames of the pair link (R370, R385, R386, R388, R392, R395): frame n is formed at slot boundary n of the unit's count, with one or
two lanes in use, from the messages that fit, hashes first and a snapshot's last (log entry 123); a unit in Link adds its DIGEST at every
1000th, and with one lane no BANK and no SNAPSHOT goes out. A good frame, here one without messages from a seen peer, sets PAIR_PEER and
the stamps and takes an active unit from Paired to Detached when its peer's state asks it; a bad check value is an event on the lanes in
use, and so is a loss of alignment; a frame with code errors is no good frame and nothing else. -/
def Obligations.PairFrames : Prop :=
  ∀ (s x y : State) (t n : Nat) (two : Bool), x = (s.advanceTo t).openGate 2 → x.up = true → x.hasPeer = true → x.pair.st ≠ 0 →
    n = x.clk.now / 1000 →
    (two = (decide ((x.health1 104).state = 0) && decide ((x.health1 105).state = 0)) → (x.health1 104).state = 0 ∨ (x.health1 105).state = 0 →
      x.Settled → y = (if x.pair.st = 1 ∧ n % 1000 = 0 then x.pairSend 0x0C x.digestBytes else x) →
      (x.clk.now % 1000 = 0 → x.pair.formed ≤ n → ∀ (box out : List (Nat × Bytes)) (body msgs : Bytes) (area : Nat),
        box = (if two = true then y.pair.outbox else y.pair.outbox.filter fun m => m.1 != 0x01 && m.1 != 0x0B) →
        out = box.filter (fun m => m.1 = 3) ++ box.filter (fun m => m.1 != 3 && m.1 != 0x0B) ++ box.filter (fun m => m.1 = 0x0B) →
        area = (if two = true then 1214 else 589) → msgs = (out.take (fitMsgs area out)).flatMap msgBytes →
        body = le 1 (if two = true then 1 else 2) ++ le 1 (b2n x.pair.active + 2 * b2n x.paired) ++ le 1 x.pair.st ++ le 1 x.unitNo ++
          le 2 (x.rf .belCtrl 0 13 0) ++ le 8 (n % 2 ^ 40) ++ le 8 (((x.pair.stamps.find? fun e => e.1 + 1 = n).map fun e => e.2).getD 0) ++
          le 2 msgs.length ++ zeros 6 ++ padTo area msgs →
        exec (.pairFrameForm t) s = .next (y.modPair fun p =>
          { p with formed := n + 1, tx := (if two = true then le 2 0xBCBC else le 2 0x00BC) ++ body ++ le 4 (crc32 body),
                   outbox := out.drop (fitMsgs area out), stamps := p.stamps.filter fun e => n ≤ e.1 + 1 })) ∧
      (x.clk.now % 1000 ≠ 0 ∨ n < x.pair.formed → exec (.pairFrameForm t) s = .next x)) ∧
    (∀ rx f clean, rx + 32000 ≤ 32 * (x.clk.now + 1) →
      (∀ l, pairGood f clean = some l → exec (.pairFrame t rx f clean) s = .next (x.pairGoodFrame rx f l).settle) ∧
      (pairGood f clean = some [] → lef f 2 1 = 1 → x.pair.peerSeen = true → x.pair.st = 3 → x.pair.active = true →
        x.pair.cnt ≠ 255 → x.Settled → s.Runs (.pairFrame t rx f clean) fun u =>
          u.reg .pairPeer 0 = word (lef f 6 2 * 2 ^ 16 + lef f 4 1 * 2 ^ 13 + lef f 3 1 % 2 * 2 ^ 12) ∧ u.pair.rxStamp = rx ∧
          u.pair.rxFrame = lef f 8 5 ∧ u.pair.st = (if lef f 4 1 ≤ 1 ∨ 5 ≤ lef f 4 1 then 5 else 3) ∧ u.pair.active = true ∧
          u.pair.peerSt = lef f 4 1 ∧ u.ports = x.ports ∧ u.mode = x.mode ∧ u.gce = x.gce) ∧
      (pairGood f clean = none → clean = true → f.length = 1250 ∨ f.length = 625 → pairCrcOk f = false →
        exec (.pairFrame t rx f clean) s = .next ((x.iff x.pair.lane0 (·.laneEvent 0)).iff x.pair.lane1 (·.laneEvent 1)).settle) ∧
      (pairGood f clean = none → clean = false → x.Settled → exec (.pairFrame t rx f clean) s = .next x)) ∧
    exec (.pairLaneAlignmentLoss t 0) s = .next ((x.modPair fun p => { p with lane0 := false }).laneEvent 0).settle ∧
    exec (.pairLaneAlignmentLoss t 1) s = .next ((x.modPair fun p => { p with lane1 := false }).laneEvent 1).settle

/-- The peer (R387, R404): three slots without a good frame, or both lanes retired, lose it; a handover that was asked for ends with
status 0x02 (log entry 124). An active unit goes to Detached, a standby in Paired or Verify prepares to take the ports over, another
standby stands alone; after 16 frames without a port that follows, so does the first. Handover (R402, R403, R405, R406): the active unit
offers a frame 24 frames on and its standby asks through the link; a unit in state Solo answers with a Safe stop and becomes active; an
offer that is not accepted in time ends; at the agreed frame the roles change, and a unit that offered because of a verdict is Failed 16
frames later. -/
def Obligations.PairRoles : Prop :=
  (∀ (s x y : State) (t : Nat), x = (s.advanceTo t).openGate 2 →
    (y = x.handoverLost.modPair (fun p => { p with peerSeen := false, peerSt := 0, lane0 := false, lane1 := false, outbox := [], verif := none, own := [], peerH := [], sum := 0, cnt := 0, lastOff := none, digest := none, snapWant := false, segs := [], segNext := 0, bankSegs := [], bankNext := 0, backlog := [], lossAt := x.clk.now }) →
      x.up = true → x.hasPeer = true → x.pair.peerSeen = true → x.pair.st ≠ 0 →
      (x.pair.rxStamp + 128000 ≤ 32 * x.clk.now ∨ ((x.health1 104).state ≠ 0 ∧ (x.health1 105).state ≠ 0) →
        (x.pair.st < 6 → x.pair.active = true →
          exec (.peerLost t) s = .next ((y.modPair fun p => { p with st := 5 }).raise 416 0xFFFF).settle) ∧
        (x.pair.st = 3 ∨ x.pair.st = 4 → x.pair.active = false → exec (.peerLost t) s = .next
          (((y.forAll (List.range 48) fun p u => u.iff (u.port p).seized (·.modPort p fun z => { z with seized := false })).modPair fun p =>
            { p with seize := some x.nextFrame }).raise 416 0xFFFF).settle) ∧
        (x.pair.st = 1 ∨ x.pair.st = 2 ∨ x.pair.st = 5 → x.pair.active = false →
          exec (.peerLost t) s = .next ((y.modPair fun p => { p with st := 6 }).raise 416 0xFFFF).settle) ∧
        (6 ≤ x.pair.st → x.pair.st ≤ 7 → exec (.peerLost t) s = .next (y.raise 416 0xFFFF).settle)) ∧
      (32 * x.clk.now < x.pair.rxStamp + 128000 → (x.health1 104).state = 0 ∨ (x.health1 105).state = 0 → x.Settled →
        exec (.peerLost t) s = .next x)) ∧
    ((∀ f ∈ x.pair.forwarded, f.2.1 ≠ 11 ∨ f.2.2 = 0) →
      (x.pair.offer = none → x.handoverLost = x.modPair fun p => { p with forwarded := [] }) ∧
      (∀ o k, x.pair.offer = some o → o.act = some k →
        x.handoverLost = ((x.modPair fun p => { p with offer := none }).answer 0 k ⟨2, 0, 0⟩).modPair fun p => { p with forwarded := [] })) ∧
    (∀ n, (s.advanceTo t).released = true → x.pair.seize = some n → x.pair.active = false → x.pair.st = 3 ∨ x.pair.st = 4 → x.Settled →
      (x.pair.lossAt + 16000 ≤ x.clk.now → exec (.followTimeout t) s = .next (x.modPair fun p => { p with st := 6, seize := none })) ∧
      (x.clk.now < x.pair.lossAt + 16000 → exec (.followTimeout t) s = .next x))) ∧
  (∀ (s x : State) (t i k : Nat) (d : Desc), x = (s.advanceTo t).openGate 2 → x.Settled → (s.advanceTo t).released = true →
    (x.up = true → x.pair.offer = none → x.turn 0 0x38 = some (i, k, d) →
      (x.standby = true → exec (.pairHandover t) s = .next ((x.holdAct i k).forward 11 (65536 * (i + 1) + k) [])) ∧
      (x.standby = false → x.leads = true → exec (.pairHandover t) s = .next
        (((x.holdAct i k).pairSend 0x05 (le 5 ((x.nowA + 24999) / 1000) ++ le 1 0)).modPair fun p =>
          { p with offer := some ⟨(x.nowA + 24999) / 1000, 0, false, true, some k, 1000 * ((x.nowA + 24999) / 1000) - 12000⟩ })) ∧
      (x.standby = false → x.leads = false → x.pair.st ≠ 6 → exec (.pairHandover t) s = .next ((x.holdAct i k).answer 0 k ⟨2, 0, 0⟩).settle) ∧
      (x.standby = false → x.pair.st = 6 → exec (.pairHandover t) s = .next
        ((((x.holdAct i k).stopRequest 6 (coreCycle x.clk.now) none).modPair fun p => { p with st := 5, active := true }).answer 0 k ⟨0, 0, 0⟩).settle)) ∧
    (∀ o, x.pair.offer = some o →
      (o.outgoing = true → o.accepted = false → o.lapse ≤ x.nowA → exec (.offerLapse t) s = .next (x.offerFails 4 0).settle) ∧
      (o.outgoing = false ∨ o.accepted = true ∨ x.nowA < o.lapse → exec (.offerLapse t) s = .next x) ∧
      (o.accepted = true → 1000 * (o.ns + 3) ≤ x.nowA → ∀ y,
        y = (x.modPair (fun p => { p with offer := none, active := !o.outgoing, failAt := if o.outgoing && o.reason = 1 then some (1000 * (o.ns + 3) + 16000) else p.failAt })).raise 418 0xFFFF →
        (o.act = none → exec (.handoverSwitch t) s = .next y.settle) ∧
        (∀ m, o.act = some m → exec (.handoverSwitch t) s = .next (y.answer 0 m ⟨0, o.ns % 2 ^ 32, 0⟩).settle)) ∧
      (o.accepted = false ∨ x.nowA < 1000 * (o.ns + 3) → exec (.handoverSwitch t) s = .next x)) ∧
    (∀ f, x.pair.failAt = some f → (f ≤ x.nowA → exec (.failedEntry t) s = .next
        (x.modPair fun p => { p with failAt := none, st := 7, active := false })) ∧
      (x.nowA < f → exec (.failedEntry t) s = .next x)))

/-- Plan hashes and verdicts (R401, R402): a hash whose peer's is eight frames late is dropped and counted; a unit's own result, whether a
recomputation from what it kept gives the record again and no fault of its own disturbed it, is sent and kept; once both results are
known, or out of time and then 0, the verdict follows: the unit that did not reproduce alone is Failed if it is the standby and offers a
handover if it is the active one; where both or neither reproduced, the standby joins again. -/
def Obligations.PairVerdicts : Prop :=
  (∀ (s x : State) (t : Nat), x = (s.advanceTo t).openGate 2 → (s.advanceTo t).released = true →
    (∀ g b, x.Settled → ∀ mine, mine = (fun (h : PlanHash) => decide (h.g = g) && decide (h.b = b % 2 ^ 32) && decide (h.at_ + 8000 ≤ x.clk.now)) →
      (x.pair.own.any mine = true → exec (.hashTimeout t g b) s = .next
        ((x.modPair fun p => { p with own := p.own.filter fun h => !mine h }).bump .pairHashErrs 0 15 0)) ∧
      (x.pair.own.any mine = false → exec (.hashTimeout t g b) s = .next x)) ∧
    ∀ v, x.pair.verif = some v →
      (∀ sound r y, v.own = none → r = (sound && x.reproduces v.g v.b) →
        y = (x.pairSend 0x04 (le 1 v.g ++ zeros 3 ++ le 4 v.b ++ le 1 (b2n r))).modPair (fun p => { p with verif := some { v with own := some r } }) →
        (v.peer = none → x.Settled → exec (.verifyDone t sound) s = .next y) ∧
        (v.peer ≠ none → exec (.verifyDone t sound) s = .next y.verdict.settle)) ∧
      (∀ sound, v.own ≠ none → x.Settled → exec (.verifyDone t sound) s = .next x) ∧
      (v.at_ + 1000 * max 1 (x.rf .pairCfg 0 15 0) ≤ x.clk.now → exec (.verifyTimeout t) s = .next
        (x.modPair fun p => { p with verif := some { v with own := some (v.own.getD false), peer := some (v.peer.getD false) } }).verdict.settle) ∧
      (x.clk.now < v.at_ + 1000 * max 1 (x.rf .pairCfg 0 15 0) → x.Settled → exec (.verifyTimeout t) s = .next x)) ∧
  ∀ (s y : State) (v : Verif) (own peer : Bool), s.pair.verif = some v → v.own = some own → v.peer = some peer →
    y = s.modPair (fun p => { p with verif := none, st := 3, lastMatch := p.lastMatch || own }) →
    (own = true → peer = true → s.pair.active = true → s.verdict = y.raise 422 0xFFFF) ∧
    (own = true → peer = false → s.pair.active = true → s.verdict = (y.modPair fun p => { p with st := 5 }).raise 420 0xFFFF) ∧
    (own = false → peer = true → s.pair.active = true → s.verdict = (y.makeOffer 1 none).raise 421 0xFFFF) ∧
    (own = false → peer = false → s.pair.active = true → s.verdict = y.raise 423 0xFFFF) ∧
    (own = true → peer = true → s.pair.active = false → s.verdict = (y.raise 422 0xFFFF).modPair fun p => { p with st := 2 }) ∧
    (own = true → peer = false → s.pair.active = false → s.verdict = y.raise 420 0xFFFF) ∧
    (own = false → peer = true → s.pair.active = false → s.verdict = (y.modPair fun p => { p with st := 7 }).raise 421 0xFFFF) ∧
    (own = false → peer = false → s.pair.active = false → s.verdict = (y.raise 423 0xFFFF).modPair fun p => { p with st := 2 })

/-! ### Capture, phasors -/

/-- Ring 4 commands (R151, R408, R409, R417 to R419, R425, R426): ARM refuses with its codes, in Dormant too, or arms; FORCE makes the
present core cycle the trigger of an armed unit, competes with a trigger of the same cycle, and is counted elsewhere; ABORT leaves an
armed unit Idle and ends a triggered one; COPY_OUT writes the record's bytes, all that remain or a part, ends where a write fails or the
ring has left Running, and counts what memory errors it meets; RELEASE empties a Done unit. -/
def Obligations.CaptureCommands : Prop :=
  ∀ (s x : State) (t i k u c : Nat) (d : Desc), x = (s.advanceTo t).openGate 3 → u = d.arg % 8 → x.Settled → (s.advanceTo t).released = true →
    c = coreCycle x.clk.now →
    (x.turn 4 1 = some (i, k, d) →
      ((x.unit u).st ≠ 0 ∨ x.mode.mode = 0 → exec (.arm t) s = .next (x.ends i k 2)) ∧
      ((x.unit u).st = 0 → x.mode.mode ≠ 0 → x.cap.memMiB = 0 → exec (.arm t) s = .next (x.ends i k 3)) ∧
      ((x.unit u).st = 0 → x.mode.mode ≠ 0 → x.cap.memMiB ≠ 0 → x.armBad u = true → exec (.arm t) s = .next (x.ends i k 4)) ∧
      ((x.unit u).st = 0 → x.mode.mode ≠ 0 → x.cap.memMiB ≠ 0 → x.armBad u = false → exec (.arm t) s =
        .next ((x.modUnit u fun y => { CapUnit.reset with st := 1, armAt := x.clk.now, queue := y.queue }).ends i k 0))) ∧
    (x.turn 4 2 = some (i, k, d) →
      ((x.unit u).st = 1 → coreCycle (x.unit u).armAt ≠ c → exec (.force t) s = .next ((x.modUnit u fun y =>
        { y with st := 2, trig := c, src := 0xFE, trigCyc := c, rank := 0 }).ends i k 0)) ∧
      ((x.unit u).st = 2 → (x.unit u).trigCyc = c → ((c : Int) < (x.unit u).trig ∨ (c = (x.unit u).trig ∧ 0 < (x.unit u).rank) →
          exec (.force t) s = .next ((x.modUnit u fun y => { y with st := 2, trig := c, src := 0xFE, trigCyc := c, rank := 0 }).ends i k 0)) ∧
        ((x.unit u).trig < c ∨ (c = (x.unit u).trig ∧ (x.unit u).rank = 0) → exec (.force t) s = .next (x.ends i k 0))) ∧
      ((x.unit u).st = 0 ∨ (x.unit u).st = 3 ∨ ((x.unit u).st = 1 ∧ coreCycle (x.unit u).armAt = c) ∨ ((x.unit u).st = 2 ∧ (x.unit u).trigCyc ≠ c) →
        exec (.force t) s = .next ((x.bump .capUnitStatus u 15 8).ends i k 2))) ∧
    (x.turn 4 3 = some (i, k, d) →
      ((x.unit u).st = 1 → exec (.abort t) s = .next ((x.modUnit u fun y => { CapUnit.reset with queue := y.queue }).ends i k 0)) ∧
      ((x.unit u).st = 2 → exec (.abort t) s = .next ((x.capEnd u false true).ends i k 0).settle) ∧
      ((x.unit u).st ≠ 1 → (x.unit u).st ≠ 2 → exec (.abort t) s = .next (x.ends i k 0))) ∧
    (x.turn 4 4 = some (i, k, d) → ∀ sent failed ce ue,
      ((x.unit u).st ≠ 3 → exec (.copyOut t ⟨sent, failed, ce, ue⟩) s = .next (x.ends i k 2)) ∧
      ((x.unit u).st = 3 → d.arg2 % 64 ≠ 0 → exec (.copyOut t ⟨sent, failed, ce, ue⟩) s = .next (x.ends i k 0x84)) ∧
      ((x.unit u).st = 3 → d.arg2 % 64 = 0 → x.canDma = false → exec (.copyOut t ⟨sent, failed, ce, ue⟩) s = .next x) ∧
      ((x.unit u).st = 3 → d.arg2 % 64 = 0 → x.canDma = true → ∀ m b n y, m = nget (x.ring i).moved k →
        b = (slice (if x.cap.eccOn then x.readRecord u ue else x.recordBytes u) d.arg2 d.len).drop m →
        ((x.ring i).state ≠ 1 → exec (.copyOut t ⟨sent, failed, ce, ue⟩) s = .next (x.ends i k 0x82 0 m)) ∧
        ((x.ring i).state = 1 → n = min (sent.getD b.length) b.length →
          y = (if x.cap.eccOn then
            x.memErrors ce (ue.filter fun e => e.1 < (x.unit u).chunks.length && readsChunk (d.arg2 + m) n e.1) else x) →
          (sent = none → exec (.copyOut t ⟨sent, failed, ce, ue⟩) s =
            .next ((y.hostWrite (d.buf + m) b).ends i k 0 (128 + 64 * (y.unit u).chunks.length) (m + b.length)).settle) ∧
          (sent ≠ none → failed = true →
            exec (.copyOut t ⟨sent, failed, ce, ue⟩) s = .next ((y.hostWrite (d.buf + m) (b.take n)).ends i k 0x81 0 (m + n)).settle) ∧
          (sent ≠ none → failed = false →
            exec (.copyOut t ⟨sent, failed, ce, ue⟩) s = .next ((y.hostWrite (d.buf + m) (b.take n)).modRing i fun r =>
              { r with moved := nput r.moved k (m + n) }).settle)))) ∧
    (x.turn 4 5 = some (i, k, d) →
      ((x.unit u).st ≠ 3 → exec (.release t) s = .next (x.ends i k 2)) ∧
      ((x.unit u).st = 3 → exec (.release t) s = .next ((x.modUnit u fun y => { CapUnit.reset with queue := y.queue }).ends i k 0)))

/-- Bell arms and forces, the end of a record, sequence engines (R420, R421, R428, R433): a Bell entry for one unit arms it or counts a
refusal, and triggers with its own count, and one for all units does so at each; a record ends once no enabled stream holds it open;
enabling an engine starts it in state 0, and a state's timer that falls before any match enters its next state. -/
def Obligations.CaptureRecords : Prop :=
  (∀ (s x : State) (t u : Nat) (f : Fired), x = (s.advanceTo t).openGate 3 → x.Settled → (s.advanceTo t).released = true →
    (x.up = true →
      (x.bell.fired.find? (fun f => f.e.action = 0x04 && f.arrive ≤ x.clk.now) = some f →
        ∀ y, y = x.modBell (fun b => { b with fired := delFirst (fun f => f.e.action = 0x04 && f.arrive ≤ x.clk.now) b.fired }) →
        (f.e.index = 0xFFFF → exec (.captureArm t) s = .next (y.forAll (List.range 8) fun v z =>
          if (z.capArm v).1 = 0 then (z.capArm v).2 else (z.capArm v).2.bump .capUnitStatus v 15 8).settle) ∧
        (f.e.index = u → u < 8 →
          ((x.unit u).st = 0 → x.mode.mode ≠ 0 → x.cap.memMiB ≠ 0 → x.armBad u = false → exec (.captureArm t) s = .next (y.modUnit u fun z =>
            { CapUnit.reset with st := 1, armAt := x.clk.now, queue := z.queue })) ∧
          ((x.unit u).st ≠ 0 ∨ x.mode.mode = 0 ∨ x.cap.memMiB = 0 ∨ x.armBad u = true →
            exec (.captureArm t) s = .next (y.bump .capUnitStatus u 15 8)))) ∧
      (x.bell.fired.find? (fun f => f.e.action = 0x05 && f.arrive ≤ x.clk.now) = some f →
        ∀ y, y = x.modBell (fun b => { b with fired := delFirst (fun f => f.e.action = 0x05 && f.arrive ≤ x.clk.now) b.fired }) →
        (f.e.index = 0xFFFF → exec (.captureForce t) s = .next (y.forAll (List.range 8) fun v z => z.capTrigger v f.e.lc 0xFD 1).settle) ∧
        (f.e.index = u → u < 8 →
          ((x.unit u).st = 1 → coreCycle (x.unit u).armAt ≠ coreCycle x.clk.now → exec (.captureForce t) s = .next (y.modUnit u fun z =>
            { z with st := 2, trig := f.e.lc, src := 0xFD, trigCyc := coreCycle x.clk.now, rank := 1 })) ∧
          ((x.unit u).st = 0 ∨ (x.unit u).st = 3 ∨ ((x.unit u).st = 1 ∧ coreCycle (x.unit u).armAt = coreCycle x.clk.now) ∨
              ((x.unit u).st = 2 ∧ (x.unit u).trigCyc ≠ coreCycle x.clk.now) →
            exec (.captureForce t) s = .next (y.bump .capUnitStatus u 15 8))))) ∧
    (u < 8 → (x.capDue u = true → exec (.recordEnd t u) s = .next (x.capEnd u false false).settle) ∧
      (x.capDue u = false → exec (.recordEnd t u) s = .next x)) ∧
    (x.hasCap = true → u < 4 →
      (∀ v, x.up = true → bit v 31 = true →
        (x.rb .capSeqCtrl u 31 = false →
          exec (.capSeqEnable t u v) s = .next ((x.setRb .capSeqCtrl u 31 true).modSeqe u fun _ => ⟨0, x.clk.now, 0, []⟩)) ∧
        (x.rb .capSeqCtrl u 31 = true → exec (.capSeqEnable t u v) s = .next (x.setRb .capSeqCtrl u 31 true))) ∧
      (x.rb .capSeqCtrl u 31 = false → exec (.sequenceTimer t u) s = .next x) ∧
      (x.rb .capSeqCtrl u 31 = true → exec (.sequenceTimer t u) s = .next (x.seqGo u).settle))) ∧
  (∀ (s : State) (u : Nat), u < 8 → (s.capDue u = true ↔ (s.unit u).st = 2 ∧ ∀ i c, i < 8 → c = slotCode (s.slotWord u i) →
    slotOn (s.slotWord u i) = true → s.capStop u ≤ (if c = 0xF0 then (s.clk.now : Int) - 1 else iget s.cap.marks c) ∨
      nget s.cap.markAt c + 1000000 ≤ s.clk.now)) ∧
  (∀ (s : State) (u : Nat), (s.unit u).fixed = true → (s.unit u).opens = [] →
    ((s.capEnd u false false).unit u).st = 3 ∧ ((s.capEnd u false false).unit u).chunks = (s.unit u).chunks ∧
      (s.capEnd u false false).mode = s.mode) ∧
  ∀ (s : State) (j n : Nat) (hor : Int), (s.seqe j).waits = [] → (s.reg .capSeqTmr j (s.seqe j).state).toNat ≠ 0 →
    (s.seqe j).entered + (s.reg .capSeqTmr j (s.seqe j).state).toNat ≤ hor →
    s.seqRun j hor (n + 1) = (s.seqEnter j (fld (s.reg .capSeqSt j (s.seqe j).state) 22 20)
      ((s.seqe j).entered + (s.reg .capSeqTmr j (s.seqe j).state).toNat)).seqRun j hor n

/-- The phasor estimator (R436, R438, R440, R441): enabling it checks its settings and starts it or raises the first failing check; only
stopping acts while it runs; a report that is due, its last sample taken and the path from its bank to the estimator run, is sent on ring
3 and counts on to the next instant. -/
def Obligations.PhasorEstimator : Prop :=
  ∀ (s x : State) (t : Nat) (v : Word), x = (s.advanceTo t).openGate 3 → x.Settled → (s.advanceTo t).released = true →
    (x.up = true → x.hasCap = true →
      (bit v 31 = true → x.pmu.running = true → exec (.pmuEnable t v) s = .next x) ∧
      (bit v 31 = true → x.pmu.running = false → ∀ y, y = (if bit v 28 then x.setReg .pmuCtrl 0 (v &&& 0xFC0F00FF)
          else ((x.setReg .pmuCtrl 0 (v &&& 0xFC0F00FF)).pmuLoad 0).pmuLoad 1) →
        (y.pmuCheck = 0 → exec (.pmuEnable t v) s = .next (y.modPmu fun _ => { Pmu.reset with running := true }).settle) ∧
        (y.pmuCheck ≠ 0 → exec (.pmuEnable t v) s =
          .next ((y.modPmu fun p => { p with cfgErr := y.pmuCheck }).raise 387 y.pmuCheck).settle)) ∧
      (bit v 31 = false → x.pmu.running = true → exec (.pmuStop t v) s =
        .next ((x.setRb .pmuCtrl 0 31 false).modPmu fun p => { p with running := false, live := false })) ∧
      (bit v 31 = false → x.pmu.running = false → exec (.pmuStop t v) s = .next (x.setReg .pmuCtrl 0 (v &&& 0xFC0F00FF)))) ∧
    (x.pmu.running = false ∨ x.pmu.live = false ∨ x.mode.mode < 2 → exec (.phasorReport t) s = .next x) ∧
    (∀ due, due = x.pmuCentre + (x.pmuTaps - 1) / 2 * x.grpPeriod (x.taskGroup x.pmuTask) + Config.precisionToBank +
        2 * (24 + x.pmuChannels.length * (x.pmuTaps + 4)) →
      (x.clk.now < due → exec (.phasorReport t) s = .next x) ∧
      (x.pmu.running = true → x.pmu.live = true → 2 ≤ x.mode.mode → (x.grp (x.taskGroup x.pmuTask)).running = true → due ≤ x.clk.now →
        ∃ (psi fd : Int) (tail : Bytes), tail.length = 13 + 8 * x.pmuChannels.length ∧ exec (.phasorReport t) s =
          .next ((x.emitRecord 3 0x01 (tsBytes ((x.pmu.sec * x.pmuRate + x.pmu.m) * 32000000000 / x.pmuRate) ++ le 2 x.pmu.m ++
            le 1 x.pmuChannels.length ++ tail)).modPmu fun p =>
              { p with psi := psi, fd := fd, reports := p.reports + 1, sec := (x.pmu.sec * x.pmuRate + x.pmu.m + 1) / x.pmuRate, m := (x.pmu.sec * x.pmuRate + x.pmu.m + 1) % x.pmuRate })))

/-! ### Safety functions -/

/-- The safety channels (R445, R446, R448, R462, R468): a silent channel is a channel fault, once, and opens the outputs before the root
is released; a consumer without a new PDU for its watchdog loses its hold; a PDU waits for the next cycle; a cycle that is not due does
nothing. Tests, clearing and confirmation (R459, R460, R470): in the last 10 µs of a test pulse, once, one that reads right is marked and
one that does not is an output fault; SAF_OUT.clear drops the latch of the outputs whose pins read low for two cycles; SAF_CONFIRM
confirms a valid block with its check value in Commission and raises where it does not. -/
def Obligations.SafetyInputsAndCommands : Prop :=
  (∀ (s x : State) (t c i k : Nat) (d : Desc), x = s.advanceTo t →
    (x.released = false → x.Settled → exec (.channelASilence t) s = .next (x.modSaf fun f => { f with outOn := 0, closed := 0 })) ∧
    (x.released = true →
      (x.saf.fault = false → exec (.channelASilence t) s = .next (((x.modSaf fun f =>
        { f with fault := true, outOn := 0, closed := 0, grant := false, grants := 0, box := [], boxPrev := [] }).stopRequest
          5 (coreCycle x.clk.now) none).raise 452 0xFFFF).settle) ∧
      (x.saf.fault = true → x.Settled → exec (.channelASilence t) s = .next x) ∧
      (x.clk.now % 100000 = 0 → c < 56 →
        ((x.cons c).last = none → x.Settled → exec (.consumerWatchdog t c) s = .next x) ∧
        ∀ l, (x.cons c).last = some l →
        ((x.cons c).newAt + (x.consCfg c).2.2.2 * 100000 ≤ x.clk.now →
          ((x.cons c).holds = true → exec (.consumerWatchdog t c) s =
            .next ((x.modCons c fun y => { y with last := none, r := 0 }).consLost c).settle) ∧
          ((x.cons c).holds = false → x.Settled → exec (.consumerWatchdog t c) s =
            .next (x.modCons c fun y => { y with last := none, r := 0 }))) ∧
        (x.clk.now < (x.cons c).newAt + (x.consCfg c).2.2.2 * 100000 → x.Settled → exec (.consumerWatchdog t c) s = .next x)) ∧
      (x.clk.now % 100000 ≠ 0 → x.Settled → exec (.consumerWatchdog t c) s = .next x ∧
        ∀ inp, exec (.safetyCycle t inp) s = .next x) ∧
      (x.turn 10 1 = some (i, k, d) → x.Settled →
        (x.canDma = false → ∀ buf, exec (.safetyPdu t buf) s = .next x) ∧
        (x.canDma = true → ∀ y, y = x.hostRead d.buf (d.arg2 % 256) →
          exec (.safetyPdu t none) s = .next (y.ends i k 0x81 0 0) ∧
          ∀ b, exec (.safetyPdu t (some b)) s = .next ((y.holdAct i k).modSaf fun f =>
            { f with pdus := f.pdus ++ [(d.arg % 8, some k, b.take (d.arg2 % 256))] }))))) ∧
  ((∀ (s x : State) (t j : Nat) (low h l : Bool), x = s.advanceTo t → j < 4 → x.released = true → 2 ≤ x.mode.mode →
    nbit x.saf.outOn j = true → nbit x.saf.closed j = true →
    (x.testRead j low = none → x.Settled → exec (.outputTest t j low h l) s = .next x) ∧
    ∀ a, x.testRead j low = some a →
      (nget x.saf.testing (2 * j + b2n low) = a → x.Settled → exec (.outputTest t j low h l) s = .next x) ∧
      (nget x.saf.testing (2 * j + b2n low) ≠ a → ∀ y, y = x.modSaf (fun f => { f with testing := nput f.testing (2 * j + b2n low) a }) →
        (h = low → l = low → x.Settled → exec (.outputTest t j low h l) s = .next y) ∧
        (h ≠ low ∨ l ≠ low → nbit x.saf.outFault j = false → exec (.outputTest t j low h l) s = .next ((y.modSaf fun f =>
          { f with outFault := nset f.outFault j true, outOn := nset f.outOn j false, closed := nset f.closed j false }).raise 449 j).settle))) ∧
  (∀ (s x : State) (t : Nat) (v : Word), x = s.advanceTo t → x.up = true → x.Settled → s.Runs (.safOutClear t v) fun u =>
    (∀ j, j < 4 → nbit u.saf.outFault j = (nbit x.saf.outFault j && !(bit v (28 + j) && decide (2 ≤ x.saf.cycles) &&
      !(nbit x.saf.rbH j || nbit x.saf.rbL j || nbit x.saf.rbH1 j || nbit x.saf.rbL1 j)))) ∧
    u.saf.outOn = x.saf.outOn ∧ u.saf.closed = x.saf.closed ∧ u.regs = x.regs ∧ u.mode = x.mode) ∧
  ∀ (s x : State) (t : Nat) (v : Word), x = s.advanceTo t → x.up = true →
    (x.mode.mode = 2 → x.saf.fault = false → x.saf.valid = true → x.saf.pchk = v.toNat → x.Settled → s.Runs (.safConfirm t v) fun u =>
      u.saf.confirmed = true ∧ u.reg .safConfirm 0 = v ∧ u.sec.otpSeed = x.sec.otpSeed ∧ u.mode = x.mode ∧ u.saf.outOn = x.saf.outOn) ∧
    (x.mode.mode ≠ 2 ∨ x.saf.fault = true ∨ x.saf.valid = false ∨ x.saf.pchk ≠ v.toNat →
      exec (.safConfirm t v) s = .next (x.raise 454 0xFFFF).settle))

/-- Safe outputs (R445, R454, R455): after a safety cycle an output that is on is enabled and supplied, has no fault latched, and the
block is confirmed and no channel fault stands; a switch is closed only where its output is on; a grant stands only on the same
conditions. -/
def Obligations.SafeOutputs : Prop :=
  ∀ (s x : State) (t : Nat) (inp : SafetyIn), x = s.advanceTo t → x.released = true → x.clk.now % 100000 = 0 →
    x.saf.cycles = 0 ∨ x.saf.cycleAt < x.clk.now → s.Runs (.safetyCycle t inp) fun u =>
      u.saf.cycles = x.saf.cycles + 1 ∧ u.saf.cycleAt = x.clk.now ∧ u.saf.pdus = [] ∧ u.saf.confirmed = x.saf.confirmed ∧
      (∀ j, j < 4 → nbit u.saf.outOn j = true → x.rb .safOutCfg j 31 = true ∧ x.clk.supplySaf = true ∧ x.saf.confirmed = true ∧
        u.saf.fault = false ∧ nbit u.saf.outFault j = false ∧ (x.rb .safOutCfg j 30 = true → nbit u.saf.rsOut j = true)) ∧
      (∀ j, j < 4 → nbit u.saf.closed j = true → nbit u.saf.outOn j = true) ∧
      (u.saf.grant = true → x.rb .safPermCfg 0 31 = true ∧ x.saf.confirmed = true ∧ u.saf.fault = false) ∧
      u.tim = x.tim ∧ u.bell = x.bell ∧ u.mill = x.mill

/-! ### The Watch from BAR0, the book, temperature -/

/-- The Watch's registers (R478 to R480, R482): writing 1 clears a latch whose cause is gone and no other, and against a raise of the same
core cycle only the count of earlier raises; a force raises its source in Commission only; the interrupt clears where 1 is written, and is
set again, with a message where it had been set before, by a raise of that cycle; WCH_ERRN takes its level always and its width only
unlocked; a pulse ends. -/
def Obligations.WatchRegisters : Prop :=
  ∀ (s x : State) (t w b n c : Nat) (v : Word), x = s.advanceTo t → x.Settled → x.up = true → n = 32 * w + b → c = coreCycle x.clk.now →
    (w < 19 → b < 32 →
      (sourceOk x.var n = false → exec (.wchLatchClear t w (word (2 ^ b))) s = .next x) ∧
      (sourceOk x.var n = true → (x.wch.freshAt ≠ c ∨ ∀ e ∈ x.wch.fresh, e.src ≠ n) →
        (x.causeGone n = true → exec (.wchLatchClear t w (word (2 ^ b))) s =
          .next ((x.setRb .wchLatch (n / 32) (n % 32) false).setRf .wchCfg n 31 24 0).settle) ∧
        (x.causeGone n = false → exec (.wchLatchClear t w (word (2 ^ b))) s = .next x)) ∧
      (∀ e, sourceOk x.var n = true → x.wch.freshAt = c → x.wch.fresh.find? (fun e => e.src = n) = some e →
        (e.was = false → x.causeHolds n = false → exec (.wchLatchClear t w (word (2 ^ b))) s =
          .next (x.setRf .wchCfg n 31 24 (min 255 e.n)).settle) ∧
        (e.was = true ∨ x.causeHolds n = true → exec (.wchLatchClear t w (word (2 ^ b))) s = .next x)) ∧
      (x.mode.mode = 2 → exec (.wchForce t w (word (2 ^ b))) s = .next (x.raise n (x.rf .wchForceIdx 0 15 0) 0 true).settle) ∧
      (x.mode.mode ≠ 2 → exec (.wchForce t w v) s = .next x)) ∧
    (bit v 31 = true → x.wch.irqRaise ≠ some c → exec (.wchIrqClear t v) s = .next (x.setRb .wchStatus 0 31 false)) ∧
    (bit v 31 = true → x.wch.irqRaise = some c → x.wch.irqRise = some c → exec (.wchIrqClear t v) s = .next x) ∧
    (bit v 31 = true → x.wch.irqRaise = some c → x.wch.irqRise ≠ some c → ∀ y, y = x.modWch (fun w => { w with irqRise := some c }) →
      exec (.wchIrqClear t v) s = .next (if x.rb .wchCtrl 0 0 then y.signal 16 else y)) ∧
    (bit v 31 = false → exec (.wchIrqClear t v) s = .next x) ∧
    (bit v 0 = false ∨ x.rb .wchStatus 0 31 = false → exec (.wchIrqEnable t v) s = .next (x.setReg .wchCtrl 0 (v &&& 1))) ∧
    (bit v 0 = true → x.rb .wchStatus 0 31 = true → exec (.wchIrqEnable t v) s =
      .next ((x.setReg .wchCtrl 0 (v &&& 1)).signal 16)) ∧
    (s.Runs (.wchErrnLevel t v) fun u => u.rb .wchErrn 0 31 = bit v 31 ∧
      (x.rwlShut = true → u.rf .wchErrn 0 7 0 = x.rf .wchErrn 0 7 0) ∧
      (x.rwlShut = false → u.rf .wchErrn 0 7 0 = max 10 (fld v 7 0)) ∧ u.mode = x.mode ∧ u.wch = x.wch) ∧
    (∀ e, x.wch.pulseEnd = some e → (e ≤ x.clk.now → exec (.errnPulseEnd t) s = .next (x.modWch fun w => { w with pulseEnd := none })) ∧
      (x.clk.now < e → exec (.errnPulseEnd t) s = .next x)) ∧
    (x.wch.pulseEnd = none → exec (.errnPulseEnd t) s = .next x)

/-- Writing and scanning the book (R484, R485, R487 to R489): the head of the queue goes to its slot, is lost where none may be taken, or
marks a slot bad, and two bad slots in a row or a fourth fail the book; the scan drops the slots whose check failed and makes the book
ready, or fails it after 16 failures in a row; a refill instant acts once. Reading and clearing the book (R492): each command's codes, the
records from a start number on in their order as many as the buffer holds, and a clear that a boot record follows. -/
def Obligations.ParishBook : Prop :=
  (∀ (s x : State) (t i : Nat) (b : Bytes) (rest : List Bytes), x = (s.advanceTo t).openGate 7 → x.up = true → x.Settled →
    (x.book.queue = b :: rest → x.book.ready = true → x.book.failed = false → ∀ p q,
      (x.book.slotFor b = some i → p = true ∨ q = true → exec (.bookWrite t p q) s = .next (x.modBook fun k =>
        { k with queue := rest, slots := tput (fun _ => []) k.slots i b, lastBad := k.curBad, curBad := false })) ∧
      (x.book.slotFor b = none → exec (.bookWrite t p q) s = .next ((x.modBook fun k =>
        { k with queue := rest, dropped := satAdd 0xFFFF k.dropped 1, lastBad := k.curBad, curBad := false }).raise 514 0xFFFF).settle) ∧
      (x.book.slotFor b = some i → p = false → q = false → s.Runs (.bookWrite t p q) fun u =>
        u.book.bad = x.book.bad ++ [i] ∧ u.book.badCount = satAdd 255 x.book.badCount 1 ∧ u.book.slots = tdel i x.book.slots ∧
        (u.book.failed = true ↔ x.book.lastBad = true ∨ 3 ≤ x.book.bad.length) ∧
        (sourceOk x.var 513 = true → x.severity 513 ≠ 0 → u.latched 513 = true))) ∧
    (x.book.queue = [] ∨ x.book.ready = false ∨ x.book.failed = true → ∀ p q, exec (.bookWrite t p q) s = .next x) ∧
    (x.book.ready = true ∨ x.book.failed = true → ∀ l n, exec (.bookScan t l n) s = .next x) ∧
    (x.book.ready = false → x.book.failed = false → ∀ l n, s.Runs (.bookScan t l n) fun u =>
        u.book.slots = x.book.slots.filter (fun e => !(l.filter fun i => i < 65536).contains e.1) ∧
        (n < 16 → u.book.ready = true ∧ u.book.failed = false) ∧ (16 ≤ n → u.book.ready = false ∧ u.book.failed = true) ∧
        u.tim = x.tim ∧ u.mill = x.mill) ∧
    (∀ w, w = max 1 (x.rf .bkRate 0 31 16) * 1000000 →
      (x.clk.now % w = 0 → x.book.refillAt ≠ x.clk.now + 1 → x.book.overflow.supp = 0 → (∀ b ∈ x.book.buckets, b.supp = 0) →
        exec (.rateRefill t) s = .next (x.modBook fun k =>
          { k with refillAt := x.clk.now + 1, buckets := (k.buckets.map fun b => (b.refill x.burst).1).filter (fun b => b.full < 256), overflow := (k.overflow.refill x.burst).1 })) ∧
      (x.clk.now % w ≠ 0 ∨ x.book.refillAt = x.clk.now + 1 → exec (.rateRefill t) s = .next x))) ∧
  (∀ (s x : State) (t i k : Nat) (d : Desc), x = (s.advanceTo t).openGate 7 → x.up = true → x.Settled →
    (x.turn 0 0x28 = some (i, k, d) →
      (d.len < 64 → exec (.bookRead t) s = .next (x.ends i k 1 64)) ∧
      (64 ≤ d.len → x.book.failed = true → exec (.bookRead t) s = .next (x.ends i k 2)) ∧
      (64 ≤ d.len → x.book.failed = false → x.book.ready = false → exec (.bookRead t) s = .next (x.ends i k 3)) ∧
      (64 ≤ d.len → x.book.failed = false → x.book.ready = true → ∀ l m next,
        l = sortBy (fun (a b : Bytes) => decide (recSeq a < recSeq b)) ((x.book.slots.map fun e => e.2).filter fun b => decide (d.arg + 2 ^ 32 * d.arg2 ≤ recSeq b)) →
        m = d.len / 64 → next = (if l.length ≤ m then x.book.nextSeq else recSeq (nth l (m - 1) []) + 1) →
        (x.canDma = true → (x.ring i).state = 1 → exec (.bookRead t) s =
          .next ((x.hostWrite d.buf (l.take m).flatten).ends i k 0 next (64 * min m l.length))) ∧
        (x.canDma = true → (x.ring i).state ≠ 1 → exec (.bookRead t) s = .next (x.ends i k 0x82 0 (nget (x.ring i).moved k))) ∧
        (x.canDma = false → exec (.bookRead t) s = .next ((x.holdAct i k).modHostIf fun h =>
          { h with bufs := h.bufs ++ [⟨i, k, d.buf, (l.take m).flatten, ⟨0, next % 2 ^ 32, 64 * min m l.length⟩⟩] })))) ∧
    (x.turn 0 0x29 = some (i, k, d) → ∀ p,
      (x.mode.mode ≠ 1 → exec (.bookClear t p) s = .next (x.ends i k 2)) ∧
      (x.mode.mode = 1 → x.book.ready = false → x.book.failed = false → exec (.bookClear t p) s = .next (x.ends i k 3)) ∧
      (x.mode.mode = 1 → x.book.ready = true ∨ x.book.failed = true → ∀ y z,
        y = (if nbit d.arg 0 then x.modBook fun b => { b with slots := [], lw := [], lwNext := 0 } else x.modBook fun b => { b with slots := [] }) →
        z = (if x.book.failed = true then y else y.bookFail) →
        exec (.bookClear t true) s = .next ((y.modBook fun b =>
          { b with failed := false, ready := true, lastBad := false, curBad := false }).bootRecord.ends i k 0 0).settle ∧
        exec (.bookClear t false) s = .next (z.bootRecord.ends i k 0 (b2n z.book.failed)).settle)))

/-- Temperature (R493 to R498): a measurement of a sensor the part has and uses gives its value or is invalid; a valid one is held with
its comparators, an invalid one takes the configured band. -/
def Obligations.Temperatures : Prop :=
  (∀ (s x : State) (t i : Nat), x = s.advanceTo t → x.released = true →
    (∀ c, 8 ≤ i → i < 11 → exec (.temperatureResult t i (.onDie c)) s = .next (x.tempValid i (sat 16 (roundDiv (c * 128) 1000000))).settle) ∧
    (∀ v1 v2 v3, i < 8 → x.channelOn i = true → bit (x.reg .thmChCfg i) 30 = false →
      (v1 < 200000000 ∨ 950000000 < v1 ∨ 4 * (v2 - v1) ≤ v3 - v2 →
        exec (.temperatureResult t i (.diode v1 v2 v3)) s = .next (x.tempInvalid i).settle) ∧
      (200000000 ≤ v1 → v1 ≤ 950000000 → v3 - v2 < 4 * (v2 - v1) → ∀ eta : Nat,
        eta = (if x.rf .thmChPar i 15 0 = 0 then 16384 else x.rf .thmChPar i 15 0) → exec (.temperatureResult t i (.diode v1 v2 v3)) s =
        .next (x.tempValid i (sat 16 (roundDiv ((4 * (v2 - v1) - (v3 - v2)) * 16384 * 10 * 12800 - 27315 * 128 * 3 * eta * 1194616)
          (3 * eta * 1194616 * 100)))).settle)) ∧
    (∀ r, i < 8 → x.channelOn i = true → bit (x.reg .thmChCfg i) 30 = true →
      (r < 20000 ∨ 2000000000 < r → exec (.temperatureResult t i (.ntc r)) s = .next (x.tempInvalid i).settle) ∧
      (20000 ≤ r → r ≤ 2000000000 → bit (x.reg .thmChCfg i) 29 = false → ∀ r0 par d, r0 = x.rf .thmChR0 i 31 12 →
        par = x.rf .thmChPar i 15 0 → r0 ≠ 0 → par ≠ 0 → d = 2000000 * fone / 596300000 + (lnNat r - lnNat (1000 * r0)) / par → 0 < d →
        exec (.temperatureResult t i (.ntc r)) s = .next (x.tempValid i (fromKelvin (fdiv fone d))).settle)) ∧
    (∀ m, 11 ≤ i → x.Settled → exec (.temperatureResult t i m) s = .next x)) ∧
  (∀ (s : State) (i : Nat), i < 8 → ((s.tempInvalid i).sensor i).valid = false ∧ ((s.tempInvalid i).sensor i).seen = true ∧
    ((s.tempInvalid i).sensor i).band = s.rf .thmChCfg i 1 0 ∧ (s.tempInvalid i).tim = s.tim ∧ (s.tempInvalid i).mill = s.mill) ∧
  ∀ (s : State) (i : Nat) (T : Int), i < 11 → ((s.tempValid i T).sensor i).valid = true ∧ ((s.tempValid i T).sensor i).temp = T ∧
    ((s.sensor i).level = false → ((s.tempValid i T).sensor i).level = decide (sx 16 (fld (s.reg .thmLim i) 31 16) ≤ T)) ∧
    ((s.sensor i).level = true → ((s.tempValid i T).sensor i).level =
      !decide (T < sx 16 (fld (s.reg .thmLim i) 31 16) - 128 * (fld (s.reg .thmLim i) 15 8 : Nat))) ∧
    (s.tempValid i T).tim = s.tim ∧ (s.tempValid i T).mill = s.mill
end

