-- ==== Sys2Proof/Laws/Tables.lean ====
section
/-! SUPPORT. The laws of sparse tables (read after write, unconditionally) and of written host memory (every write keeps the
canonical form). -/

namespace Sys2Proof.Machine

/-! ### Sparse tables -/

theorem tget_tdel_ne {α : Type} (d : Nat → α) (t : Tbl α) {k j : Nat} (h : j ≠ k) : tget d (tdel k t) j = tget d t j := by
  induction t with
  | nil => rfl
  | cons e r ih =>
    obtain ⟨a, v⟩ := e
    unfold tdel at ih ⊢
    by_cases hk : a = k
    · subst hk
      rw [List.filter_cons_of_neg (by simp)]
      simpa [tget, Ne.symm h] using ih
    · rw [List.filter_cons_of_pos (by simpa using hk)]
      simp only [tget, ih]

theorem tget_tdel_self {α : Type} (d : Nat → α) (t : Tbl α) (k : Nat) : tget d (tdel k t) k = d k := by
  induction t with
  | nil => rfl
  | cons e r ih =>
    obtain ⟨a, v⟩ := e
    unfold tdel at ih ⊢
    by_cases hk : a = k
    · subst hk
      rwa [List.filter_cons_of_neg (by simp)]
    · rw [List.filter_cons_of_pos (by simpa using hk)]
      simpa [tget, hk] using ih

theorem tget_tins_ne {α : Type} (d : Nat → α) (t : Tbl α) (v : α) {k j : Nat} (h : j ≠ k) : tget d (tins k v t) j = tget d t j := by
  induction t with
  | nil => simp [tins, tget, Ne.symm h]
  | cons e r ih =>
    obtain ⟨a, w⟩ := e
    unfold tins
    split
    · simp [tget, Ne.symm h]
    · simp only [tget, ih]

/-- A key just put in is read back when no other entry had it. -/
theorem tget_tins_self {α : Type} (d : Nat → α) (t : Tbl α) (k : Nat) (v : α) (h : ∀ e ∈ t, e.1 ≠ k) : tget d (tins k v t) k = v := by
  induction t with
  | nil => simp [tins, tget]
  | cons e r ih =>
    obtain ⟨a, w⟩ := e
    unfold tins
    split
    · simp [tget]
    · have ha : a ≠ k := h (a, w) (by simp)
      simp only [tget, ha, if_false]
      exact ih fun e he => h e (by simp [he])

theorem tdel_fst_ne {α : Type} (t : Tbl α) (k : Nat) : ∀ e ∈ tdel k t, e.1 ≠ k := by
  intro e he
  unfold tdel at he
  simpa using (List.mem_filter.mp he).2

/-- Read after write: the key written reads as the value. -/
@[simp] theorem tget_tput_self {α : Type} [DecidableEq α] (d : Nat → α) (t : Tbl α) (k : Nat) (v : α) : tget d (tput d t k v) k = v := by
  unfold tput
  split
  · next h => rw [tget_tdel_self, h]
  · exact tget_tins_self d _ k v (tdel_fst_ne t k)

/-- Read after write: every other key reads as before. -/
theorem tget_tput_ne {α : Type} [DecidableEq α] (d : Nat → α) (t : Tbl α) (v : α) {k j : Nat} (h : j ≠ k) :
    tget d (tput d t k v) j = tget d t j := by
  unfold tput
  split
  · exact tget_tdel_ne d t h
  · rw [tget_tins_ne d _ v h, tget_tdel_ne d t h]

theorem mem_tins_iff {α : Type} (t : Tbl α) (k : Nat) (v : α) (e : Nat × α) : e ∈ tins k v t ↔ e = (k, v) ∨ e ∈ t := by
  induction t with
  | nil => simp [tins]
  | cons a r ih =>
    unfold tins
    split
    · simp
    · simp only [List.mem_cons, ih]
      tauto

/-- An entry after a write is the one written or was there. -/
theorem mem_tput {α : Type} [DecidableEq α] (d : Nat → α) (t : Tbl α) (k : Nat) (v : α) (e : Nat × α) (h : e ∈ tput d t k v) :
    e = (k, v) ∨ e ∈ t := by
  unfold tput at h
  split at h
  · exact Or.inr (List.mem_of_mem_filter h)
  · exact ((mem_tins_iff _ _ _ _).mp h).imp_right List.mem_of_mem_filter

/-- An entry under another key stays. -/
theorem mem_tput_of_ne {α : Type} [DecidableEq α] (d : Nat → α) (t : Tbl α) (k : Nat) (v : α) (e : Nat × α) (h : e ∈ t) (ne : e.1 ≠ k) :
    e ∈ tput d t k v := by
  have : e ∈ tdel k t := List.mem_filter.mpr ⟨h, by simpa using ne⟩
  unfold tput
  split
  · exact this
  · exact (mem_tins_iff _ _ _ _).mpr (Or.inr this)

theorem tget_tput {α : Type} [DecidableEq α] (d : Nat → α) (t : Tbl α) (k j : Nat) (v : α) :
    tget d (tput d t k v) j = if j = k then v else tget d t j := by
  split
  · next h => rw [h, tget_tput_self]
  · next h => exact tget_tput_ne d t v h

/-! ### Host memory -/

/-- Every entry lies above an address. -/
def AllAbove (a : Nat) (m : List Host.Cell) : Prop := ∀ e ∈ m, a < e.1

theorem memory_wf_cons (a : Nat) (b : Byte) (m : List Host.Cell) :
    Memory.wf ((a, b) :: m) = true ↔ b ≠ 0 ∧ AllAbove a m ∧ Memory.wf m = true := by
  induction m generalizing a b with
  | nil => simp [Memory.wf, AllAbove]
  | cons e r ih =>
    obtain ⟨a', b'⟩ := e
    have hi := ih a' b'
    simp only [Memory.wf, Bool.and_eq_true, bne_iff_ne, ne_eq, decide_eq_true_eq]
    constructor
    · rintro ⟨h0, h1, h2⟩
      refine ⟨h0, fun e he => ?_, h2⟩
      rcases List.mem_cons.mp he with rfl | he
      · exact h1
      · exact Nat.lt_trans h1 ((hi.mp h2).2.1 e he)
    · rintro ⟨h0, h1, h2⟩
      exact ⟨h0, h1 (a', b') (by simp), h2⟩

theorem tdel_wf (m : List Host.Cell) (k : Nat) (h : Memory.wf m = true) : Memory.wf (tdel k m) = true := by
  induction m with
  | nil => rfl
  | cons e r ih =>
    obtain ⟨a, b⟩ := e
    obtain ⟨h0, h1, h2⟩ := (memory_wf_cons a b r).mp h
    have hr := ih h2
    unfold tdel at hr ⊢
    by_cases hk : a = k
    · subst hk
      rwa [List.filter_cons_of_neg (by simp)]
    · rw [List.filter_cons_of_pos (by simpa using hk)]
      exact (memory_wf_cons a b _).mpr ⟨h0, fun e he => h1 e (List.mem_filter.mp he).1, hr⟩

theorem mem_tins {α : Type} (t : Tbl α) (k : Nat) (v : α) (e : Nat × α) (h : e ∈ tins k v t) : e = (k, v) ∨ e ∈ t := by
  induction t with
  | nil => simpa [tins] using h
  | cons x r ih =>
    obtain ⟨a, w⟩ := x
    unfold tins at h
    split at h
    · rcases List.mem_cons.mp h with h | h
      · exact .inl h
      · exact .inr h
    · rcases List.mem_cons.mp h with h | h
      · exact .inr (by simp [h])
      · rcases ih h with h | h
        · exact .inl h
        · exact .inr (List.mem_cons_of_mem _ h)

theorem tins_wf (m : List Host.Cell) (k : Nat) (v : Byte) (hv : v ≠ 0) (hk : ∀ e ∈ m, e.1 ≠ k) (h : Memory.wf m = true) :
    Memory.wf (tins k v m) = true := by
  induction m with
  | nil => simpa [tins, Memory.wf] using hv
  | cons e r ih =>
    obtain ⟨a, b⟩ := e
    obtain ⟨h0, h1, h2⟩ := (memory_wf_cons a b r).mp h
    unfold tins
    split
    · next hlt =>
      refine (memory_wf_cons k v _).mpr ⟨hv, fun e he => ?_, h⟩
      rcases List.mem_cons.mp he with rfl | he
      · exact hlt
      · exact Nat.lt_trans hlt (h1 e he)
    · next hge =>
      have hak : a ≠ k := hk (a, b) (by simp)
      refine (memory_wf_cons a b _).mpr ⟨h0, fun e he => ?_, ih (fun e he => hk e (by simp [he])) h2⟩
      rcases mem_tins r k v e he with rfl | he
      · exact Nat.lt_of_le_of_ne (Nat.le_of_not_lt hge) hak
      · exact h1 e he

/-- Writing a byte keeps the canonical form. -/
theorem memPut_wf (m : List Host.Cell) (a : Nat) (b : Byte) (h : Memory.wf m = true) : Memory.wf (memPut m a b) = true := by
  unfold memPut tput
  split
  · exact tdel_wf m a h
  · next hb => exact tins_wf _ a b hb (tdel_fst_ne m a) (tdel_wf m a h)

/-- Writing bytes keeps the canonical form. -/
theorem memWrite_wf (m : List Host.Cell) (a : Nat) (b : Bytes) (h : Memory.wf m = true) : Memory.wf (memWrite m a b) = true := by
  induction b generalizing m a with
  | nil => exact h
  | cons x r ih => exact ih _ _ (memPut_wf m a x h)

/-- A write leaves every byte outside the written addresses as it was. -/
theorem memWrite_frame (m : List Host.Cell) (a : Nat) (b : Bytes) (j : Nat) (h : j < a ∨ a + b.length ≤ j) :
    tget (fun _ => 0) (memWrite m a b) j = tget (fun _ => 0) m j := by
  induction b generalizing m a with
  | nil => rfl
  | cons x r ih =>
    have hl : (x :: r).length = r.length + 1 := rfl
    rw [memWrite, ih _ _ (by omega), memPut, tget_tput_ne _ _ _ (by omega)]

/-- A written byte reads back. -/
theorem memWrite_read (m : List Host.Cell) (a : Nat) (b : Bytes) (i : Nat) (h : i < b.length) :
    tget (fun _ => 0) (memWrite m a b) (a + i) = b[i] := by
  induction b generalizing m a i with
  | nil => exact absurd h (Nat.not_lt_zero _)
  | cons x r ih =>
    cases i with
    | zero => rw [memWrite, memWrite_frame _ _ _ _ (by omega)]; simp [memPut]
    | succ i =>
      have := ih (memPut m a x) (a + 1) i (by simpa using h)
      rw [memWrite, show a + (i + 1) = a + 1 + i by omega, this]
      rfl

end Sys2Proof.Machine
end

