-- ==== Sys2Proof/Laws/Bits.lean ====
section
/-! SUPPORT. Bits and fields of register words: what setting a bit or writing a field does to the other bits. -/

namespace Sys2Proof.Machine

theorem set_bit_eq_or (x n : Nat) : x - x >>> n % 2 * 2 ^ n + 2 ^ n = x ||| 2 ^ n := by
  rw [Nat.shiftRight_eq_div_pow]
  obtain ⟨q, r, hr, rfl⟩ : ∃ q r, r < 2 ^ n ∧ x = 2 ^ n * q + r := ⟨x / 2 ^ n, x % 2 ^ n, Nat.mod_lt _ (by positivity), (Nat.div_add_mod ..).symm⟩
  have hq : (2 ^ n * q + r) / 2 ^ n = q := by
    rw [Nat.mul_add_div (by positivity), Nat.div_eq_of_lt hr, Nat.add_zero]
  have key : 2 ^ n * q + r ||| 2 ^ n = 2 ^ n * (q ||| 1) + r := by
    rw [Nat.two_pow_add_eq_or_of_lt hr, Nat.two_pow_add_eq_or_of_lt hr]
    have : 2 ^ n * (q ||| 1) = 2 ^ n * q ||| 2 ^ n := by
      have := Nat.shiftLeft_or_distrib (a := q) (b := 1) (i := n)
      simpa [Nat.shiftLeft_eq, Nat.mul_comm] using this
    rw [this, Nat.or_assoc, Nat.or_assoc, Nat.or_comm r]
  rw [key, hq]
  rcases Nat.mod_two_eq_zero_or_one q with h | h
  · have : q ||| 1 = q + 1 := by
      apply Nat.eq_of_testBit_eq; intro i
      cases i with
      | zero => simp [Nat.testBit_zero, h, Nat.add_mod]
      | succ i => simp [Nat.testBit_succ, Nat.or_div_two]; congr 1; omega
    rw [h, this]; ring_nf; simp
  · have : q ||| 1 = q := by
      apply Nat.eq_of_testBit_eq; intro i
      cases i with
      | zero => simp [Nat.testBit_zero, h]
      | succ i => simp [Nat.testBit_succ, Nat.or_div_two]
    rw [h, this]
    have : 2 ^ n ≤ 2 ^ n * q := Nat.le_mul_of_pos_right _ (by omega)
    omega

/-- Setting a bit of a word: the or with the bit's weight. -/
theorem wfld_set (w : Word) (n : Nat) : wfld w n n 1 = w ||| word (2 ^ n) := by
  unfold wfld fld word
  rw [show n + 1 - n = 1 by omega, show 1 % 2 ^ 1 = 1 by rfl, Nat.one_mul, Nat.pow_one, set_bit_eq_or]
  apply BitVec.eq_of_toNat_eq
  simp only [BitVec.toNat_ofNat, BitVec.toNat_or]
  rw [Nat.or_mod_two_pow, Nat.mod_eq_of_lt w.isLt]

/-- Setting a bit clears none. -/
theorem bit_wfld_set (w : Word) (n b : Nat) (h : bit w b = true) : bit (wfld w n n (b2n true)) b = true := by
  show bit (wfld w n n 1) b = true
  rw [wfld_set]
  unfold bit at *
  simp [h]

/-- Setting a bit sets it. -/
theorem bit_wfld_self (w : Word) (n : Nat) (h : n < 32) : bit (wfld w n n (b2n true)) n = true := by
  show bit (wfld w n n 1) n = true
  rw [wfld_set]
  unfold bit word
  rw [BitVec.getLsbD_or, BitVec.getLsbD_ofNat, Nat.testBit_two_pow_self]
  simp [h]

theorem State.reg_setReg_self (s : State) (r : Reg) (i j : Nat) (v : Word) : (s.setReg r i v j).reg r i j = v :=
  tget_tput_self _ _ _ _

theorem State.reg_setReg_ne (s : State) (r q : Reg) (i j k l : Nat) (v : Word) (h : q.addr k l ≠ r.addr i j) :
    (s.setReg r i v j).reg q k l = s.reg q k l :=
  tget_tput_ne _ _ _ h

/-- The bit just set reads as set. -/
theorem State.rb_setRb (s : State) (r : Reg) (i n : Nat) (h : n < 32) : (s.setRb r i n true).rb r i n = true := by
  unfold State.rb State.setRb State.setRf
  rw [State.reg_setReg_self]
  exact bit_wfld_self _ _ h

end Sys2Proof.Machine
end

