-- ==== Sys2Proof/Laws/Fields.lean ====
section
/-! SUPPORT. Fields of register words: a written field reads back, the fields beside it stay. -/

namespace Sys2Proof.Machine

/-- The number that a word with a written field spells. -/
theorem wfld_toNat (w : Word) (hi lo v : Nat) (a : lo ≤ hi) (b : hi < 32) :
    (wfld w hi lo v).toNat =
      2 ^ lo * (2 ^ (hi + 1 - lo) * (w.toNat / 2 ^ (hi + 1)) + v % 2 ^ (hi + 1 - lo)) + w.toNat % 2 ^ lo := by
  have hw := w.isLt
  unfold wfld word fld
  rw [BitVec.toNat_ofNat, Nat.shiftRight_eq_div_pow]
  generalize w.toNat = x at *
  obtain ⟨n, hi'⟩ : ∃ n, hi + 1 = lo + n := ⟨hi + 1 - lo, by omega⟩
  have e : lo + n - lo = n := by omega
  rw [hi', e]
  have dv : 2 ^ (lo + n) ∣ 2 ^ 32 := pow_dvd_pow 2 (by omega)
  obtain ⟨m, hm⟩ := dv
  have pn : 0 < 2 ^ n := by positivity
  have pl : 0 < 2 ^ lo := by positivity
  have split : x = 2 ^ lo * (2 ^ n * (x / 2 ^ (lo + n)) + x / 2 ^ lo % 2 ^ n) + x % 2 ^ lo := by
    have h1 := Nat.div_add_mod x (2 ^ lo)
    have h2 := Nat.div_add_mod (x / 2 ^ lo) (2 ^ n)
    rw [Nat.div_div_eq_div_mul, ← pow_add] at h2
    rw [h2, h1]
  have lt : v % 2 ^ n < 2 ^ n := Nat.mod_lt _ pn
  have lr : x % 2 ^ lo < 2 ^ lo := Nat.mod_lt _ pl
  have ht : x / 2 ^ (lo + n) < m := by
    rw [Nat.div_lt_iff_lt_mul (by positivity), mul_comm, ← hm]; exact hw
  have form : x - x / 2 ^ lo % 2 ^ n * 2 ^ lo + v % 2 ^ n * 2 ^ lo =
      2 ^ lo * (2 ^ n * (x / 2 ^ (lo + n)) + v % 2 ^ n) + x % 2 ^ lo := by
    generalize x / 2 ^ (lo + n) = A at *
    generalize x / 2 ^ lo % 2 ^ n = F at *
    generalize x % 2 ^ lo = R at *
    rw [split]
    have : 2 ^ lo * (2 ^ n * A + F) + R - F * 2 ^ lo = 2 ^ lo * (2 ^ n * A) + R := by
      rw [mul_add, mul_comm F]; omega
    rw [this]; ring
  rw [form]
  apply Nat.mod_eq_of_lt
  generalize x / 2 ^ (lo + n) = A at *
  rw [hm, pow_add]
  generalize x % 2 ^ lo = R at *
  generalize v % 2 ^ n = V at *
  calc 2 ^ lo * (2 ^ n * A + V) + R < 2 ^ lo * (2 ^ n * A + V) + 2 ^ lo := by omega
    _ = 2 ^ lo * (2 ^ n * A + V + 1) := by ring
    _ ≤ 2 ^ lo * (2 ^ n * (A + 1)) := Nat.mul_le_mul_left _ (by rw [mul_add]; omega)
    _ ≤ 2 ^ lo * (2 ^ n * m) := Nat.mul_le_mul_left _ (Nat.mul_le_mul_left _ (by omega))
    _ = 2 ^ lo * 2 ^ n * m := by ring

/-- A written field reads back. -/
theorem fld_wfld_self (w : Word) (hi lo v : Nat) (a : lo ≤ hi) (b : hi < 32) : fld (wfld w hi lo v) hi lo = v % 2 ^ (hi + 1 - lo) := by
  unfold fld
  rw [wfld_toNat w hi lo v a b, Nat.shiftRight_eq_div_pow]
  have pl : 0 < 2 ^ lo := by positivity
  rw [Nat.mul_add_div pl, Nat.div_eq_of_lt (Nat.mod_lt _ pl), Nat.add_zero, Nat.mul_add_mod, Nat.mod_mod]

/-- Writing a field leaves the fields above it. -/
theorem fld_wfld_above (w : Word) (hi lo v h l : Nat) (a : lo ≤ hi) (b : hi < l) (c : hi < 32) : fld (wfld w hi lo v) h l = fld w h l := by
  unfold fld
  rw [wfld_toNat w hi lo v a c, Nat.shiftRight_eq_div_pow, Nat.shiftRight_eq_div_pow]
  obtain ⟨k, rfl⟩ : ∃ k, l = hi + 1 + k := ⟨l - (hi + 1), by omega⟩
  have e : ∀ y : Nat, y / 2 ^ (hi + 1 + k) = y / 2 ^ (hi + 1) / 2 ^ k := fun y => by rw [Nat.div_div_eq_div_mul, ← pow_add]
  rw [e, e]
  congr 2
  obtain ⟨n, hn⟩ : ∃ n, hi + 1 = lo + n := ⟨hi + 1 - lo, by omega⟩
  rw [hn, show lo + n - lo = n by omega, pow_add, ← Nat.div_div_eq_div_mul]
  have pl : 0 < 2 ^ lo := by positivity
  have pn : 0 < 2 ^ n := by positivity
  rw [Nat.mul_add_div pl, Nat.div_eq_of_lt (Nat.mod_lt _ pl), Nat.add_zero, Nat.mul_add_div pn,
    Nat.div_eq_of_lt (Nat.mod_lt _ pn), Nat.add_zero]

theorem State.rf_setRf_self (s : State) (r : Reg) (i hi lo v : Nat) (a : lo ≤ hi) (b : hi < 32) :
    (s.setRf r i hi lo v).rf r i hi lo = v % 2 ^ (hi + 1 - lo) := by
  unfold State.rf State.setRf
  rw [State.reg_setReg_self]
  exact fld_wfld_self _ _ _ _ a b
theorem State.rf_setRf_above (s : State) (r : Reg) (i hi lo v h l : Nat) (a : lo ≤ hi) (b : hi < l) (c : hi < 32) :
    (s.setRf r i hi lo v).rf r i h l = s.rf r i h l := by
  unfold State.rf State.setRf
  rw [State.reg_setReg_self]
  exact fld_wfld_above _ _ _ _ _ _ a b c

/-- A bit is the field of its place. -/
theorem bit_fld (w : Word) (n : Nat) : bit w n = (fld w n n = 1 : Bool) := by
  unfold bit fld
  rw [← BitVec.testBit_toNat, show n + 1 - n = 1 by omega, Nat.pow_one, Nat.testBit_eq_decide_div_mod_eq, Nat.shiftRight_eq_div_pow]

end Sys2Proof.Machine
end

