-- ==== Sys2Proof/Laws/Quiet.lean ====
section
/-! SUPPORT. What raising a source, retiring a channel and a Safe stop leave alone (State.Quiet of Safety.lean), one lemma per
operation. -/

namespace Sys2Proof.Machine

set_option linter.unusedTactic false
set_option linter.unreachableTactic false
set_option linter.unusedVariables false

variable {s0 s : State}

theorem State.Quiet.refl (s : State) : s.Quiet s :=
  ⟨rfl, rfl, rfl, rfl, rfl, rfl, rfl, rfl, rfl, rfl, rfl, rfl, rfl, fun _ _ _ => rfl, fun _ _ _ h => h⟩

theorem State.Quiet.trans {a b c : State} (h : a.Quiet b) (k : b.Quiet c) : a.Quiet c := by
  refine ⟨k.1.trans h.1, k.2.trans h.2, k.3.trans h.3, k.4.trans h.4, k.5.trans h.5, k.6.trans h.6, k.7.trans h.7, k.8.trans h.8, ?_,
    k.10.trans h.10, k.11.trans h.11, k.12.trans h.12, k.13.trans h.13,
    fun o x y => (k.14 o x y).trans (h.14 o x y), fun o x y z => k.15 o x y (h.15 o x y z)⟩
  rw [k.9, h.9]

/-- An update that leaves alone every field Quiet speaks of. -/
theorem State.Quiet.of_same {t : State} (h : s0.Quiet s) (e1 : t.clk = s.clk) (e2 : t.sec = s.sec) (e3 : t.tim = s.tim)
    (e4 : t.bell = s.bell) (e5 : t.fad = s.fad) (e6 : t.mill = s.mill) (e7 : t.pmu = s.pmu) (e8 : t.thm = s.thm) (e9 : t.saf = s.saf)
    (e10 : t.pending = s.pending) (e11 : t.rdata = s.rdata) (e13 : t.hiLatch = s.hiLatch)
    (e14 : t.regs = s.regs) (e15 : t.host.link = s.host.link) : s0.Quiet t :=
  h.trans ⟨e1, e2, e3, e4, e5, e6, e7, e8, by rw [e9], e10, e15, e11, e13, fun _ _ _ => by rw [e14], fun _ _ _ k => by rw [e14]; exact k⟩

theorem qmp_keeps {G : Prop} (x : State) (h : s0.Quiet x) (k : s0.Quiet x → G) : G := k h
theorem qsnd_keeps {α : Type} {p : α × State} {a : α} {x : State} (e : p = (a, x)) (h : s0.Quiet p.2) : s0.Quiet x := by subst e; exact h
theorem qfoldl_keeps {β : Type} (l : List β) {f : State → β → State} (h : s0.Quiet s) (k : ∀ x e, s0.Quiet x → s0.Quiet (f x e)) :
    s0.Quiet (l.foldl f s) := by
  induction l generalizing s with
  | nil => exact h
  | cons a r ih => exact ih (k _ _ h)

theorem State.forAll_quiet (h : s0.Quiet s) (l : List Nat) (f : Nat → State → State) (hf : ∀ i x, s0.Quiet x → s0.Quiet (f i x)) :
    s0.Quiet (s.forAll l f) := qfoldl_keeps l h fun _ _ hx => hf _ _ hx
theorem State.iff_quiet (h : s0.Quiet s) (c : Bool) (f : State → State) (hf : ∀ x, s0.Quiet x → s0.Quiet (f x)) : s0.Quiet (s.iff c f) := by
  unfold State.iff
  split
  · exact hf _ h
  · exact h

/-- A write to a register that a raise may change. -/
theorem State.setReg_quiet (h : s0.Quiet s) (r : Reg) (i j : Nat) (v : Word) (a : raiseOff (r.addr i j) = true)
    (b : eventOff (r.addr i j) = false) : s0.Quiet (s.setReg r i v j) :=
  h.trans ⟨rfl, rfl, rfl, rfl, rfl, rfl, rfl, rfl, rfl, rfl, rfl, rfl, rfl,
    fun _ _ y => tget_tput_ne _ _ _ fun e => by rw [e, a] at y; exact Bool.noConfusion y,
    fun o x y z => by
      show bit (tget regReset (tput regReset s.regs (r.addr i j) v) o) x = true
      rw [tget_tput_ne _ _ _ fun e => by rw [e, b] at y; exact Bool.noConfusion y]
      exact z⟩

theorem State.setRf_quiet (h : s0.Quiet s) (r : Reg) (i hi lo v : Nat) (a : raiseOff (r.addr i) = true)
    (b : eventOff (r.addr i) = false) : s0.Quiet (s.setRf r i hi lo v) := State.setReg_quiet h r i 0 _ a b

theorem State.setRb_quiet (h : s0.Quiet s) (r : Reg) (i n : Nat) (a : raiseOff (r.addr i) = true)
    (b : eventOff (r.addr i) = false) : s0.Quiet (s.setRb r i n true) := State.setReg_quiet h r i 0 _ a b

/-- Setting a bit of an event or latch register. -/
theorem State.setBit_quiet (h : s0.Quiet s) (r : Reg) (i n : Nat) (a : eventOff (r.addr i) = true) : s0.Quiet (s.setRb r i n true) :=
  h.trans ⟨rfl, rfl, rfl, rfl, rfl, rfl, rfl, rfl, rfl, rfl, rfl, rfl, rfl,
    fun _ x _ => tget_tput_ne _ _ _ fun e => by rw [e, a] at x; exact Bool.noConfusion x,
    fun o x _ z => by
      show bit (tget regReset (tput regReset s.regs (r.addr i 0) (wfld (s.reg r i) n n (b2n true))) o) x = true
      rw [tget_tput]
      split
      · next e => exact bit_wfld_set _ _ _ (by rw [State.reg, ← e]; exact z)
      · exact z⟩

/-- The event register of a source is one. -/
theorem unitEvent_off (src : Nat) (r : Reg) (b : Nat) (h : unitEvent src = some (r, b)) : eventOff (r.addr 0) = true := by
  unfold unitEvent at h
  dsimp only at h
  repeat' split at h
  all_goals cases h
  all_goals decide

/-- Every source of the table has its latch bit and its count in range. -/
theorem sourceOk_lt (v : Variant) (n : Nat) (h : sourceOk v n = true) : n < 608 := by
  unfold sourceOk at h
  simp only [Bool.and_eq_true, List.any_eq_true, decide_eq_true_eq] at h
  obtain ⟨⟨x, hx, rfl⟩, -⟩ := h
  revert x
  decide

theorem latch_off (n : Nat) (h : n < 608) : eventOff (Reg.wchLatch.addr (n / 32)) = true := by
  unfold eventOff
  rw [Bool.or_eq_true]
  right
  simp [Reg.addr, Reg.row]
  omega

theorem cfg_off (n : Nat) (h : n < 608) : raiseOff (Reg.wchCfg.addr n) = true ∧ eventOff (Reg.wchCfg.addr n) = false := by
  constructor
  · unfold raiseOff watchOff
    rw [Bool.or_eq_true, Bool.or_eq_true]
    right
    right
    simp [Reg.addr, Reg.row]
    omega
  · unfold eventOff
    simp [Reg.addr, Reg.row]
    omega

theorem State.modMode_quiet (h : s0.Quiet s) (f) : s0.Quiet (s.modMode f) := State.Quiet.of_same h rfl rfl rfl rfl rfl rfl rfl rfl rfl rfl rfl rfl rfl rfl
theorem State.modGce_quiet (h : s0.Quiet s) (f) : s0.Quiet (s.modGce f) := State.Quiet.of_same h rfl rfl rfl rfl rfl rfl rfl rfl rfl rfl rfl rfl rfl rfl
theorem State.modAdc_quiet (h : s0.Quiet s) (f) : s0.Quiet (s.modAdc f) := State.Quiet.of_same h rfl rfl rfl rfl rfl rfl rfl rfl rfl rfl rfl rfl rfl rfl
theorem State.modCap_quiet (h : s0.Quiet s) (f) : s0.Quiet (s.modCap f) := State.Quiet.of_same h rfl rfl rfl rfl rfl rfl rfl rfl rfl rfl rfl rfl rfl rfl
theorem State.modWch_quiet (h : s0.Quiet s) (f) : s0.Quiet (s.modWch f) := State.Quiet.of_same h rfl rfl rfl rfl rfl rfl rfl rfl rfl rfl rfl rfl rfl rfl
theorem State.modBook_quiet (h : s0.Quiet s) (f) : s0.Quiet (s.modBook f) := State.Quiet.of_same h rfl rfl rfl rfl rfl rfl rfl rfl rfl rfl rfl rfl rfl rfl
theorem State.modPair_quiet (h : s0.Quiet s) (f) : s0.Quiet (s.modPair f) := State.Quiet.of_same h rfl rfl rfl rfl rfl rfl rfl rfl rfl rfl rfl rfl rfl rfl
theorem State.modHostIf_quiet (h : s0.Quiet s) (f) (k : ∀ x : HostIf, (f x).link = x.link) : s0.Quiet (s.modHostIf f) := State.Quiet.of_same h rfl rfl rfl rfl rfl rfl rfl rfl rfl rfl rfl rfl rfl (k _)
theorem State.modRing_quiet (h : s0.Quiet s) (k f) : s0.Quiet (s.modRing k f) := State.Quiet.of_same h rfl rfl rfl rfl rfl rfl rfl rfl rfl rfl rfl rfl rfl rfl
theorem State.modPort_quiet (h : s0.Quiet s) (k f) : s0.Quiet (s.modPort k f) := State.Quiet.of_same h rfl rfl rfl rfl rfl rfl rfl rfl rfl rfl rfl rfl rfl rfl
theorem State.modHealth1_quiet (h : s0.Quiet s) (k f) : s0.Quiet (s.modHealth1 k f) := State.Quiet.of_same h rfl rfl rfl rfl rfl rfl rfl rfl rfl rfl rfl rfl rfl rfl
theorem State.modGrp_quiet (h : s0.Quiet s) (k f) : s0.Quiet (s.modGrp k f) := State.Quiet.of_same h rfl rfl rfl rfl rfl rfl rfl rfl rfl rfl rfl rfl rfl rfl
theorem State.modPst_quiet (h : s0.Quiet s) (k f) : s0.Quiet (s.modPst k f) := State.Quiet.of_same h rfl rfl rfl rfl rfl rfl rfl rfl rfl rfl rfl rfl rfl rfl
theorem State.modSw_quiet (h : s0.Quiet s) (k f) : s0.Quiet (s.modSw k f) := State.Quiet.of_same h rfl rfl rfl rfl rfl rfl rfl rfl rfl rfl rfl rfl rfl rfl
theorem State.modLg_quiet (h : s0.Quiet s) (k f) : s0.Quiet (s.modLg k f) := State.Quiet.of_same h rfl rfl rfl rfl rfl rfl rfl rfl rfl rfl rfl rfl rfl rfl
theorem State.modUnit_quiet (h : s0.Quiet s) (k f) : s0.Quiet (s.modUnit k f) := State.Quiet.of_same h rfl rfl rfl rfl rfl rfl rfl rfl rfl rfl rfl rfl rfl rfl
theorem State.hostWrite_quiet (h : s0.Quiet s) (a b) : s0.Quiet (s.hostWrite a b) := State.Quiet.of_same h rfl rfl rfl rfl rfl rfl rfl rfl rfl rfl rfl rfl rfl rfl
theorem State.issue_quiet (h : s0.Quiet s) (w l a n) : s0.Quiet (s.issue w l a n) := State.Quiet.of_same h rfl rfl rfl rfl rfl rfl rfl rfl rfl rfl rfl rfl rfl rfl
theorem State.hostRead_quiet (h : s0.Quiet s) (a n) : s0.Quiet (s.hostRead a n) := State.Quiet.of_same h rfl rfl rfl rfl rfl rfl rfl rfl rfl rfl rfl rfl rfl rfl
theorem State.free_quiet (h : s0.Quiet s) : s0.Quiet s.free.2 := State.Quiet.of_same h rfl rfl rfl rfl rfl rfl rfl rfl rfl rfl rfl rfl rfl rfl

theorem State.signal_quiet (h : s0.Quiet s) (v : Nat)  : s0.Quiet (State.signal s v) := by
  unfold State.signal
  repeat' first
    | (with_reducible first | assumption)
    | ((with_reducible apply State.modHostIf_quiet); rotate_left; intro _; rfl)
    | (with_reducible apply qsnd_keeps; with_reducible assumption)
    | (extract_lets -underBinder +onlyGivenNames x; first | (refine qmp_keeps (s0 := s0) x ?_ ?_; unfold x; clear x; rotate_left; intro hx; clear_value x) | clear_value x)
    | split
    | intro _
    | (with_reducible apply State.Quiet.of_same; with_reducible assumption; rfl; rfl; rfl; rfl; rfl; rfl; rfl; rfl; rfl; rfl; rfl; rfl; rfl; rfl)

theorem State.sendHeld_quiet (h : s0.Quiet s)   : s0.Quiet (State.sendHeld s) := by
  unfold State.sendHeld
  repeat' first
    | (with_reducible first | assumption | apply State.forAll_quiet | apply State.iff_quiet | apply State.signal_quiet)
    | (with_reducible apply qsnd_keeps; with_reducible assumption)
    | (extract_lets -underBinder +onlyGivenNames x; first | (refine qmp_keeps (s0 := s0) x ?_ ?_; unfold x; clear x; rotate_left; intro hx; clear_value x) | clear_value x)
    | split
    | intro _

theorem State.ringVectors_quiet (h : s0.Quiet s)   : s0.Quiet (State.ringVectors s) := by
  unfold State.ringVectors
  repeat' first
    | (with_reducible first | assumption | apply State.forAll_quiet | apply State.modRing_quiet | apply State.iff_quiet
                            | apply State.signal_quiet)
    | (with_reducible apply qsnd_keeps; with_reducible assumption)
    | (extract_lets -underBinder +onlyGivenNames x; first | (refine qmp_keeps (s0 := s0) x ?_ ?_; unfold x; clear x; rotate_left; intro hx; clear_value x) | clear_value x)
    | split
    | intro _
    | (with_reducible apply State.Quiet.of_same; with_reducible assumption; rfl; rfl; rfl; rfl; rfl; rfl; rfl; rfl; rfl; rfl; rfl; rfl; rfl; rfl)

theorem State.shadowWrite_quiet (h : s0.Quiet s)   : s0.Quiet (State.shadowWrite s) := by
  unfold State.shadowWrite
  repeat' first
    | (with_reducible first | assumption | apply State.hostWrite_quiet)
    | ((with_reducible apply State.modHostIf_quiet); rotate_left; intro _; rfl)
    | (with_reducible first | apply State.ringVectors_quiet)
    | (with_reducible apply qsnd_keeps; with_reducible assumption)
    | (extract_lets -underBinder +onlyGivenNames x; first | (refine qmp_keeps (s0 := s0) x ?_ ?_; unfold x; clear x; rotate_left; intro hx; clear_value x) | clear_value x)
    | split
    | intro _
    | (with_reducible apply State.Quiet.of_same; with_reducible assumption; rfl; rfl; rfl; rfl; rfl; rfl; rfl; rfl; rfl; rfl; rfl; rfl; rfl; rfl)

theorem State.putEntry_quiet (h : s0.Quiet s) (i : Nat) (b : Bytes)  : s0.Quiet (State.putEntry s i b) := by
  unfold State.putEntry
  repeat' first
    | (with_reducible first | assumption | apply State.hostWrite_quiet | apply State.modRing_quiet)
    | (with_reducible apply qsnd_keeps; with_reducible assumption)
    | (extract_lets -underBinder +onlyGivenNames x; first | (refine qmp_keeps (s0 := s0) x ?_ ?_; unfold x; clear x; rotate_left; intro hx; clear_value x) | clear_value x)
    | split
    | intro _
    | (with_reducible apply State.Quiet.of_same; with_reducible assumption; rfl; rfl; rfl; rfl; rfl; rfl; rfl; rfl; rfl; rfl; rfl; rfl; rfl; rfl)

theorem State.putWaiting_quiet (h : s0.Quiet s) (i n : Nat) : s0.Quiet (s.putWaiting i n) := by
  induction n generalizing s with
  | zero => exact h
  | succ m ih =>
    unfold State.putWaiting
    repeat' first
      | with_reducible assumption
      | with_reducible apply ih
      | with_reducible apply State.putEntry_quiet
      | with_reducible apply State.modRing_quiet
      | (with_reducible apply qsnd_keeps; with_reducible assumption)
      | (extract_lets -underBinder +onlyGivenNames x; first | (refine qmp_keeps (s0 := s0) x ?_ ?_; unfold x; clear x; rotate_left; intro hx; clear_value x) | clear_value x)
      | split
      | intro _
      | (with_reducible apply State.Quiet.of_same; with_reducible assumption; rfl; rfl; rfl; rfl; rfl; rfl; rfl; rfl; rfl; rfl; rfl; rfl; rfl; rfl)

theorem State.markDone_quiet (h : s0.Quiet s) (i : Nat) (idx : Nat) (c : Compl)  : s0.Quiet (State.markDone s i idx c) := by
  unfold State.markDone
  repeat' first
    | (with_reducible first | assumption | apply State.modRing_quiet)
    | ((with_reducible apply State.modHostIf_quiet); rotate_left; intro _; rfl)
    | (with_reducible apply qsnd_keeps; with_reducible assumption)
    | (extract_lets -underBinder +onlyGivenNames x; first | (refine qmp_keeps (s0 := s0) x ?_ ?_; unfold x; clear x; rotate_left; intro hx; clear_value x) | clear_value x)
    | split
    | intro _
    | (with_reducible apply State.Quiet.of_same; with_reducible assumption; rfl; rfl; rfl; rfl; rfl; rfl; rfl; rfl; rfl; rfl; rfl; rfl; rfl; rfl)

theorem State.flushHead_quiet (h : s0.Quiet s) (i : Nat) (idx : Nat) (d : Desc) (c : Compl) (rest : List Act)  : s0.Quiet (State.flushHead s i idx d c rest) := by
  unfold State.flushHead
  repeat' first
    | (with_reducible first | assumption | apply State.modRing_quiet)
    | ((with_reducible apply State.modHostIf_quiet); rotate_left; intro _; rfl)
    | (with_reducible first | apply State.iff_quiet | apply State.putEntry_quiet)
    | (with_reducible apply qsnd_keeps; with_reducible assumption)
    | (extract_lets -underBinder +onlyGivenNames x; first | (refine qmp_keeps (s0 := s0) x ?_ ?_; unfold x; clear x; rotate_left; intro hx; clear_value x) | clear_value x)
    | split
    | intro _
    | (with_reducible apply State.Quiet.of_same; with_reducible assumption; rfl; rfl; rfl; rfl; rfl; rfl; rfl; rfl; rfl; rfl; rfl; rfl; rfl; rfl)

theorem State.flushActs_quiet (h : s0.Quiet s) (i n : Nat) : s0.Quiet (s.flushActs i n) := by
  induction n generalizing s with
  | zero => exact h
  | succ m ih =>
    unfold State.flushActs
    repeat' first
      | with_reducible assumption
      | with_reducible apply ih
      | with_reducible apply State.flushHead_quiet
      | (with_reducible apply qsnd_keeps; with_reducible assumption)
      | (extract_lets -underBinder +onlyGivenNames x; first | (refine qmp_keeps (s0 := s0) x ?_ ?_; unfold x; clear x; rotate_left; intro hx; clear_value x) | clear_value x)
      | split
      | intro _
      | (with_reducible apply State.Quiet.of_same; with_reducible assumption; rfl; rfl; rfl; rfl; rfl; rfl; rfl; rfl; rfl; rfl; rfl; rfl; rfl; rfl)

theorem State.startActs_quiet (h : s0.Quiet s) (i n : Nat) : s0.Quiet (s.startActs i n) := by
  induction n generalizing s with
  | zero => exact h
  | succ m ih =>
    unfold State.startActs
    repeat' first
      | with_reducible assumption
      | with_reducible apply ih
      | with_reducible apply State.modRing_quiet
      | with_reducible apply State.markDone_quiet
      | (with_reducible apply qsnd_keeps; with_reducible assumption)
      | (extract_lets -underBinder +onlyGivenNames x; first | (refine qmp_keeps (s0 := s0) x ?_ ?_; unfold x; clear x; rotate_left; intro hx; clear_value x) | clear_value x)
      | split
      | intro _
      | (with_reducible apply State.Quiet.of_same; with_reducible assumption; rfl; rfl; rfl; rfl; rfl; rfl; rfl; rfl; rfl; rfl; rfl; rfl; rfl; rfl)

theorem State.endStop_quiet (h : s0.Quiet s) (i : Nat)  : s0.Quiet (State.endStop s i) := by
  unfold State.endStop
  repeat' first
    | (with_reducible first | assumption | apply State.shadowWrite_quiet | apply State.modRing_quiet)
    | (with_reducible apply qsnd_keeps; with_reducible assumption)
    | (extract_lets -underBinder +onlyGivenNames x; first | (refine qmp_keeps (s0 := s0) x ?_ ?_; unfold x; clear x; rotate_left; intro hx; clear_value x) | clear_value x)
    | split
    | intro _
    | (with_reducible apply State.Quiet.of_same; with_reducible assumption; rfl; rfl; rfl; rfl; rfl; rfl; rfl; rfl; rfl; rfl; rfl; rfl; rfl; rfl)

theorem State.pump_quiet (h : s0.Quiet s) (i : Nat)  : s0.Quiet (State.pump s i) := by
  unfold State.pump
  repeat' first
    | (with_reducible first | assumption | apply State.flushActs_quiet | apply State.startActs_quiet | apply State.endStop_quiet)
    | (with_reducible apply qsnd_keeps; with_reducible assumption)
    | (extract_lets -underBinder +onlyGivenNames x; first | (refine qmp_keeps (s0 := s0) x ?_ ?_; unfold x; clear x; rotate_left; intro hx; clear_value x) | clear_value x)
    | split
    | intro _

theorem State.finishAct_quiet (h : s0.Quiet s) (i : Nat) (idx : Nat) (c : Compl)  : s0.Quiet (State.finishAct s i idx c) := by
  unfold State.finishAct
  repeat' first
    | (with_reducible first | assumption | apply State.markDone_quiet | apply State.pump_quiet)
    | (with_reducible apply qsnd_keeps; with_reducible assumption)
    | (extract_lets -underBinder +onlyGivenNames x; first | (refine qmp_keeps (s0 := s0) x ?_ ?_; unfold x; clear x; rotate_left; intro hx; clear_value x) | clear_value x)
    | split
    | intro _

theorem State.holdAct_quiet (h : s0.Quiet s) (i : Nat) (idx : Nat)  : s0.Quiet (State.holdAct s i idx) := by
  unfold State.holdAct
  repeat' first
    | (with_reducible first | assumption | apply State.modRing_quiet)
    | (with_reducible apply qsnd_keeps; with_reducible assumption)
    | (extract_lets -underBinder +onlyGivenNames x; first | (refine qmp_keeps (s0 := s0) x ?_ ?_; unfold x; clear x; rotate_left; intro hx; clear_value x) | clear_value x)
    | split
    | intro _
    | (with_reducible apply State.Quiet.of_same; with_reducible assumption; rfl; rfl; rfl; rfl; rfl; rfl; rfl; rfl; rfl; rfl; rfl; rfl; rfl; rfl)

theorem State.ends_quiet (h : s0.Quiet s) (i : Nat) (k : Nat) (status : Nat) (value : Nat) (len : Nat)  : s0.Quiet (State.ends s i k status value len) := by
  unfold State.ends
  repeat' first
    | (with_reducible first | assumption | apply State.finishAct_quiet)
    | (with_reducible apply qsnd_keeps; with_reducible assumption)
    | (extract_lets -underBinder +onlyGivenNames x; first | (refine qmp_keeps (s0 := s0) x ?_ ?_; unfold x; clear x; rotate_left; intro hx; clear_value x) | clear_value x)
    | split
    | intro _

theorem State.readBuf_quiet (h : s0.Quiet s) (i : Nat) (k : Nat) (addr : Nat) (n : Nat) (buf : Option Bytes) (f : Bytes → State → State) (hf : ∀ a0 x, s0.Quiet x → s0.Quiet (f a0 x)) : s0.Quiet (State.readBuf s i k addr n buf f) := by
  unfold State.readBuf
  repeat' first
    | (with_reducible first | assumption | apply hf | apply State.hostRead_quiet | apply State.ends_quiet)
    | (with_reducible apply qsnd_keeps; with_reducible assumption)
    | (extract_lets -underBinder +onlyGivenNames x; first | (refine qmp_keeps (s0 := s0) x ?_ ?_; unfold x; clear x; rotate_left; intro hx; clear_value x) | clear_value x)
    | split
    | intro _
    | (with_reducible apply State.Quiet.of_same; with_reducible assumption; rfl; rfl; rfl; rfl; rfl; rfl; rfl; rfl; rfl; rfl; rfl; rfl; rfl; rfl)

theorem State.bufEnd_quiet (h : s0.Quiet s) (i : Nat) (idx : Nat) (a : Nat) (b : Bytes) (c : Compl)  : s0.Quiet (State.bufEnd s i idx a b c) := by
  unfold State.bufEnd
  repeat' first
    | (with_reducible first | assumption | apply State.holdAct_quiet)
    | ((with_reducible apply State.modHostIf_quiet); rotate_left; intro _; rfl)
    | (with_reducible first | apply State.hostWrite_quiet | apply State.finishAct_quiet)
    | (with_reducible apply qsnd_keeps; with_reducible assumption)
    | (extract_lets -underBinder +onlyGivenNames x; first | (refine qmp_keeps (s0 := s0) x ?_ ?_; unfold x; clear x; rotate_left; intro hx; clear_value x) | clear_value x)
    | split
    | intro _
    | (with_reducible apply State.Quiet.of_same; with_reducible assumption; rfl; rfl; rfl; rfl; rfl; rfl; rfl; rfl; rfl; rfl; rfl; rfl; rfl; rfl)

theorem State.bufsOut_quiet (h : s0.Quiet s)   : s0.Quiet (State.bufsOut s) := by
  unfold State.bufsOut
  repeat' first
    | (with_reducible first | assumption | apply State.bufEnd_quiet)
    | ((with_reducible apply State.modHostIf_quiet); rotate_left; intro _; rfl)
    | (with_reducible first | apply qfoldl_keeps | apply foldl_snd_quiet | apply foldl_fst_quiet)
    | (with_reducible apply qsnd_keeps; with_reducible assumption)
    | (extract_lets -underBinder +onlyGivenNames x; first | (refine qmp_keeps (s0 := s0) x ?_ ?_; unfold x; clear x; rotate_left; intro hx; clear_value x) | clear_value x)
    | split
    | intro _
    | (with_reducible apply State.Quiet.of_same; with_reducible assumption; rfl; rfl; rfl; rfl; rfl; rfl; rfl; rfl; rfl; rfl; rfl; rfl; rfl; rfl)

theorem State.hadTurn_quiet (h : s0.Quiet s) (i : Nat)  : s0.Quiet (State.hadTurn s i) := by
  unfold State.hadTurn
  repeat' first
    | (with_reducible first | assumption)
    | ((with_reducible apply State.modHostIf_quiet); rotate_left; intro _; rfl)
    | (with_reducible apply qsnd_keeps; with_reducible assumption)
    | (extract_lets -underBinder +onlyGivenNames x; first | (refine qmp_keeps (s0 := s0) x ?_ ?_; unfold x; clear x; rotate_left; intro hx; clear_value x) | clear_value x)
    | split
    | intro _
    | (with_reducible apply State.Quiet.of_same; with_reducible assumption; rfl; rfl; rfl; rfl; rfl; rfl; rfl; rfl; rfl; rfl; rfl; rfl; rfl; rfl)

theorem State.flushAll_quiet (h : s0.Quiet s) (n : Nat) : s0.Quiet (s.flushAll n) := by
  induction n generalizing s with
  | zero => exact h
  | succ n ih =>
    unfold State.flushAll
    split
    · exact h
    · split
      · exact ih (State.hadTurn_quiet (State.flushActs_quiet h _ _) _)
      · exact h


theorem State.pumpAll_quiet (h : s0.Quiet s)   : s0.Quiet (State.pumpAll s) := by
  unfold State.pumpAll
  repeat' first
    | (with_reducible first | assumption | apply State.bufsOut_quiet | apply State.forAll_quiet | apply State.putWaiting_quiet
                            | apply State.flushAll_quiet | apply State.pump_quiet)
    | (with_reducible apply qsnd_keeps; with_reducible assumption)
    | (extract_lets -underBinder +onlyGivenNames x; first | (refine qmp_keeps (s0 := s0) x ?_ ?_; unfold x; clear x; rotate_left; intro hx; clear_value x) | clear_value x)
    | split
    | intro _

theorem State.issueReads_quiet (h : s0.Quiet s) (n : Nat) : s0.Quiet (s.issueReads n) := by
  induction n generalizing s with
  | zero => exact h
  | succ n ih =>
    unfold State.issueReads
    split
    · exact h
    · split
      · refine ih (State.hadTurn_quiet (State.modHostIf_quiet (State.issue_quiet h _ _ _ _) _ ?_) _)
        exact fun _ => rfl
      · exact h


theorem State.takeRead_quiet (h : s0.Quiet s) (i : Nat)  : s0.Quiet ((State.takeRead s i).2) := by
  unfold State.takeRead
  repeat' first
    | (with_reducible first | assumption)
    | ((with_reducible apply State.modHostIf_quiet); rotate_left; intro _; rfl)
    | (with_reducible first | apply State.issue_quiet | apply State.hadTurn_quiet)
    | (with_reducible apply qsnd_keeps; with_reducible assumption)
    | (extract_lets -underBinder +onlyGivenNames x; first | (refine qmp_keeps (s0 := s0) x ?_ ?_; unfold x; clear x; rotate_left; intro hx; clear_value x) | clear_value x)
    | split
    | intro _
    | (with_reducible apply State.Quiet.of_same; with_reducible assumption; rfl; rfl; rfl; rfl; rfl; rfl; rfl; rfl; rfl; rfl; rfl; rfl; rfl; rfl)

theorem State.finishRole_quiet (h : s0.Quiet s) (role : Nat) (idx : Nat) (c : Compl)  : s0.Quiet (State.finishRole s role idx c) := by
  unfold State.finishRole
  repeat' first
    | (with_reducible first | assumption | apply State.finishAct_quiet)
    | (with_reducible apply qsnd_keeps; with_reducible assumption)
    | (extract_lets -underBinder +onlyGivenNames x; first | (refine qmp_keeps (s0 := s0) x ?_ ?_; unfold x; clear x; rotate_left; intro hx; clear_value x) | clear_value x)
    | split
    | intro _
    | (with_reducible apply State.Quiet.of_same; with_reducible assumption; rfl; rfl; rfl; rfl; rfl; rfl; rfl; rfl; rfl; rfl; rfl; rfl; rfl; rfl)

theorem State.roleEnd_quiet (h : s0.Quiet s) (role : Nat) (idx : Nat) (a : Nat) (b : Bytes) (c : Compl)  : s0.Quiet (State.roleEnd s role idx a b c) := by
  unfold State.roleEnd
  repeat' first
    | (with_reducible first | assumption | apply State.bufEnd_quiet)
    | (with_reducible apply qsnd_keeps; with_reducible assumption)
    | (extract_lets -underBinder +onlyGivenNames x; first | (refine qmp_keeps (s0 := s0) x ?_ ?_; unfold x; clear x; rotate_left; intro hx; clear_value x) | clear_value x)
    | split
    | intro _
    | (with_reducible apply State.Quiet.of_same; with_reducible assumption; rfl; rfl; rfl; rfl; rfl; rfl; rfl; rfl; rfl; rfl; rfl; rfl; rfl; rfl)

theorem State.onTurn_quiet (h : s0.Quiet s) (role : Nat) (op : Nat) (f : Nat → Nat → Desc → State → State) (hf : ∀ a0 a1 a2 x, s0.Quiet x → s0.Quiet (f a0 a1 a2 x)) : s0.Quiet (State.onTurn s role op f) := by
  unfold State.onTurn
  repeat' first
    | (with_reducible first | assumption | apply hf)
    | (with_reducible apply qsnd_keeps; with_reducible assumption)
    | (extract_lets -underBinder +onlyGivenNames x; first | (refine qmp_keeps (s0 := s0) x ?_ ?_; unfold x; clear x; rotate_left; intro hx; clear_value x) | clear_value x)
    | split
    | intro _
    | (with_reducible apply State.Quiet.of_same; with_reducible assumption; rfl; rfl; rfl; rfl; rfl; rfl; rfl; rfl; rfl; rfl; rfl; rfl; rfl; rfl)

theorem State.emitRecord_quiet (h : s0.Quiet s) (role : Nat) (kind : Nat) (b : Bytes)  : s0.Quiet (State.emitRecord s role kind b) := by
  unfold State.emitRecord
  repeat' first
    | (with_reducible first | assumption | apply State.modRing_quiet | apply State.hostWrite_quiet | apply State.putEntry_quiet)
    | (with_reducible apply qsnd_keeps; with_reducible assumption)
    | (extract_lets -underBinder +onlyGivenNames x; first | (refine qmp_keeps (s0 := s0) x ?_ ?_; unfold x; clear x; rotate_left; intro hx; clear_value x) | clear_value x)
    | split
    | intro _
    | (with_reducible apply State.Quiet.of_same; with_reducible assumption; rfl; rfl; rfl; rfl; rfl; rfl; rfl; rfl; rfl; rfl; rfl; rfl; rfl; rfl)

theorem State.notice_quiet (h : s0.Quiet s) (q : Nat) (b : Bytes)  : s0.Quiet (State.notice s q b) := by
  unfold State.notice
  repeat' first
    | (with_reducible first | assumption | apply State.modRing_quiet | apply State.putWaiting_quiet)
    | (with_reducible apply qsnd_keeps; with_reducible assumption)
    | (extract_lets -underBinder +onlyGivenNames x; first | (refine qmp_keeps (s0 := s0) x ?_ ?_; unfold x; clear x; rotate_left; intro hx; clear_value x) | clear_value x)
    | split
    | intro _
    | (with_reducible apply State.Quiet.of_same; with_reducible assumption; rfl; rfl; rfl; rfl; rfl; rfl; rfl; rfl; rfl; rfl; rfl; rfl; rfl; rfl)

theorem State.limit_quiet (h : s0.Quiet s) (r : RaiseRec)  : s0.Quiet ((State.limit s r).2) := by
  unfold State.limit
  repeat' first
    | (with_reducible first | assumption | apply State.modBook_quiet | apply hf1 | apply hf2 | apply hf3)
    | (with_reducible apply qsnd_keeps; with_reducible assumption)
    | (extract_lets -underBinder +onlyGivenNames x; first | (refine qmp_keeps (s0 := s0) x ?_ ?_; unfold x; clear x; rotate_left; intro hx; clear_value x) | (refine mp1_quiet (s0 := s0) x ?_ ?_; unfold x; clear x; rotate_left; intro hf1; clear_value x) | (refine mp2_quiet (s0 := s0) x ?_ ?_; unfold x; clear x; rotate_left; intro hf2; clear_value x) | (refine mp3_quiet (s0 := s0) x ?_ ?_; unfold x; clear x; rotate_left; intro hf3; clear_value x) | clear_value x)
    | split
    | intro _
    | (with_reducible apply State.Quiet.of_same; with_reducible assumption; rfl; rfl; rfl; rfl; rfl; rfl; rfl; rfl; rfl; rfl; rfl; rfl; rfl; rfl)

theorem State.record_quiet (h : s0.Quiet s) (r : RaiseRec)  : s0.Quiet (State.record s r) := by
  unfold State.record
  repeat' first
    | (with_reducible first | assumption | apply State.modWch_quiet)
    | (with_reducible apply qsnd_keeps; with_reducible assumption)
    | (extract_lets -underBinder +onlyGivenNames x; first | (refine qmp_keeps (s0 := s0) x ?_ ?_; unfold x; clear x; rotate_left; intro hx; clear_value x) | clear_value x)
    | split
    | intro _
    | (with_reducible apply State.Quiet.of_same; with_reducible assumption; rfl; rfl; rfl; rfl; rfl; rfl; rfl; rfl; rfl; rfl; rfl; rfl; rfl; rfl)

theorem State.recordSeq_quiet (h : s0.Quiet s)   : s0.Quiet ((State.recordSeq s).2) := by
  unfold State.recordSeq
  repeat' first
    | (with_reducible first | assumption | apply State.modBook_quiet | apply State.free_quiet)
    | (with_reducible apply qsnd_keeps; with_reducible assumption)
    | (extract_lets -underBinder +onlyGivenNames x; first | (refine qmp_keeps (s0 := s0) x ?_ ?_; unfold x; clear x; rotate_left; intro hx; clear_value x) | clear_value x)
    | split
    | intro _
    | (with_reducible apply State.Quiet.of_same; with_reducible assumption; rfl; rfl; rfl; rfl; rfl; rfl; rfl; rfl; rfl; rfl; rfl; rfl; rfl; rfl)

theorem State.errPulse_quiet (h : s0.Quiet s)   : s0.Quiet (State.errPulse s) := by
  unfold State.errPulse
  repeat' first
    | (with_reducible first | assumption | apply State.modWch_quiet)
    | (with_reducible apply qsnd_keeps; with_reducible assumption)
    | (extract_lets -underBinder +onlyGivenNames x; first | (refine qmp_keeps (s0 := s0) x ?_ ?_; unfold x; clear x; rotate_left; intro hx; clear_value x) | clear_value x)
    | split
    | intro _
    | (with_reducible apply State.Quiet.of_same; with_reducible assumption; rfl; rfl; rfl; rfl; rfl; rfl; rfl; rfl; rfl; rfl; rfl; rfl; rfl; rfl)

theorem State.freshRaise_quiet (h : s0.Quiet s) (src : Nat)  : s0.Quiet (State.freshRaise s src) := by
  unfold State.freshRaise
  repeat' first
    | (with_reducible first | assumption | apply State.modWch_quiet)
    | (with_reducible apply qsnd_keeps; with_reducible assumption)
    | (extract_lets -underBinder +onlyGivenNames x; first | (refine qmp_keeps (s0 := s0) x ?_ ?_; unfold x; clear x; rotate_left; intro hx; clear_value x) | clear_value x)
    | split
    | intro _
    | (with_reducible apply State.Quiet.of_same; with_reducible assumption; rfl; rfl; rfl; rfl; rfl; rfl; rfl; rfl; rfl; rfl; rfl; rfl; rfl; rfl)

theorem State.bump_quiet (h : s0.Quiet s) (r : Reg) (i hi lo k : Nat) (a : raiseOff (r.addr i) = true) (b : eventOff (r.addr i) = false) :
    s0.Quiet (s.bump r i hi lo k) := State.setRf_quiet h r i hi lo _ a b

theorem State.setEvent_quiet (h : s0.Quiet s) (r : Reg) (b : Nat) (a : eventOff (r.addr 0) = true) : s0.Quiet (s.setEvent r b) :=
  State.setBit_quiet h r 0 b a

theorem State.countRaise_quiet (h : s0.Quiet s) (src : Nat) (forced : Bool) (lt : src < 608) : s0.Quiet (s.countRaise src forced) := by
  unfold State.countRaise
  refine State.bump_quiet (State.iff_quiet h _ _ fun x hx => ?_) _ _ _ _ _ (cfg_off src lt).1 (cfg_off src lt).2
  split
  · next r b e => exact State.setEvent_quiet hx r b (unitEvent_off src r b e)
  · exact hx

theorem State.latchRaise_quiet (h : s0.Quiet s) (src : Nat) (lt : src < 608) : s0.Quiet (s.latchRaise src) := by
  unfold State.latchRaise
  have h1 := State.setBit_quiet h .wchLatch (src / 32) (src % 32) (latch_off src lt)
  generalize s.setRb .wchLatch (src / 32) (src % 32) true = x at h1
  exact State.setRf_quiet (State.modWch_quiet h1 _) .wchStatus _ _ _ _ (by decide) (by decide)

theorem State.recordRaise_quiet (h : s0.Quiet s) (src : Nat) (sev : Nat) (idx : Nat) (w1 : Nat) (forced : Bool)  : s0.Quiet (State.recordRaise s src sev idx w1 forced) := by
  unfold State.recordRaise
  repeat' first
    | (with_reducible first | assumption | apply State.record_quiet)
    | (with_reducible apply qsnd_keeps; with_reducible assumption)
    | (extract_lets -underBinder +onlyGivenNames x; first | (refine qmp_keeps (s0 := s0) x ?_ ?_; unfold x; clear x; rotate_left; intro hx; clear_value x) | clear_value x)
    | split
    | intro _
    | (with_reducible apply State.Quiet.of_same; with_reducible assumption; rfl; rfl; rfl; rfl; rfl; rfl; rfl; rfl; rfl; rfl; rfl; rfl; rfl; rfl)

theorem State.alarmRaise_quiet (h : s0.Quiet s) (src : Nat) (sev : Nat)  : s0.Quiet (State.alarmRaise s src sev) := by
  unfold State.alarmRaise
  repeat' first
    | (with_reducible first | assumption | apply State.iff_quiet | apply State.errPulse_quiet | apply State.modWch_quiet)
    | ((with_reducible apply State.setRb_quiet) <;> try decide)
    | (with_reducible first | apply State.signal_quiet)
    | (with_reducible apply qsnd_keeps; with_reducible assumption)
    | (extract_lets -underBinder +onlyGivenNames x; first | (refine qmp_keeps (s0 := s0) x ?_ ?_; unfold x; clear x; rotate_left; intro hx; clear_value x) | clear_value x)
    | split
    | intro _
    | (with_reducible apply State.Quiet.of_same; with_reducible assumption; rfl; rfl; rfl; rfl; rfl; rfl; rfl; rfl; rfl; rfl; rfl; rfl; rfl; rfl)

theorem State.raiseCore_quiet (h : s0.Quiet s) (src : Nat) (idx : Nat) (w1 : Nat) (forced : Bool)  : s0.Quiet (State.raiseCore s src idx w1 forced) := by
  unfold State.raiseCore
  split
  · exact h
  · next ok =>
    have lt := sourceOk_lt s.var src (by simpa using ok)
    have hc := State.countRaise_quiet (State.freshRaise_quiet h src) src forced lt
    dsimp only
    split
    · exact hc
    · exact State.alarmRaise_quiet (State.recordRaise_quiet (State.latchRaise_quiet hc src lt) _ _ _ _ _) _ _

theorem State.watchStop_quiet (h : s0.Quiet s) (src : Nat)  : s0.Quiet (State.watchStop s src) := by
  unfold State.watchStop
  repeat' first
    | (with_reducible first | assumption | apply State.modWch_quiet)
    | (with_reducible apply qsnd_keeps; with_reducible assumption)
    | (extract_lets -underBinder +onlyGivenNames x; first | (refine qmp_keeps (s0 := s0) x ?_ ?_; unfold x; clear x; rotate_left; intro hx; clear_value x) | clear_value x)
    | split
    | intro _
    | (with_reducible apply State.Quiet.of_same; with_reducible assumption; rfl; rfl; rfl; rfl; rfl; rfl; rfl; rfl; rfl; rfl; rfl; rfl; rfl; rfl)

theorem State.sendRecord_quiet (h : s0.Quiet s) (r : RaiseRec)  : s0.Quiet (State.sendRecord s r) := by
  unfold State.sendRecord
  repeat' first
    | (with_reducible first | assumption | apply State.limit_quiet | apply State.recordSeq_quiet | apply State.emitRecord_quiet
                            | apply State.modBook_quiet | apply State.raiseCore_quiet | apply State.watchStop_quiet)
    | (with_reducible apply qsnd_keeps; with_reducible assumption)
    | (extract_lets -underBinder +onlyGivenNames x; first | (refine qmp_keeps (s0 := s0) x ?_ ?_; unfold x; clear x; rotate_left; intro hx; clear_value x) | clear_value x)
    | split
    | intro _
    | (with_reducible apply State.Quiet.of_same; with_reducible assumption; rfl; rfl; rfl; rfl; rfl; rfl; rfl; rfl; rfl; rfl; rfl; rfl; rfl; rfl)

theorem State.sendBatch_quiet (h : s0.Quiet s)   : s0.Quiet (State.sendBatch s) := by
  unfold State.sendBatch
  repeat' first
    | (with_reducible first | assumption | apply State.sendRecord_quiet | apply State.modWch_quiet | apply qfoldl_keeps
                            | apply foldl_snd_quiet | apply foldl_fst_quiet)
    | (with_reducible apply qsnd_keeps; with_reducible assumption)
    | (extract_lets -underBinder +onlyGivenNames x; first | (refine qmp_keeps (s0 := s0) x ?_ ?_; unfold x; clear x; rotate_left; intro hx; clear_value x) | clear_value x)
    | split
    | intro _
    | (with_reducible apply State.Quiet.of_same; with_reducible assumption; rfl; rfl; rfl; rfl; rfl; rfl; rfl; rfl; rfl; rfl; rfl; rfl; rfl; rfl)

theorem State.lastWord_quiet (h : s0.Quiet s) (src : Nat) (aon : Nat) (w1 : Nat)  : s0.Quiet (State.lastWord s src aon w1) := by
  unfold State.lastWord
  repeat' first
    | (with_reducible first | assumption | apply State.modBook_quiet)
    | (with_reducible apply qsnd_keeps; with_reducible assumption)
    | (extract_lets -underBinder +onlyGivenNames x; first | (refine qmp_keeps (s0 := s0) x ?_ ?_; unfold x; clear x; rotate_left; intro hx; clear_value x) | clear_value x)
    | split
    | intro _
    | (with_reducible apply State.Quiet.of_same; with_reducible assumption; rfl; rfl; rfl; rfl; rfl; rfl; rfl; rfl; rfl; rfl; rfl; rfl; rfl; rfl)

theorem State.pairSend_quiet (h : s0.Quiet s) (kind : Nat) (body : Bytes)  : s0.Quiet (State.pairSend s kind body) := by
  unfold State.pairSend
  repeat' first
    | (with_reducible first | assumption | apply State.modPair_quiet)
    | (with_reducible apply qsnd_keeps; with_reducible assumption)
    | (extract_lets -underBinder +onlyGivenNames x; first | (refine qmp_keeps (s0 := s0) x ?_ ?_; unfold x; clear x; rotate_left; intro hx; clear_value x) | clear_value x)
    | split
    | intro _
    | (with_reducible apply State.Quiet.of_same; with_reducible assumption; rfl; rfl; rfl; rfl; rfl; rfl; rfl; rfl; rfl; rfl; rfl; rfl; rfl; rfl)

theorem State.forward_quiet (h : s0.Quiet s) (kind : Nat) (act : Nat) (args : List Nat)  : s0.Quiet (State.forward s kind act args) := by
  unfold State.forward
  repeat' first
    | (with_reducible first | assumption | apply State.pairSend_quiet | apply State.modPair_quiet)
    | (with_reducible apply qsnd_keeps; with_reducible assumption)
    | (extract_lets -underBinder +onlyGivenNames x; first | (refine qmp_keeps (s0 := s0) x ?_ ?_; unfold x; clear x; rotate_left; intro hx; clear_value x) | clear_value x)
    | split
    | intro _
    | (with_reducible apply State.Quiet.of_same; with_reducible assumption; rfl; rfl; rfl; rfl; rfl; rfl; rfl; rfl; rfl; rfl; rfl; rfl; rfl; rfl)

theorem State.answer_quiet (h : s0.Quiet s) (role : Nat) (k : Nat) (c : Compl)  : s0.Quiet (State.answer s role k c) := by
  unfold State.answer
  repeat' first
    | (with_reducible first | assumption | apply State.pairSend_quiet | apply State.finishRole_quiet)
    | (with_reducible apply qsnd_keeps; with_reducible assumption)
    | (extract_lets -underBinder +onlyGivenNames x; first | (refine qmp_keeps (s0 := s0) x ?_ ?_; unfold x; clear x; rotate_left; intro hx; clear_value x) | clear_value x)
    | split
    | intro _

theorem State.modeEnd_quiet (h : s0.Quiet s) (src : Nat) (target : Nat) (result : Nat) (check : Nat) (index : Nat) (act : Option Nat)  : s0.Quiet (State.modeEnd s src target result check index act) := by
  unfold State.modeEnd
  repeat' first
    | (with_reducible first | assumption)
    | ((with_reducible apply State.setReg_quiet) <;> try decide)
    | (with_reducible first | apply State.answer_quiet)
    | (with_reducible apply qsnd_keeps; with_reducible assumption)
    | (extract_lets -underBinder +onlyGivenNames x; first | (refine qmp_keeps (s0 := s0) x ?_ ?_; unfold x; clear x; rotate_left; intro hx; clear_value x) | clear_value x)
    | split
    | intro _
    | (with_reducible apply State.Quiet.of_same; with_reducible assumption; rfl; rfl; rfl; rfl; rfl; rfl; rfl; rfl; rfl; rfl; rfl; rfl; rfl; rfl)


theorem State.raise0_quiet (h : s0.Quiet s) (src : Nat) (idx : Nat) (w1 : Nat) (forced : Bool)  : s0.Quiet (State.raise0 s src idx w1 forced) := by
  unfold State.raise0
  repeat' first
    | (with_reducible first | assumption | apply State.raiseCore_quiet | apply State.watchStop_quiet)
    | (with_reducible apply qsnd_keeps; with_reducible assumption)
    | (extract_lets -underBinder +onlyGivenNames x; first | (refine qmp_keeps (s0 := s0) x ?_ ?_; unfold x; clear x; rotate_left; intro hx; clear_value x) | clear_value x)
    | split
    | intro _

theorem State.refusedRaise_quiet (h : s0.Quiet s) (src : Nat) (target : Nat)  : s0.Quiet (State.refusedRaise s src target) := by
  unfold State.refusedRaise
  repeat' first
    | (with_reducible first | assumption | apply State.iff_quiet | apply State.raise0_quiet)
    | (with_reducible apply qsnd_keeps; with_reducible assumption)
    | (extract_lets -underBinder +onlyGivenNames x; first | (refine qmp_keeps (s0 := s0) x ?_ ?_; unfold x; clear x; rotate_left; intro hx; clear_value x) | clear_value x)
    | split
    | intro _

theorem State.softOff_quiet (h : s0.Quiet s) (n : Nat) (at_ : Nat)  : s0.Quiet (State.softOff s n at_) := by
  unfold State.softOff
  repeat' first
    | (with_reducible first | assumption | apply State.modSw_quiet)
    | (with_reducible apply qsnd_keeps; with_reducible assumption)
    | (extract_lets -underBinder +onlyGivenNames x; first | (refine qmp_keeps (s0 := s0) x ?_ ?_; unfold x; clear x; rotate_left; intro hx; clear_value x) | clear_value x)
    | split
    | (intro _ w; first | exact w | exact Bool.noConfusion w | (split at w <;> first | exact w | exact Bool.noConfusion w))
    | intro _
    | (with_reducible apply State.Quiet.of_same; with_reducible assumption; rfl; rfl; rfl; rfl; rfl; rfl; rfl; rfl; rfl; rfl; rfl; rfl; rfl; rfl)

theorem State.capTransition_quiet (h : s0.Quiet s)   : s0.Quiet (State.capTransition s) := by
  unfold State.capTransition
  repeat' first
    | (with_reducible first | assumption | apply State.modCap_quiet | apply State.forAll_quiet | apply State.modUnit_quiet)
    | (with_reducible apply qsnd_keeps; with_reducible assumption)
    | (extract_lets -underBinder +onlyGivenNames x; first | (refine qmp_keeps (s0 := s0) x ?_ ?_; unfold x; clear x; rotate_left; intro hx; clear_value x) | clear_value x)
    | split
    | intro _
    | (with_reducible apply State.Quiet.of_same; with_reducible assumption; rfl; rfl; rfl; rfl; rfl; rfl; rfl; rfl; rfl; rfl; rfl; rfl; rfl; rfl)

theorem State.leaveDormant_quiet (h : s0.Quiet s)   : s0.Quiet (State.leaveDormant s) := by
  unfold State.leaveDormant
  repeat' first
    | (with_reducible first | assumption | apply State.forAll_quiet | apply State.iff_quiet | apply State.modPort_quiet
                            | apply State.modAdc_quiet)
    | (with_reducible apply qsnd_keeps; with_reducible assumption)
    | (extract_lets -underBinder +onlyGivenNames x; first | (refine qmp_keeps (s0 := s0) x ?_ ?_; unfold x; clear x; rotate_left; intro hx; clear_value x) | clear_value x)
    | split
    | intro _
    | (with_reducible apply State.Quiet.of_same; with_reducible assumption; rfl; rfl; rfl; rfl; rfl; rfl; rfl; rfl; rfl; rfl; rfl; rfl; rfl; rfl)

theorem State.leaving_quiet (h : s0.Quiet s) (old : Nat) (new : Nat)  : s0.Quiet (State.leaving s old new) := by
  unfold State.leaving
  repeat' first
    | (with_reducible first | assumption | apply State.iff_quiet | apply State.leaveDormant_quiet | apply State.modMode_quiet
                            | apply State.capTransition_quiet)
    | (with_reducible apply qsnd_keeps; with_reducible assumption)
    | (extract_lets -underBinder +onlyGivenNames x; first | (refine qmp_keeps (s0 := s0) x ?_ ?_; unfold x; clear x; rotate_left; intro hx; clear_value x) | clear_value x)
    | split
    | intro _
    | (with_reducible apply State.Quiet.of_same; with_reducible assumption; rfl; rfl; rfl; rfl; rfl; rfl; rfl; rfl; rfl; rfl; rfl; rfl; rfl; rfl)

theorem State.preempted_quiet (h : s0.Quiet s) (q : ModeReq)  : s0.Quiet (State.preempted s q) := by
  unfold State.preempted
  repeat' first
    | (with_reducible first | assumption | apply State.modeEnd_quiet | apply State.refusedRaise_quiet)
    | (with_reducible apply qsnd_keeps; with_reducible assumption)
    | (extract_lets -underBinder +onlyGivenNames x; first | (refine qmp_keeps (s0 := s0) x ?_ ?_; unfold x; clear x; rotate_left; intro hx; clear_value x) | clear_value x)
    | split
    | intro _

theorem State.dropPending_quiet (h : s0.Quiet s)   : s0.Quiet (State.dropPending s) := by
  unfold State.dropPending
  repeat' first
    | (with_reducible first | assumption | apply State.preempted_quiet | apply State.modMode_quiet | apply qfoldl_keeps
                            | apply foldl_snd_quiet | apply foldl_fst_quiet)
    | (with_reducible apply qsnd_keeps; with_reducible assumption)
    | (extract_lets -underBinder +onlyGivenNames x; first | (refine qmp_keeps (s0 := s0) x ?_ ?_; unfold x; clear x; rotate_left; intro hx; clear_value x) | clear_value x)
    | split
    | intro _
    | (with_reducible apply State.Quiet.of_same; with_reducible assumption; rfl; rfl; rfl; rfl; rfl; rfl; rfl; rfl; rfl; rfl; rfl; rfl; rfl; rfl)

theorem State.allGroupsMode_quiet (h : s0.Quiet s) (m : Nat)  : s0.Quiet (State.allGroupsMode s m) := by
  unfold State.allGroupsMode
  repeat' first
    | (with_reducible first | assumption | apply State.modMode_quiet | apply qfoldl_keeps | apply foldl_snd_quiet
                            | apply foldl_fst_quiet)
    | (with_reducible apply qsnd_keeps; with_reducible assumption)
    | (extract_lets -underBinder +onlyGivenNames x; first | (refine qmp_keeps (s0 := s0) x ?_ ?_; unfold x; clear x; rotate_left; intro hx; clear_value x) | clear_value x)
    | split
    | intro _
    | (with_reducible apply State.Quiet.of_same; with_reducible assumption; rfl; rfl; rfl; rfl; rfl; rfl; rfl; rfl; rfl; rfl; rfl; rfl; rfl; rfl)

theorem State.enterStop_quiet (h : s0.Quiet s) (src : Nat) (c : Nat) (act : Option Nat)  : s0.Quiet (State.enterStop s src c act) := by
  unfold State.enterStop
  repeat' first
    | (with_reducible first | assumption | apply State.dropPending_quiet | apply State.modeEnd_quiet | apply State.leaving_quiet
                            | apply State.modMode_quiet | apply State.allGroupsMode_quiet)
    | ((with_reducible apply State.setRf_quiet) <;> try decide)
    | ((with_reducible apply State.setReg_quiet) <;> try decide)
    | (with_reducible first | apply State.modGce_quiet | apply State.forAll_quiet | apply State.softOff_quiet
                            | apply State.iff_quiet | apply State.pairSend_quiet)
    | (with_reducible apply qsnd_keeps; with_reducible assumption)
    | (extract_lets -underBinder +onlyGivenNames x; first | (refine qmp_keeps (s0 := s0) x ?_ ?_; unfold x; clear x; rotate_left; intro hx; clear_value x) | clear_value x)
    | split
    | intro _
    | (with_reducible apply State.Quiet.of_same; with_reducible assumption; rfl; rfl; rfl; rfl; rfl; rfl; rfl; rfl; rfl; rfl; rfl; rfl; rfl; rfl)

theorem State.stopAgain_quiet (h : s0.Quiet s) (src : Nat) (act : Option Nat)  : s0.Quiet (State.stopAgain s src act) := by
  unfold State.stopAgain
  repeat' first
    | (with_reducible first | assumption | apply State.answer_quiet | apply State.iff_quiet)
    | ((with_reducible apply State.setRf_quiet) <;> try decide)
    | (with_reducible first | apply State.modMode_quiet | apply State.refusedRaise_quiet)
    | (with_reducible apply qsnd_keeps; with_reducible assumption)
    | (extract_lets -underBinder +onlyGivenNames x; first | (refine qmp_keeps (s0 := s0) x ?_ ?_; unfold x; clear x; rotate_left; intro hx; clear_value x) | clear_value x)
    | split
    | intro _
    | (with_reducible apply State.Quiet.of_same; with_reducible assumption; rfl; rfl; rfl; rfl; rfl; rfl; rfl; rfl; rfl; rfl; rfl; rfl; rfl; rfl)

theorem State.stopRequest_quiet (h : s0.Quiet s) (src : Nat) (c : Nat) (act : Option Nat)  : s0.Quiet (State.stopRequest s src c act) := by
  unfold State.stopRequest
  repeat' first
    | (with_reducible first | assumption | apply State.iff_quiet | apply State.forward_quiet | apply State.stopAgain_quiet
                            | apply State.modeEnd_quiet | apply State.refusedRaise_quiet | apply State.enterStop_quiet)
    | (with_reducible apply qsnd_keeps; with_reducible assumption)
    | (extract_lets -underBinder +onlyGivenNames x; first | (refine qmp_keeps (s0 := s0) x ?_ ?_; unfold x; clear x; rotate_left; intro hx; clear_value x) | clear_value x)
    | split
    | intro _

theorem State.legHeld_quiet (h : s0.Quiet s) (n : Nat)  : s0.Quiet (State.legHeld s n) := by
  unfold State.legHeld
  repeat' first
    | (with_reducible first | assumption | apply State.softOff_quiet | apply State.modHealth1_quiet | apply State.modLg_quiet)
    | (with_reducible apply qsnd_keeps; with_reducible assumption)
    | (extract_lets -underBinder +onlyGivenNames x; first | (refine qmp_keeps (s0 := s0) x ?_ ?_; unfold x; clear x; rotate_left; intro hx; clear_value x) | clear_value x)
    | split
    | intro _
    | (with_reducible apply State.Quiet.of_same; with_reducible assumption; rfl; rfl; rfl; rfl; rfl; rfl; rfl; rfl; rfl; rfl; rfl; rfl; rfl; rfl)

theorem State.legBack_quiet (h : s0.Quiet s) (n : Nat)  : s0.Quiet (State.legBack s n) := by
  unfold State.legBack
  repeat' first
    | (with_reducible first | assumption | apply State.modHealth1_quiet | apply State.modLg_quiet)
    | (with_reducible apply qsnd_keeps; with_reducible assumption)
    | (extract_lets -underBinder +onlyGivenNames x; first | (refine qmp_keeps (s0 := s0) x ?_ ?_; unfold x; clear x; rotate_left; intro hx; clear_value x) | clear_value x)
    | split
    | intro _
    | (with_reducible apply State.Quiet.of_same; with_reducible assumption; rfl; rfl; rfl; rfl; rfl; rfl; rfl; rfl; rfl; rfl; rfl; rfl; rfl; rfl)

theorem State.markRetired_quiet (h : s0.Quiet s) (h : Nat) (cause : Nat)  : s0.Quiet (State.markRetired s h cause) := by
  unfold State.markRetired
  repeat' first
    | (with_reducible first | assumption | apply State.modHealth1_quiet | apply State.raise0_quiet)
    | (with_reducible apply qsnd_keeps; with_reducible assumption)
    | (extract_lets -underBinder +onlyGivenNames x; first | (refine qmp_keeps (s0 := s0) x ?_ ?_; unfold x; clear x; rotate_left; intro hx; clear_value x) | clear_value x)
    | split
    | intro _
    | (with_reducible apply State.Quiet.of_same; with_reducible assumption; rfl; rfl; rfl; rfl; rfl; rfl; rfl; rfl; rfl; rfl; rfl; rfl; rfl; rfl)

theorem State.retireAsked_quiet (h : s0.Quiet s) (h : Nat)  : s0.Quiet (State.retireAsked s h) := by
  unfold State.retireAsked
  repeat' first
    | (with_reducible first | assumption | apply State.iff_quiet | apply State.modHealth1_quiet)
    | (with_reducible apply qsnd_keeps; with_reducible assumption)
    | (extract_lets -underBinder +onlyGivenNames x; first | (refine qmp_keeps (s0 := s0) x ?_ ?_; unfold x; clear x; rotate_left; intro hx; clear_value x) | clear_value x)
    | split
    | intro _
    | (with_reducible apply State.Quiet.of_same; with_reducible assumption; rfl; rfl; rfl; rfl; rfl; rfl; rfl; rfl; rfl; rfl; rfl; rfl; rfl; rfl)

theorem State.laneOut_quiet (h : s0.Quiet s) (k : Nat)  : s0.Quiet (State.laneOut s k) := by
  unfold State.laneOut
  repeat' first
    | (with_reducible first | assumption | apply State.modPair_quiet | apply State.iff_quiet)
    | (with_reducible apply qsnd_keeps; with_reducible assumption)
    | (extract_lets -underBinder +onlyGivenNames x; first | (refine qmp_keeps (s0 := s0) x ?_ ?_; unfold x; clear x; rotate_left; intro hx; clear_value x) | clear_value x)
    | split
    | intro _
    | (with_reducible apply State.Quiet.of_same; with_reducible assumption; rfl; rfl; rfl; rfl; rfl; rfl; rfl; rfl; rfl; rfl; rfl; rfl; rfl; rfl)

theorem State.retireLeg_quiet (h : s0.Quiet s) (n : Nat) (cause : Nat)  : s0.Quiet (State.retireLeg s n cause) := by
  unfold State.retireLeg
  repeat' first
    | (with_reducible first | assumption | apply State.retireAsked_quiet | apply State.modHealth1_quiet
                            | apply State.legHeld_quiet | apply State.markRetired_quiet)
    | (with_reducible apply qsnd_keeps; with_reducible assumption)
    | (extract_lets -underBinder +onlyGivenNames x; first | (refine qmp_keeps (s0 := s0) x ?_ ?_; unfold x; clear x; rotate_left; intro hx; clear_value x) | clear_value x)
    | split
    | intro _
    | (with_reducible apply State.Quiet.of_same; with_reducible assumption; rfl; rfl; rfl; rfl; rfl; rfl; rfl; rfl; rfl; rfl; rfl; rfl; rfl; rfl)

theorem State.retireChannel_quiet (h : s0.Quiet s) (h : Nat) (cause : Nat)  : s0.Quiet (State.retireChannel s h cause) := by
  unfold State.retireChannel
  repeat' first
    | (with_reducible first | assumption | apply State.retireAsked_quiet | apply State.modHealth1_quiet
                            | apply State.markRetired_quiet | apply State.modPort_quiet | apply State.retireLeg_quiet
                            | apply State.iff_quiet | apply State.laneOut_quiet | apply State.forAll_quiet)
    | (with_reducible apply qsnd_keeps; with_reducible assumption)
    | (extract_lets -underBinder +onlyGivenNames x; first | (refine qmp_keeps (s0 := s0) x ?_ ?_; unfold x; clear x; rotate_left; intro hx; clear_value x) | clear_value x)
    | split
    | intro _
    | (with_reducible apply State.Quiet.of_same; with_reducible assumption; rfl; rfl; rfl; rfl; rfl; rfl; rfl; rfl; rfl; rfl; rfl; rfl; rfl; rfl)

theorem State.raise_quiet (h : s0.Quiet s) (src : Nat) (idx : Nat) (w1 : Nat) (forced : Bool)  : s0.Quiet (State.raise s src idx w1 forced) := by
  unfold State.raise
  repeat' first
    | (with_reducible first | assumption | apply State.raise0_quiet | apply State.retireChannel_quiet)
    | (with_reducible apply qsnd_keeps; with_reducible assumption)
    | (extract_lets -underBinder +onlyGivenNames x; first | (refine qmp_keeps (s0 := s0) x ?_ ?_; unfold x; clear x; rotate_left; intro hx; clear_value x) | clear_value x)
    | split
    | intro _
    | (with_reducible apply State.Quiet.of_same; with_reducible assumption; rfl; rfl; rfl; rfl; rfl; rfl; rfl; rfl; rfl; rfl; rfl; rfl; rfl; rfl)

theorem State.healthCount_quiet (h : s0.Quiet s) (h : Nat)  : s0.Quiet (State.healthCount s h) := by
  unfold State.healthCount
  repeat' first
    | (with_reducible first | assumption | apply State.modHealth1_quiet | apply State.retireChannel_quiet)
    | (with_reducible apply qsnd_keeps; with_reducible assumption)
    | (extract_lets -underBinder +onlyGivenNames x; first | (refine qmp_keeps (s0 := s0) x ?_ ?_; unfold x; clear x; rotate_left; intro hx; clear_value x) | clear_value x)
    | split
    | intro _
    | (with_reducible apply State.Quiet.of_same; with_reducible assumption; rfl; rfl; rfl; rfl; rfl; rfl; rfl; rfl; rfl; rfl; rfl; rfl; rfl; rfl)

theorem State.healthPerm_quiet (h : s0.Quiet s) (h : Nat)  : s0.Quiet (State.healthPerm s h) := by
  unfold State.healthPerm
  repeat' first
    | (with_reducible first | assumption | apply State.modHealth1_quiet | apply State.retireChannel_quiet)
    | (with_reducible apply qsnd_keeps; with_reducible assumption)
    | (extract_lets -underBinder +onlyGivenNames x; first | (refine qmp_keeps (s0 := s0) x ?_ ?_; unfold x; clear x; rotate_left; intro hx; clear_value x) | clear_value x)
    | split
    | intro _
    | (with_reducible apply State.Quiet.of_same; with_reducible assumption; rfl; rfl; rfl; rfl; rfl; rfl; rfl; rfl; rfl; rfl; rfl; rfl; rfl; rfl)


/-! ### What the end of a step leaves alone -/

theorem State.Calm.refl (s : State) : s.Calm s := ⟨State.Quiet.refl s, rfl, rfl, rfl, rfl, rfl, rfl, rfl, rfl, fun _ _ _ => rfl⟩

theorem State.Calm.trans {a b c : State} (h : a.Calm b) (k : b.Calm c) : a.Calm c :=
  ⟨h.toQuiet.trans k.toQuiet, k.mode.trans h.mode, k.ports.trans h.ports, k.health.trans h.health, k.gce.trans h.gce, k.leg.trans h.leg,
    k.adc.trans h.adc, k.cap.trans h.cap, k.pair.trans h.pair, fun o x y => (k.words o x y).trans (h.words o x y)⟩

theorem State.Calm.of_same {t : State} (h : s0.Calm s) (e1 : t.clk = s.clk) (e2 : t.sec = s.sec) (e3 : t.tim = s.tim)
    (e4 : t.bell = s.bell) (e5 : t.fad = s.fad) (e6 : t.mill = s.mill) (e7 : t.pmu = s.pmu) (e8 : t.thm = s.thm) (e9 : t.saf = s.saf)
    (e10 : t.pending = s.pending) (e11 : t.rdata = s.rdata) (e13 : t.hiLatch = s.hiLatch)
    (e14 : t.regs = s.regs) (e15 : t.host.link = s.host.link) (f1 : t.mode = s.mode) (f2 : t.ports = s.ports) (f3 : t.health = s.health) (f4 : t.gce = s.gce)
    (f5 : t.leg = s.leg) (f6 : t.adc = s.adc) (f7 : t.cap = s.cap) (f8 : t.pair = s.pair) : s0.Calm t :=
  ⟨h.toQuiet.of_same e1 e2 e3 e4 e5 e6 e7 e8 e9 e10 e11 e13 e14 e15, f1.trans h.mode, f2.trans h.ports, f3.trans h.health, f4.trans h.gce,
    f5.trans h.leg, f6.trans h.adc, f7.trans h.cap, f8.trans h.pair,
    fun o x y => by rw [e14]; exact h.words o x y⟩

theorem cmp_keeps {G : Prop} (x : State) (h : s0.Calm x) (k : s0.Calm x → G) : G := k h
theorem csnd_keeps {α : Type} {p : α × State} {a : α} {x : State} (e : p = (a, x)) (h : s0.Calm p.2) : s0.Calm x := by subst e; exact h
theorem cfoldl_keeps {β : Type} (l : List β) {f : State → β → State} (h : s0.Calm s) (k : ∀ x e, s0.Calm x → s0.Calm (f x e)) :
    s0.Calm (l.foldl f s) := by
  induction l generalizing s with
  | nil => exact h
  | cons a r ih => exact ih (k _ _ h)
theorem State.iff_calm (h : s0.Calm s) (c : Bool) (f : State → State) (hf : ∀ x, s0.Calm x → s0.Calm (f x)) : s0.Calm (s.iff c f) := by
  unfold State.iff
  split
  · exact hf _ h
  · exact h
theorem State.modHostIf_calm (h : s0.Calm s) (f) (k : ∀ x : HostIf, (f x).link = x.link) : s0.Calm (s.modHostIf f) := State.Calm.of_same h rfl rfl rfl rfl rfl rfl rfl rfl rfl rfl rfl rfl rfl (k _) rfl rfl rfl rfl rfl rfl rfl rfl
theorem State.modWch_calm (h : s0.Calm s) (f) : s0.Calm (s.modWch f) := State.Calm.of_same h rfl rfl rfl rfl rfl rfl rfl rfl rfl rfl rfl rfl rfl rfl rfl rfl rfl rfl rfl rfl rfl rfl
theorem State.modBook_calm (h : s0.Calm s) (f) : s0.Calm (s.modBook f) := State.Calm.of_same h rfl rfl rfl rfl rfl rfl rfl rfl rfl rfl rfl rfl rfl rfl rfl rfl rfl rfl rfl rfl rfl rfl
theorem State.modRing_calm (h : s0.Calm s) (k f) : s0.Calm (s.modRing k f) := State.Calm.of_same h rfl rfl rfl rfl rfl rfl rfl rfl rfl rfl rfl rfl rfl rfl rfl rfl rfl rfl rfl rfl rfl rfl
theorem State.hostWrite_calm (h : s0.Calm s) (a b) : s0.Calm (s.hostWrite a b) := State.Calm.of_same h rfl rfl rfl rfl rfl rfl rfl rfl rfl rfl rfl rfl rfl rfl rfl rfl rfl rfl rfl rfl rfl rfl
theorem State.issue_calm (h : s0.Calm s) (w l a n) : s0.Calm (s.issue w l a n) := State.Calm.of_same h rfl rfl rfl rfl rfl rfl rfl rfl rfl rfl rfl rfl rfl rfl rfl rfl rfl rfl rfl rfl rfl rfl
theorem State.free_calm (h : s0.Calm s) : s0.Calm s.free.2 := State.Calm.of_same h rfl rfl rfl rfl rfl rfl rfl rfl rfl rfl rfl rfl rfl rfl rfl rfl rfl rfl rfl rfl rfl rfl
theorem cfg_watch (n : Nat) (h : n < 608) : watchOff (Reg.wchCfg.addr n) = true := by
  unfold watchOff
  rw [Bool.or_eq_true]
  right
  simp [Reg.addr, Reg.row]
  omega
theorem watch_raise {off : Nat} (h : watchOff off = true) : raiseOff off = true := by unfold raiseOff; rw [h, Bool.or_true]
theorem State.setRf_calm (h : s0.Calm s) (r : Reg) (i hi lo v : Nat) (a : watchOff (r.addr i) = true)
    (b : eventOff (r.addr i) = false) : s0.Calm (s.setRf r i hi lo v) :=
  ⟨State.setRf_quiet h.toQuiet r i hi lo v (watch_raise a) b, h.mode, h.ports, h.health, h.gce, h.leg, h.adc, h.cap, h.pair,
    fun o x y => (tget_tput_ne _ _ _ fun e => by rw [e, a] at y; exact Bool.noConfusion y).trans (h.words o x y)⟩
theorem State.setRb_calm (h : s0.Calm s) (r : Reg) (i n : Nat) (a : watchOff (r.addr i) = true)
    (b : eventOff (r.addr i) = false) : s0.Calm (s.setRb r i n true) := State.setRf_calm h r i n n _ a b
theorem State.setBit_calm (h : s0.Calm s) (r : Reg) (i n : Nat) (a : eventOff (r.addr i) = true) : s0.Calm (s.setRb r i n true) :=
  ⟨State.setBit_quiet h.toQuiet r i n a, h.mode, h.ports, h.health, h.gce, h.leg, h.adc, h.cap, h.pair,
    fun o x y => (tget_tput_ne _ _ _ fun e => by rw [e, a] at x; exact Bool.noConfusion x).trans (h.words o x y)⟩

theorem State.signal_calm (h : s0.Calm s) (v : Nat)  : s0.Calm (State.signal s v) := by
  unfold State.signal
  repeat' first
    | (with_reducible first | assumption)
    | ((with_reducible apply State.modHostIf_calm); rotate_left; intro _; rfl)
    | (with_reducible apply csnd_keeps; with_reducible assumption)
    | (extract_lets -underBinder +onlyGivenNames x; first | (refine cmp_keeps (s0 := s0) x ?_ ?_; unfold x; clear x; rotate_left; intro hx; clear_value x) | clear_value x)
    | split
    | intro _
    | (with_reducible apply State.Calm.of_same; with_reducible assumption; rfl; rfl; rfl; rfl; rfl; rfl; rfl; rfl; rfl; rfl; rfl; rfl; rfl; rfl; rfl; rfl; rfl; rfl; rfl; rfl; rfl; rfl)

theorem State.putEntry_calm (h : s0.Calm s) (i : Nat) (b : Bytes)  : s0.Calm (State.putEntry s i b) := by
  unfold State.putEntry
  repeat' first
    | (with_reducible first | assumption | apply State.hostWrite_calm | apply State.modRing_calm)
    | (with_reducible apply csnd_keeps; with_reducible assumption)
    | (extract_lets -underBinder +onlyGivenNames x; first | (refine cmp_keeps (s0 := s0) x ?_ ?_; unfold x; clear x; rotate_left; intro hx; clear_value x) | clear_value x)
    | split
    | intro _
    | (with_reducible apply State.Calm.of_same; with_reducible assumption; rfl; rfl; rfl; rfl; rfl; rfl; rfl; rfl; rfl; rfl; rfl; rfl; rfl; rfl; rfl; rfl; rfl; rfl; rfl; rfl; rfl; rfl)

theorem State.emitRecord_calm (h : s0.Calm s) (role : Nat) (kind : Nat) (b : Bytes)  : s0.Calm (State.emitRecord s role kind b) := by
  unfold State.emitRecord
  repeat' first
    | (with_reducible first | assumption | apply State.modRing_calm | apply State.hostWrite_calm | apply State.putEntry_calm)
    | (with_reducible apply csnd_keeps; with_reducible assumption)
    | (extract_lets -underBinder +onlyGivenNames x; first | (refine cmp_keeps (s0 := s0) x ?_ ?_; unfold x; clear x; rotate_left; intro hx; clear_value x) | clear_value x)
    | split
    | intro _
    | (with_reducible apply State.Calm.of_same; with_reducible assumption; rfl; rfl; rfl; rfl; rfl; rfl; rfl; rfl; rfl; rfl; rfl; rfl; rfl; rfl; rfl; rfl; rfl; rfl; rfl; rfl; rfl; rfl)

theorem State.limit_calm (h : s0.Calm s) (r : RaiseRec)  : s0.Calm ((State.limit s r).2) := by
  unfold State.limit
  repeat' first
    | (with_reducible first | assumption | apply State.modBook_calm | apply hf1 | apply hf2 | apply hf3)
    | (with_reducible apply csnd_keeps; with_reducible assumption)
    | (extract_lets -underBinder +onlyGivenNames x; first | (refine cmp_keeps (s0 := s0) x ?_ ?_; unfold x; clear x; rotate_left; intro hx; clear_value x) | (refine mp1_calm (s0 := s0) x ?_ ?_; unfold x; clear x; rotate_left; intro hf1; clear_value x) | (refine mp2_calm (s0 := s0) x ?_ ?_; unfold x; clear x; rotate_left; intro hf2; clear_value x) | (refine mp3_calm (s0 := s0) x ?_ ?_; unfold x; clear x; rotate_left; intro hf3; clear_value x) | clear_value x)
    | split
    | intro _
    | (with_reducible apply State.Calm.of_same; with_reducible assumption; rfl; rfl; rfl; rfl; rfl; rfl; rfl; rfl; rfl; rfl; rfl; rfl; rfl; rfl; rfl; rfl; rfl; rfl; rfl; rfl; rfl; rfl)

theorem State.record_calm (h : s0.Calm s) (r : RaiseRec)  : s0.Calm (State.record s r) := by
  unfold State.record
  repeat' first
    | (with_reducible first | assumption | apply State.modWch_calm)
    | (with_reducible apply csnd_keeps; with_reducible assumption)
    | (extract_lets -underBinder +onlyGivenNames x; first | (refine cmp_keeps (s0 := s0) x ?_ ?_; unfold x; clear x; rotate_left; intro hx; clear_value x) | clear_value x)
    | split
    | intro _
    | (with_reducible apply State.Calm.of_same; with_reducible assumption; rfl; rfl; rfl; rfl; rfl; rfl; rfl; rfl; rfl; rfl; rfl; rfl; rfl; rfl; rfl; rfl; rfl; rfl; rfl; rfl; rfl; rfl)

theorem State.recordSeq_calm (h : s0.Calm s)   : s0.Calm ((State.recordSeq s).2) := by
  unfold State.recordSeq
  repeat' first
    | (with_reducible first | assumption | apply State.modBook_calm | apply State.free_calm)
    | (with_reducible apply csnd_keeps; with_reducible assumption)
    | (extract_lets -underBinder +onlyGivenNames x; first | (refine cmp_keeps (s0 := s0) x ?_ ?_; unfold x; clear x; rotate_left; intro hx; clear_value x) | clear_value x)
    | split
    | intro _
    | (with_reducible apply State.Calm.of_same; with_reducible assumption; rfl; rfl; rfl; rfl; rfl; rfl; rfl; rfl; rfl; rfl; rfl; rfl; rfl; rfl; rfl; rfl; rfl; rfl; rfl; rfl; rfl; rfl)

theorem State.errPulse_calm (h : s0.Calm s)   : s0.Calm (State.errPulse s) := by
  unfold State.errPulse
  repeat' first
    | (with_reducible first | assumption | apply State.modWch_calm)
    | (with_reducible apply csnd_keeps; with_reducible assumption)
    | (extract_lets -underBinder +onlyGivenNames x; first | (refine cmp_keeps (s0 := s0) x ?_ ?_; unfold x; clear x; rotate_left; intro hx; clear_value x) | clear_value x)
    | split
    | intro _
    | (with_reducible apply State.Calm.of_same; with_reducible assumption; rfl; rfl; rfl; rfl; rfl; rfl; rfl; rfl; rfl; rfl; rfl; rfl; rfl; rfl; rfl; rfl; rfl; rfl; rfl; rfl; rfl; rfl)

theorem State.freshRaise_calm (h : s0.Calm s) (src : Nat)  : s0.Calm (State.freshRaise s src) := by
  unfold State.freshRaise
  repeat' first
    | (with_reducible first | assumption | apply State.modWch_calm)
    | (with_reducible apply csnd_keeps; with_reducible assumption)
    | (extract_lets -underBinder +onlyGivenNames x; first | (refine cmp_keeps (s0 := s0) x ?_ ?_; unfold x; clear x; rotate_left; intro hx; clear_value x) | clear_value x)
    | split
    | intro _
    | (with_reducible apply State.Calm.of_same; with_reducible assumption; rfl; rfl; rfl; rfl; rfl; rfl; rfl; rfl; rfl; rfl; rfl; rfl; rfl; rfl; rfl; rfl; rfl; rfl; rfl; rfl; rfl; rfl)

theorem State.bump_calm (h : s0.Calm s) (r : Reg) (i hi lo k : Nat) (a : watchOff (r.addr i) = true) (b : eventOff (r.addr i) = false) :
    s0.Calm (s.bump r i hi lo k) := State.setRf_calm h r i hi lo _ a b

theorem State.setEvent_calm (h : s0.Calm s) (r : Reg) (b : Nat) (a : eventOff (r.addr 0) = true) : s0.Calm (s.setEvent r b) :=
  State.setBit_calm h r 0 b a

theorem State.countRaise_calm (h : s0.Calm s) (src : Nat) (forced : Bool) (lt : src < 608) : s0.Calm (s.countRaise src forced) := by
  unfold State.countRaise
  refine State.bump_calm (State.iff_calm h _ _ fun x hx => ?_) _ _ _ _ _ (cfg_watch src lt) (cfg_off src lt).2
  split
  · next r b e => exact State.setEvent_calm hx r b (unitEvent_off src r b e)
  · exact hx

theorem State.latchRaise_calm (h : s0.Calm s) (src : Nat) (lt : src < 608) : s0.Calm (s.latchRaise src) := by
  unfold State.latchRaise
  have h1 := State.setBit_calm h .wchLatch (src / 32) (src % 32) (latch_off src lt)
  generalize s.setRb .wchLatch (src / 32) (src % 32) true = x at h1
  exact State.setRf_calm (State.modWch_calm h1 _) .wchStatus _ _ _ _ (by decide) (by decide)

theorem State.recordRaise_calm (h : s0.Calm s) (src : Nat) (sev : Nat) (idx : Nat) (w1 : Nat) (forced : Bool)  : s0.Calm (State.recordRaise s src sev idx w1 forced) := by
  unfold State.recordRaise
  repeat' first
    | (with_reducible first | assumption | apply State.record_calm)
    | (with_reducible apply csnd_keeps; with_reducible assumption)
    | (extract_lets -underBinder +onlyGivenNames x; first | (refine cmp_keeps (s0 := s0) x ?_ ?_; unfold x; clear x; rotate_left; intro hx; clear_value x) | clear_value x)
    | split
    | intro _
    | (with_reducible apply State.Calm.of_same; with_reducible assumption; rfl; rfl; rfl; rfl; rfl; rfl; rfl; rfl; rfl; rfl; rfl; rfl; rfl; rfl; rfl; rfl; rfl; rfl; rfl; rfl; rfl; rfl)

theorem State.alarmRaise_calm (h : s0.Calm s) (src : Nat) (sev : Nat)  : s0.Calm (State.alarmRaise s src sev) := by
  unfold State.alarmRaise
  repeat' first
    | (with_reducible first | assumption | apply State.iff_calm | apply State.errPulse_calm | apply State.modWch_calm)
    | ((with_reducible apply State.setRb_calm) <;> try decide)
    | (with_reducible first | apply State.signal_calm)
    | (with_reducible apply csnd_keeps; with_reducible assumption)
    | (extract_lets -underBinder +onlyGivenNames x; first | (refine cmp_keeps (s0 := s0) x ?_ ?_; unfold x; clear x; rotate_left; intro hx; clear_value x) | clear_value x)
    | split
    | intro _
    | (with_reducible apply State.Calm.of_same; with_reducible assumption; rfl; rfl; rfl; rfl; rfl; rfl; rfl; rfl; rfl; rfl; rfl; rfl; rfl; rfl; rfl; rfl; rfl; rfl; rfl; rfl; rfl; rfl)

theorem State.raiseCore_calm (h : s0.Calm s) (src : Nat) (idx : Nat) (w1 : Nat) (forced : Bool)  : s0.Calm (State.raiseCore s src idx w1 forced) := by
  unfold State.raiseCore
  split
  · exact h
  · next ok =>
    have lt := sourceOk_lt s.var src (by simpa using ok)
    have hc := State.countRaise_calm (State.freshRaise_calm h src) src forced lt
    dsimp only
    split
    · exact hc
    · exact State.alarmRaise_calm (State.recordRaise_calm (State.latchRaise_calm hc src lt) _ _ _ _ _) _ _

theorem State.watchStop_calm (h : s0.Calm s) (src : Nat) : s0.Calm (State.watchStop s src) := by
  unfold State.watchStop
  dsimp only
  split
  · exact State.modWch_calm h _
  · exact h

theorem State.sendRecord_calm (h : s0.Calm s) (r : RaiseRec)  : s0.Calm (State.sendRecord s r) := by
  unfold State.sendRecord
  repeat' first
    | (with_reducible first | assumption | apply State.limit_calm | apply State.recordSeq_calm | apply State.emitRecord_calm
                            | apply State.modBook_calm | apply State.raiseCore_calm | apply State.watchStop_calm)
    | (with_reducible apply csnd_keeps; with_reducible assumption)
    | (extract_lets -underBinder +onlyGivenNames x; first | (refine cmp_keeps (s0 := s0) x ?_ ?_; unfold x; clear x; rotate_left; intro hx; clear_value x) | clear_value x)
    | split
    | intro _
    | (with_reducible apply State.Calm.of_same; with_reducible assumption; rfl; rfl; rfl; rfl; rfl; rfl; rfl; rfl; rfl; rfl; rfl; rfl; rfl; rfl; rfl; rfl; rfl; rfl; rfl; rfl; rfl; rfl)

theorem State.sendBatch_calm (h : s0.Calm s)   : s0.Calm (State.sendBatch s) := by
  unfold State.sendBatch
  repeat' first
    | (with_reducible first | assumption | apply State.sendRecord_calm | apply State.modWch_calm | apply cfoldl_keeps
                            | apply foldl_snd_calm | apply foldl_fst_calm)
    | (with_reducible apply csnd_keeps; with_reducible assumption)
    | (extract_lets -underBinder +onlyGivenNames x; first | (refine cmp_keeps (s0 := s0) x ?_ ?_; unfold x; clear x; rotate_left; intro hx; clear_value x) | clear_value x)
    | split
    | intro _
    | (with_reducible apply State.Calm.of_same; with_reducible assumption; rfl; rfl; rfl; rfl; rfl; rfl; rfl; rfl; rfl; rfl; rfl; rfl; rfl; rfl; rfl; rfl; rfl; rfl; rfl; rfl; rfl; rfl)

end Sys2Proof.Machine
end

