-- ==== Sys2Proof/Laws/State.lean ====
section
/-! SUPPORT. What each update of one part of the state leaves alone and what it changes: one lemma per update and field. -/

namespace Sys2Proof.Machine

@[simp] theorem State.modClk_sec (s : State) (f : Clk → Clk) : (s.modClk f).sec = s.sec := (rfl)
@[simp] theorem State.modClk_mode (s : State) (f : Clk → Clk) : (s.modClk f).mode = s.mode := (rfl)
@[simp] theorem State.modClk_host (s : State) (f : Clk → Clk) : (s.modClk f).host = s.host := (rfl)
@[simp] theorem State.modClk_tim (s : State) (f : Clk → Clk) : (s.modClk f).tim = s.tim := (rfl)
@[simp] theorem State.modClk_bell (s : State) (f : Clk → Clk) : (s.modClk f).bell = s.bell := (rfl)
@[simp] theorem State.modClk_ports (s : State) (f : Clk → Clk) : (s.modClk f).ports = s.ports := (rfl)
@[simp] theorem State.modClk_health (s : State) (f : Clk → Clk) : (s.modClk f).health = s.health := (rfl)
@[simp] theorem State.modClk_gce (s : State) (f : Clk → Clk) : (s.modClk f).gce = s.gce := (rfl)
@[simp] theorem State.modClk_leg (s : State) (f : Clk → Clk) : (s.modClk f).leg = s.leg := (rfl)
@[simp] theorem State.modClk_adc (s : State) (f : Clk → Clk) : (s.modClk f).adc = s.adc := (rfl)
@[simp] theorem State.modClk_fad (s : State) (f : Clk → Clk) : (s.modClk f).fad = s.fad := (rfl)
@[simp] theorem State.modClk_mill (s : State) (f : Clk → Clk) : (s.modClk f).mill = s.mill := (rfl)
@[simp] theorem State.modClk_pair (s : State) (f : Clk → Clk) : (s.modClk f).pair = s.pair := (rfl)
@[simp] theorem State.modClk_cap (s : State) (f : Clk → Clk) : (s.modClk f).cap = s.cap := (rfl)
@[simp] theorem State.modClk_pmu (s : State) (f : Clk → Clk) : (s.modClk f).pmu = s.pmu := (rfl)
@[simp] theorem State.modClk_saf (s : State) (f : Clk → Clk) : (s.modClk f).saf = s.saf := (rfl)
@[simp] theorem State.modClk_wch (s : State) (f : Clk → Clk) : (s.modClk f).wch = s.wch := (rfl)
@[simp] theorem State.modClk_book (s : State) (f : Clk → Clk) : (s.modClk f).book = s.book := (rfl)
@[simp] theorem State.modClk_thm (s : State) (f : Clk → Clk) : (s.modClk f).thm = s.thm := (rfl)
@[simp] theorem State.modClk_regs (s : State) (f : Clk → Clk) : (s.modClk f).regs = s.regs := (rfl)
@[simp] theorem State.modClk_hiLatch (s : State) (f : Clk → Clk) : (s.modClk f).hiLatch = s.hiLatch := (rfl)
@[simp] theorem State.modClk_rdata (s : State) (f : Clk → Clk) : (s.modClk f).rdata = s.rdata := (rfl)
@[simp] theorem State.modClk_hostMem (s : State) (f : Clk → Clk) : (s.modClk f).hostMem = s.hostMem := (rfl)
@[simp] theorem State.modClk_reqs (s : State) (f : Clk → Clk) : (s.modClk f).reqs = s.reqs := (rfl)
@[simp] theorem State.modClk_freeCtr (s : State) (f : Clk → Clk) : (s.modClk f).freeCtr = s.freeCtr := (rfl)
@[simp] theorem State.modClk_pending (s : State) (f : Clk → Clk) : (s.modClk f).pending = s.pending := (rfl)
@[simp] theorem State.modClk_clk (s : State) (f : Clk → Clk) : (s.modClk f).clk = f s.clk := (rfl)
@[simp] theorem State.modSec_clk (s : State) (f : Sec → Sec) : (s.modSec f).clk = s.clk := (rfl)
@[simp] theorem State.modSec_mode (s : State) (f : Sec → Sec) : (s.modSec f).mode = s.mode := (rfl)
@[simp] theorem State.modSec_host (s : State) (f : Sec → Sec) : (s.modSec f).host = s.host := (rfl)
@[simp] theorem State.modSec_tim (s : State) (f : Sec → Sec) : (s.modSec f).tim = s.tim := (rfl)
@[simp] theorem State.modSec_bell (s : State) (f : Sec → Sec) : (s.modSec f).bell = s.bell := (rfl)
@[simp] theorem State.modSec_ports (s : State) (f : Sec → Sec) : (s.modSec f).ports = s.ports := (rfl)
@[simp] theorem State.modSec_health (s : State) (f : Sec → Sec) : (s.modSec f).health = s.health := (rfl)
@[simp] theorem State.modSec_gce (s : State) (f : Sec → Sec) : (s.modSec f).gce = s.gce := (rfl)
@[simp] theorem State.modSec_leg (s : State) (f : Sec → Sec) : (s.modSec f).leg = s.leg := (rfl)
@[simp] theorem State.modSec_adc (s : State) (f : Sec → Sec) : (s.modSec f).adc = s.adc := (rfl)
@[simp] theorem State.modSec_fad (s : State) (f : Sec → Sec) : (s.modSec f).fad = s.fad := (rfl)
@[simp] theorem State.modSec_mill (s : State) (f : Sec → Sec) : (s.modSec f).mill = s.mill := (rfl)
@[simp] theorem State.modSec_pair (s : State) (f : Sec → Sec) : (s.modSec f).pair = s.pair := (rfl)
@[simp] theorem State.modSec_cap (s : State) (f : Sec → Sec) : (s.modSec f).cap = s.cap := (rfl)
@[simp] theorem State.modSec_pmu (s : State) (f : Sec → Sec) : (s.modSec f).pmu = s.pmu := (rfl)
@[simp] theorem State.modSec_saf (s : State) (f : Sec → Sec) : (s.modSec f).saf = s.saf := (rfl)
@[simp] theorem State.modSec_wch (s : State) (f : Sec → Sec) : (s.modSec f).wch = s.wch := (rfl)
@[simp] theorem State.modSec_book (s : State) (f : Sec → Sec) : (s.modSec f).book = s.book := (rfl)
@[simp] theorem State.modSec_thm (s : State) (f : Sec → Sec) : (s.modSec f).thm = s.thm := (rfl)
@[simp] theorem State.modSec_regs (s : State) (f : Sec → Sec) : (s.modSec f).regs = s.regs := (rfl)
@[simp] theorem State.modSec_hiLatch (s : State) (f : Sec → Sec) : (s.modSec f).hiLatch = s.hiLatch := (rfl)
@[simp] theorem State.modSec_rdata (s : State) (f : Sec → Sec) : (s.modSec f).rdata = s.rdata := (rfl)
@[simp] theorem State.modSec_hostMem (s : State) (f : Sec → Sec) : (s.modSec f).hostMem = s.hostMem := (rfl)
@[simp] theorem State.modSec_reqs (s : State) (f : Sec → Sec) : (s.modSec f).reqs = s.reqs := (rfl)
@[simp] theorem State.modSec_freeCtr (s : State) (f : Sec → Sec) : (s.modSec f).freeCtr = s.freeCtr := (rfl)
@[simp] theorem State.modSec_pending (s : State) (f : Sec → Sec) : (s.modSec f).pending = s.pending := (rfl)
@[simp] theorem State.modSec_sec (s : State) (f : Sec → Sec) : (s.modSec f).sec = f s.sec := (rfl)
@[simp] theorem State.modMode_clk (s : State) (f : Mode → Mode) : (s.modMode f).clk = s.clk := (rfl)
@[simp] theorem State.modMode_sec (s : State) (f : Mode → Mode) : (s.modMode f).sec = s.sec := (rfl)
@[simp] theorem State.modMode_host (s : State) (f : Mode → Mode) : (s.modMode f).host = s.host := (rfl)
@[simp] theorem State.modMode_tim (s : State) (f : Mode → Mode) : (s.modMode f).tim = s.tim := (rfl)
@[simp] theorem State.modMode_bell (s : State) (f : Mode → Mode) : (s.modMode f).bell = s.bell := (rfl)
@[simp] theorem State.modMode_ports (s : State) (f : Mode → Mode) : (s.modMode f).ports = s.ports := (rfl)
@[simp] theorem State.modMode_health (s : State) (f : Mode → Mode) : (s.modMode f).health = s.health := (rfl)
@[simp] theorem State.modMode_gce (s : State) (f : Mode → Mode) : (s.modMode f).gce = s.gce := (rfl)
@[simp] theorem State.modMode_leg (s : State) (f : Mode → Mode) : (s.modMode f).leg = s.leg := (rfl)
@[simp] theorem State.modMode_adc (s : State) (f : Mode → Mode) : (s.modMode f).adc = s.adc := (rfl)
@[simp] theorem State.modMode_fad (s : State) (f : Mode → Mode) : (s.modMode f).fad = s.fad := (rfl)
@[simp] theorem State.modMode_mill (s : State) (f : Mode → Mode) : (s.modMode f).mill = s.mill := (rfl)
@[simp] theorem State.modMode_pair (s : State) (f : Mode → Mode) : (s.modMode f).pair = s.pair := (rfl)
@[simp] theorem State.modMode_cap (s : State) (f : Mode → Mode) : (s.modMode f).cap = s.cap := (rfl)
@[simp] theorem State.modMode_pmu (s : State) (f : Mode → Mode) : (s.modMode f).pmu = s.pmu := (rfl)
@[simp] theorem State.modMode_saf (s : State) (f : Mode → Mode) : (s.modMode f).saf = s.saf := (rfl)
@[simp] theorem State.modMode_wch (s : State) (f : Mode → Mode) : (s.modMode f).wch = s.wch := (rfl)
@[simp] theorem State.modMode_book (s : State) (f : Mode → Mode) : (s.modMode f).book = s.book := (rfl)
@[simp] theorem State.modMode_thm (s : State) (f : Mode → Mode) : (s.modMode f).thm = s.thm := (rfl)
@[simp] theorem State.modMode_regs (s : State) (f : Mode → Mode) : (s.modMode f).regs = s.regs := (rfl)
@[simp] theorem State.modMode_hiLatch (s : State) (f : Mode → Mode) : (s.modMode f).hiLatch = s.hiLatch := (rfl)
@[simp] theorem State.modMode_rdata (s : State) (f : Mode → Mode) : (s.modMode f).rdata = s.rdata := (rfl)
@[simp] theorem State.modMode_hostMem (s : State) (f : Mode → Mode) : (s.modMode f).hostMem = s.hostMem := (rfl)
@[simp] theorem State.modMode_reqs (s : State) (f : Mode → Mode) : (s.modMode f).reqs = s.reqs := (rfl)
@[simp] theorem State.modMode_freeCtr (s : State) (f : Mode → Mode) : (s.modMode f).freeCtr = s.freeCtr := (rfl)
@[simp] theorem State.modMode_pending (s : State) (f : Mode → Mode) : (s.modMode f).pending = s.pending := (rfl)
@[simp] theorem State.modMode_mode (s : State) (f : Mode → Mode) : (s.modMode f).mode = f s.mode := (rfl)
@[simp] theorem State.modHostIf_clk (s : State) (f : HostIf → HostIf) : (s.modHostIf f).clk = s.clk := (rfl)
@[simp] theorem State.modHostIf_sec (s : State) (f : HostIf → HostIf) : (s.modHostIf f).sec = s.sec := (rfl)
@[simp] theorem State.modHostIf_mode (s : State) (f : HostIf → HostIf) : (s.modHostIf f).mode = s.mode := (rfl)
@[simp] theorem State.modHostIf_tim (s : State) (f : HostIf → HostIf) : (s.modHostIf f).tim = s.tim := (rfl)
@[simp] theorem State.modHostIf_bell (s : State) (f : HostIf → HostIf) : (s.modHostIf f).bell = s.bell := (rfl)
@[simp] theorem State.modHostIf_ports (s : State) (f : HostIf → HostIf) : (s.modHostIf f).ports = s.ports := (rfl)
@[simp] theorem State.modHostIf_health (s : State) (f : HostIf → HostIf) : (s.modHostIf f).health = s.health := (rfl)
@[simp] theorem State.modHostIf_gce (s : State) (f : HostIf → HostIf) : (s.modHostIf f).gce = s.gce := (rfl)
@[simp] theorem State.modHostIf_leg (s : State) (f : HostIf → HostIf) : (s.modHostIf f).leg = s.leg := (rfl)
@[simp] theorem State.modHostIf_adc (s : State) (f : HostIf → HostIf) : (s.modHostIf f).adc = s.adc := (rfl)
@[simp] theorem State.modHostIf_fad (s : State) (f : HostIf → HostIf) : (s.modHostIf f).fad = s.fad := (rfl)
@[simp] theorem State.modHostIf_mill (s : State) (f : HostIf → HostIf) : (s.modHostIf f).mill = s.mill := (rfl)
@[simp] theorem State.modHostIf_pair (s : State) (f : HostIf → HostIf) : (s.modHostIf f).pair = s.pair := (rfl)
@[simp] theorem State.modHostIf_cap (s : State) (f : HostIf → HostIf) : (s.modHostIf f).cap = s.cap := (rfl)
@[simp] theorem State.modHostIf_pmu (s : State) (f : HostIf → HostIf) : (s.modHostIf f).pmu = s.pmu := (rfl)
@[simp] theorem State.modHostIf_saf (s : State) (f : HostIf → HostIf) : (s.modHostIf f).saf = s.saf := (rfl)
@[simp] theorem State.modHostIf_wch (s : State) (f : HostIf → HostIf) : (s.modHostIf f).wch = s.wch := (rfl)
@[simp] theorem State.modHostIf_book (s : State) (f : HostIf → HostIf) : (s.modHostIf f).book = s.book := (rfl)
@[simp] theorem State.modHostIf_thm (s : State) (f : HostIf → HostIf) : (s.modHostIf f).thm = s.thm := (rfl)
@[simp] theorem State.modHostIf_regs (s : State) (f : HostIf → HostIf) : (s.modHostIf f).regs = s.regs := (rfl)
@[simp] theorem State.modHostIf_hiLatch (s : State) (f : HostIf → HostIf) : (s.modHostIf f).hiLatch = s.hiLatch := (rfl)
@[simp] theorem State.modHostIf_rdata (s : State) (f : HostIf → HostIf) : (s.modHostIf f).rdata = s.rdata := (rfl)
@[simp] theorem State.modHostIf_hostMem (s : State) (f : HostIf → HostIf) : (s.modHostIf f).hostMem = s.hostMem := (rfl)
@[simp] theorem State.modHostIf_reqs (s : State) (f : HostIf → HostIf) : (s.modHostIf f).reqs = s.reqs := (rfl)
@[simp] theorem State.modHostIf_freeCtr (s : State) (f : HostIf → HostIf) : (s.modHostIf f).freeCtr = s.freeCtr := (rfl)
@[simp] theorem State.modHostIf_pending (s : State) (f : HostIf → HostIf) : (s.modHostIf f).pending = s.pending := (rfl)
@[simp] theorem State.modHostIf_host (s : State) (f : HostIf → HostIf) : (s.modHostIf f).host = f s.host := (rfl)
@[simp] theorem State.modTim_clk (s : State) (f : Tim → Tim) : (s.modTim f).clk = s.clk := (rfl)
@[simp] theorem State.modTim_sec (s : State) (f : Tim → Tim) : (s.modTim f).sec = s.sec := (rfl)
@[simp] theorem State.modTim_mode (s : State) (f : Tim → Tim) : (s.modTim f).mode = s.mode := (rfl)
@[simp] theorem State.modTim_host (s : State) (f : Tim → Tim) : (s.modTim f).host = s.host := (rfl)
@[simp] theorem State.modTim_bell (s : State) (f : Tim → Tim) : (s.modTim f).bell = s.bell := (rfl)
@[simp] theorem State.modTim_ports (s : State) (f : Tim → Tim) : (s.modTim f).ports = s.ports := (rfl)
@[simp] theorem State.modTim_health (s : State) (f : Tim → Tim) : (s.modTim f).health = s.health := (rfl)
@[simp] theorem State.modTim_gce (s : State) (f : Tim → Tim) : (s.modTim f).gce = s.gce := (rfl)
@[simp] theorem State.modTim_leg (s : State) (f : Tim → Tim) : (s.modTim f).leg = s.leg := (rfl)
@[simp] theorem State.modTim_adc (s : State) (f : Tim → Tim) : (s.modTim f).adc = s.adc := (rfl)
@[simp] theorem State.modTim_fad (s : State) (f : Tim → Tim) : (s.modTim f).fad = s.fad := (rfl)
@[simp] theorem State.modTim_mill (s : State) (f : Tim → Tim) : (s.modTim f).mill = s.mill := (rfl)
@[simp] theorem State.modTim_pair (s : State) (f : Tim → Tim) : (s.modTim f).pair = s.pair := (rfl)
@[simp] theorem State.modTim_cap (s : State) (f : Tim → Tim) : (s.modTim f).cap = s.cap := (rfl)
@[simp] theorem State.modTim_pmu (s : State) (f : Tim → Tim) : (s.modTim f).pmu = s.pmu := (rfl)
@[simp] theorem State.modTim_saf (s : State) (f : Tim → Tim) : (s.modTim f).saf = s.saf := (rfl)
@[simp] theorem State.modTim_wch (s : State) (f : Tim → Tim) : (s.modTim f).wch = s.wch := (rfl)
@[simp] theorem State.modTim_book (s : State) (f : Tim → Tim) : (s.modTim f).book = s.book := (rfl)
@[simp] theorem State.modTim_thm (s : State) (f : Tim → Tim) : (s.modTim f).thm = s.thm := (rfl)
@[simp] theorem State.modTim_regs (s : State) (f : Tim → Tim) : (s.modTim f).regs = s.regs := (rfl)
@[simp] theorem State.modTim_hiLatch (s : State) (f : Tim → Tim) : (s.modTim f).hiLatch = s.hiLatch := (rfl)
@[simp] theorem State.modTim_rdata (s : State) (f : Tim → Tim) : (s.modTim f).rdata = s.rdata := (rfl)
@[simp] theorem State.modTim_hostMem (s : State) (f : Tim → Tim) : (s.modTim f).hostMem = s.hostMem := (rfl)
@[simp] theorem State.modTim_reqs (s : State) (f : Tim → Tim) : (s.modTim f).reqs = s.reqs := (rfl)
@[simp] theorem State.modTim_freeCtr (s : State) (f : Tim → Tim) : (s.modTim f).freeCtr = s.freeCtr := (rfl)
@[simp] theorem State.modTim_pending (s : State) (f : Tim → Tim) : (s.modTim f).pending = s.pending := (rfl)
@[simp] theorem State.modTim_tim (s : State) (f : Tim → Tim) : (s.modTim f).tim = f s.tim := (rfl)
@[simp] theorem State.modBell_clk (s : State) (f : Bell → Bell) : (s.modBell f).clk = s.clk := (rfl)
@[simp] theorem State.modBell_sec (s : State) (f : Bell → Bell) : (s.modBell f).sec = s.sec := (rfl)
@[simp] theorem State.modBell_mode (s : State) (f : Bell → Bell) : (s.modBell f).mode = s.mode := (rfl)
@[simp] theorem State.modBell_host (s : State) (f : Bell → Bell) : (s.modBell f).host = s.host := (rfl)
@[simp] theorem State.modBell_tim (s : State) (f : Bell → Bell) : (s.modBell f).tim = s.tim := (rfl)
@[simp] theorem State.modBell_ports (s : State) (f : Bell → Bell) : (s.modBell f).ports = s.ports := (rfl)
@[simp] theorem State.modBell_health (s : State) (f : Bell → Bell) : (s.modBell f).health = s.health := (rfl)
@[simp] theorem State.modBell_gce (s : State) (f : Bell → Bell) : (s.modBell f).gce = s.gce := (rfl)
@[simp] theorem State.modBell_leg (s : State) (f : Bell → Bell) : (s.modBell f).leg = s.leg := (rfl)
@[simp] theorem State.modBell_adc (s : State) (f : Bell → Bell) : (s.modBell f).adc = s.adc := (rfl)
@[simp] theorem State.modBell_fad (s : State) (f : Bell → Bell) : (s.modBell f).fad = s.fad := (rfl)
@[simp] theorem State.modBell_mill (s : State) (f : Bell → Bell) : (s.modBell f).mill = s.mill := (rfl)
@[simp] theorem State.modBell_pair (s : State) (f : Bell → Bell) : (s.modBell f).pair = s.pair := (rfl)
@[simp] theorem State.modBell_cap (s : State) (f : Bell → Bell) : (s.modBell f).cap = s.cap := (rfl)
@[simp] theorem State.modBell_pmu (s : State) (f : Bell → Bell) : (s.modBell f).pmu = s.pmu := (rfl)
@[simp] theorem State.modBell_saf (s : State) (f : Bell → Bell) : (s.modBell f).saf = s.saf := (rfl)
@[simp] theorem State.modBell_wch (s : State) (f : Bell → Bell) : (s.modBell f).wch = s.wch := (rfl)
@[simp] theorem State.modBell_book (s : State) (f : Bell → Bell) : (s.modBell f).book = s.book := (rfl)
@[simp] theorem State.modBell_thm (s : State) (f : Bell → Bell) : (s.modBell f).thm = s.thm := (rfl)
@[simp] theorem State.modBell_regs (s : State) (f : Bell → Bell) : (s.modBell f).regs = s.regs := (rfl)
@[simp] theorem State.modBell_hiLatch (s : State) (f : Bell → Bell) : (s.modBell f).hiLatch = s.hiLatch := (rfl)
@[simp] theorem State.modBell_rdata (s : State) (f : Bell → Bell) : (s.modBell f).rdata = s.rdata := (rfl)
@[simp] theorem State.modBell_hostMem (s : State) (f : Bell → Bell) : (s.modBell f).hostMem = s.hostMem := (rfl)
@[simp] theorem State.modBell_reqs (s : State) (f : Bell → Bell) : (s.modBell f).reqs = s.reqs := (rfl)
@[simp] theorem State.modBell_freeCtr (s : State) (f : Bell → Bell) : (s.modBell f).freeCtr = s.freeCtr := (rfl)
@[simp] theorem State.modBell_pending (s : State) (f : Bell → Bell) : (s.modBell f).pending = s.pending := (rfl)
@[simp] theorem State.modBell_bell (s : State) (f : Bell → Bell) : (s.modBell f).bell = f s.bell := (rfl)
@[simp] theorem State.modGce_clk (s : State) (f : Gce → Gce) : (s.modGce f).clk = s.clk := (rfl)
@[simp] theorem State.modGce_sec (s : State) (f : Gce → Gce) : (s.modGce f).sec = s.sec := (rfl)
@[simp] theorem State.modGce_mode (s : State) (f : Gce → Gce) : (s.modGce f).mode = s.mode := (rfl)
@[simp] theorem State.modGce_host (s : State) (f : Gce → Gce) : (s.modGce f).host = s.host := (rfl)
@[simp] theorem State.modGce_tim (s : State) (f : Gce → Gce) : (s.modGce f).tim = s.tim := (rfl)
@[simp] theorem State.modGce_bell (s : State) (f : Gce → Gce) : (s.modGce f).bell = s.bell := (rfl)
@[simp] theorem State.modGce_ports (s : State) (f : Gce → Gce) : (s.modGce f).ports = s.ports := (rfl)
@[simp] theorem State.modGce_health (s : State) (f : Gce → Gce) : (s.modGce f).health = s.health := (rfl)
@[simp] theorem State.modGce_leg (s : State) (f : Gce → Gce) : (s.modGce f).leg = s.leg := (rfl)
@[simp] theorem State.modGce_adc (s : State) (f : Gce → Gce) : (s.modGce f).adc = s.adc := (rfl)
@[simp] theorem State.modGce_fad (s : State) (f : Gce → Gce) : (s.modGce f).fad = s.fad := (rfl)
@[simp] theorem State.modGce_mill (s : State) (f : Gce → Gce) : (s.modGce f).mill = s.mill := (rfl)
@[simp] theorem State.modGce_pair (s : State) (f : Gce → Gce) : (s.modGce f).pair = s.pair := (rfl)
@[simp] theorem State.modGce_cap (s : State) (f : Gce → Gce) : (s.modGce f).cap = s.cap := (rfl)
@[simp] theorem State.modGce_pmu (s : State) (f : Gce → Gce) : (s.modGce f).pmu = s.pmu := (rfl)
@[simp] theorem State.modGce_saf (s : State) (f : Gce → Gce) : (s.modGce f).saf = s.saf := (rfl)
@[simp] theorem State.modGce_wch (s : State) (f : Gce → Gce) : (s.modGce f).wch = s.wch := (rfl)
@[simp] theorem State.modGce_book (s : State) (f : Gce → Gce) : (s.modGce f).book = s.book := (rfl)
@[simp] theorem State.modGce_thm (s : State) (f : Gce → Gce) : (s.modGce f).thm = s.thm := (rfl)
@[simp] theorem State.modGce_regs (s : State) (f : Gce → Gce) : (s.modGce f).regs = s.regs := (rfl)
@[simp] theorem State.modGce_hiLatch (s : State) (f : Gce → Gce) : (s.modGce f).hiLatch = s.hiLatch := (rfl)
@[simp] theorem State.modGce_rdata (s : State) (f : Gce → Gce) : (s.modGce f).rdata = s.rdata := (rfl)
@[simp] theorem State.modGce_hostMem (s : State) (f : Gce → Gce) : (s.modGce f).hostMem = s.hostMem := (rfl)
@[simp] theorem State.modGce_reqs (s : State) (f : Gce → Gce) : (s.modGce f).reqs = s.reqs := (rfl)
@[simp] theorem State.modGce_freeCtr (s : State) (f : Gce → Gce) : (s.modGce f).freeCtr = s.freeCtr := (rfl)
@[simp] theorem State.modGce_pending (s : State) (f : Gce → Gce) : (s.modGce f).pending = s.pending := (rfl)
@[simp] theorem State.modGce_gce (s : State) (f : Gce → Gce) : (s.modGce f).gce = f s.gce := (rfl)
@[simp] theorem State.modAdc_clk (s : State) (f : Adc → Adc) : (s.modAdc f).clk = s.clk := (rfl)
@[simp] theorem State.modAdc_sec (s : State) (f : Adc → Adc) : (s.modAdc f).sec = s.sec := (rfl)
@[simp] theorem State.modAdc_mode (s : State) (f : Adc → Adc) : (s.modAdc f).mode = s.mode := (rfl)
@[simp] theorem State.modAdc_host (s : State) (f : Adc → Adc) : (s.modAdc f).host = s.host := (rfl)
@[simp] theorem State.modAdc_tim (s : State) (f : Adc → Adc) : (s.modAdc f).tim = s.tim := (rfl)
@[simp] theorem State.modAdc_bell (s : State) (f : Adc → Adc) : (s.modAdc f).bell = s.bell := (rfl)
@[simp] theorem State.modAdc_ports (s : State) (f : Adc → Adc) : (s.modAdc f).ports = s.ports := (rfl)
@[simp] theorem State.modAdc_health (s : State) (f : Adc → Adc) : (s.modAdc f).health = s.health := (rfl)
@[simp] theorem State.modAdc_gce (s : State) (f : Adc → Adc) : (s.modAdc f).gce = s.gce := (rfl)
@[simp] theorem State.modAdc_leg (s : State) (f : Adc → Adc) : (s.modAdc f).leg = s.leg := (rfl)
@[simp] theorem State.modAdc_fad (s : State) (f : Adc → Adc) : (s.modAdc f).fad = s.fad := (rfl)
@[simp] theorem State.modAdc_mill (s : State) (f : Adc → Adc) : (s.modAdc f).mill = s.mill := (rfl)
@[simp] theorem State.modAdc_pair (s : State) (f : Adc → Adc) : (s.modAdc f).pair = s.pair := (rfl)
@[simp] theorem State.modAdc_cap (s : State) (f : Adc → Adc) : (s.modAdc f).cap = s.cap := (rfl)
@[simp] theorem State.modAdc_pmu (s : State) (f : Adc → Adc) : (s.modAdc f).pmu = s.pmu := (rfl)
@[simp] theorem State.modAdc_saf (s : State) (f : Adc → Adc) : (s.modAdc f).saf = s.saf := (rfl)
@[simp] theorem State.modAdc_wch (s : State) (f : Adc → Adc) : (s.modAdc f).wch = s.wch := (rfl)
@[simp] theorem State.modAdc_book (s : State) (f : Adc → Adc) : (s.modAdc f).book = s.book := (rfl)
@[simp] theorem State.modAdc_thm (s : State) (f : Adc → Adc) : (s.modAdc f).thm = s.thm := (rfl)
@[simp] theorem State.modAdc_regs (s : State) (f : Adc → Adc) : (s.modAdc f).regs = s.regs := (rfl)
@[simp] theorem State.modAdc_hiLatch (s : State) (f : Adc → Adc) : (s.modAdc f).hiLatch = s.hiLatch := (rfl)
@[simp] theorem State.modAdc_rdata (s : State) (f : Adc → Adc) : (s.modAdc f).rdata = s.rdata := (rfl)
@[simp] theorem State.modAdc_hostMem (s : State) (f : Adc → Adc) : (s.modAdc f).hostMem = s.hostMem := (rfl)
@[simp] theorem State.modAdc_reqs (s : State) (f : Adc → Adc) : (s.modAdc f).reqs = s.reqs := (rfl)
@[simp] theorem State.modAdc_freeCtr (s : State) (f : Adc → Adc) : (s.modAdc f).freeCtr = s.freeCtr := (rfl)
@[simp] theorem State.modAdc_pending (s : State) (f : Adc → Adc) : (s.modAdc f).pending = s.pending := (rfl)
@[simp] theorem State.modAdc_adc (s : State) (f : Adc → Adc) : (s.modAdc f).adc = f s.adc := (rfl)
@[simp] theorem State.modFad_clk (s : State) (f : Fad → Fad) : (s.modFad f).clk = s.clk := (rfl)
@[simp] theorem State.modFad_sec (s : State) (f : Fad → Fad) : (s.modFad f).sec = s.sec := (rfl)
@[simp] theorem State.modFad_mode (s : State) (f : Fad → Fad) : (s.modFad f).mode = s.mode := (rfl)
@[simp] theorem State.modFad_host (s : State) (f : Fad → Fad) : (s.modFad f).host = s.host := (rfl)
@[simp] theorem State.modFad_tim (s : State) (f : Fad → Fad) : (s.modFad f).tim = s.tim := (rfl)
@[simp] theorem State.modFad_bell (s : State) (f : Fad → Fad) : (s.modFad f).bell = s.bell := (rfl)
@[simp] theorem State.modFad_ports (s : State) (f : Fad → Fad) : (s.modFad f).ports = s.ports := (rfl)
@[simp] theorem State.modFad_health (s : State) (f : Fad → Fad) : (s.modFad f).health = s.health := (rfl)
@[simp] theorem State.modFad_gce (s : State) (f : Fad → Fad) : (s.modFad f).gce = s.gce := (rfl)
@[simp] theorem State.modFad_leg (s : State) (f : Fad → Fad) : (s.modFad f).leg = s.leg := (rfl)
@[simp] theorem State.modFad_adc (s : State) (f : Fad → Fad) : (s.modFad f).adc = s.adc := (rfl)
@[simp] theorem State.modFad_mill (s : State) (f : Fad → Fad) : (s.modFad f).mill = s.mill := (rfl)
@[simp] theorem State.modFad_pair (s : State) (f : Fad → Fad) : (s.modFad f).pair = s.pair := (rfl)
@[simp] theorem State.modFad_cap (s : State) (f : Fad → Fad) : (s.modFad f).cap = s.cap := (rfl)
@[simp] theorem State.modFad_pmu (s : State) (f : Fad → Fad) : (s.modFad f).pmu = s.pmu := (rfl)
@[simp] theorem State.modFad_saf (s : State) (f : Fad → Fad) : (s.modFad f).saf = s.saf := (rfl)
@[simp] theorem State.modFad_wch (s : State) (f : Fad → Fad) : (s.modFad f).wch = s.wch := (rfl)
@[simp] theorem State.modFad_book (s : State) (f : Fad → Fad) : (s.modFad f).book = s.book := (rfl)
@[simp] theorem State.modFad_thm (s : State) (f : Fad → Fad) : (s.modFad f).thm = s.thm := (rfl)
@[simp] theorem State.modFad_regs (s : State) (f : Fad → Fad) : (s.modFad f).regs = s.regs := (rfl)
@[simp] theorem State.modFad_hiLatch (s : State) (f : Fad → Fad) : (s.modFad f).hiLatch = s.hiLatch := (rfl)
@[simp] theorem State.modFad_rdata (s : State) (f : Fad → Fad) : (s.modFad f).rdata = s.rdata := (rfl)
@[simp] theorem State.modFad_hostMem (s : State) (f : Fad → Fad) : (s.modFad f).hostMem = s.hostMem := (rfl)
@[simp] theorem State.modFad_reqs (s : State) (f : Fad → Fad) : (s.modFad f).reqs = s.reqs := (rfl)
@[simp] theorem State.modFad_freeCtr (s : State) (f : Fad → Fad) : (s.modFad f).freeCtr = s.freeCtr := (rfl)
@[simp] theorem State.modFad_pending (s : State) (f : Fad → Fad) : (s.modFad f).pending = s.pending := (rfl)
@[simp] theorem State.modFad_fad (s : State) (f : Fad → Fad) : (s.modFad f).fad = f s.fad := (rfl)
@[simp] theorem State.modMill_clk (s : State) (f : Mill → Mill) : (s.modMill f).clk = s.clk := (rfl)
@[simp] theorem State.modMill_sec (s : State) (f : Mill → Mill) : (s.modMill f).sec = s.sec := (rfl)
@[simp] theorem State.modMill_mode (s : State) (f : Mill → Mill) : (s.modMill f).mode = s.mode := (rfl)
@[simp] theorem State.modMill_host (s : State) (f : Mill → Mill) : (s.modMill f).host = s.host := (rfl)
@[simp] theorem State.modMill_tim (s : State) (f : Mill → Mill) : (s.modMill f).tim = s.tim := (rfl)
@[simp] theorem State.modMill_bell (s : State) (f : Mill → Mill) : (s.modMill f).bell = s.bell := (rfl)
@[simp] theorem State.modMill_ports (s : State) (f : Mill → Mill) : (s.modMill f).ports = s.ports := (rfl)
@[simp] theorem State.modMill_health (s : State) (f : Mill → Mill) : (s.modMill f).health = s.health := (rfl)
@[simp] theorem State.modMill_gce (s : State) (f : Mill → Mill) : (s.modMill f).gce = s.gce := (rfl)
@[simp] theorem State.modMill_leg (s : State) (f : Mill → Mill) : (s.modMill f).leg = s.leg := (rfl)
@[simp] theorem State.modMill_adc (s : State) (f : Mill → Mill) : (s.modMill f).adc = s.adc := (rfl)
@[simp] theorem State.modMill_fad (s : State) (f : Mill → Mill) : (s.modMill f).fad = s.fad := (rfl)
@[simp] theorem State.modMill_pair (s : State) (f : Mill → Mill) : (s.modMill f).pair = s.pair := (rfl)
@[simp] theorem State.modMill_cap (s : State) (f : Mill → Mill) : (s.modMill f).cap = s.cap := (rfl)
@[simp] theorem State.modMill_pmu (s : State) (f : Mill → Mill) : (s.modMill f).pmu = s.pmu := (rfl)
@[simp] theorem State.modMill_saf (s : State) (f : Mill → Mill) : (s.modMill f).saf = s.saf := (rfl)
@[simp] theorem State.modMill_wch (s : State) (f : Mill → Mill) : (s.modMill f).wch = s.wch := (rfl)
@[simp] theorem State.modMill_book (s : State) (f : Mill → Mill) : (s.modMill f).book = s.book := (rfl)
@[simp] theorem State.modMill_thm (s : State) (f : Mill → Mill) : (s.modMill f).thm = s.thm := (rfl)
@[simp] theorem State.modMill_regs (s : State) (f : Mill → Mill) : (s.modMill f).regs = s.regs := (rfl)
@[simp] theorem State.modMill_hiLatch (s : State) (f : Mill → Mill) : (s.modMill f).hiLatch = s.hiLatch := (rfl)
@[simp] theorem State.modMill_rdata (s : State) (f : Mill → Mill) : (s.modMill f).rdata = s.rdata := (rfl)
@[simp] theorem State.modMill_hostMem (s : State) (f : Mill → Mill) : (s.modMill f).hostMem = s.hostMem := (rfl)
@[simp] theorem State.modMill_reqs (s : State) (f : Mill → Mill) : (s.modMill f).reqs = s.reqs := (rfl)
@[simp] theorem State.modMill_freeCtr (s : State) (f : Mill → Mill) : (s.modMill f).freeCtr = s.freeCtr := (rfl)
@[simp] theorem State.modMill_pending (s : State) (f : Mill → Mill) : (s.modMill f).pending = s.pending := (rfl)
@[simp] theorem State.modMill_mill (s : State) (f : Mill → Mill) : (s.modMill f).mill = f s.mill := (rfl)
@[simp] theorem State.modPair_clk (s : State) (f : Pair → Pair) : (s.modPair f).clk = s.clk := (rfl)
@[simp] theorem State.modPair_sec (s : State) (f : Pair → Pair) : (s.modPair f).sec = s.sec := (rfl)
@[simp] theorem State.modPair_mode (s : State) (f : Pair → Pair) : (s.modPair f).mode = s.mode := (rfl)
@[simp] theorem State.modPair_host (s : State) (f : Pair → Pair) : (s.modPair f).host = s.host := (rfl)
@[simp] theorem State.modPair_tim (s : State) (f : Pair → Pair) : (s.modPair f).tim = s.tim := (rfl)
@[simp] theorem State.modPair_bell (s : State) (f : Pair → Pair) : (s.modPair f).bell = s.bell := (rfl)
@[simp] theorem State.modPair_ports (s : State) (f : Pair → Pair) : (s.modPair f).ports = s.ports := (rfl)
@[simp] theorem State.modPair_health (s : State) (f : Pair → Pair) : (s.modPair f).health = s.health := (rfl)
@[simp] theorem State.modPair_gce (s : State) (f : Pair → Pair) : (s.modPair f).gce = s.gce := (rfl)
@[simp] theorem State.modPair_leg (s : State) (f : Pair → Pair) : (s.modPair f).leg = s.leg := (rfl)
@[simp] theorem State.modPair_adc (s : State) (f : Pair → Pair) : (s.modPair f).adc = s.adc := (rfl)
@[simp] theorem State.modPair_fad (s : State) (f : Pair → Pair) : (s.modPair f).fad = s.fad := (rfl)
@[simp] theorem State.modPair_mill (s : State) (f : Pair → Pair) : (s.modPair f).mill = s.mill := (rfl)
@[simp] theorem State.modPair_cap (s : State) (f : Pair → Pair) : (s.modPair f).cap = s.cap := (rfl)
@[simp] theorem State.modPair_pmu (s : State) (f : Pair → Pair) : (s.modPair f).pmu = s.pmu := (rfl)
@[simp] theorem State.modPair_saf (s : State) (f : Pair → Pair) : (s.modPair f).saf = s.saf := (rfl)
@[simp] theorem State.modPair_wch (s : State) (f : Pair → Pair) : (s.modPair f).wch = s.wch := (rfl)
@[simp] theorem State.modPair_book (s : State) (f : Pair → Pair) : (s.modPair f).book = s.book := (rfl)
@[simp] theorem State.modPair_thm (s : State) (f : Pair → Pair) : (s.modPair f).thm = s.thm := (rfl)
@[simp] theorem State.modPair_regs (s : State) (f : Pair → Pair) : (s.modPair f).regs = s.regs := (rfl)
@[simp] theorem State.modPair_hiLatch (s : State) (f : Pair → Pair) : (s.modPair f).hiLatch = s.hiLatch := (rfl)
@[simp] theorem State.modPair_rdata (s : State) (f : Pair → Pair) : (s.modPair f).rdata = s.rdata := (rfl)
@[simp] theorem State.modPair_hostMem (s : State) (f : Pair → Pair) : (s.modPair f).hostMem = s.hostMem := (rfl)
@[simp] theorem State.modPair_reqs (s : State) (f : Pair → Pair) : (s.modPair f).reqs = s.reqs := (rfl)
@[simp] theorem State.modPair_freeCtr (s : State) (f : Pair → Pair) : (s.modPair f).freeCtr = s.freeCtr := (rfl)
@[simp] theorem State.modPair_pending (s : State) (f : Pair → Pair) : (s.modPair f).pending = s.pending := (rfl)
@[simp] theorem State.modPair_pair (s : State) (f : Pair → Pair) : (s.modPair f).pair = f s.pair := (rfl)
@[simp] theorem State.modCap_clk (s : State) (f : Cap → Cap) : (s.modCap f).clk = s.clk := (rfl)
@[simp] theorem State.modCap_sec (s : State) (f : Cap → Cap) : (s.modCap f).sec = s.sec := (rfl)
@[simp] theorem State.modCap_mode (s : State) (f : Cap → Cap) : (s.modCap f).mode = s.mode := (rfl)
@[simp] theorem State.modCap_host (s : State) (f : Cap → Cap) : (s.modCap f).host = s.host := (rfl)
@[simp] theorem State.modCap_tim (s : State) (f : Cap → Cap) : (s.modCap f).tim = s.tim := (rfl)
@[simp] theorem State.modCap_bell (s : State) (f : Cap → Cap) : (s.modCap f).bell = s.bell := (rfl)
@[simp] theorem State.modCap_ports (s : State) (f : Cap → Cap) : (s.modCap f).ports = s.ports := (rfl)
@[simp] theorem State.modCap_health (s : State) (f : Cap → Cap) : (s.modCap f).health = s.health := (rfl)
@[simp] theorem State.modCap_gce (s : State) (f : Cap → Cap) : (s.modCap f).gce = s.gce := (rfl)
@[simp] theorem State.modCap_leg (s : State) (f : Cap → Cap) : (s.modCap f).leg = s.leg := (rfl)
@[simp] theorem State.modCap_adc (s : State) (f : Cap → Cap) : (s.modCap f).adc = s.adc := (rfl)
@[simp] theorem State.modCap_fad (s : State) (f : Cap → Cap) : (s.modCap f).fad = s.fad := (rfl)
@[simp] theorem State.modCap_mill (s : State) (f : Cap → Cap) : (s.modCap f).mill = s.mill := (rfl)
@[simp] theorem State.modCap_pair (s : State) (f : Cap → Cap) : (s.modCap f).pair = s.pair := (rfl)
@[simp] theorem State.modCap_pmu (s : State) (f : Cap → Cap) : (s.modCap f).pmu = s.pmu := (rfl)
@[simp] theorem State.modCap_saf (s : State) (f : Cap → Cap) : (s.modCap f).saf = s.saf := (rfl)
@[simp] theorem State.modCap_wch (s : State) (f : Cap → Cap) : (s.modCap f).wch = s.wch := (rfl)
@[simp] theorem State.modCap_book (s : State) (f : Cap → Cap) : (s.modCap f).book = s.book := (rfl)
@[simp] theorem State.modCap_thm (s : State) (f : Cap → Cap) : (s.modCap f).thm = s.thm := (rfl)
@[simp] theorem State.modCap_regs (s : State) (f : Cap → Cap) : (s.modCap f).regs = s.regs := (rfl)
@[simp] theorem State.modCap_hiLatch (s : State) (f : Cap → Cap) : (s.modCap f).hiLatch = s.hiLatch := (rfl)
@[simp] theorem State.modCap_rdata (s : State) (f : Cap → Cap) : (s.modCap f).rdata = s.rdata := (rfl)
@[simp] theorem State.modCap_hostMem (s : State) (f : Cap → Cap) : (s.modCap f).hostMem = s.hostMem := (rfl)
@[simp] theorem State.modCap_reqs (s : State) (f : Cap → Cap) : (s.modCap f).reqs = s.reqs := (rfl)
@[simp] theorem State.modCap_freeCtr (s : State) (f : Cap → Cap) : (s.modCap f).freeCtr = s.freeCtr := (rfl)
@[simp] theorem State.modCap_pending (s : State) (f : Cap → Cap) : (s.modCap f).pending = s.pending := (rfl)
@[simp] theorem State.modCap_cap (s : State) (f : Cap → Cap) : (s.modCap f).cap = f s.cap := (rfl)
@[simp] theorem State.modPmu_clk (s : State) (f : Pmu → Pmu) : (s.modPmu f).clk = s.clk := (rfl)
@[simp] theorem State.modPmu_sec (s : State) (f : Pmu → Pmu) : (s.modPmu f).sec = s.sec := (rfl)
@[simp] theorem State.modPmu_mode (s : State) (f : Pmu → Pmu) : (s.modPmu f).mode = s.mode := (rfl)
@[simp] theorem State.modPmu_host (s : State) (f : Pmu → Pmu) : (s.modPmu f).host = s.host := (rfl)
@[simp] theorem State.modPmu_tim (s : State) (f : Pmu → Pmu) : (s.modPmu f).tim = s.tim := (rfl)
@[simp] theorem State.modPmu_bell (s : State) (f : Pmu → Pmu) : (s.modPmu f).bell = s.bell := (rfl)
@[simp] theorem State.modPmu_ports (s : State) (f : Pmu → Pmu) : (s.modPmu f).ports = s.ports := (rfl)
@[simp] theorem State.modPmu_health (s : State) (f : Pmu → Pmu) : (s.modPmu f).health = s.health := (rfl)
@[simp] theorem State.modPmu_gce (s : State) (f : Pmu → Pmu) : (s.modPmu f).gce = s.gce := (rfl)
@[simp] theorem State.modPmu_leg (s : State) (f : Pmu → Pmu) : (s.modPmu f).leg = s.leg := (rfl)
@[simp] theorem State.modPmu_adc (s : State) (f : Pmu → Pmu) : (s.modPmu f).adc = s.adc := (rfl)
@[simp] theorem State.modPmu_fad (s : State) (f : Pmu → Pmu) : (s.modPmu f).fad = s.fad := (rfl)
@[simp] theorem State.modPmu_mill (s : State) (f : Pmu → Pmu) : (s.modPmu f).mill = s.mill := (rfl)
@[simp] theorem State.modPmu_pair (s : State) (f : Pmu → Pmu) : (s.modPmu f).pair = s.pair := (rfl)
@[simp] theorem State.modPmu_cap (s : State) (f : Pmu → Pmu) : (s.modPmu f).cap = s.cap := (rfl)
@[simp] theorem State.modPmu_saf (s : State) (f : Pmu → Pmu) : (s.modPmu f).saf = s.saf := (rfl)
@[simp] theorem State.modPmu_wch (s : State) (f : Pmu → Pmu) : (s.modPmu f).wch = s.wch := (rfl)
@[simp] theorem State.modPmu_book (s : State) (f : Pmu → Pmu) : (s.modPmu f).book = s.book := (rfl)
@[simp] theorem State.modPmu_thm (s : State) (f : Pmu → Pmu) : (s.modPmu f).thm = s.thm := (rfl)
@[simp] theorem State.modPmu_regs (s : State) (f : Pmu → Pmu) : (s.modPmu f).regs = s.regs := (rfl)
@[simp] theorem State.modPmu_hiLatch (s : State) (f : Pmu → Pmu) : (s.modPmu f).hiLatch = s.hiLatch := (rfl)
@[simp] theorem State.modPmu_rdata (s : State) (f : Pmu → Pmu) : (s.modPmu f).rdata = s.rdata := (rfl)
@[simp] theorem State.modPmu_hostMem (s : State) (f : Pmu → Pmu) : (s.modPmu f).hostMem = s.hostMem := (rfl)
@[simp] theorem State.modPmu_reqs (s : State) (f : Pmu → Pmu) : (s.modPmu f).reqs = s.reqs := (rfl)
@[simp] theorem State.modPmu_freeCtr (s : State) (f : Pmu → Pmu) : (s.modPmu f).freeCtr = s.freeCtr := (rfl)
@[simp] theorem State.modPmu_pending (s : State) (f : Pmu → Pmu) : (s.modPmu f).pending = s.pending := (rfl)
@[simp] theorem State.modPmu_pmu (s : State) (f : Pmu → Pmu) : (s.modPmu f).pmu = f s.pmu := (rfl)
@[simp] theorem State.modSaf_clk (s : State) (f : Saf → Saf) : (s.modSaf f).clk = s.clk := (rfl)
@[simp] theorem State.modSaf_sec (s : State) (f : Saf → Saf) : (s.modSaf f).sec = s.sec := (rfl)
@[simp] theorem State.modSaf_mode (s : State) (f : Saf → Saf) : (s.modSaf f).mode = s.mode := (rfl)
@[simp] theorem State.modSaf_host (s : State) (f : Saf → Saf) : (s.modSaf f).host = s.host := (rfl)
@[simp] theorem State.modSaf_tim (s : State) (f : Saf → Saf) : (s.modSaf f).tim = s.tim := (rfl)
@[simp] theorem State.modSaf_bell (s : State) (f : Saf → Saf) : (s.modSaf f).bell = s.bell := (rfl)
@[simp] theorem State.modSaf_ports (s : State) (f : Saf → Saf) : (s.modSaf f).ports = s.ports := (rfl)
@[simp] theorem State.modSaf_health (s : State) (f : Saf → Saf) : (s.modSaf f).health = s.health := (rfl)
@[simp] theorem State.modSaf_gce (s : State) (f : Saf → Saf) : (s.modSaf f).gce = s.gce := (rfl)
@[simp] theorem State.modSaf_leg (s : State) (f : Saf → Saf) : (s.modSaf f).leg = s.leg := (rfl)
@[simp] theorem State.modSaf_adc (s : State) (f : Saf → Saf) : (s.modSaf f).adc = s.adc := (rfl)
@[simp] theorem State.modSaf_fad (s : State) (f : Saf → Saf) : (s.modSaf f).fad = s.fad := (rfl)
@[simp] theorem State.modSaf_mill (s : State) (f : Saf → Saf) : (s.modSaf f).mill = s.mill := (rfl)
@[simp] theorem State.modSaf_pair (s : State) (f : Saf → Saf) : (s.modSaf f).pair = s.pair := (rfl)
@[simp] theorem State.modSaf_cap (s : State) (f : Saf → Saf) : (s.modSaf f).cap = s.cap := (rfl)
@[simp] theorem State.modSaf_pmu (s : State) (f : Saf → Saf) : (s.modSaf f).pmu = s.pmu := (rfl)
@[simp] theorem State.modSaf_wch (s : State) (f : Saf → Saf) : (s.modSaf f).wch = s.wch := (rfl)
@[simp] theorem State.modSaf_book (s : State) (f : Saf → Saf) : (s.modSaf f).book = s.book := (rfl)
@[simp] theorem State.modSaf_thm (s : State) (f : Saf → Saf) : (s.modSaf f).thm = s.thm := (rfl)
@[simp] theorem State.modSaf_regs (s : State) (f : Saf → Saf) : (s.modSaf f).regs = s.regs := (rfl)
@[simp] theorem State.modSaf_hiLatch (s : State) (f : Saf → Saf) : (s.modSaf f).hiLatch = s.hiLatch := (rfl)
@[simp] theorem State.modSaf_rdata (s : State) (f : Saf → Saf) : (s.modSaf f).rdata = s.rdata := (rfl)
@[simp] theorem State.modSaf_hostMem (s : State) (f : Saf → Saf) : (s.modSaf f).hostMem = s.hostMem := (rfl)
@[simp] theorem State.modSaf_reqs (s : State) (f : Saf → Saf) : (s.modSaf f).reqs = s.reqs := (rfl)
@[simp] theorem State.modSaf_freeCtr (s : State) (f : Saf → Saf) : (s.modSaf f).freeCtr = s.freeCtr := (rfl)
@[simp] theorem State.modSaf_pending (s : State) (f : Saf → Saf) : (s.modSaf f).pending = s.pending := (rfl)
@[simp] theorem State.modSaf_saf (s : State) (f : Saf → Saf) : (s.modSaf f).saf = f s.saf := (rfl)
@[simp] theorem State.modWch_clk (s : State) (f : Wch → Wch) : (s.modWch f).clk = s.clk := (rfl)
@[simp] theorem State.modWch_sec (s : State) (f : Wch → Wch) : (s.modWch f).sec = s.sec := (rfl)
@[simp] theorem State.modWch_mode (s : State) (f : Wch → Wch) : (s.modWch f).mode = s.mode := (rfl)
@[simp] theorem State.modWch_host (s : State) (f : Wch → Wch) : (s.modWch f).host = s.host := (rfl)
@[simp] theorem State.modWch_tim (s : State) (f : Wch → Wch) : (s.modWch f).tim = s.tim := (rfl)
@[simp] theorem State.modWch_bell (s : State) (f : Wch → Wch) : (s.modWch f).bell = s.bell := (rfl)
@[simp] theorem State.modWch_ports (s : State) (f : Wch → Wch) : (s.modWch f).ports = s.ports := (rfl)
@[simp] theorem State.modWch_health (s : State) (f : Wch → Wch) : (s.modWch f).health = s.health := (rfl)
@[simp] theorem State.modWch_gce (s : State) (f : Wch → Wch) : (s.modWch f).gce = s.gce := (rfl)
@[simp] theorem State.modWch_leg (s : State) (f : Wch → Wch) : (s.modWch f).leg = s.leg := (rfl)
@[simp] theorem State.modWch_adc (s : State) (f : Wch → Wch) : (s.modWch f).adc = s.adc := (rfl)
@[simp] theorem State.modWch_fad (s : State) (f : Wch → Wch) : (s.modWch f).fad = s.fad := (rfl)
@[simp] theorem State.modWch_mill (s : State) (f : Wch → Wch) : (s.modWch f).mill = s.mill := (rfl)
@[simp] theorem State.modWch_pair (s : State) (f : Wch → Wch) : (s.modWch f).pair = s.pair := (rfl)
@[simp] theorem State.modWch_cap (s : State) (f : Wch → Wch) : (s.modWch f).cap = s.cap := (rfl)
@[simp] theorem State.modWch_pmu (s : State) (f : Wch → Wch) : (s.modWch f).pmu = s.pmu := (rfl)
@[simp] theorem State.modWch_saf (s : State) (f : Wch → Wch) : (s.modWch f).saf = s.saf := (rfl)
@[simp] theorem State.modWch_book (s : State) (f : Wch → Wch) : (s.modWch f).book = s.book := (rfl)
@[simp] theorem State.modWch_thm (s : State) (f : Wch → Wch) : (s.modWch f).thm = s.thm := (rfl)
@[simp] theorem State.modWch_regs (s : State) (f : Wch → Wch) : (s.modWch f).regs = s.regs := (rfl)
@[simp] theorem State.modWch_hiLatch (s : State) (f : Wch → Wch) : (s.modWch f).hiLatch = s.hiLatch := (rfl)
@[simp] theorem State.modWch_rdata (s : State) (f : Wch → Wch) : (s.modWch f).rdata = s.rdata := (rfl)
@[simp] theorem State.modWch_hostMem (s : State) (f : Wch → Wch) : (s.modWch f).hostMem = s.hostMem := (rfl)
@[simp] theorem State.modWch_reqs (s : State) (f : Wch → Wch) : (s.modWch f).reqs = s.reqs := (rfl)
@[simp] theorem State.modWch_freeCtr (s : State) (f : Wch → Wch) : (s.modWch f).freeCtr = s.freeCtr := (rfl)
@[simp] theorem State.modWch_pending (s : State) (f : Wch → Wch) : (s.modWch f).pending = s.pending := (rfl)
@[simp] theorem State.modWch_wch (s : State) (f : Wch → Wch) : (s.modWch f).wch = f s.wch := (rfl)
@[simp] theorem State.modBook_clk (s : State) (f : Book → Book) : (s.modBook f).clk = s.clk := (rfl)
@[simp] theorem State.modBook_sec (s : State) (f : Book → Book) : (s.modBook f).sec = s.sec := (rfl)
@[simp] theorem State.modBook_mode (s : State) (f : Book → Book) : (s.modBook f).mode = s.mode := (rfl)
@[simp] theorem State.modBook_host (s : State) (f : Book → Book) : (s.modBook f).host = s.host := (rfl)
@[simp] theorem State.modBook_tim (s : State) (f : Book → Book) : (s.modBook f).tim = s.tim := (rfl)
@[simp] theorem State.modBook_bell (s : State) (f : Book → Book) : (s.modBook f).bell = s.bell := (rfl)
@[simp] theorem State.modBook_ports (s : State) (f : Book → Book) : (s.modBook f).ports = s.ports := (rfl)
@[simp] theorem State.modBook_health (s : State) (f : Book → Book) : (s.modBook f).health = s.health := (rfl)
@[simp] theorem State.modBook_gce (s : State) (f : Book → Book) : (s.modBook f).gce = s.gce := (rfl)
@[simp] theorem State.modBook_leg (s : State) (f : Book → Book) : (s.modBook f).leg = s.leg := (rfl)
@[simp] theorem State.modBook_adc (s : State) (f : Book → Book) : (s.modBook f).adc = s.adc := (rfl)
@[simp] theorem State.modBook_fad (s : State) (f : Book → Book) : (s.modBook f).fad = s.fad := (rfl)
@[simp] theorem State.modBook_mill (s : State) (f : Book → Book) : (s.modBook f).mill = s.mill := (rfl)
@[simp] theorem State.modBook_pair (s : State) (f : Book → Book) : (s.modBook f).pair = s.pair := (rfl)
@[simp] theorem State.modBook_cap (s : State) (f : Book → Book) : (s.modBook f).cap = s.cap := (rfl)
@[simp] theorem State.modBook_pmu (s : State) (f : Book → Book) : (s.modBook f).pmu = s.pmu := (rfl)
@[simp] theorem State.modBook_saf (s : State) (f : Book → Book) : (s.modBook f).saf = s.saf := (rfl)
@[simp] theorem State.modBook_wch (s : State) (f : Book → Book) : (s.modBook f).wch = s.wch := (rfl)
@[simp] theorem State.modBook_thm (s : State) (f : Book → Book) : (s.modBook f).thm = s.thm := (rfl)
@[simp] theorem State.modBook_regs (s : State) (f : Book → Book) : (s.modBook f).regs = s.regs := (rfl)
@[simp] theorem State.modBook_hiLatch (s : State) (f : Book → Book) : (s.modBook f).hiLatch = s.hiLatch := (rfl)
@[simp] theorem State.modBook_rdata (s : State) (f : Book → Book) : (s.modBook f).rdata = s.rdata := (rfl)
@[simp] theorem State.modBook_hostMem (s : State) (f : Book → Book) : (s.modBook f).hostMem = s.hostMem := (rfl)
@[simp] theorem State.modBook_reqs (s : State) (f : Book → Book) : (s.modBook f).reqs = s.reqs := (rfl)
@[simp] theorem State.modBook_freeCtr (s : State) (f : Book → Book) : (s.modBook f).freeCtr = s.freeCtr := (rfl)
@[simp] theorem State.modBook_pending (s : State) (f : Book → Book) : (s.modBook f).pending = s.pending := (rfl)
@[simp] theorem State.modBook_book (s : State) (f : Book → Book) : (s.modBook f).book = f s.book := (rfl)
@[simp] theorem State.modThm_clk (s : State) (f : Thm → Thm) : (s.modThm f).clk = s.clk := (rfl)
@[simp] theorem State.modThm_sec (s : State) (f : Thm → Thm) : (s.modThm f).sec = s.sec := (rfl)
@[simp] theorem State.modThm_mode (s : State) (f : Thm → Thm) : (s.modThm f).mode = s.mode := (rfl)
@[simp] theorem State.modThm_host (s : State) (f : Thm → Thm) : (s.modThm f).host = s.host := (rfl)
@[simp] theorem State.modThm_tim (s : State) (f : Thm → Thm) : (s.modThm f).tim = s.tim := (rfl)
@[simp] theorem State.modThm_bell (s : State) (f : Thm → Thm) : (s.modThm f).bell = s.bell := (rfl)
@[simp] theorem State.modThm_ports (s : State) (f : Thm → Thm) : (s.modThm f).ports = s.ports := (rfl)
@[simp] theorem State.modThm_health (s : State) (f : Thm → Thm) : (s.modThm f).health = s.health := (rfl)
@[simp] theorem State.modThm_gce (s : State) (f : Thm → Thm) : (s.modThm f).gce = s.gce := (rfl)
@[simp] theorem State.modThm_leg (s : State) (f : Thm → Thm) : (s.modThm f).leg = s.leg := (rfl)
@[simp] theorem State.modThm_adc (s : State) (f : Thm → Thm) : (s.modThm f).adc = s.adc := (rfl)
@[simp] theorem State.modThm_fad (s : State) (f : Thm → Thm) : (s.modThm f).fad = s.fad := (rfl)
@[simp] theorem State.modThm_mill (s : State) (f : Thm → Thm) : (s.modThm f).mill = s.mill := (rfl)
@[simp] theorem State.modThm_pair (s : State) (f : Thm → Thm) : (s.modThm f).pair = s.pair := (rfl)
@[simp] theorem State.modThm_cap (s : State) (f : Thm → Thm) : (s.modThm f).cap = s.cap := (rfl)
@[simp] theorem State.modThm_pmu (s : State) (f : Thm → Thm) : (s.modThm f).pmu = s.pmu := (rfl)
@[simp] theorem State.modThm_saf (s : State) (f : Thm → Thm) : (s.modThm f).saf = s.saf := (rfl)
@[simp] theorem State.modThm_wch (s : State) (f : Thm → Thm) : (s.modThm f).wch = s.wch := (rfl)
@[simp] theorem State.modThm_book (s : State) (f : Thm → Thm) : (s.modThm f).book = s.book := (rfl)
@[simp] theorem State.modThm_regs (s : State) (f : Thm → Thm) : (s.modThm f).regs = s.regs := (rfl)
@[simp] theorem State.modThm_hiLatch (s : State) (f : Thm → Thm) : (s.modThm f).hiLatch = s.hiLatch := (rfl)
@[simp] theorem State.modThm_rdata (s : State) (f : Thm → Thm) : (s.modThm f).rdata = s.rdata := (rfl)
@[simp] theorem State.modThm_hostMem (s : State) (f : Thm → Thm) : (s.modThm f).hostMem = s.hostMem := (rfl)
@[simp] theorem State.modThm_reqs (s : State) (f : Thm → Thm) : (s.modThm f).reqs = s.reqs := (rfl)
@[simp] theorem State.modThm_freeCtr (s : State) (f : Thm → Thm) : (s.modThm f).freeCtr = s.freeCtr := (rfl)
@[simp] theorem State.modThm_pending (s : State) (f : Thm → Thm) : (s.modThm f).pending = s.pending := (rfl)
@[simp] theorem State.modThm_thm (s : State) (f : Thm → Thm) : (s.modThm f).thm = f s.thm := (rfl)
@[simp] theorem State.modPort_clk (s : State) (k : Nat) (f : Port → Port) : (s.modPort k f).clk = s.clk := (rfl)
@[simp] theorem State.modPort_sec (s : State) (k : Nat) (f : Port → Port) : (s.modPort k f).sec = s.sec := (rfl)
@[simp] theorem State.modPort_mode (s : State) (k : Nat) (f : Port → Port) : (s.modPort k f).mode = s.mode := (rfl)
@[simp] theorem State.modPort_host (s : State) (k : Nat) (f : Port → Port) : (s.modPort k f).host = s.host := (rfl)
@[simp] theorem State.modPort_tim (s : State) (k : Nat) (f : Port → Port) : (s.modPort k f).tim = s.tim := (rfl)
@[simp] theorem State.modPort_bell (s : State) (k : Nat) (f : Port → Port) : (s.modPort k f).bell = s.bell := (rfl)
@[simp] theorem State.modPort_health (s : State) (k : Nat) (f : Port → Port) : (s.modPort k f).health = s.health := (rfl)
@[simp] theorem State.modPort_gce (s : State) (k : Nat) (f : Port → Port) : (s.modPort k f).gce = s.gce := (rfl)
@[simp] theorem State.modPort_leg (s : State) (k : Nat) (f : Port → Port) : (s.modPort k f).leg = s.leg := (rfl)
@[simp] theorem State.modPort_adc (s : State) (k : Nat) (f : Port → Port) : (s.modPort k f).adc = s.adc := (rfl)
@[simp] theorem State.modPort_fad (s : State) (k : Nat) (f : Port → Port) : (s.modPort k f).fad = s.fad := (rfl)
@[simp] theorem State.modPort_mill (s : State) (k : Nat) (f : Port → Port) : (s.modPort k f).mill = s.mill := (rfl)
@[simp] theorem State.modPort_pair (s : State) (k : Nat) (f : Port → Port) : (s.modPort k f).pair = s.pair := (rfl)
@[simp] theorem State.modPort_cap (s : State) (k : Nat) (f : Port → Port) : (s.modPort k f).cap = s.cap := (rfl)
@[simp] theorem State.modPort_pmu (s : State) (k : Nat) (f : Port → Port) : (s.modPort k f).pmu = s.pmu := (rfl)
@[simp] theorem State.modPort_saf (s : State) (k : Nat) (f : Port → Port) : (s.modPort k f).saf = s.saf := (rfl)
@[simp] theorem State.modPort_wch (s : State) (k : Nat) (f : Port → Port) : (s.modPort k f).wch = s.wch := (rfl)
@[simp] theorem State.modPort_book (s : State) (k : Nat) (f : Port → Port) : (s.modPort k f).book = s.book := (rfl)
@[simp] theorem State.modPort_thm (s : State) (k : Nat) (f : Port → Port) : (s.modPort k f).thm = s.thm := (rfl)
@[simp] theorem State.modPort_regs (s : State) (k : Nat) (f : Port → Port) : (s.modPort k f).regs = s.regs := (rfl)
@[simp] theorem State.modPort_hiLatch (s : State) (k : Nat) (f : Port → Port) : (s.modPort k f).hiLatch = s.hiLatch := (rfl)
@[simp] theorem State.modPort_rdata (s : State) (k : Nat) (f : Port → Port) : (s.modPort k f).rdata = s.rdata := (rfl)
@[simp] theorem State.modPort_hostMem (s : State) (k : Nat) (f : Port → Port) : (s.modPort k f).hostMem = s.hostMem := (rfl)
@[simp] theorem State.modPort_reqs (s : State) (k : Nat) (f : Port → Port) : (s.modPort k f).reqs = s.reqs := (rfl)
@[simp] theorem State.modPort_freeCtr (s : State) (k : Nat) (f : Port → Port) : (s.modPort k f).freeCtr = s.freeCtr := (rfl)
@[simp] theorem State.modPort_pending (s : State) (k : Nat) (f : Port → Port) : (s.modPort k f).pending = s.pending := (rfl)
@[simp] theorem State.modHealth1_clk (s : State) (k : Nat) (f : Health → Health) : (s.modHealth1 k f).clk = s.clk := (rfl)
@[simp] theorem State.modHealth1_sec (s : State) (k : Nat) (f : Health → Health) : (s.modHealth1 k f).sec = s.sec := (rfl)
@[simp] theorem State.modHealth1_mode (s : State) (k : Nat) (f : Health → Health) : (s.modHealth1 k f).mode = s.mode := (rfl)
@[simp] theorem State.modHealth1_host (s : State) (k : Nat) (f : Health → Health) : (s.modHealth1 k f).host = s.host := (rfl)
@[simp] theorem State.modHealth1_tim (s : State) (k : Nat) (f : Health → Health) : (s.modHealth1 k f).tim = s.tim := (rfl)
@[simp] theorem State.modHealth1_bell (s : State) (k : Nat) (f : Health → Health) : (s.modHealth1 k f).bell = s.bell := (rfl)
@[simp] theorem State.modHealth1_ports (s : State) (k : Nat) (f : Health → Health) : (s.modHealth1 k f).ports = s.ports := (rfl)
@[simp] theorem State.modHealth1_gce (s : State) (k : Nat) (f : Health → Health) : (s.modHealth1 k f).gce = s.gce := (rfl)
@[simp] theorem State.modHealth1_leg (s : State) (k : Nat) (f : Health → Health) : (s.modHealth1 k f).leg = s.leg := (rfl)
@[simp] theorem State.modHealth1_adc (s : State) (k : Nat) (f : Health → Health) : (s.modHealth1 k f).adc = s.adc := (rfl)
@[simp] theorem State.modHealth1_fad (s : State) (k : Nat) (f : Health → Health) : (s.modHealth1 k f).fad = s.fad := (rfl)
@[simp] theorem State.modHealth1_mill (s : State) (k : Nat) (f : Health → Health) : (s.modHealth1 k f).mill = s.mill := (rfl)
@[simp] theorem State.modHealth1_pair (s : State) (k : Nat) (f : Health → Health) : (s.modHealth1 k f).pair = s.pair := (rfl)
@[simp] theorem State.modHealth1_cap (s : State) (k : Nat) (f : Health → Health) : (s.modHealth1 k f).cap = s.cap := (rfl)
@[simp] theorem State.modHealth1_pmu (s : State) (k : Nat) (f : Health → Health) : (s.modHealth1 k f).pmu = s.pmu := (rfl)
@[simp] theorem State.modHealth1_saf (s : State) (k : Nat) (f : Health → Health) : (s.modHealth1 k f).saf = s.saf := (rfl)
@[simp] theorem State.modHealth1_wch (s : State) (k : Nat) (f : Health → Health) : (s.modHealth1 k f).wch = s.wch := (rfl)
@[simp] theorem State.modHealth1_book (s : State) (k : Nat) (f : Health → Health) : (s.modHealth1 k f).book = s.book := (rfl)
@[simp] theorem State.modHealth1_thm (s : State) (k : Nat) (f : Health → Health) : (s.modHealth1 k f).thm = s.thm := (rfl)
@[simp] theorem State.modHealth1_regs (s : State) (k : Nat) (f : Health → Health) : (s.modHealth1 k f).regs = s.regs := (rfl)
@[simp] theorem State.modHealth1_hiLatch (s : State) (k : Nat) (f : Health → Health) : (s.modHealth1 k f).hiLatch = s.hiLatch := (rfl)
@[simp] theorem State.modHealth1_rdata (s : State) (k : Nat) (f : Health → Health) : (s.modHealth1 k f).rdata = s.rdata := (rfl)
@[simp] theorem State.modHealth1_hostMem (s : State) (k : Nat) (f : Health → Health) : (s.modHealth1 k f).hostMem = s.hostMem := (rfl)
@[simp] theorem State.modHealth1_reqs (s : State) (k : Nat) (f : Health → Health) : (s.modHealth1 k f).reqs = s.reqs := (rfl)
@[simp] theorem State.modHealth1_freeCtr (s : State) (k : Nat) (f : Health → Health) : (s.modHealth1 k f).freeCtr = s.freeCtr := (rfl)
@[simp] theorem State.modHealth1_pending (s : State) (k : Nat) (f : Health → Health) : (s.modHealth1 k f).pending = s.pending := (rfl)
@[simp] theorem State.modRing_clk (s : State) (k : Nat) (f : Ring → Ring) : (s.modRing k f).clk = s.clk := (rfl)
@[simp] theorem State.modRing_sec (s : State) (k : Nat) (f : Ring → Ring) : (s.modRing k f).sec = s.sec := (rfl)
@[simp] theorem State.modRing_mode (s : State) (k : Nat) (f : Ring → Ring) : (s.modRing k f).mode = s.mode := (rfl)
@[simp] theorem State.modRing_tim (s : State) (k : Nat) (f : Ring → Ring) : (s.modRing k f).tim = s.tim := (rfl)
@[simp] theorem State.modRing_bell (s : State) (k : Nat) (f : Ring → Ring) : (s.modRing k f).bell = s.bell := (rfl)
@[simp] theorem State.modRing_ports (s : State) (k : Nat) (f : Ring → Ring) : (s.modRing k f).ports = s.ports := (rfl)
@[simp] theorem State.modRing_health (s : State) (k : Nat) (f : Ring → Ring) : (s.modRing k f).health = s.health := (rfl)
@[simp] theorem State.modRing_gce (s : State) (k : Nat) (f : Ring → Ring) : (s.modRing k f).gce = s.gce := (rfl)
@[simp] theorem State.modRing_leg (s : State) (k : Nat) (f : Ring → Ring) : (s.modRing k f).leg = s.leg := (rfl)
@[simp] theorem State.modRing_adc (s : State) (k : Nat) (f : Ring → Ring) : (s.modRing k f).adc = s.adc := (rfl)
@[simp] theorem State.modRing_fad (s : State) (k : Nat) (f : Ring → Ring) : (s.modRing k f).fad = s.fad := (rfl)
@[simp] theorem State.modRing_mill (s : State) (k : Nat) (f : Ring → Ring) : (s.modRing k f).mill = s.mill := (rfl)
@[simp] theorem State.modRing_pair (s : State) (k : Nat) (f : Ring → Ring) : (s.modRing k f).pair = s.pair := (rfl)
@[simp] theorem State.modRing_cap (s : State) (k : Nat) (f : Ring → Ring) : (s.modRing k f).cap = s.cap := (rfl)
@[simp] theorem State.modRing_pmu (s : State) (k : Nat) (f : Ring → Ring) : (s.modRing k f).pmu = s.pmu := (rfl)
@[simp] theorem State.modRing_saf (s : State) (k : Nat) (f : Ring → Ring) : (s.modRing k f).saf = s.saf := (rfl)
@[simp] theorem State.modRing_wch (s : State) (k : Nat) (f : Ring → Ring) : (s.modRing k f).wch = s.wch := (rfl)
@[simp] theorem State.modRing_book (s : State) (k : Nat) (f : Ring → Ring) : (s.modRing k f).book = s.book := (rfl)
@[simp] theorem State.modRing_thm (s : State) (k : Nat) (f : Ring → Ring) : (s.modRing k f).thm = s.thm := (rfl)
@[simp] theorem State.modRing_regs (s : State) (k : Nat) (f : Ring → Ring) : (s.modRing k f).regs = s.regs := (rfl)
@[simp] theorem State.modRing_hiLatch (s : State) (k : Nat) (f : Ring → Ring) : (s.modRing k f).hiLatch = s.hiLatch := (rfl)
@[simp] theorem State.modRing_rdata (s : State) (k : Nat) (f : Ring → Ring) : (s.modRing k f).rdata = s.rdata := (rfl)
@[simp] theorem State.modRing_hostMem (s : State) (k : Nat) (f : Ring → Ring) : (s.modRing k f).hostMem = s.hostMem := (rfl)
@[simp] theorem State.modRing_reqs (s : State) (k : Nat) (f : Ring → Ring) : (s.modRing k f).reqs = s.reqs := (rfl)
@[simp] theorem State.modRing_freeCtr (s : State) (k : Nat) (f : Ring → Ring) : (s.modRing k f).freeCtr = s.freeCtr := (rfl)
@[simp] theorem State.modRing_pending (s : State) (k : Nat) (f : Ring → Ring) : (s.modRing k f).pending = s.pending := (rfl)
@[simp] theorem State.modSta_clk (s : State) (k : Nat) (f : StaPort → StaPort) : (s.modSta k f).clk = s.clk := (rfl)
@[simp] theorem State.modSta_sec (s : State) (k : Nat) (f : StaPort → StaPort) : (s.modSta k f).sec = s.sec := (rfl)
@[simp] theorem State.modSta_mode (s : State) (k : Nat) (f : StaPort → StaPort) : (s.modSta k f).mode = s.mode := (rfl)
@[simp] theorem State.modSta_host (s : State) (k : Nat) (f : StaPort → StaPort) : (s.modSta k f).host = s.host := (rfl)
@[simp] theorem State.modSta_bell (s : State) (k : Nat) (f : StaPort → StaPort) : (s.modSta k f).bell = s.bell := (rfl)
@[simp] theorem State.modSta_ports (s : State) (k : Nat) (f : StaPort → StaPort) : (s.modSta k f).ports = s.ports := (rfl)
@[simp] theorem State.modSta_health (s : State) (k : Nat) (f : StaPort → StaPort) : (s.modSta k f).health = s.health := (rfl)
@[simp] theorem State.modSta_gce (s : State) (k : Nat) (f : StaPort → StaPort) : (s.modSta k f).gce = s.gce := (rfl)
@[simp] theorem State.modSta_leg (s : State) (k : Nat) (f : StaPort → StaPort) : (s.modSta k f).leg = s.leg := (rfl)
@[simp] theorem State.modSta_adc (s : State) (k : Nat) (f : StaPort → StaPort) : (s.modSta k f).adc = s.adc := (rfl)
@[simp] theorem State.modSta_fad (s : State) (k : Nat) (f : StaPort → StaPort) : (s.modSta k f).fad = s.fad := (rfl)
@[simp] theorem State.modSta_mill (s : State) (k : Nat) (f : StaPort → StaPort) : (s.modSta k f).mill = s.mill := (rfl)
@[simp] theorem State.modSta_pair (s : State) (k : Nat) (f : StaPort → StaPort) : (s.modSta k f).pair = s.pair := (rfl)
@[simp] theorem State.modSta_cap (s : State) (k : Nat) (f : StaPort → StaPort) : (s.modSta k f).cap = s.cap := (rfl)
@[simp] theorem State.modSta_pmu (s : State) (k : Nat) (f : StaPort → StaPort) : (s.modSta k f).pmu = s.pmu := (rfl)
@[simp] theorem State.modSta_saf (s : State) (k : Nat) (f : StaPort → StaPort) : (s.modSta k f).saf = s.saf := (rfl)
@[simp] theorem State.modSta_wch (s : State) (k : Nat) (f : StaPort → StaPort) : (s.modSta k f).wch = s.wch := (rfl)
@[simp] theorem State.modSta_book (s : State) (k : Nat) (f : StaPort → StaPort) : (s.modSta k f).book = s.book := (rfl)
@[simp] theorem State.modSta_thm (s : State) (k : Nat) (f : StaPort → StaPort) : (s.modSta k f).thm = s.thm := (rfl)
@[simp] theorem State.modSta_regs (s : State) (k : Nat) (f : StaPort → StaPort) : (s.modSta k f).regs = s.regs := (rfl)
@[simp] theorem State.modSta_hiLatch (s : State) (k : Nat) (f : StaPort → StaPort) : (s.modSta k f).hiLatch = s.hiLatch := (rfl)
@[simp] theorem State.modSta_rdata (s : State) (k : Nat) (f : StaPort → StaPort) : (s.modSta k f).rdata = s.rdata := (rfl)
@[simp] theorem State.modSta_hostMem (s : State) (k : Nat) (f : StaPort → StaPort) : (s.modSta k f).hostMem = s.hostMem := (rfl)
@[simp] theorem State.modSta_reqs (s : State) (k : Nat) (f : StaPort → StaPort) : (s.modSta k f).reqs = s.reqs := (rfl)
@[simp] theorem State.modSta_freeCtr (s : State) (k : Nat) (f : StaPort → StaPort) : (s.modSta k f).freeCtr = s.freeCtr := (rfl)
@[simp] theorem State.modSta_pending (s : State) (k : Nat) (f : StaPort → StaPort) : (s.modSta k f).pending = s.pending := (rfl)
@[simp] theorem State.modGrp_clk (s : State) (k : Nat) (f : Grp → Grp) : (s.modGrp k f).clk = s.clk := (rfl)
@[simp] theorem State.modGrp_sec (s : State) (k : Nat) (f : Grp → Grp) : (s.modGrp k f).sec = s.sec := (rfl)
@[simp] theorem State.modGrp_mode (s : State) (k : Nat) (f : Grp → Grp) : (s.modGrp k f).mode = s.mode := (rfl)
@[simp] theorem State.modGrp_host (s : State) (k : Nat) (f : Grp → Grp) : (s.modGrp k f).host = s.host := (rfl)
@[simp] theorem State.modGrp_tim (s : State) (k : Nat) (f : Grp → Grp) : (s.modGrp k f).tim = s.tim := (rfl)
@[simp] theorem State.modGrp_bell (s : State) (k : Nat) (f : Grp → Grp) : (s.modGrp k f).bell = s.bell := (rfl)
@[simp] theorem State.modGrp_ports (s : State) (k : Nat) (f : Grp → Grp) : (s.modGrp k f).ports = s.ports := (rfl)
@[simp] theorem State.modGrp_health (s : State) (k : Nat) (f : Grp → Grp) : (s.modGrp k f).health = s.health := (rfl)
@[simp] theorem State.modGrp_leg (s : State) (k : Nat) (f : Grp → Grp) : (s.modGrp k f).leg = s.leg := (rfl)
@[simp] theorem State.modGrp_adc (s : State) (k : Nat) (f : Grp → Grp) : (s.modGrp k f).adc = s.adc := (rfl)
@[simp] theorem State.modGrp_fad (s : State) (k : Nat) (f : Grp → Grp) : (s.modGrp k f).fad = s.fad := (rfl)
@[simp] theorem State.modGrp_mill (s : State) (k : Nat) (f : Grp → Grp) : (s.modGrp k f).mill = s.mill := (rfl)
@[simp] theorem State.modGrp_pair (s : State) (k : Nat) (f : Grp → Grp) : (s.modGrp k f).pair = s.pair := (rfl)
@[simp] theorem State.modGrp_cap (s : State) (k : Nat) (f : Grp → Grp) : (s.modGrp k f).cap = s.cap := (rfl)
@[simp] theorem State.modGrp_pmu (s : State) (k : Nat) (f : Grp → Grp) : (s.modGrp k f).pmu = s.pmu := (rfl)
@[simp] theorem State.modGrp_saf (s : State) (k : Nat) (f : Grp → Grp) : (s.modGrp k f).saf = s.saf := (rfl)
@[simp] theorem State.modGrp_wch (s : State) (k : Nat) (f : Grp → Grp) : (s.modGrp k f).wch = s.wch := (rfl)
@[simp] theorem State.modGrp_book (s : State) (k : Nat) (f : Grp → Grp) : (s.modGrp k f).book = s.book := (rfl)
@[simp] theorem State.modGrp_thm (s : State) (k : Nat) (f : Grp → Grp) : (s.modGrp k f).thm = s.thm := (rfl)
@[simp] theorem State.modGrp_regs (s : State) (k : Nat) (f : Grp → Grp) : (s.modGrp k f).regs = s.regs := (rfl)
@[simp] theorem State.modGrp_hiLatch (s : State) (k : Nat) (f : Grp → Grp) : (s.modGrp k f).hiLatch = s.hiLatch := (rfl)
@[simp] theorem State.modGrp_rdata (s : State) (k : Nat) (f : Grp → Grp) : (s.modGrp k f).rdata = s.rdata := (rfl)
@[simp] theorem State.modGrp_hostMem (s : State) (k : Nat) (f : Grp → Grp) : (s.modGrp k f).hostMem = s.hostMem := (rfl)
@[simp] theorem State.modGrp_reqs (s : State) (k : Nat) (f : Grp → Grp) : (s.modGrp k f).reqs = s.reqs := (rfl)
@[simp] theorem State.modGrp_freeCtr (s : State) (k : Nat) (f : Grp → Grp) : (s.modGrp k f).freeCtr = s.freeCtr := (rfl)
@[simp] theorem State.modGrp_pending (s : State) (k : Nat) (f : Grp → Grp) : (s.modGrp k f).pending = s.pending := (rfl)
@[simp] theorem State.modPst_clk (s : State) (k : Nat) (f : PairSt → PairSt) : (s.modPst k f).clk = s.clk := (rfl)
@[simp] theorem State.modPst_sec (s : State) (k : Nat) (f : PairSt → PairSt) : (s.modPst k f).sec = s.sec := (rfl)
@[simp] theorem State.modPst_mode (s : State) (k : Nat) (f : PairSt → PairSt) : (s.modPst k f).mode = s.mode := (rfl)
@[simp] theorem State.modPst_host (s : State) (k : Nat) (f : PairSt → PairSt) : (s.modPst k f).host = s.host := (rfl)
@[simp] theorem State.modPst_tim (s : State) (k : Nat) (f : PairSt → PairSt) : (s.modPst k f).tim = s.tim := (rfl)
@[simp] theorem State.modPst_bell (s : State) (k : Nat) (f : PairSt → PairSt) : (s.modPst k f).bell = s.bell := (rfl)
@[simp] theorem State.modPst_ports (s : State) (k : Nat) (f : PairSt → PairSt) : (s.modPst k f).ports = s.ports := (rfl)
@[simp] theorem State.modPst_health (s : State) (k : Nat) (f : PairSt → PairSt) : (s.modPst k f).health = s.health := (rfl)
@[simp] theorem State.modPst_leg (s : State) (k : Nat) (f : PairSt → PairSt) : (s.modPst k f).leg = s.leg := (rfl)
@[simp] theorem State.modPst_adc (s : State) (k : Nat) (f : PairSt → PairSt) : (s.modPst k f).adc = s.adc := (rfl)
@[simp] theorem State.modPst_fad (s : State) (k : Nat) (f : PairSt → PairSt) : (s.modPst k f).fad = s.fad := (rfl)
@[simp] theorem State.modPst_mill (s : State) (k : Nat) (f : PairSt → PairSt) : (s.modPst k f).mill = s.mill := (rfl)
@[simp] theorem State.modPst_pair (s : State) (k : Nat) (f : PairSt → PairSt) : (s.modPst k f).pair = s.pair := (rfl)
@[simp] theorem State.modPst_cap (s : State) (k : Nat) (f : PairSt → PairSt) : (s.modPst k f).cap = s.cap := (rfl)
@[simp] theorem State.modPst_pmu (s : State) (k : Nat) (f : PairSt → PairSt) : (s.modPst k f).pmu = s.pmu := (rfl)
@[simp] theorem State.modPst_saf (s : State) (k : Nat) (f : PairSt → PairSt) : (s.modPst k f).saf = s.saf := (rfl)
@[simp] theorem State.modPst_wch (s : State) (k : Nat) (f : PairSt → PairSt) : (s.modPst k f).wch = s.wch := (rfl)
@[simp] theorem State.modPst_book (s : State) (k : Nat) (f : PairSt → PairSt) : (s.modPst k f).book = s.book := (rfl)
@[simp] theorem State.modPst_thm (s : State) (k : Nat) (f : PairSt → PairSt) : (s.modPst k f).thm = s.thm := (rfl)
@[simp] theorem State.modPst_regs (s : State) (k : Nat) (f : PairSt → PairSt) : (s.modPst k f).regs = s.regs := (rfl)
@[simp] theorem State.modPst_hiLatch (s : State) (k : Nat) (f : PairSt → PairSt) : (s.modPst k f).hiLatch = s.hiLatch := (rfl)
@[simp] theorem State.modPst_rdata (s : State) (k : Nat) (f : PairSt → PairSt) : (s.modPst k f).rdata = s.rdata := (rfl)
@[simp] theorem State.modPst_hostMem (s : State) (k : Nat) (f : PairSt → PairSt) : (s.modPst k f).hostMem = s.hostMem := (rfl)
@[simp] theorem State.modPst_reqs (s : State) (k : Nat) (f : PairSt → PairSt) : (s.modPst k f).reqs = s.reqs := (rfl)
@[simp] theorem State.modPst_freeCtr (s : State) (k : Nat) (f : PairSt → PairSt) : (s.modPst k f).freeCtr = s.freeCtr := (rfl)
@[simp] theorem State.modPst_pending (s : State) (k : Nat) (f : PairSt → PairSt) : (s.modPst k f).pending = s.pending := (rfl)
@[simp] theorem State.modLine_clk (s : State) (k : Nat) (f : DelayLine → DelayLine) : (s.modLine k f).clk = s.clk := (rfl)
@[simp] theorem State.modLine_sec (s : State) (k : Nat) (f : DelayLine → DelayLine) : (s.modLine k f).sec = s.sec := (rfl)
@[simp] theorem State.modLine_mode (s : State) (k : Nat) (f : DelayLine → DelayLine) : (s.modLine k f).mode = s.mode := (rfl)
@[simp] theorem State.modLine_host (s : State) (k : Nat) (f : DelayLine → DelayLine) : (s.modLine k f).host = s.host := (rfl)
@[simp] theorem State.modLine_tim (s : State) (k : Nat) (f : DelayLine → DelayLine) : (s.modLine k f).tim = s.tim := (rfl)
@[simp] theorem State.modLine_bell (s : State) (k : Nat) (f : DelayLine → DelayLine) : (s.modLine k f).bell = s.bell := (rfl)
@[simp] theorem State.modLine_ports (s : State) (k : Nat) (f : DelayLine → DelayLine) : (s.modLine k f).ports = s.ports := (rfl)
@[simp] theorem State.modLine_health (s : State) (k : Nat) (f : DelayLine → DelayLine) : (s.modLine k f).health = s.health := (rfl)
@[simp] theorem State.modLine_leg (s : State) (k : Nat) (f : DelayLine → DelayLine) : (s.modLine k f).leg = s.leg := (rfl)
@[simp] theorem State.modLine_adc (s : State) (k : Nat) (f : DelayLine → DelayLine) : (s.modLine k f).adc = s.adc := (rfl)
@[simp] theorem State.modLine_fad (s : State) (k : Nat) (f : DelayLine → DelayLine) : (s.modLine k f).fad = s.fad := (rfl)
@[simp] theorem State.modLine_mill (s : State) (k : Nat) (f : DelayLine → DelayLine) : (s.modLine k f).mill = s.mill := (rfl)
@[simp] theorem State.modLine_pair (s : State) (k : Nat) (f : DelayLine → DelayLine) : (s.modLine k f).pair = s.pair := (rfl)
@[simp] theorem State.modLine_cap (s : State) (k : Nat) (f : DelayLine → DelayLine) : (s.modLine k f).cap = s.cap := (rfl)
@[simp] theorem State.modLine_pmu (s : State) (k : Nat) (f : DelayLine → DelayLine) : (s.modLine k f).pmu = s.pmu := (rfl)
@[simp] theorem State.modLine_saf (s : State) (k : Nat) (f : DelayLine → DelayLine) : (s.modLine k f).saf = s.saf := (rfl)
@[simp] theorem State.modLine_wch (s : State) (k : Nat) (f : DelayLine → DelayLine) : (s.modLine k f).wch = s.wch := (rfl)
@[simp] theorem State.modLine_book (s : State) (k : Nat) (f : DelayLine → DelayLine) : (s.modLine k f).book = s.book := (rfl)
@[simp] theorem State.modLine_thm (s : State) (k : Nat) (f : DelayLine → DelayLine) : (s.modLine k f).thm = s.thm := (rfl)
@[simp] theorem State.modLine_regs (s : State) (k : Nat) (f : DelayLine → DelayLine) : (s.modLine k f).regs = s.regs := (rfl)
@[simp] theorem State.modLine_hiLatch (s : State) (k : Nat) (f : DelayLine → DelayLine) : (s.modLine k f).hiLatch = s.hiLatch := (rfl)
@[simp] theorem State.modLine_rdata (s : State) (k : Nat) (f : DelayLine → DelayLine) : (s.modLine k f).rdata = s.rdata := (rfl)
@[simp] theorem State.modLine_hostMem (s : State) (k : Nat) (f : DelayLine → DelayLine) : (s.modLine k f).hostMem = s.hostMem := (rfl)
@[simp] theorem State.modLine_reqs (s : State) (k : Nat) (f : DelayLine → DelayLine) : (s.modLine k f).reqs = s.reqs := (rfl)
@[simp] theorem State.modLine_freeCtr (s : State) (k : Nat) (f : DelayLine → DelayLine) : (s.modLine k f).freeCtr = s.freeCtr := (rfl)
@[simp] theorem State.modLine_pending (s : State) (k : Nat) (f : DelayLine → DelayLine) : (s.modLine k f).pending = s.pending := (rfl)
@[simp] theorem State.modSw_clk (s : State) (k : Nat) (f : Sw → Sw) : (s.modSw k f).clk = s.clk := (rfl)
@[simp] theorem State.modSw_sec (s : State) (k : Nat) (f : Sw → Sw) : (s.modSw k f).sec = s.sec := (rfl)
@[simp] theorem State.modSw_mode (s : State) (k : Nat) (f : Sw → Sw) : (s.modSw k f).mode = s.mode := (rfl)
@[simp] theorem State.modSw_host (s : State) (k : Nat) (f : Sw → Sw) : (s.modSw k f).host = s.host := (rfl)
@[simp] theorem State.modSw_tim (s : State) (k : Nat) (f : Sw → Sw) : (s.modSw k f).tim = s.tim := (rfl)
@[simp] theorem State.modSw_bell (s : State) (k : Nat) (f : Sw → Sw) : (s.modSw k f).bell = s.bell := (rfl)
@[simp] theorem State.modSw_ports (s : State) (k : Nat) (f : Sw → Sw) : (s.modSw k f).ports = s.ports := (rfl)
@[simp] theorem State.modSw_health (s : State) (k : Nat) (f : Sw → Sw) : (s.modSw k f).health = s.health := (rfl)
@[simp] theorem State.modSw_gce (s : State) (k : Nat) (f : Sw → Sw) : (s.modSw k f).gce = s.gce := (rfl)
@[simp] theorem State.modSw_adc (s : State) (k : Nat) (f : Sw → Sw) : (s.modSw k f).adc = s.adc := (rfl)
@[simp] theorem State.modSw_fad (s : State) (k : Nat) (f : Sw → Sw) : (s.modSw k f).fad = s.fad := (rfl)
@[simp] theorem State.modSw_mill (s : State) (k : Nat) (f : Sw → Sw) : (s.modSw k f).mill = s.mill := (rfl)
@[simp] theorem State.modSw_pair (s : State) (k : Nat) (f : Sw → Sw) : (s.modSw k f).pair = s.pair := (rfl)
@[simp] theorem State.modSw_cap (s : State) (k : Nat) (f : Sw → Sw) : (s.modSw k f).cap = s.cap := (rfl)
@[simp] theorem State.modSw_pmu (s : State) (k : Nat) (f : Sw → Sw) : (s.modSw k f).pmu = s.pmu := (rfl)
@[simp] theorem State.modSw_saf (s : State) (k : Nat) (f : Sw → Sw) : (s.modSw k f).saf = s.saf := (rfl)
@[simp] theorem State.modSw_wch (s : State) (k : Nat) (f : Sw → Sw) : (s.modSw k f).wch = s.wch := (rfl)
@[simp] theorem State.modSw_book (s : State) (k : Nat) (f : Sw → Sw) : (s.modSw k f).book = s.book := (rfl)
@[simp] theorem State.modSw_thm (s : State) (k : Nat) (f : Sw → Sw) : (s.modSw k f).thm = s.thm := (rfl)
@[simp] theorem State.modSw_regs (s : State) (k : Nat) (f : Sw → Sw) : (s.modSw k f).regs = s.regs := (rfl)
@[simp] theorem State.modSw_hiLatch (s : State) (k : Nat) (f : Sw → Sw) : (s.modSw k f).hiLatch = s.hiLatch := (rfl)
@[simp] theorem State.modSw_rdata (s : State) (k : Nat) (f : Sw → Sw) : (s.modSw k f).rdata = s.rdata := (rfl)
@[simp] theorem State.modSw_hostMem (s : State) (k : Nat) (f : Sw → Sw) : (s.modSw k f).hostMem = s.hostMem := (rfl)
@[simp] theorem State.modSw_reqs (s : State) (k : Nat) (f : Sw → Sw) : (s.modSw k f).reqs = s.reqs := (rfl)
@[simp] theorem State.modSw_freeCtr (s : State) (k : Nat) (f : Sw → Sw) : (s.modSw k f).freeCtr = s.freeCtr := (rfl)
@[simp] theorem State.modSw_pending (s : State) (k : Nat) (f : Sw → Sw) : (s.modSw k f).pending = s.pending := (rfl)
@[simp] theorem State.modLg_clk (s : State) (k : Nat) (f : Lg → Lg) : (s.modLg k f).clk = s.clk := (rfl)
@[simp] theorem State.modLg_sec (s : State) (k : Nat) (f : Lg → Lg) : (s.modLg k f).sec = s.sec := (rfl)
@[simp] theorem State.modLg_mode (s : State) (k : Nat) (f : Lg → Lg) : (s.modLg k f).mode = s.mode := (rfl)
@[simp] theorem State.modLg_host (s : State) (k : Nat) (f : Lg → Lg) : (s.modLg k f).host = s.host := (rfl)
@[simp] theorem State.modLg_tim (s : State) (k : Nat) (f : Lg → Lg) : (s.modLg k f).tim = s.tim := (rfl)
@[simp] theorem State.modLg_bell (s : State) (k : Nat) (f : Lg → Lg) : (s.modLg k f).bell = s.bell := (rfl)
@[simp] theorem State.modLg_ports (s : State) (k : Nat) (f : Lg → Lg) : (s.modLg k f).ports = s.ports := (rfl)
@[simp] theorem State.modLg_health (s : State) (k : Nat) (f : Lg → Lg) : (s.modLg k f).health = s.health := (rfl)
@[simp] theorem State.modLg_gce (s : State) (k : Nat) (f : Lg → Lg) : (s.modLg k f).gce = s.gce := (rfl)
@[simp] theorem State.modLg_adc (s : State) (k : Nat) (f : Lg → Lg) : (s.modLg k f).adc = s.adc := (rfl)
@[simp] theorem State.modLg_fad (s : State) (k : Nat) (f : Lg → Lg) : (s.modLg k f).fad = s.fad := (rfl)
@[simp] theorem State.modLg_mill (s : State) (k : Nat) (f : Lg → Lg) : (s.modLg k f).mill = s.mill := (rfl)
@[simp] theorem State.modLg_pair (s : State) (k : Nat) (f : Lg → Lg) : (s.modLg k f).pair = s.pair := (rfl)
@[simp] theorem State.modLg_cap (s : State) (k : Nat) (f : Lg → Lg) : (s.modLg k f).cap = s.cap := (rfl)
@[simp] theorem State.modLg_pmu (s : State) (k : Nat) (f : Lg → Lg) : (s.modLg k f).pmu = s.pmu := (rfl)
@[simp] theorem State.modLg_saf (s : State) (k : Nat) (f : Lg → Lg) : (s.modLg k f).saf = s.saf := (rfl)
@[simp] theorem State.modLg_wch (s : State) (k : Nat) (f : Lg → Lg) : (s.modLg k f).wch = s.wch := (rfl)
@[simp] theorem State.modLg_book (s : State) (k : Nat) (f : Lg → Lg) : (s.modLg k f).book = s.book := (rfl)
@[simp] theorem State.modLg_thm (s : State) (k : Nat) (f : Lg → Lg) : (s.modLg k f).thm = s.thm := (rfl)
@[simp] theorem State.modLg_regs (s : State) (k : Nat) (f : Lg → Lg) : (s.modLg k f).regs = s.regs := (rfl)
@[simp] theorem State.modLg_hiLatch (s : State) (k : Nat) (f : Lg → Lg) : (s.modLg k f).hiLatch = s.hiLatch := (rfl)
@[simp] theorem State.modLg_rdata (s : State) (k : Nat) (f : Lg → Lg) : (s.modLg k f).rdata = s.rdata := (rfl)
@[simp] theorem State.modLg_hostMem (s : State) (k : Nat) (f : Lg → Lg) : (s.modLg k f).hostMem = s.hostMem := (rfl)
@[simp] theorem State.modLg_reqs (s : State) (k : Nat) (f : Lg → Lg) : (s.modLg k f).reqs = s.reqs := (rfl)
@[simp] theorem State.modLg_freeCtr (s : State) (k : Nat) (f : Lg → Lg) : (s.modLg k f).freeCtr = s.freeCtr := (rfl)
@[simp] theorem State.modLg_pending (s : State) (k : Nat) (f : Lg → Lg) : (s.modLg k f).pending = s.pending := (rfl)
@[simp] theorem State.modAcal_clk (s : State) (k : Nat) (f : Cal → Cal) : (s.modAcal k f).clk = s.clk := (rfl)
@[simp] theorem State.modAcal_sec (s : State) (k : Nat) (f : Cal → Cal) : (s.modAcal k f).sec = s.sec := (rfl)
@[simp] theorem State.modAcal_mode (s : State) (k : Nat) (f : Cal → Cal) : (s.modAcal k f).mode = s.mode := (rfl)
@[simp] theorem State.modAcal_host (s : State) (k : Nat) (f : Cal → Cal) : (s.modAcal k f).host = s.host := (rfl)
@[simp] theorem State.modAcal_tim (s : State) (k : Nat) (f : Cal → Cal) : (s.modAcal k f).tim = s.tim := (rfl)
@[simp] theorem State.modAcal_bell (s : State) (k : Nat) (f : Cal → Cal) : (s.modAcal k f).bell = s.bell := (rfl)
@[simp] theorem State.modAcal_ports (s : State) (k : Nat) (f : Cal → Cal) : (s.modAcal k f).ports = s.ports := (rfl)
@[simp] theorem State.modAcal_health (s : State) (k : Nat) (f : Cal → Cal) : (s.modAcal k f).health = s.health := (rfl)
@[simp] theorem State.modAcal_gce (s : State) (k : Nat) (f : Cal → Cal) : (s.modAcal k f).gce = s.gce := (rfl)
@[simp] theorem State.modAcal_leg (s : State) (k : Nat) (f : Cal → Cal) : (s.modAcal k f).leg = s.leg := (rfl)
@[simp] theorem State.modAcal_fad (s : State) (k : Nat) (f : Cal → Cal) : (s.modAcal k f).fad = s.fad := (rfl)
@[simp] theorem State.modAcal_mill (s : State) (k : Nat) (f : Cal → Cal) : (s.modAcal k f).mill = s.mill := (rfl)
@[simp] theorem State.modAcal_pair (s : State) (k : Nat) (f : Cal → Cal) : (s.modAcal k f).pair = s.pair := (rfl)
@[simp] theorem State.modAcal_cap (s : State) (k : Nat) (f : Cal → Cal) : (s.modAcal k f).cap = s.cap := (rfl)
@[simp] theorem State.modAcal_pmu (s : State) (k : Nat) (f : Cal → Cal) : (s.modAcal k f).pmu = s.pmu := (rfl)
@[simp] theorem State.modAcal_saf (s : State) (k : Nat) (f : Cal → Cal) : (s.modAcal k f).saf = s.saf := (rfl)
@[simp] theorem State.modAcal_wch (s : State) (k : Nat) (f : Cal → Cal) : (s.modAcal k f).wch = s.wch := (rfl)
@[simp] theorem State.modAcal_book (s : State) (k : Nat) (f : Cal → Cal) : (s.modAcal k f).book = s.book := (rfl)
@[simp] theorem State.modAcal_thm (s : State) (k : Nat) (f : Cal → Cal) : (s.modAcal k f).thm = s.thm := (rfl)
@[simp] theorem State.modAcal_regs (s : State) (k : Nat) (f : Cal → Cal) : (s.modAcal k f).regs = s.regs := (rfl)
@[simp] theorem State.modAcal_hiLatch (s : State) (k : Nat) (f : Cal → Cal) : (s.modAcal k f).hiLatch = s.hiLatch := (rfl)
@[simp] theorem State.modAcal_rdata (s : State) (k : Nat) (f : Cal → Cal) : (s.modAcal k f).rdata = s.rdata := (rfl)
@[simp] theorem State.modAcal_hostMem (s : State) (k : Nat) (f : Cal → Cal) : (s.modAcal k f).hostMem = s.hostMem := (rfl)
@[simp] theorem State.modAcal_reqs (s : State) (k : Nat) (f : Cal → Cal) : (s.modAcal k f).reqs = s.reqs := (rfl)
@[simp] theorem State.modAcal_freeCtr (s : State) (k : Nat) (f : Cal → Cal) : (s.modAcal k f).freeCtr = s.freeCtr := (rfl)
@[simp] theorem State.modAcal_pending (s : State) (k : Nat) (f : Cal → Cal) : (s.modAcal k f).pending = s.pending := (rfl)
@[simp] theorem State.modAres_clk (s : State) (k : Nat) (f : ConvRes → ConvRes) : (s.modAres k f).clk = s.clk := (rfl)
@[simp] theorem State.modAres_sec (s : State) (k : Nat) (f : ConvRes → ConvRes) : (s.modAres k f).sec = s.sec := (rfl)
@[simp] theorem State.modAres_mode (s : State) (k : Nat) (f : ConvRes → ConvRes) : (s.modAres k f).mode = s.mode := (rfl)
@[simp] theorem State.modAres_host (s : State) (k : Nat) (f : ConvRes → ConvRes) : (s.modAres k f).host = s.host := (rfl)
@[simp] theorem State.modAres_tim (s : State) (k : Nat) (f : ConvRes → ConvRes) : (s.modAres k f).tim = s.tim := (rfl)
@[simp] theorem State.modAres_bell (s : State) (k : Nat) (f : ConvRes → ConvRes) : (s.modAres k f).bell = s.bell := (rfl)
@[simp] theorem State.modAres_ports (s : State) (k : Nat) (f : ConvRes → ConvRes) : (s.modAres k f).ports = s.ports := (rfl)
@[simp] theorem State.modAres_health (s : State) (k : Nat) (f : ConvRes → ConvRes) : (s.modAres k f).health = s.health := (rfl)
@[simp] theorem State.modAres_gce (s : State) (k : Nat) (f : ConvRes → ConvRes) : (s.modAres k f).gce = s.gce := (rfl)
@[simp] theorem State.modAres_leg (s : State) (k : Nat) (f : ConvRes → ConvRes) : (s.modAres k f).leg = s.leg := (rfl)
@[simp] theorem State.modAres_fad (s : State) (k : Nat) (f : ConvRes → ConvRes) : (s.modAres k f).fad = s.fad := (rfl)
@[simp] theorem State.modAres_mill (s : State) (k : Nat) (f : ConvRes → ConvRes) : (s.modAres k f).mill = s.mill := (rfl)
@[simp] theorem State.modAres_pair (s : State) (k : Nat) (f : ConvRes → ConvRes) : (s.modAres k f).pair = s.pair := (rfl)
@[simp] theorem State.modAres_cap (s : State) (k : Nat) (f : ConvRes → ConvRes) : (s.modAres k f).cap = s.cap := (rfl)
@[simp] theorem State.modAres_pmu (s : State) (k : Nat) (f : ConvRes → ConvRes) : (s.modAres k f).pmu = s.pmu := (rfl)
@[simp] theorem State.modAres_saf (s : State) (k : Nat) (f : ConvRes → ConvRes) : (s.modAres k f).saf = s.saf := (rfl)
@[simp] theorem State.modAres_wch (s : State) (k : Nat) (f : ConvRes → ConvRes) : (s.modAres k f).wch = s.wch := (rfl)
@[simp] theorem State.modAres_book (s : State) (k : Nat) (f : ConvRes → ConvRes) : (s.modAres k f).book = s.book := (rfl)
@[simp] theorem State.modAres_thm (s : State) (k : Nat) (f : ConvRes → ConvRes) : (s.modAres k f).thm = s.thm := (rfl)
@[simp] theorem State.modAres_regs (s : State) (k : Nat) (f : ConvRes → ConvRes) : (s.modAres k f).regs = s.regs := (rfl)
@[simp] theorem State.modAres_hiLatch (s : State) (k : Nat) (f : ConvRes → ConvRes) : (s.modAres k f).hiLatch = s.hiLatch := (rfl)
@[simp] theorem State.modAres_rdata (s : State) (k : Nat) (f : ConvRes → ConvRes) : (s.modAres k f).rdata = s.rdata := (rfl)
@[simp] theorem State.modAres_hostMem (s : State) (k : Nat) (f : ConvRes → ConvRes) : (s.modAres k f).hostMem = s.hostMem := (rfl)
@[simp] theorem State.modAres_reqs (s : State) (k : Nat) (f : ConvRes → ConvRes) : (s.modAres k f).reqs = s.reqs := (rfl)
@[simp] theorem State.modAres_freeCtr (s : State) (k : Nat) (f : ConvRes → ConvRes) : (s.modAres k f).freeCtr = s.freeCtr := (rfl)
@[simp] theorem State.modAres_pending (s : State) (k : Nat) (f : ConvRes → ConvRes) : (s.modAres k f).pending = s.pending := (rfl)
@[simp] theorem State.modAavg_clk (s : State) (k : Nat) (f : Avg → Avg) : (s.modAavg k f).clk = s.clk := (rfl)
@[simp] theorem State.modAavg_sec (s : State) (k : Nat) (f : Avg → Avg) : (s.modAavg k f).sec = s.sec := (rfl)
@[simp] theorem State.modAavg_mode (s : State) (k : Nat) (f : Avg → Avg) : (s.modAavg k f).mode = s.mode := (rfl)
@[simp] theorem State.modAavg_host (s : State) (k : Nat) (f : Avg → Avg) : (s.modAavg k f).host = s.host := (rfl)
@[simp] theorem State.modAavg_tim (s : State) (k : Nat) (f : Avg → Avg) : (s.modAavg k f).tim = s.tim := (rfl)
@[simp] theorem State.modAavg_bell (s : State) (k : Nat) (f : Avg → Avg) : (s.modAavg k f).bell = s.bell := (rfl)
@[simp] theorem State.modAavg_ports (s : State) (k : Nat) (f : Avg → Avg) : (s.modAavg k f).ports = s.ports := (rfl)
@[simp] theorem State.modAavg_health (s : State) (k : Nat) (f : Avg → Avg) : (s.modAavg k f).health = s.health := (rfl)
@[simp] theorem State.modAavg_gce (s : State) (k : Nat) (f : Avg → Avg) : (s.modAavg k f).gce = s.gce := (rfl)
@[simp] theorem State.modAavg_leg (s : State) (k : Nat) (f : Avg → Avg) : (s.modAavg k f).leg = s.leg := (rfl)
@[simp] theorem State.modAavg_fad (s : State) (k : Nat) (f : Avg → Avg) : (s.modAavg k f).fad = s.fad := (rfl)
@[simp] theorem State.modAavg_mill (s : State) (k : Nat) (f : Avg → Avg) : (s.modAavg k f).mill = s.mill := (rfl)
@[simp] theorem State.modAavg_pair (s : State) (k : Nat) (f : Avg → Avg) : (s.modAavg k f).pair = s.pair := (rfl)
@[simp] theorem State.modAavg_cap (s : State) (k : Nat) (f : Avg → Avg) : (s.modAavg k f).cap = s.cap := (rfl)
@[simp] theorem State.modAavg_pmu (s : State) (k : Nat) (f : Avg → Avg) : (s.modAavg k f).pmu = s.pmu := (rfl)
@[simp] theorem State.modAavg_saf (s : State) (k : Nat) (f : Avg → Avg) : (s.modAavg k f).saf = s.saf := (rfl)
@[simp] theorem State.modAavg_wch (s : State) (k : Nat) (f : Avg → Avg) : (s.modAavg k f).wch = s.wch := (rfl)
@[simp] theorem State.modAavg_book (s : State) (k : Nat) (f : Avg → Avg) : (s.modAavg k f).book = s.book := (rfl)
@[simp] theorem State.modAavg_thm (s : State) (k : Nat) (f : Avg → Avg) : (s.modAavg k f).thm = s.thm := (rfl)
@[simp] theorem State.modAavg_regs (s : State) (k : Nat) (f : Avg → Avg) : (s.modAavg k f).regs = s.regs := (rfl)
@[simp] theorem State.modAavg_hiLatch (s : State) (k : Nat) (f : Avg → Avg) : (s.modAavg k f).hiLatch = s.hiLatch := (rfl)
@[simp] theorem State.modAavg_rdata (s : State) (k : Nat) (f : Avg → Avg) : (s.modAavg k f).rdata = s.rdata := (rfl)
@[simp] theorem State.modAavg_hostMem (s : State) (k : Nat) (f : Avg → Avg) : (s.modAavg k f).hostMem = s.hostMem := (rfl)
@[simp] theorem State.modAavg_reqs (s : State) (k : Nat) (f : Avg → Avg) : (s.modAavg k f).reqs = s.reqs := (rfl)
@[simp] theorem State.modAavg_freeCtr (s : State) (k : Nat) (f : Avg → Avg) : (s.modAavg k f).freeCtr = s.freeCtr := (rfl)
@[simp] theorem State.modAavg_pending (s : State) (k : Nat) (f : Avg → Avg) : (s.modAavg k f).pending = s.pending := (rfl)
@[simp] theorem State.modFcal_clk (s : State) (k : Nat) (f : Cal → Cal) : (s.modFcal k f).clk = s.clk := (rfl)
@[simp] theorem State.modFcal_sec (s : State) (k : Nat) (f : Cal → Cal) : (s.modFcal k f).sec = s.sec := (rfl)
@[simp] theorem State.modFcal_mode (s : State) (k : Nat) (f : Cal → Cal) : (s.modFcal k f).mode = s.mode := (rfl)
@[simp] theorem State.modFcal_host (s : State) (k : Nat) (f : Cal → Cal) : (s.modFcal k f).host = s.host := (rfl)
@[simp] theorem State.modFcal_tim (s : State) (k : Nat) (f : Cal → Cal) : (s.modFcal k f).tim = s.tim := (rfl)
@[simp] theorem State.modFcal_bell (s : State) (k : Nat) (f : Cal → Cal) : (s.modFcal k f).bell = s.bell := (rfl)
@[simp] theorem State.modFcal_ports (s : State) (k : Nat) (f : Cal → Cal) : (s.modFcal k f).ports = s.ports := (rfl)
@[simp] theorem State.modFcal_health (s : State) (k : Nat) (f : Cal → Cal) : (s.modFcal k f).health = s.health := (rfl)
@[simp] theorem State.modFcal_gce (s : State) (k : Nat) (f : Cal → Cal) : (s.modFcal k f).gce = s.gce := (rfl)
@[simp] theorem State.modFcal_leg (s : State) (k : Nat) (f : Cal → Cal) : (s.modFcal k f).leg = s.leg := (rfl)
@[simp] theorem State.modFcal_adc (s : State) (k : Nat) (f : Cal → Cal) : (s.modFcal k f).adc = s.adc := (rfl)
@[simp] theorem State.modFcal_mill (s : State) (k : Nat) (f : Cal → Cal) : (s.modFcal k f).mill = s.mill := (rfl)
@[simp] theorem State.modFcal_pair (s : State) (k : Nat) (f : Cal → Cal) : (s.modFcal k f).pair = s.pair := (rfl)
@[simp] theorem State.modFcal_cap (s : State) (k : Nat) (f : Cal → Cal) : (s.modFcal k f).cap = s.cap := (rfl)
@[simp] theorem State.modFcal_pmu (s : State) (k : Nat) (f : Cal → Cal) : (s.modFcal k f).pmu = s.pmu := (rfl)
@[simp] theorem State.modFcal_saf (s : State) (k : Nat) (f : Cal → Cal) : (s.modFcal k f).saf = s.saf := (rfl)
@[simp] theorem State.modFcal_wch (s : State) (k : Nat) (f : Cal → Cal) : (s.modFcal k f).wch = s.wch := (rfl)
@[simp] theorem State.modFcal_book (s : State) (k : Nat) (f : Cal → Cal) : (s.modFcal k f).book = s.book := (rfl)
@[simp] theorem State.modFcal_thm (s : State) (k : Nat) (f : Cal → Cal) : (s.modFcal k f).thm = s.thm := (rfl)
@[simp] theorem State.modFcal_regs (s : State) (k : Nat) (f : Cal → Cal) : (s.modFcal k f).regs = s.regs := (rfl)
@[simp] theorem State.modFcal_hiLatch (s : State) (k : Nat) (f : Cal → Cal) : (s.modFcal k f).hiLatch = s.hiLatch := (rfl)
@[simp] theorem State.modFcal_rdata (s : State) (k : Nat) (f : Cal → Cal) : (s.modFcal k f).rdata = s.rdata := (rfl)
@[simp] theorem State.modFcal_hostMem (s : State) (k : Nat) (f : Cal → Cal) : (s.modFcal k f).hostMem = s.hostMem := (rfl)
@[simp] theorem State.modFcal_reqs (s : State) (k : Nat) (f : Cal → Cal) : (s.modFcal k f).reqs = s.reqs := (rfl)
@[simp] theorem State.modFcal_freeCtr (s : State) (k : Nat) (f : Cal → Cal) : (s.modFcal k f).freeCtr = s.freeCtr := (rfl)
@[simp] theorem State.modFcal_pending (s : State) (k : Nat) (f : Cal → Cal) : (s.modFcal k f).pending = s.pending := (rfl)
@[simp] theorem State.modFres_clk (s : State) (k : Nat) (f : ConvRes → ConvRes) : (s.modFres k f).clk = s.clk := (rfl)
@[simp] theorem State.modFres_sec (s : State) (k : Nat) (f : ConvRes → ConvRes) : (s.modFres k f).sec = s.sec := (rfl)
@[simp] theorem State.modFres_mode (s : State) (k : Nat) (f : ConvRes → ConvRes) : (s.modFres k f).mode = s.mode := (rfl)
@[simp] theorem State.modFres_host (s : State) (k : Nat) (f : ConvRes → ConvRes) : (s.modFres k f).host = s.host := (rfl)
@[simp] theorem State.modFres_tim (s : State) (k : Nat) (f : ConvRes → ConvRes) : (s.modFres k f).tim = s.tim := (rfl)
@[simp] theorem State.modFres_bell (s : State) (k : Nat) (f : ConvRes → ConvRes) : (s.modFres k f).bell = s.bell := (rfl)
@[simp] theorem State.modFres_ports (s : State) (k : Nat) (f : ConvRes → ConvRes) : (s.modFres k f).ports = s.ports := (rfl)
@[simp] theorem State.modFres_health (s : State) (k : Nat) (f : ConvRes → ConvRes) : (s.modFres k f).health = s.health := (rfl)
@[simp] theorem State.modFres_gce (s : State) (k : Nat) (f : ConvRes → ConvRes) : (s.modFres k f).gce = s.gce := (rfl)
@[simp] theorem State.modFres_leg (s : State) (k : Nat) (f : ConvRes → ConvRes) : (s.modFres k f).leg = s.leg := (rfl)
@[simp] theorem State.modFres_adc (s : State) (k : Nat) (f : ConvRes → ConvRes) : (s.modFres k f).adc = s.adc := (rfl)
@[simp] theorem State.modFres_mill (s : State) (k : Nat) (f : ConvRes → ConvRes) : (s.modFres k f).mill = s.mill := (rfl)
@[simp] theorem State.modFres_pair (s : State) (k : Nat) (f : ConvRes → ConvRes) : (s.modFres k f).pair = s.pair := (rfl)
@[simp] theorem State.modFres_cap (s : State) (k : Nat) (f : ConvRes → ConvRes) : (s.modFres k f).cap = s.cap := (rfl)
@[simp] theorem State.modFres_pmu (s : State) (k : Nat) (f : ConvRes → ConvRes) : (s.modFres k f).pmu = s.pmu := (rfl)
@[simp] theorem State.modFres_saf (s : State) (k : Nat) (f : ConvRes → ConvRes) : (s.modFres k f).saf = s.saf := (rfl)
@[simp] theorem State.modFres_wch (s : State) (k : Nat) (f : ConvRes → ConvRes) : (s.modFres k f).wch = s.wch := (rfl)
@[simp] theorem State.modFres_book (s : State) (k : Nat) (f : ConvRes → ConvRes) : (s.modFres k f).book = s.book := (rfl)
@[simp] theorem State.modFres_thm (s : State) (k : Nat) (f : ConvRes → ConvRes) : (s.modFres k f).thm = s.thm := (rfl)
@[simp] theorem State.modFres_regs (s : State) (k : Nat) (f : ConvRes → ConvRes) : (s.modFres k f).regs = s.regs := (rfl)
@[simp] theorem State.modFres_hiLatch (s : State) (k : Nat) (f : ConvRes → ConvRes) : (s.modFres k f).hiLatch = s.hiLatch := (rfl)
@[simp] theorem State.modFres_rdata (s : State) (k : Nat) (f : ConvRes → ConvRes) : (s.modFres k f).rdata = s.rdata := (rfl)
@[simp] theorem State.modFres_hostMem (s : State) (k : Nat) (f : ConvRes → ConvRes) : (s.modFres k f).hostMem = s.hostMem := (rfl)
@[simp] theorem State.modFres_reqs (s : State) (k : Nat) (f : ConvRes → ConvRes) : (s.modFres k f).reqs = s.reqs := (rfl)
@[simp] theorem State.modFres_freeCtr (s : State) (k : Nat) (f : ConvRes → ConvRes) : (s.modFres k f).freeCtr = s.freeCtr := (rfl)
@[simp] theorem State.modFres_pending (s : State) (k : Nat) (f : ConvRes → ConvRes) : (s.modFres k f).pending = s.pending := (rfl)
@[simp] theorem State.modTask_clk (s : State) (k : Nat) (f : MTask → MTask) : (s.modTask k f).clk = s.clk := (rfl)
@[simp] theorem State.modTask_sec (s : State) (k : Nat) (f : MTask → MTask) : (s.modTask k f).sec = s.sec := (rfl)
@[simp] theorem State.modTask_mode (s : State) (k : Nat) (f : MTask → MTask) : (s.modTask k f).mode = s.mode := (rfl)
@[simp] theorem State.modTask_host (s : State) (k : Nat) (f : MTask → MTask) : (s.modTask k f).host = s.host := (rfl)
@[simp] theorem State.modTask_tim (s : State) (k : Nat) (f : MTask → MTask) : (s.modTask k f).tim = s.tim := (rfl)
@[simp] theorem State.modTask_bell (s : State) (k : Nat) (f : MTask → MTask) : (s.modTask k f).bell = s.bell := (rfl)
@[simp] theorem State.modTask_ports (s : State) (k : Nat) (f : MTask → MTask) : (s.modTask k f).ports = s.ports := (rfl)
@[simp] theorem State.modTask_health (s : State) (k : Nat) (f : MTask → MTask) : (s.modTask k f).health = s.health := (rfl)
@[simp] theorem State.modTask_gce (s : State) (k : Nat) (f : MTask → MTask) : (s.modTask k f).gce = s.gce := (rfl)
@[simp] theorem State.modTask_leg (s : State) (k : Nat) (f : MTask → MTask) : (s.modTask k f).leg = s.leg := (rfl)
@[simp] theorem State.modTask_adc (s : State) (k : Nat) (f : MTask → MTask) : (s.modTask k f).adc = s.adc := (rfl)
@[simp] theorem State.modTask_fad (s : State) (k : Nat) (f : MTask → MTask) : (s.modTask k f).fad = s.fad := (rfl)
@[simp] theorem State.modTask_pair (s : State) (k : Nat) (f : MTask → MTask) : (s.modTask k f).pair = s.pair := (rfl)
@[simp] theorem State.modTask_cap (s : State) (k : Nat) (f : MTask → MTask) : (s.modTask k f).cap = s.cap := (rfl)
@[simp] theorem State.modTask_pmu (s : State) (k : Nat) (f : MTask → MTask) : (s.modTask k f).pmu = s.pmu := (rfl)
@[simp] theorem State.modTask_saf (s : State) (k : Nat) (f : MTask → MTask) : (s.modTask k f).saf = s.saf := (rfl)
@[simp] theorem State.modTask_wch (s : State) (k : Nat) (f : MTask → MTask) : (s.modTask k f).wch = s.wch := (rfl)
@[simp] theorem State.modTask_book (s : State) (k : Nat) (f : MTask → MTask) : (s.modTask k f).book = s.book := (rfl)
@[simp] theorem State.modTask_thm (s : State) (k : Nat) (f : MTask → MTask) : (s.modTask k f).thm = s.thm := (rfl)
@[simp] theorem State.modTask_regs (s : State) (k : Nat) (f : MTask → MTask) : (s.modTask k f).regs = s.regs := (rfl)
@[simp] theorem State.modTask_hiLatch (s : State) (k : Nat) (f : MTask → MTask) : (s.modTask k f).hiLatch = s.hiLatch := (rfl)
@[simp] theorem State.modTask_rdata (s : State) (k : Nat) (f : MTask → MTask) : (s.modTask k f).rdata = s.rdata := (rfl)
@[simp] theorem State.modTask_hostMem (s : State) (k : Nat) (f : MTask → MTask) : (s.modTask k f).hostMem = s.hostMem := (rfl)
@[simp] theorem State.modTask_reqs (s : State) (k : Nat) (f : MTask → MTask) : (s.modTask k f).reqs = s.reqs := (rfl)
@[simp] theorem State.modTask_freeCtr (s : State) (k : Nat) (f : MTask → MTask) : (s.modTask k f).freeCtr = s.freeCtr := (rfl)
@[simp] theorem State.modTask_pending (s : State) (k : Nat) (f : MTask → MTask) : (s.modTask k f).pending = s.pending := (rfl)
@[simp] theorem State.modUnit_clk (s : State) (k : Nat) (f : CapUnit → CapUnit) : (s.modUnit k f).clk = s.clk := (rfl)
@[simp] theorem State.modUnit_sec (s : State) (k : Nat) (f : CapUnit → CapUnit) : (s.modUnit k f).sec = s.sec := (rfl)
@[simp] theorem State.modUnit_mode (s : State) (k : Nat) (f : CapUnit → CapUnit) : (s.modUnit k f).mode = s.mode := (rfl)
@[simp] theorem State.modUnit_host (s : State) (k : Nat) (f : CapUnit → CapUnit) : (s.modUnit k f).host = s.host := (rfl)
@[simp] theorem State.modUnit_tim (s : State) (k : Nat) (f : CapUnit → CapUnit) : (s.modUnit k f).tim = s.tim := (rfl)
@[simp] theorem State.modUnit_bell (s : State) (k : Nat) (f : CapUnit → CapUnit) : (s.modUnit k f).bell = s.bell := (rfl)
@[simp] theorem State.modUnit_ports (s : State) (k : Nat) (f : CapUnit → CapUnit) : (s.modUnit k f).ports = s.ports := (rfl)
@[simp] theorem State.modUnit_health (s : State) (k : Nat) (f : CapUnit → CapUnit) : (s.modUnit k f).health = s.health := (rfl)
@[simp] theorem State.modUnit_gce (s : State) (k : Nat) (f : CapUnit → CapUnit) : (s.modUnit k f).gce = s.gce := (rfl)
@[simp] theorem State.modUnit_leg (s : State) (k : Nat) (f : CapUnit → CapUnit) : (s.modUnit k f).leg = s.leg := (rfl)
@[simp] theorem State.modUnit_adc (s : State) (k : Nat) (f : CapUnit → CapUnit) : (s.modUnit k f).adc = s.adc := (rfl)
@[simp] theorem State.modUnit_fad (s : State) (k : Nat) (f : CapUnit → CapUnit) : (s.modUnit k f).fad = s.fad := (rfl)
@[simp] theorem State.modUnit_mill (s : State) (k : Nat) (f : CapUnit → CapUnit) : (s.modUnit k f).mill = s.mill := (rfl)
@[simp] theorem State.modUnit_pair (s : State) (k : Nat) (f : CapUnit → CapUnit) : (s.modUnit k f).pair = s.pair := (rfl)
@[simp] theorem State.modUnit_pmu (s : State) (k : Nat) (f : CapUnit → CapUnit) : (s.modUnit k f).pmu = s.pmu := (rfl)
@[simp] theorem State.modUnit_saf (s : State) (k : Nat) (f : CapUnit → CapUnit) : (s.modUnit k f).saf = s.saf := (rfl)
@[simp] theorem State.modUnit_wch (s : State) (k : Nat) (f : CapUnit → CapUnit) : (s.modUnit k f).wch = s.wch := (rfl)
@[simp] theorem State.modUnit_book (s : State) (k : Nat) (f : CapUnit → CapUnit) : (s.modUnit k f).book = s.book := (rfl)
@[simp] theorem State.modUnit_thm (s : State) (k : Nat) (f : CapUnit → CapUnit) : (s.modUnit k f).thm = s.thm := (rfl)
@[simp] theorem State.modUnit_regs (s : State) (k : Nat) (f : CapUnit → CapUnit) : (s.modUnit k f).regs = s.regs := (rfl)
@[simp] theorem State.modUnit_hiLatch (s : State) (k : Nat) (f : CapUnit → CapUnit) : (s.modUnit k f).hiLatch = s.hiLatch := (rfl)
@[simp] theorem State.modUnit_rdata (s : State) (k : Nat) (f : CapUnit → CapUnit) : (s.modUnit k f).rdata = s.rdata := (rfl)
@[simp] theorem State.modUnit_hostMem (s : State) (k : Nat) (f : CapUnit → CapUnit) : (s.modUnit k f).hostMem = s.hostMem := (rfl)
@[simp] theorem State.modUnit_reqs (s : State) (k : Nat) (f : CapUnit → CapUnit) : (s.modUnit k f).reqs = s.reqs := (rfl)
@[simp] theorem State.modUnit_freeCtr (s : State) (k : Nat) (f : CapUnit → CapUnit) : (s.modUnit k f).freeCtr = s.freeCtr := (rfl)
@[simp] theorem State.modUnit_pending (s : State) (k : Nat) (f : CapUnit → CapUnit) : (s.modUnit k f).pending = s.pending := (rfl)
@[simp] theorem State.modAtrg_clk (s : State) (k : Nat) (f : Atrg → Atrg) : (s.modAtrg k f).clk = s.clk := (rfl)
@[simp] theorem State.modAtrg_sec (s : State) (k : Nat) (f : Atrg → Atrg) : (s.modAtrg k f).sec = s.sec := (rfl)
@[simp] theorem State.modAtrg_mode (s : State) (k : Nat) (f : Atrg → Atrg) : (s.modAtrg k f).mode = s.mode := (rfl)
@[simp] theorem State.modAtrg_host (s : State) (k : Nat) (f : Atrg → Atrg) : (s.modAtrg k f).host = s.host := (rfl)
@[simp] theorem State.modAtrg_tim (s : State) (k : Nat) (f : Atrg → Atrg) : (s.modAtrg k f).tim = s.tim := (rfl)
@[simp] theorem State.modAtrg_bell (s : State) (k : Nat) (f : Atrg → Atrg) : (s.modAtrg k f).bell = s.bell := (rfl)
@[simp] theorem State.modAtrg_ports (s : State) (k : Nat) (f : Atrg → Atrg) : (s.modAtrg k f).ports = s.ports := (rfl)
@[simp] theorem State.modAtrg_health (s : State) (k : Nat) (f : Atrg → Atrg) : (s.modAtrg k f).health = s.health := (rfl)
@[simp] theorem State.modAtrg_gce (s : State) (k : Nat) (f : Atrg → Atrg) : (s.modAtrg k f).gce = s.gce := (rfl)
@[simp] theorem State.modAtrg_leg (s : State) (k : Nat) (f : Atrg → Atrg) : (s.modAtrg k f).leg = s.leg := (rfl)
@[simp] theorem State.modAtrg_adc (s : State) (k : Nat) (f : Atrg → Atrg) : (s.modAtrg k f).adc = s.adc := (rfl)
@[simp] theorem State.modAtrg_fad (s : State) (k : Nat) (f : Atrg → Atrg) : (s.modAtrg k f).fad = s.fad := (rfl)
@[simp] theorem State.modAtrg_mill (s : State) (k : Nat) (f : Atrg → Atrg) : (s.modAtrg k f).mill = s.mill := (rfl)
@[simp] theorem State.modAtrg_pair (s : State) (k : Nat) (f : Atrg → Atrg) : (s.modAtrg k f).pair = s.pair := (rfl)
@[simp] theorem State.modAtrg_pmu (s : State) (k : Nat) (f : Atrg → Atrg) : (s.modAtrg k f).pmu = s.pmu := (rfl)
@[simp] theorem State.modAtrg_saf (s : State) (k : Nat) (f : Atrg → Atrg) : (s.modAtrg k f).saf = s.saf := (rfl)
@[simp] theorem State.modAtrg_wch (s : State) (k : Nat) (f : Atrg → Atrg) : (s.modAtrg k f).wch = s.wch := (rfl)
@[simp] theorem State.modAtrg_book (s : State) (k : Nat) (f : Atrg → Atrg) : (s.modAtrg k f).book = s.book := (rfl)
@[simp] theorem State.modAtrg_thm (s : State) (k : Nat) (f : Atrg → Atrg) : (s.modAtrg k f).thm = s.thm := (rfl)
@[simp] theorem State.modAtrg_regs (s : State) (k : Nat) (f : Atrg → Atrg) : (s.modAtrg k f).regs = s.regs := (rfl)
@[simp] theorem State.modAtrg_hiLatch (s : State) (k : Nat) (f : Atrg → Atrg) : (s.modAtrg k f).hiLatch = s.hiLatch := (rfl)
@[simp] theorem State.modAtrg_rdata (s : State) (k : Nat) (f : Atrg → Atrg) : (s.modAtrg k f).rdata = s.rdata := (rfl)
@[simp] theorem State.modAtrg_hostMem (s : State) (k : Nat) (f : Atrg → Atrg) : (s.modAtrg k f).hostMem = s.hostMem := (rfl)
@[simp] theorem State.modAtrg_reqs (s : State) (k : Nat) (f : Atrg → Atrg) : (s.modAtrg k f).reqs = s.reqs := (rfl)
@[simp] theorem State.modAtrg_freeCtr (s : State) (k : Nat) (f : Atrg → Atrg) : (s.modAtrg k f).freeCtr = s.freeCtr := (rfl)
@[simp] theorem State.modAtrg_pending (s : State) (k : Nat) (f : Atrg → Atrg) : (s.modAtrg k f).pending = s.pending := (rfl)
@[simp] theorem State.modSeqe_clk (s : State) (k : Nat) (f : SeqE → SeqE) : (s.modSeqe k f).clk = s.clk := (rfl)
@[simp] theorem State.modSeqe_sec (s : State) (k : Nat) (f : SeqE → SeqE) : (s.modSeqe k f).sec = s.sec := (rfl)
@[simp] theorem State.modSeqe_mode (s : State) (k : Nat) (f : SeqE → SeqE) : (s.modSeqe k f).mode = s.mode := (rfl)
@[simp] theorem State.modSeqe_host (s : State) (k : Nat) (f : SeqE → SeqE) : (s.modSeqe k f).host = s.host := (rfl)
@[simp] theorem State.modSeqe_tim (s : State) (k : Nat) (f : SeqE → SeqE) : (s.modSeqe k f).tim = s.tim := (rfl)
@[simp] theorem State.modSeqe_bell (s : State) (k : Nat) (f : SeqE → SeqE) : (s.modSeqe k f).bell = s.bell := (rfl)
@[simp] theorem State.modSeqe_ports (s : State) (k : Nat) (f : SeqE → SeqE) : (s.modSeqe k f).ports = s.ports := (rfl)
@[simp] theorem State.modSeqe_health (s : State) (k : Nat) (f : SeqE → SeqE) : (s.modSeqe k f).health = s.health := (rfl)
@[simp] theorem State.modSeqe_gce (s : State) (k : Nat) (f : SeqE → SeqE) : (s.modSeqe k f).gce = s.gce := (rfl)
@[simp] theorem State.modSeqe_leg (s : State) (k : Nat) (f : SeqE → SeqE) : (s.modSeqe k f).leg = s.leg := (rfl)
@[simp] theorem State.modSeqe_adc (s : State) (k : Nat) (f : SeqE → SeqE) : (s.modSeqe k f).adc = s.adc := (rfl)
@[simp] theorem State.modSeqe_fad (s : State) (k : Nat) (f : SeqE → SeqE) : (s.modSeqe k f).fad = s.fad := (rfl)
@[simp] theorem State.modSeqe_mill (s : State) (k : Nat) (f : SeqE → SeqE) : (s.modSeqe k f).mill = s.mill := (rfl)
@[simp] theorem State.modSeqe_pair (s : State) (k : Nat) (f : SeqE → SeqE) : (s.modSeqe k f).pair = s.pair := (rfl)
@[simp] theorem State.modSeqe_pmu (s : State) (k : Nat) (f : SeqE → SeqE) : (s.modSeqe k f).pmu = s.pmu := (rfl)
@[simp] theorem State.modSeqe_saf (s : State) (k : Nat) (f : SeqE → SeqE) : (s.modSeqe k f).saf = s.saf := (rfl)
@[simp] theorem State.modSeqe_wch (s : State) (k : Nat) (f : SeqE → SeqE) : (s.modSeqe k f).wch = s.wch := (rfl)
@[simp] theorem State.modSeqe_book (s : State) (k : Nat) (f : SeqE → SeqE) : (s.modSeqe k f).book = s.book := (rfl)
@[simp] theorem State.modSeqe_thm (s : State) (k : Nat) (f : SeqE → SeqE) : (s.modSeqe k f).thm = s.thm := (rfl)
@[simp] theorem State.modSeqe_regs (s : State) (k : Nat) (f : SeqE → SeqE) : (s.modSeqe k f).regs = s.regs := (rfl)
@[simp] theorem State.modSeqe_hiLatch (s : State) (k : Nat) (f : SeqE → SeqE) : (s.modSeqe k f).hiLatch = s.hiLatch := (rfl)
@[simp] theorem State.modSeqe_rdata (s : State) (k : Nat) (f : SeqE → SeqE) : (s.modSeqe k f).rdata = s.rdata := (rfl)
@[simp] theorem State.modSeqe_hostMem (s : State) (k : Nat) (f : SeqE → SeqE) : (s.modSeqe k f).hostMem = s.hostMem := (rfl)
@[simp] theorem State.modSeqe_reqs (s : State) (k : Nat) (f : SeqE → SeqE) : (s.modSeqe k f).reqs = s.reqs := (rfl)
@[simp] theorem State.modSeqe_freeCtr (s : State) (k : Nat) (f : SeqE → SeqE) : (s.modSeqe k f).freeCtr = s.freeCtr := (rfl)
@[simp] theorem State.modSeqe_pending (s : State) (k : Nat) (f : SeqE → SeqE) : (s.modSeqe k f).pending = s.pending := (rfl)
@[simp] theorem State.modTw_clk (s : State) (k : Nat) (f : Tw → Tw) : (s.modTw k f).clk = s.clk := (rfl)
@[simp] theorem State.modTw_sec (s : State) (k : Nat) (f : Tw → Tw) : (s.modTw k f).sec = s.sec := (rfl)
@[simp] theorem State.modTw_mode (s : State) (k : Nat) (f : Tw → Tw) : (s.modTw k f).mode = s.mode := (rfl)
@[simp] theorem State.modTw_host (s : State) (k : Nat) (f : Tw → Tw) : (s.modTw k f).host = s.host := (rfl)
@[simp] theorem State.modTw_tim (s : State) (k : Nat) (f : Tw → Tw) : (s.modTw k f).tim = s.tim := (rfl)
@[simp] theorem State.modTw_bell (s : State) (k : Nat) (f : Tw → Tw) : (s.modTw k f).bell = s.bell := (rfl)
@[simp] theorem State.modTw_ports (s : State) (k : Nat) (f : Tw → Tw) : (s.modTw k f).ports = s.ports := (rfl)
@[simp] theorem State.modTw_health (s : State) (k : Nat) (f : Tw → Tw) : (s.modTw k f).health = s.health := (rfl)
@[simp] theorem State.modTw_gce (s : State) (k : Nat) (f : Tw → Tw) : (s.modTw k f).gce = s.gce := (rfl)
@[simp] theorem State.modTw_leg (s : State) (k : Nat) (f : Tw → Tw) : (s.modTw k f).leg = s.leg := (rfl)
@[simp] theorem State.modTw_adc (s : State) (k : Nat) (f : Tw → Tw) : (s.modTw k f).adc = s.adc := (rfl)
@[simp] theorem State.modTw_fad (s : State) (k : Nat) (f : Tw → Tw) : (s.modTw k f).fad = s.fad := (rfl)
@[simp] theorem State.modTw_mill (s : State) (k : Nat) (f : Tw → Tw) : (s.modTw k f).mill = s.mill := (rfl)
@[simp] theorem State.modTw_pair (s : State) (k : Nat) (f : Tw → Tw) : (s.modTw k f).pair = s.pair := (rfl)
@[simp] theorem State.modTw_pmu (s : State) (k : Nat) (f : Tw → Tw) : (s.modTw k f).pmu = s.pmu := (rfl)
@[simp] theorem State.modTw_saf (s : State) (k : Nat) (f : Tw → Tw) : (s.modTw k f).saf = s.saf := (rfl)
@[simp] theorem State.modTw_wch (s : State) (k : Nat) (f : Tw → Tw) : (s.modTw k f).wch = s.wch := (rfl)
@[simp] theorem State.modTw_book (s : State) (k : Nat) (f : Tw → Tw) : (s.modTw k f).book = s.book := (rfl)
@[simp] theorem State.modTw_thm (s : State) (k : Nat) (f : Tw → Tw) : (s.modTw k f).thm = s.thm := (rfl)
@[simp] theorem State.modTw_regs (s : State) (k : Nat) (f : Tw → Tw) : (s.modTw k f).regs = s.regs := (rfl)
@[simp] theorem State.modTw_hiLatch (s : State) (k : Nat) (f : Tw → Tw) : (s.modTw k f).hiLatch = s.hiLatch := (rfl)
@[simp] theorem State.modTw_rdata (s : State) (k : Nat) (f : Tw → Tw) : (s.modTw k f).rdata = s.rdata := (rfl)
@[simp] theorem State.modTw_hostMem (s : State) (k : Nat) (f : Tw → Tw) : (s.modTw k f).hostMem = s.hostMem := (rfl)
@[simp] theorem State.modTw_reqs (s : State) (k : Nat) (f : Tw → Tw) : (s.modTw k f).reqs = s.reqs := (rfl)
@[simp] theorem State.modTw_freeCtr (s : State) (k : Nat) (f : Tw → Tw) : (s.modTw k f).freeCtr = s.freeCtr := (rfl)
@[simp] theorem State.modTw_pending (s : State) (k : Nat) (f : Tw → Tw) : (s.modTw k f).pending = s.pending := (rfl)
@[simp] theorem State.modCons_clk (s : State) (k : Nat) (f : Cons → Cons) : (s.modCons k f).clk = s.clk := (rfl)
@[simp] theorem State.modCons_sec (s : State) (k : Nat) (f : Cons → Cons) : (s.modCons k f).sec = s.sec := (rfl)
@[simp] theorem State.modCons_mode (s : State) (k : Nat) (f : Cons → Cons) : (s.modCons k f).mode = s.mode := (rfl)
@[simp] theorem State.modCons_host (s : State) (k : Nat) (f : Cons → Cons) : (s.modCons k f).host = s.host := (rfl)
@[simp] theorem State.modCons_tim (s : State) (k : Nat) (f : Cons → Cons) : (s.modCons k f).tim = s.tim := (rfl)
@[simp] theorem State.modCons_bell (s : State) (k : Nat) (f : Cons → Cons) : (s.modCons k f).bell = s.bell := (rfl)
@[simp] theorem State.modCons_ports (s : State) (k : Nat) (f : Cons → Cons) : (s.modCons k f).ports = s.ports := (rfl)
@[simp] theorem State.modCons_health (s : State) (k : Nat) (f : Cons → Cons) : (s.modCons k f).health = s.health := (rfl)
@[simp] theorem State.modCons_gce (s : State) (k : Nat) (f : Cons → Cons) : (s.modCons k f).gce = s.gce := (rfl)
@[simp] theorem State.modCons_leg (s : State) (k : Nat) (f : Cons → Cons) : (s.modCons k f).leg = s.leg := (rfl)
@[simp] theorem State.modCons_adc (s : State) (k : Nat) (f : Cons → Cons) : (s.modCons k f).adc = s.adc := (rfl)
@[simp] theorem State.modCons_fad (s : State) (k : Nat) (f : Cons → Cons) : (s.modCons k f).fad = s.fad := (rfl)
@[simp] theorem State.modCons_mill (s : State) (k : Nat) (f : Cons → Cons) : (s.modCons k f).mill = s.mill := (rfl)
@[simp] theorem State.modCons_pair (s : State) (k : Nat) (f : Cons → Cons) : (s.modCons k f).pair = s.pair := (rfl)
@[simp] theorem State.modCons_cap (s : State) (k : Nat) (f : Cons → Cons) : (s.modCons k f).cap = s.cap := (rfl)
@[simp] theorem State.modCons_pmu (s : State) (k : Nat) (f : Cons → Cons) : (s.modCons k f).pmu = s.pmu := (rfl)
@[simp] theorem State.modCons_wch (s : State) (k : Nat) (f : Cons → Cons) : (s.modCons k f).wch = s.wch := (rfl)
@[simp] theorem State.modCons_book (s : State) (k : Nat) (f : Cons → Cons) : (s.modCons k f).book = s.book := (rfl)
@[simp] theorem State.modCons_thm (s : State) (k : Nat) (f : Cons → Cons) : (s.modCons k f).thm = s.thm := (rfl)
@[simp] theorem State.modCons_regs (s : State) (k : Nat) (f : Cons → Cons) : (s.modCons k f).regs = s.regs := (rfl)
@[simp] theorem State.modCons_hiLatch (s : State) (k : Nat) (f : Cons → Cons) : (s.modCons k f).hiLatch = s.hiLatch := (rfl)
@[simp] theorem State.modCons_rdata (s : State) (k : Nat) (f : Cons → Cons) : (s.modCons k f).rdata = s.rdata := (rfl)
@[simp] theorem State.modCons_hostMem (s : State) (k : Nat) (f : Cons → Cons) : (s.modCons k f).hostMem = s.hostMem := (rfl)
@[simp] theorem State.modCons_reqs (s : State) (k : Nat) (f : Cons → Cons) : (s.modCons k f).reqs = s.reqs := (rfl)
@[simp] theorem State.modCons_freeCtr (s : State) (k : Nat) (f : Cons → Cons) : (s.modCons k f).freeCtr = s.freeCtr := (rfl)
@[simp] theorem State.modCons_pending (s : State) (k : Nat) (f : Cons → Cons) : (s.modCons k f).pending = s.pending := (rfl)
@[simp] theorem State.modSensor_clk (s : State) (k : Nat) (f : Sensor → Sensor) : (s.modSensor k f).clk = s.clk := (rfl)
@[simp] theorem State.modSensor_sec (s : State) (k : Nat) (f : Sensor → Sensor) : (s.modSensor k f).sec = s.sec := (rfl)
@[simp] theorem State.modSensor_mode (s : State) (k : Nat) (f : Sensor → Sensor) : (s.modSensor k f).mode = s.mode := (rfl)
@[simp] theorem State.modSensor_host (s : State) (k : Nat) (f : Sensor → Sensor) : (s.modSensor k f).host = s.host := (rfl)
@[simp] theorem State.modSensor_tim (s : State) (k : Nat) (f : Sensor → Sensor) : (s.modSensor k f).tim = s.tim := (rfl)
@[simp] theorem State.modSensor_bell (s : State) (k : Nat) (f : Sensor → Sensor) : (s.modSensor k f).bell = s.bell := (rfl)
@[simp] theorem State.modSensor_ports (s : State) (k : Nat) (f : Sensor → Sensor) : (s.modSensor k f).ports = s.ports := (rfl)
@[simp] theorem State.modSensor_health (s : State) (k : Nat) (f : Sensor → Sensor) : (s.modSensor k f).health = s.health := (rfl)
@[simp] theorem State.modSensor_gce (s : State) (k : Nat) (f : Sensor → Sensor) : (s.modSensor k f).gce = s.gce := (rfl)
@[simp] theorem State.modSensor_leg (s : State) (k : Nat) (f : Sensor → Sensor) : (s.modSensor k f).leg = s.leg := (rfl)
@[simp] theorem State.modSensor_adc (s : State) (k : Nat) (f : Sensor → Sensor) : (s.modSensor k f).adc = s.adc := (rfl)
@[simp] theorem State.modSensor_fad (s : State) (k : Nat) (f : Sensor → Sensor) : (s.modSensor k f).fad = s.fad := (rfl)
@[simp] theorem State.modSensor_mill (s : State) (k : Nat) (f : Sensor → Sensor) : (s.modSensor k f).mill = s.mill := (rfl)
@[simp] theorem State.modSensor_pair (s : State) (k : Nat) (f : Sensor → Sensor) : (s.modSensor k f).pair = s.pair := (rfl)
@[simp] theorem State.modSensor_cap (s : State) (k : Nat) (f : Sensor → Sensor) : (s.modSensor k f).cap = s.cap := (rfl)
@[simp] theorem State.modSensor_pmu (s : State) (k : Nat) (f : Sensor → Sensor) : (s.modSensor k f).pmu = s.pmu := (rfl)
@[simp] theorem State.modSensor_saf (s : State) (k : Nat) (f : Sensor → Sensor) : (s.modSensor k f).saf = s.saf := (rfl)
@[simp] theorem State.modSensor_wch (s : State) (k : Nat) (f : Sensor → Sensor) : (s.modSensor k f).wch = s.wch := (rfl)
@[simp] theorem State.modSensor_book (s : State) (k : Nat) (f : Sensor → Sensor) : (s.modSensor k f).book = s.book := (rfl)
@[simp] theorem State.modSensor_regs (s : State) (k : Nat) (f : Sensor → Sensor) : (s.modSensor k f).regs = s.regs := (rfl)
@[simp] theorem State.modSensor_hiLatch (s : State) (k : Nat) (f : Sensor → Sensor) : (s.modSensor k f).hiLatch = s.hiLatch := (rfl)
@[simp] theorem State.modSensor_rdata (s : State) (k : Nat) (f : Sensor → Sensor) : (s.modSensor k f).rdata = s.rdata := (rfl)
@[simp] theorem State.modSensor_hostMem (s : State) (k : Nat) (f : Sensor → Sensor) : (s.modSensor k f).hostMem = s.hostMem := (rfl)
@[simp] theorem State.modSensor_reqs (s : State) (k : Nat) (f : Sensor → Sensor) : (s.modSensor k f).reqs = s.reqs := (rfl)
@[simp] theorem State.modSensor_freeCtr (s : State) (k : Nat) (f : Sensor → Sensor) : (s.modSensor k f).freeCtr = s.freeCtr := (rfl)
@[simp] theorem State.modSensor_pending (s : State) (k : Nat) (f : Sensor → Sensor) : (s.modSensor k f).pending = s.pending := (rfl)
@[simp] theorem State.modOut_sec (s : State) (k : Nat) (f : PllOut → PllOut) : (s.modOut k f).sec = s.sec := (rfl)
@[simp] theorem State.modOut_mode (s : State) (k : Nat) (f : PllOut → PllOut) : (s.modOut k f).mode = s.mode := (rfl)
@[simp] theorem State.modOut_host (s : State) (k : Nat) (f : PllOut → PllOut) : (s.modOut k f).host = s.host := (rfl)
@[simp] theorem State.modOut_tim (s : State) (k : Nat) (f : PllOut → PllOut) : (s.modOut k f).tim = s.tim := (rfl)
@[simp] theorem State.modOut_bell (s : State) (k : Nat) (f : PllOut → PllOut) : (s.modOut k f).bell = s.bell := (rfl)
@[simp] theorem State.modOut_ports (s : State) (k : Nat) (f : PllOut → PllOut) : (s.modOut k f).ports = s.ports := (rfl)
@[simp] theorem State.modOut_health (s : State) (k : Nat) (f : PllOut → PllOut) : (s.modOut k f).health = s.health := (rfl)
@[simp] theorem State.modOut_gce (s : State) (k : Nat) (f : PllOut → PllOut) : (s.modOut k f).gce = s.gce := (rfl)
@[simp] theorem State.modOut_leg (s : State) (k : Nat) (f : PllOut → PllOut) : (s.modOut k f).leg = s.leg := (rfl)
@[simp] theorem State.modOut_adc (s : State) (k : Nat) (f : PllOut → PllOut) : (s.modOut k f).adc = s.adc := (rfl)
@[simp] theorem State.modOut_fad (s : State) (k : Nat) (f : PllOut → PllOut) : (s.modOut k f).fad = s.fad := (rfl)
@[simp] theorem State.modOut_mill (s : State) (k : Nat) (f : PllOut → PllOut) : (s.modOut k f).mill = s.mill := (rfl)
@[simp] theorem State.modOut_pair (s : State) (k : Nat) (f : PllOut → PllOut) : (s.modOut k f).pair = s.pair := (rfl)
@[simp] theorem State.modOut_cap (s : State) (k : Nat) (f : PllOut → PllOut) : (s.modOut k f).cap = s.cap := (rfl)
@[simp] theorem State.modOut_pmu (s : State) (k : Nat) (f : PllOut → PllOut) : (s.modOut k f).pmu = s.pmu := (rfl)
@[simp] theorem State.modOut_saf (s : State) (k : Nat) (f : PllOut → PllOut) : (s.modOut k f).saf = s.saf := (rfl)
@[simp] theorem State.modOut_wch (s : State) (k : Nat) (f : PllOut → PllOut) : (s.modOut k f).wch = s.wch := (rfl)
@[simp] theorem State.modOut_book (s : State) (k : Nat) (f : PllOut → PllOut) : (s.modOut k f).book = s.book := (rfl)
@[simp] theorem State.modOut_thm (s : State) (k : Nat) (f : PllOut → PllOut) : (s.modOut k f).thm = s.thm := (rfl)
@[simp] theorem State.modOut_regs (s : State) (k : Nat) (f : PllOut → PllOut) : (s.modOut k f).regs = s.regs := (rfl)
@[simp] theorem State.modOut_hiLatch (s : State) (k : Nat) (f : PllOut → PllOut) : (s.modOut k f).hiLatch = s.hiLatch := (rfl)
@[simp] theorem State.modOut_rdata (s : State) (k : Nat) (f : PllOut → PllOut) : (s.modOut k f).rdata = s.rdata := (rfl)
@[simp] theorem State.modOut_hostMem (s : State) (k : Nat) (f : PllOut → PllOut) : (s.modOut k f).hostMem = s.hostMem := (rfl)
@[simp] theorem State.modOut_reqs (s : State) (k : Nat) (f : PllOut → PllOut) : (s.modOut k f).reqs = s.reqs := (rfl)
@[simp] theorem State.modOut_freeCtr (s : State) (k : Nat) (f : PllOut → PllOut) : (s.modOut k f).freeCtr = s.freeCtr := (rfl)
@[simp] theorem State.modOut_pending (s : State) (k : Nat) (f : PllOut → PllOut) : (s.modOut k f).pending = s.pending := (rfl)
@[simp] theorem State.modTag_clk (s : State) (k : Nat) (f : Tag → Tag) : (s.modTag k f).clk = s.clk := (rfl)
@[simp] theorem State.modTag_sec (s : State) (k : Nat) (f : Tag → Tag) : (s.modTag k f).sec = s.sec := (rfl)
@[simp] theorem State.modTag_mode (s : State) (k : Nat) (f : Tag → Tag) : (s.modTag k f).mode = s.mode := (rfl)
@[simp] theorem State.modTag_host (s : State) (k : Nat) (f : Tag → Tag) : (s.modTag k f).host = s.host := (rfl)
@[simp] theorem State.modTag_tim (s : State) (k : Nat) (f : Tag → Tag) : (s.modTag k f).tim = s.tim := (rfl)
@[simp] theorem State.modTag_bell (s : State) (k : Nat) (f : Tag → Tag) : (s.modTag k f).bell = s.bell := (rfl)
@[simp] theorem State.modTag_ports (s : State) (k : Nat) (f : Tag → Tag) : (s.modTag k f).ports = s.ports := (rfl)
@[simp] theorem State.modTag_health (s : State) (k : Nat) (f : Tag → Tag) : (s.modTag k f).health = s.health := (rfl)
@[simp] theorem State.modTag_gce (s : State) (k : Nat) (f : Tag → Tag) : (s.modTag k f).gce = s.gce := (rfl)
@[simp] theorem State.modTag_leg (s : State) (k : Nat) (f : Tag → Tag) : (s.modTag k f).leg = s.leg := (rfl)
@[simp] theorem State.modTag_adc (s : State) (k : Nat) (f : Tag → Tag) : (s.modTag k f).adc = s.adc := (rfl)
@[simp] theorem State.modTag_fad (s : State) (k : Nat) (f : Tag → Tag) : (s.modTag k f).fad = s.fad := (rfl)
@[simp] theorem State.modTag_pair (s : State) (k : Nat) (f : Tag → Tag) : (s.modTag k f).pair = s.pair := (rfl)
@[simp] theorem State.modTag_cap (s : State) (k : Nat) (f : Tag → Tag) : (s.modTag k f).cap = s.cap := (rfl)
@[simp] theorem State.modTag_pmu (s : State) (k : Nat) (f : Tag → Tag) : (s.modTag k f).pmu = s.pmu := (rfl)
@[simp] theorem State.modTag_saf (s : State) (k : Nat) (f : Tag → Tag) : (s.modTag k f).saf = s.saf := (rfl)
@[simp] theorem State.modTag_wch (s : State) (k : Nat) (f : Tag → Tag) : (s.modTag k f).wch = s.wch := (rfl)
@[simp] theorem State.modTag_book (s : State) (k : Nat) (f : Tag → Tag) : (s.modTag k f).book = s.book := (rfl)
@[simp] theorem State.modTag_thm (s : State) (k : Nat) (f : Tag → Tag) : (s.modTag k f).thm = s.thm := (rfl)
@[simp] theorem State.modTag_regs (s : State) (k : Nat) (f : Tag → Tag) : (s.modTag k f).regs = s.regs := (rfl)
@[simp] theorem State.modTag_hiLatch (s : State) (k : Nat) (f : Tag → Tag) : (s.modTag k f).hiLatch = s.hiLatch := (rfl)
@[simp] theorem State.modTag_rdata (s : State) (k : Nat) (f : Tag → Tag) : (s.modTag k f).rdata = s.rdata := (rfl)
@[simp] theorem State.modTag_hostMem (s : State) (k : Nat) (f : Tag → Tag) : (s.modTag k f).hostMem = s.hostMem := (rfl)
@[simp] theorem State.modTag_reqs (s : State) (k : Nat) (f : Tag → Tag) : (s.modTag k f).reqs = s.reqs := (rfl)
@[simp] theorem State.modTag_freeCtr (s : State) (k : Nat) (f : Tag → Tag) : (s.modTag k f).freeCtr = s.freeCtr := (rfl)
@[simp] theorem State.modTag_pending (s : State) (k : Nat) (f : Tag → Tag) : (s.modTag k f).pending = s.pending := (rfl)
@[simp] theorem State.setReg_clk (s : State) (r : Reg) (i j : Nat) (v : Word) : (s.setReg r i v j).clk = s.clk := (rfl)
@[simp] theorem State.setReg_sec (s : State) (r : Reg) (i j : Nat) (v : Word) : (s.setReg r i v j).sec = s.sec := (rfl)
@[simp] theorem State.setReg_mode (s : State) (r : Reg) (i j : Nat) (v : Word) : (s.setReg r i v j).mode = s.mode := (rfl)
@[simp] theorem State.setReg_host (s : State) (r : Reg) (i j : Nat) (v : Word) : (s.setReg r i v j).host = s.host := (rfl)
@[simp] theorem State.setReg_tim (s : State) (r : Reg) (i j : Nat) (v : Word) : (s.setReg r i v j).tim = s.tim := (rfl)
@[simp] theorem State.setReg_bell (s : State) (r : Reg) (i j : Nat) (v : Word) : (s.setReg r i v j).bell = s.bell := (rfl)
@[simp] theorem State.setReg_ports (s : State) (r : Reg) (i j : Nat) (v : Word) : (s.setReg r i v j).ports = s.ports := (rfl)
@[simp] theorem State.setReg_health (s : State) (r : Reg) (i j : Nat) (v : Word) : (s.setReg r i v j).health = s.health := (rfl)
@[simp] theorem State.setReg_gce (s : State) (r : Reg) (i j : Nat) (v : Word) : (s.setReg r i v j).gce = s.gce := (rfl)
@[simp] theorem State.setReg_leg (s : State) (r : Reg) (i j : Nat) (v : Word) : (s.setReg r i v j).leg = s.leg := (rfl)
@[simp] theorem State.setReg_adc (s : State) (r : Reg) (i j : Nat) (v : Word) : (s.setReg r i v j).adc = s.adc := (rfl)
@[simp] theorem State.setReg_fad (s : State) (r : Reg) (i j : Nat) (v : Word) : (s.setReg r i v j).fad = s.fad := (rfl)
@[simp] theorem State.setReg_mill (s : State) (r : Reg) (i j : Nat) (v : Word) : (s.setReg r i v j).mill = s.mill := (rfl)
@[simp] theorem State.setReg_pair (s : State) (r : Reg) (i j : Nat) (v : Word) : (s.setReg r i v j).pair = s.pair := (rfl)
@[simp] theorem State.setReg_cap (s : State) (r : Reg) (i j : Nat) (v : Word) : (s.setReg r i v j).cap = s.cap := (rfl)
@[simp] theorem State.setReg_pmu (s : State) (r : Reg) (i j : Nat) (v : Word) : (s.setReg r i v j).pmu = s.pmu := (rfl)
@[simp] theorem State.setReg_saf (s : State) (r : Reg) (i j : Nat) (v : Word) : (s.setReg r i v j).saf = s.saf := (rfl)
@[simp] theorem State.setReg_wch (s : State) (r : Reg) (i j : Nat) (v : Word) : (s.setReg r i v j).wch = s.wch := (rfl)
@[simp] theorem State.setReg_book (s : State) (r : Reg) (i j : Nat) (v : Word) : (s.setReg r i v j).book = s.book := (rfl)
@[simp] theorem State.setReg_thm (s : State) (r : Reg) (i j : Nat) (v : Word) : (s.setReg r i v j).thm = s.thm := (rfl)
@[simp] theorem State.setReg_hiLatch (s : State) (r : Reg) (i j : Nat) (v : Word) : (s.setReg r i v j).hiLatch = s.hiLatch := (rfl)
@[simp] theorem State.setReg_rdata (s : State) (r : Reg) (i j : Nat) (v : Word) : (s.setReg r i v j).rdata = s.rdata := (rfl)
@[simp] theorem State.setReg_hostMem (s : State) (r : Reg) (i j : Nat) (v : Word) : (s.setReg r i v j).hostMem = s.hostMem := (rfl)
@[simp] theorem State.setReg_reqs (s : State) (r : Reg) (i j : Nat) (v : Word) : (s.setReg r i v j).reqs = s.reqs := (rfl)
@[simp] theorem State.setReg_freeCtr (s : State) (r : Reg) (i j : Nat) (v : Word) : (s.setReg r i v j).freeCtr = s.freeCtr := (rfl)
@[simp] theorem State.setReg_pending (s : State) (r : Reg) (i j : Nat) (v : Word) : (s.setReg r i v j).pending = s.pending := (rfl)
@[simp] theorem State.setRf_clk (s : State) (r : Reg) (i hi lo v : Nat) : (s.setRf r i hi lo v).clk = s.clk := (rfl)
@[simp] theorem State.setRf_sec (s : State) (r : Reg) (i hi lo v : Nat) : (s.setRf r i hi lo v).sec = s.sec := (rfl)
@[simp] theorem State.setRf_mode (s : State) (r : Reg) (i hi lo v : Nat) : (s.setRf r i hi lo v).mode = s.mode := (rfl)
@[simp] theorem State.setRf_host (s : State) (r : Reg) (i hi lo v : Nat) : (s.setRf r i hi lo v).host = s.host := (rfl)
@[simp] theorem State.setRf_tim (s : State) (r : Reg) (i hi lo v : Nat) : (s.setRf r i hi lo v).tim = s.tim := (rfl)
@[simp] theorem State.setRf_bell (s : State) (r : Reg) (i hi lo v : Nat) : (s.setRf r i hi lo v).bell = s.bell := (rfl)
@[simp] theorem State.setRf_ports (s : State) (r : Reg) (i hi lo v : Nat) : (s.setRf r i hi lo v).ports = s.ports := (rfl)
@[simp] theorem State.setRf_health (s : State) (r : Reg) (i hi lo v : Nat) : (s.setRf r i hi lo v).health = s.health := (rfl)
@[simp] theorem State.setRf_gce (s : State) (r : Reg) (i hi lo v : Nat) : (s.setRf r i hi lo v).gce = s.gce := (rfl)
@[simp] theorem State.setRf_leg (s : State) (r : Reg) (i hi lo v : Nat) : (s.setRf r i hi lo v).leg = s.leg := (rfl)
@[simp] theorem State.setRf_adc (s : State) (r : Reg) (i hi lo v : Nat) : (s.setRf r i hi lo v).adc = s.adc := (rfl)
@[simp] theorem State.setRf_fad (s : State) (r : Reg) (i hi lo v : Nat) : (s.setRf r i hi lo v).fad = s.fad := (rfl)
@[simp] theorem State.setRf_mill (s : State) (r : Reg) (i hi lo v : Nat) : (s.setRf r i hi lo v).mill = s.mill := (rfl)
@[simp] theorem State.setRf_pair (s : State) (r : Reg) (i hi lo v : Nat) : (s.setRf r i hi lo v).pair = s.pair := (rfl)
@[simp] theorem State.setRf_cap (s : State) (r : Reg) (i hi lo v : Nat) : (s.setRf r i hi lo v).cap = s.cap := (rfl)
@[simp] theorem State.setRf_pmu (s : State) (r : Reg) (i hi lo v : Nat) : (s.setRf r i hi lo v).pmu = s.pmu := (rfl)
@[simp] theorem State.setRf_saf (s : State) (r : Reg) (i hi lo v : Nat) : (s.setRf r i hi lo v).saf = s.saf := (rfl)
@[simp] theorem State.setRf_wch (s : State) (r : Reg) (i hi lo v : Nat) : (s.setRf r i hi lo v).wch = s.wch := (rfl)
@[simp] theorem State.setRf_book (s : State) (r : Reg) (i hi lo v : Nat) : (s.setRf r i hi lo v).book = s.book := (rfl)
@[simp] theorem State.setRf_thm (s : State) (r : Reg) (i hi lo v : Nat) : (s.setRf r i hi lo v).thm = s.thm := (rfl)
@[simp] theorem State.setRf_hiLatch (s : State) (r : Reg) (i hi lo v : Nat) : (s.setRf r i hi lo v).hiLatch = s.hiLatch := (rfl)
@[simp] theorem State.setRf_rdata (s : State) (r : Reg) (i hi lo v : Nat) : (s.setRf r i hi lo v).rdata = s.rdata := (rfl)
@[simp] theorem State.setRf_hostMem (s : State) (r : Reg) (i hi lo v : Nat) : (s.setRf r i hi lo v).hostMem = s.hostMem := (rfl)
@[simp] theorem State.setRf_reqs (s : State) (r : Reg) (i hi lo v : Nat) : (s.setRf r i hi lo v).reqs = s.reqs := (rfl)
@[simp] theorem State.setRf_freeCtr (s : State) (r : Reg) (i hi lo v : Nat) : (s.setRf r i hi lo v).freeCtr = s.freeCtr := (rfl)
@[simp] theorem State.setRf_pending (s : State) (r : Reg) (i hi lo v : Nat) : (s.setRf r i hi lo v).pending = s.pending := (rfl)
@[simp] theorem State.setRb_clk (s : State) (r : Reg) (i n : Nat) (b : Bool) : (s.setRb r i n b).clk = s.clk := (rfl)
@[simp] theorem State.setRb_sec (s : State) (r : Reg) (i n : Nat) (b : Bool) : (s.setRb r i n b).sec = s.sec := (rfl)
@[simp] theorem State.setRb_mode (s : State) (r : Reg) (i n : Nat) (b : Bool) : (s.setRb r i n b).mode = s.mode := (rfl)
@[simp] theorem State.setRb_host (s : State) (r : Reg) (i n : Nat) (b : Bool) : (s.setRb r i n b).host = s.host := (rfl)
@[simp] theorem State.setRb_tim (s : State) (r : Reg) (i n : Nat) (b : Bool) : (s.setRb r i n b).tim = s.tim := (rfl)
@[simp] theorem State.setRb_bell (s : State) (r : Reg) (i n : Nat) (b : Bool) : (s.setRb r i n b).bell = s.bell := (rfl)
@[simp] theorem State.setRb_ports (s : State) (r : Reg) (i n : Nat) (b : Bool) : (s.setRb r i n b).ports = s.ports := (rfl)
@[simp] theorem State.setRb_health (s : State) (r : Reg) (i n : Nat) (b : Bool) : (s.setRb r i n b).health = s.health := (rfl)
@[simp] theorem State.setRb_gce (s : State) (r : Reg) (i n : Nat) (b : Bool) : (s.setRb r i n b).gce = s.gce := (rfl)
@[simp] theorem State.setRb_leg (s : State) (r : Reg) (i n : Nat) (b : Bool) : (s.setRb r i n b).leg = s.leg := (rfl)
@[simp] theorem State.setRb_adc (s : State) (r : Reg) (i n : Nat) (b : Bool) : (s.setRb r i n b).adc = s.adc := (rfl)
@[simp] theorem State.setRb_fad (s : State) (r : Reg) (i n : Nat) (b : Bool) : (s.setRb r i n b).fad = s.fad := (rfl)
@[simp] theorem State.setRb_mill (s : State) (r : Reg) (i n : Nat) (b : Bool) : (s.setRb r i n b).mill = s.mill := (rfl)
@[simp] theorem State.setRb_pair (s : State) (r : Reg) (i n : Nat) (b : Bool) : (s.setRb r i n b).pair = s.pair := (rfl)
@[simp] theorem State.setRb_cap (s : State) (r : Reg) (i n : Nat) (b : Bool) : (s.setRb r i n b).cap = s.cap := (rfl)
@[simp] theorem State.setRb_pmu (s : State) (r : Reg) (i n : Nat) (b : Bool) : (s.setRb r i n b).pmu = s.pmu := (rfl)
@[simp] theorem State.setRb_saf (s : State) (r : Reg) (i n : Nat) (b : Bool) : (s.setRb r i n b).saf = s.saf := (rfl)
@[simp] theorem State.setRb_wch (s : State) (r : Reg) (i n : Nat) (b : Bool) : (s.setRb r i n b).wch = s.wch := (rfl)
@[simp] theorem State.setRb_book (s : State) (r : Reg) (i n : Nat) (b : Bool) : (s.setRb r i n b).book = s.book := (rfl)
@[simp] theorem State.setRb_thm (s : State) (r : Reg) (i n : Nat) (b : Bool) : (s.setRb r i n b).thm = s.thm := (rfl)
@[simp] theorem State.setRb_hiLatch (s : State) (r : Reg) (i n : Nat) (b : Bool) : (s.setRb r i n b).hiLatch = s.hiLatch := (rfl)
@[simp] theorem State.setRb_rdata (s : State) (r : Reg) (i n : Nat) (b : Bool) : (s.setRb r i n b).rdata = s.rdata := (rfl)
@[simp] theorem State.setRb_hostMem (s : State) (r : Reg) (i n : Nat) (b : Bool) : (s.setRb r i n b).hostMem = s.hostMem := (rfl)
@[simp] theorem State.setRb_reqs (s : State) (r : Reg) (i n : Nat) (b : Bool) : (s.setRb r i n b).reqs = s.reqs := (rfl)
@[simp] theorem State.setRb_freeCtr (s : State) (r : Reg) (i n : Nat) (b : Bool) : (s.setRb r i n b).freeCtr = s.freeCtr := (rfl)
@[simp] theorem State.setRb_pending (s : State) (r : Reg) (i n : Nat) (b : Bool) : (s.setRb r i n b).pending = s.pending := (rfl)
@[simp] theorem State.bump_clk (s : State) (r : Reg) (i hi lo k : Nat) : (s.bump r i hi lo k).clk = s.clk := (rfl)
@[simp] theorem State.bump_sec (s : State) (r : Reg) (i hi lo k : Nat) : (s.bump r i hi lo k).sec = s.sec := (rfl)
@[simp] theorem State.bump_mode (s : State) (r : Reg) (i hi lo k : Nat) : (s.bump r i hi lo k).mode = s.mode := (rfl)
@[simp] theorem State.bump_host (s : State) (r : Reg) (i hi lo k : Nat) : (s.bump r i hi lo k).host = s.host := (rfl)
@[simp] theorem State.bump_tim (s : State) (r : Reg) (i hi lo k : Nat) : (s.bump r i hi lo k).tim = s.tim := (rfl)
@[simp] theorem State.bump_bell (s : State) (r : Reg) (i hi lo k : Nat) : (s.bump r i hi lo k).bell = s.bell := (rfl)
@[simp] theorem State.bump_ports (s : State) (r : Reg) (i hi lo k : Nat) : (s.bump r i hi lo k).ports = s.ports := (rfl)
@[simp] theorem State.bump_health (s : State) (r : Reg) (i hi lo k : Nat) : (s.bump r i hi lo k).health = s.health := (rfl)
@[simp] theorem State.bump_gce (s : State) (r : Reg) (i hi lo k : Nat) : (s.bump r i hi lo k).gce = s.gce := (rfl)
@[simp] theorem State.bump_leg (s : State) (r : Reg) (i hi lo k : Nat) : (s.bump r i hi lo k).leg = s.leg := (rfl)
@[simp] theorem State.bump_adc (s : State) (r : Reg) (i hi lo k : Nat) : (s.bump r i hi lo k).adc = s.adc := (rfl)
@[simp] theorem State.bump_fad (s : State) (r : Reg) (i hi lo k : Nat) : (s.bump r i hi lo k).fad = s.fad := (rfl)
@[simp] theorem State.bump_mill (s : State) (r : Reg) (i hi lo k : Nat) : (s.bump r i hi lo k).mill = s.mill := (rfl)
@[simp] theorem State.bump_pair (s : State) (r : Reg) (i hi lo k : Nat) : (s.bump r i hi lo k).pair = s.pair := (rfl)
@[simp] theorem State.bump_cap (s : State) (r : Reg) (i hi lo k : Nat) : (s.bump r i hi lo k).cap = s.cap := (rfl)
@[simp] theorem State.bump_pmu (s : State) (r : Reg) (i hi lo k : Nat) : (s.bump r i hi lo k).pmu = s.pmu := (rfl)
@[simp] theorem State.bump_saf (s : State) (r : Reg) (i hi lo k : Nat) : (s.bump r i hi lo k).saf = s.saf := (rfl)
@[simp] theorem State.bump_wch (s : State) (r : Reg) (i hi lo k : Nat) : (s.bump r i hi lo k).wch = s.wch := (rfl)
@[simp] theorem State.bump_book (s : State) (r : Reg) (i hi lo k : Nat) : (s.bump r i hi lo k).book = s.book := (rfl)
@[simp] theorem State.bump_thm (s : State) (r : Reg) (i hi lo k : Nat) : (s.bump r i hi lo k).thm = s.thm := (rfl)
@[simp] theorem State.bump_hiLatch (s : State) (r : Reg) (i hi lo k : Nat) : (s.bump r i hi lo k).hiLatch = s.hiLatch := (rfl)
@[simp] theorem State.bump_rdata (s : State) (r : Reg) (i hi lo k : Nat) : (s.bump r i hi lo k).rdata = s.rdata := (rfl)
@[simp] theorem State.bump_hostMem (s : State) (r : Reg) (i hi lo k : Nat) : (s.bump r i hi lo k).hostMem = s.hostMem := (rfl)
@[simp] theorem State.bump_reqs (s : State) (r : Reg) (i hi lo k : Nat) : (s.bump r i hi lo k).reqs = s.reqs := (rfl)
@[simp] theorem State.bump_freeCtr (s : State) (r : Reg) (i hi lo k : Nat) : (s.bump r i hi lo k).freeCtr = s.freeCtr := (rfl)
@[simp] theorem State.bump_pending (s : State) (r : Reg) (i hi lo k : Nat) : (s.bump r i hi lo k).pending = s.pending := (rfl)
@[simp] theorem State.hostWrite_clk (s : State) (a : Nat) (b : Bytes) : (s.hostWrite a b).clk = s.clk := (rfl)
@[simp] theorem State.hostWrite_sec (s : State) (a : Nat) (b : Bytes) : (s.hostWrite a b).sec = s.sec := (rfl)
@[simp] theorem State.hostWrite_mode (s : State) (a : Nat) (b : Bytes) : (s.hostWrite a b).mode = s.mode := (rfl)
@[simp] theorem State.hostWrite_host (s : State) (a : Nat) (b : Bytes) : (s.hostWrite a b).host = s.host := (rfl)
@[simp] theorem State.hostWrite_tim (s : State) (a : Nat) (b : Bytes) : (s.hostWrite a b).tim = s.tim := (rfl)
@[simp] theorem State.hostWrite_bell (s : State) (a : Nat) (b : Bytes) : (s.hostWrite a b).bell = s.bell := (rfl)
@[simp] theorem State.hostWrite_ports (s : State) (a : Nat) (b : Bytes) : (s.hostWrite a b).ports = s.ports := (rfl)
@[simp] theorem State.hostWrite_health (s : State) (a : Nat) (b : Bytes) : (s.hostWrite a b).health = s.health := (rfl)
@[simp] theorem State.hostWrite_gce (s : State) (a : Nat) (b : Bytes) : (s.hostWrite a b).gce = s.gce := (rfl)
@[simp] theorem State.hostWrite_leg (s : State) (a : Nat) (b : Bytes) : (s.hostWrite a b).leg = s.leg := (rfl)
@[simp] theorem State.hostWrite_adc (s : State) (a : Nat) (b : Bytes) : (s.hostWrite a b).adc = s.adc := (rfl)
@[simp] theorem State.hostWrite_fad (s : State) (a : Nat) (b : Bytes) : (s.hostWrite a b).fad = s.fad := (rfl)
@[simp] theorem State.hostWrite_mill (s : State) (a : Nat) (b : Bytes) : (s.hostWrite a b).mill = s.mill := (rfl)
@[simp] theorem State.hostWrite_pair (s : State) (a : Nat) (b : Bytes) : (s.hostWrite a b).pair = s.pair := (rfl)
@[simp] theorem State.hostWrite_cap (s : State) (a : Nat) (b : Bytes) : (s.hostWrite a b).cap = s.cap := (rfl)
@[simp] theorem State.hostWrite_pmu (s : State) (a : Nat) (b : Bytes) : (s.hostWrite a b).pmu = s.pmu := (rfl)
@[simp] theorem State.hostWrite_saf (s : State) (a : Nat) (b : Bytes) : (s.hostWrite a b).saf = s.saf := (rfl)
@[simp] theorem State.hostWrite_wch (s : State) (a : Nat) (b : Bytes) : (s.hostWrite a b).wch = s.wch := (rfl)
@[simp] theorem State.hostWrite_book (s : State) (a : Nat) (b : Bytes) : (s.hostWrite a b).book = s.book := (rfl)
@[simp] theorem State.hostWrite_thm (s : State) (a : Nat) (b : Bytes) : (s.hostWrite a b).thm = s.thm := (rfl)
@[simp] theorem State.hostWrite_regs (s : State) (a : Nat) (b : Bytes) : (s.hostWrite a b).regs = s.regs := (rfl)
@[simp] theorem State.hostWrite_hiLatch (s : State) (a : Nat) (b : Bytes) : (s.hostWrite a b).hiLatch = s.hiLatch := (rfl)
@[simp] theorem State.hostWrite_rdata (s : State) (a : Nat) (b : Bytes) : (s.hostWrite a b).rdata = s.rdata := (rfl)
@[simp] theorem State.hostWrite_freeCtr (s : State) (a : Nat) (b : Bytes) : (s.hostWrite a b).freeCtr = s.freeCtr := (rfl)
@[simp] theorem State.hostWrite_pending (s : State) (a : Nat) (b : Bytes) : (s.hostWrite a b).pending = s.pending := (rfl)

/-! ### Elements of the tables -/

@[simp] theorem State.port_modPort_self (s : State) (k : Nat) (f : Port → Port) : (s.modPort k f).port k = f (s.port k) := tget_tput_self _ _ _ _
theorem State.port_modPort_ne (s : State) {k j : Nat} (h : j ≠ k) (f : Port → Port) : (s.modPort k f).port j = s.port j := tget_tput_ne _ _ _ h
@[simp] theorem State.health1_modHealth1_self (s : State) (k : Nat) (f : Health → Health) : (s.modHealth1 k f).health1 k = f (s.health1 k) := tget_tput_self _ _ _ _
theorem State.health1_modHealth1_ne (s : State) {k j : Nat} (h : j ≠ k) (f : Health → Health) : (s.modHealth1 k f).health1 j = s.health1 j := tget_tput_ne _ _ _ h
@[simp] theorem State.ring_modRing_self (s : State) (k : Nat) (f : Ring → Ring) : (s.modRing k f).ring k = f (s.ring k) := tget_tput_self _ _ _ _
theorem State.ring_modRing_ne (s : State) {k j : Nat} (h : j ≠ k) (f : Ring → Ring) : (s.modRing k f).ring j = s.ring j := tget_tput_ne _ _ _ h
@[simp] theorem State.sta_modSta_self (s : State) (k : Nat) (f : StaPort → StaPort) : (s.modSta k f).sta k = f (s.sta k) := tget_tput_self _ _ _ _
theorem State.sta_modSta_ne (s : State) {k j : Nat} (h : j ≠ k) (f : StaPort → StaPort) : (s.modSta k f).sta j = s.sta j := tget_tput_ne _ _ _ h
@[simp] theorem State.grp_modGrp_self (s : State) (k : Nat) (f : Grp → Grp) : (s.modGrp k f).grp k = f (s.grp k) := tget_tput_self _ _ _ _
theorem State.grp_modGrp_ne (s : State) {k j : Nat} (h : j ≠ k) (f : Grp → Grp) : (s.modGrp k f).grp j = s.grp j := tget_tput_ne _ _ _ h
@[simp] theorem State.pst_modPst_self (s : State) (k : Nat) (f : PairSt → PairSt) : (s.modPst k f).pst k = f (s.pst k) := tget_tput_self _ _ _ _
theorem State.pst_modPst_ne (s : State) {k j : Nat} (h : j ≠ k) (f : PairSt → PairSt) : (s.modPst k f).pst j = s.pst j := tget_tput_ne _ _ _ h
@[simp] theorem State.line_modLine_self (s : State) (k : Nat) (f : DelayLine → DelayLine) : (s.modLine k f).line k = f (s.line k) := tget_tput_self _ _ _ _
theorem State.line_modLine_ne (s : State) {k j : Nat} (h : j ≠ k) (f : DelayLine → DelayLine) : (s.modLine k f).line j = s.line j := tget_tput_ne _ _ _ h
@[simp] theorem State.sw_modSw_self (s : State) (k : Nat) (f : Sw → Sw) : (s.modSw k f).sw k = f (s.sw k) := tget_tput_self _ _ _ _
theorem State.sw_modSw_ne (s : State) {k j : Nat} (h : j ≠ k) (f : Sw → Sw) : (s.modSw k f).sw j = s.sw j := tget_tput_ne _ _ _ h
@[simp] theorem State.lg_modLg_self (s : State) (k : Nat) (f : Lg → Lg) : (s.modLg k f).lg k = f (s.lg k) := tget_tput_self _ _ _ _
theorem State.lg_modLg_ne (s : State) {k j : Nat} (h : j ≠ k) (f : Lg → Lg) : (s.modLg k f).lg j = s.lg j := tget_tput_ne _ _ _ h
@[simp] theorem State.acal_modAcal_self (s : State) (k : Nat) (f : Cal → Cal) : (s.modAcal k f).acal k = f (s.acal k) := tget_tput_self _ _ _ _
theorem State.acal_modAcal_ne (s : State) {k j : Nat} (h : j ≠ k) (f : Cal → Cal) : (s.modAcal k f).acal j = s.acal j := tget_tput_ne _ _ _ h
@[simp] theorem State.ares_modAres_self (s : State) (k : Nat) (f : ConvRes → ConvRes) : (s.modAres k f).ares k = f (s.ares k) := tget_tput_self _ _ _ _
theorem State.ares_modAres_ne (s : State) {k j : Nat} (h : j ≠ k) (f : ConvRes → ConvRes) : (s.modAres k f).ares j = s.ares j := tget_tput_ne _ _ _ h
@[simp] theorem State.aavg_modAavg_self (s : State) (k : Nat) (f : Avg → Avg) : (s.modAavg k f).aavg k = f (s.aavg k) := tget_tput_self _ _ _ _
theorem State.aavg_modAavg_ne (s : State) {k j : Nat} (h : j ≠ k) (f : Avg → Avg) : (s.modAavg k f).aavg j = s.aavg j := tget_tput_ne _ _ _ h
@[simp] theorem State.fcal_modFcal_self (s : State) (k : Nat) (f : Cal → Cal) : (s.modFcal k f).fcal k = f (s.fcal k) := tget_tput_self _ _ _ _
theorem State.fcal_modFcal_ne (s : State) {k j : Nat} (h : j ≠ k) (f : Cal → Cal) : (s.modFcal k f).fcal j = s.fcal j := tget_tput_ne _ _ _ h
@[simp] theorem State.fres_modFres_self (s : State) (k : Nat) (f : ConvRes → ConvRes) : (s.modFres k f).fres k = f (s.fres k) := tget_tput_self _ _ _ _
theorem State.fres_modFres_ne (s : State) {k j : Nat} (h : j ≠ k) (f : ConvRes → ConvRes) : (s.modFres k f).fres j = s.fres j := tget_tput_ne _ _ _ h
@[simp] theorem State.task_modTask_self (s : State) (k : Nat) (f : MTask → MTask) : (s.modTask k f).task k = f (s.task k) := tget_tput_self _ _ _ _
theorem State.task_modTask_ne (s : State) {k j : Nat} (h : j ≠ k) (f : MTask → MTask) : (s.modTask k f).task j = s.task j := tget_tput_ne _ _ _ h
@[simp] theorem State.unit_modUnit_self (s : State) (k : Nat) (f : CapUnit → CapUnit) : (s.modUnit k f).unit k = f (s.unit k) := tget_tput_self _ _ _ _
theorem State.unit_modUnit_ne (s : State) {k j : Nat} (h : j ≠ k) (f : CapUnit → CapUnit) : (s.modUnit k f).unit j = s.unit j := tget_tput_ne _ _ _ h
@[simp] theorem State.atrg_modAtrg_self (s : State) (k : Nat) (f : Atrg → Atrg) : (s.modAtrg k f).atrg k = f (s.atrg k) := tget_tput_self _ _ _ _
theorem State.atrg_modAtrg_ne (s : State) {k j : Nat} (h : j ≠ k) (f : Atrg → Atrg) : (s.modAtrg k f).atrg j = s.atrg j := tget_tput_ne _ _ _ h
@[simp] theorem State.seqe_modSeqe_self (s : State) (k : Nat) (f : SeqE → SeqE) : (s.modSeqe k f).seqe k = f (s.seqe k) := tget_tput_self _ _ _ _
theorem State.seqe_modSeqe_ne (s : State) {k j : Nat} (h : j ≠ k) (f : SeqE → SeqE) : (s.modSeqe k f).seqe j = s.seqe j := tget_tput_ne _ _ _ h
@[simp] theorem State.tw_modTw_self (s : State) (k : Nat) (f : Tw → Tw) : (s.modTw k f).tw k = f (s.tw k) := tget_tput_self _ _ _ _
theorem State.tw_modTw_ne (s : State) {k j : Nat} (h : j ≠ k) (f : Tw → Tw) : (s.modTw k f).tw j = s.tw j := tget_tput_ne _ _ _ h
@[simp] theorem State.cons_modCons_self (s : State) (k : Nat) (f : Cons → Cons) : (s.modCons k f).cons k = f (s.cons k) := tget_tput_self _ _ _ _
theorem State.cons_modCons_ne (s : State) {k j : Nat} (h : j ≠ k) (f : Cons → Cons) : (s.modCons k f).cons j = s.cons j := tget_tput_ne _ _ _ h
@[simp] theorem State.sensor_modSensor_self (s : State) (k : Nat) (f : Sensor → Sensor) : (s.modSensor k f).sensor k = f (s.sensor k) := tget_tput_self _ _ _ _
theorem State.sensor_modSensor_ne (s : State) {k j : Nat} (h : j ≠ k) (f : Sensor → Sensor) : (s.modSensor k f).sensor j = s.sensor j := tget_tput_ne _ _ _ h
@[simp] theorem State.out_modOut_self (s : State) (k : Nat) (f : PllOut → PllOut) : (s.modOut k f).out k = f (s.out k) := tget_tput_self _ _ _ _
theorem State.out_modOut_ne (s : State) {k j : Nat} (h : j ≠ k) (f : PllOut → PllOut) : (s.modOut k f).out j = s.out j := tget_tput_ne _ _ _ h
@[simp] theorem State.tag_modTag_self (s : State) (k : Nat) (f : Tag → Tag) : (s.modTag k f).tag k = f (s.tag k) := tget_tput_self _ _ _ _
theorem State.tag_modTag_ne (s : State) {k j : Nat} (h : j ≠ k) (f : Tag → Tag) : (s.modTag k f).tag j = s.tag j := tget_tput_ne _ _ _ h

end Sys2Proof.Machine
end

