-- ==== Sys2Proof/Laws/Settle.lean ====
section
/-! SUPPORT. The end of a step (State.settle): what it leaves alone, that it is done after one pass, and what a raise latches. -/

namespace Sys2Proof.Machine

set_option linter.unusedVariables false

variable {s0 s : State}

/-! ### Time reaching a command -/

/-- An output's edges are the clocks'. -/
theorem State.catchUpOut_clk (s : State) (j : Nat) :
    s.catchUpOut j = { s with clk := { s.clk with outs := (s.catchUpOut j).clk.outs } } := by
  unfold State.catchUpOut
  dsimp only
  repeat' split
  all_goals rfl

/-- A tick changes the clocks alone: the local count, to the later of the two, and the edges of the PLL-B outputs. -/
theorem State.tickTo_clk (s : State) (t : Nat) (h : s.released = true) :
    s.tickTo t = { s with clk := { s.clk with now := max s.clk.now t, outs := (s.tickTo t).clk.outs } } := by
  unfold State.tickTo
  rw [if_pos h, State.catchUpOut_clk _ 2, State.catchUpOut_clk _ 1, State.catchUpOut_clk _ 0]
  rfl

/-- While the root is not released time stands still. -/
theorem State.tickTo_held (s : State) (t : Nat) (h : s.released = false) : s.tickTo t = s := by
  unfold State.tickTo
  rw [h]
  rfl

/-- Apart from the local count and the outputs' edges everything is as before. -/
theorem State.tickTo_eq (s : State) (t : Nat) :
    s.tickTo t = { s with clk := { s.clk with now := (s.tickTo t).clk.now, outs := (s.tickTo t).clk.outs } } := by
  cases h : s.released with
  | true =>
    have := State.tickTo_clk s t h
    rw [this]
  | false => rw [State.tickTo_held s t h]

@[simp] theorem State.tickTo_phase (s : State) (t : Nat) : (s.tickTo t).clk.phase = s.clk.phase := by rw [State.tickTo_eq]
@[simp] theorem State.tickTo_variant (s : State) (t : Nat) : (s.tickTo t).clk.variant = s.clk.variant := by rw [State.tickTo_eq]
@[simp] theorem State.tickTo_sec (s : State) (t : Nat) : (s.tickTo t).sec = s.sec := by rw [State.tickTo_eq]
@[simp] theorem State.tickTo_mode (s : State) (t : Nat) : (s.tickTo t).mode = s.mode := by rw [State.tickTo_eq]
@[simp] theorem State.tickTo_host (s : State) (t : Nat) : (s.tickTo t).host = s.host := by rw [State.tickTo_eq]
@[simp] theorem State.tickTo_tim (s : State) (t : Nat) : (s.tickTo t).tim = s.tim := by rw [State.tickTo_eq]
@[simp] theorem State.tickTo_bell (s : State) (t : Nat) : (s.tickTo t).bell = s.bell := by rw [State.tickTo_eq]
@[simp] theorem State.tickTo_ports (s : State) (t : Nat) : (s.tickTo t).ports = s.ports := by rw [State.tickTo_eq]
@[simp] theorem State.tickTo_health (s : State) (t : Nat) : (s.tickTo t).health = s.health := by rw [State.tickTo_eq]
@[simp] theorem State.tickTo_gce (s : State) (t : Nat) : (s.tickTo t).gce = s.gce := by rw [State.tickTo_eq]
@[simp] theorem State.tickTo_leg (s : State) (t : Nat) : (s.tickTo t).leg = s.leg := by rw [State.tickTo_eq]
@[simp] theorem State.tickTo_adc (s : State) (t : Nat) : (s.tickTo t).adc = s.adc := by rw [State.tickTo_eq]
@[simp] theorem State.tickTo_fad (s : State) (t : Nat) : (s.tickTo t).fad = s.fad := by rw [State.tickTo_eq]
@[simp] theorem State.tickTo_mill (s : State) (t : Nat) : (s.tickTo t).mill = s.mill := by rw [State.tickTo_eq]
@[simp] theorem State.tickTo_pair (s : State) (t : Nat) : (s.tickTo t).pair = s.pair := by rw [State.tickTo_eq]
@[simp] theorem State.tickTo_cap (s : State) (t : Nat) : (s.tickTo t).cap = s.cap := by rw [State.tickTo_eq]
@[simp] theorem State.tickTo_pmu (s : State) (t : Nat) : (s.tickTo t).pmu = s.pmu := by rw [State.tickTo_eq]
@[simp] theorem State.tickTo_saf (s : State) (t : Nat) : (s.tickTo t).saf = s.saf := by rw [State.tickTo_eq]
@[simp] theorem State.tickTo_wch (s : State) (t : Nat) : (s.tickTo t).wch = s.wch := by rw [State.tickTo_eq]
@[simp] theorem State.tickTo_book (s : State) (t : Nat) : (s.tickTo t).book = s.book := by rw [State.tickTo_eq]
@[simp] theorem State.tickTo_thm (s : State) (t : Nat) : (s.tickTo t).thm = s.thm := by rw [State.tickTo_eq]
@[simp] theorem State.tickTo_regs (s : State) (t : Nat) : (s.tickTo t).regs = s.regs := by rw [State.tickTo_eq]
@[simp] theorem State.tickTo_hostMem (s : State) (t : Nat) : (s.tickTo t).hostMem = s.hostMem := by rw [State.tickTo_eq]
@[simp] theorem State.tickTo_freeCtr (s : State) (t : Nat) : (s.tickTo t).freeCtr = s.freeCtr := by rw [State.tickTo_eq]
@[simp] theorem State.tickTo_pending (s : State) (t : Nat) : (s.tickTo t).pending = s.pending := by rw [State.tickTo_eq]
@[simp] theorem State.tickTo_reg (s : State) (t : Nat) (r : Reg) (i j : Nat) : (s.tickTo t).reg r i j = s.reg r i j := by
  rw [State.tickTo_eq]; rfl
@[simp] theorem State.tickTo_rb (s : State) (t : Nat) (r : Reg) (i n : Nat) : (s.tickTo t).rb r i n = s.rb r i n := by
  rw [State.tickTo_eq]; rfl
@[simp] theorem State.tickTo_rf (s : State) (t : Nat) (r : Reg) (i hi lo : Nat) : (s.tickTo t).rf r i hi lo = s.rf r i hi lo := by
  rw [State.tickTo_eq]; rfl
@[simp] theorem State.tickTo_up (s : State) (t : Nat) : (s.tickTo t).up = s.up := by unfold State.up; rw [State.tickTo_phase]
@[simp] theorem State.tickTo_released (s : State) (t : Nat) : (s.tickTo t).released = s.released := by
  unfold State.released; rw [State.tickTo_phase]
@[simp] theorem State.tickTo_canDma (s : State) (t : Nat) : (s.tickTo t).canDma = s.canDma := by
  unfold State.canDma; rw [State.tickTo_host]

/-! ### The trip state -/

/-- The trip state is a function of the registers. -/
theorem State.tripLatched_congr {s t : State} (h : s.regs = t.regs) : s.tripLatched = t.tripLatched := by
  have e : s.latched = t.latched := by
    funext n
    unfold State.latched State.rb State.reg
    rw [h]
  have f : s.severity = t.severity := by
    funext n
    unfold State.severity State.rf State.reg
    rw [h]
  unfold State.tripLatched State.latchedSources State.anyLatched
  rw [e, f, h]

theorem State.showTrip_regs (s : State) : s.showTrip.regs = s.regs := by
  unfold State.showTrip
  dsimp only
  split <;> rfl

/-- After it was shown the trip state is the one the safety channels were told of. -/
theorem State.showTrip_trip (s : State) : s.showTrip.saf.trip = s.showTrip.tripLatched := by
  rw [State.tripLatched_congr (State.showTrip_regs s)]
  unfold State.showTrip
  dsimp only
  split
  · next h => exact h.symm
  · rfl

theorem State.showTrip_batch (s : State) : s.showTrip.wch = s.wch := by
  unfold State.showTrip
  dsimp only
  split <;> rfl

theorem State.showTrip_quiet (h : s0.Quiet s) : s0.Quiet s.showTrip := by
  unfold State.showTrip
  dsimp only
  split
  · exact h
  · exact h.trans ⟨rfl, rfl, rfl, rfl, rfl, rfl, rfl, rfl, rfl, rfl, rfl, rfl, rfl, fun _ _ _ => rfl, fun _ _ _ k => k⟩

/-- The end of a step leaves alone what a raise leaves alone. -/
theorem State.settle_quiet (h : s0.Quiet s) : s0.Quiet s.settle :=
  State.showTrip_quiet (State.sendBatch_quiet (State.sendBatch_quiet h))

theorem State.showTrip_calm (h : s0.Calm s) : s0.Calm s.showTrip := by
  refine ⟨State.showTrip_quiet h.toQuiet, ?_, ?_, ?_, ?_, ?_, ?_, ?_, ?_, ?_⟩ <;> unfold State.showTrip <;> dsimp only <;> split
  all_goals first
    | exact h.mode | exact h.ports | exact h.health | exact h.gce | exact h.leg | exact h.adc | exact h.cap | exact h.pair | exact h.words

/-- The end of a step: what it leaves alone. -/
theorem State.settle_calm (h : s0.Calm s) : s0.Calm s.settle :=
  State.showTrip_calm (State.sendBatch_calm (State.sendBatch_calm h))

/-- With nothing to send and the trip state shown, the end of a step changes nothing. -/
theorem State.settle_of_settled (h : s.Settled) : s.settle = s := by
  have e : s.sendBatch = s := by
    obtain ⟨clk, sec, mode, host, tim, bell, ports, health, gce, leg, adc, fad, mill, pair, cap, pmu, saf,
      ⟨a, b, c, batch, fa, fr, ir, ii, st⟩, book, thm, regs, hi, rd, mem, rq, free, pe⟩ := s
    have : batch = [] := h.1
    subst this
    rfl
  unfold State.settle
  rw [e, e]
  unfold State.showTrip
  exact if_pos h.2.symm

/-! ### One pass sends everything -/

theorem State.limit_wch (s : State) (r : RaiseRec) : (s.limit r).2.wch = s.wch := by
  unfold State.limit
  dsimp only
  repeat' split
  all_goals rfl

theorem State.recordSeq_wch (s : State) : s.recordSeq.2.wch = s.wch := by
  unfold State.recordSeq State.free
  split <;> rfl

theorem State.emitRecord_wch (s : State) (role kind : Nat) (b : Bytes) : (s.emitRecord role kind b).wch = s.wch := by
  unfold State.emitRecord
  dsimp only
  split
  · rfl
  · split <;> rfl

theorem State.iff_batch (s : State) (c : Bool) (f : State → State) (h : (f s).wch.batch = s.wch.batch) :
    (s.iff c f).wch.batch = s.wch.batch := by
  unfold State.iff
  split
  · exact h
  · rfl

theorem State.signal_wch (s : State) (v : Nat) : (s.signal v).wch = s.wch := by unfold State.signal; split <;> rfl
theorem Wch.pulse_batch (w : Wch) (a : Nat) (b : Option Nat) : ({ w with pulseFrom := a, pulseEnd := b } : Wch).batch = w.batch := rfl
theorem Wch.raised_batch (w : Wch) (a : Tbl Nat) : ({ w with raisedAt := a } : Wch).batch = w.batch := rfl

theorem Wch.irq_batch (w : Wch) (a b : Option Nat) : ({ w with irqRaise := a, irqRise := b } : Wch).batch = w.batch := rfl
theorem Wch.fresh_batch (w : Wch) (a : Nat) (b : List RaisedNow) : ({ w with freshAt := a, fresh := b } : Wch).batch = w.batch := rfl

theorem State.freshRaise_batch (s : State) (src : Nat) : (s.freshRaise src).wch.batch = s.wch.batch := by
  unfold State.freshRaise
  exact (congrArg Wch.batch (State.modWch_wch s _)).trans (Wch.fresh_batch _ _ _)

theorem State.errPulse_batch (s : State) : s.errPulse.wch.batch = s.wch.batch := by
  unfold State.errPulse
  exact (congrArg Wch.batch (State.modWch_wch s _)).trans (Wch.pulse_batch _ _ _)

theorem State.countRaise_wch (s : State) (src : Nat) (f : Bool) : (s.countRaise src f).wch = s.wch := by
  unfold State.countRaise State.bump
  rw [State.setRf_wch]
  unfold State.iff
  split
  · split
    · exact State.setRb_wch _ _ _ _ _
    · rfl
  · rfl

theorem State.latchRaise_batch (s : State) (src : Nat) : (s.latchRaise src).wch.batch = s.wch.batch := by
  unfold State.latchRaise
  dsimp only
  rw [State.setRf_wch, State.modWch_wch, Wch.raised_batch, State.setRb_wch]

theorem State.alarmRaise_batch (s : State) (src sev : Nat) : (s.alarmRaise src sev).wch.batch = s.wch.batch := by
  unfold State.alarmRaise
  dsimp only
  split
  · rw [State.iff_batch _ _ (·.signal 16) (congrArg Wch.batch (State.signal_wch _ 16)), State.setRb_wch,
      State.modWch_wch, Wch.irq_batch, State.iff_batch _ _ _ (State.errPulse_batch _)]
  · rw [State.iff_batch _ _ _ (State.errPulse_batch _)]

/-- The batch of `u` is that of `s` and then records that have `p`. -/
def State.Adds (s u : State) (p : RaiseRec → Prop) : Prop := ∃ l : List RaiseRec, u.wch.batch = s.wch.batch ++ l ∧ ∀ r ∈ l, p r

theorem State.Adds.none {s u : State} {p : RaiseRec → Prop} (h : u.wch.batch = s.wch.batch) : s.Adds u p :=
  ⟨[], by rw [h, List.append_nil], fun _ h => absurd h (by simp)⟩

theorem State.recordRaise_adds (s : State) (src sev idx w1 : Nat) (f : Bool) :
    s.Adds (s.recordRaise src sev idx w1 f) fun r => r.src = src ∧ r.flags = b2n f := by
  unfold State.recordRaise State.record
  exact ⟨[_], by rw [State.modWch_wch], fun q hq => by rw [List.mem_singleton] at hq; subst hq; exact ⟨rfl, rfl⟩⟩

/-- What a raise adds to the batch: nothing, or one record of its source. -/
theorem State.raiseCore_batch (s : State) (src idx w1 : Nat) (f : Bool) :
    s.Adds (s.raiseCore src idx w1 f) fun r => r.src = src ∧ r.flags = b2n f := by
  unfold State.raiseCore
  split
  · exact .none rfl
  · have h := (congrArg Wch.batch (State.countRaise_wch (s.freshRaise src) src f)).trans (State.freshRaise_batch s src)
    generalize (s.freshRaise src).countRaise src f = x at h
    dsimp only
    split
    · exact .none (by rw [h])
    · obtain ⟨l, hl, hp⟩ := State.recordRaise_adds (x.latchRaise src) src (x.severity src) idx w1 f
      exact ⟨l, by rw [State.alarmRaise_batch, hl, State.latchRaise_batch, h], hp⟩

theorem State.watchStop_batch (s : State) (n : Nat) : (s.watchStop n).wch.batch = s.wch.batch := by
  unfold State.watchStop
  dsimp only
  split <;> rfl

/-- Sending a record adds to the batch at most a raise of book_drop, and nothing when it is itself one of the book's. -/
theorem State.sendRecord_batch (s : State) (r : RaiseRec) :
    s.Adds (s.sendRecord r) fun q => (q.src = 514 ∧ q.flags = 0) ∧ ¬(r.src = 514 ∧ r.flags = 0) := by
  unfold State.sendRecord
  split
  next ok s1 e1 =>
  have h1 : s1.wch = s.wch := by have := State.limit_wch s r; rw [e1] at this; exact this
  split
  · exact .none (by rw [h1])
  · split
    next q s2 e2 =>
    have h2 : s2.wch = s.wch := by have := State.recordSeq_wch s1; rw [e2] at this; exact this.trans h1
    extract_lets -underBinder +onlyGivenNames b s3
    have h3 : s3.wch = s.wch := (State.emitRecord_wch s2 7 1 b).trans h2
    split
    · exact .none (by rw [h3])
    · next hb =>
      split
      · exact .none (congrArg Wch.batch h3)
      · obtain ⟨l, hl, hs⟩ := State.raiseCore_batch (s3.modBook fun k => { k with dropped := satAdd 0xFFFF k.dropped 1 }) 514 0xFFFF 0 false
        exact ⟨l, by rw [State.watchStop_batch, hl, State.modBook_wch, h3], fun q hq => ⟨hs q hq, fun a => hb (by rw [a.1, a.2]; rfl)⟩⟩


theorem sendRecords_batch (l : List RaiseRec) (s : State) (p : ∀ q ∈ s.wch.batch, q.src = 514 ∧ q.flags = 0) :
    ∀ q ∈ (l.foldl (fun s r => s.sendRecord r) s).wch.batch, q.src = 514 ∧ q.flags = 0 := by
  induction l generalizing s with
  | nil => exact p
  | cons a r ih =>
    refine ih _ fun q hq => ?_
    obtain ⟨l, hl, h⟩ := State.sendRecord_batch s a
    rw [hl] at hq
    exact (List.mem_append.mp hq).elim (p q) fun k => (h q k).1

theorem sendDrops_batch (l : List RaiseRec) (s : State) (p : ∀ q ∈ l, q.src = 514 ∧ q.flags = 0) (e : s.wch.batch = []) :
    (l.foldl (fun s r => s.sendRecord r) s).wch.batch = [] := by
  induction l generalizing s with
  | nil => exact e
  | cons a r ih =>
    refine ih _ (fun q hq => p q (by simp [hq])) ?_
    obtain ⟨k, hk, h⟩ := State.sendRecord_batch s a
    rw [hk, e]
    exact List.eq_nil_iff_forall_not_mem.mpr fun q hq => (h q hq).2 (p a (by simp))

theorem mem_insBy {α : Type} (lt : α → α → Bool) (a x : α) (l : List α) (h : x ∈ insBy lt a l) : x = a ∨ x ∈ l := by
  induction l with
  | nil => exact Or.inl (List.mem_singleton.mp h)
  | cons b r ih =>
    unfold insBy at h
    split at h
    · exact List.mem_cons.mp h
    · rcases List.mem_cons.mp h with rfl | h
      · exact Or.inr (by simp)
      · exact (ih h).imp_right fun h => List.mem_cons_of_mem _ h

theorem mem_sortBy {α : Type} (lt : α → α → Bool) (x : α) (l : List α) (h : x ∈ sortBy lt l) : x ∈ l := by
  unfold sortBy at h
  have go : ∀ (l acc : List α), x ∈ l.foldl (fun acc a => insBy lt a acc) acc → x ∈ acc ∨ x ∈ l := by
    intro l
    induction l with
    | nil => intro acc h; exact Or.inl h
    | cons b r ih =>
      intro acc h
      rcases ih _ h with h | h
      · rcases mem_insBy lt b x acc h with rfl | h
        · exact Or.inr (by simp)
        · exact Or.inl h
      · exact Or.inr (List.mem_cons_of_mem _ h)
  exact (go l [] h).resolve_left (by simp)

/-- After every step no record waits to be sent. -/
theorem State.settle_settled (s : State) : s.settle.Settled := by
  refine ⟨?_, State.showTrip_trip _⟩
  unfold State.settle
  rw [State.showTrip_batch]
  unfold State.sendBatch
  dsimp only
  refine sendDrops_batch _ _ (fun q hq => ?_) rfl
  exact sendRecords_batch _ _ (fun q hq => absurd hq (by simp [State.modWch])) q (mem_sortBy _ _ _ hq)

/-- While the root is released a command's effect is on the state that time has reached, and its step ends there. -/
theorem act_eq (t : Nat) (s : State) (f : State → State) (r : (s.advanceTo t).released = true) :
    act t s f = .next (f (s.advanceTo t)).settle := by
  unfold act actAon State.iff
  dsimp only
  rw [if_pos r]

/-- A command of a gated block. -/
theorem actIn_eq (b t : Nat) (s : State) (f : State → State) (r : (s.advanceTo t).released = true) :
    actIn b t s f = .next (f ((s.advanceTo t).openGate b)).settle := act_eq t s _ r

/-- While the root is not released such a command has no effect. -/
theorem act_held (t : Nat) (s : State) (f : State → State) (r : (s.advanceTo t).released = false) :
    act t s f = .next (s.advanceTo t).settle := by
  unfold act actAon State.iff
  dsimp only
  rw [r]
  rfl

/-- A command runs its effect on the state that time has reached and then ends its step: what holds of every state that its records
leave alone holds after it. -/
theorem runs_quiet {c : Instr} {x : State} {P : State → Prop} (e : exec c s = .next x.settle) (k : ∀ u, x.Quiet u → P u) : s.Runs c P :=
  ⟨_, e, k _ (State.settle_quiet (State.Quiet.refl _))⟩

/-- The same, with all that the end of a step leaves alone. -/
theorem runs_calm {c : Instr} {x : State} {P : State → Prop} (e : exec c s = .next x.settle) (k : ∀ u, x.Calm u → P u) : s.Runs c P :=
  ⟨_, e, k _ (State.settle_calm (State.Calm.refl _))⟩

/-- A command whose effect leaves the state settled ends with it. -/
theorem runs_settled {c : Instr} {x : State} {P : State → Prop} (e : exec c s = .next x.settle) (h : x.Settled) (k : P x) : s.Runs c P :=
  ⟨_, e.trans (congrArg Host.Outcome.next (State.settle_of_settled h)), k⟩

theorem exec_settled_eq {c : Instr} {x u : State} (e : exec c s = .next x.settle) (h : u.Settled) (k : x = u) : exec c s = .next u := by
  subst k
  exact e.trans (congrArg Host.Outcome.next (State.settle_of_settled h))

/-- An update that leaves registers, Watch and trip state leaves the state settled. -/
theorem State.Settled.of_same {s u : State} (h : s.Settled) (a : u.wch.batch = s.wch.batch) (b : u.saf.trip = s.saf.trip)
    (c : u.regs = s.regs) : u.Settled :=
  ⟨a.trans h.1, by rw [b, h.2, State.tripLatched_congr c]⟩

theorem State.tickTo_settled (h : s.Settled) (t : Nat) : (s.tickTo t).Settled :=
  h.of_same (by rw [State.tickTo_wch]) (by rw [State.tickTo_saf]) (State.tickTo_regs s t)

/-- Time reaching an instant leaves the state settled. -/
theorem State.runTo_settled (h : s.Settled) (t n : Nat) : (s.runTo t n).Settled := by
  induction n generalizing s with
  | zero => exact State.tickTo_settled h t
  | succ n ih =>
    unfold State.runTo
    split
    · split
      · exact ih (State.settle_settled _)
      · exact State.tickTo_settled h t
    · exact State.tickTo_settled h t

theorem State.advanceTo_settled (h : s.Settled) (t : Nat) : (s.advanceTo t).Settled := by
  unfold State.advanceTo
  split
  · exact State.runTo_settled h t _
  · exact h

/-- While the root is not released time stands still. -/
theorem State.advanceTo_held (s : State) (t : Nat) (h : s.released = false) : s.advanceTo t = s := by
  unfold State.advanceTo
  rw [h]
  rfl

/-- With nothing due by t, time's coming is a tick. -/
theorem State.advanceTo_early (s : State) (t : Nat) (h : ∀ d, s.nextDue = some d → t < d) : s.advanceTo t = s.tickTo t := by
  unfold State.advanceTo
  split
  · unfold State.runTo
    split
    · next d e => rw [if_neg (by have := h d e; omega)]
    · rfl
  · next r => exact (State.tickTo_held s t (by simpa using r)).symm

/-- A register outside the Watch's latches and configuration does not show in the trip state. -/
theorem State.Settled.setReg (h : s.Settled) (r : Reg) (i j : Nat) (v : Word) (a : r.addr i j < 0x26040 ∨ 0x26D80 ≤ r.addr i j) :
    (s.setReg r i v j).Settled := by
  refine ⟨h.1, ?_⟩
  show s.saf.trip = _
  rw [h.2]
  have key : ∀ off, 0x26040 ≤ off → off < 0x26D80 → tget regReset (s.setReg r i v j).regs off = tget regReset s.regs off :=
    fun off x y => tget_tput_ne _ _ _ (by omega)
  have lat : ∀ n, n < 608 → (s.setReg r i v j).latched n = s.latched n := by
    intro n hn
    unfold State.latched State.rb
    refine congrArg (fun w => bit w (n % 32)) (key _ ?_ ?_) <;> simp only [Reg.addr, Reg.row] <;> omega
  have sev : ∀ n, n < 608 → (s.setReg r i v j).severity n = s.severity n := by
    intro n hn
    unfold State.severity State.rf
    refine congrArg (fun w => min 5 (fld w 2 0)) (key _ ?_ ?_) <;> simp only [Reg.addr, Reg.row] <;> omega
  have any : (s.setReg r i v j).anyLatched = s.anyLatched := by
    unfold State.anyLatched State.setReg
    dsimp only
    apply Bool.eq_iff_iff.mpr
    simp only [List.any_eq_true, Bool.and_eq_true, decide_eq_true_eq]
    constructor
    · rintro ⟨e, he, hr⟩
      rcases mem_tput _ _ _ _ _ he with rfl | he
      · exact absurd hr (by simp only; omega)
      · exact ⟨e, he, hr⟩
    · rintro ⟨e, he, hr⟩
      exact ⟨e, mem_tput_of_ne _ _ _ _ _ he (by omega), hr⟩
  unfold State.tripLatched State.latchedSources
  rw [any]
  split
  · have lt : ∀ n ∈ sources.map Prod.fst, n < 608 := by decide
    rw [List.any_filter, List.any_filter]
    apply Bool.eq_iff_iff.mpr
    simp only [List.any_eq_true]
    constructor
    · rintro ⟨n, hn, hr⟩; exact ⟨n, hn, by rw [lat n (lt n hn), sev n (lt n hn)]; exact hr⟩
    · rintro ⟨n, hn, hr⟩; exact ⟨n, hn, by rw [lat n (lt n hn), sev n (lt n hn)] at hr; exact hr⟩
  · rfl

/-! ### What a raise shows -/

/-- Writing a field leaves the fields below it. -/
theorem fld_wfld_below (w : Word) (hi lo v h l : Nat) (b : h < lo) (c : lo ≤ 32) : fld (wfld w hi lo v) h l = fld w h l := by
  unfold wfld word
  rw [fld, fld, fld]
  apply Nat.eq_of_testBit_eq
  intro i
  rw [Nat.testBit_mod_two_pow, Nat.testBit_mod_two_pow, Nat.testBit_shiftRight, Nat.testBit_shiftRight, BitVec.toNat_ofNat]
  by_cases hi' : i < h + 1 - l
  · congr 1
    have e : (w.toNat - fld w hi lo * 2 ^ lo + v % 2 ^ (hi + 1 - lo) * 2 ^ lo) % 2 ^ 32 % 2 ^ lo = w.toNat % 2 ^ lo := by
      rw [Nat.mod_mod_of_dvd _ (pow_dvd_pow 2 c), Nat.add_mul_mod_self_right]
      have le : fld w hi lo * 2 ^ lo ≤ w.toNat := by
        unfold fld
        refine le_trans (Nat.mul_le_mul_right _ (Nat.mod_le _ _)) ?_
        rw [Nat.shiftRight_eq_div_pow]
        exact Nat.div_mul_le_self _ _
      exact Nat.ModEq.symm (by
        have := Nat.add_mul_mod_self_right (w.toNat - fld w hi lo * 2 ^ lo) (fld w hi lo) (2 ^ lo)
        rw [Nat.sub_add_cancel le] at this
        exact this)
    have := congrArg (fun n => n.testBit (l + i)) e
    rw [fld] at this
    generalize (w.toNat - w.toNat >>> lo % 2 ^ (hi + 1 - lo) * 2 ^ lo + v % 2 ^ (hi + 1 - lo) * 2 ^ lo) % 2 ^ 32 = y at this ⊢
    simpa [Nat.testBit_mod_two_pow, show l + i < lo by omega] using this
  · simp [hi']

theorem State.rf_setRf_below (s : State) (r : Reg) (i hi lo v h l : Nat) (b : h < lo) (c : lo ≤ 32) :
    (s.setRf r i hi lo v).rf r i h l = s.rf r i h l := by
  unfold State.rf State.setRf
  rw [State.reg_setReg_self]
  exact fld_wfld_below _ _ _ _ _ _ b c

/-- Two different registers' words, by their offsets. -/
theorem State.rf_setRf_ne (s : State) (r q : Reg) (i k hi lo v h l : Nat) (ne : q.addr k ≠ r.addr i) :
    (s.setRf r i hi lo v).rf q k h l = s.rf q k h l := by
  unfold State.rf State.setRf
  rw [State.reg_setReg_ne _ _ _ _ _ _ _ _ ne]

theorem event_ne_cfg (r : Reg) (src : Nat) (lt : src < 608) (h : eventOff (r.addr 0) = true) : Reg.wchCfg.addr src ≠ r.addr 0 := by
  intro e
  rw [← e, (cfg_off src lt).2] at h
  exact Bool.noConfusion h

/-- Counting a raise leaves its severity. -/
theorem State.countRaise_severity (s : State) (src : Nat) (f : Bool) (lt : src < 608) :
    (s.countRaise src f).severity src = s.severity src := by
  unfold State.severity State.countRaise State.bump
  rw [State.rf_setRf_below _ _ _ _ _ _ _ _ (by omega) (by omega)]
  congr 1
  unfold State.iff
  split
  · split
    · next r b e => exact State.rf_setRf_ne _ _ _ _ _ _ _ _ _ _ (event_ne_cfg r src lt (unitEvent_off src r b e))
    · rfl
  · rfl

/-- Latches and severities are functions of the registers. -/
theorem State.latched_congr {s u : State} (h : u.regs = s.regs) (n : Nat) : u.latched n = s.latched n := by
  unfold State.latched State.rb State.reg; rw [h]
theorem State.severity_congr {s u : State} (h : u.regs = s.regs) (n : Nat) : u.severity n = s.severity n := by
  unfold State.severity State.rf State.reg; rw [h]
theorem State.reg_congr {s u : State} (h : u.regs = s.regs) (r : Reg) (i j : Nat) : u.reg r i j = s.reg r i j := by
  unfold State.reg; rw [h]
theorem State.rb_congr {s u : State} (h : u.regs = s.regs) (r : Reg) (i n : Nat) : u.rb r i n = s.rb r i n := by
  unfold State.rb State.reg; rw [h]
theorem State.rf_congr {s u : State} (h : u.regs = s.regs) (r : Reg) (i hi lo : Nat) : u.rf r i hi lo = s.rf r i hi lo := by
  unfold State.rf State.reg; rw [h]

/-- A latch bit that is set stays set. -/
theorem State.Quiet.latched {s t : State} (h : s.Quiet t) (n : Nat) (lt : n < 608) (l : s.latched n = true) : t.latched n = true :=
  h.bits _ _ (latch_off n lt) l

/-- A register a raise does not write reads as before. -/
theorem State.Quiet.reg {s t : State} (h : s.Quiet t) (r : Reg) (i j : Nat) (a : eventOff (r.addr i j) = false)
    (b : raiseOff (r.addr i j) = false) : t.reg r i j = s.reg r i j := h.regs _ a b

theorem State.latchRaise_latched (s : State) (src : Nat) (lt : src < 608) : (s.latchRaise src).latched src = true := by
  have h : (s.setRb .wchLatch (src / 32) (src % 32) true).rb .wchLatch (src / 32) (src % 32) = true :=
    State.rb_setRb _ _ _ _ (Nat.mod_lt _ (by omega))
  unfold State.latchRaise
  generalize s.setRb .wchLatch (src / 32) (src % 32) true = x at h
  have q := State.setRf_quiet (State.modWch_quiet (State.Quiet.refl x) fun w => { w with raisedAt := nput w.raisedAt src x.clk.now })
    .wchStatus 0 25 16 ((x.modWch fun w => { w with raisedAt := nput w.raisedAt src x.clk.now }).wch.batch.foldl (fun m r => max m r.src) src)
    (by decide) (by decide)
  exact q.latched src lt h

/-- A raise of a source of the part with a severity above 0 latches it (R475). -/
theorem State.raiseCore_latched (s : State) (src idx w1 : Nat) (f : Bool) (ok : sourceOk s.var src = true) (sev : s.severity src ≠ 0) :
    (s.raiseCore src idx w1 f).latched src = true := by
  have lt := sourceOk_lt _ _ ok
  unfold State.raiseCore
  rw [if_neg (by simp [ok])]
  dsimp only
  rw [State.countRaise_severity _ src f lt, State.severity_congr (show (s.freshRaise src).regs = s.regs from rfl), if_neg sev]
  refine (State.Quiet.latched ?_ src lt (State.latchRaise_latched ((s.freshRaise src).countRaise src f) src lt))
  exact State.alarmRaise_quiet (State.recordRaise_quiet (State.Quiet.refl _) _ _ _ _ _) _ _

theorem State.raise_latched (s : State) (src idx w1 : Nat) (f : Bool) (ok : sourceOk s.var src = true) (sev : s.severity src ≠ 0) :
    (s.raise src idx w1 f).latched src = true := by
  have lt := sourceOk_lt _ _ ok
  have h0 : (s.raise0 src idx w1 f).latched src = true :=
    (State.watchStop_quiet (State.Quiet.refl (s.raiseCore src idx w1 f)) src).latched src lt (State.raiseCore_latched s src idx w1 f ok sev)
  unfold State.raise
  generalize s.raise0 src idx w1 f = x at h0
  dsimp only
  split
  · split
    · exact (State.retireChannel_quiet (State.Quiet.refl x) _ _).latched src lt h0
    · exact h0
  · exact h0

/-- After a raise that the step's records follow: what a raise leaves alone is as before it, and the source is latched. -/
theorem State.raise_then {x u : State} (src idx w1 : Nat) (f : Bool) (q : (x.raise src idx w1 f).Quiet u) :
    x.Quiet u ∧ (sourceOk x.var src = true → x.severity src ≠ 0 → u.latched src = true) :=
  ⟨(State.raise_quiet (State.Quiet.refl x) src idx w1 f).trans q,
    fun ok sev => q.latched _ (sourceOk_lt _ _ ok) (State.raise_latched _ _ _ _ _ ok sev)⟩

/-- A change of the time quality leaves the clocks and keeps latches set. -/
theorem State.setQuality_keeps_latched (y : State) (k : Nat) :
    (y.setQuality k).clk = y.clk ∧ ∀ n, n < 608 → y.latched n = true → (y.setQuality k).latched n = true := by
  unfold State.setQuality
  split
  · exact ⟨rfl, fun _ _ h => h⟩
  · dsimp only
    generalize hz : (y.modTim fun m => { m with quality := k, inBand := 0, holdSince := if k = 4 then some y.clk.now else m.holdSince }) = z
    have hc : z.clk = y.clk := by rw [← hz, State.modTim_clk]
    have hr : z.regs = y.regs := by rw [← hz, State.modTim_regs]
    split
    · have q := State.raise_quiet (State.Quiet.refl z) 160 0xFFFF z.timStatus false
      exact ⟨q.clk.trans hc, fun n lt h => q.latched n lt (by rw [State.latched_congr hr]; exact h)⟩
    · exact ⟨hc, fun n _ h => by rw [State.latched_congr hr]; exact h⟩

end Sys2Proof.Machine
end

