-- ==== Sys2Proof/Laws/Settled.lean ====
section
/-! SUPPORT. Updates that leave the state settled (State.Settled of Safety.lean). -/

namespace Sys2Proof.Machine

variable {s : State}

theorem State.modClk_settled (h : s.Settled) (f : Clk → Clk) : (s.modClk f).Settled := h.of_same rfl rfl rfl
theorem State.modSec_settled (h : s.Settled) (f : Sec → Sec) : (s.modSec f).Settled := h.of_same rfl rfl rfl
theorem State.modMode_settled (h : s.Settled) (f : Mode → Mode) : (s.modMode f).Settled := h.of_same rfl rfl rfl
theorem State.modHostIf_settled (h : s.Settled) (f : HostIf → HostIf) : (s.modHostIf f).Settled := h.of_same rfl rfl rfl
theorem State.modTim_settled (h : s.Settled) (f : Tim → Tim) : (s.modTim f).Settled := h.of_same rfl rfl rfl
theorem State.modBell_settled (h : s.Settled) (f : Bell → Bell) : (s.modBell f).Settled := h.of_same rfl rfl rfl
theorem State.modGce_settled (h : s.Settled) (f : Gce → Gce) : (s.modGce f).Settled := h.of_same rfl rfl rfl
theorem State.modAdc_settled (h : s.Settled) (f : Adc → Adc) : (s.modAdc f).Settled := h.of_same rfl rfl rfl
theorem State.modFad_settled (h : s.Settled) (f : Fad → Fad) : (s.modFad f).Settled := h.of_same rfl rfl rfl
theorem State.modMill_settled (h : s.Settled) (f : Mill → Mill) : (s.modMill f).Settled := h.of_same rfl rfl rfl
theorem State.modPair_settled (h : s.Settled) (f : Pair → Pair) : (s.modPair f).Settled := h.of_same rfl rfl rfl
theorem State.modCap_settled (h : s.Settled) (f : Cap → Cap) : (s.modCap f).Settled := h.of_same rfl rfl rfl
theorem State.modPmu_settled (h : s.Settled) (f : Pmu → Pmu) : (s.modPmu f).Settled := h.of_same rfl rfl rfl
theorem State.modBook_settled (h : s.Settled) (f : Book → Book) : (s.modBook f).Settled := h.of_same rfl rfl rfl
theorem State.modThm_settled (h : s.Settled) (f : Thm → Thm) : (s.modThm f).Settled := h.of_same rfl rfl rfl
theorem State.modPort_settled (h : s.Settled) (k : Nat) (f : Port → Port) : (s.modPort k f).Settled := h.of_same rfl rfl rfl
theorem State.modHealth1_settled (h : s.Settled) (k : Nat) (f : Health → Health) : (s.modHealth1 k f).Settled := h.of_same rfl rfl rfl
theorem State.modRing_settled (h : s.Settled) (k : Nat) (f : Ring → Ring) : (s.modRing k f).Settled := h.of_same rfl rfl rfl
theorem State.modSta_settled (h : s.Settled) (k : Nat) (f : StaPort → StaPort) : (s.modSta k f).Settled := h.of_same rfl rfl rfl
theorem State.modGrp_settled (h : s.Settled) (k : Nat) (f : Grp → Grp) : (s.modGrp k f).Settled := h.of_same rfl rfl rfl
theorem State.modPst_settled (h : s.Settled) (k : Nat) (f : PairSt → PairSt) : (s.modPst k f).Settled := h.of_same rfl rfl rfl
theorem State.modLine_settled (h : s.Settled) (k : Nat) (f : DelayLine → DelayLine) : (s.modLine k f).Settled := h.of_same rfl rfl rfl
theorem State.modSw_settled (h : s.Settled) (k : Nat) (f : Sw → Sw) : (s.modSw k f).Settled := h.of_same rfl rfl rfl
theorem State.modLg_settled (h : s.Settled) (k : Nat) (f : Lg → Lg) : (s.modLg k f).Settled := h.of_same rfl rfl rfl
theorem State.modAcal_settled (h : s.Settled) (k : Nat) (f : Cal → Cal) : (s.modAcal k f).Settled := h.of_same rfl rfl rfl
theorem State.modAres_settled (h : s.Settled) (k : Nat) (f : ConvRes → ConvRes) : (s.modAres k f).Settled := h.of_same rfl rfl rfl
theorem State.modAavg_settled (h : s.Settled) (k : Nat) (f : Avg → Avg) : (s.modAavg k f).Settled := h.of_same rfl rfl rfl
theorem State.modFcal_settled (h : s.Settled) (k : Nat) (f : Cal → Cal) : (s.modFcal k f).Settled := h.of_same rfl rfl rfl
theorem State.modFres_settled (h : s.Settled) (k : Nat) (f : ConvRes → ConvRes) : (s.modFres k f).Settled := h.of_same rfl rfl rfl
theorem State.modTask_settled (h : s.Settled) (k : Nat) (f : MTask → MTask) : (s.modTask k f).Settled := h.of_same rfl rfl rfl
theorem State.modUnit_settled (h : s.Settled) (k : Nat) (f : CapUnit → CapUnit) : (s.modUnit k f).Settled := h.of_same rfl rfl rfl
theorem State.modAtrg_settled (h : s.Settled) (k : Nat) (f : Atrg → Atrg) : (s.modAtrg k f).Settled := h.of_same rfl rfl rfl
theorem State.modSeqe_settled (h : s.Settled) (k : Nat) (f : SeqE → SeqE) : (s.modSeqe k f).Settled := h.of_same rfl rfl rfl
theorem State.modTw_settled (h : s.Settled) (k : Nat) (f : Tw → Tw) : (s.modTw k f).Settled := h.of_same rfl rfl rfl
theorem State.modCons_settled (h : s.Settled) (k : Nat) (f : Cons → Cons) : (s.modCons k f).Settled := h.of_same rfl rfl rfl
theorem State.modSensor_settled (h : s.Settled) (k : Nat) (f : Sensor → Sensor) : (s.modSensor k f).Settled := h.of_same rfl rfl rfl
theorem State.modOut_settled (h : s.Settled) (k : Nat) (f : PllOut → PllOut) : (s.modOut k f).Settled := h.of_same rfl rfl rfl
theorem State.modTag_settled (h : s.Settled) (k : Nat) (f : Tag → Tag) : (s.modTag k f).Settled := h.of_same rfl rfl rfl
theorem State.issue_settled (h : s.Settled) (w : Bool) (l a n : Nat) : (s.issue w l a n).Settled := h.of_same rfl rfl rfl
theorem State.hostRead_settled (h : s.Settled) (a n : Nat) : (s.hostRead a n).Settled := h.of_same rfl rfl rfl
theorem State.openGate_settled (h : s.Settled) (b : Nat) : (s.openGate b).Settled := h.of_same rfl rfl rfl
theorem State.hostWrite_settled (h : s.Settled) (a : Nat) (b : Bytes) : (s.hostWrite a b).Settled := h.of_same rfl rfl rfl
theorem State.setRf_settled (h : s.Settled) (r : Reg) (i hi lo v : Nat) (a : r.addr i < 0x26040 ∨ 0x26D80 ≤ r.addr i) :
    (s.setRf r i hi lo v).Settled := h.setReg r i 0 _ a
theorem State.setRb_settled (h : s.Settled) (r : Reg) (i n : Nat) (b : Bool) (a : r.addr i < 0x26040 ∨ 0x26D80 ≤ r.addr i) :
    (s.setRb r i n b).Settled := h.setReg r i 0 _ a
theorem State.bump_settled (h : s.Settled) (r : Reg) (i hi lo k : Nat) (a : r.addr i < 0x26040 ∨ 0x26D80 ≤ r.addr i) :
    (s.bump r i hi lo k).Settled := h.setReg r i 0 _ a
theorem State.modSaf_settled (h : s.Settled) (f : Saf → Saf) (k : ∀ x, (f x).trip = x.trip) : (s.modSaf f).Settled :=
  h.of_same rfl (k _) rfl
theorem State.iff_settled (h : s.Settled) (c : Bool) (f : State → State) (k : ∀ x : State, x.Settled → (f x).Settled) : (s.iff c f).Settled := by
  unfold State.iff
  split
  · exact k _ h
  · exact h
/-- What every pass of a fold leaves alone the fold leaves alone. -/
theorem State.forAll_frame {α : Type} (g : State → α) (s : State) (l : List Nat) (f : Nat → State → State) (h : ∀ i (x : State), g (f i x) = g x) :
    g (s.forAll l f) = g s := by
  unfold State.forAll
  induction l generalizing s with
  | nil => rfl
  | cons a r ih => exact (ih (f a s)).trans (h a s)
theorem State.iff_frame {α : Type} (g : State → α) (s : State) (c : Bool) (f : State → State) (h : ∀ x : State, g (f x) = g x) : g (s.iff c f) = g s := by
  unfold State.iff
  split
  · exact h s
  · rfl
theorem State.forAll_settled (h : s.Settled) (l : List Nat) (f : Nat → State → State) (k : ∀ i (x : State), x.Settled → (f i x).Settled) :
    (s.forAll l f).Settled := by
  unfold State.forAll
  induction l generalizing s with
  | nil => exact h
  | cons a r ih => exact ih (k _ _ h)

end Sys2Proof.Machine
end

