-- ==== Sys2Proof/Laws/Host.lean ====
section
/-! SUPPORT. The ring engine changes the host side alone; answers to requests change it, the pair's outbox and the result registers. -/

namespace Sys2Proof.Machine

set_option linter.unusedTactic false
set_option linter.unreachableTactic false
set_option linter.unusedVariables false

variable {s0 s : State}

/-! ### The ring engine changes the host side alone -/

/-- Only the host side changed, and the link of it not. -/
structure State.HostOnly (s t : State) : Prop where
  same : t = { s with host := t.host, hostMem := t.hostMem, reqs := t.reqs }
  link : t.host.link = s.host.link

theorem State.HostOnly.refl (s : State) : s.HostOnly s := ⟨rfl, rfl⟩
theorem State.HostOnly.trans {a b c : State} (h : a.HostOnly b) (k : b.HostOnly c) : a.HostOnly c :=
  ⟨by have e := k.same; rw [h.same] at e; exact e, k.link.trans h.link⟩
theorem State.HostOnly.of_same {t : State} (h : s0.HostOnly s) (e : t = { s with host := t.host, hostMem := t.hostMem, reqs := t.reqs })
    (l : t.host.link = s.host.link) : s0.HostOnly t := h.trans ⟨e, l⟩
theorem State.HostOnly.calm (h : s0.HostOnly s) : s0.Calm s := by
  have e := h.same
  have l := h.link
  exact (State.Calm.refl s0).of_same (by rw [e]) (by rw [e]) (by rw [e]) (by rw [e]) (by rw [e]) (by rw [e]) (by rw [e]) (by rw [e])
    (by rw [e]) (by rw [e]) (by rw [e]) (by rw [e]) (by rw [e]) l (by rw [e]) (by rw [e]) (by rw [e]) (by rw [e])
    (by rw [e]) (by rw [e]) (by rw [e]) (by rw [e])
theorem State.HostOnly.settled (h : s0.HostOnly s) (k : s0.Settled) : s.Settled :=
  k.of_same (by rw [h.same]) (by rw [h.same]) (by rw [h.same])
theorem State.HostOnly.book (h : s0.HostOnly s) : s.book = s0.book := by rw [h.same]
theorem State.HostOnly.wch (h : s0.HostOnly s) : s.wch = s0.wch := by rw [h.same]
theorem State.HostOnly.regs (h : s0.HostOnly s) : s.regs = s0.regs := by rw [h.same]

theorem hmp_keeps {G : Prop} (x : State) (h : s0.HostOnly x) (k : s0.HostOnly x → G) : G := k h
theorem hsnd_keeps {α : Type} {p : α × State} {a : α} {x : State} (e : p = (a, x)) (h : s0.HostOnly p.2) : s0.HostOnly x := by subst e; exact h
theorem hfoldl_keeps {β : Type} (l : List β) {f : State → β → State} (h : s0.HostOnly s) (k : ∀ x e, s0.HostOnly x → s0.HostOnly (f x e)) :
    s0.HostOnly (l.foldl f s) := by
  induction l generalizing s with
  | nil => exact h
  | cons a r ih => exact ih (k _ _ h)
theorem State.forAll_hostOnly (h : s0.HostOnly s) (l : List Nat) (f : Nat → State → State) (hf : ∀ i x, s0.HostOnly x → s0.HostOnly (f i x)) :
    s0.HostOnly (s.forAll l f) := hfoldl_keeps l h fun _ _ hx => hf _ _ hx
theorem State.iff_hostOnly (h : s0.HostOnly s) (c : Bool) (f : State → State) (hf : ∀ x, s0.HostOnly x → s0.HostOnly (f x)) : s0.HostOnly (s.iff c f) := by
  unfold State.iff
  split
  · exact hf _ h
  · exact h
theorem State.modHostIf_hostOnly (h : s0.HostOnly s) (f) (k : ∀ x : HostIf, (f x).link = x.link) : s0.HostOnly (s.modHostIf f) := State.HostOnly.of_same h rfl (k _)
theorem State.modRing_hostOnly (h : s0.HostOnly s) (k f) : s0.HostOnly (s.modRing k f) := State.HostOnly.of_same h rfl rfl
theorem State.issue_hostOnly (h : s0.HostOnly s) (w l a n) : s0.HostOnly (s.issue w l a n) := State.HostOnly.of_same h rfl rfl
theorem State.hostRead_hostOnly (h : s0.HostOnly s) (a n) : s0.HostOnly (s.hostRead a n) := State.HostOnly.of_same h rfl rfl
theorem State.hostWrite_hostOnly (h : s0.HostOnly s) (a b) : s0.HostOnly (s.hostWrite a b) := State.HostOnly.of_same h rfl rfl

theorem State.signal_hostOnly (h : s0.HostOnly s) (v : Nat)  : s0.HostOnly (State.signal s v) := by
  unfold State.signal
  repeat' first
    | (with_reducible first | assumption)
    | ((with_reducible apply State.modHostIf_hostOnly); rotate_left; intro _; rfl)
    | (with_reducible apply hsnd_keeps; with_reducible assumption)
    | (extract_lets -underBinder +onlyGivenNames x; first | (refine hmp_keeps (s0 := s0) x ?_ ?_; unfold x; clear x; rotate_left; intro hx; clear_value x) | clear_value x)
    | split
    | intro _
    | (with_reducible apply State.HostOnly.of_same; with_reducible assumption; rfl; rfl)

theorem State.sendHeld_hostOnly (h : s0.HostOnly s)   : s0.HostOnly (State.sendHeld s) := by
  unfold State.sendHeld
  repeat' first
    | (with_reducible first | assumption | apply State.forAll_hostOnly | apply State.iff_hostOnly | apply State.signal_hostOnly)
    | (with_reducible apply hsnd_keeps; with_reducible assumption)
    | (extract_lets -underBinder +onlyGivenNames x; first | (refine hmp_keeps (s0 := s0) x ?_ ?_; unfold x; clear x; rotate_left; intro hx; clear_value x) | clear_value x)
    | split
    | intro _

theorem State.ringVectors_hostOnly (h : s0.HostOnly s)   : s0.HostOnly (State.ringVectors s) := by
  unfold State.ringVectors
  repeat' first
    | (with_reducible first | assumption | apply State.forAll_hostOnly | apply State.modRing_hostOnly | apply State.iff_hostOnly
                            | apply State.signal_hostOnly)
    | (with_reducible apply hsnd_keeps; with_reducible assumption)
    | (extract_lets -underBinder +onlyGivenNames x; first | (refine hmp_keeps (s0 := s0) x ?_ ?_; unfold x; clear x; rotate_left; intro hx; clear_value x) | clear_value x)
    | split
    | intro _
    | (with_reducible apply State.HostOnly.of_same; with_reducible assumption; rfl; rfl)

theorem State.shadowWrite_hostOnly (h : s0.HostOnly s)   : s0.HostOnly (State.shadowWrite s) := by
  unfold State.shadowWrite
  repeat' first
    | (with_reducible first | assumption | apply State.hostWrite_hostOnly)
    | ((with_reducible apply State.modHostIf_hostOnly); rotate_left; intro _; rfl)
    | (with_reducible first | apply State.ringVectors_hostOnly)
    | (with_reducible apply hsnd_keeps; with_reducible assumption)
    | (extract_lets -underBinder +onlyGivenNames x; first | (refine hmp_keeps (s0 := s0) x ?_ ?_; unfold x; clear x; rotate_left; intro hx; clear_value x) | clear_value x)
    | split
    | intro _
    | (with_reducible apply State.HostOnly.of_same; with_reducible assumption; rfl; rfl)

theorem State.putEntry_hostOnly (h : s0.HostOnly s) (i : Nat) (b : Bytes)  : s0.HostOnly (State.putEntry s i b) := by
  unfold State.putEntry
  repeat' first
    | (with_reducible first | assumption | apply State.hostWrite_hostOnly | apply State.modRing_hostOnly)
    | (with_reducible apply hsnd_keeps; with_reducible assumption)
    | (extract_lets -underBinder +onlyGivenNames x; first | (refine hmp_keeps (s0 := s0) x ?_ ?_; unfold x; clear x; rotate_left; intro hx; clear_value x) | clear_value x)
    | split
    | intro _
    | (with_reducible apply State.HostOnly.of_same; with_reducible assumption; rfl; rfl)

theorem State.putWaiting_hostOnly (h : s0.HostOnly s) (i n : Nat) : s0.HostOnly (s.putWaiting i n) := by
  induction n generalizing s with
  | zero => exact h
  | succ m ih =>
    unfold State.putWaiting
    repeat' first
      | with_reducible assumption
      | with_reducible apply ih
      | with_reducible apply State.putEntry_hostOnly
      | with_reducible apply State.modRing_hostOnly
      | (with_reducible apply hsnd_keeps; with_reducible assumption)
      | (extract_lets -underBinder +onlyGivenNames x; first | (refine hmp_keeps (s0 := s0) x ?_ ?_; unfold x; clear x; rotate_left; intro hx; clear_value x) | clear_value x)
      | split
      | intro _
      | (with_reducible apply State.HostOnly.of_same; with_reducible assumption; rfl; rfl)

theorem State.markDone_hostOnly (h : s0.HostOnly s) (i : Nat) (idx : Nat) (c : Compl)  : s0.HostOnly (State.markDone s i idx c) := by
  unfold State.markDone
  repeat' first
    | (with_reducible first | assumption | apply State.modRing_hostOnly)
    | ((with_reducible apply State.modHostIf_hostOnly); rotate_left; intro _; rfl)
    | (with_reducible apply hsnd_keeps; with_reducible assumption)
    | (extract_lets -underBinder +onlyGivenNames x; first | (refine hmp_keeps (s0 := s0) x ?_ ?_; unfold x; clear x; rotate_left; intro hx; clear_value x) | clear_value x)
    | split
    | intro _
    | (with_reducible apply State.HostOnly.of_same; with_reducible assumption; rfl; rfl)

theorem State.flushHead_hostOnly (h : s0.HostOnly s) (i : Nat) (idx : Nat) (d : Desc) (c : Compl) (rest : List Act)  : s0.HostOnly (State.flushHead s i idx d c rest) := by
  unfold State.flushHead
  repeat' first
    | (with_reducible first | assumption | apply State.modRing_hostOnly)
    | ((with_reducible apply State.modHostIf_hostOnly); rotate_left; intro _; rfl)
    | (with_reducible first | apply State.iff_hostOnly | apply State.putEntry_hostOnly)
    | (with_reducible apply hsnd_keeps; with_reducible assumption)
    | (extract_lets -underBinder +onlyGivenNames x; first | (refine hmp_keeps (s0 := s0) x ?_ ?_; unfold x; clear x; rotate_left; intro hx; clear_value x) | clear_value x)
    | split
    | intro _
    | (with_reducible apply State.HostOnly.of_same; with_reducible assumption; rfl; rfl)

theorem State.flushActs_hostOnly (h : s0.HostOnly s) (i n : Nat) : s0.HostOnly (s.flushActs i n) := by
  induction n generalizing s with
  | zero => exact h
  | succ m ih =>
    unfold State.flushActs
    repeat' first
      | with_reducible assumption
      | with_reducible apply ih
      | with_reducible apply State.flushHead_hostOnly
      | (with_reducible apply hsnd_keeps; with_reducible assumption)
      | (extract_lets -underBinder +onlyGivenNames x; first | (refine hmp_keeps (s0 := s0) x ?_ ?_; unfold x; clear x; rotate_left; intro hx; clear_value x) | clear_value x)
      | split
      | intro _
      | (with_reducible apply State.HostOnly.of_same; with_reducible assumption; rfl; rfl)

theorem State.startActs_hostOnly (h : s0.HostOnly s) (i n : Nat) : s0.HostOnly (s.startActs i n) := by
  induction n generalizing s with
  | zero => exact h
  | succ m ih =>
    unfold State.startActs
    repeat' first
      | with_reducible assumption
      | with_reducible apply ih
      | with_reducible apply State.modRing_hostOnly
      | with_reducible apply State.markDone_hostOnly
      | (with_reducible apply hsnd_keeps; with_reducible assumption)
      | (extract_lets -underBinder +onlyGivenNames x; first | (refine hmp_keeps (s0 := s0) x ?_ ?_; unfold x; clear x; rotate_left; intro hx; clear_value x) | clear_value x)
      | split
      | intro _
      | (with_reducible apply State.HostOnly.of_same; with_reducible assumption; rfl; rfl)

theorem State.endStop_hostOnly (h : s0.HostOnly s) (i : Nat)  : s0.HostOnly (State.endStop s i) := by
  unfold State.endStop
  repeat' first
    | (with_reducible first | assumption | apply State.shadowWrite_hostOnly | apply State.modRing_hostOnly)
    | (with_reducible apply hsnd_keeps; with_reducible assumption)
    | (extract_lets -underBinder +onlyGivenNames x; first | (refine hmp_keeps (s0 := s0) x ?_ ?_; unfold x; clear x; rotate_left; intro hx; clear_value x) | clear_value x)
    | split
    | intro _
    | (with_reducible apply State.HostOnly.of_same; with_reducible assumption; rfl; rfl)

theorem State.pump_hostOnly (h : s0.HostOnly s) (i : Nat)  : s0.HostOnly (State.pump s i) := by
  unfold State.pump
  repeat' first
    | (with_reducible first | assumption | apply State.flushActs_hostOnly | apply State.startActs_hostOnly
                            | apply State.endStop_hostOnly)
    | (with_reducible apply hsnd_keeps; with_reducible assumption)
    | (extract_lets -underBinder +onlyGivenNames x; first | (refine hmp_keeps (s0 := s0) x ?_ ?_; unfold x; clear x; rotate_left; intro hx; clear_value x) | clear_value x)
    | split
    | intro _

theorem State.finishAct_hostOnly (h : s0.HostOnly s) (i : Nat) (idx : Nat) (c : Compl)  : s0.HostOnly (State.finishAct s i idx c) := by
  unfold State.finishAct
  repeat' first
    | (with_reducible first | assumption | apply State.markDone_hostOnly | apply State.pump_hostOnly)
    | (with_reducible apply hsnd_keeps; with_reducible assumption)
    | (extract_lets -underBinder +onlyGivenNames x; first | (refine hmp_keeps (s0 := s0) x ?_ ?_; unfold x; clear x; rotate_left; intro hx; clear_value x) | clear_value x)
    | split
    | intro _

theorem State.holdAct_hostOnly (h : s0.HostOnly s) (i : Nat) (idx : Nat)  : s0.HostOnly (State.holdAct s i idx) := by
  unfold State.holdAct
  repeat' first
    | (with_reducible first | assumption | apply State.modRing_hostOnly)
    | (with_reducible apply hsnd_keeps; with_reducible assumption)
    | (extract_lets -underBinder +onlyGivenNames x; first | (refine hmp_keeps (s0 := s0) x ?_ ?_; unfold x; clear x; rotate_left; intro hx; clear_value x) | clear_value x)
    | split
    | intro _
    | (with_reducible apply State.HostOnly.of_same; with_reducible assumption; rfl; rfl)

theorem State.ends_hostOnly (h : s0.HostOnly s) (i : Nat) (k : Nat) (status : Nat) (value : Nat) (len : Nat)  : s0.HostOnly (State.ends s i k status value len) := by
  unfold State.ends
  repeat' first
    | (with_reducible first | assumption | apply State.finishAct_hostOnly)
    | (with_reducible apply hsnd_keeps; with_reducible assumption)
    | (extract_lets -underBinder +onlyGivenNames x; first | (refine hmp_keeps (s0 := s0) x ?_ ?_; unfold x; clear x; rotate_left; intro hx; clear_value x) | clear_value x)
    | split
    | intro _

theorem State.readBuf_hostOnly (h : s0.HostOnly s) (i : Nat) (k : Nat) (addr : Nat) (n : Nat) (buf : Option Bytes) (f : Bytes → State → State) (hf : ∀ a0 x, s0.HostOnly x → s0.HostOnly (f a0 x)) : s0.HostOnly (State.readBuf s i k addr n buf f) := by
  unfold State.readBuf
  repeat' first
    | (with_reducible first | assumption | apply hf | apply State.hostRead_hostOnly | apply State.ends_hostOnly)
    | (with_reducible apply hsnd_keeps; with_reducible assumption)
    | (extract_lets -underBinder +onlyGivenNames x; first | (refine hmp_keeps (s0 := s0) x ?_ ?_; unfold x; clear x; rotate_left; intro hx; clear_value x) | clear_value x)
    | split
    | intro _
    | (with_reducible apply State.HostOnly.of_same; with_reducible assumption; rfl; rfl)

theorem State.bufEnd_hostOnly (h : s0.HostOnly s) (i : Nat) (idx : Nat) (a : Nat) (b : Bytes) (c : Compl)  : s0.HostOnly (State.bufEnd s i idx a b c) := by
  unfold State.bufEnd
  repeat' first
    | (with_reducible first | assumption | apply State.holdAct_hostOnly)
    | ((with_reducible apply State.modHostIf_hostOnly); rotate_left; intro _; rfl)
    | (with_reducible first | apply State.hostWrite_hostOnly | apply State.finishAct_hostOnly)
    | (with_reducible apply hsnd_keeps; with_reducible assumption)
    | (extract_lets -underBinder +onlyGivenNames x; first | (refine hmp_keeps (s0 := s0) x ?_ ?_; unfold x; clear x; rotate_left; intro hx; clear_value x) | clear_value x)
    | split
    | intro _
    | (with_reducible apply State.HostOnly.of_same; with_reducible assumption; rfl; rfl)

theorem State.bufsOut_hostOnly (h : s0.HostOnly s)   : s0.HostOnly (State.bufsOut s) := by
  unfold State.bufsOut
  repeat' first
    | (with_reducible first | assumption | apply State.bufEnd_hostOnly)
    | ((with_reducible apply State.modHostIf_hostOnly); rotate_left; intro _; rfl)
    | (with_reducible first | apply hfoldl_keeps | apply foldl_snd_hostOnly | apply foldl_fst_hostOnly)
    | (with_reducible apply hsnd_keeps; with_reducible assumption)
    | (extract_lets -underBinder +onlyGivenNames x; first | (refine hmp_keeps (s0 := s0) x ?_ ?_; unfold x; clear x; rotate_left; intro hx; clear_value x) | clear_value x)
    | split
    | intro _
    | (with_reducible apply State.HostOnly.of_same; with_reducible assumption; rfl; rfl)

theorem State.hadTurn_hostOnly (h : s0.HostOnly s) (i : Nat)  : s0.HostOnly (State.hadTurn s i) := by
  unfold State.hadTurn
  repeat' first
    | (with_reducible first | assumption)
    | ((with_reducible apply State.modHostIf_hostOnly); rotate_left; intro _; rfl)
    | (with_reducible apply hsnd_keeps; with_reducible assumption)
    | (extract_lets -underBinder +onlyGivenNames x; first | (refine hmp_keeps (s0 := s0) x ?_ ?_; unfold x; clear x; rotate_left; intro hx; clear_value x) | clear_value x)
    | split
    | intro _
    | (with_reducible apply State.HostOnly.of_same; with_reducible assumption; rfl; rfl)

theorem State.flushAll_hostOnly (h : s0.HostOnly s) (n : Nat) : s0.HostOnly (s.flushAll n) := by
  induction n generalizing s with
  | zero => exact h
  | succ n ih =>
    unfold State.flushAll
    split
    · exact h
    · split
      · exact ih (State.hadTurn_hostOnly (State.flushActs_hostOnly h _ _) _)
      · exact h


theorem State.pumpAll_hostOnly (h : s0.HostOnly s)   : s0.HostOnly (State.pumpAll s) := by
  unfold State.pumpAll
  repeat' first
    | (with_reducible first | assumption | apply State.bufsOut_hostOnly | apply State.forAll_hostOnly
                            | apply State.putWaiting_hostOnly | apply State.flushAll_hostOnly | apply State.pump_hostOnly)
    | (with_reducible apply hsnd_keeps; with_reducible assumption)
    | (extract_lets -underBinder +onlyGivenNames x; first | (refine hmp_keeps (s0 := s0) x ?_ ?_; unfold x; clear x; rotate_left; intro hx; clear_value x) | clear_value x)
    | split
    | intro _

theorem State.issueReads_hostOnly (h : s0.HostOnly s) (n : Nat) : s0.HostOnly (s.issueReads n) := by
  induction n generalizing s with
  | zero => exact h
  | succ n ih =>
    unfold State.issueReads
    split
    · exact h
    · split
      · refine ih (State.hadTurn_hostOnly (State.modHostIf_hostOnly (State.issue_hostOnly h _ _ _ _) _ ?_) _)
        exact fun _ => rfl
      · exact h


theorem State.takeRead_hostOnly (h : s0.HostOnly s) (i : Nat)  : s0.HostOnly ((State.takeRead s i).2) := by
  unfold State.takeRead
  repeat' first
    | (with_reducible first | assumption)
    | ((with_reducible apply State.modHostIf_hostOnly); rotate_left; intro _; rfl)
    | (with_reducible first | apply State.issue_hostOnly | apply State.hadTurn_hostOnly)
    | (with_reducible apply hsnd_keeps; with_reducible assumption)
    | (extract_lets -underBinder +onlyGivenNames x; first | (refine hmp_keeps (s0 := s0) x ?_ ?_; unfold x; clear x; rotate_left; intro hx; clear_value x) | clear_value x)
    | split
    | intro _
    | (with_reducible apply State.HostOnly.of_same; with_reducible assumption; rfl; rfl)

theorem State.finishRole_hostOnly (h : s0.HostOnly s) (role : Nat) (idx : Nat) (c : Compl)  : s0.HostOnly (State.finishRole s role idx c) := by
  unfold State.finishRole
  repeat' first
    | (with_reducible first | assumption | apply State.finishAct_hostOnly)
    | (with_reducible apply hsnd_keeps; with_reducible assumption)
    | (extract_lets -underBinder +onlyGivenNames x; first | (refine hmp_keeps (s0 := s0) x ?_ ?_; unfold x; clear x; rotate_left; intro hx; clear_value x) | clear_value x)
    | split
    | intro _
    | (with_reducible apply State.HostOnly.of_same; with_reducible assumption; rfl; rfl)

theorem State.roleEnd_hostOnly (h : s0.HostOnly s) (role : Nat) (idx : Nat) (a : Nat) (b : Bytes) (c : Compl)  : s0.HostOnly (State.roleEnd s role idx a b c) := by
  unfold State.roleEnd
  repeat' first
    | (with_reducible first | assumption | apply State.bufEnd_hostOnly)
    | (with_reducible apply hsnd_keeps; with_reducible assumption)
    | (extract_lets -underBinder +onlyGivenNames x; first | (refine hmp_keeps (s0 := s0) x ?_ ?_; unfold x; clear x; rotate_left; intro hx; clear_value x) | clear_value x)
    | split
    | intro _
    | (with_reducible apply State.HostOnly.of_same; with_reducible assumption; rfl; rfl)

theorem State.onTurn_hostOnly (h : s0.HostOnly s) (role : Nat) (op : Nat) (f : Nat → Nat → Desc → State → State) (hf : ∀ a0 a1 a2 x, s0.HostOnly x → s0.HostOnly (f a0 a1 a2 x)) : s0.HostOnly (State.onTurn s role op f) := by
  unfold State.onTurn
  repeat' first
    | (with_reducible first | assumption | apply hf)
    | (with_reducible apply hsnd_keeps; with_reducible assumption)
    | (extract_lets -underBinder +onlyGivenNames x; first | (refine hmp_keeps (s0 := s0) x ?_ ?_; unfold x; clear x; rotate_left; intro hx; clear_value x) | clear_value x)
    | split
    | intro _
    | (with_reducible apply State.HostOnly.of_same; with_reducible assumption; rfl; rfl)

theorem State.emitRecord_hostOnly (h : s0.HostOnly s) (role : Nat) (kind : Nat) (b : Bytes)  : s0.HostOnly (State.emitRecord s role kind b) := by
  unfold State.emitRecord
  repeat' first
    | (with_reducible first | assumption | apply State.modRing_hostOnly | apply State.hostWrite_hostOnly
                            | apply State.putEntry_hostOnly)
    | (with_reducible apply hsnd_keeps; with_reducible assumption)
    | (extract_lets -underBinder +onlyGivenNames x; first | (refine hmp_keeps (s0 := s0) x ?_ ?_; unfold x; clear x; rotate_left; intro hx; clear_value x) | clear_value x)
    | split
    | intro _
    | (with_reducible apply State.HostOnly.of_same; with_reducible assumption; rfl; rfl)

theorem State.notice_hostOnly (h : s0.HostOnly s) (q : Nat) (b : Bytes)  : s0.HostOnly (State.notice s q b) := by
  unfold State.notice
  repeat' first
    | (with_reducible first | assumption | apply State.modRing_hostOnly | apply State.putWaiting_hostOnly)
    | (with_reducible apply hsnd_keeps; with_reducible assumption)
    | (extract_lets -underBinder +onlyGivenNames x; first | (refine hmp_keeps (s0 := s0) x ?_ ?_; unfold x; clear x; rotate_left; intro hx; clear_value x) | clear_value x)
    | split
    | intro _
    | (with_reducible apply State.HostOnly.of_same; with_reducible assumption; rfl; rfl)


/-! ### Answers to requests and mode results leave the units alone -/

/-- What Quiet says, and that the mode and the units beside the pair are as they were. -/
structure State.Mild (s t : State) : Prop extends State.Quiet s t where
  mode : t.mode = s.mode
  ports : t.ports = s.ports
  health : t.health = s.health
  gce : t.gce = s.gce
  leg : t.leg = s.leg
  adc : t.adc = s.adc
  cap : t.cap = s.cap

theorem State.Mild.refl (s : State) : s.Mild s := ⟨State.Quiet.refl s, rfl, rfl, rfl, rfl, rfl, rfl, rfl⟩
theorem State.Mild.trans {a b c : State} (h : a.Mild b) (k : b.Mild c) : a.Mild c :=
  ⟨h.toQuiet.trans k.toQuiet, k.mode.trans h.mode, k.ports.trans h.ports, k.health.trans h.health, k.gce.trans h.gce, k.leg.trans h.leg,
    k.adc.trans h.adc, k.cap.trans h.cap⟩
theorem State.Calm.mild (h : s0.Calm s) : s0.Mild s := ⟨h.toQuiet, h.mode, h.ports, h.health, h.gce, h.leg, h.adc, h.cap⟩
theorem State.Mild.of_same {t : State} (h : s0.Mild s) (e1 : t.clk = s.clk) (e2 : t.sec = s.sec) (e3 : t.tim = s.tim)
    (e4 : t.bell = s.bell) (e5 : t.fad = s.fad) (e6 : t.mill = s.mill) (e7 : t.pmu = s.pmu) (e8 : t.thm = s.thm) (e9 : t.saf = s.saf)
    (e10 : t.pending = s.pending) (e11 : t.rdata = s.rdata) (e13 : t.hiLatch = s.hiLatch)
    (e14 : t.regs = s.regs) (e15 : t.host.link = s.host.link) (f1 : t.mode = s.mode) (f2 : t.ports = s.ports) (f3 : t.health = s.health)
    (f4 : t.gce = s.gce) (f5 : t.leg = s.leg) (f6 : t.adc = s.adc) (f7 : t.cap = s.cap) : s0.Mild t :=
  ⟨h.toQuiet.of_same e1 e2 e3 e4 e5 e6 e7 e8 e9 e10 e11 e13 e14 e15, f1.trans h.mode, f2.trans h.ports, f3.trans h.health, f4.trans h.gce,
    f5.trans h.leg, f6.trans h.adc, f7.trans h.cap⟩

theorem mmp_keeps {G : Prop} (x : State) (h : s0.Mild x) (k : s0.Mild x → G) : G := k h
theorem msnd_keeps {α : Type} {p : α × State} {a : α} {x : State} (e : p = (a, x)) (h : s0.Mild p.2) : s0.Mild x := by subst e; exact h
theorem mfoldl_keeps {β : Type} (l : List β) {f : State → β → State} (h : s0.Mild s) (k : ∀ x e, s0.Mild x → s0.Mild (f x e)) :
    s0.Mild (l.foldl f s) := by
  induction l generalizing s with
  | nil => exact h
  | cons a r ih => exact ih (k _ _ h)
theorem State.forAll_mild (h : s0.Mild s) (l : List Nat) (f : Nat → State → State) (hf : ∀ i x, s0.Mild x → s0.Mild (f i x)) :
    s0.Mild (s.forAll l f) := mfoldl_keeps l h fun _ _ hx => hf _ _ hx
theorem State.iff_mild (h : s0.Mild s) (c : Bool) (f : State → State) (hf : ∀ x, s0.Mild x → s0.Mild (f x)) : s0.Mild (s.iff c f) := by
  unfold State.iff
  split
  · exact hf _ h
  · exact h
theorem State.modPair_mild (h : s0.Mild s) (f) : s0.Mild (s.modPair f) := State.Mild.of_same h rfl rfl rfl rfl rfl rfl rfl rfl rfl rfl rfl rfl rfl rfl rfl rfl rfl rfl rfl rfl rfl
theorem State.setReg_mild (h : s0.Mild s) (r : Reg) (i j : Nat) (v : Word) (a : raiseOff (r.addr i j) = true)
    (b : eventOff (r.addr i j) = false) : s0.Mild (s.setReg r i v j) :=
  ⟨State.setReg_quiet h.toQuiet r i j v a b, h.mode, h.ports, h.health, h.gce, h.leg, h.adc, h.cap⟩
theorem State.finishRole_mild (h : s0.Mild s) (role idx : Nat) (c : Compl) : s0.Mild (s.finishRole role idx c) :=
  h.trans (State.finishRole_hostOnly (State.HostOnly.refl s) role idx c).calm.mild
theorem State.raiseCore_mild (h : s0.Mild s) (src idx w1 : Nat) (f : Bool) : s0.Mild (s.raiseCore src idx w1 f) :=
  h.trans (State.raiseCore_calm (State.Calm.refl s) src idx w1 f).mild

theorem State.pairSend_mild (h : s0.Mild s) (kind : Nat) (body : Bytes)  : s0.Mild (State.pairSend s kind body) := by
  unfold State.pairSend
  repeat' first
    | (with_reducible first | assumption | apply State.modPair_mild)
    | (with_reducible apply msnd_keeps; with_reducible assumption)
    | (extract_lets -underBinder +onlyGivenNames x; first | (refine mmp_keeps (s0 := s0) x ?_ ?_; unfold x; clear x; rotate_left; intro hx; clear_value x) | clear_value x)
    | split
    | intro _
    | (with_reducible apply State.Mild.of_same; with_reducible assumption; rfl; rfl; rfl; rfl; rfl; rfl; rfl; rfl; rfl; rfl; rfl; rfl; rfl; rfl; rfl; rfl; rfl; rfl; rfl; rfl; rfl)

theorem State.forward_mild (h : s0.Mild s) (kind : Nat) (act : Nat) (args : List Nat)  : s0.Mild (State.forward s kind act args) := by
  unfold State.forward
  repeat' first
    | (with_reducible first | assumption | apply State.pairSend_mild | apply State.modPair_mild)
    | (with_reducible apply msnd_keeps; with_reducible assumption)
    | (extract_lets -underBinder +onlyGivenNames x; first | (refine mmp_keeps (s0 := s0) x ?_ ?_; unfold x; clear x; rotate_left; intro hx; clear_value x) | clear_value x)
    | split
    | intro _
    | (with_reducible apply State.Mild.of_same; with_reducible assumption; rfl; rfl; rfl; rfl; rfl; rfl; rfl; rfl; rfl; rfl; rfl; rfl; rfl; rfl; rfl; rfl; rfl; rfl; rfl; rfl; rfl)

theorem State.answer_mild (h : s0.Mild s) (role : Nat) (k : Nat) (c : Compl)  : s0.Mild (State.answer s role k c) := by
  unfold State.answer
  repeat' first
    | (with_reducible first | assumption | apply State.pairSend_mild | apply State.finishRole_mild)
    | (with_reducible apply msnd_keeps; with_reducible assumption)
    | (extract_lets -underBinder +onlyGivenNames x; first | (refine mmp_keeps (s0 := s0) x ?_ ?_; unfold x; clear x; rotate_left; intro hx; clear_value x) | clear_value x)
    | split
    | intro _

theorem State.modeEnd_mild (h : s0.Mild s) (src : Nat) (target : Nat) (result : Nat) (check : Nat) (index : Nat) (act : Option Nat)  : s0.Mild (State.modeEnd s src target result check index act) := by
  unfold State.modeEnd
  repeat' first
    | (with_reducible first | assumption)
    | ((with_reducible apply State.setReg_mild) <;> try decide)
    | (with_reducible first | apply State.answer_mild)
    | (with_reducible apply msnd_keeps; with_reducible assumption)
    | (extract_lets -underBinder +onlyGivenNames x; first | (refine mmp_keeps (s0 := s0) x ?_ ?_; unfold x; clear x; rotate_left; intro hx; clear_value x) | clear_value x)
    | split
    | intro _
    | (with_reducible apply State.Mild.of_same; with_reducible assumption; rfl; rfl; rfl; rfl; rfl; rfl; rfl; rfl; rfl; rfl; rfl; rfl; rfl; rfl; rfl; rfl; rfl; rfl; rfl; rfl; rfl)

end Sys2Proof.Machine
end

