-- ==== Sys2Proof/Laws/KeepsCore.lean ====
section
/-! SUPPORT. What every operation keeps (State.Keeps of Safety.lean), one lemma per operation and per command: the shared operations: registers, rings, watch, stops. -/

namespace Sys2Proof.Machine

set_option linter.unusedTactic false
set_option linter.unreachableTactic false
set_option linter.unusedVariables false

variable {s0 s : State}

/-! ### Basics -/

theorem Sec.Burns.refl (x : Sec) : x.Burns x :=
  ⟨rfl, rfl, rfl, ⟨rfl, rfl, rfl⟩, Nat.min_le_right _ _, fun _ h => h, fun _ h => h, fun _ h => h, fun _ _ => rfl, fun h => h⟩

theorem State.Keeps.refl (s : State) : s.Keeps s := ⟨rfl, rfl, Sec.Burns.refl _, Nat.le_refl _, id, id⟩

theorem Keeps.of_same {t : State} (h : s0.Keeps s) (e1 : t.pending = s.pending) (e2 : t.clk.variant = s.clk.variant)
    (e3 : t.sec = s.sec) (e4 : t.freeCtr = s.freeCtr) (e5 : t.hostMem = s.hostMem) (e6 : t.leg = s.leg) : s0.Keeps t := by
  refine ⟨e1.trans h.1, e2.trans h.2, e3 ▸ h.3, e4 ▸ h.4, fun w => ?_, fun w => ?_⟩
  · have := h.5 w
    unfold State.MemoryWf at this ⊢
    rw [e5]; exact this
  · have := h.6 w
    unfold State.LegsSafe State.sw at this ⊢
    rw [e6]; exact this

theorem mp_keeps {G : Prop} (x : State) (h : s0.Keeps x) (k : s0.Keeps x → G) : G := k h
theorem snd_keeps {α : Type} {p : α × State} {a : α} {x : State} (e : p = (a, x)) (h : s0.Keeps p.2) : s0.Keeps x := by subst e; exact h
theorem foldl_keeps {β : Type} (l : List β) {f : State → β → State} (h : s0.Keeps s) (k : ∀ x e, s0.Keeps x → s0.Keeps (f x e)) :
    s0.Keeps (l.foldl f s) := by
  induction l generalizing s with
  | nil => exact h
  | cons a r ih => exact ih (k _ _ h)
theorem foldl_snd_keeps {α β : Type} (l : List β) {f : α × State → β → α × State} {p : α × State} (h : s0.Keeps p.2)
    (k : ∀ x e, s0.Keeps x.2 → s0.Keeps (f x e).2) : s0.Keeps (l.foldl f p).2 := by
  induction l generalizing p with
  | nil => exact h
  | cons a r ih => exact ih (k _ _ h)

/-! ### Ops -/

theorem State.modClk_keeps (h : s0.Keeps s) (f : Clk → Clk) (k : ∀ c, (f c).variant = c.variant) : s0.Keeps (s.modClk f) :=
  Keeps.of_same h rfl (k _) rfl rfl rfl rfl
theorem State.modMode_keeps (h : s0.Keeps s) (f) : s0.Keeps (s.modMode f) := Keeps.of_same h rfl rfl rfl rfl rfl rfl
theorem State.modHostIf_keeps (h : s0.Keeps s) (f) : s0.Keeps (s.modHostIf f) := Keeps.of_same h rfl rfl rfl rfl rfl rfl
theorem State.modTim_keeps (h : s0.Keeps s) (f) : s0.Keeps (s.modTim f) := Keeps.of_same h rfl rfl rfl rfl rfl rfl
theorem State.modBell_keeps (h : s0.Keeps s) (f) : s0.Keeps (s.modBell f) := Keeps.of_same h rfl rfl rfl rfl rfl rfl
theorem State.modGce_keeps (h : s0.Keeps s) (f) : s0.Keeps (s.modGce f) := Keeps.of_same h rfl rfl rfl rfl rfl rfl
theorem State.modAdc_keeps (h : s0.Keeps s) (f) : s0.Keeps (s.modAdc f) := Keeps.of_same h rfl rfl rfl rfl rfl rfl
theorem State.modFad_keeps (h : s0.Keeps s) (f) : s0.Keeps (s.modFad f) := Keeps.of_same h rfl rfl rfl rfl rfl rfl
theorem State.modMill_keeps (h : s0.Keeps s) (f) : s0.Keeps (s.modMill f) := Keeps.of_same h rfl rfl rfl rfl rfl rfl
theorem State.modPair_keeps (h : s0.Keeps s) (f) : s0.Keeps (s.modPair f) := Keeps.of_same h rfl rfl rfl rfl rfl rfl
theorem State.modCap_keeps (h : s0.Keeps s) (f) : s0.Keeps (s.modCap f) := Keeps.of_same h rfl rfl rfl rfl rfl rfl
theorem State.modPmu_keeps (h : s0.Keeps s) (f) : s0.Keeps (s.modPmu f) := Keeps.of_same h rfl rfl rfl rfl rfl rfl
theorem State.modSaf_keeps (h : s0.Keeps s) (f) : s0.Keeps (s.modSaf f) := Keeps.of_same h rfl rfl rfl rfl rfl rfl
theorem State.modWch_keeps (h : s0.Keeps s) (f) : s0.Keeps (s.modWch f) := Keeps.of_same h rfl rfl rfl rfl rfl rfl
theorem State.modBook_keeps (h : s0.Keeps s) (f) : s0.Keeps (s.modBook f) := Keeps.of_same h rfl rfl rfl rfl rfl rfl
theorem State.modThm_keeps (h : s0.Keeps s) (f) : s0.Keeps (s.modThm f) := Keeps.of_same h rfl rfl rfl rfl rfl rfl
theorem State.modPort_keeps (h : s0.Keeps s) (k f) : s0.Keeps (s.modPort k f) := Keeps.of_same h rfl rfl rfl rfl rfl rfl
theorem State.modHealth1_keeps (h : s0.Keeps s) (k f) : s0.Keeps (s.modHealth1 k f) := Keeps.of_same h rfl rfl rfl rfl rfl rfl
theorem State.modRing_keeps (h : s0.Keeps s) (k f) : s0.Keeps (s.modRing k f) := Keeps.of_same h rfl rfl rfl rfl rfl rfl
theorem State.modSta_keeps (h : s0.Keeps s) (k f) : s0.Keeps (s.modSta k f) := Keeps.of_same h rfl rfl rfl rfl rfl rfl
theorem State.modGrp_keeps (h : s0.Keeps s) (k f) : s0.Keeps (s.modGrp k f) := Keeps.of_same h rfl rfl rfl rfl rfl rfl
theorem State.modPst_keeps (h : s0.Keeps s) (k f) : s0.Keeps (s.modPst k f) := Keeps.of_same h rfl rfl rfl rfl rfl rfl
theorem State.modLine_keeps (h : s0.Keeps s) (k f) : s0.Keeps (s.modLine k f) := Keeps.of_same h rfl rfl rfl rfl rfl rfl
theorem State.modAcal_keeps (h : s0.Keeps s) (k f) : s0.Keeps (s.modAcal k f) := Keeps.of_same h rfl rfl rfl rfl rfl rfl
theorem State.modAres_keeps (h : s0.Keeps s) (k f) : s0.Keeps (s.modAres k f) := Keeps.of_same h rfl rfl rfl rfl rfl rfl
theorem State.modAavg_keeps (h : s0.Keeps s) (k f) : s0.Keeps (s.modAavg k f) := Keeps.of_same h rfl rfl rfl rfl rfl rfl
theorem State.modFcal_keeps (h : s0.Keeps s) (k f) : s0.Keeps (s.modFcal k f) := Keeps.of_same h rfl rfl rfl rfl rfl rfl
theorem State.modFres_keeps (h : s0.Keeps s) (k f) : s0.Keeps (s.modFres k f) := Keeps.of_same h rfl rfl rfl rfl rfl rfl
theorem State.modTask_keeps (h : s0.Keeps s) (k f) : s0.Keeps (s.modTask k f) := Keeps.of_same h rfl rfl rfl rfl rfl rfl
theorem State.modUnit_keeps (h : s0.Keeps s) (k f) : s0.Keeps (s.modUnit k f) := Keeps.of_same h rfl rfl rfl rfl rfl rfl
theorem State.modAtrg_keeps (h : s0.Keeps s) (k f) : s0.Keeps (s.modAtrg k f) := Keeps.of_same h rfl rfl rfl rfl rfl rfl
theorem State.modSeqe_keeps (h : s0.Keeps s) (k f) : s0.Keeps (s.modSeqe k f) := Keeps.of_same h rfl rfl rfl rfl rfl rfl
theorem State.modTw_keeps (h : s0.Keeps s) (k f) : s0.Keeps (s.modTw k f) := Keeps.of_same h rfl rfl rfl rfl rfl rfl
theorem State.modCons_keeps (h : s0.Keeps s) (k f) : s0.Keeps (s.modCons k f) := Keeps.of_same h rfl rfl rfl rfl rfl rfl
theorem State.modSensor_keeps (h : s0.Keeps s) (k f) : s0.Keeps (s.modSensor k f) := Keeps.of_same h rfl rfl rfl rfl rfl rfl
theorem State.modOut_keeps (h : s0.Keeps s) (k f) : s0.Keeps (s.modOut k f) := Keeps.of_same h rfl rfl rfl rfl rfl rfl
theorem State.modTag_keeps (h : s0.Keeps s) (k f) : s0.Keeps (s.modTag k f) := Keeps.of_same h rfl rfl rfl rfl rfl rfl

theorem State.modSec_keeps (h : s0.Keeps s) (f : Sec → Sec) (k : ∀ x, s0.sec.Burns x → s0.sec.Burns (f x)) : s0.Keeps (s.modSec f) :=
  ⟨h.1, h.2, k _ h.3, h.4, h.5, h.6⟩

/-- A switch whose change does not turn it on keeps the legs safe. -/
theorem State.modSw_keeps (h : s0.Keeps s) (k : Nat) (f : Sw → Sw) (off : ∀ w, (f w).on = true → w.on = true) :
    s0.Keeps (s.modSw k f) := by
  refine ⟨h.1, h.2, h.3, h.4, h.5, fun w n hn => h.6 w n ?_⟩
  have key : ∀ j, ((s.modSw k f).sw j).on = true → (s.sw j).on = true := by
    intro j hj
    unfold State.modSw State.sw at hj
    rw [tget_tput] at hj
    split at hj
    · next e => subst e; exact off _ hj
    · exact hj
  exact ⟨key _ hn.1, key _ hn.2⟩

theorem State.modLg_keeps (h : s0.Keeps s) (k f) : s0.Keeps (s.modLg k f) :=
  ⟨h.1, h.2, h.3, h.4, h.5, h.6⟩

theorem State.hostWrite_keeps (h : s0.Keeps s) (a : Nat) (b : Bytes) : s0.Keeps (s.hostWrite a b) :=
  ⟨h.1, h.2, h.3, h.4, fun w => memWrite_wf _ a b (h.5 w), h.6⟩

theorem State.free_keeps (h : s0.Keeps s) : s0.Keeps (s.free).2 :=
  ⟨h.1, h.2, h.3, Nat.le_succ_of_le h.4, h.5, h.6⟩

theorem State.forAll_keeps (h : s0.Keeps s) (l : List Nat) (f : Nat → State → State)
    (hf : ∀ i x, s0.Keeps x → s0.Keeps (f i x)) : s0.Keeps (s.forAll l f) :=
  foldl_keeps l h fun x e hx => hf e x hx

theorem State.iff_keeps (h : s0.Keeps s) (c : Bool) (f : State → State) (hf : ∀ x, s0.Keeps x → s0.Keeps (f x)) :
    s0.Keeps (s.iff c f) := by
  unfold State.iff
  split
  · exact hf s h
  · exact h

theorem State.setReg_keeps (h : s0.Keeps s) (r : Reg) (i : Nat) (v : Word) (j : Nat) : s0.Keeps (s.setReg r i v j) :=
  Keeps.of_same h rfl rfl rfl rfl rfl rfl

theorem Sec.Burns.of_same {a b c : Sec} (h : a.Burns b) (e1 : c.otpSeed = b.otpSeed) (e2 : c.otpSerial = b.otpSerial) (e3 : c.cert = b.cert)
    (e4 : c.vendorHash = b.vendorHash) (e5 : c.vendorValid = b.vendorValid) (e6 : c.vendorRevoked = b.vendorRevoked)
    (e7 : c.rollback = b.rollback) (e8 : c.ownerValid = b.ownerValid) (e9 : c.ownerRevoked = b.ownerRevoked)
    (e10 : c.ownerUsed = b.ownerUsed) (e11 : c.ownerHash = b.ownerHash) (e12 : c.ownerEnforce = b.ownerEnforce) : a.Burns c :=
  ⟨e1.trans h.1, e2.trans h.2, e3.trans h.3, ⟨e4.trans h.4.1, e5.trans h.4.2.1, e6.trans h.4.2.2⟩, e7 ▸ h.5, e8 ▸ h.6, e9 ▸ h.7,
    e10 ▸ h.8, e11 ▸ h.9, e12 ▸ h.10⟩
theorem foldl_fst_keeps {α β : Type} (l : List β) {f : State × α → β → State × α} {p : State × α} (h : s0.Keeps p.1)
    (k : ∀ x e, s0.Keeps x.1 → s0.Keeps (f x e).1) : s0.Keeps (l.foldl f p).1 := by
  induction l generalizing p with
  | nil => exact h
  | cons a r ih => exact ih (k _ _ h)
theorem mp1_keeps {G : Prop} (x : State → State) (h : ∀ y, s0.Keeps y → s0.Keeps (x y))
    (k : (∀ y, s0.Keeps y → s0.Keeps (x y)) → G) : G := k h
theorem mp2_keeps {α β : Type} {G : Prop} (x : α → β → State → State) (h : ∀ a b y, s0.Keeps y → s0.Keeps (x a b y))
    (k : (∀ a b y, s0.Keeps y → s0.Keeps (x a b y)) → G) : G := k h
theorem mp3_keeps {α β : Type} {G : Prop} (x : α → β × State) (h : ∀ a, s0.Keeps (x a).2) (k : (∀ a, s0.Keeps (x a).2) → G) : G := k h
theorem State.setRf_keeps (h : s0.Keeps s) (r : Reg) (i : Nat) (hi : Nat) (lo : Nat) (v : Nat) : s0.Keeps (State.setRf s r i hi lo v) := by
  unfold State.setRf
  repeat' first
    | (with_reducible first | assumption | apply State.setReg_keeps)
    | (with_reducible apply snd_keeps; with_reducible assumption)
    | (extract_lets -underBinder +onlyGivenNames x; first | (refine mp_keeps (s0 := s0) x ?_ ?_; unfold x; clear x; rotate_left; intro hx; clear_value x) | clear_value x)
    | split
    | intro _

theorem State.setRb_keeps (h : s0.Keeps s) (r : Reg) (i : Nat) (n : Nat) (b : Bool) : s0.Keeps (State.setRb s r i n b) := by
  unfold State.setRb
  repeat' first
    | (with_reducible first | assumption | apply State.setRf_keeps)
    | (with_reducible apply snd_keeps; with_reducible assumption)
    | (extract_lets -underBinder +onlyGivenNames x; first | (refine mp_keeps (s0 := s0) x ?_ ?_; unfold x; clear x; rotate_left; intro hx; clear_value x) | clear_value x)
    | split
    | intro _

theorem State.bump_keeps (h : s0.Keeps s) (r : Reg) (i : Nat) (hi : Nat) (lo : Nat) (k : Nat) : s0.Keeps (State.bump s r i hi lo k) := by
  unfold State.bump
  repeat' first
    | (with_reducible first | assumption | apply State.setRf_keeps)
    | (with_reducible apply snd_keeps; with_reducible assumption)
    | (extract_lets -underBinder +onlyGivenNames x; first | (refine mp_keeps (s0 := s0) x ?_ ?_; unfold x; clear x; rotate_left; intro hx; clear_value x) | clear_value x)
    | split
    | intro _

theorem State.catchUpOut_keeps (h : s0.Keeps s) (j : Nat) : s0.Keeps (State.catchUpOut s j) := by
  unfold State.catchUpOut
  repeat' first
    | (with_reducible first | assumption | apply State.modOut_keeps)
    | (with_reducible apply snd_keeps; with_reducible assumption)
    | (extract_lets -underBinder +onlyGivenNames x; first | (refine mp_keeps (s0 := s0) x ?_ ?_; unfold x; clear x; rotate_left; intro hx; clear_value x) | clear_value x)
    | split
    | intro _

theorem State.tickTo_keeps (h : s0.Keeps s) (t : Nat) : s0.Keeps (State.tickTo s t) := by
  unfold State.tickTo
  repeat' first
    | (with_reducible first | assumption | apply State.modClk_keeps | apply State.catchUpOut_keeps)
    | (with_reducible apply snd_keeps; with_reducible assumption)
    | (extract_lets -underBinder +onlyGivenNames x; first | (refine mp_keeps (s0 := s0) x ?_ ?_; unfold x; clear x; rotate_left; intro hx; clear_value x) | clear_value x)
    | split
    | (intro _; with_reducible rfl)
    | (intro _; exact Clk.setSrc_variant _ _ _)
    | (intro _; exact rfl)
    | intro _
    | (with_reducible apply Keeps.of_same; with_reducible assumption; rfl; rfl; rfl; rfl; rfl; rfl)

theorem State.issue_keeps (h : s0.Keeps s) (write : Bool) (limit : Nat) (a : Nat) (n : Nat) : s0.Keeps (State.issue s write limit a n) := by
  unfold State.issue
  repeat' first
    | (with_reducible first | assumption)
    | (with_reducible apply snd_keeps; with_reducible assumption)
    | (extract_lets -underBinder +onlyGivenNames x; first | (refine mp_keeps (s0 := s0) x ?_ ?_; unfold x; clear x; rotate_left; intro hx; clear_value x) | clear_value x)
    | split
    | intro _
    | (with_reducible apply Keeps.of_same; with_reducible assumption; rfl; rfl; rfl; rfl; rfl; rfl)

theorem State.hostRead_keeps (h : s0.Keeps s) (a : Nat) (n : Nat) : s0.Keeps (State.hostRead s a n) := by
  unfold State.hostRead
  repeat' first
    | (with_reducible first | assumption | apply State.issue_keeps)
    | (with_reducible apply snd_keeps; with_reducible assumption)
    | (extract_lets -underBinder +onlyGivenNames x; first | (refine mp_keeps (s0 := s0) x ?_ ?_; unfold x; clear x; rotate_left; intro hx; clear_value x) | clear_value x)
    | split
    | intro _

theorem State.setEvent_keeps (h : s0.Keeps s) (r : Reg) (b : Nat) : s0.Keeps (State.setEvent s r b) := by
  unfold State.setEvent
  repeat' first
    | (with_reducible first | assumption | apply State.setRb_keeps)
    | (with_reducible apply snd_keeps; with_reducible assumption)
    | (extract_lets -underBinder +onlyGivenNames x; first | (refine mp_keeps (s0 := s0) x ?_ ?_; unfold x; clear x; rotate_left; intro hx; clear_value x) | clear_value x)
    | split
    | intro _

/-! ### Rings -/

theorem State.signal_keeps (h : s0.Keeps s) (v : Nat) : s0.Keeps (State.signal s v) := by
  unfold State.signal
  repeat' first
    | (with_reducible first | assumption | apply State.modHostIf_keeps)
    | (with_reducible apply snd_keeps; with_reducible assumption)
    | (extract_lets -underBinder +onlyGivenNames x; first | (refine mp_keeps (s0 := s0) x ?_ ?_; unfold x; clear x; rotate_left; intro hx; clear_value x) | clear_value x)
    | split
    | intro _
    | (with_reducible apply Keeps.of_same; with_reducible assumption; rfl; rfl; rfl; rfl; rfl; rfl)

theorem State.sendHeld_keeps (h : s0.Keeps s)  : s0.Keeps (State.sendHeld s) := by
  unfold State.sendHeld
  repeat' first
    | (with_reducible first | assumption | apply State.forAll_keeps | apply State.iff_keeps | apply State.signal_keeps)
    | (with_reducible apply snd_keeps; with_reducible assumption)
    | (extract_lets -underBinder +onlyGivenNames x; first | (refine mp_keeps (s0 := s0) x ?_ ?_; unfold x; clear x; rotate_left; intro hx; clear_value x) | clear_value x)
    | split
    | intro _

theorem State.ringVectors_keeps (h : s0.Keeps s)  : s0.Keeps (State.ringVectors s) := by
  unfold State.ringVectors
  repeat' first
    | (with_reducible first | assumption | apply State.forAll_keeps | apply State.modRing_keeps | apply State.iff_keeps
                            | apply State.signal_keeps)
    | (with_reducible apply snd_keeps; with_reducible assumption)
    | (extract_lets -underBinder +onlyGivenNames x; first | (refine mp_keeps (s0 := s0) x ?_ ?_; unfold x; clear x; rotate_left; intro hx; clear_value x) | clear_value x)
    | split
    | intro _
    | (with_reducible apply Keeps.of_same; with_reducible assumption; rfl; rfl; rfl; rfl; rfl; rfl)

theorem State.shadowWrite_keeps (h : s0.Keeps s)  : s0.Keeps (State.shadowWrite s) := by
  unfold State.shadowWrite
  repeat' first
    | (with_reducible first | assumption | apply State.hostWrite_keeps | apply State.modHostIf_keeps
                            | apply State.ringVectors_keeps)
    | (with_reducible apply snd_keeps; with_reducible assumption)
    | (extract_lets -underBinder +onlyGivenNames x; first | (refine mp_keeps (s0 := s0) x ?_ ?_; unfold x; clear x; rotate_left; intro hx; clear_value x) | clear_value x)
    | split
    | intro _
    | (with_reducible apply Keeps.of_same; with_reducible assumption; rfl; rfl; rfl; rfl; rfl; rfl)

theorem State.putEntry_keeps (h : s0.Keeps s) (i : Nat) (b : Bytes) : s0.Keeps (State.putEntry s i b) := by
  unfold State.putEntry
  repeat' first
    | (with_reducible first | assumption | apply State.hostWrite_keeps | apply State.modRing_keeps)
    | (with_reducible apply snd_keeps; with_reducible assumption)
    | (extract_lets -underBinder +onlyGivenNames x; first | (refine mp_keeps (s0 := s0) x ?_ ?_; unfold x; clear x; rotate_left; intro hx; clear_value x) | clear_value x)
    | split
    | intro _
    | (with_reducible apply Keeps.of_same; with_reducible assumption; rfl; rfl; rfl; rfl; rfl; rfl)

theorem State.putWaiting_keeps (h : s0.Keeps s) (i n : Nat) : s0.Keeps (s.putWaiting i n) := by
  induction n generalizing s with
  | zero => exact h
  | succ m ih =>
    unfold State.putWaiting
    repeat' first
      | with_reducible assumption
      | with_reducible apply ih
      | with_reducible apply State.putEntry_keeps
      | with_reducible apply State.modRing_keeps
      | (with_reducible apply snd_keeps; with_reducible assumption)
      | (extract_lets -underBinder +onlyGivenNames x; first | (refine mp_keeps (s0 := s0) x ?_ ?_; unfold x; clear x; rotate_left; intro hx; clear_value x) | clear_value x)
      | split
      | intro _
      | (with_reducible apply Keeps.of_same; with_reducible assumption; rfl; rfl; rfl; rfl; rfl; rfl)

theorem State.markDone_keeps (h : s0.Keeps s) (i : Nat) (idx : Nat) (c : Compl) : s0.Keeps (State.markDone s i idx c) := by
  unfold State.markDone
  repeat' first
    | (with_reducible first | assumption | apply State.modRing_keeps | apply State.modHostIf_keeps)
    | (with_reducible apply snd_keeps; with_reducible assumption)
    | (extract_lets -underBinder +onlyGivenNames x; first | (refine mp_keeps (s0 := s0) x ?_ ?_; unfold x; clear x; rotate_left; intro hx; clear_value x) | clear_value x)
    | split
    | intro _
    | (with_reducible apply Keeps.of_same; with_reducible assumption; rfl; rfl; rfl; rfl; rfl; rfl)

theorem State.flushHead_keeps (h : s0.Keeps s) (i : Nat) (idx : Nat) (d : Desc) (c : Compl) (rest : List Act) : s0.Keeps (State.flushHead s i idx d c rest) := by
  unfold State.flushHead
  repeat' first
    | (with_reducible first | assumption | apply State.modRing_keeps | apply State.modHostIf_keeps | apply State.iff_keeps
                            | apply State.putEntry_keeps)
    | (with_reducible apply snd_keeps; with_reducible assumption)
    | (extract_lets -underBinder +onlyGivenNames x; first | (refine mp_keeps (s0 := s0) x ?_ ?_; unfold x; clear x; rotate_left; intro hx; clear_value x) | clear_value x)
    | split
    | intro _
    | (with_reducible apply Keeps.of_same; with_reducible assumption; rfl; rfl; rfl; rfl; rfl; rfl)

theorem State.flushActs_keeps (h : s0.Keeps s) (i n : Nat) : s0.Keeps (s.flushActs i n) := by
  induction n generalizing s with
  | zero => exact h
  | succ m ih =>
    unfold State.flushActs
    repeat' first
      | with_reducible assumption
      | with_reducible apply ih
      | with_reducible apply State.flushHead_keeps
      | (with_reducible apply snd_keeps; with_reducible assumption)
      | (extract_lets -underBinder +onlyGivenNames x; first | (refine mp_keeps (s0 := s0) x ?_ ?_; unfold x; clear x; rotate_left; intro hx; clear_value x) | clear_value x)
      | split
      | intro _
      | (with_reducible apply Keeps.of_same; with_reducible assumption; rfl; rfl; rfl; rfl; rfl; rfl)

theorem State.startActs_keeps (h : s0.Keeps s) (i n : Nat) : s0.Keeps (s.startActs i n) := by
  induction n generalizing s with
  | zero => exact h
  | succ m ih =>
    unfold State.startActs
    repeat' first
      | with_reducible assumption
      | with_reducible apply ih
      | with_reducible apply State.modRing_keeps
      | with_reducible apply State.markDone_keeps
      | (with_reducible apply snd_keeps; with_reducible assumption)
      | (extract_lets -underBinder +onlyGivenNames x; first | (refine mp_keeps (s0 := s0) x ?_ ?_; unfold x; clear x; rotate_left; intro hx; clear_value x) | clear_value x)
      | split
      | intro _
      | (with_reducible apply Keeps.of_same; with_reducible assumption; rfl; rfl; rfl; rfl; rfl; rfl)

theorem State.endStop_keeps (h : s0.Keeps s) (i : Nat) : s0.Keeps (State.endStop s i) := by
  unfold State.endStop
  repeat' first
    | (with_reducible first | assumption | apply State.shadowWrite_keeps | apply State.modRing_keeps)
    | (with_reducible apply snd_keeps; with_reducible assumption)
    | (extract_lets -underBinder +onlyGivenNames x; first | (refine mp_keeps (s0 := s0) x ?_ ?_; unfold x; clear x; rotate_left; intro hx; clear_value x) | clear_value x)
    | split
    | intro _
    | (with_reducible apply Keeps.of_same; with_reducible assumption; rfl; rfl; rfl; rfl; rfl; rfl)

theorem State.pump_keeps (h : s0.Keeps s) (i : Nat) : s0.Keeps (State.pump s i) := by
  unfold State.pump
  repeat' first
    | (with_reducible first | assumption | apply State.flushActs_keeps | apply State.startActs_keeps | apply State.endStop_keeps)
    | (with_reducible apply snd_keeps; with_reducible assumption)
    | (extract_lets -underBinder +onlyGivenNames x; first | (refine mp_keeps (s0 := s0) x ?_ ?_; unfold x; clear x; rotate_left; intro hx; clear_value x) | clear_value x)
    | split
    | intro _

theorem State.finishAct_keeps (h : s0.Keeps s) (i : Nat) (idx : Nat) (c : Compl) : s0.Keeps (State.finishAct s i idx c) := by
  unfold State.finishAct
  repeat' first
    | (with_reducible first | assumption | apply State.markDone_keeps | apply State.pump_keeps)
    | (with_reducible apply snd_keeps; with_reducible assumption)
    | (extract_lets -underBinder +onlyGivenNames x; first | (refine mp_keeps (s0 := s0) x ?_ ?_; unfold x; clear x; rotate_left; intro hx; clear_value x) | clear_value x)
    | split
    | intro _

theorem State.holdAct_keeps (h : s0.Keeps s) (i : Nat) (idx : Nat) : s0.Keeps (State.holdAct s i idx) := by
  unfold State.holdAct
  repeat' first
    | (with_reducible first | assumption | apply State.modRing_keeps)
    | (with_reducible apply snd_keeps; with_reducible assumption)
    | (extract_lets -underBinder +onlyGivenNames x; first | (refine mp_keeps (s0 := s0) x ?_ ?_; unfold x; clear x; rotate_left; intro hx; clear_value x) | clear_value x)
    | split
    | intro _
    | (with_reducible apply Keeps.of_same; with_reducible assumption; rfl; rfl; rfl; rfl; rfl; rfl)

theorem State.ends_keeps (h : s0.Keeps s) (i : Nat) (k : Nat) (status : Nat) (value : Nat) (len : Nat) : s0.Keeps (State.ends s i k status value len) := by
  unfold State.ends
  repeat' first
    | (with_reducible first | assumption | apply State.finishAct_keeps)
    | (with_reducible apply snd_keeps; with_reducible assumption)
    | (extract_lets -underBinder +onlyGivenNames x; first | (refine mp_keeps (s0 := s0) x ?_ ?_; unfold x; clear x; rotate_left; intro hx; clear_value x) | clear_value x)
    | split
    | intro _

theorem State.readBuf_keeps (h : s0.Keeps s) (i : Nat) (k : Nat) (addr : Nat) (n : Nat) (buf : Option Bytes) (f : Bytes → State → State) (hf : ∀ a0 x, s0.Keeps x → s0.Keeps (f a0 x)) : s0.Keeps (State.readBuf s i k addr n buf f) := by
  unfold State.readBuf
  repeat' first
    | (with_reducible first | assumption | apply hf | apply State.hostRead_keeps | apply State.ends_keeps)
    | (with_reducible apply snd_keeps; with_reducible assumption)
    | (extract_lets -underBinder +onlyGivenNames x; first | (refine mp_keeps (s0 := s0) x ?_ ?_; unfold x; clear x; rotate_left; intro hx; clear_value x) | clear_value x)
    | split
    | intro _
    | (with_reducible apply Keeps.of_same; with_reducible assumption; rfl; rfl; rfl; rfl; rfl; rfl)

theorem State.bufEnd_keeps (h : s0.Keeps s) (i : Nat) (idx : Nat) (a : Nat) (b : Bytes) (c : Compl) : s0.Keeps (State.bufEnd s i idx a b c) := by
  unfold State.bufEnd
  repeat' first
    | (with_reducible first | assumption | apply State.holdAct_keeps | apply State.modHostIf_keeps | apply State.hostWrite_keeps
                            | apply State.finishAct_keeps)
    | (with_reducible apply snd_keeps; with_reducible assumption)
    | (extract_lets -underBinder +onlyGivenNames x; first | (refine mp_keeps (s0 := s0) x ?_ ?_; unfold x; clear x; rotate_left; intro hx; clear_value x) | clear_value x)
    | split
    | intro _
    | (with_reducible apply Keeps.of_same; with_reducible assumption; rfl; rfl; rfl; rfl; rfl; rfl)

theorem State.bufsOut_keeps (h : s0.Keeps s)  : s0.Keeps (State.bufsOut s) := by
  unfold State.bufsOut
  repeat' first
    | (with_reducible first | assumption | apply State.bufEnd_keeps | apply State.modHostIf_keeps | apply foldl_keeps
                            | apply foldl_snd_keeps | apply foldl_fst_keeps)
    | (with_reducible apply snd_keeps; with_reducible assumption)
    | (extract_lets -underBinder +onlyGivenNames x; first | (refine mp_keeps (s0 := s0) x ?_ ?_; unfold x; clear x; rotate_left; intro hx; clear_value x) | clear_value x)
    | split
    | intro _
    | (with_reducible apply Keeps.of_same; with_reducible assumption; rfl; rfl; rfl; rfl; rfl; rfl)

theorem State.hadTurn_keeps (h : s0.Keeps s) (i : Nat) : s0.Keeps (State.hadTurn s i) := by
  unfold State.hadTurn
  repeat' first
    | (with_reducible first | assumption | apply State.modHostIf_keeps)
    | (with_reducible apply snd_keeps; with_reducible assumption)
    | (extract_lets -underBinder +onlyGivenNames x; first | (refine mp_keeps (s0 := s0) x ?_ ?_; unfold x; clear x; rotate_left; intro hx; clear_value x) | clear_value x)
    | split
    | intro _
    | (with_reducible apply Keeps.of_same; with_reducible assumption; rfl; rfl; rfl; rfl; rfl; rfl)

theorem State.flushAll_keeps (h : s0.Keeps s) (n : Nat) : s0.Keeps (s.flushAll n) := by
  induction n generalizing s with
  | zero => exact h
  | succ n ih =>
    unfold State.flushAll
    split
    · exact h
    · split
      · exact ih (State.hadTurn_keeps (State.flushActs_keeps h _ _) _)
      · exact h

theorem State.pumpAll_keeps (h : s0.Keeps s)  : s0.Keeps (State.pumpAll s) := by
  unfold State.pumpAll
  repeat' first
    | (with_reducible first | assumption | apply State.bufsOut_keeps | apply State.forAll_keeps | apply State.putWaiting_keeps
                            | apply State.flushAll_keeps | apply State.pump_keeps)
    | (with_reducible apply snd_keeps; with_reducible assumption)
    | (extract_lets -underBinder +onlyGivenNames x; first | (refine mp_keeps (s0 := s0) x ?_ ?_; unfold x; clear x; rotate_left; intro hx; clear_value x) | clear_value x)
    | split
    | intro _

theorem State.issueReads_keeps (h : s0.Keeps s) (n : Nat) : s0.Keeps (s.issueReads n) := by
  induction n generalizing s with
  | zero => exact h
  | succ n ih =>
    unfold State.issueReads
    split
    · exact h
    · split
      · exact ih (State.hadTurn_keeps (State.modHostIf_keeps (State.issue_keeps h _ _ _ _) _) _)
      · exact h

theorem State.takeRead_keeps (h : s0.Keeps s) (i : Nat) : s0.Keeps ((State.takeRead s i).2) := by
  unfold State.takeRead
  repeat' first
    | (with_reducible first | assumption | apply State.modHostIf_keeps | apply State.issue_keeps | apply State.hadTurn_keeps)
    | (with_reducible apply snd_keeps; with_reducible assumption)
    | (extract_lets -underBinder +onlyGivenNames x; first | (refine mp_keeps (s0 := s0) x ?_ ?_; unfold x; clear x; rotate_left; intro hx; clear_value x) | clear_value x)
    | split
    | intro _
    | (with_reducible apply Keeps.of_same; with_reducible assumption; rfl; rfl; rfl; rfl; rfl; rfl)

theorem State.finishRole_keeps (h : s0.Keeps s) (role : Nat) (idx : Nat) (c : Compl) : s0.Keeps (State.finishRole s role idx c) := by
  unfold State.finishRole
  repeat' first
    | (with_reducible first | assumption | apply State.finishAct_keeps)
    | (with_reducible apply snd_keeps; with_reducible assumption)
    | (extract_lets -underBinder +onlyGivenNames x; first | (refine mp_keeps (s0 := s0) x ?_ ?_; unfold x; clear x; rotate_left; intro hx; clear_value x) | clear_value x)
    | split
    | intro _
    | (with_reducible apply Keeps.of_same; with_reducible assumption; rfl; rfl; rfl; rfl; rfl; rfl)

theorem State.roleEnd_keeps (h : s0.Keeps s) (role : Nat) (idx : Nat) (a : Nat) (b : Bytes) (c : Compl) : s0.Keeps (State.roleEnd s role idx a b c) := by
  unfold State.roleEnd
  repeat' first
    | (with_reducible first | assumption | apply State.bufEnd_keeps)
    | (with_reducible apply snd_keeps; with_reducible assumption)
    | (extract_lets -underBinder +onlyGivenNames x; first | (refine mp_keeps (s0 := s0) x ?_ ?_; unfold x; clear x; rotate_left; intro hx; clear_value x) | clear_value x)
    | split
    | intro _
    | (with_reducible apply Keeps.of_same; with_reducible assumption; rfl; rfl; rfl; rfl; rfl; rfl)

theorem State.onTurn_keeps (h : s0.Keeps s) (role : Nat) (op : Nat) (f : Nat → Nat → Desc → State → State) (hf : ∀ a0 a1 a2 x, s0.Keeps x → s0.Keeps (f a0 a1 a2 x)) : s0.Keeps (State.onTurn s role op f) := by
  unfold State.onTurn
  repeat' first
    | (with_reducible first | assumption | apply hf)
    | (with_reducible apply snd_keeps; with_reducible assumption)
    | (extract_lets -underBinder +onlyGivenNames x; first | (refine mp_keeps (s0 := s0) x ?_ ?_; unfold x; clear x; rotate_left; intro hx; clear_value x) | clear_value x)
    | split
    | intro _
    | (with_reducible apply Keeps.of_same; with_reducible assumption; rfl; rfl; rfl; rfl; rfl; rfl)

theorem State.emitRecord_keeps (h : s0.Keeps s) (role : Nat) (kind : Nat) (b : Bytes) : s0.Keeps (State.emitRecord s role kind b) := by
  unfold State.emitRecord
  repeat' first
    | (with_reducible first | assumption | apply State.modRing_keeps | apply State.hostWrite_keeps | apply State.putEntry_keeps)
    | (with_reducible apply snd_keeps; with_reducible assumption)
    | (extract_lets -underBinder +onlyGivenNames x; first | (refine mp_keeps (s0 := s0) x ?_ ?_; unfold x; clear x; rotate_left; intro hx; clear_value x) | clear_value x)
    | split
    | intro _
    | (with_reducible apply Keeps.of_same; with_reducible assumption; rfl; rfl; rfl; rfl; rfl; rfl)

theorem State.notice_keeps (h : s0.Keeps s) (q : Nat) (b : Bytes) : s0.Keeps (State.notice s q b) := by
  unfold State.notice
  repeat' first
    | (with_reducible first | assumption | apply State.modRing_keeps | apply State.putWaiting_keeps)
    | (with_reducible apply snd_keeps; with_reducible assumption)
    | (extract_lets -underBinder +onlyGivenNames x; first | (refine mp_keeps (s0 := s0) x ?_ ?_; unfold x; clear x; rotate_left; intro hx; clear_value x) | clear_value x)
    | split
    | intro _
    | (with_reducible apply Keeps.of_same; with_reducible assumption; rfl; rfl; rfl; rfl; rfl; rfl)

/-! ### Watch -/

theorem State.limit_keeps (h : s0.Keeps s) (r : RaiseRec) : s0.Keeps ((State.limit s r).2) := by
  unfold State.limit
  repeat' first
    | (with_reducible first | assumption | apply State.modBook_keeps | apply hf1 | apply hf2 | apply hf3)
    | (with_reducible apply snd_keeps; with_reducible assumption)
    | (extract_lets -underBinder +onlyGivenNames x; first | (refine mp_keeps (s0 := s0) x ?_ ?_; unfold x; clear x; rotate_left; intro hx; clear_value x) | (refine mp1_keeps (s0 := s0) x ?_ ?_; unfold x; clear x; rotate_left; intro hf1; clear_value x) | (refine mp2_keeps (s0 := s0) x ?_ ?_; unfold x; clear x; rotate_left; intro hf2; clear_value x) | (refine mp3_keeps (s0 := s0) x ?_ ?_; unfold x; clear x; rotate_left; intro hf3; clear_value x) | clear_value x)
    | split
    | intro _
    | (with_reducible apply Keeps.of_same; with_reducible assumption; rfl; rfl; rfl; rfl; rfl; rfl)

theorem State.record_keeps (h : s0.Keeps s) (r : RaiseRec) : s0.Keeps (State.record s r) := by
  unfold State.record
  repeat' first
    | (with_reducible first | assumption | apply State.modWch_keeps)
    | (with_reducible apply snd_keeps; with_reducible assumption)
    | (extract_lets -underBinder +onlyGivenNames x; first | (refine mp_keeps (s0 := s0) x ?_ ?_; unfold x; clear x; rotate_left; intro hx; clear_value x) | clear_value x)
    | split
    | intro _
    | (with_reducible apply Keeps.of_same; with_reducible assumption; rfl; rfl; rfl; rfl; rfl; rfl)

theorem State.recordSeq_keeps (h : s0.Keeps s)  : s0.Keeps ((State.recordSeq s).2) := by
  unfold State.recordSeq
  repeat' first
    | (with_reducible first | assumption | apply State.modBook_keeps | apply State.free_keeps)
    | (with_reducible apply snd_keeps; with_reducible assumption)
    | (extract_lets -underBinder +onlyGivenNames x; first | (refine mp_keeps (s0 := s0) x ?_ ?_; unfold x; clear x; rotate_left; intro hx; clear_value x) | clear_value x)
    | split
    | intro _
    | (with_reducible apply Keeps.of_same; with_reducible assumption; rfl; rfl; rfl; rfl; rfl; rfl)

theorem State.errPulse_keeps (h : s0.Keeps s)  : s0.Keeps (State.errPulse s) := by
  unfold State.errPulse
  repeat' first
    | (with_reducible first | assumption | apply State.modWch_keeps)
    | (with_reducible apply snd_keeps; with_reducible assumption)
    | (extract_lets -underBinder +onlyGivenNames x; first | (refine mp_keeps (s0 := s0) x ?_ ?_; unfold x; clear x; rotate_left; intro hx; clear_value x) | clear_value x)
    | split
    | intro _
    | (with_reducible apply Keeps.of_same; with_reducible assumption; rfl; rfl; rfl; rfl; rfl; rfl)

theorem State.freshRaise_keeps (h : s0.Keeps s) (src : Nat) : s0.Keeps (State.freshRaise s src) := by
  unfold State.freshRaise
  repeat' first
    | (with_reducible first | assumption | apply State.modWch_keeps)
    | (with_reducible apply snd_keeps; with_reducible assumption)
    | (extract_lets -underBinder +onlyGivenNames x; first | (refine mp_keeps (s0 := s0) x ?_ ?_; unfold x; clear x; rotate_left; intro hx; clear_value x) | clear_value x)
    | split
    | intro _
    | (with_reducible apply Keeps.of_same; with_reducible assumption; rfl; rfl; rfl; rfl; rfl; rfl)

theorem State.countRaise_keeps (h : s0.Keeps s) (src : Nat) (forced : Bool) : s0.Keeps (State.countRaise s src forced) := by
  unfold State.countRaise
  repeat' first
    | (with_reducible first | assumption | apply State.iff_keeps | apply State.setEvent_keeps | apply State.bump_keeps)
    | (with_reducible apply snd_keeps; with_reducible assumption)
    | (extract_lets -underBinder +onlyGivenNames x; first | (refine mp_keeps (s0 := s0) x ?_ ?_; unfold x; clear x; rotate_left; intro hx; clear_value x) | clear_value x)
    | split
    | intro _
    | (with_reducible apply Keeps.of_same; with_reducible assumption; rfl; rfl; rfl; rfl; rfl; rfl)

theorem State.latchRaise_keeps (h : s0.Keeps s) (src : Nat) : s0.Keeps (State.latchRaise s src) := by
  unfold State.latchRaise
  repeat' first
    | (with_reducible first | assumption | apply State.setRb_keeps | apply State.modWch_keeps | apply State.setRf_keeps
                            | apply foldl_keeps | apply foldl_snd_keeps | apply foldl_fst_keeps)
    | (with_reducible apply snd_keeps; with_reducible assumption)
    | (extract_lets -underBinder +onlyGivenNames x; first | (refine mp_keeps (s0 := s0) x ?_ ?_; unfold x; clear x; rotate_left; intro hx; clear_value x) | clear_value x)
    | split
    | intro _
    | (with_reducible apply Keeps.of_same; with_reducible assumption; rfl; rfl; rfl; rfl; rfl; rfl)

theorem State.recordRaise_keeps (h : s0.Keeps s) (src : Nat) (sev : Nat) (idx : Nat) (w1 : Nat) (forced : Bool) : s0.Keeps (State.recordRaise s src sev idx w1 forced) := by
  unfold State.recordRaise
  repeat' first
    | (with_reducible first | assumption | apply State.record_keeps)
    | (with_reducible apply snd_keeps; with_reducible assumption)
    | (extract_lets -underBinder +onlyGivenNames x; first | (refine mp_keeps (s0 := s0) x ?_ ?_; unfold x; clear x; rotate_left; intro hx; clear_value x) | clear_value x)
    | split
    | intro _
    | (with_reducible apply Keeps.of_same; with_reducible assumption; rfl; rfl; rfl; rfl; rfl; rfl)

theorem State.alarmRaise_keeps (h : s0.Keeps s) (src : Nat) (sev : Nat) : s0.Keeps (State.alarmRaise s src sev) := by
  unfold State.alarmRaise
  repeat' first
    | (with_reducible first | assumption | apply State.iff_keeps | apply State.errPulse_keeps | apply State.modWch_keeps
                            | apply State.setRb_keeps | apply State.signal_keeps)
    | (with_reducible apply snd_keeps; with_reducible assumption)
    | (extract_lets -underBinder +onlyGivenNames x; first | (refine mp_keeps (s0 := s0) x ?_ ?_; unfold x; clear x; rotate_left; intro hx; clear_value x) | clear_value x)
    | split
    | intro _
    | (with_reducible apply Keeps.of_same; with_reducible assumption; rfl; rfl; rfl; rfl; rfl; rfl)

theorem State.raiseCore_keeps (h : s0.Keeps s) (src : Nat) (idx : Nat) (w1 : Nat) (forced : Bool) : s0.Keeps (State.raiseCore s src idx w1 forced) := by
  unfold State.raiseCore
  repeat' first
    | (with_reducible first | assumption | apply State.freshRaise_keeps | apply State.countRaise_keeps
                            | apply State.latchRaise_keeps | apply State.recordRaise_keeps | apply State.alarmRaise_keeps)
    | (with_reducible apply snd_keeps; with_reducible assumption)
    | (extract_lets -underBinder +onlyGivenNames x; first | (refine mp_keeps (s0 := s0) x ?_ ?_; unfold x; clear x; rotate_left; intro hx; clear_value x) | clear_value x)
    | split
    | intro _

theorem State.watchStop_keeps (h : s0.Keeps s) (src : Nat) : s0.Keeps (State.watchStop s src) := by
  unfold State.watchStop
  repeat' first
    | (with_reducible first | assumption | apply State.modWch_keeps)
    | (with_reducible apply snd_keeps; with_reducible assumption)
    | (extract_lets -underBinder +onlyGivenNames x; first | (refine mp_keeps (s0 := s0) x ?_ ?_; unfold x; clear x; rotate_left; intro hx; clear_value x) | clear_value x)
    | split
    | intro _
    | (with_reducible apply Keeps.of_same; with_reducible assumption; rfl; rfl; rfl; rfl; rfl; rfl)

theorem State.sendRecord_keeps (h : s0.Keeps s) (r : RaiseRec) : s0.Keeps (State.sendRecord s r) := by
  unfold State.sendRecord
  repeat' first
    | (with_reducible first | assumption | apply State.limit_keeps | apply State.recordSeq_keeps | apply State.emitRecord_keeps
                            | apply State.modBook_keeps | apply State.raiseCore_keeps | apply State.watchStop_keeps)
    | (with_reducible apply snd_keeps; with_reducible assumption)
    | (extract_lets -underBinder +onlyGivenNames x; first | (refine mp_keeps (s0 := s0) x ?_ ?_; unfold x; clear x; rotate_left; intro hx; clear_value x) | clear_value x)
    | split
    | intro _
    | (with_reducible apply Keeps.of_same; with_reducible assumption; rfl; rfl; rfl; rfl; rfl; rfl)

theorem State.sendBatch_keeps (h : s0.Keeps s)  : s0.Keeps (State.sendBatch s) := by
  unfold State.sendBatch
  repeat' first
    | (with_reducible first | assumption | apply State.sendRecord_keeps | apply State.modWch_keeps | apply foldl_keeps
                            | apply foldl_snd_keeps | apply foldl_fst_keeps)
    | (with_reducible apply snd_keeps; with_reducible assumption)
    | (extract_lets -underBinder +onlyGivenNames x; first | (refine mp_keeps (s0 := s0) x ?_ ?_; unfold x; clear x; rotate_left; intro hx; clear_value x) | clear_value x)
    | split
    | intro _
    | (with_reducible apply Keeps.of_same; with_reducible assumption; rfl; rfl; rfl; rfl; rfl; rfl)

theorem State.showTrip_keeps (h : s0.Keeps s)  : s0.Keeps (State.showTrip s) := by
  unfold State.showTrip
  repeat' first
    | (with_reducible first | assumption | apply State.modSaf_keeps)
    | (with_reducible apply snd_keeps; with_reducible assumption)
    | (extract_lets -underBinder +onlyGivenNames x; first | (refine mp_keeps (s0 := s0) x ?_ ?_; unfold x; clear x; rotate_left; intro hx; clear_value x) | clear_value x)
    | split
    | intro _
    | (with_reducible apply Keeps.of_same; with_reducible assumption; rfl; rfl; rfl; rfl; rfl; rfl)

theorem State.settle_keeps (h : s0.Keeps s) : s0.Keeps s.settle :=
  State.showTrip_keeps (State.sendBatch_keeps (State.sendBatch_keeps h))

theorem State.openGate_keeps (h : s0.Keeps s) (b : Nat) : s0.Keeps (State.openGate s b) := by
  unfold State.openGate
  repeat' first
    | (with_reducible first | assumption | apply State.modClk_keeps)
    | (with_reducible apply snd_keeps; with_reducible assumption)
    | (extract_lets -underBinder +onlyGivenNames x; first | (refine mp_keeps (s0 := s0) x ?_ ?_; unfold x; clear x; rotate_left; intro hx; clear_value x) | clear_value x)
    | split
    | (intro _; with_reducible rfl)
    | (intro _; exact Clk.setSrc_variant _ _ _)
    | (intro _; exact rfl)
    | intro _
    | (with_reducible apply Keeps.of_same; with_reducible assumption; rfl; rfl; rfl; rfl; rfl; rfl)

theorem State.lastWord_keeps (h : s0.Keeps s) (src : Nat) (aon : Nat) (w1 : Nat) : s0.Keeps (State.lastWord s src aon w1) := by
  unfold State.lastWord
  repeat' first
    | (with_reducible first | assumption | apply State.modBook_keeps)
    | (with_reducible apply snd_keeps; with_reducible assumption)
    | (extract_lets -underBinder +onlyGivenNames x; first | (refine mp_keeps (s0 := s0) x ?_ ?_; unfold x; clear x; rotate_left; intro hx; clear_value x) | clear_value x)
    | split
    | intro _
    | (with_reducible apply Keeps.of_same; with_reducible assumption; rfl; rfl; rfl; rfl; rfl; rfl)

/-! ### Stop -/

theorem State.pairSend_keeps (h : s0.Keeps s) (kind : Nat) (body : Bytes) : s0.Keeps (State.pairSend s kind body) := by
  unfold State.pairSend
  repeat' first
    | (with_reducible first | assumption | apply State.modPair_keeps)
    | (with_reducible apply snd_keeps; with_reducible assumption)
    | (extract_lets -underBinder +onlyGivenNames x; first | (refine mp_keeps (s0 := s0) x ?_ ?_; unfold x; clear x; rotate_left; intro hx; clear_value x) | clear_value x)
    | split
    | intro _
    | (with_reducible apply Keeps.of_same; with_reducible assumption; rfl; rfl; rfl; rfl; rfl; rfl)

theorem State.forward_keeps (h : s0.Keeps s) (kind : Nat) (act : Nat) (args : List Nat) : s0.Keeps (State.forward s kind act args) := by
  unfold State.forward
  repeat' first
    | (with_reducible first | assumption | apply State.pairSend_keeps | apply State.modPair_keeps)
    | (with_reducible apply snd_keeps; with_reducible assumption)
    | (extract_lets -underBinder +onlyGivenNames x; first | (refine mp_keeps (s0 := s0) x ?_ ?_; unfold x; clear x; rotate_left; intro hx; clear_value x) | clear_value x)
    | split
    | intro _
    | (with_reducible apply Keeps.of_same; with_reducible assumption; rfl; rfl; rfl; rfl; rfl; rfl)

theorem State.answer_keeps (h : s0.Keeps s) (role : Nat) (k : Nat) (c : Compl) : s0.Keeps (State.answer s role k c) := by
  unfold State.answer
  repeat' first
    | (with_reducible first | assumption | apply State.pairSend_keeps | apply State.finishRole_keeps)
    | (with_reducible apply snd_keeps; with_reducible assumption)
    | (extract_lets -underBinder +onlyGivenNames x; first | (refine mp_keeps (s0 := s0) x ?_ ?_; unfold x; clear x; rotate_left; intro hx; clear_value x) | clear_value x)
    | split
    | intro _

theorem State.modeEnd_keeps (h : s0.Keeps s) (src : Nat) (target : Nat) (result : Nat) (check : Nat) (index : Nat) (act : Option Nat) : s0.Keeps (State.modeEnd s src target result check index act) := by
  unfold State.modeEnd
  repeat' first
    | (with_reducible first | assumption | apply State.setReg_keeps | apply State.answer_keeps)
    | (with_reducible apply snd_keeps; with_reducible assumption)
    | (extract_lets -underBinder +onlyGivenNames x; first | (refine mp_keeps (s0 := s0) x ?_ ?_; unfold x; clear x; rotate_left; intro hx; clear_value x) | clear_value x)
    | split
    | intro _
    | (with_reducible apply Keeps.of_same; with_reducible assumption; rfl; rfl; rfl; rfl; rfl; rfl)


theorem State.raise0_keeps (h : s0.Keeps s) (src : Nat) (idx : Nat) (w1 : Nat) (forced : Bool) : s0.Keeps (State.raise0 s src idx w1 forced) := by
  unfold State.raise0
  repeat' first
    | (with_reducible first | assumption | apply State.raiseCore_keeps | apply State.watchStop_keeps)
    | (with_reducible apply snd_keeps; with_reducible assumption)
    | (extract_lets -underBinder +onlyGivenNames x; first | (refine mp_keeps (s0 := s0) x ?_ ?_; unfold x; clear x; rotate_left; intro hx; clear_value x) | clear_value x)
    | split
    | intro _

theorem State.refusedRaise_keeps (h : s0.Keeps s) (src : Nat) (target : Nat) : s0.Keeps (State.refusedRaise s src target) := by
  unfold State.refusedRaise
  repeat' first
    | (with_reducible first | assumption | apply State.iff_keeps | apply State.raise0_keeps)
    | (with_reducible apply snd_keeps; with_reducible assumption)
    | (extract_lets -underBinder +onlyGivenNames x; first | (refine mp_keeps (s0 := s0) x ?_ ?_; unfold x; clear x; rotate_left; intro hx; clear_value x) | clear_value x)
    | split
    | intro _

theorem State.softOff_keeps (h : s0.Keeps s) (n : Nat) (at_ : Nat) : s0.Keeps (State.softOff s n at_) := by
  unfold State.softOff
  repeat' first
    | (with_reducible first | assumption | apply State.modSw_keeps)
    | (with_reducible apply snd_keeps; with_reducible assumption)
    | (extract_lets -underBinder +onlyGivenNames x; first | (refine mp_keeps (s0 := s0) x ?_ ?_; unfold x; clear x; rotate_left; intro hx; clear_value x) | clear_value x)
    | split
    | (intro _ w; first | exact w | exact Bool.noConfusion w | (split at w <;> first | exact w | exact Bool.noConfusion w))
    | intro _
    | (with_reducible apply Keeps.of_same; with_reducible assumption; rfl; rfl; rfl; rfl; rfl; rfl)

theorem State.capTransition_keeps (h : s0.Keeps s)  : s0.Keeps (State.capTransition s) := by
  unfold State.capTransition
  repeat' first
    | (with_reducible first | assumption | apply State.modCap_keeps | apply State.setRf_keeps | apply State.forAll_keeps
                            | apply State.modUnit_keeps)
    | (with_reducible apply snd_keeps; with_reducible assumption)
    | (extract_lets -underBinder +onlyGivenNames x; first | (refine mp_keeps (s0 := s0) x ?_ ?_; unfold x; clear x; rotate_left; intro hx; clear_value x) | clear_value x)
    | split
    | intro _
    | (with_reducible apply Keeps.of_same; with_reducible assumption; rfl; rfl; rfl; rfl; rfl; rfl)

theorem State.leaveDormant_keeps (h : s0.Keeps s)  : s0.Keeps (State.leaveDormant s) := by
  unfold State.leaveDormant
  repeat' first
    | (with_reducible first | assumption | apply State.forAll_keeps | apply State.iff_keeps | apply State.modPort_keeps
                            | apply State.modAdc_keeps)
    | (with_reducible apply snd_keeps; with_reducible assumption)
    | (extract_lets -underBinder +onlyGivenNames x; first | (refine mp_keeps (s0 := s0) x ?_ ?_; unfold x; clear x; rotate_left; intro hx; clear_value x) | clear_value x)
    | split
    | intro _
    | (with_reducible apply Keeps.of_same; with_reducible assumption; rfl; rfl; rfl; rfl; rfl; rfl)

theorem State.leaving_keeps (h : s0.Keeps s) (old : Nat) (new : Nat) : s0.Keeps (State.leaving s old new) := by
  unfold State.leaving
  repeat' first
    | (with_reducible first | assumption | apply State.iff_keeps | apply State.leaveDormant_keeps | apply State.modMode_keeps
                            | apply State.capTransition_keeps)
    | (with_reducible apply snd_keeps; with_reducible assumption)
    | (extract_lets -underBinder +onlyGivenNames x; first | (refine mp_keeps (s0 := s0) x ?_ ?_; unfold x; clear x; rotate_left; intro hx; clear_value x) | clear_value x)
    | split
    | intro _
    | (with_reducible apply Keeps.of_same; with_reducible assumption; rfl; rfl; rfl; rfl; rfl; rfl)

theorem State.preempted_keeps (h : s0.Keeps s) (q : ModeReq) : s0.Keeps (State.preempted s q) := by
  unfold State.preempted
  repeat' first
    | (with_reducible first | assumption | apply State.modeEnd_keeps | apply State.refusedRaise_keeps)
    | (with_reducible apply snd_keeps; with_reducible assumption)
    | (extract_lets -underBinder +onlyGivenNames x; first | (refine mp_keeps (s0 := s0) x ?_ ?_; unfold x; clear x; rotate_left; intro hx; clear_value x) | clear_value x)
    | split
    | intro _

theorem State.dropPending_keeps (h : s0.Keeps s)  : s0.Keeps (State.dropPending s) := by
  unfold State.dropPending
  repeat' first
    | (with_reducible first | assumption | apply State.preempted_keeps | apply State.modMode_keeps | apply foldl_keeps
                            | apply foldl_snd_keeps | apply foldl_fst_keeps)
    | (with_reducible apply snd_keeps; with_reducible assumption)
    | (extract_lets -underBinder +onlyGivenNames x; first | (refine mp_keeps (s0 := s0) x ?_ ?_; unfold x; clear x; rotate_left; intro hx; clear_value x) | clear_value x)
    | split
    | intro _
    | (with_reducible apply Keeps.of_same; with_reducible assumption; rfl; rfl; rfl; rfl; rfl; rfl)

theorem State.allGroupsMode_keeps (h : s0.Keeps s) (m : Nat) : s0.Keeps (State.allGroupsMode s m) := by
  unfold State.allGroupsMode
  repeat' first
    | (with_reducible first | assumption | apply State.modMode_keeps | apply foldl_keeps | apply foldl_snd_keeps
                            | apply foldl_fst_keeps)
    | (with_reducible apply snd_keeps; with_reducible assumption)
    | (extract_lets -underBinder +onlyGivenNames x; first | (refine mp_keeps (s0 := s0) x ?_ ?_; unfold x; clear x; rotate_left; intro hx; clear_value x) | clear_value x)
    | split
    | intro _
    | (with_reducible apply Keeps.of_same; with_reducible assumption; rfl; rfl; rfl; rfl; rfl; rfl)

theorem State.enterStop_keeps (h : s0.Keeps s) (src : Nat) (c : Nat) (act : Option Nat) : s0.Keeps (State.enterStop s src c act) := by
  unfold State.enterStop
  repeat' first
    | (with_reducible first | assumption | apply State.dropPending_keeps | apply State.modeEnd_keeps | apply State.leaving_keeps
                            | apply State.modMode_keeps | apply State.allGroupsMode_keeps | apply State.setRf_keeps
                            | apply State.setReg_keeps | apply State.modGce_keeps | apply State.forAll_keeps
                            | apply State.softOff_keeps | apply State.iff_keeps | apply State.pairSend_keeps)
    | (with_reducible apply snd_keeps; with_reducible assumption)
    | (extract_lets -underBinder +onlyGivenNames x; first | (refine mp_keeps (s0 := s0) x ?_ ?_; unfold x; clear x; rotate_left; intro hx; clear_value x) | clear_value x)
    | split
    | intro _
    | (with_reducible apply Keeps.of_same; with_reducible assumption; rfl; rfl; rfl; rfl; rfl; rfl)

theorem State.stopAgain_keeps (h : s0.Keeps s) (src : Nat) (act : Option Nat) : s0.Keeps (State.stopAgain s src act) := by
  unfold State.stopAgain
  repeat' first
    | (with_reducible first | assumption | apply State.answer_keeps | apply State.iff_keeps | apply State.setRf_keeps
                            | apply State.modMode_keeps | apply State.refusedRaise_keeps)
    | (with_reducible apply snd_keeps; with_reducible assumption)
    | (extract_lets -underBinder +onlyGivenNames x; first | (refine mp_keeps (s0 := s0) x ?_ ?_; unfold x; clear x; rotate_left; intro hx; clear_value x) | clear_value x)
    | split
    | intro _
    | (with_reducible apply Keeps.of_same; with_reducible assumption; rfl; rfl; rfl; rfl; rfl; rfl)

theorem State.stopRequest_keeps (h : s0.Keeps s) (src : Nat) (c : Nat) (act : Option Nat) : s0.Keeps (State.stopRequest s src c act) := by
  unfold State.stopRequest
  repeat' first
    | (with_reducible first | assumption | apply State.iff_keeps | apply State.forward_keeps | apply State.stopAgain_keeps
                            | apply State.modeEnd_keeps | apply State.refusedRaise_keeps | apply State.enterStop_keeps)
    | (with_reducible apply snd_keeps; with_reducible assumption)
    | (extract_lets -underBinder +onlyGivenNames x; first | (refine mp_keeps (s0 := s0) x ?_ ?_; unfold x; clear x; rotate_left; intro hx; clear_value x) | clear_value x)
    | split
    | intro _

theorem State.legHeld_keeps (h : s0.Keeps s) (n : Nat) : s0.Keeps (State.legHeld s n) := by
  unfold State.legHeld
  repeat' first
    | (with_reducible first | assumption | apply State.softOff_keeps | apply State.modHealth1_keeps | apply State.modLg_keeps)
    | (with_reducible apply snd_keeps; with_reducible assumption)
    | (extract_lets -underBinder +onlyGivenNames x; first | (refine mp_keeps (s0 := s0) x ?_ ?_; unfold x; clear x; rotate_left; intro hx; clear_value x) | clear_value x)
    | split
    | intro _
    | (with_reducible apply Keeps.of_same; with_reducible assumption; rfl; rfl; rfl; rfl; rfl; rfl)

theorem State.legBack_keeps (h : s0.Keeps s) (n : Nat) : s0.Keeps (State.legBack s n) := by
  unfold State.legBack
  repeat' first
    | (with_reducible first | assumption | apply State.modHealth1_keeps | apply State.modLg_keeps)
    | (with_reducible apply snd_keeps; with_reducible assumption)
    | (extract_lets -underBinder +onlyGivenNames x; first | (refine mp_keeps (s0 := s0) x ?_ ?_; unfold x; clear x; rotate_left; intro hx; clear_value x) | clear_value x)
    | split
    | intro _
    | (with_reducible apply Keeps.of_same; with_reducible assumption; rfl; rfl; rfl; rfl; rfl; rfl)

theorem State.markRetired_keeps (h : s0.Keeps s) (h : Nat) (cause : Nat) : s0.Keeps (State.markRetired s h cause) := by
  unfold State.markRetired
  repeat' first
    | (with_reducible first | assumption | apply State.modHealth1_keeps | apply State.raise0_keeps)
    | (with_reducible apply snd_keeps; with_reducible assumption)
    | (extract_lets -underBinder +onlyGivenNames x; first | (refine mp_keeps (s0 := s0) x ?_ ?_; unfold x; clear x; rotate_left; intro hx; clear_value x) | clear_value x)
    | split
    | intro _
    | (with_reducible apply Keeps.of_same; with_reducible assumption; rfl; rfl; rfl; rfl; rfl; rfl)

theorem State.retireAsked_keeps (h : s0.Keeps s) (h : Nat) : s0.Keeps (State.retireAsked s h) := by
  unfold State.retireAsked
  repeat' first
    | (with_reducible first | assumption | apply State.iff_keeps | apply State.modHealth1_keeps)
    | (with_reducible apply snd_keeps; with_reducible assumption)
    | (extract_lets -underBinder +onlyGivenNames x; first | (refine mp_keeps (s0 := s0) x ?_ ?_; unfold x; clear x; rotate_left; intro hx; clear_value x) | clear_value x)
    | split
    | intro _
    | (with_reducible apply Keeps.of_same; with_reducible assumption; rfl; rfl; rfl; rfl; rfl; rfl)

theorem State.laneOut_keeps (h : s0.Keeps s) (k : Nat) : s0.Keeps (State.laneOut s k) := by
  unfold State.laneOut
  repeat' first
    | (with_reducible first | assumption | apply State.modPair_keeps | apply State.iff_keeps)
    | (with_reducible apply snd_keeps; with_reducible assumption)
    | (extract_lets -underBinder +onlyGivenNames x; first | (refine mp_keeps (s0 := s0) x ?_ ?_; unfold x; clear x; rotate_left; intro hx; clear_value x) | clear_value x)
    | split
    | intro _
    | (with_reducible apply Keeps.of_same; with_reducible assumption; rfl; rfl; rfl; rfl; rfl; rfl)

theorem State.retireLeg_keeps (h : s0.Keeps s) (n : Nat) (cause : Nat) : s0.Keeps (State.retireLeg s n cause) := by
  unfold State.retireLeg
  repeat' first
    | (with_reducible first | assumption | apply State.retireAsked_keeps | apply State.modHealth1_keeps
                            | apply State.legHeld_keeps | apply State.markRetired_keeps)
    | (with_reducible apply snd_keeps; with_reducible assumption)
    | (extract_lets -underBinder +onlyGivenNames x; first | (refine mp_keeps (s0 := s0) x ?_ ?_; unfold x; clear x; rotate_left; intro hx; clear_value x) | clear_value x)
    | split
    | intro _
    | (with_reducible apply Keeps.of_same; with_reducible assumption; rfl; rfl; rfl; rfl; rfl; rfl)

theorem State.retireChannel_keeps (h : s0.Keeps s) (h : Nat) (cause : Nat) : s0.Keeps (State.retireChannel s h cause) := by
  unfold State.retireChannel
  repeat' first
    | (with_reducible first | assumption | apply State.retireAsked_keeps | apply State.modHealth1_keeps
                            | apply State.markRetired_keeps | apply State.modPort_keeps | apply State.retireLeg_keeps
                            | apply State.iff_keeps | apply State.laneOut_keeps | apply State.forAll_keeps)
    | (with_reducible apply snd_keeps; with_reducible assumption)
    | (extract_lets -underBinder +onlyGivenNames x; first | (refine mp_keeps (s0 := s0) x ?_ ?_; unfold x; clear x; rotate_left; intro hx; clear_value x) | clear_value x)
    | split
    | intro _
    | (with_reducible apply Keeps.of_same; with_reducible assumption; rfl; rfl; rfl; rfl; rfl; rfl)

theorem State.raise_keeps (h : s0.Keeps s) (src : Nat) (idx : Nat) (w1 : Nat) (forced : Bool) : s0.Keeps (State.raise s src idx w1 forced) := by
  unfold State.raise
  repeat' first
    | (with_reducible first | assumption | apply State.raise0_keeps | apply State.retireChannel_keeps)
    | (with_reducible apply snd_keeps; with_reducible assumption)
    | (extract_lets -underBinder +onlyGivenNames x; first | (refine mp_keeps (s0 := s0) x ?_ ?_; unfold x; clear x; rotate_left; intro hx; clear_value x) | clear_value x)
    | split
    | intro _
    | (with_reducible apply Keeps.of_same; with_reducible assumption; rfl; rfl; rfl; rfl; rfl; rfl)

theorem State.setQuality_keeps (h : s0.Keeps s) (q : Nat) : s0.Keeps (State.setQuality s q) := by
  unfold State.setQuality
  repeat' first
    | (with_reducible first | assumption | apply State.modTim_keeps | apply State.raise_keeps)
    | (with_reducible apply snd_keeps; with_reducible assumption)
    | (extract_lets -underBinder +onlyGivenNames x; first | (refine mp_keeps (s0 := s0) x ?_ ?_; unfold x; clear x; rotate_left; intro hx; clear_value x) | clear_value x)
    | split
    | intro _
    | (with_reducible apply Keeps.of_same; with_reducible assumption; rfl; rfl; rfl; rfl; rfl; rfl)

theorem State.healthCount_keeps (h : s0.Keeps s) (h : Nat) : s0.Keeps (State.healthCount s h) := by
  unfold State.healthCount
  repeat' first
    | (with_reducible first | assumption | apply State.modHealth1_keeps | apply State.retireChannel_keeps)
    | (with_reducible apply snd_keeps; with_reducible assumption)
    | (extract_lets -underBinder +onlyGivenNames x; first | (refine mp_keeps (s0 := s0) x ?_ ?_; unfold x; clear x; rotate_left; intro hx; clear_value x) | clear_value x)
    | split
    | intro _
    | (with_reducible apply Keeps.of_same; with_reducible assumption; rfl; rfl; rfl; rfl; rfl; rfl)

theorem State.healthPerm_keeps (h : s0.Keeps s) (h : Nat) : s0.Keeps (State.healthPerm s h) := by
  unfold State.healthPerm
  repeat' first
    | (with_reducible first | assumption | apply State.modHealth1_keeps | apply State.retireChannel_keeps)
    | (with_reducible apply snd_keeps; with_reducible assumption)
    | (extract_lets -underBinder +onlyGivenNames x; first | (refine mp_keeps (s0 := s0) x ?_ ?_; unfold x; clear x; rotate_left; intro hx; clear_value x) | clear_value x)
    | split
    | intro _
    | (with_reducible apply Keeps.of_same; with_reducible assumption; rfl; rfl; rfl; rfl; rfl; rfl)

end Sys2Proof.Machine
end

