-- ==== Sys2Proof/Laws/KeepsHost.lean ====
section
/-! SUPPORT. What every operation keeps (State.Keeps of Safety.lean), one lemma per operation and per command: boot, security, time and station bus. -/

namespace Sys2Proof.Machine

set_option linter.unusedTactic false
set_option linter.unreachableTactic false
set_option linter.unusedVariables false

variable {s0 s : State}

/-! ### Boot -/

theorem State.measure_keeps (h : s0.Keeps s) (kind : Nat) (v : Bytes) : s0.Keeps (State.measure s kind v) := by
  unfold State.measure
  repeat' first
    | (with_reducible first | assumption | apply State.modSec_keeps)
    | (with_reducible apply snd_keeps; with_reducible assumption)
    | (extract_lets -underBinder +onlyGivenNames x; first | (refine mp_keeps (s0 := s0) x ?_ ?_; unfold x; clear x; rotate_left; intro hx; clear_value x) | clear_value x)
    | split
    | (with_reducible apply Sec.Burns.of_same; with_reducible assumption; rfl; rfl; rfl; rfl; rfl; rfl; rfl; rfl; rfl; rfl; rfl; rfl)
    | intro _
    | (with_reducible apply Keeps.of_same; with_reducible assumption; rfl; rfl; rfl; rfl; rfl; rfl)

theorem Clk.setSrc_variant (c : Clk) (i : Nat) (p : Proving) : (c.setSrc i p).variant = c.variant := by
  unfold Clk.setSrc
  repeat' first
    | split
    | rfl

theorem State.resetLogic_keeps (h : s0.Keeps s) (keep : Nat → Bool) : s0.Keeps (s.resetLogic keep) :=
  ⟨h.1, h.2, Sec.Burns.of_same h.3 rfl rfl rfl rfl rfl rfl rfl rfl rfl rfl rfl rfl, h.4, h.5, fun _ n hn => Bool.noConfusion hn.1⟩

theorem State.initRetired_keeps (h : s0.Keeps s)  : s0.Keeps (State.initRetired s) := by
  unfold State.initRetired
  repeat' first
    | (with_reducible first | assumption | apply State.forAll_keeps | apply State.iff_keeps | apply State.modHealth1_keeps)
    | (with_reducible apply snd_keeps; with_reducible assumption)
    | (extract_lets -underBinder +onlyGivenNames x; first | (refine mp_keeps (s0 := s0) x ?_ ?_; unfold x; clear x; rotate_left; intro hx; clear_value x) | clear_value x)
    | split
    | intro _
    | (with_reducible apply Keeps.of_same; with_reducible assumption; rfl; rfl; rfl; rfl; rfl; rfl)

theorem State.enterBoot_keeps (h : s0.Keeps s)  : s0.Keeps (State.enterBoot s) := by
  unfold State.enterBoot
  repeat' first
    | (with_reducible first | assumption | apply State.modClk_keeps | apply State.setReg_keeps | apply State.modCap_keeps
                            | apply State.setRb_keeps | apply State.setRf_keeps | apply State.measure_keeps)
    | (with_reducible apply snd_keeps; with_reducible assumption)
    | (extract_lets -underBinder +onlyGivenNames x; first | (refine mp_keeps (s0 := s0) x ?_ ?_; unfold x; clear x; rotate_left; intro hx; clear_value x) | clear_value x)
    | split
    | (intro _; with_reducible rfl)
    | (intro _; exact Clk.setSrc_variant _ _ _)
    | (intro _; exact rfl)
    | intro _
    | (with_reducible apply Keeps.of_same; with_reducible assumption; rfl; rfl; rfl; rfl; rfl; rfl)

theorem State.deviceReset_keeps (h : s0.Keeps s) (bit : Nat) : s0.Keeps (State.deviceReset s bit) := by
  unfold State.deviceReset
  repeat' first
    | (with_reducible first | assumption | apply State.resetLogic_keeps | apply State.setRb_keeps | apply State.initRetired_keeps)
    | (with_reducible apply snd_keeps; with_reducible assumption)
    | (extract_lets -underBinder +onlyGivenNames x; first | (refine mp_keeps (s0 := s0) x ?_ ?_; unfold x; clear x; rotate_left; intro hx; clear_value x) | clear_value x)
    | split
    | intro _

theorem State.softReset_keeps (h : s0.Keeps s) (bit : Nat) : s0.Keeps (State.softReset s bit) := by
  unfold State.softReset
  repeat' first
    | (with_reducible first | assumption | apply State.deviceReset_keeps | apply State.enterBoot_keeps)
    | (with_reducible apply snd_keeps; with_reducible assumption)
    | (extract_lets -underBinder +onlyGivenNames x; first | (refine mp_keeps (s0 := s0) x ?_ ?_; unfold x; clear x; rotate_left; intro hx; clear_value x) | clear_value x)
    | split
    | intro _

theorem State.iffReleased_keeps (h : s0.Keeps s) (f : State → State) (hf : ∀  x, s0.Keeps x → s0.Keeps (f  x)) : s0.Keeps (State.iffReleased s f) := by
  unfold State.iffReleased
  repeat' first
    | (with_reducible first | assumption | apply hf)
    | (with_reducible apply snd_keeps; with_reducible assumption)
    | (extract_lets -underBinder +onlyGivenNames x; first | (refine mp_keeps (s0 := s0) x ?_ ?_; unfold x; clear x; rotate_left; intro hx; clear_value x) | clear_value x)
    | split
    | intro _

theorem State.goMissing_keeps (h : s0.Keeps s) (i : Nat) : s0.Keeps (State.goMissing s i) := by
  unfold State.goMissing
  repeat' first
    | (with_reducible first | assumption | apply State.modClk_keeps | apply State.iff_keeps | apply State.iffReleased_keeps
                            | apply State.raise_keeps)
    | (with_reducible apply snd_keeps; with_reducible assumption)
    | (extract_lets -underBinder +onlyGivenNames x; first | (refine mp_keeps (s0 := s0) x ?_ ?_; unfold x; clear x; rotate_left; intro hx; clear_value x) | clear_value x)
    | split
    | (intro _; with_reducible rfl)
    | (intro _; exact Clk.setSrc_variant _ _ _)
    | (intro _; exact rfl)
    | intro _
    | (with_reducible apply Keeps.of_same; with_reducible assumption; rfl; rfl; rfl; rfl; rfl; rfl)

theorem State.loseLock_keeps (h : s0.Keeps s) (aon : Nat) : s0.Keeps (State.loseLock s aon) := by
  unfold State.loseLock
  repeat' first
    | (with_reducible first | assumption | apply State.lastWord_keeps | apply State.modClk_keeps)
    | (with_reducible apply snd_keeps; with_reducible assumption)
    | (extract_lets -underBinder +onlyGivenNames x; first | (refine mp_keeps (s0 := s0) x ?_ ?_; unfold x; clear x; rotate_left; intro hx; clear_value x) | clear_value x)
    | split
    | (intro _; with_reducible rfl)
    | (intro _; exact Clk.setSrc_variant _ _ _)
    | (intro _; exact rfl)
    | intro _
    | (with_reducible apply Keeps.of_same; with_reducible assumption; rfl; rfl; rfl; rfl; rfl; rfl)

theorem State.rootWindow_keeps (h : s0.Keeps s) (count : Nat) (aon : Nat) : s0.Keeps (State.rootWindow s count aon) := by
  unfold State.rootWindow
  repeat' first
    | (with_reducible first | assumption | apply State.modClk_keeps | apply State.iff_keeps | apply State.loseLock_keeps)
    | (with_reducible apply snd_keeps; with_reducible assumption)
    | (extract_lets -underBinder +onlyGivenNames x; first | (refine mp_keeps (s0 := s0) x ?_ ?_; unfold x; clear x; rotate_left; intro hx; clear_value x) | clear_value x)
    | split
    | (intro _; with_reducible rfl)
    | (intro _; exact Clk.setSrc_variant _ _ _)
    | (intro _; exact rfl)
    | intro _
    | (with_reducible apply Keeps.of_same; with_reducible assumption; rfl; rfl; rfl; rfl; rfl; rfl)

theorem State.startOut_keeps (h : s0.Keeps s) (j : Nat) : s0.Keeps (State.startOut s j) := by
  unfold State.startOut
  repeat' first
    | (with_reducible first | assumption | apply State.modOut_keeps)
    | (with_reducible apply snd_keeps; with_reducible assumption)
    | (extract_lets -underBinder +onlyGivenNames x; first | (refine mp_keeps (s0 := s0) x ?_ ?_; unfold x; clear x; rotate_left; intro hx; clear_value x) | clear_value x)
    | split
    | intro _
    | (with_reducible apply Keeps.of_same; with_reducible assumption; rfl; rfl; rfl; rfl; rfl; rfl)

theorem State.stepPllTarget_keeps (h : s0.Keeps s) (j : Nat) (a : Int) : s0.Keeps (State.stepPllTarget s j a) := by
  unfold State.stepPllTarget
  repeat' first
    | (with_reducible first | assumption | apply State.setReg_keeps | apply State.modOut_keeps)
    | (with_reducible apply snd_keeps; with_reducible assumption)
    | (extract_lets -underBinder +onlyGivenNames x; first | (refine mp_keeps (s0 := s0) x ?_ ?_; unfold x; clear x; rotate_left; intro hx; clear_value x) | clear_value x)
    | split
    | intro _
    | (with_reducible apply Keeps.of_same; with_reducible assumption; rfl; rfl; rfl; rfl; rfl; rfl)

theorem State.writePllTarget_keeps (h : s0.Keeps s) (j : Nat) (v : Word) : s0.Keeps (State.writePllTarget s j v) := by
  unfold State.writePllTarget
  repeat' first
    | (with_reducible first | assumption | apply State.setReg_keeps | apply foldl_keeps | apply foldl_snd_keeps
                            | apply foldl_fst_keeps)
    | (with_reducible apply snd_keeps; with_reducible assumption)
    | (extract_lets -underBinder +onlyGivenNames x; first | (refine mp_keeps (s0 := s0) x ?_ ?_; unfold x; clear x; rotate_left; intro hx; clear_value x) | clear_value x)
    | split
    | intro _

theorem State.writePllOut_keeps (h : s0.Keeps s) (j : Nat) (v : Word) : s0.Keeps (State.writePllOut s j v) := by
  unfold State.writePllOut
  repeat' first
    | (with_reducible first | assumption | apply State.setRb_keeps | apply State.modOut_keeps | apply State.setReg_keeps
                            | apply State.iff_keeps | apply State.startOut_keeps)
    | (with_reducible apply snd_keeps; with_reducible assumption)
    | (extract_lets -underBinder +onlyGivenNames x; first | (refine mp_keeps (s0 := s0) x ?_ ?_; unfold x; clear x; rotate_left; intro hx; clear_value x) | clear_value x)
    | split
    | intro _
    | (with_reducible apply Keeps.of_same; with_reducible assumption; rfl; rfl; rfl; rfl; rfl; rfl)

theorem State.slotCheck_keeps (h : s0.Keeps s) (i : Nat) (c : Nat) : s0.Keeps (State.slotCheck s i c) := by
  unfold State.slotCheck
  repeat' first
    | (with_reducible first | assumption | apply State.setRf_keeps)
    | (with_reducible apply snd_keeps; with_reducible assumption)
    | (extract_lets -underBinder +onlyGivenNames x; first | (refine mp_keeps (s0 := s0) x ?_ ?_; unfold x; clear x; rotate_left; intro hx; clear_value x) | clear_value x)
    | split
    | intro _

theorem State.failBoot_keeps (h : s0.Keeps s)  : s0.Keeps (State.failBoot s) := by
  unfold State.failBoot
  repeat' first
    | (with_reducible first | assumption | apply State.modSec_keeps | apply State.setRb_keeps | apply State.modClk_keeps)
    | (with_reducible apply snd_keeps; with_reducible assumption)
    | (extract_lets -underBinder +onlyGivenNames x; first | (refine mp_keeps (s0 := s0) x ?_ ?_; unfold x; clear x; rotate_left; intro hx; clear_value x) | clear_value x)
    | split
    | (intro _; with_reducible rfl)
    | (intro _; exact Clk.setSrc_variant _ _ _)
    | (intro _; exact rfl)
    | (with_reducible apply Sec.Burns.of_same; with_reducible assumption; rfl; rfl; rfl; rfl; rfl; rfl; rfl; rfl; rfl; rfl; rfl; rfl)
    | intro _
    | (with_reducible apply Keeps.of_same; with_reducible assumption; rfl; rfl; rfl; rfl; rfl; rfl)

theorem State.readSlot_keeps (h : s0.Keeps s) (i : Nat) : s0.Keeps (State.readSlot s i) := by
  unfold State.readSlot
  repeat' first
    | (with_reducible first | assumption | apply State.modSec_keeps | apply State.measure_keeps)
    | (with_reducible apply snd_keeps; with_reducible assumption)
    | (extract_lets -underBinder +onlyGivenNames x; first | (refine mp_keeps (s0 := s0) x ?_ ?_; unfold x; clear x; rotate_left; intro hx; clear_value x) | clear_value x)
    | split
    | (with_reducible apply Sec.Burns.of_same; with_reducible assumption; rfl; rfl; rfl; rfl; rfl; rfl; rfl; rfl; rfl; rfl; rfl; rfl)
    | intro _
    | (with_reducible apply Keeps.of_same; with_reducible assumption; rfl; rfl; rfl; rfl; rfl; rfl)

theorem State.startFirmware_keeps (h : s0.Keeps s) (slotB : Bool) (recovery : Bool) (version : Nat) : s0.Keeps (State.startFirmware s slotB recovery version) := by
  unfold State.startFirmware
  repeat' first
    | (with_reducible first | assumption | apply State.modSec_keeps | apply State.setRf_keeps | apply State.modMode_keeps
                            | apply State.modClk_keeps)
    | (with_reducible apply snd_keeps; with_reducible assumption)
    | (extract_lets -underBinder +onlyGivenNames x; first | (refine mp_keeps (s0 := s0) x ?_ ?_; unfold x; clear x; rotate_left; intro hx; clear_value x) | clear_value x)
    | split
    | (intro _; with_reducible rfl)
    | (intro _; exact Clk.setSrc_variant _ _ _)
    | (intro _; exact rfl)
    | (with_reducible apply Sec.Burns.of_same; with_reducible assumption; rfl; rfl; rfl; rfl; rfl; rfl; rfl; rfl; rfl; rfl; rfl; rfl)
    | intro _
    | (with_reducible apply Keeps.of_same; with_reducible assumption; rfl; rfl; rfl; rfl; rfl; rfl)

theorem State.startRecovery_keeps (h : s0.Keeps s) (v : Word) : s0.Keeps (State.startRecovery s v) := by
  unfold State.startRecovery
  repeat' first
    | (with_reducible first | assumption | apply State.modSec_keeps | apply State.setRf_keeps)
    | (with_reducible apply snd_keeps; with_reducible assumption)
    | (extract_lets -underBinder +onlyGivenNames x; first | (refine mp_keeps (s0 := s0) x ?_ ?_; unfold x; clear x; rotate_left; intro hx; clear_value x) | clear_value x)
    | split
    | (with_reducible apply Sec.Burns.of_same; with_reducible assumption; rfl; rfl; rfl; rfl; rfl; rfl; rfl; rfl; rfl; rfl; rfl; rfl)
    | intro _
    | (with_reducible apply Keeps.of_same; with_reducible assumption; rfl; rfl; rfl; rfl; rfl; rfl)

theorem State.writeSysReset_keeps (h : s0.Keeps s) (v : Word) : s0.Keeps (State.writeSysReset s v) := by
  unfold State.writeSysReset
  repeat' first
    | (with_reducible first | assumption | apply State.softReset_keeps)
    | (with_reducible apply snd_keeps; with_reducible assumption)
    | (extract_lets -underBinder +onlyGivenNames x; first | (refine mp_keeps (s0 := s0) x ?_ ?_; unfold x; clear x; rotate_left; intro hx; clear_value x) | clear_value x)
    | split
    | intro _

theorem State.dropActs_keeps (h : s0.Keeps s) : s0.Keeps (s.dropActs) :=
  ⟨h.1, h.2, Sec.Burns.of_same h.3 rfl rfl rfl rfl rfl rfl rfl rfl rfl rfl rfl rfl, h.4, h.5, h.6⟩

/-! ### Security -/

theorem State.onSec_keeps (h : s0.Keeps s) (op : Nat) (f : Nat → Nat → Desc → State → State) (hf : ∀ a0 a1 a2 x, s0.Keeps x → s0.Keeps (f a0 a1 a2 x)) : s0.Keeps (State.onSec s op f) := by
  unfold State.onSec
  repeat' first
    | (with_reducible first | assumption | apply hf | apply State.iff_keeps | apply State.onTurn_keeps)
    | (with_reducible apply snd_keeps; with_reducible assumption)
    | (extract_lets -underBinder +onlyGivenNames x; first | (refine mp_keeps (s0 := s0) x ?_ ?_; unfold x; clear x; rotate_left; intro hx; clear_value x) | clear_value x)
    | split
    | intro _

/-! ### Time -/

theorem State.retimeBell_keeps (h : s0.Keeps s)  : s0.Keeps (State.retimeBell s) := by
  unfold State.retimeBell
  repeat' first
    | (with_reducible first | assumption | apply State.modBell_keeps)
    | (with_reducible apply snd_keeps; with_reducible assumption)
    | (extract_lets -underBinder +onlyGivenNames x; first | (refine mp_keeps (s0 := s0) x ?_ ?_; unfold x; clear x; rotate_left; intro hx; clear_value x) | clear_value x)
    | split
    | intro _
    | (with_reducible apply Keeps.of_same; with_reducible assumption; rfl; rfl; rfl; rfl; rfl; rfl)

theorem State.bellInsert_keeps (h : s0.Keeps s) (b : Bytes) : s0.Keeps ((State.bellInsert s b).2) := by
  unfold State.bellInsert
  repeat' first
    | (with_reducible first | assumption | apply State.modBell_keeps)
    | (with_reducible apply snd_keeps; with_reducible assumption)
    | (extract_lets -underBinder +onlyGivenNames x; first | (refine mp_keeps (s0 := s0) x ?_ ?_; unfold x; clear x; rotate_left; intro hx; clear_value x) | clear_value x)
    | split
    | intro _
    | (with_reducible apply Keeps.of_same; with_reducible assumption; rfl; rfl; rfl; rfl; rfl; rfl)

theorem State.bellInsertFrame_keeps (h : s0.Keeps s) (b : Bytes) : s0.Keeps (State.bellInsertFrame s b) := by
  unfold State.bellInsertFrame
  repeat' first
    | (with_reducible first | assumption | apply State.bellInsert_keeps | apply State.bump_keeps | apply State.raise_keeps
                            | apply State.iff_keeps | apply State.modBell_keeps)
    | (with_reducible apply snd_keeps; with_reducible assumption)
    | (extract_lets -underBinder +onlyGivenNames x; first | (refine mp_keeps (s0 := s0) x ?_ ?_; unfold x; clear x; rotate_left; intro hx; clear_value x) | clear_value x)
    | split
    | intro _
    | (with_reducible apply Keeps.of_same; with_reducible assumption; rfl; rfl; rfl; rfl; rfl; rfl)

theorem State.setTime_keeps (h : s0.Keeps s) (v : Nat) : s0.Keeps (State.setTime s v) := by
  unfold State.setTime
  repeat' first
    | (with_reducible first | assumption | apply State.modTim_keeps | apply State.setQuality_keeps | apply State.retimeBell_keeps)
    | (with_reducible apply snd_keeps; with_reducible assumption)
    | (extract_lets -underBinder +onlyGivenNames x; first | (refine mp_keeps (s0 := s0) x ?_ ?_; unfold x; clear x; rotate_left; intro hx; clear_value x) | clear_value x)
    | split
    | intro _
    | (with_reducible apply Keeps.of_same; with_reducible assumption; rfl; rfl; rfl; rfl; rfl; rfl)

theorem State.writeTimSet_keeps (h : s0.Keeps s)  : s0.Keeps (State.writeTimSet s) := by
  unfold State.writeTimSet
  repeat' first
    | (with_reducible first | assumption | apply State.setTime_keeps)
    | (with_reducible apply snd_keeps; with_reducible assumption)
    | (extract_lets -underBinder +onlyGivenNames x; first | (refine mp_keeps (s0 := s0) x ?_ ?_; unfold x; clear x; rotate_left; intro hx; clear_value x) | clear_value x)
    | split
    | intro _

theorem State.putTarget_keeps (h : s0.Keeps s) (x : Int) : s0.Keeps (State.putTarget s x) := by
  unfold State.putTarget
  repeat' first
    | (with_reducible first | assumption | apply State.setReg_keeps | apply State.modTim_keeps)
    | (with_reducible apply snd_keeps; with_reducible assumption)
    | (extract_lets -underBinder +onlyGivenNames x; first | (refine mp_keeps (s0 := s0) x ?_ ?_; unfold x; clear x; rotate_left; intro hx; clear_value x) | clear_value x)
    | split
    | intro _
    | (with_reducible apply Keeps.of_same; with_reducible assumption; rfl; rfl; rfl; rfl; rfl; rfl)

theorem State.writeTargetHi_keeps (h : s0.Keeps s) (v : Word) : s0.Keeps (State.writeTargetHi s v) := by
  unfold State.writeTargetHi
  repeat' first
    | (with_reducible first | assumption | apply State.putTarget_keeps)
    | (with_reducible apply snd_keeps; with_reducible assumption)
    | (extract_lets -underBinder +onlyGivenNames x; first | (refine mp_keeps (s0 := s0) x ?_ ?_; unfold x; clear x; rotate_left; intro hx; clear_value x) | clear_value x)
    | split
    | intro _

theorem State.putSrc_keeps (h : s0.Keeps s) (v : Bool) : s0.Keeps (State.putSrc s v) := by
  unfold State.putSrc
  repeat' first
    | (with_reducible first | assumption | apply State.modTim_keeps)
    | (with_reducible apply snd_keeps; with_reducible assumption)
    | (extract_lets -underBinder +onlyGivenNames x; first | (refine mp_keeps (s0 := s0) x ?_ ?_; unfold x; clear x; rotate_left; intro hx; clear_value x) | clear_value x)
    | split
    | intro _
    | (with_reducible apply Keeps.of_same; with_reducible assumption; rfl; rfl; rfl; rfl; rfl; rfl)

theorem State.sourcePresent_keeps (h : s0.Keeps s)  : s0.Keeps (State.sourcePresent s) := by
  unfold State.sourcePresent
  repeat' first
    | (with_reducible first | assumption | apply State.putSrc_keeps | apply State.modTim_keeps | apply State.setQuality_keeps)
    | (with_reducible apply snd_keeps; with_reducible assumption)
    | (extract_lets -underBinder +onlyGivenNames x; first | (refine mp_keeps (s0 := s0) x ?_ ?_; unfold x; clear x; rotate_left; intro hx; clear_value x) | clear_value x)
    | split
    | intro _
    | (with_reducible apply Keeps.of_same; with_reducible assumption; rfl; rfl; rfl; rfl; rfl; rfl)

theorem State.sourceLost_keeps (h : s0.Keeps s)  : s0.Keeps (State.sourceLost s) := by
  unfold State.sourceLost
  repeat' first
    | (with_reducible first | assumption | apply State.putSrc_keeps | apply State.modTim_keeps | apply State.setQuality_keeps)
    | (with_reducible apply snd_keeps; with_reducible assumption)
    | (extract_lets -underBinder +onlyGivenNames x; first | (refine mp_keeps (s0 := s0) x ?_ ?_; unfold x; clear x; rotate_left; intro hx; clear_value x) | clear_value x)
    | split
    | intro _
    | (with_reducible apply Keeps.of_same; with_reducible assumption; rfl; rfl; rfl; rfl; rfl; rfl)

theorem State.estimate_keeps (h : s0.Keeps s) (e : Int) : s0.Keeps (State.estimate s e) := by
  unfold State.estimate
  repeat' first
    | (with_reducible first | assumption | apply State.setQuality_keeps | apply State.modTim_keeps)
    | (with_reducible apply snd_keeps; with_reducible assumption)
    | (extract_lets -underBinder +onlyGivenNames x; first | (refine mp_keeps (s0 := s0) x ?_ ?_; unfold x; clear x; rotate_left; intro hx; clear_value x) | clear_value x)
    | split
    | intro _
    | (with_reducible apply Keeps.of_same; with_reducible assumption; rfl; rfl; rfl; rfl; rfl; rfl)

theorem State.servo_keeps (h : s0.Keeps s) (v : Servo) : s0.Keeps (State.servo s v) := by
  unfold State.servo
  repeat' first
    | (with_reducible first | assumption | apply State.estimate_keeps | apply State.iff_keeps | apply State.putTarget_keeps
                            | apply State.setTime_keeps)
    | (with_reducible apply snd_keeps; with_reducible assumption)
    | (extract_lets -underBinder +onlyGivenNames x; first | (refine mp_keeps (s0 := s0) x ?_ ?_; unfold x; clear x; rotate_left; intro hx; clear_value x) | clear_value x)
    | split
    | intro _
    | (with_reducible apply Keeps.of_same; with_reducible assumption; rfl; rfl; rfl; rfl; rfl; rfl)

theorem State.bellFire_keeps (h : s0.Keeps s)  : s0.Keeps (State.bellFire s) := by
  unfold State.bellFire
  repeat' first
    | (with_reducible first | assumption | apply State.setRf_keeps | apply State.modBell_keeps)
    | (with_reducible apply snd_keeps; with_reducible assumption)
    | (extract_lets -underBinder +onlyGivenNames x; first | (refine mp_keeps (s0 := s0) x ?_ ?_; unfold x; clear x; rotate_left; intro hx; clear_value x) | clear_value x)
    | split
    | intro _
    | (with_reducible apply Keeps.of_same; with_reducible assumption; rfl; rfl; rfl; rfl; rfl; rfl)

theorem State.onFired_keeps (h : s0.Keeps s) (action : Nat) (unit : Option Nat) (f : Fired → State → State) (hf : ∀ a0 x, s0.Keeps x → s0.Keeps (f a0 x)) : s0.Keeps (State.onFired s action unit f) := by
  unfold State.onFired
  repeat' first
    | (with_reducible first | assumption | apply hf | apply State.modBell_keeps | apply hf1 | apply hf2 | apply hf3)
    | (with_reducible apply snd_keeps; with_reducible assumption)
    | (extract_lets -underBinder +onlyGivenNames x; first | (refine mp_keeps (s0 := s0) x ?_ ?_; unfold x; clear x; rotate_left; intro hx; clear_value x) | (refine mp1_keeps (s0 := s0) x ?_ ?_; unfold x; clear x; rotate_left; intro hf1; clear_value x) | (refine mp2_keeps (s0 := s0) x ?_ ?_; unfold x; clear x; rotate_left; intro hf2; clear_value x) | (refine mp3_keeps (s0 := s0) x ?_ ?_; unfold x; clear x; rotate_left; intro hf3; clear_value x) | clear_value x)
    | split
    | intro _
    | (with_reducible apply Keeps.of_same; with_reducible assumption; rfl; rfl; rfl; rfl; rfl; rfl)

/-! ### Station -/

theorem State.staDrop_keeps (h : s0.Keeps s) (n : Nat) : s0.Keeps (State.staDrop s n) := by
  unfold State.staDrop
  repeat' first
    | (with_reducible first | assumption | apply State.modSta_keeps)
    | (with_reducible apply snd_keeps; with_reducible assumption)
    | (extract_lets -underBinder +onlyGivenNames x; first | (refine mp_keeps (s0 := s0) x ?_ ?_; unfold x; clear x; rotate_left; intro hx; clear_value x) | clear_value x)
    | split
    | intro _
    | (with_reducible apply Keeps.of_same; with_reducible assumption; rfl; rfl; rfl; rfl; rfl; rfl)

theorem State.staQueue_keeps (h : s0.Keeps s) (n : Nat) (high : Bool) (b : Bytes) : s0.Keeps (State.staQueue s n high b) := by
  unfold State.staQueue
  repeat' first
    | (with_reducible first | assumption | apply State.modSta_keeps | apply State.staDrop_keeps)
    | (with_reducible apply snd_keeps; with_reducible assumption)
    | (extract_lets -underBinder +onlyGivenNames x; first | (refine mp_keeps (s0 := s0) x ?_ ?_; unfold x; clear x; rotate_left; intro hx; clear_value x) | clear_value x)
    | split
    | intro _
    | (with_reducible apply Keeps.of_same; with_reducible assumption; rfl; rfl; rfl; rfl; rfl; rfl)

theorem State.sendBell_keeps (h : s0.Keeps s) (es : List Bytes) : s0.Keeps (State.sendBell s es) := by
  unfold State.sendBell
  repeat' first
    | (with_reducible first | assumption | apply State.modBell_keeps | apply State.staQueue_keeps)
    | (with_reducible apply snd_keeps; with_reducible assumption)
    | (extract_lets -underBinder +onlyGivenNames x; first | (refine mp_keeps (s0 := s0) x ?_ ?_; unfold x; clear x; rotate_left; intro hx; clear_value x) | clear_value x)
    | split
    | intro _
    | (with_reducible apply Keeps.of_same; with_reducible assumption; rfl; rfl; rfl; rfl; rfl; rfl)

theorem State.sendBells_keeps (h : s0.Keeps s) (k : Nat) (es : List Bytes) : s0.Keeps (s.sendBells k es) := by
  induction k generalizing es s with
  | zero => exact h
  | succ m ih =>
    unfold State.sendBells
    repeat' first
      | with_reducible assumption
      | with_reducible apply ih
      | with_reducible apply State.sendBell_keeps
      | (with_reducible apply snd_keeps; with_reducible assumption)
      | (extract_lets -underBinder +onlyGivenNames x; first | (refine mp_keeps (s0 := s0) x ?_ ?_; unfold x; clear x; rotate_left; intro hx; clear_value x) | clear_value x)
      | split
      | intro _

theorem State.bellAddGo_keeps (h : s0.Keeps s) (n : Nat) (out l : List Bytes) : s0.Keeps (s.bellAddGo n out l).2.2.2 := by
  induction l generalizing s n out with
  | nil => exact h
  | cons a r ih =>
    unfold State.bellAddGo
    have hb := State.bellInsert_keeps h a
    dsimp only
    split
    · split
      · exact ih hb _ _
      · exact hb
    · split
      · exact h
      · exact ih h _ _

theorem State.sendTemplate_keeps (h : s0.Keeps s) (i : Nat) (stamp : Int) : s0.Keeps (State.sendTemplate s i stamp) := by
  unfold State.sendTemplate
  repeat' first
    | (with_reducible first | assumption | apply State.sendBell_keeps | apply State.iff_keeps | apply State.bellInsert_keeps)
    | (with_reducible apply snd_keeps; with_reducible assumption)
    | (extract_lets -underBinder +onlyGivenNames x; first | (refine mp_keeps (s0 := s0) x ?_ ?_; unfold x; clear x; rotate_left; intro hx; clear_value x) | clear_value x)
    | split
    | intro _

theorem State.bellReceive_keeps (h : s0.Keeps s) (dom : Nat) (es : List Bytes) : s0.Keeps (State.bellReceive s dom es) := by
  unfold State.bellReceive
  repeat' first
    | (with_reducible first | assumption | apply State.iff_keeps | apply State.bellInsertFrame_keeps | apply foldl_keeps
                            | apply foldl_snd_keeps | apply foldl_fst_keeps)
    | (with_reducible apply snd_keeps; with_reducible assumption)
    | (extract_lets -underBinder +onlyGivenNames x; first | (refine mp_keeps (s0 := s0) x ?_ ?_; unfold x; clear x; rotate_left; intro hx; clear_value x) | clear_value x)
    | split
    | intro _

theorem State.deliver_keeps (h : s0.Keeps s) (n : Nat) (stamp : Int) (b : Bytes) : s0.Keeps (State.deliver s n stamp b) := by
  unfold State.deliver
  repeat' first
    | (with_reducible first | assumption | apply State.emitRecord_keeps)
    | (with_reducible apply snd_keeps; with_reducible assumption)
    | (extract_lets -underBinder +onlyGivenNames x; first | (refine mp_keeps (s0 := s0) x ?_ ?_; unfold x; clear x; rotate_left; intro hx; clear_value x) | clear_value x)
    | split
    | intro _

theorem State.announce_keeps (h : s0.Keeps s) (n : Nat) (b : Bytes) : s0.Keeps (State.announce s n b) := by
  unfold State.announce
  repeat' first
    | (with_reducible first | assumption | apply State.iff_keeps | apply State.modSta_keeps | apply State.modTim_keeps)
    | (with_reducible apply snd_keeps; with_reducible assumption)
    | (extract_lets -underBinder +onlyGivenNames x; first | (refine mp_keeps (s0 := s0) x ?_ ?_; unfold x; clear x; rotate_left; intro hx; clear_value x) | clear_value x)
    | split
    | intro _
    | (with_reducible apply Keeps.of_same; with_reducible assumption; rfl; rfl; rfl; rfl; rfl; rfl)

theorem State.ptpLogic_keeps (h : s0.Keeps s) (n : Nat) (stamp : Int) (out : Int) (b : Bytes) (v : Servo) : s0.Keeps (State.ptpLogic s n stamp out b v) := by
  unfold State.ptpLogic
  repeat' first
    | (with_reducible first | assumption | apply State.staQueue_keeps | apply State.modSta_keeps | apply State.announce_keeps
                            | apply State.iff_keeps | apply State.modTim_keeps | apply State.sourcePresent_keeps
                            | apply State.servo_keeps)
    | (with_reducible apply snd_keeps; with_reducible assumption)
    | (extract_lets -underBinder +onlyGivenNames x; first | (refine mp_keeps (s0 := s0) x ?_ ?_; unfold x; clear x; rotate_left; intro hx; clear_value x) | clear_value x)
    | split
    | intro _
    | (with_reducible apply Keeps.of_same; with_reducible assumption; rfl; rfl; rfl; rfl; rfl; rfl)

theorem State.corrected_keeps (h : s0.Keeps s) (n : Nat) (stamp : Int) (out : Int) (b : Bytes) : s0.Keeps ((State.corrected s n stamp out b).2) := by
  unfold State.corrected
  repeat' first
    | (with_reducible first | assumption | apply State.modSta_keeps | apply hf1 | apply hf2 | apply hf3)
    | (with_reducible apply snd_keeps; with_reducible assumption)
    | (extract_lets -underBinder +onlyGivenNames x; first | (refine mp_keeps (s0 := s0) x ?_ ?_; unfold x; clear x; rotate_left; intro hx; clear_value x) | (refine mp1_keeps (s0 := s0) x ?_ ?_; unfold x; clear x; rotate_left; intro hf1; clear_value x) | (refine mp2_keeps (s0 := s0) x ?_ ?_; unfold x; clear x; rotate_left; intro hf2; clear_value x) | (refine mp3_keeps (s0 := s0) x ?_ ?_; unfold x; clear x; rotate_left; intro hf3; clear_value x) | clear_value x)
    | split
    | intro _
    | (with_reducible apply Keeps.of_same; with_reducible assumption; rfl; rfl; rfl; rfl; rfl; rfl)

theorem State.switchFrame_keeps (h : s0.Keeps s) (n : Nat) (stamp : Int) (out : Int) (b : Bytes) (v : Servo) : s0.Keeps (State.switchFrame s n stamp out b v) := by
  unfold State.switchFrame
  repeat' first
    | (with_reducible first | assumption | apply State.deliver_keeps | apply State.staDrop_keeps | apply State.ptpLogic_keeps
                            | apply State.corrected_keeps | apply State.staQueue_keeps | apply State.iff_keeps
                            | apply State.bellReceive_keeps)
    | (with_reducible apply snd_keeps; with_reducible assumption)
    | (extract_lets -underBinder +onlyGivenNames x; first | (refine mp_keeps (s0 := s0) x ?_ ?_; unfold x; clear x; rotate_left; intro hx; clear_value x) | clear_value x)
    | split
    | intro _
    | (with_reducible apply Keeps.of_same; with_reducible assumption; rfl; rfl; rfl; rfl; rfl; rfl)

theorem State.staFall_keeps (h : s0.Keeps s) (n : Nat) : s0.Keeps (State.staFall s n) := by
  unfold State.staFall
  repeat' first
    | (with_reducible first | assumption | apply State.modSta_keeps | apply State.healthCount_keeps)
    | (with_reducible apply snd_keeps; with_reducible assumption)
    | (extract_lets -underBinder +onlyGivenNames x; first | (refine mp_keeps (s0 := s0) x ?_ ?_; unfold x; clear x; rotate_left; intro hx; clear_value x) | clear_value x)
    | split
    | intro _
    | (with_reducible apply Keeps.of_same; with_reducible assumption; rfl; rfl; rfl; rfl; rfl; rfl)

end Sys2Proof.Machine
end

