-- ==== Sys2Proof/Laws/KeepsRecord.lean ====
section
/-! SUPPORT. What every operation keeps (State.Keeps of Safety.lean), one lemma per operation and per command: capture, triggers, phasors and the analog front. -/

namespace Sys2Proof.Machine

set_option linter.unusedTactic false
set_option linter.unreachableTactic false
set_option linter.unusedVariables false

variable {s0 s : State}

/-! ### Capture -/

theorem State.capDrain_keeps (h : s0.Keeps s)  : s0.Keeps (State.capDrain s) := by
  unfold State.capDrain
  repeat' first
    | (with_reducible first | assumption | apply State.modUnit_keeps | apply State.modCap_keeps | apply State.forAll_keeps | apply foldl_keeps
                            | apply foldl_snd_keeps | apply foldl_fst_keeps)
    | (with_reducible apply snd_keeps; with_reducible assumption)
    | (extract_lets -underBinder +onlyGivenNames x; first | (refine mp_keeps (s0 := s0) x ?_ ?_; unfold x; clear x; rotate_left; intro hx; clear_value x) | clear_value x)
    | split
    | intro _
    | (with_reducible apply Keeps.of_same; with_reducible assumption; rfl; rfl; rfl; rfl; rfl; rfl)

theorem State.capEnd_keeps (h : s0.Keeps s) (u : Nat) (ovrun : Bool) (trunc : Bool) : s0.Keeps (State.capEnd s u ovrun trunc) := by
  unfold State.capEnd
  repeat' first
    | (with_reducible first | assumption | apply State.modUnit_keeps | apply State.setRf_keeps | apply State.iff_keeps
                            | apply State.raise_keeps | apply State.notice_keeps)
    | (with_reducible apply snd_keeps; with_reducible assumption)
    | (extract_lets -underBinder +onlyGivenNames x; first | (refine mp_keeps (s0 := s0) x ?_ ?_; unfold x; clear x; rotate_left; intro hx; clear_value x) | clear_value x)
    | split
    | intro _
    | (with_reducible apply Keeps.of_same; with_reducible assumption; rfl; rfl; rfl; rfl; rfl; rfl)

theorem State.capStore_keeps (h : s0.Keeps s) (u : Nat) (c : Chunk) : s0.Keeps (State.capStore s u c) := by
  unfold State.capStore
  repeat' first
    | (with_reducible first | assumption | apply State.capDrain_keeps | apply State.iff_keeps | apply State.modUnit_keeps
                            | apply State.capEnd_keeps)
    | (with_reducible apply snd_keeps; with_reducible assumption)
    | (extract_lets -underBinder +onlyGivenNames x; first | (refine mp_keeps (s0 := s0) x ?_ ?_; unfold x; clear x; rotate_left; intro hx; clear_value x) | clear_value x)
    | split
    | intro _
    | (with_reducible apply Keeps.of_same; with_reducible assumption; rfl; rfl; rfl; rfl; rfl; rfl)

theorem State.capClose_keeps (h : s0.Keeps s) (u : Nat) (k : Nat) : s0.Keeps (State.capClose s u k) := by
  unfold State.capClose
  repeat' first
    | (with_reducible first | assumption | apply State.modUnit_keeps | apply State.capStore_keeps)
    | (with_reducible apply snd_keeps; with_reducible assumption)
    | (extract_lets -underBinder +onlyGivenNames x; first | (refine mp_keeps (s0 := s0) x ?_ ?_; unfold x; clear x; rotate_left; intro hx; clear_value x) | clear_value x)
    | split
    | intro _

theorem State.capItem_keeps (h : s0.Keeps s) (u : Nat) (k : Nat) (code : Nat) (red : Nat) (lay : Lay) (inst : Int) (b : Bytes) : s0.Keeps (State.capItem s u k code red lay inst b) := by
  unfold State.capItem
  repeat' first
    | (with_reducible first | assumption | apply State.iff_keeps | apply State.capClose_keeps | apply State.modUnit_keeps)
    | (with_reducible apply snd_keeps; with_reducible assumption)
    | (extract_lets -underBinder +onlyGivenNames x; first | (refine mp_keeps (s0 := s0) x ?_ ?_; unfold x; clear x; rotate_left; intro hx; clear_value x) | clear_value x)
    | split
    | intro _
    | (with_reducible apply Keeps.of_same; with_reducible assumption; rfl; rfl; rfl; rfl; rfl; rfl)

theorem State.capEach_keeps (h : s0.Keeps s) (code : Nat) (f : Nat → Nat → Word → State → State) (hf : ∀ a0 a1 a2 x, s0.Keeps x → s0.Keeps (f a0 a1 a2 x)) : s0.Keeps (State.capEach s code f) := by
  unfold State.capEach
  repeat' first
    | (with_reducible first | assumption | apply hf | apply State.forAll_keeps | apply State.iff_keeps)
    | (with_reducible apply snd_keeps; with_reducible assumption)
    | (extract_lets -underBinder +onlyGivenNames x; first | (refine mp_keeps (s0 := s0) x ?_ ?_; unfold x; clear x; rotate_left; intro hx; clear_value x) | clear_value x)
    | split
    | intro _

theorem State.capMark_keeps (h : s0.Keeps s) (code : Nat) (m : Int) : s0.Keeps (State.capMark s code m) := by
  unfold State.capMark
  repeat' first
    | (with_reducible first | assumption | apply State.modCap_keeps)
    | (with_reducible apply snd_keeps; with_reducible assumption)
    | (extract_lets -underBinder +onlyGivenNames x; first | (refine mp_keeps (s0 := s0) x ?_ ?_; unfold x; clear x; rotate_left; intro hx; clear_value x) | clear_value x)
    | split
    | intro _
    | (with_reducible apply Keeps.of_same; with_reducible assumption; rfl; rfl; rfl; rfl; rfl; rfl)

theorem State.capRaw_keeps (h : s0.Keeps s) (code : Nat) (lay : Lay) (inst : Int) (b : Bytes) : s0.Keeps (State.capRaw s code lay inst b) := by
  unfold State.capRaw
  repeat' first
    | (with_reducible first | assumption | apply State.capEach_keeps | apply State.iff_keeps | apply State.capItem_keeps)
    | (with_reducible apply snd_keeps; with_reducible assumption)
    | (extract_lets -underBinder +onlyGivenNames x; first | (refine mp_keeps (s0 := s0) x ?_ ?_; unfold x; clear x; rotate_left; intro hx; clear_value x) | clear_value x)
    | split
    | intro _

theorem State.capGap_keeps (h : s0.Keeps s) (code : Nat) : s0.Keeps (State.capGap s code) := by
  unfold State.capGap
  repeat' first
    | (with_reducible first | assumption | apply State.capEach_keeps | apply State.forAll_keeps | apply State.capClose_keeps)
    | (with_reducible apply snd_keeps; with_reducible assumption)
    | (extract_lets -underBinder +onlyGivenNames x; first | (refine mp_keeps (s0 := s0) x ?_ ?_; unfold x; clear x; rotate_left; intro hx; clear_value x) | clear_value x)
    | split
    | intro _

theorem State.capGroup_keeps (h : s0.Keeps s) (u : Nat) (i : Nat) (code : Nat) (w : Word) (inst : Nat) (v : Int) : s0.Keeps (State.capGroup s u i code w inst v) := by
  unfold State.capGroup
  repeat' first
    | (with_reducible first | assumption | apply State.modUnit_keeps | apply State.capItem_keeps | apply State.iff_keeps
                            | apply hf1 | apply hf2 | apply hf3)
    | (with_reducible apply snd_keeps; with_reducible assumption)
    | (extract_lets -underBinder +onlyGivenNames x; first | (refine mp_keeps (s0 := s0) x ?_ ?_; unfold x; clear x; rotate_left; intro hx; clear_value x) | (refine mp1_keeps (s0 := s0) x ?_ ?_; unfold x; clear x; rotate_left; intro hf1; clear_value x) | (refine mp2_keeps (s0 := s0) x ?_ ?_; unfold x; clear x; rotate_left; intro hf2; clear_value x) | (refine mp3_keeps (s0 := s0) x ?_ ?_; unfold x; clear x; rotate_left; intro hf3; clear_value x) | clear_value x)
    | split
    | intro _
    | (with_reducible apply Keeps.of_same; with_reducible assumption; rfl; rfl; rfl; rfl; rfl; rfl)

theorem State.capRms_keeps (h : s0.Keeps s) (u : Nat) (i : Nat) (code : Nat) (r : Red) (forced : Bool) : s0.Keeps (State.capRms s u i code r forced) := by
  unfold State.capRms
  repeat' first
    | (with_reducible first | assumption | apply State.capItem_keeps)
    | (with_reducible apply snd_keeps; with_reducible assumption)
    | (extract_lets -underBinder +onlyGivenNames x; first | (refine mp_keeps (s0 := s0) x ?_ ?_; unfold x; clear x; rotate_left; intro hx; clear_value x) | clear_value x)
    | split
    | intro _

theorem State.capCycle_keeps (h : s0.Keeps s) (u : Nat) (i : Nat) (code : Nat) (w : Word) (inst : Nat) (v : Int) : s0.Keeps (State.capCycle s u i code w inst v) := by
  unfold State.capCycle
  repeat' first
    | (with_reducible first | assumption | apply State.iff_keeps | apply State.capRms_keeps | apply State.modUnit_keeps)
    | (with_reducible apply snd_keeps; with_reducible assumption)
    | (extract_lets -underBinder +onlyGivenNames x; first | (refine mp_keeps (s0 := s0) x ?_ ?_; unfold x; clear x; rotate_left; intro hx; clear_value x) | clear_value x)
    | split
    | intro _
    | (with_reducible apply Keeps.of_same; with_reducible assumption; rfl; rfl; rfl; rfl; rfl; rfl)

theorem State.capFast_keeps (h : s0.Keeps s) (n : Nat) (inst : Nat) (v : Int) : s0.Keeps (State.capFast s n inst v) := by
  unfold State.capFast
  repeat' first
    | (with_reducible first | assumption | apply State.capEach_keeps | apply State.iff_keeps | apply State.capItem_keeps
                            | apply State.capGroup_keeps | apply State.capCycle_keeps | apply State.capMark_keeps)
    | (with_reducible apply snd_keeps; with_reducible assumption)
    | (extract_lets -underBinder +onlyGivenNames x; first | (refine mp_keeps (s0 := s0) x ?_ ?_; unfold x; clear x; rotate_left; intro hx; clear_value x) | clear_value x)
    | split
    | intro _

theorem State.capFastGap_keeps (h : s0.Keeps s) (n : Nat) (inst : Nat) : s0.Keeps (State.capFastGap s n inst) := by
  unfold State.capFastGap
  repeat' first
    | (with_reducible first | assumption | apply State.capGap_keeps | apply State.capEach_keeps | apply State.modUnit_keeps
                            | apply State.capMark_keeps)
    | (with_reducible apply snd_keeps; with_reducible assumption)
    | (extract_lets -underBinder +onlyGivenNames x; first | (refine mp_keeps (s0 := s0) x ?_ ?_; unfold x; clear x; rotate_left; intro hx; clear_value x) | clear_value x)
    | split
    | intro _
    | (with_reducible apply Keeps.of_same; with_reducible assumption; rfl; rfl; rfl; rfl; rfl; rfl)

theorem State.crossTrigger_keeps (h : s0.Keeps s) (u : Nat) (T : Int) : s0.Keeps (State.crossTrigger s u T) := by
  unfold State.crossTrigger
  repeat' first
    | (with_reducible first | assumption | apply State.raise_keeps | apply State.sendTemplate_keeps)
    | (with_reducible apply snd_keeps; with_reducible assumption)
    | (extract_lets -underBinder +onlyGivenNames x; first | (refine mp_keeps (s0 := s0) x ?_ ?_; unfold x; clear x; rotate_left; intro hx; clear_value x) | clear_value x)
    | split
    | intro _

theorem State.capTrigger_keeps (h : s0.Keeps s) (u : Nat) (T : Int) (src : Nat) (rank : Nat) : s0.Keeps (State.capTrigger s u T src rank) := by
  unfold State.capTrigger
  repeat' first
    | (with_reducible first | assumption | apply State.modUnit_keeps | apply State.iff_keeps | apply State.crossTrigger_keeps
                            | apply State.bump_keeps | apply hf1 | apply hf2 | apply hf3)
    | (with_reducible apply snd_keeps; with_reducible assumption)
    | (extract_lets -underBinder +onlyGivenNames x; first | (refine mp_keeps (s0 := s0) x ?_ ?_; unfold x; clear x; rotate_left; intro hx; clear_value x) | (refine mp1_keeps (s0 := s0) x ?_ ?_; unfold x; clear x; rotate_left; intro hf1; clear_value x) | (refine mp2_keeps (s0 := s0) x ?_ ?_; unfold x; clear x; rotate_left; intro hf2; clear_value x) | (refine mp3_keeps (s0 := s0) x ?_ ?_; unfold x; clear x; rotate_left; intro hf3; clear_value x) | clear_value x)
    | split
    | intro _
    | (with_reducible apply Keeps.of_same; with_reducible assumption; rfl; rfl; rfl; rfl; rfl; rfl)

theorem State.capFire_keeps (h : s0.Keeps s) (src : Nat) (T : Int) : s0.Keeps (State.capFire s src T) := by
  unfold State.capFire
  repeat' first
    | (with_reducible first | assumption | apply State.forAll_keeps | apply State.iff_keeps | apply State.capTrigger_keeps)
    | (with_reducible apply snd_keeps; with_reducible assumption)
    | (extract_lets -underBinder +onlyGivenNames x; first | (refine mp_keeps (s0 := s0) x ?_ ?_; unfold x; clear x; rotate_left; intro hx; clear_value x) | clear_value x)
    | split
    | intro _

theorem State.capArm_keeps (h : s0.Keeps s) (u : Nat) : s0.Keeps ((State.capArm s u).2) := by
  unfold State.capArm
  repeat' first
    | (with_reducible first | assumption | apply State.modUnit_keeps)
    | (with_reducible apply snd_keeps; with_reducible assumption)
    | (extract_lets -underBinder +onlyGivenNames x; first | (refine mp_keeps (s0 := s0) x ?_ ?_; unfold x; clear x; rotate_left; intro hx; clear_value x) | clear_value x)
    | split
    | intro _
    | (with_reducible apply Keeps.of_same; with_reducible assumption; rfl; rfl; rfl; rfl; rfl; rfl)

theorem State.capAbort_keeps (h : s0.Keeps s) (u : Nat) : s0.Keeps (State.capAbort s u) := by
  unfold State.capAbort
  repeat' first
    | (with_reducible first | assumption | apply State.modUnit_keeps | apply State.capEnd_keeps)
    | (with_reducible apply snd_keeps; with_reducible assumption)
    | (extract_lets -underBinder +onlyGivenNames x; first | (refine mp_keeps (s0 := s0) x ?_ ?_; unfold x; clear x; rotate_left; intro hx; clear_value x) | clear_value x)
    | split
    | intro _
    | (with_reducible apply Keeps.of_same; with_reducible assumption; rfl; rfl; rfl; rfl; rfl; rfl)

theorem State.capDormant_keeps (h : s0.Keeps s)  : s0.Keeps (State.capDormant s) := by
  unfold State.capDormant
  repeat' first
    | (with_reducible first | assumption | apply State.forAll_keeps | apply State.capAbort_keeps)
    | (with_reducible apply snd_keeps; with_reducible assumption)
    | (extract_lets -underBinder +onlyGivenNames x; first | (refine mp_keeps (s0 := s0) x ?_ ?_; unfold x; clear x; rotate_left; intro hx; clear_value x) | clear_value x)
    | split
    | intro _

theorem State.onCap_keeps (h : s0.Keeps s) (op : Nat) (f : Nat → Nat → Desc → Nat → State → State) (hf : ∀ a0 a1 a2 a3 x, s0.Keeps x → s0.Keeps (f a0 a1 a2 a3 x)) : s0.Keeps (State.onCap s op f) := by
  unfold State.onCap
  repeat' first
    | (with_reducible first | assumption | apply hf | apply State.onTurn_keeps)
    | (with_reducible apply snd_keeps; with_reducible assumption)
    | (extract_lets -underBinder +onlyGivenNames x; first | (refine mp_keeps (s0 := s0) x ?_ ?_; unfold x; clear x; rotate_left; intro hx; clear_value x) | clear_value x)
    | split
    | intro _

theorem State.memErrors_keeps (h : s0.Keeps s) (ce : Nat) (ue : List (Nat × Bytes)) : s0.Keeps (State.memErrors s ce ue) := by
  unfold State.memErrors
  repeat' first
    | (with_reducible first | assumption | apply State.forAll_keeps | apply State.bump_keeps | apply State.raise_keeps
                            | apply foldl_keeps | apply foldl_snd_keeps | apply foldl_fst_keeps)
    | (with_reducible apply snd_keeps; with_reducible assumption)
    | (extract_lets -underBinder +onlyGivenNames x; first | (refine mp_keeps (s0 := s0) x ?_ ?_; unfold x; clear x; rotate_left; intro hx; clear_value x) | clear_value x)
    | split
    | intro _

/-! ### Trigger -/

theorem State.atrgEach_keeps (h : s0.Keeps s) (code : Nat) (f : Nat → State → State) (hf : ∀ a0 x, s0.Keeps x → s0.Keeps (f a0 x)) : s0.Keeps (State.atrgEach s code f) := by
  unfold State.atrgEach
  repeat' first
    | (with_reducible first | assumption | apply hf | apply State.forAll_keeps | apply State.iff_keeps)
    | (with_reducible apply snd_keeps; with_reducible assumption)
    | (extract_lets -underBinder +onlyGivenNames x; first | (refine mp_keeps (s0 := s0) x ?_ ?_; unfold x; clear x; rotate_left; intro hx; clear_value x) | clear_value x)
    | split
    | intro _

theorem State.atrgSample_keeps (h : s0.Keeps s) (code : Nat) (inst : Nat) (v : Int) : s0.Keeps (State.atrgSample s code inst v) := by
  unfold State.atrgSample
  repeat' first
    | (with_reducible first | assumption | apply State.atrgEach_keeps | apply State.modAtrg_keeps | apply State.iff_keeps
                            | apply State.capFire_keeps)
    | (with_reducible apply snd_keeps; with_reducible assumption)
    | (extract_lets -underBinder +onlyGivenNames x; first | (refine mp_keeps (s0 := s0) x ?_ ?_; unfold x; clear x; rotate_left; intro hx; clear_value x) | clear_value x)
    | split
    | intro _

theorem State.atrgReset_keeps (h : s0.Keeps s) (code : Nat) : s0.Keeps (State.atrgReset s code) := by
  unfold State.atrgReset
  repeat' first
    | (with_reducible first | assumption | apply State.atrgEach_keeps | apply State.modAtrg_keeps)
    | (with_reducible apply snd_keeps; with_reducible assumption)
    | (extract_lets -underBinder +onlyGivenNames x; first | (refine mp_keeps (s0 := s0) x ?_ ?_; unfold x; clear x; rotate_left; intro hx; clear_value x) | clear_value x)
    | split
    | intro _

theorem State.seqEnter_keeps (h : s0.Keeps s) (j : Nat) (q : Nat) (inst : Int) : s0.Keeps (State.seqEnter s j q inst) := by
  unfold State.seqEnter
  repeat' first
    | (with_reducible first | assumption | apply State.modSeqe_keeps)
    | (with_reducible apply snd_keeps; with_reducible assumption)
    | (extract_lets -underBinder +onlyGivenNames x; first | (refine mp_keeps (s0 := s0) x ?_ ?_; unfold x; clear x; rotate_left; intro hx; clear_value x) | clear_value x)
    | split
    | intro _
    | (with_reducible apply Keeps.of_same; with_reducible assumption; rfl; rfl; rfl; rfl; rfl; rfl)

theorem State.seqRun_keeps (h : s0.Keeps s) (j : Nat) (hor : Int) (n : Nat) : s0.Keeps (s.seqRun j hor n) := by
  induction n generalizing s with
  | zero => exact h
  | succ m ih =>
    unfold State.seqRun
    repeat' first
      | with_reducible assumption
      | with_reducible apply ih
      | with_reducible apply State.seqEnter_keeps
      | with_reducible apply State.modSeqe_keeps
      | with_reducible apply State.capFire_keeps
      | (with_reducible apply snd_keeps; with_reducible assumption)
      | (extract_lets -underBinder +onlyGivenNames x; first | (refine mp_keeps (s0 := s0) x ?_ ?_; unfold x; clear x; rotate_left; intro hx; clear_value x) | clear_value x)
      | split
      | intro _
      | (with_reducible apply Keeps.of_same; with_reducible assumption; rfl; rfl; rfl; rfl; rfl; rfl)

theorem State.seqGo_keeps (h : s0.Keeps s) (j : Nat) : s0.Keeps (State.seqGo s j) := by
  unfold State.seqGo
  repeat' first
    | (with_reducible first | assumption | apply State.seqRun_keeps)
    | (with_reducible apply snd_keeps; with_reducible assumption)
    | (extract_lets -underBinder +onlyGivenNames x; first | (refine mp_keeps (s0 := s0) x ?_ ?_; unfold x; clear x; rotate_left; intro hx; clear_value x) | clear_value x)
    | split
    | intro _

theorem State.seqGoAll_keeps (h : s0.Keeps s)  : s0.Keeps (State.seqGoAll s) := by
  unfold State.seqGoAll
  repeat' first
    | (with_reducible first | assumption | apply State.forAll_keeps | apply State.seqGo_keeps)
    | (with_reducible apply snd_keeps; with_reducible assumption)
    | (extract_lets -underBinder +onlyGivenNames x; first | (refine mp_keeps (s0 := s0) x ?_ ?_; unfold x; clear x; rotate_left; intro hx; clear_value x) | clear_value x)
    | split
    | intro _

theorem State.seqOffer_keeps (h : s0.Keeps s) (kind : Nat) (port : Nat) (inst : Int) (sub : Nat → Nat) (ok : Word → Word → Bool) : s0.Keeps (State.seqOffer s kind port inst sub ok) := by
  unfold State.seqOffer
  repeat' first
    | (with_reducible first | assumption | apply State.forAll_keeps | apply State.modSeqe_keeps | apply foldl_keeps
                            | apply foldl_snd_keeps | apply foldl_fst_keeps)
    | (with_reducible apply snd_keeps; with_reducible assumption)
    | (extract_lets -underBinder +onlyGivenNames x; first | (refine mp_keeps (s0 := s0) x ?_ ?_; unfold x; clear x; rotate_left; intro hx; clear_value x) | clear_value x)
    | split
    | intro _
    | (with_reducible apply Keeps.of_same; with_reducible assumption; rfl; rfl; rfl; rfl; rfl; rfl)

theorem State.seqTele_keeps (h : s0.Keeps s) (p : Nat) (inst : Int) (tele : List Int) : s0.Keeps (State.seqTele s p inst tele) := by
  unfold State.seqTele
  repeat' first
    | (with_reducible first | assumption | apply State.seqOffer_keeps)
    | (with_reducible apply snd_keeps; with_reducible assumption)
    | (extract_lets -underBinder +onlyGivenNames x; first | (refine mp_keeps (s0 := s0) x ?_ ?_; unfold x; clear x; rotate_left; intro hx; clear_value x) | clear_value x)
    | split
    | intro _
    | (with_reducible apply Keeps.of_same; with_reducible assumption; rfl; rfl; rfl; rfl; rfl; rfl)

theorem State.seqEvent_keeps (h : s0.Keeps s) (p : Nat) (inst : Int) (w : Nat) : s0.Keeps (State.seqEvent s p inst w) := by
  unfold State.seqEvent
  repeat' first
    | (with_reducible first | assumption | apply State.seqOffer_keeps)
    | (with_reducible apply snd_keeps; with_reducible assumption)
    | (extract_lets -underBinder +onlyGivenNames x; first | (refine mp_keeps (s0 := s0) x ?_ ?_; unfold x; clear x; rotate_left; intro hx; clear_value x) | clear_value x)
    | split
    | intro _

theorem State.seqEdge_keeps (h : s0.Keeps s) (p : Nat) (inst : Int) (q : Nat) (level : Bool) : s0.Keeps (State.seqEdge s p inst q level) := by
  unfold State.seqEdge
  repeat' first
    | (with_reducible first | assumption | apply State.seqOffer_keeps)
    | (with_reducible apply snd_keeps; with_reducible assumption)
    | (extract_lets -underBinder +onlyGivenNames x; first | (refine mp_keeps (s0 := s0) x ?_ ?_; unfold x; clear x; rotate_left; intro hx; clear_value x) | clear_value x)
    | split
    | intro _

theorem State.twSample_keeps (h : s0.Keeps s) (n : Nat) (inst : Nat) (x : Int) : s0.Keeps (State.twSample s n inst x) := by
  unfold State.twSample
  repeat' first
    | (with_reducible first | assumption | apply State.modTw_keeps | apply State.setReg_keeps | apply State.setRb_keeps
                            | apply State.capFire_keeps)
    | (with_reducible apply snd_keeps; with_reducible assumption)
    | (extract_lets -underBinder +onlyGivenNames x; first | (refine mp_keeps (s0 := s0) x ?_ ?_; unfold x; clear x; rotate_left; intro hx; clear_value x) | clear_value x)
    | split
    | intro _
    | (with_reducible apply Keeps.of_same; with_reducible assumption; rfl; rfl; rfl; rfl; rfl; rfl)

theorem State.twReset_keeps (h : s0.Keeps s) (n : Nat) : s0.Keeps (State.twReset s n) := by
  unfold State.twReset
  repeat' first
    | (with_reducible first | assumption | apply State.modTw_keeps)
    | (with_reducible apply snd_keeps; with_reducible assumption)
    | (extract_lets -underBinder +onlyGivenNames x; first | (refine mp_keeps (s0 := s0) x ?_ ?_; unfold x; clear x; rotate_left; intro hx; clear_value x) | clear_value x)
    | split
    | intro _
    | (with_reducible apply Keeps.of_same; with_reducible assumption; rfl; rfl; rfl; rfl; rfl; rfl)

theorem State.writeSeqCtrl_keeps (h : s0.Keeps s) (j : Nat) (v : Word) : s0.Keeps (State.writeSeqCtrl s j v) := by
  unfold State.writeSeqCtrl
  repeat' first
    | (with_reducible first | assumption | apply State.setRb_keeps | apply State.modSeqe_keeps)
    | (with_reducible apply snd_keeps; with_reducible assumption)
    | (extract_lets -underBinder +onlyGivenNames x; first | (refine mp_keeps (s0 := s0) x ?_ ?_; unfold x; clear x; rotate_left; intro hx; clear_value x) | clear_value x)
    | split
    | intro _

/-! ### Phasor -/

theorem State.pmuLoad_keeps (h : s0.Keeps s) (cl : Nat) : s0.Keeps (State.pmuLoad s cl) := by
  unfold State.pmuLoad
  repeat' first
    | (with_reducible first | assumption | apply State.setRf_keeps | apply State.forAll_keeps | apply State.setReg_keeps)
    | (with_reducible apply snd_keeps; with_reducible assumption)
    | (extract_lets -underBinder +onlyGivenNames x; first | (refine mp_keeps (s0 := s0) x ?_ ?_; unfold x; clear x; rotate_left; intro hx; clear_value x) | clear_value x)
    | split
    | intro _

theorem State.writePmuCtrl_keeps (h : s0.Keeps s) (v : Word) : s0.Keeps (State.writePmuCtrl s v) := by
  unfold State.writePmuCtrl
  repeat' first
    | (with_reducible first | assumption | apply State.setRb_keeps | apply State.modPmu_keeps | apply State.setReg_keeps
                            | apply State.pmuLoad_keeps | apply State.raise_keeps)
    | (with_reducible apply snd_keeps; with_reducible assumption)
    | (extract_lets -underBinder +onlyGivenNames x; first | (refine mp_keeps (s0 := s0) x ?_ ?_; unfold x; clear x; rotate_left; intro hx; clear_value x) | clear_value x)
    | split
    | intro _
    | (with_reducible apply Keeps.of_same; with_reducible assumption; rfl; rfl; rfl; rfl; rfl; rfl)

theorem State.pmuTake_keeps (h : s0.Keeps s) (n : Nat) (b : Nat) (x : Int) (ovr : Bool) : s0.Keeps (State.pmuTake s n b x ovr) := by
  unfold State.pmuTake
  repeat' first
    | (with_reducible first | assumption | apply State.modPmu_keeps)
    | (with_reducible apply snd_keeps; with_reducible assumption)
    | (extract_lets -underBinder +onlyGivenNames x; first | (refine mp_keeps (s0 := s0) x ?_ ?_; unfold x; clear x; rotate_left; intro hx; clear_value x) | clear_value x)
    | split
    | intro _
    | (with_reducible apply Keeps.of_same; with_reducible assumption; rfl; rfl; rfl; rfl; rfl; rfl)

/-! ### Analog -/

theorem State.adcKeep_keeps (h : s0.Keeps s) (c : Nat) (till : Nat) : s0.Keeps (State.adcKeep s c till) := by
  unfold State.adcKeep
  repeat' first
    | (with_reducible first | assumption | apply State.modAdc_keeps)
    | (with_reducible apply snd_keeps; with_reducible assumption)
    | (extract_lets -underBinder +onlyGivenNames x; first | (refine mp_keeps (s0 := s0) x ?_ ?_; unfold x; clear x; rotate_left; intro hx; clear_value x) | clear_value x)
    | split
    | intro _
    | (with_reducible apply Keeps.of_same; with_reducible assumption; rfl; rfl; rfl; rfl; rfl; rfl)

theorem State.fadKeep_keeps (h : s0.Keeps s) (n : Nat) (till : Nat) : s0.Keeps (State.fadKeep s n till) := by
  unfold State.fadKeep
  repeat' first
    | (with_reducible first | assumption | apply State.modFad_keeps)
    | (with_reducible apply snd_keeps; with_reducible assumption)
    | (extract_lets -underBinder +onlyGivenNames x; first | (refine mp_keeps (s0 := s0) x ?_ ?_; unfold x; clear x; rotate_left; intro hx; clear_value x) | clear_value x)
    | split
    | intro _
    | (with_reducible apply Keeps.of_same; with_reducible assumption; rfl; rfl; rfl; rfl; rfl; rfl)

theorem State.bandKeep_keeps (h : s0.Keeps s)  : s0.Keeps (State.bandKeep s) := by
  unfold State.bandKeep
  repeat' first
    | (with_reducible first | assumption | apply State.forAll_keeps | apply State.adcKeep_keeps | apply State.fadKeep_keeps)
    | (with_reducible apply snd_keeps; with_reducible assumption)
    | (extract_lets -underBinder +onlyGivenNames x; first | (refine mp_keeps (s0 := s0) x ?_ ?_; unfold x; clear x; rotate_left; intro hx; clear_value x) | clear_value x)
    | split
    | intro _

theorem State.setSpans_keeps (h : s0.Keeps s) (c : Nat) (l : List Span) : s0.Keeps (State.setSpans s c l) := by
  unfold State.setSpans
  repeat' first
    | (with_reducible first | assumption | apply State.modAdc_keeps)
    | (with_reducible apply snd_keeps; with_reducible assumption)
    | (extract_lets -underBinder +onlyGivenNames x; first | (refine mp_keeps (s0 := s0) x ?_ ?_; unfold x; clear x; rotate_left; intro hx; clear_value x) | clear_value x)
    | split
    | intro _
    | (with_reducible apply Keeps.of_same; with_reducible assumption; rfl; rfl; rfl; rfl; rfl; rfl)

theorem State.addSpan_keeps (h : s0.Keeps s) (c : Nat) (x : Span) : s0.Keeps (State.addSpan s c x) := by
  unfold State.addSpan
  repeat' first
    | (with_reducible first | assumption | apply State.setSpans_keeps)
    | (with_reducible apply snd_keeps; with_reducible assumption)
    | (extract_lets -underBinder +onlyGivenNames x; first | (refine mp_keeps (s0 := s0) x ?_ ?_; unfold x; clear x; rotate_left; intro hx; clear_value x) | clear_value x)
    | split
    | intro _

theorem State.seqStart_keeps (h : s0.Keeps s)  : s0.Keeps (State.seqStart s) := by
  unfold State.seqStart
  repeat' first
    | (with_reducible first | assumption | apply State.modAdc_keeps)
    | (with_reducible apply snd_keeps; with_reducible assumption)
    | (extract_lets -underBinder +onlyGivenNames x; first | (refine mp_keeps (s0 := s0) x ?_ ?_; unfold x; clear x; rotate_left; intro hx; clear_value x) | clear_value x)
    | split
    | intro _
    | (with_reducible apply Keeps.of_same; with_reducible assumption; rfl; rfl; rfl; rfl; rfl; rfl)

theorem State.avgLost_keeps (h : s0.Keeps s) (c : Nat) (run : Nat) : s0.Keeps (State.avgLost s c run) := by
  unfold State.avgLost
  repeat' first
    | (with_reducible first | assumption | apply State.modAavg_keeps)
    | (with_reducible apply snd_keeps; with_reducible assumption)
    | (extract_lets -underBinder +onlyGivenNames x; first | (refine mp_keeps (s0 := s0) x ?_ ?_; unfold x; clear x; rotate_left; intro hx; clear_value x) | clear_value x)
    | split
    | intro _
    | (with_reducible apply Keeps.of_same; with_reducible assumption; rfl; rfl; rfl; rfl; rfl; rfl)

theorem State.injWrite_keeps (h : s0.Keeps s)  : s0.Keeps (State.injWrite s) := by
  unfold State.injWrite
  repeat' first
    | (with_reducible first | assumption | apply State.modAdc_keeps)
    | (with_reducible apply snd_keeps; with_reducible assumption)
    | (extract_lets -underBinder +onlyGivenNames x; first | (refine mp_keeps (s0 := s0) x ?_ ?_; unfold x; clear x; rotate_left; intro hx; clear_value x) | clear_value x)
    | split
    | intro _
    | (with_reducible apply Keeps.of_same; with_reducible assumption; rfl; rfl; rfl; rfl; rfl; rfl)

theorem State.abortStep_keeps (h : s0.Keeps s) (x : Span) (due : Nat) : s0.Keeps (State.abortStep s x due) := by
  unfold State.abortStep
  repeat' first
    | (with_reducible first | assumption | apply State.forAll_keeps | apply State.setSpans_keeps | apply State.modAdc_keeps)
    | (with_reducible apply snd_keeps; with_reducible assumption)
    | (extract_lets -underBinder +onlyGivenNames x; first | (refine mp_keeps (s0 := s0) x ?_ ?_; unfold x; clear x; rotate_left; intro hx; clear_value x) | clear_value x)
    | split
    | intro _
    | (with_reducible apply Keeps.of_same; with_reducible assumption; rfl; rfl; rfl; rfl; rfl; rfl)

theorem State.dropSpan_keeps (h : s0.Keeps s) (c : Nat) (x : Span) : s0.Keeps (State.dropSpan s c x) := by
  unfold State.dropSpan
  repeat' first
    | (with_reducible first | assumption | apply State.setSpans_keeps)
    | (with_reducible apply snd_keeps; with_reducible assumption)
    | (extract_lets -underBinder +onlyGivenNames x; first | (refine mp_keeps (s0 := s0) x ?_ ?_; unfold x; clear x; rotate_left; intro hx; clear_value x) | clear_value x)
    | split
    | intro _

theorem State.bankPut_keeps (h : s0.Keeps s) (node : Nat) (v : InVal) : s0.Keeps (State.bankPut s node v) := by
  unfold State.bankPut
  repeat' first
    | (with_reducible first | assumption | apply State.modMill_keeps)
    | (with_reducible apply snd_keeps; with_reducible assumption)
    | (extract_lets -underBinder +onlyGivenNames x; first | (refine mp_keeps (s0 := s0) x ?_ ?_; unfold x; clear x; rotate_left; intro hx; clear_value x) | clear_value x)
    | split
    | intro _
    | (with_reducible apply Keeps.of_same; with_reducible assumption; rfl; rfl; rfl; rfl; rfl; rfl)

theorem State.deliverResult_keeps (h : s0.Keeps s) (kind : Nat) (n : Nat) (inst : Nat) (y : Int) (ovr : Bool) : s0.Keeps (State.deliverResult s kind n inst y ovr) := by
  unfold State.deliverResult
  repeat' first
    | (with_reducible first | assumption | apply State.modAres_keeps | apply State.iff_keeps | apply State.setRb_keeps
                            | apply State.raise_keeps | apply State.modMill_keeps | apply State.bankPut_keeps
                            | apply State.capRaw_keeps | apply State.capMark_keeps | apply State.atrgSample_keeps
                            | apply State.pmuTake_keeps)
    | (with_reducible apply snd_keeps; with_reducible assumption)
    | (extract_lets -underBinder +onlyGivenNames x; first | (refine mp_keeps (s0 := s0) x ?_ ?_; unfold x; clear x; rotate_left; intro hx; clear_value x) | clear_value x)
    | split
    | intro _
    | (with_reducible apply Keeps.of_same; with_reducible assumption; rfl; rfl; rfl; rfl; rfl; rfl)

theorem State.calRequest_keeps (h : s0.Keeps s) (c : Nat) (band : Nat) : s0.Keeps (State.calRequest s c band) := by
  unfold State.calRequest
  repeat' first
    | (with_reducible first | assumption | apply State.modAcal_keeps)
    | (with_reducible apply snd_keeps; with_reducible assumption)
    | (extract_lets -underBinder +onlyGivenNames x; first | (refine mp_keeps (s0 := s0) x ?_ ?_; unfold x; clear x; rotate_left; intro hx; clear_value x) | clear_value x)
    | split
    | intro _
    | (with_reducible apply Keeps.of_same; with_reducible assumption; rfl; rfl; rfl; rfl; rfl; rfl)

theorem State.writeAdcCal_keeps (h : s0.Keeps s) (v : Word) : s0.Keeps (State.writeAdcCal s v) := by
  unfold State.writeAdcCal
  repeat' first
    | (with_reducible first | assumption | apply State.setRf_keeps | apply State.forAll_keeps | apply State.calRequest_keeps)
    | (with_reducible apply snd_keeps; with_reducible assumption)
    | (extract_lets -underBinder +onlyGivenNames x; first | (refine mp_keeps (s0 := s0) x ?_ ?_; unfold x; clear x; rotate_left; intro hx; clear_value x) | clear_value x)
    | split
    | intro _

theorem State.calTally_keeps (h : s0.Keeps s) (c : Nat) : s0.Keeps (State.calTally s c) := by
  unfold State.calTally
  repeat' first
    | (with_reducible first | assumption | apply State.setSpans_keeps | apply State.modAcal_keeps | apply foldl_keeps
                            | apply foldl_snd_keeps | apply foldl_fst_keeps)
    | (with_reducible apply snd_keeps; with_reducible assumption)
    | (extract_lets -underBinder +onlyGivenNames x; first | (refine mp_keeps (s0 := s0) x ?_ ?_; unfold x; clear x; rotate_left; intro hx; clear_value x) | clear_value x)
    | split
    | intro _
    | (with_reducible apply Keeps.of_same; with_reducible assumption; rfl; rfl; rfl; rfl; rfl; rfl)

theorem State.calSpan_keeps (h : s0.Keeps s) (c : Nat) (raw : Int) : s0.Keeps (State.calSpan s c raw) := by
  unfold State.calSpan
  repeat' first
    | (with_reducible first | assumption | apply State.calTally_keeps | apply State.addSpan_keeps)
    | (with_reducible apply snd_keeps; with_reducible assumption)
    | (extract_lets -underBinder +onlyGivenNames x; first | (refine mp_keeps (s0 := s0) x ?_ ?_; unfold x; clear x; rotate_left; intro hx; clear_value x) | clear_value x)
    | split
    | intro _

theorem State.writeAdcOfs_keeps (h : s0.Keeps s) (c : Nat) (b : Nat) (v : Word) : s0.Keeps (State.writeAdcOfs s c b v) := by
  unfold State.writeAdcOfs
  repeat' first
    | (with_reducible first | assumption | apply State.modAdc_keeps)
    | (with_reducible apply snd_keeps; with_reducible assumption)
    | (extract_lets -underBinder +onlyGivenNames x; first | (refine mp_keeps (s0 := s0) x ?_ ?_; unfold x; clear x; rotate_left; intro hx; clear_value x) | clear_value x)
    | split
    | intro _
    | (with_reducible apply Keeps.of_same; with_reducible assumption; rfl; rfl; rfl; rfl; rfl; rfl)

theorem State.writeAdcGain_keeps (h : s0.Keeps s) (c : Nat) (b : Nat) (v : Word) : s0.Keeps (State.writeAdcGain s c b v) := by
  unfold State.writeAdcGain
  repeat' first
    | (with_reducible first | assumption | apply State.iff_keeps | apply State.adcKeep_keeps | apply State.setReg_keeps
                            | apply State.modAdc_keeps)
    | (with_reducible apply snd_keeps; with_reducible assumption)
    | (extract_lets -underBinder +onlyGivenNames x; first | (refine mp_keeps (s0 := s0) x ?_ ?_; unfold x; clear x; rotate_left; intro hx; clear_value x) | clear_value x)
    | split
    | intro _
    | (with_reducible apply Keeps.of_same; with_reducible assumption; rfl; rfl; rfl; rfl; rfl; rfl)

theorem State.fastInvalid_keeps (h : s0.Keeps s) (n : Nat) (inst : Nat) : s0.Keeps (State.fastInvalid s n inst) := by
  unfold State.fastInvalid
  repeat' first
    | (with_reducible first | assumption | apply State.capFastGap_keeps | apply State.atrgReset_keeps | apply State.twReset_keeps
                            | apply State.modFad_keeps | apply State.modFres_keeps)
    | (with_reducible apply snd_keeps; with_reducible assumption)
    | (extract_lets -underBinder +onlyGivenNames x; first | (refine mp_keeps (s0 := s0) x ?_ ?_; unfold x; clear x; rotate_left; intro hx; clear_value x) | clear_value x)
    | split
    | intro _
    | (with_reducible apply Keeps.of_same; with_reducible assumption; rfl; rfl; rfl; rfl; rfl; rfl)

theorem State.fastTrip_keeps (h : s0.Keeps s) (n : Nat) (inst : Nat) : s0.Keeps (State.fastTrip s n inst) := by
  unfold State.fastTrip
  repeat' first
    | (with_reducible first | assumption | apply State.forAll_keeps | apply State.softOff_keeps | apply State.modSw_keeps
                            | apply State.setRb_keeps | apply State.raise_keeps | apply State.healthCount_keeps)
    | (with_reducible apply snd_keeps; with_reducible assumption)
    | (extract_lets -underBinder +onlyGivenNames x; first | (refine mp_keeps (s0 := s0) x ?_ ?_; unfold x; clear x; rotate_left; intro hx; clear_value x) | clear_value x)
    | split
    | (intro _ w; first | exact w | exact Bool.noConfusion w | (split at w <;> first | exact w | exact Bool.noConfusion w))
    | intro _
    | (with_reducible apply Keeps.of_same; with_reducible assumption; rfl; rfl; rfl; rfl; rfl; rfl)

theorem State.fastProtect_keeps (h : s0.Keeps s) (n : Nat) (inst : Nat) (y : Int) : s0.Keeps (State.fastProtect s n inst y) := by
  unfold State.fastProtect
  repeat' first
    | (with_reducible first | assumption | apply State.modFad_keeps | apply State.iff_keeps | apply State.fastTrip_keeps)
    | (with_reducible apply snd_keeps; with_reducible assumption)
    | (extract_lets -underBinder +onlyGivenNames x; first | (refine mp_keeps (s0 := s0) x ?_ ?_; unfold x; clear x; rotate_left; intro hx; clear_value x) | clear_value x)
    | split
    | intro _
    | (with_reducible apply Keeps.of_same; with_reducible assumption; rfl; rfl; rfl; rfl; rfl; rfl)

theorem State.fadCalSample_keeps (h : s0.Keeps s) (n : Nat) (inst : Nat) (raw : Int) : s0.Keeps (State.fadCalSample s n inst raw) := by
  unfold State.fadCalSample
  repeat' first
    | (with_reducible first | assumption | apply State.modFcal_keeps)
    | (with_reducible apply snd_keeps; with_reducible assumption)
    | (extract_lets -underBinder +onlyGivenNames x; first | (refine mp_keeps (s0 := s0) x ?_ ?_; unfold x; clear x; rotate_left; intro hx; clear_value x) | clear_value x)
    | split
    | intro _
    | (with_reducible apply Keeps.of_same; with_reducible assumption; rfl; rfl; rfl; rfl; rfl; rfl)

theorem State.fadRequest_keeps (h : s0.Keeps s) (n : Nat) (band : Nat) : s0.Keeps (State.fadRequest s n band) := by
  unfold State.fadRequest
  repeat' first
    | (with_reducible first | assumption | apply State.modFcal_keeps)
    | (with_reducible apply snd_keeps; with_reducible assumption)
    | (extract_lets -underBinder +onlyGivenNames x; first | (refine mp_keeps (s0 := s0) x ?_ ?_; unfold x; clear x; rotate_left; intro hx; clear_value x) | clear_value x)
    | split
    | intro _
    | (with_reducible apply Keeps.of_same; with_reducible assumption; rfl; rfl; rfl; rfl; rfl; rfl)

theorem State.writeFadCal_keeps (h : s0.Keeps s) (v : Word) : s0.Keeps (State.writeFadCal s v) := by
  unfold State.writeFadCal
  repeat' first
    | (with_reducible first | assumption | apply State.setRf_keeps | apply State.forAll_keeps | apply State.fadRequest_keeps)
    | (with_reducible apply snd_keeps; with_reducible assumption)
    | (extract_lets -underBinder +onlyGivenNames x; first | (refine mp_keeps (s0 := s0) x ?_ ?_; unfold x; clear x; rotate_left; intro hx; clear_value x) | clear_value x)
    | split
    | intro _

theorem State.writeFadOfs_keeps (h : s0.Keeps s) (c : Nat) (b : Nat) (v : Word) : s0.Keeps (State.writeFadOfs s c b v) := by
  unfold State.writeFadOfs
  repeat' first
    | (with_reducible first | assumption | apply State.modFad_keeps)
    | (with_reducible apply snd_keeps; with_reducible assumption)
    | (extract_lets -underBinder +onlyGivenNames x; first | (refine mp_keeps (s0 := s0) x ?_ ?_; unfold x; clear x; rotate_left; intro hx; clear_value x) | clear_value x)
    | split
    | intro _
    | (with_reducible apply Keeps.of_same; with_reducible assumption; rfl; rfl; rfl; rfl; rfl; rfl)

theorem State.writeFadGain_keeps (h : s0.Keeps s) (c : Nat) (b : Nat) (v : Word) : s0.Keeps (State.writeFadGain s c b v) := by
  unfold State.writeFadGain
  repeat' first
    | (with_reducible first | assumption | apply State.iff_keeps | apply State.fadKeep_keeps | apply State.setReg_keeps
                            | apply State.modFad_keeps)
    | (with_reducible apply snd_keeps; with_reducible assumption)
    | (extract_lets -underBinder +onlyGivenNames x; first | (refine mp_keeps (s0 := s0) x ?_ ?_; unfold x; clear x; rotate_left; intro hx; clear_value x) | clear_value x)
    | split
    | intro _
    | (with_reducible apply Keeps.of_same; with_reducible assumption; rfl; rfl; rfl; rfl; rfl; rfl)

theorem State.adcDormant_keeps (h : s0.Keeps s)  : s0.Keeps (State.adcDormant s) := by
  unfold State.adcDormant
  repeat' first
    | (with_reducible first | assumption | apply State.modAdc_keeps | apply State.modFad_keeps)
    | (with_reducible apply snd_keeps; with_reducible assumption)
    | (extract_lets -underBinder +onlyGivenNames x; first | (refine mp_keeps (s0 := s0) x ?_ ?_; unfold x; clear x; rotate_left; intro hx; clear_value x) | clear_value x)
    | split
    | intro _
    | (with_reducible apply Keeps.of_same; with_reducible assumption; rfl; rfl; rfl; rfl; rfl; rfl)

end Sys2Proof.Machine
end

