-- ==== Sys2Proof/Laws/KeepsMode.lean ====
section
/-! SUPPORT. What every operation keeps (State.Keeps of Safety.lean), one lemma per operation and per command: slots, modes, snapshots, time passing. -/

namespace Sys2Proof.Machine

set_option linter.unusedTactic false
set_option linter.unreachableTactic false
set_option linter.unusedVariables false

variable {s0 s : State}

/-! ### Slots -/

theorem State.fwPush_keeps (h : s0.Keeps s) (p : Nat) (commit : Bool) : s0.Keeps (State.fwPush s p commit) := by
  unfold State.fwPush
  repeat' first
    | (with_reducible first | assumption | apply State.modPort_keeps | apply hf1 | apply hf2 | apply hf3 | apply foldl_keeps
                            | apply foldl_snd_keeps | apply foldl_fst_keeps)
    | (with_reducible apply snd_keeps; with_reducible assumption)
    | (extract_lets -underBinder +onlyGivenNames x; first | (refine mp_keeps (s0 := s0) x ?_ ?_; unfold x; clear x; rotate_left; intro hx; clear_value x) | (refine mp1_keeps (s0 := s0) x ?_ ?_; unfold x; clear x; rotate_left; intro hf1; clear_value x) | (refine mp2_keeps (s0 := s0) x ?_ ?_; unfold x; clear x; rotate_left; intro hf2; clear_value x) | (refine mp3_keeps (s0 := s0) x ?_ ?_; unfold x; clear x; rotate_left; intro hf3; clear_value x) | clear_value x)
    | split
    | intro _
    | (with_reducible apply Keeps.of_same; with_reducible assumption; rfl; rfl; rfl; rfl; rfl; rfl)

theorem State.pushAll_keeps (h : s0.Keeps s)  : s0.Keeps (State.pushAll s) := by
  unfold State.pushAll
  repeat' first
    | (with_reducible first | assumption | apply State.forAll_keeps | apply State.iff_keeps | apply State.fwPush_keeps)
    | (with_reducible apply snd_keeps; with_reducible assumption)
    | (extract_lets -underBinder +onlyGivenNames x; first | (refine mp_keeps (s0 := s0) x ?_ ?_; unfold x; clear x; rotate_left; intro hx; clear_value x) | clear_value x)
    | split
    | intro _

theorem State.returnFail_keeps (h : s0.Keeps s) (p : Nat) : s0.Keeps (State.returnFail s p) := by
  unfold State.returnFail
  repeat' first
    | (with_reducible first | assumption | apply State.modHealth1_keeps | apply State.modPort_keeps | apply State.raise_keeps)
    | (with_reducible apply snd_keeps; with_reducible assumption)
    | (extract_lets -underBinder +onlyGivenNames x; first | (refine mp_keeps (s0 := s0) x ?_ ?_; unfold x; clear x; rotate_left; intro hx; clear_value x) | clear_value x)
    | split
    | intro _
    | (with_reducible apply Keeps.of_same; with_reducible assumption; rfl; rfl; rfl; rfl; rfl; rfl)

theorem State.toAcquire_keeps (h : s0.Keeps s) (p : Nat) (retry : Bool) : s0.Keeps (State.toAcquire s p retry) := by
  unfold State.toAcquire
  repeat' first
    | (with_reducible first | assumption | apply State.modPort_keeps)
    | (with_reducible apply snd_keeps; with_reducible assumption)
    | (extract_lets -underBinder +onlyGivenNames x; first | (refine mp_keeps (s0 := s0) x ?_ ?_; unfold x; clear x; rotate_left; intro hx; clear_value x) | clear_value x)
    | split
    | intro _
    | (with_reducible apply Keeps.of_same; with_reducible assumption; rfl; rfl; rfl; rfl; rfl; rfl)

theorem State.leaveReady_keeps (h : s0.Keeps s) (p : Nat) : s0.Keeps (State.leaveReady s p) := by
  unfold State.leaveReady
  repeat' first
    | (with_reducible first | assumption | apply State.modPort_keeps | apply State.iff_keeps | apply State.returnFail_keeps)
    | (with_reducible apply snd_keeps; with_reducible assumption)
    | (extract_lets -underBinder +onlyGivenNames x; first | (refine mp_keeps (s0 := s0) x ?_ ?_; unfold x; clear x; rotate_left; intro hx; clear_value x) | clear_value x)
    | split
    | intro _
    | (with_reducible apply Keeps.of_same; with_reducible assumption; rfl; rfl; rfl; rfl; rfl; rfl)

theorem State.portFault_keeps (h : s0.Keeps s) (p : Nat) (st : Nat) : s0.Keeps (State.portFault s p st) := by
  unfold State.portFault
  repeat' first
    | (with_reducible first | assumption | apply State.leaveReady_keeps | apply State.modPort_keeps | apply State.raise_keeps
                            | apply State.healthCount_keeps | apply State.toAcquire_keeps | apply State.healthPerm_keeps)
    | (with_reducible apply snd_keeps; with_reducible assumption)
    | (extract_lets -underBinder +onlyGivenNames x; first | (refine mp_keeps (s0 := s0) x ?_ ?_; unfold x; clear x; rotate_left; intro hx; clear_value x) | clear_value x)
    | split
    | intro _
    | (with_reducible apply Keeps.of_same; with_reducible assumption; rfl; rfl; rfl; rfl; rfl; rfl)

theorem State.toReady_keeps (h : s0.Keeps s) (p : Nat) : s0.Keeps (State.toReady s p) := by
  unfold State.toReady
  repeat' first
    | (with_reducible first | assumption | apply State.modPort_keeps | apply State.fwPush_keeps)
    | (with_reducible apply snd_keeps; with_reducible assumption)
    | (extract_lets -underBinder +onlyGivenNames x; first | (refine mp_keeps (s0 := s0) x ?_ ?_; unfold x; clear x; rotate_left; intro hx; clear_value x) | clear_value x)
    | split
    | intro _
    | (with_reducible apply Keeps.of_same; with_reducible assumption; rfl; rfl; rfl; rfl; rfl; rfl)

theorem State.portOff_keeps (h : s0.Keeps s) (p : Nat) : s0.Keeps (State.portOff s p) := by
  unfold State.portOff
  repeat' first
    | (with_reducible first | assumption | apply State.leaveReady_keeps | apply State.modPort_keeps)
    | (with_reducible apply snd_keeps; with_reducible assumption)
    | (extract_lets -underBinder +onlyGivenNames x; first | (refine mp_keeps (s0 := s0) x ?_ ?_; unfold x; clear x; rotate_left; intro hx; clear_value x) | clear_value x)
    | split
    | intro _
    | (with_reducible apply Keeps.of_same; with_reducible assumption; rfl; rfl; rfl; rfl; rfl; rfl)

theorem State.portsOff_keeps (h : s0.Keeps s)  : s0.Keeps (State.portsOff s) := by
  unfold State.portsOff
  repeat' first
    | (with_reducible first | assumption | apply State.forAll_keeps | apply State.iff_keeps | apply State.portOff_keeps)
    | (with_reducible apply snd_keeps; with_reducible assumption)
    | (extract_lets -underBinder +onlyGivenNames x; first | (refine mp_keeps (s0 := s0) x ?_ ?_; unfold x; clear x; rotate_left; intro hx; clear_value x) | clear_value x)
    | split
    | intro _

theorem State.portRetry_keeps (h : s0.Keeps s) (p : Nat) : s0.Keeps (State.portRetry s p) := by
  unfold State.portRetry
  repeat' first
    | (with_reducible first | assumption | apply State.leaveReady_keeps | apply State.toAcquire_keeps)
    | (with_reducible apply snd_keeps; with_reducible assumption)
    | (extract_lets -underBinder +onlyGivenNames x; first | (refine mp_keeps (s0 := s0) x ?_ ?_; unfold x; clear x; rotate_left; intro hx; clear_value x) | clear_value x)
    | split
    | intro _

theorem State.portPushEvent_keeps (h : s0.Keeps s) (p : Nat) : s0.Keeps (State.portPushEvent s p) := by
  unfold State.portPushEvent
  repeat' first
    | (with_reducible first | assumption | apply State.healthCount_keeps | apply State.iff_keeps | apply State.fwPush_keeps)
    | (with_reducible apply snd_keeps; with_reducible assumption)
    | (extract_lets -underBinder +onlyGivenNames x; first | (refine mp_keeps (s0 := s0) x ?_ ?_; unfold x; clear x; rotate_left; intro hx; clear_value x) | clear_value x)
    | split
    | intro _

/-! ### ModeOps -/

theorem State.setpointsDone_keeps (h : s0.Keeps s) (ids : List Nat) (v : Nat) : s0.Keeps (State.setpointsDone s ids v) := by
  unfold State.setpointsDone
  repeat' first
    | (with_reducible first | assumption | apply State.modMill_keeps | apply State.forAll_keeps | apply State.answer_keeps)
    | (with_reducible apply snd_keeps; with_reducible assumption)
    | (extract_lets -underBinder +onlyGivenNames x; first | (refine mp_keeps (s0 := s0) x ?_ ?_; unfold x; clear x; rotate_left; intro hx; clear_value x) | clear_value x)
    | split
    | intro _
    | (with_reducible apply Keeps.of_same; with_reducible assumption; rfl; rfl; rfl; rfl; rfl; rfl)

theorem State.millClear_keeps (h : s0.Keeps s) (c : Nat) : s0.Keeps (State.millClear s c) := by
  unfold State.millClear
  repeat' first
    | (with_reducible first | assumption | apply State.modMill_keeps | apply State.forAll_keeps | apply State.modTask_keeps
                            | apply State.setpointsDone_keeps)
    | (with_reducible apply snd_keeps; with_reducible assumption)
    | (extract_lets -underBinder +onlyGivenNames x; first | (refine mp_keeps (s0 := s0) x ?_ ?_; unfold x; clear x; rotate_left; intro hx; clear_value x) | clear_value x)
    | split
    | intro _
    | (with_reducible apply Keeps.of_same; with_reducible assumption; rfl; rfl; rfl; rfl; rfl; rfl)

theorem State.startGroups_keeps (h : s0.Keeps s) (c : Nat) : s0.Keeps (State.startGroups s c) := by
  unfold State.startGroups
  repeat' first
    | (with_reducible first | assumption | apply State.forAll_keeps | apply State.iff_keeps | apply State.modGrp_keeps
                            | apply State.modGce_keeps | apply State.millClear_keeps | apply State.setReg_keeps
                            | apply State.modMode_keeps)
    | (with_reducible apply snd_keeps; with_reducible assumption)
    | (extract_lets -underBinder +onlyGivenNames x; first | (refine mp_keeps (s0 := s0) x ?_ ?_; unfold x; clear x; rotate_left; intro hx; clear_value x) | clear_value x)
    | split
    | intro _
    | (with_reducible apply Keeps.of_same; with_reducible assumption; rfl; rfl; rfl; rfl; rfl; rfl)

theorem State.setLock_keeps (h : s0.Keeps s)  : s0.Keeps (State.setLock s) := by
  unfold State.setLock
  repeat' first
    | (with_reducible first | assumption | apply State.setRb_keeps | apply State.measure_keeps | apply State.pushAll_keeps)
    | (with_reducible apply snd_keeps; with_reducible assumption)
    | (extract_lets -underBinder +onlyGivenNames x; first | (refine mp_keeps (s0 := s0) x ?_ ?_; unfold x; clear x; rotate_left; intro hx; clear_value x) | clear_value x)
    | split
    | intro _

theorem State.putParam_keeps (h : s0.Keeps s) (w : Nat) (v : Nat) : s0.Keeps (State.putParam s w v) := by
  unfold State.putParam
  repeat' first
    | (with_reducible first | assumption | apply State.modMill_keeps)
    | (with_reducible apply snd_keeps; with_reducible assumption)
    | (extract_lets -underBinder +onlyGivenNames x; first | (refine mp_keeps (s0 := s0) x ?_ ?_; unfold x; clear x; rotate_left; intro hx; clear_value x) | clear_value x)
    | split
    | intro _
    | (with_reducible apply Keeps.of_same; with_reducible assumption; rfl; rfl; rfl; rfl; rfl; rfl)

theorem State.paramsNow_keeps (h : s0.Keeps s)  : s0.Keeps (State.paramsNow s) := by
  unfold State.paramsNow
  repeat' first
    | (with_reducible first | assumption | apply State.modMill_keeps | apply State.putParam_keeps | apply State.answer_keeps
                            | apply foldl_keeps | apply foldl_snd_keeps | apply foldl_fst_keeps)
    | (with_reducible apply snd_keeps; with_reducible assumption)
    | (extract_lets -underBinder +onlyGivenNames x; first | (refine mp_keeps (s0 := s0) x ?_ ?_; unfold x; clear x; rotate_left; intro hx; clear_value x) | clear_value x)
    | split
    | intro _
    | (with_reducible apply Keeps.of_same; with_reducible assumption; rfl; rfl; rfl; rfl; rfl; rfl)

theorem State.enterMode_keeps (h : s0.Keeps s) (new : Nat) (at_ : Nat) : s0.Keeps (State.enterMode s new at_) := by
  unfold State.enterMode
  repeat' first
    | (with_reducible first | assumption | apply State.leaving_keeps | apply State.modMode_keeps | apply State.iff_keeps
                            | apply State.setReg_keeps | apply State.setRf_keeps | apply State.portsOff_keeps
                            | apply State.capDormant_keeps | apply State.adcDormant_keeps | apply State.paramsNow_keeps
                            | apply State.setLock_keeps)
    | (with_reducible apply snd_keeps; with_reducible assumption)
    | (extract_lets -underBinder +onlyGivenNames x; first | (refine mp_keeps (s0 := s0) x ?_ ?_; unfold x; clear x; rotate_left; intro hx; clear_value x) | clear_value x)
    | split
    | intro _
    | (with_reducible apply Keeps.of_same; with_reducible assumption; rfl; rfl; rfl; rfl; rfl; rfl)

theorem State.takeNow_keeps (h : s0.Keeps s) (src : Nat) (target : Nat) (c : Nat) (act : Option Nat) : s0.Keeps (State.takeNow s src target c act) := by
  unfold State.takeNow
  repeat' first
    | (with_reducible first | assumption | apply State.modeEnd_keeps | apply State.enterMode_keeps
                            | apply State.allGroupsMode_keeps | apply State.iff_keeps | apply State.startGroups_keeps)
    | (with_reducible apply snd_keeps; with_reducible assumption)
    | (extract_lets -underBinder +onlyGivenNames x; first | (refine mp_keeps (s0 := s0) x ?_ ?_; unfold x; clear x; rotate_left; intro hx; clear_value x) | clear_value x)
    | split
    | intro _

theorem State.endRequest_keeps (h : s0.Keeps s) (q : ModeReq) (result : Nat) (check : Nat) (index : Nat) : s0.Keeps (State.endRequest s q result check index) := by
  unfold State.endRequest
  repeat' first
    | (with_reducible first | assumption | apply State.modeEnd_keeps | apply State.refusedRaise_keeps)
    | (with_reducible apply snd_keeps; with_reducible assumption)
    | (extract_lets -underBinder +onlyGivenNames x; first | (refine mp_keeps (s0 := s0) x ?_ ?_; unfold x; clear x; rotate_left; intro hx; clear_value x) | clear_value x)
    | split
    | intro _

theorem State.judge_keeps (h : s0.Keeps s) (q : ModeReq) : s0.Keeps (State.judge s q) := by
  unfold State.judge
  repeat' first
    | (with_reducible first | assumption | apply State.endRequest_keeps | apply State.modMode_keeps)
    | (with_reducible apply snd_keeps; with_reducible assumption)
    | (extract_lets -underBinder +onlyGivenNames x; first | (refine mp_keeps (s0 := s0) x ?_ ?_; unfold x; clear x; rotate_left; intro hx; clear_value x) | clear_value x)
    | split
    | intro _
    | (with_reducible apply Keeps.of_same; with_reducible assumption; rfl; rfl; rfl; rfl; rfl; rfl)

theorem State.arbitrate_keeps (h : s0.Keeps s)  : s0.Keeps (State.arbitrate s) := by
  unfold State.arbitrate
  repeat' first
    | (with_reducible first | assumption | apply State.judge_keeps | apply State.modMode_keeps | apply State.iff_keeps
                            | apply foldl_keeps | apply foldl_snd_keeps | apply foldl_fst_keeps)
    | (with_reducible apply snd_keeps; with_reducible assumption)
    | (extract_lets -underBinder +onlyGivenNames x; first | (refine mp_keeps (s0 := s0) x ?_ ?_; unfold x; clear x; rotate_left; intro hx; clear_value x) | clear_value x)
    | split
    | intro _
    | (with_reducible apply Keeps.of_same; with_reducible assumption; rfl; rfl; rfl; rfl; rfl; rfl)

theorem State.modeRequest_keeps (h : s0.Keeps s) (src : Nat) (target : Nat) (act : Option Nat) : s0.Keeps (State.modeRequest s src target act) := by
  unfold State.modeRequest
  repeat' first
    | (with_reducible first | assumption | apply State.stopRequest_keeps | apply State.forward_keeps | apply State.preempted_keeps
                            | apply State.setReg_keeps | apply State.modMode_keeps)
    | (with_reducible apply snd_keeps; with_reducible assumption)
    | (extract_lets -underBinder +onlyGivenNames x; first | (refine mp_keeps (s0 := s0) x ?_ ?_; unfold x; clear x; rotate_left; intro hx; clear_value x) | clear_value x)
    | split
    | intro _
    | (with_reducible apply Keeps.of_same; with_reducible assumption; rfl; rfl; rfl; rfl; rfl; rfl)

/-! ### Snapshot -/

theorem State.takeSnapshot_keeps (h : s0.Keeps s) (nums : List Nat) : s0.Keeps (State.takeSnapshot s nums) := by
  unfold State.takeSnapshot
  repeat' first
    | (with_reducible first | assumption | apply State.enterMode_keeps | apply State.modMode_keeps | apply State.modMill_keeps
                            | apply State.forAll_keeps | apply State.modTask_keeps | apply State.modHealth1_keeps
                            | apply State.iff_keeps | apply State.modPort_keeps | apply State.modLg_keeps
                            | apply State.modGrp_keeps | apply State.modGce_keeps | apply hf1 | apply hf2 | apply hf3
                            | apply foldl_keeps | apply foldl_snd_keeps | apply foldl_fst_keeps)
    | (with_reducible apply snd_keeps; with_reducible assumption)
    | (extract_lets -underBinder +onlyGivenNames x; first | (refine mp_keeps (s0 := s0) x ?_ ?_; unfold x; clear x; rotate_left; intro hx; clear_value x) | (refine mp1_keeps (s0 := s0) x ?_ ?_; unfold x; clear x; rotate_left; intro hf1; clear_value x) | (refine mp2_keeps (s0 := s0) x ?_ ?_; unfold x; clear x; rotate_left; intro hf2; clear_value x) | (refine mp3_keeps (s0 := s0) x ?_ ?_; unfold x; clear x; rotate_left; intro hf3; clear_value x) | clear_value x)
    | split
    | intro _
    | (with_reducible apply Keeps.of_same; with_reducible assumption; rfl; rfl; rfl; rfl; rfl; rfl)

/-! ### Advance -/

theorem State.takePending_keeps (h : s0.Keeps s) (c : Nat) : s0.Keeps (State.takePending s c) := by
  unfold State.takePending
  repeat' first
    | (with_reducible first | assumption | apply State.takeNow_keeps | apply State.modMode_keeps)
    | (with_reducible apply snd_keeps; with_reducible assumption)
    | (extract_lets -underBinder +onlyGivenNames x; first | (refine mp_keeps (s0 := s0) x ?_ ?_; unfold x; clear x; rotate_left; intro hx; clear_value x) | clear_value x)
    | split
    | intro _
    | (with_reducible apply Keeps.of_same; with_reducible assumption; rfl; rfl; rfl; rfl; rfl; rfl)

theorem State.doDue_keeps (h : s0.Keeps s) (d : Nat) : s0.Keeps (State.doDue s d) := by
  unfold State.doDue
  repeat' first
    | (with_reducible first | assumption | apply State.arbitrate_keeps | apply State.modMode_keeps | apply State.modWch_keeps | apply State.answer_keeps
                            | apply State.stopRequest_keeps | apply State.takePending_keeps)
    | (with_reducible apply snd_keeps; with_reducible assumption)
    | (extract_lets -underBinder +onlyGivenNames x; first | (refine mp_keeps (s0 := s0) x ?_ ?_; unfold x; clear x; rotate_left; intro hx; clear_value x) | clear_value x)
    | split
    | intro _
    | (with_reducible apply Keeps.of_same; with_reducible assumption; rfl; rfl; rfl; rfl; rfl; rfl)

theorem State.runTo_keeps (h : s0.Keeps s) (t n : Nat) : s0.Keeps (s.runTo t n) := by
  induction n generalizing s with
  | zero => exact State.tickTo_keeps h t
  | succ n ih =>
    unfold State.runTo
    split
    · split
      · exact ih (State.settle_keeps (State.doDue_keeps (State.tickTo_keeps h _) _))
      · exact State.tickTo_keeps h t
    · exact State.tickTo_keeps h t

theorem State.advanceTo_keeps (h : s0.Keeps s) (t : Nat) : s0.Keeps (s.advanceTo t) := by
  unfold State.advanceTo
  split
  · exact State.runTo_keeps h t _
  · exact h

/-- What every command does keeps what its effect keeps. -/
theorem actAon_keeps {t : Nat} {f : State → State} (k : ∀ x, s0.Keeps x → s0.Keeps (f x)) : s0.Completes (actAon t s0 f) :=
  ⟨_, rfl, State.settle_keeps (k _ (State.advanceTo_keeps (State.Keeps.refl s0) t))⟩

theorem act_keeps {t : Nat} {f : State → State} (k : ∀ x, s0.Keeps x → s0.Keeps (f x)) : s0.Completes (act t s0 f) :=
  actAon_keeps fun _ hx => State.iff_keeps hx _ f k

theorem actIn_keeps {b t : Nat} {f : State → State} (k : ∀ x, s0.Keeps x → s0.Keeps (f x)) : s0.Completes (actIn b t s0 f) :=
  act_keeps fun _ hx => k _ (State.openGate_keeps hx b)

theorem State.idle_keeps (h : s0.Keeps s)  : s0.Keeps (State.idle s) := by
  unfold State.idle
  repeat' first
    | (with_reducible first | assumption | apply State.advanceTo_keeps)
    | (with_reducible apply snd_keeps; with_reducible assumption)
    | (extract_lets -underBinder +onlyGivenNames x; first | (refine mp_keeps (s0 := s0) x ?_ ?_; unfold x; clear x; rotate_left; intro hx; clear_value x) | clear_value x)
    | split
    | intro _

end Sys2Proof.Machine
end

