-- ==== Sys2Proof/Laws/KeepsSteps.lean ====
section
/-! SUPPORT. What every operation keeps (State.Keeps of Safety.lean), one lemma per operation and per command: the commands of boot, security, time, station bus, capture, triggers, phasors and the analog front. -/

namespace Sys2Proof.Machine

set_option linter.unusedTactic false
set_option linter.unreachableTactic false
set_option linter.unusedVariables false

variable {s0 s : State}

/-! ### BootSteps -/

theorem execPowerOnReset_keeps (t : Nat) (aonFell : Bool) (s0 : State) : s0.Completes (execPowerOnReset t aonFell s0) := by
  unfold execPowerOnReset
  repeat' first
    | (with_reducible first | assumption | apply act_keeps | apply actIn_keeps | apply actAon_keeps | apply State.resetLogic_keeps
                            | apply State.iff_keeps | apply State.modBook_keeps | apply State.modClk_keeps)
    | (with_reducible apply snd_keeps; with_reducible assumption)
    | (extract_lets -underBinder +onlyGivenNames x; first | (refine mp_keeps (s0 := s0) x ?_ ?_; unfold x; clear x; rotate_left; intro hx; clear_value x) | clear_value x)
    | split
    | (intro _; with_reducible rfl)
    | (intro _; exact Clk.setSrc_variant _ _ _)
    | (intro _; exact rfl)
    | intro _
    | (with_reducible apply Keeps.of_same; with_reducible assumption; rfl; rfl; rfl; rfl; rfl; rfl)

theorem execPowerOnResetRelease_keeps (t : Nat) (s0 : State) : s0.Completes (execPowerOnResetRelease t s0) := by
  unfold execPowerOnResetRelease
  repeat' first
    | (with_reducible first | assumption | apply act_keeps | apply actIn_keeps | apply actAon_keeps | apply State.iff_keeps
                            | apply State.modClk_keeps)
    | (with_reducible apply snd_keeps; with_reducible assumption)
    | (extract_lets -underBinder +onlyGivenNames x; first | (refine mp_keeps (s0 := s0) x ?_ ?_; unfold x; clear x; rotate_left; intro hx; clear_value x) | clear_value x)
    | split
    | (intro _; with_reducible rfl)
    | (intro _; exact Clk.setSrc_variant _ _ _)
    | (intro _; exact rfl)
    | intro _
    | (with_reducible apply Keeps.of_same; with_reducible assumption; rfl; rfl; rfl; rfl; rfl; rfl)

theorem execSafetySupplyFault_keeps (t : Nat) (s0 : State) : s0.Completes (execSafetySupplyFault t s0) := by
  unfold execSafetySupplyFault
  repeat' first
    | (with_reducible first | assumption | apply act_keeps | apply actIn_keeps | apply actAon_keeps | apply State.modClk_keeps
                            | apply State.modSaf_keeps | apply State.iffReleased_keeps | apply State.raise_keeps)
    | (with_reducible apply snd_keeps; with_reducible assumption)
    | (extract_lets -underBinder +onlyGivenNames x; first | (refine mp_keeps (s0 := s0) x ?_ ?_; unfold x; clear x; rotate_left; intro hx; clear_value x) | clear_value x)
    | split
    | (intro _; with_reducible rfl)
    | (intro _; exact Clk.setSrc_variant _ _ _)
    | (intro _; exact rfl)
    | intro _
    | (with_reducible apply Keeps.of_same; with_reducible assumption; rfl; rfl; rfl; rfl; rfl; rfl)

theorem execSafetySupplyRecovery_keeps (t : Nat) (s0 : State) : s0.Completes (execSafetySupplyRecovery t s0) := by
  unfold execSafetySupplyRecovery
  repeat' first
    | (with_reducible first | assumption | apply act_keeps | apply actIn_keeps | apply actAon_keeps | apply State.modClk_keeps)
    | (with_reducible apply snd_keeps; with_reducible assumption)
    | (extract_lets -underBinder +onlyGivenNames x; first | (refine mp_keeps (s0 := s0) x ?_ ?_; unfold x; clear x; rotate_left; intro hx; clear_value x) | clear_value x)
    | split
    | (intro _; with_reducible rfl)
    | (intro _; exact Clk.setSrc_variant _ _ _)
    | (intro _; exact rfl)
    | intro _
    | (with_reducible apply Keeps.of_same; with_reducible assumption; rfl; rfl; rfl; rfl; rfl; rfl)

theorem execMemorySupplyLoss_keeps (t : Nat) (s0 : State) : s0.Completes (execMemorySupplyLoss t s0) := by
  unfold execMemorySupplyLoss
  repeat' first
    | (with_reducible first | assumption | apply act_keeps | apply actIn_keeps | apply actAon_keeps | apply State.modClk_keeps
                            | apply State.iffReleased_keeps | apply State.raise_keeps)
    | (with_reducible apply snd_keeps; with_reducible assumption)
    | (extract_lets -underBinder +onlyGivenNames x; first | (refine mp_keeps (s0 := s0) x ?_ ?_; unfold x; clear x; rotate_left; intro hx; clear_value x) | clear_value x)
    | split
    | (intro _; with_reducible rfl)
    | (intro _; exact Clk.setSrc_variant _ _ _)
    | (intro _; exact rfl)
    | intro _
    | (with_reducible apply Keeps.of_same; with_reducible assumption; rfl; rfl; rfl; rfl; rfl; rfl)

theorem execMemorySupplyRecovery_keeps (t : Nat) (s0 : State) : s0.Completes (execMemorySupplyRecovery t s0) := by
  unfold execMemorySupplyRecovery
  repeat' first
    | (with_reducible first | assumption | apply act_keeps | apply actIn_keeps | apply actAon_keeps | apply State.modClk_keeps)
    | (with_reducible apply snd_keeps; with_reducible assumption)
    | (extract_lets -underBinder +onlyGivenNames x; first | (refine mp_keeps (s0 := s0) x ?_ ?_; unfold x; clear x; rotate_left; intro hx; clear_value x) | clear_value x)
    | split
    | (intro _; with_reducible rfl)
    | (intro _; exact Clk.setSrc_variant _ _ _)
    | (intro _; exact rfl)
    | intro _
    | (with_reducible apply Keeps.of_same; with_reducible assumption; rfl; rfl; rfl; rfl; rfl; rfl)

theorem execFastConverterSupplyLoss_keeps (t : Nat) (s0 : State) : s0.Completes (execFastConverterSupplyLoss t s0) := by
  unfold execFastConverterSupplyLoss
  repeat' first
    | (with_reducible first | assumption | apply act_keeps | apply actIn_keeps | apply actAon_keeps | apply State.modClk_keeps
                            | apply State.iffReleased_keeps | apply State.raise_keeps)
    | (with_reducible apply snd_keeps; with_reducible assumption)
    | (extract_lets -underBinder +onlyGivenNames x; first | (refine mp_keeps (s0 := s0) x ?_ ?_; unfold x; clear x; rotate_left; intro hx; clear_value x) | clear_value x)
    | split
    | (intro _; with_reducible rfl)
    | (intro _; exact Clk.setSrc_variant _ _ _)
    | (intro _; exact rfl)
    | intro _
    | (with_reducible apply Keeps.of_same; with_reducible assumption; rfl; rfl; rfl; rfl; rfl; rfl)

theorem execFastConverterSupplyRecovery_keeps (t : Nat) (s0 : State) : s0.Completes (execFastConverterSupplyRecovery t s0) := by
  unfold execFastConverterSupplyRecovery
  repeat' first
    | (with_reducible first | assumption | apply act_keeps | apply actIn_keeps | apply actAon_keeps | apply State.modClk_keeps)
    | (with_reducible apply snd_keeps; with_reducible assumption)
    | (extract_lets -underBinder +onlyGivenNames x; first | (refine mp_keeps (s0 := s0) x ?_ ?_; unfold x; clear x; rotate_left; intro hx; clear_value x) | clear_value x)
    | split
    | (intro _; with_reducible rfl)
    | (intro _; exact Clk.setSrc_variant _ _ _)
    | (intro _; exact rfl)
    | intro _
    | (with_reducible apply Keeps.of_same; with_reducible assumption; rfl; rfl; rfl; rfl; rfl; rfl)

theorem execAonTemperature_keeps (t : Nat) (degC : Int) (s0 : State) : s0.Completes (execAonTemperature t degC s0) := by
  unfold execAonTemperature
  repeat' first
    | (with_reducible first | assumption | apply act_keeps | apply actIn_keeps | apply actAon_keeps | apply State.modClk_keeps)
    | (with_reducible apply snd_keeps; with_reducible assumption)
    | (extract_lets -underBinder +onlyGivenNames x; first | (refine mp_keeps (s0 := s0) x ?_ ?_; unfold x; clear x; rotate_left; intro hx; clear_value x) | clear_value x)
    | split
    | (intro _; with_reducible rfl)
    | (intro _; exact Clk.setSrc_variant _ _ _)
    | (intro _; exact rfl)
    | intro _
    | (with_reducible apply Keeps.of_same; with_reducible assumption; rfl; rfl; rfl; rfl; rfl; rfl)

theorem execProvingWindow_keeps (t : Nat) (src : Nat) (w : WindowIn) (s0 : State) : s0.Completes (execProvingWindow t src w s0) := by
  unfold execProvingWindow
  repeat' first
    | (with_reducible first | assumption | apply act_keeps | apply actIn_keeps | apply actAon_keeps | apply State.rootWindow_keeps
                            | apply State.modClk_keeps | apply State.iff_keeps | apply State.goMissing_keeps)
    | (with_reducible apply snd_keeps; with_reducible assumption)
    | (extract_lets -underBinder +onlyGivenNames x; first | (refine mp_keeps (s0 := s0) x ?_ ?_; unfold x; clear x; rotate_left; intro hx; clear_value x) | clear_value x)
    | split
    | (intro _; with_reducible rfl)
    | (intro _; exact Clk.setSrc_variant _ _ _)
    | (intro _; exact rfl)
    | intro _
    | (with_reducible apply Keeps.of_same; with_reducible assumption; rfl; rfl; rfl; rfl; rfl; rfl)

theorem execSourceMissing_keeps (t : Nat) (src : Nat) (s0 : State) : s0.Completes (execSourceMissing t src s0) := by
  unfold execSourceMissing
  repeat' first
    | (with_reducible first | assumption | apply act_keeps | apply actIn_keeps | apply actAon_keeps | apply State.modClk_keeps
                            | apply State.goMissing_keeps)
    | (with_reducible apply snd_keeps; with_reducible assumption)
    | (extract_lets -underBinder +onlyGivenNames x; first | (refine mp_keeps (s0 := s0) x ?_ ?_; unfold x; clear x; rotate_left; intro hx; clear_value x) | clear_value x)
    | split
    | (intro _; with_reducible rfl)
    | (intro _; exact Clk.setSrc_variant _ _ _)
    | (intro _; exact rfl)
    | intro _
    | (with_reducible apply Keeps.of_same; with_reducible assumption; rfl; rfl; rfl; rfl; rfl; rfl)

theorem execNoReference_keeps (t : Nat) (aon : Nat) (s0 : State) : s0.Completes (execNoReference t aon s0) := by
  unfold execNoReference
  repeat' first
    | (with_reducible first | assumption | apply act_keeps | apply actIn_keeps | apply actAon_keeps | apply State.lastWord_keeps
                            | apply State.modClk_keeps)
    | (with_reducible apply snd_keeps; with_reducible assumption)
    | (extract_lets -underBinder +onlyGivenNames x; first | (refine mp_keeps (s0 := s0) x ?_ ?_; unfold x; clear x; rotate_left; intro hx; clear_value x) | clear_value x)
    | split
    | (intro _; with_reducible rfl)
    | (intro _; exact Clk.setSrc_variant _ _ _)
    | (intro _; exact rfl)
    | intro _
    | (with_reducible apply Keeps.of_same; with_reducible assumption; rfl; rfl; rfl; rfl; rfl; rfl)

theorem execLockAttempt_keeps (t : Nat) (found : Nat) (s0 : State) : s0.Completes (execLockAttempt t found s0) := by
  unfold execLockAttempt
  repeat' first
    | (with_reducible first | assumption | apply act_keeps | apply actIn_keeps | apply actAon_keeps | apply State.modClk_keeps)
    | (with_reducible apply snd_keeps; with_reducible assumption)
    | (extract_lets -underBinder +onlyGivenNames x; first | (refine mp_keeps (s0 := s0) x ?_ ?_; unfold x; clear x; rotate_left; intro hx; clear_value x) | clear_value x)
    | split
    | (intro _; with_reducible rfl)
    | (intro _; exact Clk.setSrc_variant _ _ _)
    | (intro _; exact rfl)
    | intro _
    | (with_reducible apply Keeps.of_same; with_reducible assumption; rfl; rfl; rfl; rfl; rfl; rfl)

theorem execPllALock_keeps (t : Nat) (s0 : State) : s0.Completes (execPllALock t s0) := by
  unfold execPllALock
  repeat' first
    | (with_reducible first | assumption | apply act_keeps | apply actIn_keeps | apply actAon_keeps | apply State.iff_keeps
                            | apply State.modClk_keeps)
    | (with_reducible apply snd_keeps; with_reducible assumption)
    | (extract_lets -underBinder +onlyGivenNames x; first | (refine mp_keeps (s0 := s0) x ?_ ?_; unfold x; clear x; rotate_left; intro hx; clear_value x) | clear_value x)
    | split
    | (intro _; with_reducible rfl)
    | (intro _; exact Clk.setSrc_variant _ _ _)
    | (intro _; exact rfl)
    | intro _
    | (with_reducible apply Keeps.of_same; with_reducible assumption; rfl; rfl; rfl; rfl; rfl; rfl)

theorem execRootRelease_keeps (t : Nat) (s0 : State) : s0.Completes (execRootRelease t s0) := by
  unfold execRootRelease
  repeat' first
    | (with_reducible first | assumption | apply act_keeps | apply actIn_keeps | apply actAon_keeps | apply State.iff_keeps
                            | apply State.deviceReset_keeps | apply State.modClk_keeps | apply State.enterBoot_keeps)
    | (with_reducible apply snd_keeps; with_reducible assumption)
    | (extract_lets -underBinder +onlyGivenNames x; first | (refine mp_keeps (s0 := s0) x ?_ ?_; unfold x; clear x; rotate_left; intro hx; clear_value x) | clear_value x)
    | split
    | (intro _; with_reducible rfl)
    | (intro _; exact Clk.setSrc_variant _ _ _)
    | (intro _; exact rfl)
    | intro _
    | (with_reducible apply Keeps.of_same; with_reducible assumption; rfl; rfl; rfl; rfl; rfl; rfl)

theorem execLossOfLock_keeps (t : Nat) (aon : Nat) (s0 : State) : s0.Completes (execLossOfLock t aon s0) := by
  unfold execLossOfLock
  repeat' first
    | (with_reducible first | assumption | apply act_keeps | apply actIn_keeps | apply actAon_keeps | apply State.iff_keeps
                            | apply State.loseLock_keeps)
    | (with_reducible apply snd_keeps; with_reducible assumption)
    | (extract_lets -underBinder +onlyGivenNames x; first | (refine mp_keeps (s0 := s0) x ?_ ?_; unfold x; clear x; rotate_left; intro hx; clear_value x) | clear_value x)
    | split
    | intro _

theorem execReferenceSelect_keeps (t : Nat) (src : Nat) (s0 : State) : s0.Completes (execReferenceSelect t src s0) := by
  unfold execReferenceSelect
  repeat' first
    | (with_reducible first | assumption | apply act_keeps | apply actIn_keeps | apply actAon_keeps | apply State.modClk_keeps
                            | apply State.iffReleased_keeps | apply State.raise_keeps | apply State.setQuality_keeps)
    | (with_reducible apply snd_keeps; with_reducible assumption)
    | (extract_lets -underBinder +onlyGivenNames x; first | (refine mp_keeps (s0 := s0) x ?_ ?_; unfold x; clear x; rotate_left; intro hx; clear_value x) | clear_value x)
    | split
    | (intro _; with_reducible rfl)
    | (intro _; exact Clk.setSrc_variant _ _ _)
    | (intro _; exact rfl)
    | intro _

theorem execVtuneMargin_keeps (t : Nat) (high : Bool) (s0 : State) : s0.Completes (execVtuneMargin t high s0) := by
  unfold execVtuneMargin
  repeat' first
    | (with_reducible first | assumption | apply act_keeps | apply actIn_keeps | apply actAon_keeps | apply State.iff_keeps
                            | apply State.modClk_keeps | apply State.raise_keeps)
    | (with_reducible apply snd_keeps; with_reducible assumption)
    | (extract_lets -underBinder +onlyGivenNames x; first | (refine mp_keeps (s0 := s0) x ?_ ?_; unfold x; clear x; rotate_left; intro hx; clear_value x) | clear_value x)
    | split
    | (intro _; with_reducible rfl)
    | (intro _; exact Clk.setSrc_variant _ _ _)
    | (intro _; exact rfl)
    | intro _
    | (with_reducible apply Keeps.of_same; with_reducible assumption; rfl; rfl; rfl; rfl; rfl; rfl)

theorem execGateClose_keeps (t : Nat) (block : Nat) (s0 : State) : s0.Completes (execGateClose t block s0) := by
  unfold execGateClose
  repeat' first
    | (with_reducible first | assumption | apply act_keeps | apply actIn_keeps | apply actAon_keeps | apply State.iff_keeps
                            | apply State.modClk_keeps)
    | (with_reducible apply snd_keeps; with_reducible assumption)
    | (extract_lets -underBinder +onlyGivenNames x; first | (refine mp_keeps (s0 := s0) x ?_ ?_; unfold x; clear x; rotate_left; intro hx; clear_value x) | clear_value x)
    | split
    | (intro _; with_reducible rfl)
    | (intro _; exact Clk.setSrc_variant _ _ _)
    | (intro _; exact rfl)
    | intro _
    | (with_reducible apply Keeps.of_same; with_reducible assumption; rfl; rfl; rfl; rfl; rfl; rfl)

theorem execPllBEnable_keeps (t : Nat) (j : Nat) (v : Word) (s0 : State) : s0.Completes (execPllBEnable t j v s0) := by
  unfold execPllBEnable
  repeat' first
    | (with_reducible first | assumption | apply act_keeps | apply actIn_keeps | apply actAon_keeps | apply State.iff_keeps
                            | apply State.writePllOut_keeps)
    | (with_reducible apply snd_keeps; with_reducible assumption)
    | (extract_lets -underBinder +onlyGivenNames x; first | (refine mp_keeps (s0 := s0) x ?_ ?_; unfold x; clear x; rotate_left; intro hx; clear_value x) | clear_value x)
    | split
    | intro _

theorem execPllBDisable_keeps (t : Nat) (j : Nat) (v : Word) (s0 : State) : s0.Completes (execPllBDisable t j v s0) := by
  unfold execPllBDisable
  repeat' first
    | (with_reducible first | assumption | apply act_keeps | apply actIn_keeps | apply actAon_keeps | apply State.iff_keeps
                            | apply State.writePllOut_keeps)
    | (with_reducible apply snd_keeps; with_reducible assumption)
    | (extract_lets -underBinder +onlyGivenNames x; first | (refine mp_keeps (s0 := s0) x ?_ ?_; unfold x; clear x; rotate_left; intro hx; clear_value x) | clear_value x)
    | split
    | intro _

theorem execPllBTargetWrite_keeps (t : Nat) (j : Nat) (v : Word) (s0 : State) : s0.Completes (execPllBTargetWrite t j v s0) := by
  unfold execPllBTargetWrite
  repeat' first
    | (with_reducible first | assumption | apply act_keeps | apply actIn_keeps | apply actAon_keeps | apply State.iff_keeps
                            | apply State.writePllTarget_keeps)
    | (with_reducible apply snd_keeps; with_reducible assumption)
    | (extract_lets -underBinder +onlyGivenNames x; first | (refine mp_keeps (s0 := s0) x ?_ ?_; unfold x; clear x; rotate_left; intro hx; clear_value x) | clear_value x)
    | split
    | intro _

theorem execPllBUnlock_keeps (t : Nat) (s0 : State) : s0.Completes (execPllBUnlock t s0) := by
  unfold execPllBUnlock
  repeat' first
    | (with_reducible first | assumption | apply act_keeps | apply actIn_keeps | apply actAon_keeps | apply State.iff_keeps
                            | apply State.modClk_keeps | apply State.forAll_keeps | apply State.modOut_keeps
                            | apply State.raise_keeps)
    | (with_reducible apply snd_keeps; with_reducible assumption)
    | (extract_lets -underBinder +onlyGivenNames x; first | (refine mp_keeps (s0 := s0) x ?_ ?_; unfold x; clear x; rotate_left; intro hx; clear_value x) | clear_value x)
    | split
    | (intro _; with_reducible rfl)
    | (intro _; exact Clk.setSrc_variant _ _ _)
    | (intro _; exact rfl)
    | intro _
    | (with_reducible apply Keeps.of_same; with_reducible assumption; rfl; rfl; rfl; rfl; rfl; rfl)

theorem execPllBRelock_keeps (t : Nat) (s0 : State) : s0.Completes (execPllBRelock t s0) := by
  unfold execPllBRelock
  repeat' first
    | (with_reducible first | assumption | apply act_keeps | apply actIn_keeps | apply actAon_keeps | apply State.iff_keeps
                            | apply State.modClk_keeps | apply State.forAll_keeps | apply State.modOut_keeps
                            | apply State.startOut_keeps)
    | (with_reducible apply snd_keeps; with_reducible assumption)
    | (extract_lets -underBinder +onlyGivenNames x; first | (refine mp_keeps (s0 := s0) x ?_ ?_; unfold x; clear x; rotate_left; intro hx; clear_value x) | clear_value x)
    | split
    | (intro _; with_reducible rfl)
    | (intro _; exact Clk.setSrc_variant _ _ _)
    | (intro _; exact rfl)
    | intro _
    | (with_reducible apply Keeps.of_same; with_reducible assumption; rfl; rfl; rfl; rfl; rfl; rfl)

theorem execFlashHeaderRead_keeps (t : Nat) (hdrA : Bytes) (hdrB : Bytes) (s0 : State) : s0.Completes (execFlashHeaderRead t hdrA hdrB s0) := by
  unfold execFlashHeaderRead
  repeat' first
    | (with_reducible first | assumption | apply act_keeps | apply actIn_keeps | apply actAon_keeps | apply State.modSec_keeps
                            | apply State.slotCheck_keeps | apply State.readSlot_keeps | apply State.failBoot_keeps)
    | (with_reducible apply snd_keeps; with_reducible assumption)
    | (extract_lets -underBinder +onlyGivenNames x; first | (refine mp_keeps (s0 := s0) x ?_ ?_; unfold x; clear x; rotate_left; intro hx; clear_value x) | clear_value x)
    | split
    | (with_reducible apply Sec.Burns.of_same; with_reducible assumption; rfl; rfl; rfl; rfl; rfl; rfl; rfl; rfl; rfl; rfl; rfl; rfl)
    | intro _
    | (with_reducible apply Keeps.of_same; with_reducible assumption; rfl; rfl; rfl; rfl; rfl; rfl)

theorem execPayloadRead_keeps (t : Nat) (payload : Bytes) (s0 : State) : s0.Completes (execPayloadRead t payload s0) := by
  unfold execPayloadRead
  repeat' first
    | (with_reducible first | assumption | apply act_keeps | apply actIn_keeps | apply actAon_keeps | apply State.measure_keeps
                            | apply State.startFirmware_keeps | apply State.slotCheck_keeps | apply State.modSec_keeps
                            | apply State.readSlot_keeps | apply State.failBoot_keeps)
    | (with_reducible apply snd_keeps; with_reducible assumption)
    | (extract_lets -underBinder +onlyGivenNames x; first | (refine mp_keeps (s0 := s0) x ?_ ?_; unfold x; clear x; rotate_left; intro hx; clear_value x) | clear_value x)
    | split
    | (with_reducible apply Sec.Burns.of_same; with_reducible assumption; rfl; rfl; rfl; rfl; rfl; rfl; rfl; rfl; rfl; rfl; rfl; rfl)
    | intro _
    | (with_reducible apply Keeps.of_same; with_reducible assumption; rfl; rfl; rfl; rfl; rfl; rfl)

theorem execSecRecoveryStart_keeps (t : Nat) (v : Word) (s0 : State) : s0.Completes (execSecRecoveryStart t v s0) := by
  unfold execSecRecoveryStart
  repeat' first
    | (with_reducible first | assumption | apply act_keeps | apply actIn_keeps | apply actAon_keeps
                            | apply State.startRecovery_keeps)
    | (with_reducible apply snd_keeps; with_reducible assumption)
    | (extract_lets -underBinder +onlyGivenNames x; first | (refine mp_keeps (s0 := s0) x ?_ ?_; unfold x; clear x; rotate_left; intro hx; clear_value x) | clear_value x)
    | split
    | intro _

theorem execRecoveryFetchDone_keeps (t : Nat) (image : Option Bytes) (s0 : State) : s0.Completes (execRecoveryFetchDone t image s0) := by
  unfold execRecoveryFetchDone
  repeat' first
    | (with_reducible first | assumption | apply act_keeps | apply actIn_keeps | apply actAon_keeps | apply State.modSec_keeps
                            | apply State.setRf_keeps | apply State.iff_keeps | apply State.measure_keeps
                            | apply State.startFirmware_keeps)
    | (with_reducible apply snd_keeps; with_reducible assumption)
    | (extract_lets -underBinder +onlyGivenNames x; first | (refine mp_keeps (s0 := s0) x ?_ ?_; unfold x; clear x; rotate_left; intro hx; clear_value x) | clear_value x)
    | split
    | (with_reducible apply Sec.Burns.of_same; with_reducible assumption; rfl; rfl; rfl; rfl; rfl; rfl; rfl; rfl; rfl; rfl; rfl; rfl)
    | intro _
    | (with_reducible apply Keeps.of_same; with_reducible assumption; rfl; rfl; rfl; rfl; rfl; rfl)

theorem execSysReset_keeps (t : Nat) (v : Word) (s0 : State) : s0.Completes (execSysReset t v s0) := by
  unfold execSysReset
  repeat' first
    | (with_reducible first | assumption | apply act_keeps | apply actIn_keeps | apply actAon_keeps
                            | apply State.iffReleased_keeps | apply State.writeSysReset_keeps)
    | (with_reducible apply snd_keeps; with_reducible assumption)
    | (extract_lets -underBinder +onlyGivenNames x; first | (refine mp_keeps (s0 := s0) x ?_ ?_; unfold x; clear x; rotate_left; intro hx; clear_value x) | clear_value x)
    | split
    | intro _

theorem execManagementWatchdog_keeps (t : Nat) (s0 : State) : s0.Completes (execManagementWatchdog t s0) := by
  unfold execManagementWatchdog
  repeat' first
    | (with_reducible first | assumption | apply act_keeps | apply actIn_keeps | apply actAon_keeps
                            | apply State.iffReleased_keeps | apply State.softReset_keeps)
    | (with_reducible apply snd_keeps; with_reducible assumption)
    | (extract_lets -underBinder +onlyGivenNames x; first | (refine mp_keeps (s0 := s0) x ?_ ?_; unfold x; clear x; rotate_left; intro hx; clear_value x) | clear_value x)
    | split
    | intro _

theorem execHostLinkReset_keeps (t : Nat) (s0 : State) : s0.Completes (execHostLinkReset t s0) := by
  unfold execHostLinkReset
  repeat' first
    | (with_reducible first | assumption | apply act_keeps | apply actIn_keeps | apply actAon_keeps
                            | apply State.iffReleased_keeps | apply State.dropActs_keeps | apply State.setRb_keeps
                            | apply State.raise_keeps)
    | (with_reducible apply snd_keeps; with_reducible assumption)
    | (extract_lets -underBinder +onlyGivenNames x; first | (refine mp_keeps (s0 := s0) x ?_ ?_; unfold x; clear x; rotate_left; intro hx; clear_value x) | clear_value x)
    | split
    | intro _
    | (with_reducible apply Keeps.of_same; with_reducible assumption; rfl; rfl; rfl; rfl; rfl; rfl)

theorem execBusMasterEnable_keeps (t : Nat) (c : ConfigIn) (z : SizesIn) (s0 : State) : s0.Completes (execBusMasterEnable t c z s0) := by
  unfold execBusMasterEnable
  repeat' first
    | (with_reducible first | assumption | apply act_keeps | apply actIn_keeps | apply actAon_keeps | apply State.iff_keeps
                            | apply State.modHostIf_keeps)
    | (with_reducible apply snd_keeps; with_reducible assumption)
    | (extract_lets -underBinder +onlyGivenNames x; first | (refine mp_keeps (s0 := s0) x ?_ ?_; unfold x; clear x; rotate_left; intro hx; clear_value x) | clear_value x)
    | split
    | intro _

theorem execThermalShutdown_keeps (t : Nat) (aon : Nat) (s0 : State) : s0.Completes (execThermalShutdown t aon s0) := by
  unfold execThermalShutdown
  repeat' first
    | (with_reducible first | assumption | apply act_keeps | apply actIn_keeps | apply actAon_keeps | apply State.iff_keeps
                            | apply State.lastWord_keeps | apply State.resetLogic_keeps | apply State.modClk_keeps)
    | (with_reducible apply snd_keeps; with_reducible assumption)
    | (extract_lets -underBinder +onlyGivenNames x; first | (refine mp_keeps (s0 := s0) x ?_ ?_; unfold x; clear x; rotate_left; intro hx; clear_value x) | clear_value x)
    | split
    | (intro _; with_reducible rfl)
    | (intro _; exact Clk.setSrc_variant _ _ _)
    | (intro _; exact rfl)
    | intro _
    | (with_reducible apply Keeps.of_same; with_reducible assumption; rfl; rfl; rfl; rfl; rfl; rfl)

theorem execThermalRestart_keeps (t : Nat) (s0 : State) : s0.Completes (execThermalRestart t s0) := by
  unfold execThermalRestart
  repeat' first
    | (with_reducible first | assumption | apply act_keeps | apply actIn_keeps | apply actAon_keeps | apply State.iff_keeps
                            | apply State.deviceReset_keeps | apply State.modClk_keeps | apply State.enterBoot_keeps)
    | (with_reducible apply snd_keeps; with_reducible assumption)
    | (extract_lets -underBinder +onlyGivenNames x; first | (refine mp_keeps (s0 := s0) x ?_ ?_; unfold x; clear x; rotate_left; intro hx; clear_value x) | clear_value x)
    | split
    | (intro _; with_reducible rfl)
    | (intro _; exact Clk.setSrc_variant _ _ _)
    | (intro _; exact rfl)
    | intro _
    | (with_reducible apply Keeps.of_same; with_reducible assumption; rfl; rfl; rfl; rfl; rfl; rfl)

/-! ### SecuritySteps -/

theorem execReadIdentity_keeps (t : Nat) (s0 : State) : s0.Completes (execReadIdentity t s0) := by
  unfold execReadIdentity
  repeat' first
    | (with_reducible first | assumption | apply act_keeps | apply actIn_keeps | apply actAon_keeps | apply State.onSec_keeps
                            | apply State.ends_keeps | apply State.bufEnd_keeps)
    | (with_reducible apply snd_keeps; with_reducible assumption)
    | (extract_lets -underBinder +onlyGivenNames x; first | (refine mp_keeps (s0 := s0) x ?_ ?_; unfold x; clear x; rotate_left; intro hx; clear_value x) | clear_value x)
    | split
    | intro _

theorem execAttest_keeps (t : Nat) (buf : Option Bytes) (s0 : State) : s0.Completes (execAttest t buf s0) := by
  unfold execAttest
  repeat' first
    | (with_reducible first | assumption | apply act_keeps | apply actIn_keeps | apply actAon_keeps | apply State.onSec_keeps
                            | apply State.ends_keeps | apply State.readBuf_keeps | apply State.bufEnd_keeps)
    | (with_reducible apply snd_keeps; with_reducible assumption)
    | (extract_lets -underBinder +onlyGivenNames x; first | (refine mp_keeps (s0 := s0) x ?_ ?_; unfold x; clear x; rotate_left; intro hx; clear_value x) | clear_value x)
    | split
    | intro _

theorem execCommitVersion_keeps (t : Nat) (burnt : Bool) (s0 : State) : s0.Completes (execCommitVersion t burnt s0) := by
  unfold execCommitVersion
  repeat' first
    | (with_reducible first | assumption | apply act_keeps | apply State.onSec_keeps | apply State.ends_keeps)
    | (with_reducible apply State.modSec_keeps; rotate_left)
    | split
    | intro _
  next y hy =>
  refine { hy with rollback := ?_ }
  have := hy.rollback
  show min 64 s0.sec.rollback ≤ min 64 (max y.rollback y.runVersion)
  omega

theorem nbit_nset (a j i : Nat) (h : nbit a i = true) : nbit (nset a j true) i = true := by
  unfold nbit nset at *
  simp [Nat.testBit_or, h]

theorem State.slotWritten_keeps (h : s0.Keeps s) (i k j : Nat) (w : KeyWrite) : s0.Keeps (s.slotWritten i k j w) := by
  have hw : s0.Keeps (s.modSec fun x => { x with writing := none }) := State.modSec_keeps h _ fun _ hy => { hy with }
  cases w with
  | underWay => exact h
  | readBack good =>
    unfold State.slotWritten
    dsimp only
    split
    · refine State.ends_keeps ?_ _ _ _ _ _
      exact State.modSec_keeps hw _ fun _ hy => { hy with valid := fun n hn => nbit_nset _ _ _ (hy.valid n hn) }
    · exact State.ends_keeps hw _ _ _ _ _

/-- Taking the first free slot and writing its hash. -/
theorem State.takeSlot_keeps (h : s0.Keeps s) (j : Nat) (b : Bytes) (free : nbit s.sec.ownerUsed j = false) :
    s0.Keeps (s.modSec fun x =>
      { x with ownerUsed := nset x.ownerUsed j true, ownerHash := tput (fun _ => []) x.ownerHash j b, writing := some j }) := by
  refine State.modSec_keeps h _ fun y hy =>
    { hy with used := fun n hn => nbit_nset _ _ _ (hy.used n hn), hash := fun n hn => ?_ }
  have ne : n ≠ j := fun e => by
    rw [e] at hn
    exact absurd (h.fuses.used j hn) (by rw [free]; exact Bool.noConfusion)
  exact (tget_tput_ne _ _ _ ne).trans (hy.hash n hn)

theorem execProgramOwnerKey_keeps (t : Nat) (buf : Option Bytes) (w : KeyWrite) (s0 : State) :
    s0.Completes (execProgramOwnerKey t buf w s0) := by
  unfold execProgramOwnerKey
  dsimp only
  repeat' first
    | (with_reducible first | assumption | apply act_keeps | apply State.onSec_keeps | apply State.readBuf_keeps
                            | apply State.ends_keeps | apply State.slotWritten_keeps | apply State.takeSlot_keeps)
    | split
    | intro _
  all_goals
    next hj _ =>
    have := List.find?_some hj
    simp only [Bool.and_eq_true, Bool.not_eq_true'] at this
    exact this.1

theorem execRevokeOwnerKey_keeps (t : Nat) (buf : Option Bytes) (burnt : Bool) (s0 : State) : s0.Completes (execRevokeOwnerKey t buf burnt s0) := by
  unfold execRevokeOwnerKey
  dsimp only
  repeat' first
    | (with_reducible first | assumption | apply act_keeps | apply State.onSec_keeps | apply State.readBuf_keeps
                            | apply State.ends_keeps)
    | (with_reducible apply State.modSec_keeps; rotate_left)
    | split
    | intro _
  next y hy =>
  exact { hy with revoked := fun n hn => nbit_nset _ _ _ (hy.revoked n hn) }

theorem execSetOwnerEnforce_keeps (t : Nat) (burnt : Bool) (s0 : State) : s0.Completes (execSetOwnerEnforce t burnt s0) := by
  unfold execSetOwnerEnforce
  repeat' first
    | (with_reducible first | assumption | apply act_keeps | apply State.onSec_keeps | apply State.ends_keeps)
    | (with_reducible apply State.modSec_keeps; rotate_left)
    | split
    | intro _
  next y hy =>
  exact { hy with enforce := fun _ => rfl }

/-! ### TimeSteps -/

theorem State.writeTimCtrl_keeps (h : s0.Keeps s) (v : Word) : s0.Keeps (State.writeTimCtrl s v) := by
  unfold State.writeTimCtrl
  repeat' first
    | (with_reducible first | assumption | apply State.setReg_keeps | apply State.putSrc_keeps | apply State.modTim_keeps
                            | apply State.setQuality_keeps | apply State.iff_keeps | apply State.writeTimSet_keeps)
    | (with_reducible apply snd_keeps; with_reducible assumption)
    | (extract_lets -underBinder +onlyGivenNames x; first | (refine mp_keeps (s0 := s0) x ?_ ?_; unfold x; clear x; rotate_left; intro hx; clear_value x) | clear_value x)
    | split
    | intro _
    | (with_reducible apply Keeps.of_same; with_reducible assumption; rfl; rfl; rfl; rfl; rfl; rfl)

theorem execUpdateInstant_keeps (t : Nat) (s0 : State) : s0.Completes (execUpdateInstant t s0) := by
  unfold execUpdateInstant
  repeat' first
    | (with_reducible first | assumption | apply act_keeps | apply actIn_keeps | apply actAon_keeps | apply State.modTim_keeps
                            | apply State.retimeBell_keeps)
    | (with_reducible apply snd_keeps; with_reducible assumption)
    | (extract_lets -underBinder +onlyGivenNames x; first | (refine mp_keeps (s0 := s0) x ?_ ?_; unfold x; clear x; rotate_left; intro hx; clear_value x) | clear_value x)
    | split
    | intro _
    | (with_reducible apply Keeps.of_same; with_reducible assumption; rfl; rfl; rfl; rfl; rfl; rfl)

theorem execTimCtrlSet_keeps (t : Nat) (v : Word) (s0 : State) : s0.Completes (execTimCtrlSet t v s0) := by
  unfold execTimCtrlSet
  repeat' first
    | (with_reducible first | assumption | apply act_keeps | apply actIn_keeps | apply actAon_keeps | apply State.iff_keeps
                            | apply State.writeTimCtrl_keeps)
    | (with_reducible apply snd_keeps; with_reducible assumption)
    | (extract_lets -underBinder +onlyGivenNames x; first | (refine mp_keeps (s0 := s0) x ?_ ?_; unfold x; clear x; rotate_left; intro hx; clear_value x) | clear_value x)
    | split
    | intro _

theorem execTimTargetWrite_keeps (t : Nat) (v : Word) (s0 : State) : s0.Completes (execTimTargetWrite t v s0) := by
  unfold execTimTargetWrite
  repeat' first
    | (with_reducible first | assumption | apply act_keeps | apply actIn_keeps | apply actAon_keeps | apply State.iff_keeps
                            | apply State.writeTargetHi_keeps)
    | (with_reducible apply snd_keeps; with_reducible assumption)
    | (extract_lets -underBinder +onlyGivenNames x; first | (refine mp_keeps (s0 := s0) x ?_ ?_; unfold x; clear x; rotate_left; intro hx; clear_value x) | clear_value x)
    | split
    | intro _

theorem execPtpSourceLost_keeps (t : Nat) (s0 : State) : s0.Completes (execPtpSourceLost t s0) := by
  unfold execPtpSourceLost
  repeat' first
    | (with_reducible first | assumption | apply act_keeps | apply actIn_keeps | apply actAon_keeps | apply State.iff_keeps
                            | apply State.sourceLost_keeps)
    | (with_reducible apply snd_keeps; with_reducible assumption)
    | (extract_lets -underBinder +onlyGivenNames x; first | (refine mp_keeps (s0 := s0) x ?_ ?_; unfold x; clear x; rotate_left; intro hx; clear_value x) | clear_value x)
    | split
    | intro _

theorem execPpsSourceLost_keeps (t : Nat) (s0 : State) : s0.Completes (execPpsSourceLost t s0) := by
  unfold execPpsSourceLost
  repeat' first
    | (with_reducible first | assumption | apply act_keeps | apply actIn_keeps | apply actAon_keeps | apply State.iff_keeps
                            | apply State.sourceLost_keeps)
    | (with_reducible apply snd_keeps; with_reducible assumption)
    | (extract_lets -underBinder +onlyGivenNames x; first | (refine mp_keeps (s0 := s0) x ?_ ?_; unfold x; clear x; rotate_left; intro hx; clear_value x) | clear_value x)
    | split
    | intro _

theorem execHoldoverExpired_keeps (t : Nat) (s0 : State) : s0.Completes (execHoldoverExpired t s0) := by
  unfold execHoldoverExpired
  repeat' first
    | (with_reducible first | assumption | apply act_keeps | apply actIn_keeps | apply actAon_keeps | apply State.iff_keeps
                            | apply State.setQuality_keeps)
    | (with_reducible apply snd_keeps; with_reducible assumption)
    | (extract_lets -underBinder +onlyGivenNames x; first | (refine mp_keeps (s0 := s0) x ?_ ?_; unfold x; clear x; rotate_left; intro hx; clear_value x) | clear_value x)
    | split
    | intro _
    | (with_reducible apply Keeps.of_same; with_reducible assumption; rfl; rfl; rfl; rfl; rfl; rfl)

theorem execPpsOutRise_keeps (t : Nat) (s0 : State) : s0.Completes (execPpsOutRise t s0) := by
  unfold execPpsOutRise
  repeat' first
    | (with_reducible first | assumption | apply act_keeps | apply actIn_keeps | apply actAon_keeps | apply State.modTim_keeps)
    | (with_reducible apply snd_keeps; with_reducible assumption)
    | (extract_lets -underBinder +onlyGivenNames x; first | (refine mp_keeps (s0 := s0) x ?_ ?_; unfold x; clear x; rotate_left; intro hx; clear_value x) | clear_value x)
    | split
    | intro _
    | (with_reducible apply Keeps.of_same; with_reducible assumption; rfl; rfl; rfl; rfl; rfl; rfl)

theorem execPpsOutFall_keeps (t : Nat) (s0 : State) : s0.Completes (execPpsOutFall t s0) := by
  unfold execPpsOutFall
  repeat' first
    | (with_reducible first | assumption | apply act_keeps | apply actIn_keeps | apply actAon_keeps | apply State.iff_keeps
                            | apply State.modTim_keeps)
    | (with_reducible apply snd_keeps; with_reducible assumption)
    | (extract_lets -underBinder +onlyGivenNames x; first | (refine mp_keeps (s0 := s0) x ?_ ?_; unfold x; clear x; rotate_left; intro hx; clear_value x) | clear_value x)
    | split
    | intro _
    | (with_reducible apply Keeps.of_same; with_reducible assumption; rfl; rfl; rfl; rfl; rfl; rfl)

theorem execPpsInEdge_keeps (t : Nat) (edge : Nat) (servo : Servo) (s0 : State) : s0.Completes (execPpsInEdge t edge servo s0) := by
  unfold execPpsInEdge
  repeat' first
    | (with_reducible first | assumption | apply act_keeps | apply actIn_keeps | apply actAon_keeps | apply State.modTim_keeps
                            | apply State.sourcePresent_keeps | apply State.servo_keeps)
    | (with_reducible apply snd_keeps; with_reducible assumption)
    | (extract_lets -underBinder +onlyGivenNames x; first | (refine mp_keeps (s0 := s0) x ?_ ?_; unfold x; clear x; rotate_left; intro hx; clear_value x) | clear_value x)
    | split
    | intro _
    | (with_reducible apply Keeps.of_same; with_reducible assumption; rfl; rfl; rfl; rfl; rfl; rfl)

theorem execBellFire_keeps (t : Nat) (s0 : State) : s0.Completes (execBellFire t s0) := by
  unfold execBellFire
  repeat' first
    | (with_reducible first | assumption | apply act_keeps | apply actIn_keeps | apply actAon_keeps | apply State.bellFire_keeps)
    | (with_reducible apply snd_keeps; with_reducible assumption)
    | (extract_lets -underBinder +onlyGivenNames x; first | (refine mp_keeps (s0 := s0) x ?_ ?_; unfold x; clear x; rotate_left; intro hx; clear_value x) | clear_value x)
    | split
    | intro _

theorem execPhaseStep_keeps (t : Nat) (s0 : State) : s0.Completes (execPhaseStep t s0) := by
  unfold execPhaseStep
  repeat' first
    | (with_reducible first | assumption | apply act_keeps | apply actIn_keeps | apply actAon_keeps | apply State.onFired_keeps
                            | apply State.stepPllTarget_keeps)
    | (with_reducible apply snd_keeps; with_reducible assumption)
    | (extract_lets -underBinder +onlyGivenNames x; first | (refine mp_keeps (s0 := s0) x ?_ ?_; unfold x; clear x; rotate_left; intro hx; clear_value x) | clear_value x)
    | split
    | intro _

theorem execBellCancel_keeps (t : Nat) (s0 : State) : s0.Completes (execBellCancel t s0) := by
  unfold execBellCancel
  repeat' first
    | (with_reducible first | assumption | apply act_keeps | apply actIn_keeps | apply actAon_keeps | apply State.onTurn_keeps
                            | apply State.iff_keeps | apply State.bellFire_keeps | apply State.modBell_keeps
                            | apply State.ends_keeps)
    | (with_reducible apply snd_keeps; with_reducible assumption)
    | (extract_lets -underBinder +onlyGivenNames x; first | (refine mp_keeps (s0 := s0) x ?_ ?_; unfold x; clear x; rotate_left; intro hx; clear_value x) | clear_value x)
    | split
    | intro _
    | (with_reducible apply Keeps.of_same; with_reducible assumption; rfl; rfl; rfl; rfl; rfl; rfl)

/-! ### StationSteps -/

theorem execBellAdd_keeps (t : Nat) (buf : Option Bytes) (s0 : State) : s0.Completes (execBellAdd t buf s0) := by
  unfold execBellAdd
  refine act_keeps fun x hx => State.onTurn_keeps hx _ _ _ fun i k d y hy => ?_
  split
  · exact State.ends_keeps hy _ _ _ _ _
  · refine State.readBuf_keeps hy _ _ _ _ _ _ fun b z hz => ?_
    have := State.bellAddGo_keeps hz 0 [] (entries32 b d.arg)
    split
    next e =>
    rw [e] at this
    exact State.ends_keeps (State.sendBells_keeps this _ _) _ _ _ _ _

theorem execEmitFrame_keeps (t : Nat) (s0 : State) : s0.Completes (execEmitFrame t s0) := by
  unfold execEmitFrame
  repeat' first
    | (with_reducible first | assumption | apply act_keeps | apply actIn_keeps | apply actAon_keeps | apply State.onFired_keeps
                            | apply State.sendTemplate_keeps)
    | (with_reducible apply snd_keeps; with_reducible assumption)
    | (extract_lets -underBinder +onlyGivenNames x; first | (refine mp_keeps (s0 := s0) x ?_ ?_; unfold x; clear x; rotate_left; intro hx; clear_value x) | clear_value x)
    | split
    | intro _

theorem execStationFrame_keeps (t : Nat) (port : Nat) (sIn : Nat) (sOut : Nat) (frame : Bytes) (est : Option Int) (steer : Steer) (s0 : State) :
    s0.Completes (execStationFrame t port sIn sOut frame est steer s0) := by
  unfold execStationFrame
  repeat' first
    | (with_reducible first | assumption | apply act_keeps | apply actIn_keeps | apply actAon_keeps | apply State.staDrop_keeps
                            | apply State.switchFrame_keeps | apply State.iff_keeps | apply State.staQueue_keeps)
    | (with_reducible apply snd_keeps; with_reducible assumption)
    | (extract_lets -underBinder +onlyGivenNames x; first | (refine mp_keeps (s0 := s0) x ?_ ?_; unfold x; clear x; rotate_left; intro hx; clear_value x) | clear_value x)
    | split
    | intro _

theorem execPdelayReqSend_keeps (t : Nat) (port : Nat) (t1 : Nat) (s0 : State) : s0.Completes (execPdelayReqSend t port t1 s0) := by
  unfold execPdelayReqSend
  repeat' first
    | (with_reducible first | assumption | apply act_keeps | apply actIn_keeps | apply actAon_keeps | apply State.iff_keeps
                            | apply State.modSta_keeps | apply State.staQueue_keeps)
    | (with_reducible apply snd_keeps; with_reducible assumption)
    | (extract_lets -underBinder +onlyGivenNames x; first | (refine mp_keeps (s0 := s0) x ?_ ?_; unfold x; clear x; rotate_left; intro hx; clear_value x) | clear_value x)
    | split
    | intro _
    | (with_reducible apply Keeps.of_same; with_reducible assumption; rfl; rfl; rfl; rfl; rfl; rfl)

theorem execStationLinkDown_keeps (t : Nat) (port : Nat) (s0 : State) : s0.Completes (execStationLinkDown t port s0) := by
  unfold execStationLinkDown
  repeat' first
    | (with_reducible first | assumption | apply act_keeps | apply actIn_keeps | apply actAon_keeps | apply State.iff_keeps
                            | apply State.staFall_keeps)
    | (with_reducible apply snd_keeps; with_reducible assumption)
    | (extract_lets -underBinder +onlyGivenNames x; first | (refine mp_keeps (s0 := s0) x ?_ ?_; unfold x; clear x; rotate_left; intro hx; clear_value x) | clear_value x)
    | split
    | intro _

theorem execStationLinkUp_keeps (t : Nat) (port : Nat) (s0 : State) : s0.Completes (execStationLinkUp t port s0) := by
  unfold execStationLinkUp
  repeat' first
    | (with_reducible first | assumption | apply act_keeps | apply actIn_keeps | apply actAon_keeps | apply State.iff_keeps
                            | apply State.modSta_keeps)
    | (with_reducible apply snd_keeps; with_reducible assumption)
    | (extract_lets -underBinder +onlyGivenNames x; first | (refine mp_keeps (s0 := s0) x ?_ ?_; unfold x; clear x; rotate_left; intro hx; clear_value x) | clear_value x)
    | split
    | intro _
    | (with_reducible apply Keeps.of_same; with_reducible assumption; rfl; rfl; rfl; rfl; rfl; rfl)

theorem execTransmit_keeps (t : Nat) (buf : Option Bytes) (sOut : Nat) (s0 : State) : s0.Completes (execTransmit t buf sOut s0) := by
  unfold execTransmit
  repeat' first
    | (with_reducible first | assumption | apply act_keeps | apply actIn_keeps | apply actAon_keeps | apply State.onTurn_keeps
                            | apply State.ends_keeps | apply State.readBuf_keeps | apply State.iff_keeps
                            | apply State.staQueue_keeps | apply State.bufEnd_keeps)
    | (with_reducible apply snd_keeps; with_reducible assumption)
    | (extract_lets -underBinder +onlyGivenNames x; first | (refine mp_keeps (s0 := s0) x ?_ ?_; unfold x; clear x; rotate_left; intro hx; clear_value x) | clear_value x)
    | split
    | intro _

/-! ### CaptureSteps -/

theorem execArm_keeps (t : Nat) (s0 : State) : s0.Completes (execArm t s0) := by
  unfold execArm
  repeat' first
    | (with_reducible first | assumption | apply act_keeps | apply actIn_keeps | apply actAon_keeps | apply State.onCap_keeps
                            | apply State.capArm_keeps | apply State.ends_keeps)
    | (with_reducible apply snd_keeps; with_reducible assumption)
    | (extract_lets -underBinder +onlyGivenNames x; first | (refine mp_keeps (s0 := s0) x ?_ ?_; unfold x; clear x; rotate_left; intro hx; clear_value x) | clear_value x)
    | split
    | intro _

theorem execForce_keeps (t : Nat) (s0 : State) : s0.Completes (execForce t s0) := by
  unfold execForce
  repeat' first
    | (with_reducible first | assumption | apply act_keeps | apply actIn_keeps | apply actAon_keeps | apply State.onCap_keeps
                            | apply State.capTrigger_keeps | apply State.ends_keeps)
    | (with_reducible apply snd_keeps; with_reducible assumption)
    | (extract_lets -underBinder +onlyGivenNames x; first | (refine mp_keeps (s0 := s0) x ?_ ?_; unfold x; clear x; rotate_left; intro hx; clear_value x) | clear_value x)
    | split
    | intro _

theorem execAbort_keeps (t : Nat) (s0 : State) : s0.Completes (execAbort t s0) := by
  unfold execAbort
  repeat' first
    | (with_reducible first | assumption | apply act_keeps | apply actIn_keeps | apply actAon_keeps | apply State.onCap_keeps
                            | apply State.capAbort_keeps | apply State.ends_keeps)
    | (with_reducible apply snd_keeps; with_reducible assumption)
    | (extract_lets -underBinder +onlyGivenNames x; first | (refine mp_keeps (s0 := s0) x ?_ ?_; unfold x; clear x; rotate_left; intro hx; clear_value x) | clear_value x)
    | split
    | intro _

theorem execCopyOut_keeps (t : Nat) (c : CopyIn) (s0 : State) : s0.Completes (execCopyOut t c s0) := by
  unfold execCopyOut
  repeat' first
    | (with_reducible first | assumption | apply act_keeps | apply actIn_keeps | apply actAon_keeps | apply State.onCap_keeps
                            | apply State.ends_keeps | apply State.iff_keeps | apply State.memErrors_keeps
                            | apply State.hostWrite_keeps | apply State.modRing_keeps)
    | (with_reducible apply snd_keeps; with_reducible assumption)
    | (extract_lets -underBinder +onlyGivenNames x; first | (refine mp_keeps (s0 := s0) x ?_ ?_; unfold x; clear x; rotate_left; intro hx; clear_value x) | clear_value x)
    | split
    | intro _
    | (with_reducible apply Keeps.of_same; with_reducible assumption; rfl; rfl; rfl; rfl; rfl; rfl)

theorem execRelease_keeps (t : Nat) (s0 : State) : s0.Completes (execRelease t s0) := by
  unfold execRelease
  repeat' first
    | (with_reducible first | assumption | apply act_keeps | apply actIn_keeps | apply actAon_keeps | apply State.onCap_keeps
                            | apply State.ends_keeps | apply State.modUnit_keeps)
    | (with_reducible apply snd_keeps; with_reducible assumption)
    | (extract_lets -underBinder +onlyGivenNames x; first | (refine mp_keeps (s0 := s0) x ?_ ?_; unfold x; clear x; rotate_left; intro hx; clear_value x) | clear_value x)
    | split
    | intro _
    | (with_reducible apply Keeps.of_same; with_reducible assumption; rfl; rfl; rfl; rfl; rfl; rfl)

theorem execRecordEnd_keeps (t : Nat) (u : Nat) (s0 : State) : s0.Completes (execRecordEnd t u s0) := by
  unfold execRecordEnd
  repeat' first
    | (with_reducible first | assumption | apply act_keeps | apply actIn_keeps | apply actAon_keeps | apply State.iff_keeps
                            | apply State.capEnd_keeps)
    | (with_reducible apply snd_keeps; with_reducible assumption)
    | (extract_lets -underBinder +onlyGivenNames x; first | (refine mp_keeps (s0 := s0) x ?_ ?_; unfold x; clear x; rotate_left; intro hx; clear_value x) | clear_value x)
    | split
    | intro _

theorem execCaptureArm_keeps (t : Nat) (s0 : State) : s0.Completes (execCaptureArm t s0) := by
  unfold execCaptureArm
  repeat' first
    | (with_reducible first | assumption | apply act_keeps | apply actIn_keeps | apply actAon_keeps | apply State.onFired_keeps
                            | apply State.forAll_keeps | apply State.capArm_keeps | apply State.iff_keeps | apply State.bump_keeps)
    | (with_reducible apply snd_keeps; with_reducible assumption)
    | (extract_lets -underBinder +onlyGivenNames x; first | (refine mp_keeps (s0 := s0) x ?_ ?_; unfold x; clear x; rotate_left; intro hx; clear_value x) | clear_value x)
    | split
    | intro _

theorem execCaptureForce_keeps (t : Nat) (s0 : State) : s0.Completes (execCaptureForce t s0) := by
  unfold execCaptureForce
  repeat' first
    | (with_reducible first | assumption | apply act_keeps | apply actIn_keeps | apply actAon_keeps | apply State.onFired_keeps
                            | apply State.forAll_keeps | apply State.capTrigger_keeps)
    | (with_reducible apply snd_keeps; with_reducible assumption)
    | (extract_lets -underBinder +onlyGivenNames x; first | (refine mp_keeps (s0 := s0) x ?_ ?_; unfold x; clear x; rotate_left; intro hx; clear_value x) | clear_value x)
    | split
    | intro _

/-! ### TriggerSteps -/

theorem execCapSeqEnable_keeps (t : Nat) (j : Nat) (v : Word) (s0 : State) : s0.Completes (execCapSeqEnable t j v s0) := by
  unfold execCapSeqEnable
  repeat' first
    | (with_reducible first | assumption | apply act_keeps | apply actIn_keeps | apply actAon_keeps | apply State.iff_keeps
                            | apply State.writeSeqCtrl_keeps)
    | (with_reducible apply snd_keeps; with_reducible assumption)
    | (extract_lets -underBinder +onlyGivenNames x; first | (refine mp_keeps (s0 := s0) x ?_ ?_; unfold x; clear x; rotate_left; intro hx; clear_value x) | clear_value x)
    | split
    | intro _

theorem execSequenceTimer_keeps (t : Nat) (j : Nat) (s0 : State) : s0.Completes (execSequenceTimer t j s0) := by
  unfold execSequenceTimer
  repeat' first
    | (with_reducible first | assumption | apply act_keeps | apply actIn_keeps | apply actAon_keeps | apply State.iff_keeps
                            | apply State.seqGo_keeps)
    | (with_reducible apply snd_keeps; with_reducible assumption)
    | (extract_lets -underBinder +onlyGivenNames x; first | (refine mp_keeps (s0 := s0) x ?_ ?_; unfold x; clear x; rotate_left; intro hx; clear_value x) | clear_value x)
    | split
    | intro _

/-! ### PhasorSteps -/

theorem execPmuEnable_keeps (t : Nat) (v : Word) (s0 : State) : s0.Completes (execPmuEnable t v s0) := by
  unfold execPmuEnable
  repeat' first
    | (with_reducible first | assumption | apply act_keeps | apply actIn_keeps | apply actAon_keeps | apply State.iff_keeps
                            | apply State.writePmuCtrl_keeps)
    | (with_reducible apply snd_keeps; with_reducible assumption)
    | (extract_lets -underBinder +onlyGivenNames x; first | (refine mp_keeps (s0 := s0) x ?_ ?_; unfold x; clear x; rotate_left; intro hx; clear_value x) | clear_value x)
    | split
    | intro _

theorem execPmuStop_keeps (t : Nat) (v : Word) (s0 : State) : s0.Completes (execPmuStop t v s0) := by
  unfold execPmuStop
  repeat' first
    | (with_reducible first | assumption | apply act_keeps | apply actIn_keeps | apply actAon_keeps | apply State.iff_keeps
                            | apply State.writePmuCtrl_keeps)
    | (with_reducible apply snd_keeps; with_reducible assumption)
    | (extract_lets -underBinder +onlyGivenNames x; first | (refine mp_keeps (s0 := s0) x ?_ ?_; unfold x; clear x; rotate_left; intro hx; clear_value x) | clear_value x)
    | split
    | intro _

theorem execPhasorReport_keeps (t : Nat) (s0 : State) : s0.Completes (execPhasorReport t s0) := by
  unfold execPhasorReport
  repeat' first
    | (with_reducible first | assumption | apply act_keeps | apply actIn_keeps | apply actAon_keeps | apply State.emitRecord_keeps
                            | apply State.modPmu_keeps)
    | (with_reducible apply snd_keeps; with_reducible assumption)
    | (extract_lets -underBinder +onlyGivenNames x; first | (refine mp_keeps (s0 := s0) x ?_ ?_; unfold x; clear x; rotate_left; intro hx; clear_value x) | clear_value x)
    | split
    | intro _
    | (with_reducible apply Keeps.of_same; with_reducible assumption; rfl; rfl; rfl; rfl; rfl; rfl)

/-! ### AnalogSteps -/

theorem State.writeAdcCtrl_keeps (h : s0.Keeps s) (v : Word) : s0.Keeps (State.writeAdcCtrl s v) := by
  unfold State.writeAdcCtrl
  repeat' first
    | (with_reducible first | assumption | apply State.setReg_keeps | apply State.seqStart_keeps | apply State.modAdc_keeps)
    | (with_reducible apply snd_keeps; with_reducible assumption)
    | (extract_lets -underBinder +onlyGivenNames x; first | (refine mp_keeps (s0 := s0) x ?_ ?_; unfold x; clear x; rotate_left; intro hx; clear_value x) | clear_value x)
    | split
    | intro _
    | (with_reducible apply Keeps.of_same; with_reducible assumption; rfl; rfl; rfl; rfl; rfl; rfl)

theorem execBoundarySpan_keeps (t : Nat) (c : Nat) (g : Nat) (s0 : State) : s0.Completes (execBoundarySpan t c g s0) := by
  unfold execBoundarySpan
  repeat' first
    | (with_reducible first | assumption | apply act_keeps | apply actIn_keeps | apply actAon_keeps | apply State.addSpan_keeps)
    | (with_reducible apply snd_keeps; with_reducible assumption)
    | (extract_lets -underBinder +onlyGivenNames x; first | (refine mp_keeps (s0 := s0) x ?_ ?_; unfold x; clear x; rotate_left; intro hx; clear_value x) | clear_value x)
    | split
    | intro _
    | (with_reducible apply Keeps.of_same; with_reducible assumption; rfl; rfl; rfl; rfl; rfl; rfl)

theorem execAdcSeqStart_keeps (t : Nat) (v : Word) (s0 : State) : s0.Completes (execAdcSeqStart t v s0) := by
  unfold execAdcSeqStart
  repeat' first
    | (with_reducible first | assumption | apply act_keeps | apply actIn_keeps | apply actAon_keeps | apply State.iff_keeps
                            | apply State.writeAdcCtrl_keeps)
    | (with_reducible apply snd_keeps; with_reducible assumption)
    | (extract_lets -underBinder +onlyGivenNames x; first | (refine mp_keeps (s0 := s0) x ?_ ?_; unfold x; clear x; rotate_left; intro hx; clear_value x) | clear_value x)
    | split
    | intro _

theorem execAdcSeqStop_keeps (t : Nat) (v : Word) (s0 : State) : s0.Completes (execAdcSeqStop t v s0) := by
  unfold execAdcSeqStop
  repeat' first
    | (with_reducible first | assumption | apply act_keeps | apply actIn_keeps | apply actAon_keeps | apply State.iff_keeps
                            | apply State.writeAdcCtrl_keeps)
    | (with_reducible apply snd_keeps; with_reducible assumption)
    | (extract_lets -underBinder +onlyGivenNames x; first | (refine mp_keeps (s0 := s0) x ?_ ?_; unfold x; clear x; rotate_left; intro hx; clear_value x) | clear_value x)
    | split
    | intro _

theorem execSequencerStep_keeps (t : Nat) (s0 : State) : s0.Completes (execSequencerStep t s0) := by
  unfold execSequencerStep
  repeat' first
    | (with_reducible first | assumption | apply act_keeps | apply actIn_keeps | apply actAon_keeps | apply State.iff_keeps
                            | apply State.forAll_keeps | apply State.modAavg_keeps | apply State.bump_keeps
                            | apply State.avgLost_keeps | apply State.addSpan_keeps | apply State.modAdc_keeps)
    | (with_reducible apply snd_keeps; with_reducible assumption)
    | (extract_lets -underBinder +onlyGivenNames x; first | (refine mp_keeps (s0 := s0) x ?_ ?_; unfold x; clear x; rotate_left; intro hx; clear_value x) | clear_value x)
    | split
    | intro _
    | (with_reducible apply Keeps.of_same; with_reducible assumption; rfl; rfl; rfl; rfl; rfl; rfl)

theorem execAdcInjStart_keeps (t : Nat) (v : Word) (s0 : State) : s0.Completes (execAdcInjStart t v s0) := by
  unfold execAdcInjStart
  repeat' first
    | (with_reducible first | assumption | apply act_keeps | apply actIn_keeps | apply actAon_keeps | apply State.iff_keeps
                            | apply State.injWrite_keeps)
    | (with_reducible apply snd_keeps; with_reducible assumption)
    | (extract_lets -underBinder +onlyGivenNames x; first | (refine mp_keeps (s0 := s0) x ?_ ?_; unfold x; clear x; rotate_left; intro hx; clear_value x) | clear_value x)
    | split
    | intro _

theorem execInjectedSpan_keeps (t : Nat) (s0 : State) : s0.Completes (execInjectedSpan t s0) := by
  unfold execInjectedSpan
  repeat' first
    | (with_reducible first | assumption | apply act_keeps | apply actIn_keeps | apply actAon_keeps | apply State.abortStep_keeps
                            | apply State.forAll_keeps | apply State.setSpans_keeps | apply State.addSpan_keeps
                            | apply State.modAdc_keeps)
    | (with_reducible apply snd_keeps; with_reducible assumption)
    | (extract_lets -underBinder +onlyGivenNames x; first | (refine mp_keeps (s0 := s0) x ?_ ?_; unfold x; clear x; rotate_left; intro hx; clear_value x) | clear_value x)
    | split
    | intro _
    | (with_reducible apply Keeps.of_same; with_reducible assumption; rfl; rfl; rfl; rfl; rfl; rfl)

theorem execPrecisionResult_keeps (t : Nat) (c : Nat) (raw : Int) (s0 : State) : s0.Completes (execPrecisionResult t c raw s0) := by
  unfold execPrecisionResult
  repeat' first
    | (with_reducible first | assumption | apply act_keeps | apply actIn_keeps | apply actAon_keeps | apply State.dropSpan_keeps
                            | apply State.deliverResult_keeps | apply State.modAavg_keeps)
    | (with_reducible apply snd_keeps; with_reducible assumption)
    | (extract_lets -underBinder +onlyGivenNames x; first | (refine mp_keeps (s0 := s0) x ?_ ?_; unfold x; clear x; rotate_left; intro hx; clear_value x) | clear_value x)
    | split
    | intro _
    | (with_reducible apply Keeps.of_same; with_reducible assumption; rfl; rfl; rfl; rfl; rfl; rfl)

theorem execPrecisionLinkError_keeps (t : Nat) (c : Nat) (s0 : State) : s0.Completes (execPrecisionLinkError t c s0) := by
  unfold execPrecisionLinkError
  repeat' first
    | (with_reducible first | assumption | apply act_keeps | apply actIn_keeps | apply actAon_keeps | apply State.dropSpan_keeps
                            | apply State.iff_keeps | apply State.avgLost_keeps | apply State.bump_keeps | apply State.raise_keeps
                            | apply State.healthCount_keeps)
    | (with_reducible apply snd_keeps; with_reducible assumption)
    | (extract_lets -underBinder +onlyGivenNames x; first | (refine mp_keeps (s0 := s0) x ?_ ?_; unfold x; clear x; rotate_left; intro hx; clear_value x) | clear_value x)
    | split
    | intro _
    | (with_reducible apply Keeps.of_same; with_reducible assumption; rfl; rfl; rfl; rfl; rfl; rfl)

theorem execAdcCalStart_keeps (t : Nat) (v : Word) (s0 : State) : s0.Completes (execAdcCalStart t v s0) := by
  unfold execAdcCalStart
  repeat' first
    | (with_reducible first | assumption | apply act_keeps | apply actIn_keeps | apply actAon_keeps | apply State.iff_keeps
                            | apply State.writeAdcCal_keeps)
    | (with_reducible apply snd_keeps; with_reducible assumption)
    | (extract_lets -underBinder +onlyGivenNames x; first | (refine mp_keeps (s0 := s0) x ?_ ?_; unfold x; clear x; rotate_left; intro hx; clear_value x) | clear_value x)
    | split
    | intro _

theorem execCalibrateAdc_keeps (t : Nat) (s0 : State) : s0.Completes (execCalibrateAdc t s0) := by
  unfold execCalibrateAdc
  repeat' first
    | (with_reducible first | assumption | apply act_keeps | apply actIn_keeps | apply actAon_keeps | apply State.onFired_keeps
                            | apply State.forAll_keeps | apply State.calRequest_keeps)
    | (with_reducible apply snd_keeps; with_reducible assumption)
    | (extract_lets -underBinder +onlyGivenNames x; first | (refine mp_keeps (s0 := s0) x ?_ ?_; unfold x; clear x; rotate_left; intro hx; clear_value x) | clear_value x)
    | split
    | intro _

theorem execCalibrationStart_keeps (t : Nat) (c : Nat) (raw : Int) (s0 : State) : s0.Completes (execCalibrationStart t c raw s0) := by
  unfold execCalibrationStart
  repeat' first
    | (with_reducible first | assumption | apply act_keeps | apply actIn_keeps | apply actAon_keeps | apply State.modAcal_keeps
                            | apply State.calSpan_keeps)
    | (with_reducible apply snd_keeps; with_reducible assumption)
    | (extract_lets -underBinder +onlyGivenNames x; first | (refine mp_keeps (s0 := s0) x ?_ ?_; unfold x; clear x; rotate_left; intro hx; clear_value x) | clear_value x)
    | split
    | intro _
    | (with_reducible apply Keeps.of_same; with_reducible assumption; rfl; rfl; rfl; rfl; rfl; rfl)

theorem execCalibrationSpan_keeps (t : Nat) (c : Nat) (raw : Int) (s0 : State) : s0.Completes (execCalibrationSpan t c raw s0) := by
  unfold execCalibrationSpan
  repeat' first
    | (with_reducible first | assumption | apply act_keeps | apply actIn_keeps | apply actAon_keeps | apply State.iff_keeps
                            | apply State.calSpan_keeps)
    | (with_reducible apply snd_keeps; with_reducible assumption)
    | (extract_lets -underBinder +onlyGivenNames x; first | (refine mp_keeps (s0 := s0) x ?_ ?_; unfold x; clear x; rotate_left; intro hx; clear_value x) | clear_value x)
    | split
    | intro _

theorem execCalibrationEnd_keeps (t : Nat) (c : Nat) (s0 : State) : s0.Completes (execCalibrationEnd t c s0) := by
  unfold execCalibrationEnd
  repeat' first
    | (with_reducible first | assumption | apply act_keeps | apply actIn_keeps | apply actAon_keeps | apply State.calTally_keeps
                            | apply State.modAcal_keeps | apply State.iff_keeps | apply State.adcKeep_keeps
                            | apply State.setReg_keeps | apply State.setRb_keeps | apply State.raise_keeps)
    | (with_reducible apply snd_keeps; with_reducible assumption)
    | (extract_lets -underBinder +onlyGivenNames x; first | (refine mp_keeps (s0 := s0) x ?_ ?_; unfold x; clear x; rotate_left; intro hx; clear_value x) | clear_value x)
    | split
    | intro _
    | (with_reducible apply Keeps.of_same; with_reducible assumption; rfl; rfl; rfl; rfl; rfl; rfl)

theorem execAdcCalGainWrite_keeps (t : Nat) (c : Nat) (b : Nat) (v : Word) (s0 : State) : s0.Completes (execAdcCalGainWrite t c b v s0) := by
  unfold execAdcCalGainWrite
  repeat' first
    | (with_reducible first | assumption | apply act_keeps | apply actIn_keeps | apply actAon_keeps | apply State.iff_keeps
                            | apply State.writeAdcGain_keeps)
    | (with_reducible apply snd_keeps; with_reducible assumption)
    | (extract_lets -underBinder +onlyGivenNames x; first | (refine mp_keeps (s0 := s0) x ?_ ?_; unfold x; clear x; rotate_left; intro hx; clear_value x) | clear_value x)
    | split
    | intro _

theorem execFastSample_keeps (t : Nat) (n : Nat) (at_ : Nat) (raw : Int) (s0 : State) : s0.Completes (execFastSample t n at_ raw s0) := by
  unfold execFastSample
  repeat' first
    | (with_reducible first | assumption | apply act_keeps | apply actIn_keeps | apply actAon_keeps
                            | apply State.fadCalSample_keeps | apply State.fastInvalid_keeps | apply State.modFres_keeps
                            | apply State.capFast_keeps | apply State.atrgSample_keeps | apply State.twSample_keeps
                            | apply State.fastProtect_keeps)
    | (with_reducible apply snd_keeps; with_reducible assumption)
    | (extract_lets -underBinder +onlyGivenNames x; first | (refine mp_keeps (s0 := s0) x ?_ ?_; unfold x; clear x; rotate_left; intro hx; clear_value x) | clear_value x)
    | split
    | intro _

theorem execFastLinkError_keeps (t : Nat) (n : Nat) (at_ : Nat) (s0 : State) : s0.Completes (execFastLinkError t n at_ s0) := by
  unfold execFastLinkError
  repeat' first
    | (with_reducible first | assumption | apply act_keeps | apply actIn_keeps | apply actAon_keeps
                            | apply State.fastInvalid_keeps | apply State.bump_keeps | apply State.raise_keeps
                            | apply State.healthCount_keeps)
    | (with_reducible apply snd_keeps; with_reducible assumption)
    | (extract_lets -underBinder +onlyGivenNames x; first | (refine mp_keeps (s0 := s0) x ?_ ?_; unfold x; clear x; rotate_left; intro hx; clear_value x) | clear_value x)
    | split
    | intro _

theorem execFadCalStart_keeps (t : Nat) (v : Word) (s0 : State) : s0.Completes (execFadCalStart t v s0) := by
  unfold execFadCalStart
  repeat' first
    | (with_reducible first | assumption | apply act_keeps | apply actIn_keeps | apply actAon_keeps | apply State.iff_keeps
                            | apply State.writeFadCal_keeps)
    | (with_reducible apply snd_keeps; with_reducible assumption)
    | (extract_lets -underBinder +onlyGivenNames x; first | (refine mp_keeps (s0 := s0) x ?_ ?_; unfold x; clear x; rotate_left; intro hx; clear_value x) | clear_value x)
    | split
    | intro _

theorem execCalibrateFad_keeps (t : Nat) (s0 : State) : s0.Completes (execCalibrateFad t s0) := by
  unfold execCalibrateFad
  repeat' first
    | (with_reducible first | assumption | apply act_keeps | apply actIn_keeps | apply actAon_keeps | apply State.onFired_keeps
                            | apply State.forAll_keeps | apply State.fadRequest_keeps)
    | (with_reducible apply snd_keeps; with_reducible assumption)
    | (extract_lets -underBinder +onlyGivenNames x; first | (refine mp_keeps (s0 := s0) x ?_ ?_; unfold x; clear x; rotate_left; intro hx; clear_value x) | clear_value x)
    | split
    | intro _

theorem execFastCalibrationEnd_keeps (t : Nat) (n : Nat) (s0 : State) : s0.Completes (execFastCalibrationEnd t n s0) := by
  unfold execFastCalibrationEnd
  repeat' first
    | (with_reducible first | assumption | apply act_keeps | apply actIn_keeps | apply actAon_keeps | apply State.modFcal_keeps
                            | apply State.iff_keeps | apply State.fadKeep_keeps | apply State.setReg_keeps
                            | apply State.setRb_keeps | apply State.raise_keeps)
    | (with_reducible apply snd_keeps; with_reducible assumption)
    | (extract_lets -underBinder +onlyGivenNames x; first | (refine mp_keeps (s0 := s0) x ?_ ?_; unfold x; clear x; rotate_left; intro hx; clear_value x) | clear_value x)
    | split
    | intro _
    | (with_reducible apply Keeps.of_same; with_reducible assumption; rfl; rfl; rfl; rfl; rfl; rfl)

theorem execFadCalGainWrite_keeps (t : Nat) (c : Nat) (b : Nat) (v : Word) (s0 : State) : s0.Completes (execFadCalGainWrite t c b v s0) := by
  unfold execFadCalGainWrite
  repeat' first
    | (with_reducible first | assumption | apply act_keeps | apply actIn_keeps | apply actAon_keeps | apply State.iff_keeps
                            | apply State.writeFadGain_keeps)
    | (with_reducible apply snd_keeps; with_reducible assumption)
    | (extract_lets -underBinder +onlyGivenNames x; first | (refine mp_keeps (s0 := s0) x ?_ ?_; unfold x; clear x; rotate_left; intro hx; clear_value x) | clear_value x)
    | split
    | intro _

end Sys2Proof.Machine
end

