-- ==== Sys2Proof/Laws/KeepsMill.lean ====
section
/-! SUPPORT. What every operation keeps (State.Keeps of Safety.lean), one lemma per operation and per command: the host link, the Mill and the pair. -/

namespace Sys2Proof.Machine

set_option linter.unusedTactic false
set_option linter.unreachableTactic false
set_option linter.unusedVariables false

variable {s0 s : State}

/-! ### HostLink -/

theorem State.ringFail_keeps (h : s0.Keeps s) (i : Nat) (code : Nat) : s0.Keeps (State.ringFail s i code) := by
  unfold State.ringFail
  repeat' first
    | (with_reducible first | assumption | apply State.modRing_keeps | apply State.raise_keeps | apply State.pump_keeps)
    | (with_reducible apply snd_keeps; with_reducible assumption)
    | (extract_lets -underBinder +onlyGivenNames x; first | (refine mp_keeps (s0 := s0) x ?_ ?_; unfold x; clear x; rotate_left; intro hx; clear_value x) | clear_value x)
    | split
    | intro _
    | (with_reducible apply Keeps.of_same; with_reducible assumption; rfl; rfl; rfl; rfl; rfl; rfl)

theorem State.cqLost_keeps (h : s0.Keeps s) (q : Nat) : s0.Keeps (State.cqLost s q) := by
  unfold State.cqLost
  repeat' first
    | (with_reducible first | assumption | apply State.forAll_keeps | apply State.iff_keeps | apply State.ringFail_keeps)
    | (with_reducible apply snd_keeps; with_reducible assumption)
    | (extract_lets -underBinder +onlyGivenNames x; first | (refine mp_keeps (s0 := s0) x ?_ ?_; unfold x; clear x; rotate_left; intro hx; clear_value x) | clear_value x)
    | split
    | intro _

theorem State.ringError_keeps (h : s0.Keeps s) (i : Nat) (code : Nat) : s0.Keeps (State.ringError s i code) := by
  unfold State.ringError
  repeat' first
    | (with_reducible first | assumption | apply State.ringFail_keeps | apply State.iff_keeps | apply State.cqLost_keeps)
    | (with_reducible apply snd_keeps; with_reducible assumption)
    | (extract_lets -underBinder +onlyGivenNames x; first | (refine mp_keeps (s0 := s0) x ?_ ?_; unfold x; clear x; rotate_left; intro hx; clear_value x) | clear_value x)
    | split
    | intro _

theorem State.writeRingCfg_keeps (h : s0.Keeps s) (i : Nat) (v : Word) : s0.Keeps (State.writeRingCfg s i v) := by
  unfold State.writeRingCfg
  repeat' first
    | (with_reducible first | assumption | apply State.setReg_keeps | apply State.setRb_keeps | apply State.modRing_keeps
                            | apply State.modHostIf_keeps | apply State.iff_keeps | apply State.cqLost_keeps
                            | apply State.pump_keeps)
    | (with_reducible apply snd_keeps; with_reducible assumption)
    | (extract_lets -underBinder +onlyGivenNames x; first | (refine mp_keeps (s0 := s0) x ?_ ?_; unfold x; clear x; rotate_left; intro hx; clear_value x) | clear_value x)
    | split
    | intro _
    | (with_reducible apply Keeps.of_same; with_reducible assumption; rfl; rfl; rfl; rfl; rfl; rfl)

theorem execRingEnable_keeps (t : Nat) (ring : Nat) (v : Word) (s0 : State) : s0.Completes (execRingEnable t ring v s0) := by
  unfold execRingEnable
  repeat' first
    | (with_reducible first | assumption | apply act_keeps | apply actIn_keeps | apply actAon_keeps | apply State.iff_keeps
                            | apply State.writeRingCfg_keeps)
    | (with_reducible apply snd_keeps; with_reducible assumption)
    | (extract_lets -underBinder +onlyGivenNames x; first | (refine mp_keeps (s0 := s0) x ?_ ?_; unfold x; clear x; rotate_left; intro hx; clear_value x) | clear_value x)
    | split
    | intro _

theorem execRingStop_keeps (t : Nat) (ring : Nat) (v : Word) (s0 : State) : s0.Completes (execRingStop t ring v s0) := by
  unfold execRingStop
  repeat' first
    | (with_reducible first | assumption | apply act_keeps | apply actIn_keeps | apply actAon_keeps | apply State.iff_keeps
                            | apply State.writeRingCfg_keeps)
    | (with_reducible apply snd_keeps; with_reducible assumption)
    | (extract_lets -underBinder +onlyGivenNames x; first | (refine mp_keeps (s0 := s0) x ?_ ?_; unfold x; clear x; rotate_left; intro hx; clear_value x) | clear_value x)
    | split
    | intro _

theorem execPoll_keeps (t : Nat) (s0 : State) : s0.Completes (execPoll t s0) := by
  unfold execPoll
  repeat' first
    | (with_reducible first | assumption | apply act_keeps | apply actIn_keeps | apply actAon_keeps | apply State.modHostIf_keeps
                            | apply State.iff_keeps | apply State.shadowWrite_keeps | apply State.bump_keeps
                            | apply State.hostRead_keeps | apply State.sendHeld_keeps | apply State.pumpAll_keeps
                            | apply State.issueReads_keeps)
    | (with_reducible apply snd_keeps; with_reducible assumption)
    | (extract_lets -underBinder +onlyGivenNames x; first | (refine mp_keeps (s0 := s0) x ?_ ?_; unfold x; clear x; rotate_left; intro hx; clear_value x) | clear_value x)
    | split
    | intro _
    | (with_reducible apply Keeps.of_same; with_reducible assumption; rfl; rfl; rfl; rfl; rfl; rfl)

theorem State.takeIndex_keeps (h : s0.Keeps s) (i : Nat) (h : Nat) : s0.Keeps (State.takeIndex s i h) := by
  unfold State.takeIndex
  repeat' first
    | (with_reducible first | assumption | apply State.modRing_keeps | apply State.iff_keeps | apply State.ringError_keeps)
    | (with_reducible apply snd_keeps; with_reducible assumption)
    | (extract_lets -underBinder +onlyGivenNames x; first | (refine mp_keeps (s0 := s0) x ?_ ?_; unfold x; clear x; rotate_left; intro hx; clear_value x) | clear_value x)
    | split
    | intro _
    | (with_reducible apply Keeps.of_same; with_reducible assumption; rfl; rfl; rfl; rfl; rfl; rfl)

theorem execDoorbellRead_keeps (t : Nat) (slots : Option (List Word)) (s0 : State) : s0.Completes (execDoorbellRead t slots s0) := by
  unfold execDoorbellRead
  repeat' first
    | (with_reducible first | assumption | apply act_keeps | apply actIn_keeps | apply actAon_keeps | apply State.modHostIf_keeps
                            | apply State.setRb_keeps | apply State.raise_keeps | apply State.forAll_keeps
                            | apply State.takeIndex_keeps | apply State.pumpAll_keeps | apply State.issueReads_keeps)
    | (with_reducible apply snd_keeps; with_reducible assumption)
    | (extract_lets -underBinder +onlyGivenNames x; first | (refine mp_keeps (s0 := s0) x ?_ ?_; unfold x; clear x; rotate_left; intro hx; clear_value x) | clear_value x)
    | split
    | intro _
    | (with_reducible apply Keeps.of_same; with_reducible assumption; rfl; rfl; rfl; rfl; rfl; rfl)

theorem State.enqueue_keeps (h : s0.Keeps s) (i : Nat) (l : List Bytes) : s0.Keeps (s.enqueue i l) := by
  induction l generalizing s with
  | nil => exact h
  | cons a r ih =>
    unfold State.enqueue
    repeat' first
      | with_reducible assumption
      | with_reducible apply ih
      | with_reducible apply State.modRing_keeps
      | (with_reducible apply snd_keeps; with_reducible assumption)
      | (extract_lets -underBinder +onlyGivenNames x; first | (refine mp_keeps (s0 := s0) x ?_ ?_; unfold x; clear x; rotate_left; intro hx; clear_value x) | clear_value x)
      | split
      | intro _
      | (with_reducible apply Keeps.of_same; with_reducible assumption; rfl; rfl; rfl; rfl; rfl; rfl)

theorem execDescriptorFetch_keeps (t : Nat) (ring : Nat) (descs : Option (List Bytes)) (s0 : State) : s0.Completes (execDescriptorFetch t ring descs s0) := by
  unfold execDescriptorFetch
  repeat' first
    | (with_reducible first | assumption | apply act_keeps | apply actIn_keeps | apply actAon_keeps | apply State.modHostIf_keeps
                            | apply State.takeRead_keeps | apply State.ringError_keeps | apply State.enqueue_keeps
                            | apply State.pump_keeps | apply State.issueReads_keeps)
    | (with_reducible apply snd_keeps; with_reducible assumption)
    | (extract_lets -underBinder +onlyGivenNames x; first | (refine mp_keeps (s0 := s0) x ?_ ?_; unfold x; clear x; rotate_left; intro hx; clear_value x) | clear_value x)
    | split
    | intro _
    | (with_reducible apply Keeps.of_same; with_reducible assumption; rfl; rfl; rfl; rfl; rfl; rfl)

theorem execNop_keeps (t : Nat) (s0 : State) : s0.Completes (execNop t s0) := by
  unfold execNop
  repeat' first
    | (with_reducible first | assumption | apply act_keeps | apply actIn_keeps | apply actAon_keeps | apply State.onTurn_keeps
                            | apply State.finishAct_keeps)
    | (with_reducible apply snd_keeps; with_reducible assumption)
    | (extract_lets -underBinder +onlyGivenNames x; first | (refine mp_keeps (s0 := s0) x ?_ ?_; unfold x; clear x; rotate_left; intro hx; clear_value x) | clear_value x)
    | split
    | intro _

/-! ### Mill -/

theorem State.putTag_keeps (h : s0.Keeps s) (t : Nat) (x : Nat) (g : Tag) : s0.Keeps (State.putTag s t x g) := by
  unfold State.putTag
  repeat' first
    | (with_reducible first | assumption | apply State.modMill_keeps)
    | (with_reducible apply snd_keeps; with_reducible assumption)
    | (extract_lets -underBinder +onlyGivenNames x; first | (refine mp_keeps (s0 := s0) x ?_ ?_; unfold x; clear x; rotate_left; intro hx; clear_value x) | clear_value x)
    | split
    | intro _
    | (with_reducible apply Keeps.of_same; with_reducible assumption; rfl; rfl; rfl; rfl; rfl; rfl)

theorem State.sealTag_keeps (h : s0.Keeps s) (t : Nat) (x : Nat) (f : Option (Int × Nat)) : s0.Keeps (State.sealTag s t x f) := by
  unfold State.sealTag
  repeat' first
    | (with_reducible first | assumption | apply State.putTag_keeps | apply State.iff_keeps | apply State.raise_keeps)
    | (with_reducible apply snd_keeps; with_reducible assumption)
    | (extract_lets -underBinder +onlyGivenNames x; first | (refine mp_keeps (s0 := s0) x ?_ ?_; unfold x; clear x; rotate_left; intro hx; clear_value x) | clear_value x)
    | split
    | intro _
    | (with_reducible apply Keeps.of_same; with_reducible assumption; rfl; rfl; rfl; rfl; rfl; rfl)

theorem State.sealMasks_keeps (h : s0.Keeps s) (t : Nat) (mask : Nat → Nat) : s0.Keeps (State.sealMasks s t mask) := by
  unfold State.sealMasks
  repeat' first
    | (with_reducible first | assumption | apply State.forAll_keeps | apply State.modMill_keeps | apply State.iff_keeps
                            | apply State.raise_keeps)
    | (with_reducible apply snd_keeps; with_reducible assumption)
    | (extract_lets -underBinder +onlyGivenNames x; first | (refine mp_keeps (s0 := s0) x ?_ ?_; unfold x; clear x; rotate_left; intro hx; clear_value x) | clear_value x)
    | split
    | intro _
    | (with_reducible apply Keeps.of_same; with_reducible assumption; rfl; rfl; rfl; rfl; rfl; rfl)

theorem State.sealParams_keeps (h : s0.Keeps s) (t : Nat) : s0.Keeps ((State.sealParams s t).2) := by
  unfold State.sealParams
  repeat' first
    | (with_reducible first | assumption | apply State.modMill_keeps | apply State.putParam_keeps | apply State.answer_keeps
                            | apply hf1 | apply hf2 | apply hf3 | apply foldl_keeps | apply foldl_snd_keeps
                            | apply foldl_fst_keeps)
    | (with_reducible apply snd_keeps; with_reducible assumption)
    | (extract_lets -underBinder +onlyGivenNames x; first | (refine mp_keeps (s0 := s0) x ?_ ?_; unfold x; clear x; rotate_left; intro hx; clear_value x) | (refine mp1_keeps (s0 := s0) x ?_ ?_; unfold x; clear x; rotate_left; intro hf1; clear_value x) | (refine mp2_keeps (s0 := s0) x ?_ ?_; unfold x; clear x; rotate_left; intro hf2; clear_value x) | (refine mp3_keeps (s0 := s0) x ?_ ?_; unfold x; clear x; rotate_left; intro hf3; clear_value x) | clear_value x)
    | split
    | intro _
    | (with_reducible apply Keeps.of_same; with_reducible assumption; rfl; rfl; rfl; rfl; rfl; rfl)

theorem State.pairRecord_keeps (h : s0.Keeps s) (kind : Nat) (b : Bytes) : s0.Keeps (State.pairRecord s kind b) := by
  unfold State.pairRecord
  repeat' first
    | (with_reducible first | assumption | apply State.pairSend_keeps | apply State.modPair_keeps | apply State.forAll_keeps)
    | (with_reducible apply snd_keeps; with_reducible assumption)
    | (extract_lets -underBinder +onlyGivenNames x; first | (refine mp_keeps (s0 := s0) x ?_ ?_; unfold x; clear x; rotate_left; intro hx; clear_value x) | clear_value x)
    | split
    | intro _
    | (with_reducible apply Keeps.of_same; with_reducible assumption; rfl; rfl; rfl; rfl; rfl; rfl)

theorem State.portBack_keeps (h : s0.Keeps s) (p : Nat) : s0.Keeps (State.portBack s p) := by
  unfold State.portBack
  repeat' first
    | (with_reducible first | assumption | apply State.modHealth1_keeps | apply State.modPort_keeps | apply State.forAll_keeps
                            | apply State.modPst_keeps)
    | (with_reducible apply snd_keeps; with_reducible assumption)
    | (extract_lets -underBinder +onlyGivenNames x; first | (refine mp_keeps (s0 := s0) x ?_ ?_; unfold x; clear x; rotate_left; intro hx; clear_value x) | clear_value x)
    | split
    | intro _
    | (with_reducible apply Keeps.of_same; with_reducible assumption; rfl; rfl; rfl; rfl; rfl; rfl)

theorem State.followMask_keeps (h : s0.Keeps s) (g : Nat) (k : Nat) (b : Nat) : s0.Keeps (State.followMask s g k b) := by
  unfold State.followMask
  repeat' first
    | (with_reducible first | assumption | apply State.forAll_keeps | apply State.modHealth1_keeps | apply State.modPort_keeps
                            | apply State.portBack_keeps)
    | (with_reducible apply snd_keeps; with_reducible assumption)
    | (extract_lets -underBinder +onlyGivenNames x; first | (refine mp_keeps (s0 := s0) x ?_ ?_; unfold x; clear x; rotate_left; intro hx; clear_value x) | clear_value x)
    | split
    | intro _
    | (with_reducible apply Keeps.of_same; with_reducible assumption; rfl; rfl; rfl; rfl; rfl; rfl)

theorem State.takeMode_keeps (h : s0.Keeps s) (t : Nat) (m : Nat) : s0.Keeps (State.takeMode s t m) := by
  unfold State.takeMode
  repeat' first
    | (with_reducible first | assumption | apply State.iff_keeps | apply State.modMode_keeps | apply State.modTask_keeps)
    | (with_reducible apply snd_keeps; with_reducible assumption)
    | (extract_lets -underBinder +onlyGivenNames x; first | (refine mp_keeps (s0 := s0) x ?_ ?_; unfold x; clear x; rotate_left; intro hx; clear_value x) | clear_value x)
    | split
    | intro _
    | (with_reducible apply Keeps.of_same; with_reducible assumption; rfl; rfl; rfl; rfl; rfl; rfl)

theorem State.keepTask_keeps (h : s0.Keeps s) (t : Nat) : s0.Keeps (State.keepTask s t) := by
  unfold State.keepTask
  repeat' first
    | (with_reducible first | assumption | apply State.iff_keeps | apply State.modPair_keeps)
    | (with_reducible apply snd_keeps; with_reducible assumption)
    | (extract_lets -underBinder +onlyGivenNames x; first | (refine mp_keeps (s0 := s0) x ?_ ?_; unfold x; clear x; rotate_left; intro hx; clear_value x) | clear_value x)
    | split
    | intro _
    | (with_reducible apply Keeps.of_same; with_reducible assumption; rfl; rfl; rfl; rfl; rfl; rfl)

theorem State.followMode_keeps (h : s0.Keeps s) (t : Nat) (m : Nat) : s0.Keeps (State.followMode s t m) := by
  unfold State.followMode
  repeat' first
    | (with_reducible first | assumption | apply State.iff_keeps | apply State.enterMode_keeps | apply State.modPair_keeps
                            | apply State.modMode_keeps)
    | (with_reducible apply snd_keeps; with_reducible assumption)
    | (extract_lets -underBinder +onlyGivenNames x; first | (refine mp_keeps (s0 := s0) x ?_ ?_; unfold x; clear x; rotate_left; intro hx; clear_value x) | clear_value x)
    | split
    | intro _
    | (with_reducible apply Keeps.of_same; with_reducible assumption; rfl; rfl; rfl; rfl; rfl; rfl)

theorem State.sealFromPeer_keeps (h : s0.Keeps s) (t : Nat) : s0.Keeps ((State.sealFromPeer s t).2) := by
  unfold State.sealFromPeer
  repeat' first
    | (with_reducible first | assumption | apply State.followMode_keeps | apply State.takeMode_keeps | apply State.setReg_keeps
                            | apply State.putParam_keeps | apply State.forAll_keeps | apply State.followMask_keeps
                            | apply State.sealMasks_keeps | apply State.sealTag_keeps | apply State.keepTask_keeps
                            | apply foldl_keeps | apply foldl_snd_keeps | apply foldl_fst_keeps)
    | (with_reducible apply snd_keeps; with_reducible assumption)
    | (extract_lets -underBinder +onlyGivenNames x; first | (refine mp_keeps (s0 := s0) x ?_ ?_; unfold x; clear x; rotate_left; intro hx; clear_value x) | clear_value x)
    | split
    | intro _

theorem State.setpointsUsed_keeps (h : s0.Keeps s) (t : Nat) : s0.Keeps (State.setpointsUsed s t) := by
  unfold State.setpointsUsed
  repeat' first
    | (with_reducible first | assumption | apply State.setpointsDone_keeps)
    | (with_reducible apply snd_keeps; with_reducible assumption)
    | (extract_lets -underBinder +onlyGivenNames x; first | (refine mp_keeps (s0 := s0) x ?_ ?_; unfold x; clear x; rotate_left; intro hx; clear_value x) | clear_value x)
    | split
    | intro _

theorem State.groupClose_keeps (h : s0.Keeps s) (g : Nat) (b : Nat) : s0.Keeps (State.groupClose s g b) := by
  unfold State.groupClose
  repeat' first
    | (with_reducible first | assumption | apply State.modGrp_keeps | apply State.modeEnd_keeps | apply State.enterMode_keeps
                            | apply State.modMode_keeps | apply State.iff_keeps | apply State.forAll_keeps
                            | apply State.modHealth1_keeps | apply State.modPort_keeps)
    | (with_reducible apply snd_keeps; with_reducible assumption)
    | (extract_lets -underBinder +onlyGivenNames x; first | (refine mp_keeps (s0 := s0) x ?_ ?_; unfold x; clear x; rotate_left; intro hx; clear_value x) | clear_value x)
    | split
    | intro _
    | (with_reducible apply Keeps.of_same; with_reducible assumption; rfl; rfl; rfl; rfl; rfl; rfl)

theorem State.closeGroup_keeps (h : s0.Keeps s) (g : Nat) : s0.Keeps (State.closeGroup s g) := by
  unfold State.closeGroup
  repeat' first
    | (with_reducible first | assumption | apply State.iff_keeps | apply State.groupClose_keeps)
    | (with_reducible apply snd_keeps; with_reducible assumption)
    | (extract_lets -underBinder +onlyGivenNames x; first | (refine mp_keeps (s0 := s0) x ?_ ?_; unfold x; clear x; rotate_left; intro hx; clear_value x) | clear_value x)
    | split
    | intro _

theorem State.closeGroups_keeps (h : s0.Keeps s)  : s0.Keeps (State.closeGroups s) := by
  unfold State.closeGroups
  repeat' first
    | (with_reducible first | assumption | apply State.closeGroup_keeps | apply State.forAll_keeps)
    | (with_reducible apply snd_keeps; with_reducible assumption)
    | (extract_lets -underBinder +onlyGivenNames x; first | (refine mp_keeps (s0 := s0) x ?_ ?_; unfold x; clear x; rotate_left; intro hx; clear_value x) | clear_value x)
    | split
    | intro _

theorem State.sealOwn_keeps (h : s0.Keeps s) (t : Nat) : s0.Keeps (State.sealOwn s t) := by
  unfold State.sealOwn
  repeat' first
    | (with_reducible first | assumption | apply State.takeMode_keeps | apply State.sealParams_keeps | apply State.forAll_keeps
                            | apply State.sealTag_keeps | apply State.sealMasks_keeps | apply State.setpointsUsed_keeps
                            | apply State.iff_keeps | apply State.pairRecord_keeps | apply State.keepTask_keeps)
    | (with_reducible apply snd_keeps; with_reducible assumption)
    | (extract_lets -underBinder +onlyGivenNames x; first | (refine mp_keeps (s0 := s0) x ?_ ?_; unfold x; clear x; rotate_left; intro hx; clear_value x) | clear_value x)
    | split
    | intro _

theorem State.taskClose_keeps (h : s0.Keeps s) (t : Nat) (b : Nat) : s0.Keeps (State.taskClose s t b) := by
  unfold State.taskClose
  repeat' first
    | (with_reducible first | assumption | apply State.setReg_keeps | apply State.modTask_keeps | apply State.iff_keeps
                            | apply State.sealOwn_keeps)
    | (with_reducible apply snd_keeps; with_reducible assumption)
    | (extract_lets -underBinder +onlyGivenNames x; first | (refine mp_keeps (s0 := s0) x ?_ ?_; unfold x; clear x; rotate_left; intro hx; clear_value x) | clear_value x)
    | split
    | intro _
    | (with_reducible apply Keeps.of_same; with_reducible assumption; rfl; rfl; rfl; rfl; rfl; rfl)

theorem State.sendSnapshot_keeps (h : s0.Keeps s) (g : Nat) : s0.Keeps (State.sendSnapshot s g) := by
  unfold State.sendSnapshot
  repeat' first
    | (with_reducible first | assumption | apply State.iff_keeps | apply State.pairRecord_keeps)
    | (with_reducible apply snd_keeps; with_reducible assumption)
    | (extract_lets -underBinder +onlyGivenNames x; first | (refine mp_keeps (s0 := s0) x ?_ ?_; unfold x; clear x; rotate_left; intro hx; clear_value x) | clear_value x)
    | split
    | intro _

theorem execInputClose_keeps (t : Nat) (g : Nat) (task : Nat) (s0 : State) : s0.Completes (execInputClose t g task s0) := by
  unfold execInputClose
  repeat' first
    | (with_reducible first | assumption | apply act_keeps | apply actIn_keeps | apply actAon_keeps
                            | apply State.closeGroups_keeps | apply State.iff_keeps | apply State.sendSnapshot_keeps
                            | apply State.taskClose_keeps)
    | (with_reducible apply snd_keeps; with_reducible assumption)
    | (extract_lets -underBinder +onlyGivenNames x; first | (refine mp_keeps (s0 := s0) x ?_ ?_; unfold x; clear x; rotate_left; intro hx; clear_value x) | clear_value x)
    | split
    | intro _

theorem State.blockFlags_keeps (h : s0.Keeps s) (t : Nat) (b : Nat) (f : Nat) : s0.Keeps (State.blockFlags s t b f) := by
  unfold State.blockFlags
  repeat' first
    | (with_reducible first | assumption | apply State.setRf_keeps | apply State.iff_keeps | apply State.modTask_keeps
                            | apply State.raise_keeps)
    | (with_reducible apply snd_keeps; with_reducible assumption)
    | (extract_lets -underBinder +onlyGivenNames x; first | (refine mp_keeps (s0 := s0) x ?_ ?_; unfold x; clear x; rotate_left; intro hx; clear_value x) | clear_value x)
    | split
    | intro _
    | (with_reducible apply Keeps.of_same; with_reducible assumption; rfl; rfl; rfl; rfl; rfl; rfl)

theorem State.putBlock_keeps (h : s0.Keeps s) (t : Nat) (b : Nat) (k : Blk) (r : BOut × Bool × Bool) (taps : List Int) : s0.Keeps (State.putBlock s t b k r taps) := by
  unfold State.putBlock
  repeat' first
    | (with_reducible first | assumption | apply State.modTask_keeps | apply State.blockFlags_keeps | apply State.iff_keeps
                            | apply State.raise_keeps | apply foldl_keeps | apply foldl_snd_keeps | apply foldl_fst_keeps)
    | (with_reducible apply snd_keeps; with_reducible assumption)
    | (extract_lets -underBinder +onlyGivenNames x; first | (refine mp_keeps (s0 := s0) x ?_ ?_; unfold x; clear x; rotate_left; intro hx; clear_value x) | clear_value x)
    | split
    | intro _
    | (with_reducible apply Keeps.of_same; with_reducible assumption; rfl; rfl; rfl; rfl; rfl; rfl)

theorem State.runStep_keeps (h : s0.Keeps s) (p : Prog) (t : Nat) (l : List (Nat × Blk)) : s0.Keeps (State.runStep s p t l) := by
  unfold State.runStep
  repeat' first
    | (with_reducible first | assumption | apply State.putBlock_keeps | apply foldl_keeps | apply foldl_snd_keeps
                            | apply foldl_fst_keeps)
    | (with_reducible apply snd_keeps; with_reducible assumption)
    | (extract_lets -underBinder +onlyGivenNames x; first | (refine mp_keeps (s0 := s0) x ?_ ?_; unfold x; clear x; rotate_left; intro hx; clear_value x) | clear_value x)
    | split
    | intro _

theorem State.stepNow_keeps (h : s0.Keeps s) (p : Prog) (t : Nat) : s0.Keeps (State.stepNow s p t) := by
  unfold State.stepNow
  repeat' first
    | (with_reducible first | assumption | apply State.iff_keeps | apply State.modTask_keeps | apply State.runStep_keeps
                            | apply State.modMill_keeps)
    | (with_reducible apply snd_keeps; with_reducible assumption)
    | (extract_lets -underBinder +onlyGivenNames x; first | (refine mp_keeps (s0 := s0) x ?_ ?_; unfold x; clear x; rotate_left; intro hx; clear_value x) | clear_value x)
    | split
    | intro _
    | (with_reducible apply Keeps.of_same; with_reducible assumption; rfl; rfl; rfl; rfl; rfl; rfl)

theorem execTaskStep_keeps (t : Nat) (task : Nat) (s0 : State) : s0.Completes (execTaskStep t task s0) := by
  unfold execTaskStep
  repeat' first
    | (with_reducible first | assumption | apply act_keeps | apply actIn_keeps | apply actAon_keeps | apply State.stepNow_keeps
                            | apply State.sealFromPeer_keeps | apply State.modTask_keeps | apply State.modPair_keeps
                            | apply State.sealOwn_keeps)
    | (with_reducible apply snd_keeps; with_reducible assumption)
    | (extract_lets -underBinder +onlyGivenNames x; first | (refine mp_keeps (s0 := s0) x ?_ ?_; unfold x; clear x; rotate_left; intro hx; clear_value x) | clear_value x)
    | split
    | intro _
    | (with_reducible apply Keeps.of_same; with_reducible assumption; rfl; rfl; rfl; rfl; rfl; rfl)

theorem State.setLeft_keeps (h : s0.Keeps s)  : s0.Keeps (State.setLeft s) := by
  unfold State.setLeft
  repeat' first
    | (with_reducible first | assumption | apply State.setRf_keeps | apply foldl_keeps | apply foldl_snd_keeps
                            | apply foldl_fst_keeps)
    | (with_reducible apply snd_keeps; with_reducible assumption)
    | (extract_lets -underBinder +onlyGivenNames x; first | (refine mp_keeps (s0 := s0) x ?_ ?_; unfold x; clear x; rotate_left; intro hx; clear_value x) | clear_value x)
    | split
    | intro _

theorem State.handOver_keeps (h : s0.Keeps s) (p : Prog) (t : Nat) : s0.Keeps (State.handOver s p t) := by
  unfold State.handOver
  repeat' first
    | (with_reducible first | assumption | apply State.modMode_keeps | apply State.setRf_keeps | apply State.modTask_keeps
                            | apply State.iff_keeps | apply State.blockFlags_keeps | apply State.setLeft_keeps | apply hf1
                            | apply hf2 | apply hf3 | apply foldl_keeps | apply foldl_snd_keeps | apply foldl_fst_keeps)
    | (with_reducible apply snd_keeps; with_reducible assumption)
    | (extract_lets -underBinder +onlyGivenNames x; first | (refine mp_keeps (s0 := s0) x ?_ ?_; unfold x; clear x; rotate_left; intro hx; clear_value x) | (refine mp1_keeps (s0 := s0) x ?_ ?_; unfold x; clear x; rotate_left; intro hf1; clear_value x) | (refine mp2_keeps (s0 := s0) x ?_ ?_; unfold x; clear x; rotate_left; intro hf2; clear_value x) | (refine mp3_keeps (s0 := s0) x ?_ ?_; unfold x; clear x; rotate_left; intro hf3; clear_value x) | clear_value x)
    | split
    | intro _
    | (with_reducible apply Keeps.of_same; with_reducible assumption; rfl; rfl; rfl; rfl; rfl; rfl)

theorem State.trace_keeps (h : s0.Keeps s) (t : Nat) : s0.Keeps (State.trace s t) := by
  unfold State.trace
  repeat' first
    | (with_reducible first | assumption | apply State.iff_keeps | apply State.emitRecord_keeps | apply State.capRaw_keeps
                            | apply State.capMark_keeps | apply foldl_keeps | apply foldl_snd_keeps | apply foldl_fst_keeps)
    | (with_reducible apply snd_keeps; with_reducible assumption)
    | (extract_lets -underBinder +onlyGivenNames x; first | (refine mp_keeps (s0 := s0) x ?_ ?_; unfold x; clear x; rotate_left; intro hx; clear_value x) | clear_value x)
    | split
    | intro _

theorem State.commit_keeps (h : s0.Keeps s) (t : Nat) : s0.Keeps (State.commit s t) := by
  unfold State.commit
  repeat' first
    | (with_reducible first | assumption | apply State.modMill_keeps | apply State.bankPut_keeps | apply State.setRf_keeps
                            | apply State.modTask_keeps | apply foldl_keeps | apply foldl_snd_keeps | apply foldl_fst_keeps)
    | (with_reducible apply snd_keeps; with_reducible assumption)
    | (extract_lets -underBinder +onlyGivenNames x; first | (refine mp_keeps (s0 := s0) x ?_ ?_; unfold x; clear x; rotate_left; intro hx; clear_value x) | clear_value x)
    | split
    | intro _
    | (with_reducible apply Keeps.of_same; with_reducible assumption; rfl; rfl; rfl; rfl; rfl; rfl)

theorem execTaskCommit_keeps (t : Nat) (task : Nat) (s0 : State) : s0.Completes (execTaskCommit t task s0) := by
  unfold execTaskCommit
  repeat' first
    | (with_reducible first | assumption | apply act_keeps | apply actIn_keeps | apply actAon_keeps | apply State.handOver_keeps
                            | apply State.trace_keeps | apply State.commit_keeps)
    | (with_reducible apply snd_keeps; with_reducible assumption)
    | (extract_lets -underBinder +onlyGivenNames x; first | (refine mp_keeps (s0 := s0) x ?_ ?_; unfold x; clear x; rotate_left; intro hx; clear_value x) | clear_value x)
    | split
    | intro _
    | (with_reducible apply Keeps.of_same; with_reducible assumption; rfl; rfl; rfl; rfl; rfl; rfl)

theorem State.abandon_keeps (h : s0.Keeps s) (t : Nat) : s0.Keeps (State.abandon s t) := by
  unfold State.abandon
  repeat' first
    | (with_reducible first | assumption | apply State.modTask_keeps | apply State.modMill_keeps | apply State.modPair_keeps
                            | apply State.bump_keeps | apply State.setLeft_keeps | apply State.raise_keeps)
    | (with_reducible apply snd_keeps; with_reducible assumption)
    | (extract_lets -underBinder +onlyGivenNames x; first | (refine mp_keeps (s0 := s0) x ?_ ?_; unfold x; clear x; rotate_left; intro hx; clear_value x) | clear_value x)
    | split
    | intro _
    | (with_reducible apply Keeps.of_same; with_reducible assumption; rfl; rfl; rfl; rfl; rfl; rfl)

theorem State.showProg_keeps (h : s0.Keeps s) (p : Prog) : s0.Keeps (State.showProg s p) := by
  unfold State.showProg
  repeat' first
    | (with_reducible first | assumption | apply State.setRf_keeps | apply State.forAll_keeps | apply State.setReg_keeps)
    | (with_reducible apply snd_keeps; with_reducible assumption)
    | (extract_lets -underBinder +onlyGivenNames x; first | (refine mp_keeps (s0 := s0) x ?_ ?_; unfold x; clear x; rotate_left; intro hx; clear_value x) | clear_value x)
    | split
    | intro _

theorem execMillLoad_keeps (t : Nat) (buf : Option Bytes) (s0 : State) : s0.Completes (execMillLoad t buf s0) := by
  unfold execMillLoad
  repeat' first
    | (with_reducible first | assumption | apply act_keeps | apply actIn_keeps | apply actAon_keeps | apply State.iff_keeps
                            | apply State.onTurn_keeps | apply State.ends_keeps | apply State.readBuf_keeps
                            | apply State.hostRead_keeps | apply State.modMill_keeps | apply State.showProg_keeps
                            | apply State.measure_keeps | apply State.millClear_keeps)
    | (with_reducible apply snd_keeps; with_reducible assumption)
    | (extract_lets -underBinder +onlyGivenNames x; first | (refine mp_keeps (s0 := s0) x ?_ ?_; unfold x; clear x; rotate_left; intro hx; clear_value x) | clear_value x)
    | split
    | intro _
    | (with_reducible apply Keeps.of_same; with_reducible assumption; rfl; rfl; rfl; rfl; rfl; rfl)

theorem execMillParam_keeps (t : Nat) (s0 : State) : s0.Completes (execMillParam t s0) := by
  unfold execMillParam
  repeat' first
    | (with_reducible first | assumption | apply act_keeps | apply actIn_keeps | apply actAon_keeps | apply State.iff_keeps
                            | apply State.onTurn_keeps | apply State.holdAct_keeps | apply State.forward_keeps
                            | apply State.ends_keeps | apply State.putParam_keeps | apply State.modMill_keeps)
    | (with_reducible apply snd_keeps; with_reducible assumption)
    | (extract_lets -underBinder +onlyGivenNames x; first | (refine mp_keeps (s0 := s0) x ?_ ?_; unfold x; clear x; rotate_left; intro hx; clear_value x) | clear_value x)
    | split
    | intro _
    | (with_reducible apply Keeps.of_same; with_reducible assumption; rfl; rfl; rfl; rfl; rfl; rfl)

theorem State.bellParam_keeps (h : s0.Keeps s) (w : Nat) (v : Nat) : s0.Keeps (State.bellParam s w v) := by
  unfold State.bellParam
  repeat' first
    | (with_reducible first | assumption | apply State.putParam_keeps | apply State.modMill_keeps | apply State.bump_keeps)
    | (with_reducible apply snd_keeps; with_reducible assumption)
    | (extract_lets -underBinder +onlyGivenNames x; first | (refine mp_keeps (s0 := s0) x ?_ ?_; unfold x; clear x; rotate_left; intro hx; clear_value x) | clear_value x)
    | split
    | intro _
    | (with_reducible apply Keeps.of_same; with_reducible assumption; rfl; rfl; rfl; rfl; rfl; rfl)

theorem execWriteParam_keeps (t : Nat) (s0 : State) : s0.Completes (execWriteParam t s0) := by
  unfold execWriteParam
  repeat' first
    | (with_reducible first | assumption | apply act_keeps | apply actIn_keeps | apply actAon_keeps | apply State.onFired_keeps
                            | apply State.forward_keeps | apply State.bellParam_keeps)
    | (with_reducible apply snd_keeps; with_reducible assumption)
    | (extract_lets -underBinder +onlyGivenNames x; first | (refine mp_keeps (s0 := s0) x ?_ ?_; unfold x; clear x; rotate_left; intro hx; clear_value x) | clear_value x)
    | split
    | intro _

theorem State.putSetpoint_keeps (h : s0.Keeps s) (i : Nat) (v : Nat) : s0.Keeps (State.putSetpoint s i v) := by
  unfold State.putSetpoint
  repeat' first
    | (with_reducible first | assumption | apply State.bankPut_keeps)
    | (with_reducible apply snd_keeps; with_reducible assumption)
    | (extract_lets -underBinder +onlyGivenNames x; first | (refine mp_keeps (s0 := s0) x ?_ ?_; unfold x; clear x; rotate_left; intro hx; clear_value x) | clear_value x)
    | split
    | intro _

theorem State.ringSetpoint_keeps (h : s0.Keeps s) (i : Nat) (v : Nat) : s0.Keeps (State.ringSetpoint s i v) := by
  unfold State.ringSetpoint
  repeat' first
    | (with_reducible first | assumption | apply State.putSetpoint_keeps)
    | (with_reducible apply snd_keeps; with_reducible assumption)
    | (extract_lets -underBinder +onlyGivenNames x; first | (refine mp_keeps (s0 := s0) x ?_ ?_; unfold x; clear x; rotate_left; intro hx; clear_value x) | clear_value x)
    | split
    | intro _

theorem execWriteInput_keeps (t : Nat) (s0 : State) : s0.Completes (execWriteInput t s0) := by
  unfold execWriteInput
  repeat' first
    | (with_reducible first | assumption | apply act_keeps | apply actIn_keeps | apply actAon_keeps | apply State.onFired_keeps
                            | apply State.forward_keeps | apply State.putSetpoint_keeps | apply State.modMill_keeps)
    | (with_reducible apply snd_keeps; with_reducible assumption)
    | (extract_lets -underBinder +onlyGivenNames x; first | (refine mp_keeps (s0 := s0) x ?_ ?_; unfold x; clear x; rotate_left; intro hx; clear_value x) | clear_value x)
    | split
    | intro _
    | (with_reducible apply Keeps.of_same; with_reducible assumption; rfl; rfl; rfl; rfl; rfl; rfl)

theorem execSetpoint_keeps (t : Nat) (s0 : State) : s0.Completes (execSetpoint t s0) := by
  unfold execSetpoint
  repeat' first
    | (with_reducible first | assumption | apply act_keeps | apply actIn_keeps | apply actAon_keeps | apply State.iff_keeps
                            | apply State.onTurn_keeps | apply State.ends_keeps | apply State.holdAct_keeps
                            | apply State.forward_keeps | apply State.ringSetpoint_keeps | apply State.modMill_keeps
                            | apply foldl_keeps | apply foldl_snd_keeps | apply foldl_fst_keeps)
    | (with_reducible apply snd_keeps; with_reducible assumption)
    | (extract_lets -underBinder +onlyGivenNames x; first | (refine mp_keeps (s0 := s0) x ?_ ?_; unfold x; clear x; rotate_left; intro hx; clear_value x) | clear_value x)
    | split
    | intro _
    | (with_reducible apply Keeps.of_same; with_reducible assumption; rfl; rfl; rfl; rfl; rfl; rfl)

theorem execTelemetryRecord_keeps (t : Nat) (s0 : State) : s0.Completes (execTelemetryRecord t s0) := by
  unfold execTelemetryRecord
  repeat' first
    | (with_reducible first | assumption | apply act_keeps | apply actIn_keeps | apply actAon_keeps | apply State.emitRecord_keeps)
    | (with_reducible apply snd_keeps; with_reducible assumption)
    | (extract_lets -underBinder +onlyGivenNames x; first | (refine mp_keeps (s0 := s0) x ?_ ?_; unfold x; clear x; rotate_left; intro hx; clear_value x) | clear_value x)
    | split
    | intro _

theorem execMilDataRead_keeps (t : Nat) (s0 : State) : s0.Completes (execMilDataRead t s0) := by
  unfold execMilDataRead
  repeat' first
    | (with_reducible first | assumption | apply act_keeps | apply actIn_keeps | apply actAon_keeps | apply foldl_keeps
                            | apply foldl_snd_keeps | apply foldl_fst_keeps)
    | (with_reducible apply snd_keeps; with_reducible assumption)
    | (extract_lets -underBinder +onlyGivenNames x; first | (refine mp_keeps (s0 := s0) x ?_ ?_; unfold x; clear x; rotate_left; intro hx; clear_value x) | clear_value x)
    | split
    | intro _
    | (with_reducible apply Keeps.of_same; with_reducible assumption; rfl; rfl; rfl; rfl; rfl; rfl)

/-! ### PairOps -/

theorem State.planStore_keeps (h : s0.Keeps s) (off : Nat) (c : Nat) (v : Word) : s0.Keeps (State.planStore s off c v) := by
  unfold State.planStore
  repeat' first
    | (with_reducible first | assumption | apply State.modPair_keeps)
    | (with_reducible apply snd_keeps; with_reducible assumption)
    | (extract_lets -underBinder +onlyGivenNames x; first | (refine mp_keeps (s0 := s0) x ?_ ?_; unfold x; clear x; rotate_left; intro hx; clear_value x) | clear_value x)
    | split
    | intro _
    | (with_reducible apply Keeps.of_same; with_reducible assumption; rfl; rfl; rfl; rfl; rfl; rfl)

theorem State.forceCommit_keeps (h : s0.Keeps s) (c : Nat) : s0.Keeps (State.forceCommit s c) := by
  unfold State.forceCommit
  repeat' first
    | (with_reducible first | assumption | apply State.modGce_keeps)
    | (with_reducible apply snd_keeps; with_reducible assumption)
    | (extract_lets -underBinder +onlyGivenNames x; first | (refine mp_keeps (s0 := s0) x ?_ ?_; unfold x; clear x; rotate_left; intro hx; clear_value x) | clear_value x)
    | split
    | intro _
    | (with_reducible apply Keeps.of_same; with_reducible assumption; rfl; rfl; rfl; rfl; rfl; rfl)

theorem State.planWrite_keeps (h : s0.Keeps s) (off : Nat) (v : Word) : s0.Keeps (State.planWrite s off v) := by
  unfold State.planWrite
  repeat' first
    | (with_reducible first | assumption | apply State.iff_keeps | apply State.pairSend_keeps | apply State.forceCommit_keeps
                            | apply State.planStore_keeps)
    | (with_reducible apply snd_keeps; with_reducible assumption)
    | (extract_lets -underBinder +onlyGivenNames x; first | (refine mp_keeps (s0 := s0) x ?_ ?_; unfold x; clear x; rotate_left; intro hx; clear_value x) | clear_value x)
    | split
    | intro _

theorem execGceForceCommit_keeps (t : Nat) (v : Word) (s0 : State) : s0.Completes (execGceForceCommit t v s0) := by
  unfold execGceForceCommit
  repeat' first
    | (with_reducible first | assumption | apply act_keeps | apply actIn_keeps | apply actAon_keeps | apply State.planWrite_keeps)
    | (with_reducible apply snd_keeps; with_reducible assumption)
    | (extract_lets -underBinder +onlyGivenNames x; first | (refine mp_keeps (s0 := s0) x ?_ ?_; unfold x; clear x; rotate_left; intro hx; clear_value x) | clear_value x)
    | split
    | intro _

theorem State.pairMismatch_keeps (h : s0.Keeps s) (g : Nat) (b : Nat) : s0.Keeps (State.pairMismatch s g b) := by
  unfold State.pairMismatch
  repeat' first
    | (with_reducible first | assumption | apply State.bump_keeps | apply State.modPair_keeps | apply State.raise_keeps
                            | apply State.iff_keeps)
    | (with_reducible apply snd_keeps; with_reducible assumption)
    | (extract_lets -underBinder +onlyGivenNames x; first | (refine mp_keeps (s0 := s0) x ?_ ?_; unfold x; clear x; rotate_left; intro hx; clear_value x) | clear_value x)
    | split
    | intro _
    | (with_reducible apply Keeps.of_same; with_reducible assumption; rfl; rfl; rfl; rfl; rfl; rfl)

theorem State.hashCompare_keeps (h : s0.Keeps s) (g : Nat) (b : Nat) : s0.Keeps (State.hashCompare s g b) := by
  unfold State.hashCompare
  repeat' first
    | (with_reducible first | assumption | apply State.modPair_keeps | apply State.pairMismatch_keeps | apply hf1 | apply hf2
                            | apply hf3)
    | (with_reducible apply snd_keeps; with_reducible assumption)
    | (extract_lets -underBinder +onlyGivenNames x; first | (refine mp_keeps (s0 := s0) x ?_ ?_; unfold x; clear x; rotate_left; intro hx; clear_value x) | (refine mp1_keeps (s0 := s0) x ?_ ?_; unfold x; clear x; rotate_left; intro hf1; clear_value x) | (refine mp2_keeps (s0 := s0) x ?_ ?_; unfold x; clear x; rotate_left; intro hf2; clear_value x) | (refine mp3_keeps (s0 := s0) x ?_ ?_; unfold x; clear x; rotate_left; intro hf3; clear_value x) | clear_value x)
    | split
    | intro _
    | (with_reducible apply Keeps.of_same; with_reducible assumption; rfl; rfl; rfl; rfl; rfl; rfl)

theorem State.planRecord_keeps (h : s0.Keeps s) (g : Nat) (b : Nat) (r : Bytes) : s0.Keeps (State.planRecord s g b r) := by
  unfold State.planRecord
  repeat' first
    | (with_reducible first | assumption | apply State.modPair_keeps | apply State.pairSend_keeps | apply State.hashCompare_keeps)
    | (with_reducible apply snd_keeps; with_reducible assumption)
    | (extract_lets -underBinder +onlyGivenNames x; first | (refine mp_keeps (s0 := s0) x ?_ ?_; unfold x; clear x; rotate_left; intro hx; clear_value x) | clear_value x)
    | split
    | intro _
    | (with_reducible apply Keeps.of_same; with_reducible assumption; rfl; rfl; rfl; rfl; rfl; rfl)

end Sys2Proof.Machine
end

