-- ==== Sys2Proof/Laws/KeepsSwitch.lean ====
section
/-! SUPPORT. What every operation keeps (State.Keeps of Safety.lean), one lemma per operation and per command: gates, a joining unit, legs, safety and health. -/

namespace Sys2Proof.Machine

set_option linter.unusedTactic false
set_option linter.unreachableTactic false
set_option linter.unusedVariables false

variable {s0 s : State}

/-! ### Gce -/

theorem State.latch_keeps (h : s0.Keeps s) (g : Nat) (f : Nat) (b : Nat) : s0.Keeps (State.latch s g f b) := by
  unfold State.latch
  repeat' first
    | (with_reducible first | assumption | apply State.modGrp_keeps | apply State.modGce_keeps | apply foldl_keeps
                            | apply foldl_snd_keeps | apply foldl_fst_keeps)
    | (with_reducible apply snd_keeps; with_reducible assumption)
    | (extract_lets -underBinder +onlyGivenNames x; first | (refine mp_keeps (s0 := s0) x ?_ ?_; unfold x; clear x; rotate_left; intro hx; clear_value x) | clear_value x)
    | split
    | intro _
    | (with_reducible apply Keeps.of_same; with_reducible assumption; rfl; rfl; rfl; rfl; rfl; rfl)

theorem State.settlePair_keeps (h : s0.Keeps s) (g : Nat) (o : PairOut) (es : List (Int × Bool)) (os : List (Int × Bool)) : s0.Keeps (State.settlePair s g o es os) := by
  unfold State.settlePair
  repeat' first
    | (with_reducible first | assumption | apply State.modPst_keeps | apply State.setRb_keeps | apply State.raise_keeps
                            | apply State.iff_keeps | apply State.healthCount_keeps)
    | (with_reducible apply snd_keeps; with_reducible assumption)
    | (extract_lets -underBinder +onlyGivenNames x; first | (refine mp_keeps (s0 := s0) x ?_ ?_; unfold x; clear x; rotate_left; intro hx; clear_value x) | clear_value x)
    | split
    | intro _

theorem State.loadFrames_keeps (h : s0.Keeps s) (p : Nat) (n0 : Nat) (f : Frames) : s0.Keeps (State.loadFrames s p n0 f) := by
  unfold State.loadFrames
  repeat' first
    | (with_reducible first | assumption | apply State.modPort_keeps | apply State.capRaw_keeps | apply State.seqEdge_keeps
                            | apply foldl_keeps | apply foldl_snd_keeps | apply foldl_fst_keeps)
    | (with_reducible apply snd_keeps; with_reducible assumption)
    | (extract_lets -underBinder +onlyGivenNames x; first | (refine mp_keeps (s0 := s0) x ?_ ?_; unfold x; clear x; rotate_left; intro hx; clear_value x) | clear_value x)
    | split
    | intro _
    | (with_reducible apply Keeps.of_same; with_reducible assumption; rfl; rfl; rfl; rfl; rfl; rfl)

theorem State.freezePort_keeps (h : s0.Keeps s) (g : Nat) (b : Nat) (p : Nat) : s0.Keeps (State.freezePort s g b p) := by
  unfold State.freezePort
  repeat' first
    | (with_reducible first | assumption | apply State.settlePair_keeps | apply State.iff_keeps | apply State.loadFrames_keeps
                            | apply State.bump_keeps | apply State.forAll_keeps | apply State.raise_keeps
                            | apply State.capMark_keeps | apply hf1 | apply hf2 | apply hf3 | apply foldl_keeps
                            | apply foldl_snd_keeps | apply foldl_fst_keeps)
    | (with_reducible apply snd_keeps; with_reducible assumption)
    | (extract_lets -underBinder +onlyGivenNames x; first | (refine mp_keeps (s0 := s0) x ?_ ?_; unfold x; clear x; rotate_left; intro hx; clear_value x) | (refine mp1_keeps (s0 := s0) x ?_ ?_; unfold x; clear x; rotate_left; intro hf1; clear_value x) | (refine mp2_keeps (s0 := s0) x ?_ ?_; unfold x; clear x; rotate_left; intro hf2; clear_value x) | (refine mp3_keeps (s0 := s0) x ?_ ?_; unfold x; clear x; rotate_left; intro hf3; clear_value x) | clear_value x)
    | split
    | intro _

theorem State.freezeLeg_keeps (h : s0.Keeps s) (g : Nat) (b : Nat) (m : Nat) : s0.Keeps (State.freezeLeg s g b m) := by
  unfold State.freezeLeg
  repeat' first
    | (with_reducible first | assumption | apply State.iff_keeps | apply State.modPst_keeps | apply State.settlePair_keeps
                            | apply State.modLg_keeps | apply State.modGce_keeps | apply hf1 | apply hf2 | apply hf3)
    | (with_reducible apply snd_keeps; with_reducible assumption)
    | (extract_lets -underBinder +onlyGivenNames x; first | (refine mp_keeps (s0 := s0) x ?_ ?_; unfold x; clear x; rotate_left; intro hx; clear_value x) | (refine mp1_keeps (s0 := s0) x ?_ ?_; unfold x; clear x; rotate_left; intro hf1; clear_value x) | (refine mp2_keeps (s0 := s0) x ?_ ?_; unfold x; clear x; rotate_left; intro hf2; clear_value x) | (refine mp3_keeps (s0 := s0) x ?_ ?_; unfold x; clear x; rotate_left; intro hf3; clear_value x) | clear_value x)
    | split
    | intro _
    | (with_reducible apply Keeps.of_same; with_reducible assumption; rfl; rfl; rfl; rfl; rfl; rfl)

theorem State.firstWindow_keeps (h : s0.Keeps s) (g : Nat) : s0.Keeps (State.firstWindow s g) := by
  unfold State.firstWindow
  repeat' first
    | (with_reducible first | assumption | apply State.forAll_keeps | apply State.modPst_keeps)
    | (with_reducible apply snd_keeps; with_reducible assumption)
    | (extract_lets -underBinder +onlyGivenNames x; first | (refine mp_keeps (s0 := s0) x ?_ ?_; unfold x; clear x; rotate_left; intro hx; clear_value x) | clear_value x)
    | split
    | intro _
    | (with_reducible apply Keeps.of_same; with_reducible assumption; rfl; rfl; rfl; rfl; rfl; rfl)

theorem State.freeze_keeps (h : s0.Keeps s) (g : Nat) (b : Nat) (f : Nat) : s0.Keeps (State.freeze s g b f) := by
  unfold State.freeze
  repeat' first
    | (with_reducible first | assumption | apply State.forAll_keeps | apply State.abandon_keeps | apply State.iff_keeps
                            | apply State.firstWindow_keeps | apply State.latch_keeps | apply State.planRecord_keeps
                            | apply State.freezeLeg_keeps | apply State.freezePort_keeps | apply State.seqGoAll_keeps)
    | (with_reducible apply snd_keeps; with_reducible assumption)
    | (extract_lets -underBinder +onlyGivenNames x; first | (refine mp_keeps (s0 := s0) x ?_ ?_; unfold x; clear x; rotate_left; intro hx; clear_value x) | clear_value x)
    | split
    | intro _

theorem execFreezePoint_keeps (t : Nat) (g : Nat) (s0 : State) : s0.Completes (execFreezePoint t g s0) := by
  unfold execFreezePoint
  repeat' first
    | (with_reducible first | assumption | apply act_keeps | apply actIn_keeps | apply actAon_keeps | apply State.freeze_keeps)
    | (with_reducible apply snd_keeps; with_reducible assumption)
    | (extract_lets -underBinder +onlyGivenNames x; first | (refine mp_keeps (s0 := s0) x ?_ ?_; unfold x; clear x; rotate_left; intro hx; clear_value x) | clear_value x)
    | split
    | intro _

theorem State.lineUpdate_keeps (h : s0.Keeps s) (n : Nat) (hits : List Nat) : s0.Keeps (State.lineUpdate s n hits) := by
  unfold State.lineUpdate
  repeat' first
    | (with_reducible first | assumption | apply State.modLine_keeps | apply State.setRb_keeps | apply State.iff_keeps
                            | apply State.raise_keeps)
    | (with_reducible apply snd_keeps; with_reducible assumption)
    | (extract_lets -underBinder +onlyGivenNames x; first | (refine mp_keeps (s0 := s0) x ?_ ?_; unfold x; clear x; rotate_left; intro hx; clear_value x) | clear_value x)
    | split
    | intro _
    | (with_reducible apply Keeps.of_same; with_reducible assumption; rfl; rfl; rfl; rfl; rfl; rfl)

theorem execDelayLineUpdate_keeps (t : Nat) (n : Nat) (hits : List Nat) (s0 : State) : s0.Completes (execDelayLineUpdate t n hits s0) := by
  unfold execDelayLineUpdate
  repeat' first
    | (with_reducible first | assumption | apply act_keeps | apply actIn_keeps | apply actAon_keeps | apply State.lineUpdate_keeps)
    | (with_reducible apply snd_keeps; with_reducible assumption)
    | (extract_lets -underBinder +onlyGivenNames x; first | (refine mp_keeps (s0 := s0) x ?_ ?_; unfold x; clear x; rotate_left; intro hx; clear_value x) | clear_value x)
    | split
    | intro _

theorem execCalibrateDelayLine_keeps (t : Nat) (s0 : State) : s0.Completes (execCalibrateDelayLine t s0) := by
  unfold execCalibrateDelayLine
  repeat' first
    | (with_reducible first | assumption | apply act_keeps | apply actIn_keeps | apply actAon_keeps | apply State.onFired_keeps
                            | apply State.forAll_keeps | apply State.modLine_keeps)
    | (with_reducible apply snd_keeps; with_reducible assumption)
    | (extract_lets -underBinder +onlyGivenNames x; first | (refine mp_keeps (s0 := s0) x ?_ ?_; unfold x; clear x; rotate_left; intro hx; clear_value x) | clear_value x)
    | split
    | intro _
    | (with_reducible apply Keeps.of_same; with_reducible assumption; rfl; rfl; rfl; rfl; rfl; rfl)

theorem State.legOut_keeps (h : s0.Keeps s) (n : Nat) (v : Bool) : s0.Keeps (State.legOut s n v) := by
  unfold State.legOut
  repeat' first
    | (with_reducible first | assumption | apply State.modLg_keeps | apply State.iff_keeps | apply State.forAll_keeps
                            | apply State.modSw_keeps)
    | (with_reducible apply snd_keeps; with_reducible assumption)
    | (extract_lets -underBinder +onlyGivenNames x; first | (refine mp_keeps (s0 := s0) x ?_ ?_; unfold x; clear x; rotate_left; intro hx; clear_value x) | clear_value x)
    | split
    | (intro _ w; first | exact w | exact Bool.noConfusion w | (split at w <;> first | exact w | exact Bool.noConfusion w))
    | intro _
    | (with_reducible apply Keeps.of_same; with_reducible assumption; rfl; rfl; rfl; rfl; rfl; rfl)

theorem State.legPair_keeps (h : s0.Keeps s) (n : Nat) : s0.Keeps (State.legPair s n) := by
  unfold State.legPair
  repeat' first
    | (with_reducible first | assumption | apply State.iff_keeps | apply State.modPst_keeps | apply State.modLg_keeps)
    | (with_reducible apply snd_keeps; with_reducible assumption)
    | (extract_lets -underBinder +onlyGivenNames x; first | (refine mp_keeps (s0 := s0) x ?_ ?_; unfold x; clear x; rotate_left; intro hx; clear_value x) | clear_value x)
    | split
    | intro _
    | (with_reducible apply Keeps.of_same; with_reducible assumption; rfl; rfl; rfl; rfl; rfl; rfl)

theorem State.legBoundary_keeps (h : s0.Keeps s) (n : Nat) : s0.Keeps (State.legBoundary s n) := by
  unfold State.legBoundary
  repeat' first
    | (with_reducible first | assumption | apply State.iff_keeps | apply State.legOut_keeps | apply State.legHeld_keeps
                            | apply State.legBack_keeps | apply State.legPair_keeps)
    | (with_reducible apply snd_keeps; with_reducible assumption)
    | (extract_lets -underBinder +onlyGivenNames x; first | (refine mp_keeps (s0 := s0) x ?_ ?_; unfold x; clear x; rotate_left; intro hx; clear_value x) | clear_value x)
    | split
    | intro _
    | (with_reducible apply Keeps.of_same; with_reducible assumption; rfl; rfl; rfl; rfl; rfl; rfl)

theorem State.groupStop_keeps (h : s0.Keeps s) (g : Nat) : s0.Keeps (State.groupStop s g) := by
  unfold State.groupStop
  repeat' first
    | (with_reducible first | assumption | apply State.modGrp_keeps | apply State.forAll_keeps | apply State.modPst_keeps
                            | apply State.iff_keeps | apply State.modPmu_keeps)
    | (with_reducible apply snd_keeps; with_reducible assumption)
    | (extract_lets -underBinder +onlyGivenNames x; first | (refine mp_keeps (s0 := s0) x ?_ ?_; unfold x; clear x; rotate_left; intro hx; clear_value x) | clear_value x)
    | split
    | intro _
    | (with_reducible apply Keeps.of_same; with_reducible assumption; rfl; rfl; rfl; rfl; rfl; rfl)

theorem State.groupOff_keeps (h : s0.Keeps s) (g : Nat) : s0.Keeps (State.groupOff s g) := by
  unfold State.groupOff
  repeat' first
    | (with_reducible first | assumption | apply State.groupStop_keeps | apply State.modGrp_keeps)
    | (with_reducible apply snd_keeps; with_reducible assumption)
    | (extract_lets -underBinder +onlyGivenNames x; first | (refine mp_keeps (s0 := s0) x ?_ ?_; unfold x; clear x; rotate_left; intro hx; clear_value x) | clear_value x)
    | split
    | intro _
    | (with_reducible apply Keeps.of_same; with_reducible assumption; rfl; rfl; rfl; rfl; rfl; rfl)

theorem execGroupBoundary_keeps (t : Nat) (g : Nat) (hits : List (List Nat)) (s0 : State) : s0.Completes (execGroupBoundary t g hits s0) := by
  unfold execGroupBoundary
  repeat' first
    | (with_reducible first | assumption | apply act_keeps | apply actIn_keeps | apply actAon_keeps | apply State.modGrp_keeps
                            | apply State.forAll_keeps | apply State.legBoundary_keeps | apply State.lineUpdate_keeps
                            | apply State.iff_keeps | apply State.groupStop_keeps | apply foldl_keeps | apply foldl_snd_keeps
                            | apply foldl_fst_keeps)
    | (with_reducible apply snd_keeps; with_reducible assumption)
    | (extract_lets -underBinder +onlyGivenNames x; first | (refine mp_keeps (s0 := s0) x ?_ ?_; unfold x; clear x; rotate_left; intro hx; clear_value x) | clear_value x)
    | split
    | intro _
    | (with_reducible apply Keeps.of_same; with_reducible assumption; rfl; rfl; rfl; rfl; rfl; rfl)

/-! ### Joining -/

theorem State.runPeriod_keeps (h : s0.Keeps s) (p : Prog) (t : Nat) : s0.Keeps (State.runPeriod s p t) := by
  unfold State.runPeriod
  repeat' first
    | (with_reducible first | assumption | apply State.modTask_keeps | apply State.runStep_keeps | apply State.handOver_keeps
                            | apply State.trace_keeps | apply State.commit_keeps | apply foldl_keeps | apply foldl_snd_keeps
                            | apply foldl_fst_keeps)
    | (with_reducible apply snd_keeps; with_reducible assumption)
    | (extract_lets -underBinder +onlyGivenNames x; first | (refine mp_keeps (s0 := s0) x ?_ ?_; unfold x; clear x; rotate_left; intro hx; clear_value x) | clear_value x)
    | split
    | intro _
    | (with_reducible apply Keeps.of_same; with_reducible assumption; rfl; rfl; rfl; rfl; rfl; rfl)

theorem State.missedPeriod_keeps (h : s0.Keeps s) (r : Bytes) : s0.Keeps (State.missedPeriod s r) := by
  unfold State.missedPeriod
  repeat' first
    | (with_reducible first | assumption | apply State.modPair_keeps | apply State.setReg_keeps | apply State.modTask_keeps
                            | apply State.sealFromPeer_keeps | apply State.runPeriod_keeps)
    | (with_reducible apply snd_keeps; with_reducible assumption)
    | (extract_lets -underBinder +onlyGivenNames x; first | (refine mp_keeps (s0 := s0) x ?_ ?_; unfold x; clear x; rotate_left; intro hx; clear_value x) | clear_value x)
    | split
    | intro _
    | (with_reducible apply Keeps.of_same; with_reducible assumption; rfl; rfl; rfl; rfl; rfl; rfl)

theorem State.makeUp_keeps (h : s0.Keeps s) (l : List Missed) : s0.Keeps (State.makeUp s l) := by
  unfold State.makeUp
  repeat' first
    | (with_reducible first | assumption | apply State.missedPeriod_keeps | apply State.freeze_keeps | apply foldl_keeps
                            | apply foldl_snd_keeps | apply foldl_fst_keeps)
    | (with_reducible apply snd_keeps; with_reducible assumption)
    | (extract_lets -underBinder +onlyGivenNames x; first | (refine mp_keeps (s0 := s0) x ?_ ?_; unfold x; clear x; rotate_left; intro hx; clear_value x) | clear_value x)
    | split
    | intro _
    | (with_reducible apply Keeps.of_same; with_reducible assumption; rfl; rfl; rfl; rfl; rfl; rfl)

theorem State.install_keeps (h : s0.Keeps s) (nums : List Nat) : s0.Keeps (State.install s nums) := by
  unfold State.install
  repeat' first
    | (with_reducible first | assumption | apply State.takeSnapshot_keeps | apply State.makeUp_keeps | apply State.modPair_keeps)
    | (with_reducible apply snd_keeps; with_reducible assumption)
    | (extract_lets -underBinder +onlyGivenNames x; first | (refine mp_keeps (s0 := s0) x ?_ ?_; unfold x; clear x; rotate_left; intro hx; clear_value x) | clear_value x)
    | split
    | intro _
    | (with_reducible apply Keeps.of_same; with_reducible assumption; rfl; rfl; rfl; rfl; rfl; rfl)

/-! ### Legs -/

theorem State.pinItem_keeps (h : s0.Keeps s) (n : Nat) (at_ : Nat) (v : Bool) : s0.Keeps (State.pinItem s n at_ v) := by
  unfold State.pinItem
  repeat' first
    | (with_reducible first | assumption | apply State.iff_keeps | apply State.capRaw_keeps)
    | (with_reducible apply snd_keeps; with_reducible assumption)
    | (extract_lets -underBinder +onlyGivenNames x; first | (refine mp_keeps (s0 := s0) x ?_ ?_; unfold x; clear x; rotate_left; intro hx; clear_value x) | clear_value x)
    | split
    | intro _

theorem State.refuseOn_keeps (h : s0.Keeps s) (n : Nat) : s0.Keeps (State.refuseOn s n) := by
  unfold State.refuseOn
  repeat' first
    | (with_reducible first | assumption | apply State.modSw_keeps | apply State.raise_keeps | apply State.healthCount_keeps)
    | (with_reducible apply snd_keeps; with_reducible assumption)
    | (extract_lets -underBinder +onlyGivenNames x; first | (refine mp_keeps (s0 := s0) x ?_ ?_; unfold x; clear x; rotate_left; intro hx; clear_value x) | clear_value x)
    | split
    | (intro _ w; first | exact w | exact Bool.noConfusion w | (split at w <;> first | exact w | exact Bool.noConfusion w))
    | intro _
    | (with_reducible apply Keeps.of_same; with_reducible assumption; rfl; rfl; rfl; rfl; rfl; rfl)

/-- A switch may turn on while its partner is off. -/
theorem State.modSwOn_keeps (h : s0.Keeps s) (n : Nat) (f : Sw → Sw) (off : (s.sw (if n % 2 = 0 then n + 1 else n - 1)).on = false) :
    s0.Keeps (s.modSw n f) := by
  refine ⟨h.1, h.2, h.3, h.4, h.5, fun w m hm => ?_⟩
  have read : ∀ j, j ≠ n → (s.modSw n f).sw j = s.sw j := fun j hj => tget_tput_ne _ _ _ hj
  by_cases e : n = 2 * m
  · subst e
    rw [if_pos (by omega)] at off
    rw [read (2 * m + 1) (by omega), off] at hm
    exact Bool.noConfusion hm.2
  · by_cases e' : n = 2 * m + 1
    · subst e'
      rw [if_neg (by omega), show 2 * m + 1 - 1 = 2 * m by omega] at off
      rw [read (2 * m) (by omega), off] at hm
      exact Bool.noConfusion hm.1
    · rw [read (2 * m) (Ne.symm e), read (2 * m + 1) (Ne.symm e')] at hm
      exact h.6 w m hm

/-- An on-edge that passes the interlock finds the partner off (R261). -/
theorem State.interlocked_partner (n at_ : Nat) (h : ¬s.interlocked n at_ = true) :
    (s.sw (if n % 2 = 0 then n + 1 else n - 1)).on = false := by
  unfold State.interlocked at h
  simp only [Bool.or_eq_true, not_or] at h
  simpa using h.1.1

theorem State.applyEdge_keeps (h : s0.Keeps s) (n at_ : Nat) (e : LEdge) (clash : Bool) : s0.Keeps (s.applyEdge n at_ e clash) := by
  unfold State.applyEdge
  dsimp only
  generalize s.sw (if n % 2 = 0 then n + 1 else n - 1) = partner
  split
  · have hs : s0.Keeps (s.iff ((s.sw n).latch && !e.refresh && (s.sw n).desatAt != some (at_ / 32)) fun t =>
        t.modSw n fun w => { w with latch := false }) :=
      State.iff_keeps h _ _ fun x hx => State.modSw_keeps hx _ _ fun w hw => hw
    split
    · exact State.pinItem_keeps (State.modSw_keeps hs _ _ fun w hw => Bool.noConfusion hw) _ _ _
    · exact hs
  · split
    · exact h
    · split
      · exact State.refuseOn_keeps h _
      · split
        · exact h
        · split
          · exact State.refuseOn_keeps h _
          · next hi => exact State.pinItem_keeps (State.modSwOn_keeps h _ _ (State.interlocked_partner n at_ hi)) _ _ _

theorem execLocalEdge_keeps (t : Nat) (n : Nat) (s0 : State) : s0.Completes (execLocalEdge t n s0) := by
  unfold execLocalEdge
  repeat' first
    | (with_reducible first | assumption | apply act_keeps | apply actIn_keeps | apply actAon_keeps | apply State.modGce_keeps
                            | apply State.applyEdge_keeps | apply hf1 | apply hf2 | apply hf3 | apply foldl_keeps
                            | apply foldl_snd_keeps | apply foldl_fst_keeps)
    | (with_reducible apply snd_keeps; with_reducible assumption)
    | (extract_lets -underBinder +onlyGivenNames x; first | (refine mp_keeps (s0 := s0) x ?_ ?_; unfold x; clear x; rotate_left; intro hx; clear_value x) | (refine mp1_keeps (s0 := s0) x ?_ ?_; unfold x; clear x; rotate_left; intro hf1; clear_value x) | (refine mp2_keeps (s0 := s0) x ?_ ?_; unfold x; clear x; rotate_left; intro hf2; clear_value x) | (refine mp3_keeps (s0 := s0) x ?_ ?_; unfold x; clear x; rotate_left; intro hf3; clear_value x) | clear_value x)
    | split
    | intro _
    | (with_reducible apply Keeps.of_same; with_reducible assumption; rfl; rfl; rfl; rfl; rfl; rfl)

theorem State.writeOutEn_keeps (h : s0.Keeps s) (v : Word) : s0.Keeps (State.writeOutEn s v) := by
  unfold State.writeOutEn
  repeat' first
    | (with_reducible first | assumption | apply State.setReg_keeps | apply State.forAll_keeps | apply State.legOut_keeps)
    | (with_reducible apply snd_keeps; with_reducible assumption)
    | (extract_lets -underBinder +onlyGivenNames x; first | (refine mp_keeps (s0 := s0) x ?_ ?_; unfold x; clear x; rotate_left; intro hx; clear_value x) | clear_value x)
    | split
    | intro _

theorem execLegOutEnWrite_keeps (t : Nat) (v : Word) (s0 : State) : s0.Completes (execLegOutEnWrite t v s0) := by
  unfold execLegOutEnWrite
  repeat' first
    | (with_reducible first | assumption | apply act_keeps | apply actIn_keeps | apply actAon_keeps | apply State.iff_keeps
                            | apply State.writeOutEn_keeps)
    | (with_reducible apply snd_keeps; with_reducible assumption)
    | (extract_lets -underBinder +onlyGivenNames x; first | (refine mp_keeps (s0 := s0) x ?_ ?_; unfold x; clear x; rotate_left; intro hx; clear_value x) | clear_value x)
    | split
    | intro _

theorem execLegRdyLoss_keeps (t : Nat) (p : PinIn) (s0 : State) : s0.Completes (execLegRdyLoss t p s0) := by
  unfold execLegRdyLoss
  repeat' first
    | (with_reducible first | assumption | apply act_keeps | apply actIn_keeps | apply actAon_keeps | apply State.modLg_keeps
                            | apply State.forAll_keeps | apply State.modSw_keeps | apply State.raise_keeps
                            | apply State.healthCount_keeps)
    | (with_reducible apply snd_keeps; with_reducible assumption)
    | (extract_lets -underBinder +onlyGivenNames x; first | (refine mp_keeps (s0 := s0) x ?_ ?_; unfold x; clear x; rotate_left; intro hx; clear_value x) | clear_value x)
    | split
    | (intro _ w; first | exact w | exact Bool.noConfusion w | (split at w <;> first | exact w | exact Bool.noConfusion w))
    | intro _
    | (with_reducible apply Keeps.of_same; with_reducible assumption; rfl; rfl; rfl; rfl; rfl; rfl)

theorem execLegRdyReturn_keeps (t : Nat) (p : PinIn) (s0 : State) : s0.Completes (execLegRdyReturn t p s0) := by
  unfold execLegRdyReturn
  repeat' first
    | (with_reducible first | assumption | apply act_keeps | apply actIn_keeps | apply actAon_keeps | apply State.modLg_keeps)
    | (with_reducible apply snd_keeps; with_reducible assumption)
    | (extract_lets -underBinder +onlyGivenNames x; first | (refine mp_keeps (s0 := s0) x ?_ ?_; unfold x; clear x; rotate_left; intro hx; clear_value x) | clear_value x)
    | split
    | intro _
    | (with_reducible apply Keeps.of_same; with_reducible assumption; rfl; rfl; rfl; rfl; rfl; rfl)

theorem execBlankingEnd_keeps (t : Nat) (n : Nat) (s0 : State) : s0.Completes (execBlankingEnd t n s0) := by
  unfold execBlankingEnd
  repeat' first
    | (with_reducible first | assumption | apply act_keeps | apply actIn_keeps | apply actAon_keeps | apply State.modSw_keeps)
    | (with_reducible apply snd_keeps; with_reducible assumption)
    | (extract_lets -underBinder +onlyGivenNames x; first | (refine mp_keeps (s0 := s0) x ?_ ?_; unfold x; clear x; rotate_left; intro hx; clear_value x) | clear_value x)
    | split
    | (intro _ w; first | exact w | exact Bool.noConfusion w | (split at w <;> first | exact w | exact Bool.noConfusion w))
    | intro _
    | (with_reducible apply Keeps.of_same; with_reducible assumption; rfl; rfl; rfl; rfl; rfl; rfl)

theorem execDesaturation_keeps (t : Nat) (p : PinIn) (s0 : State) : s0.Completes (execDesaturation t p s0) := by
  unfold execDesaturation
  repeat' first
    | (with_reducible first | assumption | apply act_keeps | apply actIn_keeps | apply actAon_keeps | apply State.softOff_keeps
                            | apply State.modSw_keeps | apply State.raise_keeps | apply State.healthCount_keeps)
    | (with_reducible apply snd_keeps; with_reducible assumption)
    | (extract_lets -underBinder +onlyGivenNames x; first | (refine mp_keeps (s0 := s0) x ?_ ?_; unfold x; clear x; rotate_left; intro hx; clear_value x) | clear_value x)
    | split
    | (intro _ w; first | exact w | exact Bool.noConfusion w | (split at w <;> first | exact w | exact Bool.noConfusion w))
    | intro _
    | (with_reducible apply Keeps.of_same; with_reducible assumption; rfl; rfl; rfl; rfl; rfl; rfl)

theorem execSoftOffHoldEnd_keeps (t : Nat) (n : Nat) (s0 : State) : s0.Completes (execSoftOffHoldEnd t n s0) := by
  unfold execSoftOffHoldEnd
  repeat' first
    | (with_reducible first | assumption | apply act_keeps | apply actIn_keeps | apply actAon_keeps | apply State.modSw_keeps)
    | (with_reducible apply snd_keeps; with_reducible assumption)
    | (extract_lets -underBinder +onlyGivenNames x; first | (refine mp_keeps (s0 := s0) x ?_ ?_; unfold x; clear x; rotate_left; intro hx; clear_value x) | clear_value x)
    | split
    | (intro _ w; first | exact w | exact Bool.noConfusion w | (split at w <;> first | exact w | exact Bool.noConfusion w))
    | intro _
    | (with_reducible apply Keeps.of_same; with_reducible assumption; rfl; rfl; rfl; rfl; rfl; rfl)

theorem State.writeBootEmpty_keeps (h : s0.Keeps s) (w : Nat) (v : Word) : s0.Keeps (State.writeBootEmpty s w v) := by
  unfold State.writeBootEmpty
  repeat' first
    | (with_reducible first | assumption | apply State.forAll_keeps | apply State.iff_keeps | apply State.setRb_keeps)
    | (with_reducible apply snd_keeps; with_reducible assumption)
    | (extract_lets -underBinder +onlyGivenNames x; first | (refine mp_keeps (s0 := s0) x ?_ ?_; unfold x; clear x; rotate_left; intro hx; clear_value x) | clear_value x)
    | split
    | intro _

theorem execLegBootEmptyClear_keeps (t : Nat) (w : Nat) (v : Word) (s0 : State) : s0.Completes (execLegBootEmptyClear t w v s0) := by
  unfold execLegBootEmptyClear
  repeat' first
    | (with_reducible first | assumption | apply act_keeps | apply actIn_keeps | apply actAon_keeps | apply State.iff_keeps
                            | apply State.writeBootEmpty_keeps)
    | (with_reducible apply snd_keeps; with_reducible assumption)
    | (extract_lets -underBinder +onlyGivenNames x; first | (refine mp_keeps (s0 := s0) x ?_ ?_; unfold x; clear x; rotate_left; intro hx; clear_value x) | clear_value x)
    | split
    | intro _

/-! ### Safety -/

theorem State.consLost_keeps (h : s0.Keeps s) (k : Nat) : s0.Keeps (State.consLost s k) := by
  unfold State.consLost
  repeat' first
    | (with_reducible first | assumption | apply State.raise_keeps)
    | (with_reducible apply snd_keeps; with_reducible assumption)
    | (extract_lets -underBinder +onlyGivenNames x; first | (refine mp_keeps (s0 := s0) x ?_ ?_; unfold x; clear x; rotate_left; intro hx; clear_value x) | clear_value x)
    | split
    | intro _

theorem State.consume_keeps (h : s0.Keeps s) (k : Nat) (b : Bytes) : s0.Keeps ((State.consume s k b).2) := by
  unfold State.consume
  dsimp only
  repeat' first
    | (with_reducible first | assumption | apply State.bump_keeps | apply State.modCons_keeps | apply State.iff_keeps
                            | apply State.consLost_keeps | apply hf1 | apply hf2 | apply hf3)
    | (with_reducible apply snd_keeps; with_reducible assumption)
    | split
    | intro _
    | (with_reducible apply Keeps.of_same; with_reducible assumption; rfl; rfl; rfl; rfl; rfl; rfl)

theorem State.consExpire_keeps (h : s0.Keeps s) (k : Nat) : s0.Keeps (State.consExpire s k) := by
  unfold State.consExpire
  repeat' first
    | (with_reducible first | assumption | apply State.modCons_keeps | apply State.iff_keeps | apply State.consLost_keeps)
    | (with_reducible apply snd_keeps; with_reducible assumption)
    | (extract_lets -underBinder +onlyGivenNames x; first | (refine mp_keeps (s0 := s0) x ?_ ?_; unfold x; clear x; rotate_left; intro hx; clear_value x) | clear_value x)
    | split
    | intro _
    | (with_reducible apply Keeps.of_same; with_reducible assumption; rfl; rfl; rfl; rfl; rfl; rfl)

theorem State.cellStatus_keeps (h : s0.Keeps s) (p : Nat) (b : Bytes) : s0.Keeps (State.cellStatus s p b) := by
  unfold State.cellStatus
  repeat' first
    | (with_reducible first | assumption | apply State.consume_keeps)
    | (with_reducible apply snd_keeps; with_reducible assumption)
    | (extract_lets -underBinder +onlyGivenNames x; first | (refine mp_keeps (s0 := s0) x ?_ ?_; unfold x; clear x; rotate_left; intro hx; clear_value x) | clear_value x)
    | split
    | intro _

theorem State.channelFault_keeps (h : s0.Keeps s)  : s0.Keeps (State.channelFault s) := by
  unfold State.channelFault
  repeat' first
    | (with_reducible first | assumption | apply State.modSaf_keeps | apply State.stopRequest_keeps | apply State.raise_keeps)
    | (with_reducible apply snd_keeps; with_reducible assumption)
    | (extract_lets -underBinder +onlyGivenNames x; first | (refine mp_keeps (s0 := s0) x ?_ ?_; unfold x; clear x; rotate_left; intro hx; clear_value x) | clear_value x)
    | split
    | intro _
    | (with_reducible apply Keeps.of_same; with_reducible assumption; rfl; rfl; rfl; rfl; rfl; rfl)

theorem execChannelASilence_keeps (t : Nat) (s0 : State) : s0.Completes (execChannelASilence t s0) := by
  unfold execChannelASilence
  repeat' first
    | (with_reducible first | assumption | apply act_keeps | apply actIn_keeps | apply actAon_keeps
                            | apply State.channelFault_keeps | apply State.modSaf_keeps)
    | (with_reducible apply snd_keeps; with_reducible assumption)
    | (extract_lets -underBinder +onlyGivenNames x; first | (refine mp_keeps (s0 := s0) x ?_ ?_; unfold x; clear x; rotate_left; intro hx; clear_value x) | clear_value x)
    | split
    | intro _
    | (with_reducible apply Keeps.of_same; with_reducible assumption; rfl; rfl; rfl; rfl; rfl; rfl)

theorem State.outputFault_keeps (h : s0.Keeps s) (j : Nat) : s0.Keeps (State.outputFault s j) := by
  unfold State.outputFault
  repeat' first
    | (with_reducible first | assumption | apply State.modSaf_keeps | apply State.raise_keeps)
    | (with_reducible apply snd_keeps; with_reducible assumption)
    | (extract_lets -underBinder +onlyGivenNames x; first | (refine mp_keeps (s0 := s0) x ?_ ?_; unfold x; clear x; rotate_left; intro hx; clear_value x) | clear_value x)
    | split
    | intro _
    | (with_reducible apply Keeps.of_same; with_reducible assumption; rfl; rfl; rfl; rfl; rfl; rfl)

theorem State.judgeOutput_keeps (h : s0.Keeps s) (inp : SafetyIn) (j : Nat) (on : Bool) : s0.Keeps (State.judgeOutput s inp j on) := by
  unfold State.judgeOutput
  repeat' first
    | (with_reducible first | assumption | apply State.modSaf_keeps | apply State.iff_keeps | apply State.outputFault_keeps)
    | (with_reducible apply snd_keeps; with_reducible assumption)
    | (extract_lets -underBinder +onlyGivenNames x; first | (refine mp_keeps (s0 := s0) x ?_ ?_; unfold x; clear x; rotate_left; intro hx; clear_value x) | clear_value x)
    | split
    | intro _
    | (with_reducible apply Keeps.of_same; with_reducible assumption; rfl; rfl; rfl; rfl; rfl; rfl)

theorem State.outputs_keeps (h : s0.Keeps s) (inp : SafetyIn) (ack : Bool) : s0.Keeps (State.outputs s inp ack) := by
  unfold State.outputs
  repeat' first
    | (with_reducible first | assumption | apply State.modSaf_keeps | apply State.forAll_keeps | apply State.judgeOutput_keeps
                            | apply hf1 | apply hf2 | apply hf3)
    | (with_reducible apply snd_keeps; with_reducible assumption)
    | (extract_lets -underBinder +onlyGivenNames x; first | (refine mp_keeps (s0 := s0) x ?_ ?_; unfold x; clear x; rotate_left; intro hx; clear_value x) | (refine mp1_keeps (s0 := s0) x ?_ ?_; unfold x; clear x; rotate_left; intro hf1; clear_value x) | (refine mp2_keeps (s0 := s0) x ?_ ?_; unfold x; clear x; rotate_left; intro hf2; clear_value x) | (refine mp3_keeps (s0 := s0) x ?_ ?_; unfold x; clear x; rotate_left; intro hf3; clear_value x) | clear_value x)
    | split
    | intro _
    | (with_reducible apply Keeps.of_same; with_reducible assumption; rfl; rfl; rfl; rfl; rfl; rfl)

theorem State.grantCycle_keeps (h : s0.Keeps s) (ack : Bool) : s0.Keeps (State.grantCycle s ack) := by
  unfold State.grantCycle
  repeat' first
    | (with_reducible first | assumption | apply State.modSaf_keeps | apply State.iff_keeps | apply State.stopRequest_keeps)
    | (with_reducible apply snd_keeps; with_reducible assumption)
    | (extract_lets -underBinder +onlyGivenNames x; first | (refine mp_keeps (s0 := s0) x ?_ ?_; unfold x; clear x; rotate_left; intro hx; clear_value x) | clear_value x)
    | split
    | intro _
    | (with_reducible apply Keeps.of_same; with_reducible assumption; rfl; rfl; rfl; rfl; rfl; rfl)

theorem State.produce_keeps (h : s0.Keeps s) (k : Nat) (id : Nat) (kind : Nat) (wd : Nat) (data : Bytes) : s0.Keeps ((State.produce s k id kind wd data).2) := by
  unfold State.produce
  repeat' first
    | (with_reducible first | assumption | apply State.modSaf_keeps)
    | (with_reducible apply snd_keeps; with_reducible assumption)
    | (extract_lets -underBinder +onlyGivenNames x; first | (refine mp_keeps (s0 := s0) x ?_ ?_; unfold x; clear x; rotate_left; intro hx; clear_value x) | clear_value x)
    | split
    | intro _
    | (with_reducible apply Keeps.of_same; with_reducible assumption; rfl; rfl; rfl; rfl; rfl; rfl)

theorem State.permissives_keeps (h : s0.Keeps s)  : s0.Keeps (State.permissives s) := by
  unfold State.permissives
  repeat' first
    | (with_reducible first | assumption | apply State.modSaf_keeps | apply State.forAll_keeps | apply State.produce_keeps)
    | (with_reducible apply snd_keeps; with_reducible assumption)
    | (extract_lets -underBinder +onlyGivenNames x; first | (refine mp_keeps (s0 := s0) x ?_ ?_; unfold x; clear x; rotate_left; intro hx; clear_value x) | clear_value x)
    | split
    | intro _
    | (with_reducible apply Keeps.of_same; with_reducible assumption; rfl; rfl; rfl; rfl; rfl; rfl)

theorem State.stationPdus_keeps (h : s0.Keeps s)  : s0.Keeps (State.stationPdus s) := by
  unfold State.stationPdus
  repeat' first
    | (with_reducible first | assumption | apply State.forAll_keeps | apply State.modSaf_keeps | apply State.produce_keeps
                            | apply State.emitRecord_keeps)
    | (with_reducible apply snd_keeps; with_reducible assumption)
    | (extract_lets -underBinder +onlyGivenNames x; first | (refine mp_keeps (s0 := s0) x ?_ ?_; unfold x; clear x; rotate_left; intro hx; clear_value x) | clear_value x)
    | split
    | intro _
    | (with_reducible apply Keeps.of_same; with_reducible assumption; rfl; rfl; rfl; rfl; rfl; rfl)

theorem State.takePdus_keeps (h : s0.Keeps s)  : s0.Keeps (State.takePdus s) := by
  unfold State.takePdus
  repeat' first
    | (with_reducible first | assumption | apply State.modSaf_keeps | apply State.consume_keeps | apply State.finishRole_keeps
                            | apply foldl_keeps | apply foldl_snd_keeps | apply foldl_fst_keeps)
    | (with_reducible apply snd_keeps; with_reducible assumption)
    | (extract_lets -underBinder +onlyGivenNames x; first | (refine mp_keeps (s0 := s0) x ?_ ?_; unfold x; clear x; rotate_left; intro hx; clear_value x) | clear_value x)
    | split
    | intro _
    | (with_reducible apply Keeps.of_same; with_reducible assumption; rfl; rfl; rfl; rfl; rfl; rfl)

theorem State.inputs_keeps (h : s0.Keeps s) (inp : SafetyIn) : s0.Keeps ((State.inputs s inp).2) := by
  unfold State.inputs
  repeat' first
    | (with_reducible first | assumption | apply State.modSaf_keeps | apply State.forAll_keeps | apply State.raise_keeps
                            | apply foldl_keeps | apply foldl_snd_keeps | apply foldl_fst_keeps)
    | (with_reducible apply snd_keeps; with_reducible assumption)
    | (extract_lets -underBinder +onlyGivenNames x; first | (refine mp_keeps (s0 := s0) x ?_ ?_; unfold x; clear x; rotate_left; intro hx; clear_value x) | clear_value x)
    | split
    | intro _
    | (with_reducible apply Keeps.of_same; with_reducible assumption; rfl; rfl; rfl; rfl; rfl; rfl)

theorem execSafetyCycle_keeps (t : Nat) (inp : SafetyIn) (s0 : State) : s0.Completes (execSafetyCycle t inp s0) := by
  unfold execSafetyCycle
  repeat' first
    | (with_reducible first | assumption | apply act_keeps | apply actIn_keeps | apply actAon_keeps | apply State.modSaf_keeps
                            | apply State.forAll_keeps | apply State.consExpire_keeps | apply State.takePdus_keeps
                            | apply State.inputs_keeps | apply State.iff_keeps | apply State.channelFault_keeps
                            | apply State.outputs_keeps | apply State.grantCycle_keeps | apply State.permissives_keeps
                            | apply State.stationPdus_keeps)
    | (with_reducible apply snd_keeps; with_reducible assumption)
    | (extract_lets -underBinder +onlyGivenNames x; first | (refine mp_keeps (s0 := s0) x ?_ ?_; unfold x; clear x; rotate_left; intro hx; clear_value x) | clear_value x)
    | split
    | intro _
    | (with_reducible apply Keeps.of_same; with_reducible assumption; rfl; rfl; rfl; rfl; rfl; rfl)

theorem execConsumerWatchdog_keeps (t : Nat) (c : Nat) (s0 : State) : s0.Completes (execConsumerWatchdog t c s0) := by
  unfold execConsumerWatchdog
  repeat' first
    | (with_reducible first | assumption | apply act_keeps | apply actIn_keeps | apply actAon_keeps | apply State.consExpire_keeps)
    | (with_reducible apply snd_keeps; with_reducible assumption)
    | (extract_lets -underBinder +onlyGivenNames x; first | (refine mp_keeps (s0 := s0) x ?_ ?_; unfold x; clear x; rotate_left; intro hx; clear_value x) | clear_value x)
    | split
    | intro _

theorem execOutputTest_keeps (t : Nat) (j : Nat) (low : Bool) (h : Bool) (l : Bool) (s0 : State) : s0.Completes (execOutputTest t j low h l s0) := by
  unfold execOutputTest
  repeat' first
    | (with_reducible first | assumption | apply act_keeps | apply actIn_keeps | apply actAon_keeps | apply State.modSaf_keeps
                            | apply State.iff_keeps | apply State.outputFault_keeps)
    | (with_reducible apply snd_keeps; with_reducible assumption)
    | (extract_lets -underBinder +onlyGivenNames x; first | (refine mp_keeps (s0 := s0) x ?_ ?_; unfold x; clear x; rotate_left; intro hx; clear_value x) | clear_value x)
    | split
    | intro _
    | (with_reducible apply Keeps.of_same; with_reducible assumption; rfl; rfl; rfl; rfl; rfl; rfl)

theorem State.safOutClear_keeps (h : s0.Keeps s) (v : Word) : s0.Keeps (State.safOutClear s v) := by
  unfold State.safOutClear
  repeat' first
    | (with_reducible first | assumption | apply State.forAll_keeps | apply State.iff_keeps | apply State.modSaf_keeps)
    | (with_reducible apply snd_keeps; with_reducible assumption)
    | (extract_lets -underBinder +onlyGivenNames x; first | (refine mp_keeps (s0 := s0) x ?_ ?_; unfold x; clear x; rotate_left; intro hx; clear_value x) | clear_value x)
    | split
    | intro _
    | (with_reducible apply Keeps.of_same; with_reducible assumption; rfl; rfl; rfl; rfl; rfl; rfl)

theorem execSafOutClear_keeps (t : Nat) (v : Word) (s0 : State) : s0.Completes (execSafOutClear t v s0) := by
  unfold execSafOutClear
  repeat' first
    | (with_reducible first | assumption | apply act_keeps | apply actIn_keeps | apply actAon_keeps
                            | apply State.safOutClear_keeps)
    | (with_reducible apply snd_keeps; with_reducible assumption)
    | (extract_lets -underBinder +onlyGivenNames x; first | (refine mp_keeps (s0 := s0) x ?_ ?_; unfold x; clear x; rotate_left; intro hx; clear_value x) | clear_value x)
    | split
    | intro _

theorem State.safConfirm_keeps (h : s0.Keeps s) (v : Word) : s0.Keeps (State.safConfirm s v) := by
  unfold State.safConfirm
  repeat' first
    | (with_reducible first | assumption | apply State.modSaf_keeps | apply State.setReg_keeps | apply State.safConfirm_keeps
                            | apply State.measure_keeps | apply State.raise_keeps)
    | (with_reducible apply snd_keeps; with_reducible assumption)
    | (extract_lets -underBinder +onlyGivenNames x; first | (refine mp_keeps (s0 := s0) x ?_ ?_; unfold x; clear x; rotate_left; intro hx; clear_value x) | clear_value x)
    | split
    | intro _
    | (with_reducible apply Keeps.of_same; with_reducible assumption; rfl; rfl; rfl; rfl; rfl; rfl)

theorem execSafConfirm_keeps (t : Nat) (v : Word) (s0 : State) : s0.Completes (execSafConfirm t v s0) := by
  unfold execSafConfirm
  repeat' first
    | (with_reducible first | assumption | apply act_keeps | apply actIn_keeps | apply actAon_keeps | apply State.safConfirm_keeps)
    | (with_reducible apply snd_keeps; with_reducible assumption)
    | (extract_lets -underBinder +onlyGivenNames x; first | (refine mp_keeps (s0 := s0) x ?_ ?_; unfold x; clear x; rotate_left; intro hx; clear_value x) | clear_value x)
    | split
    | intro _

theorem State.unconfirm_keeps (h : s0.Keeps s)  : s0.Keeps (State.unconfirm s) := by
  unfold State.unconfirm
  repeat' first
    | (with_reducible first | assumption | apply State.modSaf_keeps | apply State.setReg_keeps | apply State.safConfirm_keeps)
    | (with_reducible apply snd_keeps; with_reducible assumption)
    | (extract_lets -underBinder +onlyGivenNames x; first | (refine mp_keeps (s0 := s0) x ?_ ?_; unfold x; clear x; rotate_left; intro hx; clear_value x) | clear_value x)
    | split
    | intro _
    | (with_reducible apply Keeps.of_same; with_reducible assumption; rfl; rfl; rfl; rfl; rfl; rfl)

theorem execSafetyPdu_keeps (t : Nat) (buf : Option Bytes) (s0 : State) : s0.Completes (execSafetyPdu t buf s0) := by
  unfold execSafetyPdu
  repeat' first
    | (with_reducible first | assumption | apply act_keeps | apply actIn_keeps | apply actAon_keeps | apply State.onTurn_keeps
                            | apply State.readBuf_keeps | apply State.holdAct_keeps | apply State.modSaf_keeps)
    | (with_reducible apply snd_keeps; with_reducible assumption)
    | (extract_lets -underBinder +onlyGivenNames x; first | (refine mp_keeps (s0 := s0) x ?_ ?_; unfold x; clear x; rotate_left; intro hx; clear_value x) | clear_value x)
    | split
    | intro _
    | (with_reducible apply Keeps.of_same; with_reducible assumption; rfl; rfl; rfl; rfl; rfl; rfl)

/-! ### Health -/

theorem State.startReturn_keeps (h : s0.Keeps s) (h : Nat) : s0.Keeps (State.startReturn s h) := by
  unfold State.startReturn
  repeat' first
    | (with_reducible first | assumption | apply State.modHealth1_keeps | apply State.modPort_keeps | apply State.legBack_keeps)
    | (with_reducible apply snd_keeps; with_reducible assumption)
    | (extract_lets -underBinder +onlyGivenNames x; first | (refine mp_keeps (s0 := s0) x ?_ ?_; unfold x; clear x; rotate_left; intro hx; clear_value x) | clear_value x)
    | split
    | intro _
    | (with_reducible apply Keeps.of_same; with_reducible assumption; rfl; rfl; rfl; rfl; rfl; rfl)

theorem State.tryReturn_keeps (h : s0.Keeps s) (h : Nat) : s0.Keeps ((State.tryReturn s h).2) := by
  unfold State.tryReturn
  repeat' first
    | (with_reducible first | assumption | apply State.modHealth1_keeps | apply State.raise_keeps | apply State.startReturn_keeps)
    | (with_reducible apply snd_keeps; with_reducible assumption)
    | (extract_lets -underBinder +onlyGivenNames x; first | (refine mp_keeps (s0 := s0) x ?_ ?_; unfold x; clear x; rotate_left; intro hx; clear_value x) | clear_value x)
    | split
    | intro _
    | (with_reducible apply Keeps.of_same; with_reducible assumption; rfl; rfl; rfl; rfl; rfl; rfl)

theorem State.heldReturn_keeps (h : s0.Keeps s) (p : Nat) : s0.Keeps (State.heldReturn s p) := by
  unfold State.heldReturn
  repeat' first
    | (with_reducible first | assumption | apply State.tryReturn_keeps)
    | (with_reducible apply snd_keeps; with_reducible assumption)
    | (extract_lets -underBinder +onlyGivenNames x; first | (refine mp_keeps (s0 := s0) x ?_ ?_; unfold x; clear x; rotate_left; intro hx; clear_value x) | clear_value x)
    | split
    | intro _

theorem State.returnRequest_keeps (h : s0.Keeps s) (h : Nat) : s0.Keeps ((State.returnRequest s h).2) := by
  unfold State.returnRequest
  repeat' first
    | (with_reducible first | assumption | apply State.raise_keeps | apply State.modHealth1_keeps | apply State.tryReturn_keeps)
    | (with_reducible apply snd_keeps; with_reducible assumption)
    | (extract_lets -underBinder +onlyGivenNames x; first | (refine mp_keeps (s0 := s0) x ?_ ?_; unfold x; clear x; rotate_left; intro hx; clear_value x) | clear_value x)
    | split
    | intro _
    | (with_reducible apply Keeps.of_same; with_reducible assumption; rfl; rfl; rfl; rfl; rfl; rfl)

theorem execHealthLeak_keeps (t : Nat) (kind : Nat) (s0 : State) : s0.Completes (execHealthLeak t kind s0) := by
  unfold execHealthLeak
  repeat' first
    | (with_reducible first | assumption | apply act_keeps | apply actIn_keeps | apply actAon_keeps | apply State.forAll_keeps
                            | apply State.modHealth1_keeps)
    | (with_reducible apply snd_keeps; with_reducible assumption)
    | (extract_lets -underBinder +onlyGivenNames x; first | (refine mp_keeps (s0 := s0) x ?_ ?_; unfold x; clear x; rotate_left; intro hx; clear_value x) | clear_value x)
    | split
    | intro _
    | (with_reducible apply Keeps.of_same; with_reducible assumption; rfl; rfl; rfl; rfl; rfl; rfl)

theorem execBypassDeadline_keeps (t : Nat) (p : Nat) (s0 : State) : s0.Completes (execBypassDeadline t p s0) := by
  unfold execBypassDeadline
  repeat' first
    | (with_reducible first | assumption | apply act_keeps | apply actIn_keeps | apply actAon_keeps | apply State.modHealth1_keeps
                            | apply State.raise_keeps | apply State.heldReturn_keeps)
    | (with_reducible apply snd_keeps; with_reducible assumption)
    | (extract_lets -underBinder +onlyGivenNames x; first | (refine mp_keeps (s0 := s0) x ?_ ?_; unfold x; clear x; rotate_left; intro hx; clear_value x) | clear_value x)
    | split
    | intro _
    | (with_reducible apply Keeps.of_same; with_reducible assumption; rfl; rfl; rfl; rfl; rfl; rfl)

theorem execReturnTimeout_keeps (t : Nat) (p : Nat) (s0 : State) : s0.Completes (execReturnTimeout t p s0) := by
  unfold execReturnTimeout
  repeat' first
    | (with_reducible first | assumption | apply act_keeps | apply actIn_keeps | apply actAon_keeps | apply State.iff_keeps
                            | apply State.returnFail_keeps)
    | (with_reducible apply snd_keeps; with_reducible assumption)
    | (extract_lets -underBinder +onlyGivenNames x; first | (refine mp_keeps (s0 := s0) x ?_ ?_; unfold x; clear x; rotate_left; intro hx; clear_value x) | clear_value x)
    | split
    | intro _

theorem execRetire_keeps (t : Nat) (s0 : State) : s0.Completes (execRetire t s0) := by
  unfold execRetire
  repeat' first
    | (with_reducible first | assumption | apply act_keeps | apply actIn_keeps | apply actAon_keeps | apply State.iff_keeps
                            | apply State.onTurn_keeps | apply State.holdAct_keeps | apply State.forward_keeps
                            | apply State.retireChannel_keeps | apply State.ends_keeps)
    | (with_reducible apply snd_keeps; with_reducible assumption)
    | (extract_lets -underBinder +onlyGivenNames x; first | (refine mp_keeps (s0 := s0) x ?_ ?_; unfold x; clear x; rotate_left; intro hx; clear_value x) | clear_value x)
    | split
    | intro _

theorem execReturnCh_keeps (t : Nat) (s0 : State) : s0.Completes (execReturnCh t s0) := by
  unfold execReturnCh
  repeat' first
    | (with_reducible first | assumption | apply act_keeps | apply actIn_keeps | apply actAon_keeps | apply State.iff_keeps
                            | apply State.onTurn_keeps | apply State.holdAct_keeps | apply State.forward_keeps
                            | apply State.returnRequest_keeps | apply State.ends_keeps)
    | (with_reducible apply snd_keeps; with_reducible assumption)
    | (extract_lets -underBinder +onlyGivenNames x; first | (refine mp_keeps (s0 := s0) x ?_ ?_; unfold x; clear x; rotate_left; intro hx; clear_value x) | clear_value x)
    | split
    | intro _

theorem execCellRetire_keeps (t : Nat) (s0 : State) : s0.Completes (execCellRetire t s0) := by
  unfold execCellRetire
  repeat' first
    | (with_reducible first | assumption | apply act_keeps | apply actIn_keeps | apply actAon_keeps | apply State.onFired_keeps
                            | apply State.forward_keeps | apply State.iff_keeps | apply State.retireChannel_keeps)
    | (with_reducible apply snd_keeps; with_reducible assumption)
    | (extract_lets -underBinder +onlyGivenNames x; first | (refine mp_keeps (s0 := s0) x ?_ ?_; unfold x; clear x; rotate_left; intro hx; clear_value x) | clear_value x)
    | split
    | intro _

theorem execCellReturn_keeps (t : Nat) (s0 : State) : s0.Completes (execCellReturn t s0) := by
  unfold execCellReturn
  repeat' first
    | (with_reducible first | assumption | apply act_keeps | apply actIn_keeps | apply actAon_keeps | apply State.onFired_keeps
                            | apply State.forward_keeps | apply State.iff_keeps | apply State.returnRequest_keeps)
    | (with_reducible apply snd_keeps; with_reducible assumption)
    | (extract_lets -underBinder +onlyGivenNames x; first | (refine mp_keeps (s0 := s0) x ?_ ?_; unfold x; clear x; rotate_left; intro hx; clear_value x) | clear_value x)
    | split
    | intro _

theorem State.writeHlth_keeps (h : s0.Keeps s) (h : Nat) (v : Word) : s0.Keeps (State.writeHlth s h v) := by
  unfold State.writeHlth
  repeat' first
    | (with_reducible first | assumption | apply State.iff_keeps | apply State.modHealth1_keeps)
    | (with_reducible apply snd_keeps; with_reducible assumption)
    | (extract_lets -underBinder +onlyGivenNames x; first | (refine mp_keeps (s0 := s0) x ?_ ?_; unfold x; clear x; rotate_left; intro hx; clear_value x) | clear_value x)
    | split
    | intro _
    | (with_reducible apply Keeps.of_same; with_reducible assumption; rfl; rfl; rfl; rfl; rfl; rfl)

theorem execLnkHlthClear_keeps (t : Nat) (h : Nat) (v : Word) (s0 : State) : s0.Completes (execLnkHlthClear t h v s0) := by
  unfold execLnkHlthClear
  repeat' first
    | (with_reducible first | assumption | apply act_keeps | apply actIn_keeps | apply actAon_keeps | apply State.iff_keeps
                            | apply State.writeHlth_keeps)
    | (with_reducible apply snd_keeps; with_reducible assumption)
    | (extract_lets -underBinder +onlyGivenNames x; first | (refine mp_keeps (s0 := s0) x ?_ ?_; unfold x; clear x; rotate_left; intro hx; clear_value x) | clear_value x)
    | split
    | intro _

end Sys2Proof.Machine
end

