-- ==== Sys2Proof/Laws/KeepsLink.lean ====
section
/-! SUPPORT. What every operation keeps (State.Keeps of Safety.lean), one lemma per operation and per command: the link, the mode steps and the pair frames. -/

namespace Sys2Proof.Machine

set_option linter.unusedTactic false
set_option linter.unreachableTactic false
set_option linter.unusedVariables false

variable {s0 s : State}

/-! ### Link -/

theorem State.slotFail_keeps (h : s0.Keeps s) (p : Nat) (r : SlotReq) : s0.Keeps (State.slotFail s p r) := by
  unfold State.slotFail
  repeat' first
    | (with_reducible first | assumption | apply State.modPort_keeps | apply State.finishRole_keeps
                            | apply State.portPushEvent_keeps)
    | (with_reducible apply snd_keeps; with_reducible assumption)
    | (extract_lets -underBinder +onlyGivenNames x; first | (refine mp_keeps (s0 := s0) x ?_ ?_; unfold x; clear x; rotate_left; intro hx; clear_value x) | clear_value x)
    | split
    | intro _
    | (with_reducible apply Keeps.of_same; with_reducible assumption; rfl; rfl; rfl; rfl; rfl; rfl)

theorem State.slotTake_keeps (h : s0.Keeps s) (p : Nat) (n : Nat) : s0.Keeps (State.slotTake s p n) := by
  unfold State.slotTake
  repeat' first
    | (with_reducible first | assumption | apply State.modPort_keeps | apply hf1 | apply hf2 | apply hf3)
    | (with_reducible apply snd_keeps; with_reducible assumption)
    | (extract_lets -underBinder +onlyGivenNames x; first | (refine mp_keeps (s0 := s0) x ?_ ?_; unfold x; clear x; rotate_left; intro hx; clear_value x) | (refine mp1_keeps (s0 := s0) x ?_ ?_; unfold x; clear x; rotate_left; intro hf1; clear_value x) | (refine mp2_keeps (s0 := s0) x ?_ ?_; unfold x; clear x; rotate_left; intro hf2; clear_value x) | (refine mp3_keeps (s0 := s0) x ?_ ?_; unfold x; clear x; rotate_left; intro hf3; clear_value x) | clear_value x)
    | split
    | intro _
    | (with_reducible apply Keeps.of_same; with_reducible assumption; rfl; rfl; rfl; rfl; rfl; rfl)

theorem State.slotSend_keeps (h : s0.Keeps s) (p : Nat) (n : Nat) : s0.Keeps ((State.slotSend s p n).2) := by
  unfold State.slotSend
  repeat' first
    | (with_reducible first | assumption | apply State.slotTake_keeps | apply State.slotFail_keeps | apply State.modPort_keeps)
    | (with_reducible apply snd_keeps; with_reducible assumption)
    | (extract_lets -underBinder +onlyGivenNames x; first | (refine mp_keeps (s0 := s0) x ?_ ?_; unfold x; clear x; rotate_left; intro hx; clear_value x) | clear_value x)
    | split
    | intro _
    | (with_reducible apply Keeps.of_same; with_reducible assumption; rfl; rfl; rfl; rfl; rfl; rfl)

theorem State.formFrame_keeps (h : s0.Keeps s) (p : Nat) (n : Nat) : s0.Keeps (State.formFrame s p n) := by
  unfold State.formFrame
  repeat' first
    | (with_reducible first | assumption | apply State.iff_keeps | apply State.modPort_keeps | apply State.slotSend_keeps)
    | (with_reducible apply snd_keeps; with_reducible assumption)
    | (extract_lets -underBinder +onlyGivenNames x; first | (refine mp_keeps (s0 := s0) x ?_ ?_; unfold x; clear x; rotate_left; intro hx; clear_value x) | clear_value x)
    | split
    | intro _
    | (with_reducible apply Keeps.of_same; with_reducible assumption; rfl; rfl; rfl; rfl; rfl; rfl)

theorem execDownstreamFrame_keeps (t : Nat) (p : Nat) (s0 : State) : s0.Completes (execDownstreamFrame t p s0) := by
  unfold execDownstreamFrame
  repeat' first
    | (with_reducible first | assumption | apply act_keeps | apply actIn_keeps | apply actAon_keeps | apply State.formFrame_keeps)
    | (with_reducible apply snd_keeps; with_reducible assumption)
    | (extract_lets -underBinder +onlyGivenNames x; first | (refine mp_keeps (s0 := s0) x ?_ ?_; unfold x; clear x; rotate_left; intro hx; clear_value x) | clear_value x)
    | split
    | intro _
    | (with_reducible apply Keeps.of_same; with_reducible assumption; rfl; rfl; rfl; rfl; rfl; rfl)

theorem State.newMean_keeps (h : s0.Keeps s) (p : Nat) (sum : Int) : s0.Keeps (State.newMean s p sum) := by
  unfold State.newMean
  repeat' first
    | (with_reducible first | assumption | apply State.modPort_keeps | apply State.portFault_keeps | apply State.toReady_keeps
                            | apply State.toAcquire_keeps)
    | (with_reducible apply snd_keeps; with_reducible assumption)
    | (extract_lets -underBinder +onlyGivenNames x; first | (refine mp_keeps (s0 := s0) x ?_ ?_; unfold x; clear x; rotate_left; intro hx; clear_value x) | clear_value x)
    | split
    | intro _
    | (with_reducible apply Keeps.of_same; with_reducible assumption; rfl; rfl; rfl; rfl; rfl; rfl)

theorem State.rttSample_keeps (h : s0.Keeps s) (p : Nat) (rtt : Int) : s0.Keeps (State.rttSample s p rtt) := by
  unfold State.rttSample
  repeat' first
    | (with_reducible first | assumption | apply State.modPort_keeps | apply State.newMean_keeps)
    | (with_reducible apply snd_keeps; with_reducible assumption)
    | (extract_lets -underBinder +onlyGivenNames x; first | (refine mp_keeps (s0 := s0) x ?_ ?_; unfold x; clear x; rotate_left; intro hx; clear_value x) | clear_value x)
    | split
    | intro _
    | (with_reducible apply Keeps.of_same; with_reducible assumption; rfl; rfl; rfl; rfl; rfl; rfl)

theorem State.upState_keeps (h : s0.Keeps s) (p : Nat) (echo : Nat) (rtt : Int) : s0.Keeps (State.upState s p echo rtt) := by
  unfold State.upState
  repeat' first
    | (with_reducible first | assumption | apply State.portFault_keeps | apply State.modPort_keeps | apply State.rttSample_keeps)
    | (with_reducible apply snd_keeps; with_reducible assumption)
    | (extract_lets -underBinder +onlyGivenNames x; first | (refine mp_keeps (s0 := s0) x ?_ ?_; unfold x; clear x; rotate_left; intro hx; clear_value x) | clear_value x)
    | split
    | intro _
    | (with_reducible apply Keeps.of_same; with_reducible assumption; rfl; rfl; rfl; rfl; rfl; rfl)

theorem State.upTele_keeps (h : s0.Keeps s) (p : Nat) (rx : Nat) (n : Nat) (b : Bytes) (u : UpF) : s0.Keeps (State.upTele s p rx n b u) := by
  unfold State.upTele
  repeat' first
    | (with_reducible first | assumption | apply State.modMill_keeps | apply State.capRaw_keeps | apply State.seqTele_keeps
                            | apply State.modPort_keeps)
    | (with_reducible apply snd_keeps; with_reducible assumption)
    | (extract_lets -underBinder +onlyGivenNames x; first | (refine mp_keeps (s0 := s0) x ?_ ?_; unfold x; clear x; rotate_left; intro hx; clear_value x) | clear_value x)
    | split
    | intro _
    | (with_reducible apply Keeps.of_same; with_reducible assumption; rfl; rfl; rfl; rfl; rfl; rfl)

theorem State.upEvent_keeps (h : s0.Keeps s) (p : Nat) (n : Nat) (w : Nat) : s0.Keeps (State.upEvent s p n w) := by
  unfold State.upEvent
  repeat' first
    | (with_reducible first | assumption | apply State.raise_keeps | apply State.capRaw_keeps | apply State.seqEvent_keeps
                            | apply State.iff_keeps | apply State.healthCount_keeps | apply State.startReturn_keeps
                            | apply State.portPushEvent_keeps)
    | (with_reducible apply snd_keeps; with_reducible assumption)
    | (extract_lets -underBinder +onlyGivenNames x; first | (refine mp_keeps (s0 := s0) x ?_ ?_; unfold x; clear x; rotate_left; intro hx; clear_value x) | clear_value x)
    | split
    | intro _

theorem State.fwDone_keeps (h : s0.Keeps s) (p : Nat) (r : SlotReq) : s0.Keeps (State.fwDone s p r) := by
  unfold State.fwDone
  repeat' first
    | (with_reducible first | assumption | apply State.modPort_keeps | apply foldl_keeps | apply foldl_snd_keeps
                            | apply foldl_fst_keeps)
    | (with_reducible apply snd_keeps; with_reducible assumption)
    | (extract_lets -underBinder +onlyGivenNames x; first | (refine mp_keeps (s0 := s0) x ?_ ?_; unfold x; clear x; rotate_left; intro hx; clear_value x) | clear_value x)
    | split
    | intro _
    | (with_reducible apply Keeps.of_same; with_reducible assumption; rfl; rfl; rfl; rfl; rfl; rfl)

theorem State.fwReject_keeps (h : s0.Keeps s) (p : Nat) (r : SlotReq) (reason : Nat) : s0.Keeps (State.fwReject s p r reason) := by
  unfold State.fwReject
  repeat' first
    | (with_reducible first | assumption | apply State.modPort_keeps | apply State.portPushEvent_keeps)
    | (with_reducible apply snd_keeps; with_reducible assumption)
    | (extract_lets -underBinder +onlyGivenNames x; first | (refine mp_keeps (s0 := s0) x ?_ ?_; unfold x; clear x; rotate_left; intro hx; clear_value x) | clear_value x)
    | split
    | intro _
    | (with_reducible apply Keeps.of_same; with_reducible assumption; rfl; rfl; rfl; rfl; rfl; rfl)

theorem State.upReply_keeps (h : s0.Keeps s) (p : Nat) (b : Bytes) : s0.Keeps (State.upReply s p b) := by
  unfold State.upReply
  repeat' first
    | (with_reducible first | assumption | apply State.fwDone_keeps | apply State.modPort_keeps | apply State.roleEnd_keeps
                            | apply State.fwReject_keeps | apply State.finishRole_keeps)
    | (with_reducible apply snd_keeps; with_reducible assumption)
    | (extract_lets -underBinder +onlyGivenNames x; first | (refine mp_keeps (s0 := s0) x ?_ ?_; unfold x; clear x; rotate_left; intro hx; clear_value x) | clear_value x)
    | split
    | intro _
    | (with_reducible apply Keeps.of_same; with_reducible assumption; rfl; rfl; rfl; rfl; rfl; rfl)

theorem State.upRetire_keeps (h : s0.Keeps s) (p : Nat) (n : Nat) (st : Nat) : s0.Keeps (State.upRetire s p n st) := by
  unfold State.upRetire
  repeat' first
    | (with_reducible first | assumption | apply State.modHealth1_keeps | apply State.heldReturn_keeps
                            | apply State.portBack_keeps | apply State.modPort_keeps)
    | (with_reducible apply snd_keeps; with_reducible assumption)
    | (extract_lets -underBinder +onlyGivenNames x; first | (refine mp_keeps (s0 := s0) x ?_ ?_; unfold x; clear x; rotate_left; intro hx; clear_value x) | clear_value x)
    | split
    | intro _
    | (with_reducible apply Keeps.of_same; with_reducible assumption; rfl; rfl; rfl; rfl; rfl; rfl)

theorem State.upSeize_keeps (h : s0.Keeps s) (p : Nat) (n : Nat) (st : Nat) : s0.Keeps (State.upSeize s p n st) := by
  unfold State.upSeize
  repeat' first
    | (with_reducible first | assumption | apply State.modPort_keeps | apply State.modPair_keeps)
    | (with_reducible apply snd_keeps; with_reducible assumption)
    | (extract_lets -underBinder +onlyGivenNames x; first | (refine mp_keeps (s0 := s0) x ?_ ?_; unfold x; clear x; rotate_left; intro hx; clear_value x) | clear_value x)
    | split
    | intro _
    | (with_reducible apply Keeps.of_same; with_reducible assumption; rfl; rfl; rfl; rfl; rfl; rfl)

theorem State.upBad_keeps (h : s0.Keeps s) (p : Nat) : s0.Keeps (State.upBad s p) := by
  unfold State.upBad
  repeat' first
    | (with_reducible first | assumption | apply State.modPort_keeps)
    | (with_reducible apply snd_keeps; with_reducible assumption)
    | (extract_lets -underBinder +onlyGivenNames x; first | (refine mp_keeps (s0 := s0) x ?_ ?_; unfold x; clear x; rotate_left; intro hx; clear_value x) | clear_value x)
    | split
    | intro _
    | (with_reducible apply Keeps.of_same; with_reducible assumption; rfl; rfl; rfl; rfl; rfl; rfl)

theorem State.upFrame_keeps (h : s0.Keeps s) (p : Nat) (rx : Nat) (b : Bytes) : s0.Keeps (State.upFrame s p rx b) := by
  unfold State.upFrame
  repeat' first
    | (with_reducible first | assumption | apply State.modPort_keeps | apply State.upState_keeps | apply State.upTele_keeps
                            | apply State.upEvent_keeps | apply State.iff_keeps | apply State.upReply_keeps
                            | apply State.fwPush_keeps | apply State.upSeize_keeps | apply State.upRetire_keeps
                            | apply State.cellStatus_keeps | apply State.seqGoAll_keeps | apply foldl_keeps
                            | apply foldl_snd_keeps | apply foldl_fst_keeps)
    | (with_reducible apply snd_keeps; with_reducible assumption)
    | (extract_lets -underBinder +onlyGivenNames x; first | (refine mp_keeps (s0 := s0) x ?_ ?_; unfold x; clear x; rotate_left; intro hx; clear_value x) | clear_value x)
    | split
    | intro _
    | (with_reducible apply Keeps.of_same; with_reducible assumption; rfl; rfl; rfl; rfl; rfl; rfl)

theorem execUpstreamFrame_keeps (t : Nat) (p : Nat) (rx : Nat) (frame : Bytes) (clean : Bool) (s0 : State) : s0.Completes (execUpstreamFrame t p rx frame clean s0) := by
  unfold execUpstreamFrame
  repeat' first
    | (with_reducible first | assumption | apply act_keeps | apply actIn_keeps | apply actAon_keeps | apply State.upFrame_keeps
                            | apply State.upBad_keeps)
    | (with_reducible apply snd_keeps; with_reducible assumption)
    | (extract_lets -underBinder +onlyGivenNames x; first | (refine mp_keeps (s0 := s0) x ?_ ?_; unfold x; clear x; rotate_left; intro hx; clear_value x) | clear_value x)
    | split
    | intro _

theorem execUpstreamSlotClose_keeps (t : Nat) (p : Nat) (n : Nat) (s0 : State) : s0.Completes (execUpstreamSlotClose t p n s0) := by
  unfold execUpstreamSlotClose
  repeat' first
    | (with_reducible first | assumption | apply act_keeps | apply actIn_keeps | apply actAon_keeps | apply State.modPort_keeps
                            | apply State.iff_keeps | apply State.capGap_keeps | apply State.capMark_keeps
                            | apply State.fwPush_keeps | apply State.portFault_keeps | apply State.seqGoAll_keeps)
    | (with_reducible apply snd_keeps; with_reducible assumption)
    | (extract_lets -underBinder +onlyGivenNames x; first | (refine mp_keeps (s0 := s0) x ?_ ?_; unfold x; clear x; rotate_left; intro hx; clear_value x) | clear_value x)
    | split
    | intro _
    | (with_reducible apply Keeps.of_same; with_reducible assumption; rfl; rfl; rfl; rfl; rfl; rfl)

theorem execCellLos_keeps (t : Nat) (p : Nat) (s0 : State) : s0.Completes (execCellLos t p s0) := by
  unfold execCellLos
  repeat' first
    | (with_reducible first | assumption | apply act_keeps | apply actIn_keeps | apply actAon_keeps | apply State.iff_keeps
                            | apply State.portFault_keeps)
    | (with_reducible apply snd_keeps; with_reducible assumption)
    | (extract_lets -underBinder +onlyGivenNames x; first | (refine mp_keeps (s0 := s0) x ?_ ?_; unfold x; clear x; rotate_left; intro hx; clear_value x) | clear_value x)
    | split
    | intro _

theorem execAdvanceStep_keeps (t : Nat) (p : Nat) (n : Nat) (s0 : State) : s0.Completes (execAdvanceStep t p n s0) := by
  unfold execAdvanceStep
  repeat' first
    | (with_reducible first | assumption | apply act_keeps | apply actIn_keeps | apply actAon_keeps | apply State.modPort_keeps)
    | (with_reducible apply snd_keeps; with_reducible assumption)
    | (extract_lets -underBinder +onlyGivenNames x; first | (refine mp_keeps (s0 := s0) x ?_ ?_; unfold x; clear x; rotate_left; intro hx; clear_value x) | clear_value x)
    | split
    | intro _
    | (with_reducible apply Keeps.of_same; with_reducible assumption; rfl; rfl; rfl; rfl; rfl; rfl)

theorem State.lnkCtrlWrite_keeps (h : s0.Keeps s) (p : Nat) (v : Word) : s0.Keeps (State.lnkCtrlWrite s p v) := by
  unfold State.lnkCtrlWrite
  repeat' first
    | (with_reducible first | assumption | apply State.setReg_keeps | apply State.iff_keeps | apply State.toAcquire_keeps
                            | apply State.portOff_keeps | apply State.portRetry_keeps | apply State.modPort_keeps
                            | apply State.fwPush_keeps)
    | (with_reducible apply snd_keeps; with_reducible assumption)
    | (extract_lets -underBinder +onlyGivenNames x; first | (refine mp_keeps (s0 := s0) x ?_ ?_; unfold x; clear x; rotate_left; intro hx; clear_value x) | clear_value x)
    | split
    | intro _
    | (with_reducible apply Keeps.of_same; with_reducible assumption; rfl; rfl; rfl; rfl; rfl; rfl)

theorem execLnkEnable_keeps (t : Nat) (p : Nat) (v : Word) (s0 : State) : s0.Completes (execLnkEnable t p v s0) := by
  unfold execLnkEnable
  repeat' first
    | (with_reducible first | assumption | apply act_keeps | apply actIn_keeps | apply actAon_keeps | apply State.iff_keeps
                            | apply State.lnkCtrlWrite_keeps)
    | (with_reducible apply snd_keeps; with_reducible assumption)
    | (extract_lets -underBinder +onlyGivenNames x; first | (refine mp_keeps (s0 := s0) x ?_ ?_; unfold x; clear x; rotate_left; intro hx; clear_value x) | clear_value x)
    | split
    | intro _

theorem execLnkDisable_keeps (t : Nat) (p : Nat) (v : Word) (s0 : State) : s0.Completes (execLnkDisable t p v s0) := by
  unfold execLnkDisable
  repeat' first
    | (with_reducible first | assumption | apply act_keeps | apply actIn_keeps | apply actAon_keeps | apply State.iff_keeps
                            | apply State.lnkCtrlWrite_keeps)
    | (with_reducible apply snd_keeps; with_reducible assumption)
    | (extract_lets -underBinder +onlyGivenNames x; first | (refine mp_keeps (s0 := s0) x ?_ ?_; unfold x; clear x; rotate_left; intro hx; clear_value x) | clear_value x)
    | split
    | intro _

theorem execLnkRetrain_keeps (t : Nat) (p : Nat) (v : Word) (s0 : State) : s0.Completes (execLnkRetrain t p v s0) := by
  unfold execLnkRetrain
  repeat' first
    | (with_reducible first | assumption | apply act_keeps | apply actIn_keeps | apply actAon_keeps | apply State.iff_keeps
                            | apply State.lnkCtrlWrite_keeps)
    | (with_reducible apply snd_keeps; with_reducible assumption)
    | (extract_lets -underBinder +onlyGivenNames x; first | (refine mp_keeps (s0 := s0) x ?_ ?_; unfold x; clear x; rotate_left; intro hx; clear_value x) | clear_value x)
    | split
    | intro _

theorem execLnkGenerationWrite_keeps (t : Nat) (p : Nat) (v : Word) (s0 : State) : s0.Completes (execLnkGenerationWrite t p v s0) := by
  unfold execLnkGenerationWrite
  repeat' first
    | (with_reducible first | assumption | apply act_keeps | apply actIn_keeps | apply actAon_keeps | apply State.iff_keeps
                            | apply State.lnkCtrlWrite_keeps)
    | (with_reducible apply snd_keeps; with_reducible assumption)
    | (extract_lets -underBinder +onlyGivenNames x; first | (refine mp_keeps (s0 := s0) x ?_ ?_; unfold x; clear x; rotate_left; intro hx; clear_value x) | clear_value x)
    | split
    | intro _

theorem execCalibrateLink_keeps (t : Nat) (s0 : State) : s0.Completes (execCalibrateLink t s0) := by
  unfold execCalibrateLink
  repeat' first
    | (with_reducible first | assumption | apply act_keeps | apply actIn_keeps | apply actAon_keeps | apply State.onFired_keeps
                            | apply State.forAll_keeps | apply State.iff_keeps | apply State.modPort_keeps
                            | apply State.portRetry_keeps)
    | (with_reducible apply snd_keeps; with_reducible assumption)
    | (extract_lets -underBinder +onlyGivenNames x; first | (refine mp_keeps (s0 := s0) x ?_ ?_; unfold x; clear x; rotate_left; intro hx; clear_value x) | clear_value x)
    | split
    | intro _
    | (with_reducible apply Keeps.of_same; with_reducible assumption; rfl; rfl; rfl; rfl; rfl; rfl)

theorem State.hostSlot_keeps (h : s0.Keeps s) (op : Nat) (buf : Option Bytes) (bad : Desc → Bool) (f : Desc → Bytes → SlotReq) : s0.Keeps (State.hostSlot s op buf bad f) := by
  unfold State.hostSlot
  repeat' first
    | (with_reducible first | assumption | apply State.onTurn_keeps | apply State.ends_keeps | apply State.readBuf_keeps
                            | apply State.holdAct_keeps | apply State.modPort_keeps)
    | (with_reducible apply snd_keeps; with_reducible assumption)
    | (extract_lets -underBinder +onlyGivenNames x; first | (refine mp_keeps (s0 := s0) x ?_ ?_; unfold x; clear x; rotate_left; intro hx; clear_value x) | clear_value x)
    | split
    | intro _
    | (with_reducible apply Keeps.of_same; with_reducible assumption; rfl; rfl; rfl; rfl; rfl; rfl)

theorem execMailbox_keeps (t : Nat) (buf : Option Bytes) (s0 : State) : s0.Completes (execMailbox t buf s0) := by
  unfold execMailbox
  repeat' first
    | (with_reducible first | assumption | apply act_keeps | apply actIn_keeps | apply actAon_keeps | apply State.iff_keeps
                            | apply State.hostSlot_keeps)
    | (with_reducible apply snd_keeps; with_reducible assumption)
    | (extract_lets -underBinder +onlyGivenNames x; first | (refine mp_keeps (s0 := s0) x ?_ ?_; unfold x; clear x; rotate_left; intro hx; clear_value x) | clear_value x)
    | split
    | intro _

theorem execParamRead_keeps (t : Nat) (buf : Option Bytes) (s0 : State) : s0.Completes (execParamRead t buf s0) := by
  unfold execParamRead
  repeat' first
    | (with_reducible first | assumption | apply act_keeps | apply actIn_keeps | apply actAon_keeps | apply State.iff_keeps
                            | apply State.hostSlot_keeps)
    | (with_reducible apply snd_keeps; with_reducible assumption)
    | (extract_lets -underBinder +onlyGivenNames x; first | (refine mp_keeps (s0 := s0) x ?_ ?_; unfold x; clear x; rotate_left; intro hx; clear_value x) | clear_value x)
    | split
    | intro _

theorem execParamWrite_keeps (t : Nat) (buf : Option Bytes) (s0 : State) : s0.Completes (execParamWrite t buf s0) := by
  unfold execParamWrite
  repeat' first
    | (with_reducible first | assumption | apply act_keeps | apply actIn_keeps | apply actAon_keeps | apply State.iff_keeps
                            | apply State.hostSlot_keeps)
    | (with_reducible apply snd_keeps; with_reducible assumption)
    | (extract_lets -underBinder +onlyGivenNames x; first | (refine mp_keeps (s0 := s0) x ?_ ?_; unfold x; clear x; rotate_left; intro hx; clear_value x) | clear_value x)
    | split
    | intro _

/-! ### Modes -/

theorem State.writeModeReq_keeps (h : s0.Keeps s) (v : Word) : s0.Keeps (State.writeModeReq s v) := by
  unfold State.writeModeReq
  repeat' first
    | (with_reducible first | assumption | apply State.setReg_keeps | apply State.iff_keeps | apply State.modeRequest_keeps)
    | (with_reducible apply snd_keeps; with_reducible assumption)
    | (extract_lets -underBinder +onlyGivenNames x; first | (refine mp_keeps (s0 := s0) x ?_ ?_; unfold x; clear x; rotate_left; intro hx; clear_value x) | clear_value x)
    | split
    | intro _

theorem execSysModeReq_keeps (t : Nat) (v : Word) (s0 : State) : s0.Completes (execSysModeReq t v s0) := by
  unfold execSysModeReq
  repeat' first
    | (with_reducible first | assumption | apply act_keeps | apply actIn_keeps | apply actAon_keeps | apply State.iff_keeps
                            | apply State.writeModeReq_keeps)
    | (with_reducible apply snd_keeps; with_reducible assumption)
    | (extract_lets -underBinder +onlyGivenNames x; first | (refine mp_keeps (s0 := s0) x ?_ ?_; unfold x; clear x; rotate_left; intro hx; clear_value x) | clear_value x)
    | split
    | intro _

theorem execSetMode_keeps (t : Nat) (s0 : State) : s0.Completes (execSetMode t s0) := by
  unfold execSetMode
  repeat' first
    | (with_reducible first | assumption | apply act_keeps | apply actIn_keeps | apply actAon_keeps | apply State.iff_keeps
                            | apply State.onTurn_keeps | apply State.holdAct_keeps | apply State.modeRequest_keeps)
    | (with_reducible apply snd_keeps; with_reducible assumption)
    | (extract_lets -underBinder +onlyGivenNames x; first | (refine mp_keeps (s0 := s0) x ?_ ?_; unfold x; clear x; rotate_left; intro hx; clear_value x) | clear_value x)
    | split
    | intro _

theorem execChangeMode_keeps (t : Nat) (s0 : State) : s0.Completes (execChangeMode t s0) := by
  unfold execChangeMode
  repeat' first
    | (with_reducible first | assumption | apply act_keeps | apply actIn_keeps | apply actAon_keeps | apply State.onFired_keeps
                            | apply State.modeRequest_keeps)
    | (with_reducible apply snd_keeps; with_reducible assumption)
    | (extract_lets -underBinder +onlyGivenNames x; first | (refine mp_keeps (s0 := s0) x ?_ ?_; unfold x; clear x; rotate_left; intro hx; clear_value x) | clear_value x)
    | split
    | intro _

theorem State.writeLock_keeps (h : s0.Keeps s) (v : Word) : s0.Keeps (State.writeLock s v) := by
  unfold State.writeLock
  repeat' first
    | (with_reducible first | assumption | apply State.iff_keeps | apply State.setLock_keeps)
    | (with_reducible apply snd_keeps; with_reducible assumption)
    | (extract_lets -underBinder +onlyGivenNames x; first | (refine mp_keeps (s0 := s0) x ?_ ?_; unfold x; clear x; rotate_left; intro hx; clear_value x) | clear_value x)
    | split
    | intro _

theorem execSysLock_keeps (t : Nat) (v : Word) (s0 : State) : s0.Completes (execSysLock t v s0) := by
  unfold execSysLock
  repeat' first
    | (with_reducible first | assumption | apply act_keeps | apply actIn_keeps | apply actAon_keeps
                            | apply State.iffReleased_keeps | apply State.writeLock_keeps)
    | (with_reducible apply snd_keeps; with_reducible assumption)
    | (extract_lets -underBinder +onlyGivenNames x; first | (refine mp_keeps (s0 := s0) x ?_ ?_; unfold x; clear x; rotate_left; intro hx; clear_value x) | clear_value x)
    | split
    | intro _

/-! ### PairFrames -/

theorem execPairFrameForm_keeps (t : Nat) (s0 : State) : s0.Completes (execPairFrameForm t s0) := by
  unfold execPairFrameForm
  repeat' first
    | (with_reducible first | assumption | apply act_keeps | apply actIn_keeps | apply actAon_keeps | apply State.iff_keeps
                            | apply State.pairSend_keeps | apply State.modPair_keeps)
    | (with_reducible apply snd_keeps; with_reducible assumption)
    | (extract_lets -underBinder +onlyGivenNames x; first | (refine mp_keeps (s0 := s0) x ?_ ?_; unfold x; clear x; rotate_left; intro hx; clear_value x) | clear_value x)
    | split
    | intro _
    | (with_reducible apply Keeps.of_same; with_reducible assumption; rfl; rfl; rfl; rfl; rfl; rfl)

theorem State.settleRoles_keeps (h : s0.Keeps s)  : s0.Keeps (State.settleRoles s) := by
  unfold State.settleRoles
  dsimp only
  repeat' first
    | (with_reducible first | assumption | apply State.free_keeps | apply State.modPair_keeps | apply hf1 | apply hf2 | apply hf3)
    | (with_reducible apply snd_keeps; with_reducible assumption)
    | split
    | intro _
    | (with_reducible apply Keeps.of_same; with_reducible assumption; rfl; rfl; rfl; rfl; rfl; rfl)

theorem State.handoverLost_keeps (h : s0.Keeps s)  : s0.Keeps (State.handoverLost s) := by
  unfold State.handoverLost
  repeat' first
    | (with_reducible first | assumption | apply State.modPair_keeps | apply State.answer_keeps | apply State.forAll_keeps
                            | apply State.finishAct_keeps)
    | (with_reducible apply snd_keeps; with_reducible assumption)
    | (extract_lets -underBinder +onlyGivenNames x; first | (refine mp_keeps (s0 := s0) x ?_ ?_; unfold x; clear x; rotate_left; intro hx; clear_value x) | clear_value x)
    | split
    | intro _
    | (with_reducible apply Keeps.of_same; with_reducible assumption; rfl; rfl; rfl; rfl; rfl; rfl)

theorem State.pairEnable_keeps (h : s0.Keeps s) (on : Bool) : s0.Keeps (State.pairEnable s on) := by
  unfold State.pairEnable
  repeat' first
    | (with_reducible first | assumption | apply State.iff_keeps | apply State.modPair_keeps | apply State.handoverLost_keeps)
    | (with_reducible apply snd_keeps; with_reducible assumption)
    | (extract_lets -underBinder +onlyGivenNames x; first | (refine mp_keeps (s0 := s0) x ?_ ?_; unfold x; clear x; rotate_left; intro hx; clear_value x) | clear_value x)
    | split
    | intro _
    | (with_reducible apply Keeps.of_same; with_reducible assumption; rfl; rfl; rfl; rfl; rfl; rfl)

theorem State.joinFail_keeps (h : s0.Keeps s) (code : Nat) : s0.Keeps (State.joinFail s code) := by
  unfold State.joinFail
  repeat' first
    | (with_reducible first | assumption | apply State.modPair_keeps | apply State.raise_keeps)
    | (with_reducible apply snd_keeps; with_reducible assumption)
    | (extract_lets -underBinder +onlyGivenNames x; first | (refine mp_keeps (s0 := s0) x ?_ ?_; unfold x; clear x; rotate_left; intro hx; clear_value x) | clear_value x)
    | split
    | intro _
    | (with_reducible apply Keeps.of_same; with_reducible assumption; rfl; rfl; rfl; rfl; rfl; rfl)

theorem State.setOffset_keeps (h : s0.Keeps s) (o : Int) : s0.Keeps (State.setOffset s o) := by
  unfold State.setOffset
  repeat' first
    | (with_reducible first | assumption | apply State.modPair_keeps | apply State.forAll_keeps | apply State.iff_keeps
                            | apply State.groupStop_keeps | apply State.leaveReady_keeps | apply State.toAcquire_keeps
                            | apply State.modPort_keeps)
    | (with_reducible apply snd_keeps; with_reducible assumption)
    | (extract_lets -underBinder +onlyGivenNames x; first | (refine mp_keeps (s0 := s0) x ?_ ?_; unfold x; clear x; rotate_left; intro hx; clear_value x) | clear_value x)
    | split
    | intro _
    | (with_reducible apply Keeps.of_same; with_reducible assumption; rfl; rfl; rfl; rfl; rfl; rfl)

theorem State.joinTry_keeps (h : s0.Keeps s) (off : Int) (peerUnit : Nat) : s0.Keeps (State.joinTry s off peerUnit) := by
  unfold State.joinTry
  repeat' first
    | (with_reducible first | assumption | apply State.joinFail_keeps | apply State.setOffset_keeps)
    | (with_reducible apply snd_keeps; with_reducible assumption)
    | (extract_lets -underBinder +onlyGivenNames x; first | (refine mp_keeps (s0 := s0) x ?_ ?_; unfold x; clear x; rotate_left; intro hx; clear_value x) | clear_value x)
    | split
    | intro _
    | (with_reducible apply Keeps.of_same; with_reducible assumption; rfl; rfl; rfl; rfl; rfl; rfl)

theorem State.pairMeasure_keeps (h : s0.Keeps s) (d : Int) (peerUnit : Nat) : s0.Keeps (State.pairMeasure s d peerUnit) := by
  unfold State.pairMeasure
  repeat' first
    | (with_reducible first | assumption | apply State.modPair_keeps | apply State.joinFail_keeps | apply State.joinTry_keeps)
    | (with_reducible apply snd_keeps; with_reducible assumption)
    | (extract_lets -underBinder +onlyGivenNames x; first | (refine mp_keeps (s0 := s0) x ?_ ?_; unfold x; clear x; rotate_left; intro hx; clear_value x) | clear_value x)
    | split
    | intro _
    | (with_reducible apply Keeps.of_same; with_reducible assumption; rfl; rfl; rfl; rfl; rfl; rfl)

theorem State.bankMsg_keeps (h : s0.Keeps s) (b : Bytes) : s0.Keeps (State.bankMsg s b) := by
  unfold State.bankMsg
  repeat' first
    | (with_reducible first | assumption | apply State.modPair_keeps)
    | (with_reducible apply snd_keeps; with_reducible assumption)
    | (extract_lets -underBinder +onlyGivenNames x; first | (refine mp_keeps (s0 := s0) x ?_ ?_; unfold x; clear x; rotate_left; intro hx; clear_value x) | clear_value x)
    | split
    | intro _
    | (with_reducible apply Keeps.of_same; with_reducible assumption; rfl; rfl; rfl; rfl; rfl; rfl)

theorem State.snapMsg_keeps (h : s0.Keeps s) (b : Bytes) : s0.Keeps (State.snapMsg s b) := by
  unfold State.snapMsg
  repeat' first
    | (with_reducible first | assumption | apply State.modPair_keeps | apply State.install_keeps)
    | (with_reducible apply snd_keeps; with_reducible assumption)
    | (extract_lets -underBinder +onlyGivenNames x; first | (refine mp_keeps (s0 := s0) x ?_ ?_; unfold x; clear x; rotate_left; intro hx; clear_value x) | clear_value x)
    | split
    | intro _
    | (with_reducible apply Keeps.of_same; with_reducible assumption; rfl; rfl; rfl; rfl; rfl; rfl)

theorem State.writeMsg_keeps (h : s0.Keeps s) (b : Bytes) : s0.Keeps (State.writeMsg s b) := by
  unfold State.writeMsg
  repeat' first
    | (with_reducible first | assumption | apply State.iff_keeps | apply State.forceCommit_keeps | apply State.planStore_keeps)
    | (with_reducible apply snd_keeps; with_reducible assumption)
    | (extract_lets -underBinder +onlyGivenNames x; first | (refine mp_keeps (s0 := s0) x ?_ ?_; unfold x; clear x; rotate_left; intro hx; clear_value x) | clear_value x)
    | split
    | intro _

theorem State.makeOffer_keeps (h : s0.Keeps s) (reason : Nat) (act : Option Nat) : s0.Keeps (State.makeOffer s reason act) := by
  unfold State.makeOffer
  repeat' first
    | (with_reducible first | assumption | apply State.pairSend_keeps | apply State.modPair_keeps)
    | (with_reducible apply snd_keeps; with_reducible assumption)
    | (extract_lets -underBinder +onlyGivenNames x; first | (refine mp_keeps (s0 := s0) x ?_ ?_; unfold x; clear x; rotate_left; intro hx; clear_value x) | clear_value x)
    | split
    | intro _
    | (with_reducible apply Keeps.of_same; with_reducible assumption; rfl; rfl; rfl; rfl; rfl; rfl)

theorem State.offerFails_keeps (h : s0.Keeps s) (status : Nat) (value : Nat) : s0.Keeps (State.offerFails s status value) := by
  unfold State.offerFails
  repeat' first
    | (with_reducible first | assumption | apply State.modPair_keeps | apply State.raise_keeps | apply State.answer_keeps)
    | (with_reducible apply snd_keeps; with_reducible assumption)
    | (extract_lets -underBinder +onlyGivenNames x; first | (refine mp_keeps (s0 := s0) x ?_ ?_; unfold x; clear x; rotate_left; intro hx; clear_value x) | clear_value x)
    | split
    | intro _
    | (with_reducible apply Keeps.of_same; with_reducible assumption; rfl; rfl; rfl; rfl; rfl; rfl)

theorem State.offerMsg_keeps (h : s0.Keeps s) (b : Bytes) : s0.Keeps (State.offerMsg s b) := by
  unfold State.offerMsg
  repeat' first
    | (with_reducible first | assumption | apply State.pairSend_keeps | apply State.modPair_keeps | apply State.free_keeps)
    | (with_reducible apply snd_keeps; with_reducible assumption)
    | (extract_lets -underBinder +onlyGivenNames x; first | (refine mp_keeps (s0 := s0) x ?_ ?_; unfold x; clear x; rotate_left; intro hx; clear_value x) | clear_value x)
    | split
    | intro _
    | (with_reducible apply Keeps.of_same; with_reducible assumption; rfl; rfl; rfl; rfl; rfl; rfl)

theorem State.offerAnswer_keeps (h : s0.Keeps s) (yes : Bool) (b : Bytes) : s0.Keeps (State.offerAnswer s yes b) := by
  unfold State.offerAnswer
  repeat' first
    | (with_reducible first | assumption | apply State.modPair_keeps | apply State.offerFails_keeps)
    | (with_reducible apply snd_keeps; with_reducible assumption)
    | (extract_lets -underBinder +onlyGivenNames x; first | (refine mp_keeps (s0 := s0) x ?_ ?_; unfold x; clear x; rotate_left; intro hx; clear_value x) | clear_value x)
    | split
    | intro _
    | (with_reducible apply Keeps.of_same; with_reducible assumption; rfl; rfl; rfl; rfl; rfl; rfl)

theorem State.handoverRequest_keeps (h : s0.Keeps s) (k : Nat) : s0.Keeps (State.handoverRequest s k) := by
  unfold State.handoverRequest
  repeat' first
    | (with_reducible first | assumption | apply State.stopRequest_keeps | apply State.modPair_keeps | apply State.answer_keeps
                            | apply State.makeOffer_keeps)
    | (with_reducible apply snd_keeps; with_reducible assumption)
    | (extract_lets -underBinder +onlyGivenNames x; first | (refine mp_keeps (s0 := s0) x ?_ ?_; unfold x; clear x; rotate_left; intro hx; clear_value x) | clear_value x)
    | split
    | intro _
    | (with_reducible apply Keeps.of_same; with_reducible assumption; rfl; rfl; rfl; rfl; rfl; rfl)

theorem State.verdict_keeps (h : s0.Keeps s)  : s0.Keeps (State.verdict s) := by
  unfold State.verdict
  repeat' first
    | (with_reducible first | assumption | apply State.modPair_keeps | apply State.raise_keeps | apply State.iff_keeps
                            | apply State.makeOffer_keeps)
    | (with_reducible apply snd_keeps; with_reducible assumption)
    | (extract_lets -underBinder +onlyGivenNames x; first | (refine mp_keeps (s0 := s0) x ?_ ?_; unfold x; clear x; rotate_left; intro hx; clear_value x) | clear_value x)
    | split
    | intro _
    | (with_reducible apply Keeps.of_same; with_reducible assumption; rfl; rfl; rfl; rfl; rfl; rfl)

theorem State.verifyMsg_keeps (h : s0.Keeps s) (b : Bytes) : s0.Keeps (State.verifyMsg s b) := by
  unfold State.verifyMsg
  repeat' first
    | (with_reducible first | assumption | apply State.modPair_keeps | apply State.verdict_keeps)
    | (with_reducible apply snd_keeps; with_reducible assumption)
    | (extract_lets -underBinder +onlyGivenNames x; first | (refine mp_keeps (s0 := s0) x ?_ ?_; unfold x; clear x; rotate_left; intro hx; clear_value x) | clear_value x)
    | split
    | intro _
    | (with_reducible apply Keeps.of_same; with_reducible assumption; rfl; rfl; rfl; rfl; rfl; rfl)

theorem State.remoteRequest_keeps (h : s0.Keeps s) (l : List Nat) : s0.Keeps (State.remoteRequest s l) := by
  unfold State.remoteRequest
  repeat' first
    | (with_reducible first | assumption | apply State.modeRequest_keeps | apply State.answer_keeps
                            | apply State.ringSetpoint_keeps | apply State.modMill_keeps | apply State.putParam_keeps
                            | apply State.retireChannel_keeps | apply State.returnRequest_keeps | apply State.putSetpoint_keeps
                            | apply State.bellParam_keeps | apply State.handoverRequest_keeps | apply foldl_keeps
                            | apply foldl_snd_keeps | apply foldl_fst_keeps)
    | (with_reducible apply snd_keeps; with_reducible assumption)
    | (extract_lets -underBinder +onlyGivenNames x; first | (refine mp_keeps (s0 := s0) x ?_ ?_; unfold x; clear x; rotate_left; intro hx; clear_value x) | clear_value x)
    | split
    | intro _
    | (with_reducible apply Keeps.of_same; with_reducible assumption; rfl; rfl; rfl; rfl; rfl; rfl)

theorem State.resultMsg_keeps (h : s0.Keeps s) (b : Bytes) : s0.Keeps (State.resultMsg s b) := by
  unfold State.resultMsg
  repeat' first
    | (with_reducible first | assumption | apply State.modPair_keeps | apply State.iff_keeps | apply State.setReg_keeps
                            | apply State.finishRole_keeps | apply State.finishAct_keeps)
    | (with_reducible apply snd_keeps; with_reducible assumption)
    | (extract_lets -underBinder +onlyGivenNames x; first | (refine mp_keeps (s0 := s0) x ?_ ?_; unfold x; clear x; rotate_left; intro hx; clear_value x) | clear_value x)
    | split
    | intro _
    | (with_reducible apply Keeps.of_same; with_reducible assumption; rfl; rfl; rfl; rfl; rfl; rfl)

theorem State.pairMsg_keeps (h : s0.Keeps s) (m : Nat × Bytes) : s0.Keeps (State.pairMsg s m) := by
  unfold State.pairMsg
  repeat' first
    | (with_reducible first | assumption | apply State.bankMsg_keeps | apply State.writeMsg_keeps | apply State.modPair_keeps
                            | apply State.hashCompare_keeps | apply State.verifyMsg_keeps | apply State.offerMsg_keeps
                            | apply State.offerAnswer_keeps | apply State.iff_keeps | apply State.stopRequest_keeps
                            | apply State.remoteRequest_keeps | apply State.resultMsg_keeps | apply State.snapMsg_keeps)
    | (with_reducible apply snd_keeps; with_reducible assumption)
    | (extract_lets -underBinder +onlyGivenNames x; first | (refine mp_keeps (s0 := s0) x ?_ ?_; unfold x; clear x; rotate_left; intro hx; clear_value x) | clear_value x)
    | split
    | intro _
    | (with_reducible apply Keeps.of_same; with_reducible assumption; rfl; rfl; rfl; rfl; rfl; rfl)

theorem State.followPeer_keeps (h : s0.Keeps s) (ps : Nat) : s0.Keeps (State.followPeer s ps) := by
  unfold State.followPeer
  repeat' first
    | (with_reducible first | assumption | apply State.modPair_keeps | apply State.iff_keeps)
    | (with_reducible apply snd_keeps; with_reducible assumption)
    | (extract_lets -underBinder +onlyGivenNames x; first | (refine mp_keeps (s0 := s0) x ?_ ?_; unfold x; clear x; rotate_left; intro hx; clear_value x) | clear_value x)
    | split
    | intro _
    | (with_reducible apply Keeps.of_same; with_reducible assumption; rfl; rfl; rfl; rfl; rfl; rfl)

theorem State.pairGoodFrame_keeps (h : s0.Keeps s) (rx : Nat) (b : Bytes) (msgs : List (Nat × Bytes)) : s0.Keeps (State.pairGoodFrame s rx b msgs) := by
  unfold State.pairGoodFrame
  repeat' first
    | (with_reducible first | assumption | apply State.modPair_keeps | apply State.iff_keeps | apply State.setReg_keeps
                            | apply State.settleRoles_keeps | apply State.pairMeasure_keeps | apply State.pairMsg_keeps
                            | apply State.followPeer_keeps | apply foldl_keeps | apply foldl_snd_keeps | apply foldl_fst_keeps)
    | (with_reducible apply snd_keeps; with_reducible assumption)
    | (extract_lets -underBinder +onlyGivenNames x; first | (refine mp_keeps (s0 := s0) x ?_ ?_; unfold x; clear x; rotate_left; intro hx; clear_value x) | clear_value x)
    | split
    | intro _
    | (with_reducible apply Keeps.of_same; with_reducible assumption; rfl; rfl; rfl; rfl; rfl; rfl)

theorem State.laneEvent_keeps (h : s0.Keeps s) (k : Nat) : s0.Keeps (State.laneEvent s k) := by
  unfold State.laneEvent
  repeat' first
    | (with_reducible first | assumption | apply State.healthCount_keeps | apply State.modPair_keeps)
    | (with_reducible apply snd_keeps; with_reducible assumption)
    | (extract_lets -underBinder +onlyGivenNames x; first | (refine mp_keeps (s0 := s0) x ?_ ?_; unfold x; clear x; rotate_left; intro hx; clear_value x) | clear_value x)
    | split
    | intro _
    | (with_reducible apply Keeps.of_same; with_reducible assumption; rfl; rfl; rfl; rfl; rfl; rfl)

theorem execPairFrame_keeps (t : Nat) (rx : Nat) (frame : Bytes) (clean : Bool) (s0 : State) : s0.Completes (execPairFrame t rx frame clean s0) := by
  unfold execPairFrame
  repeat' first
    | (with_reducible first | assumption | apply act_keeps | apply actIn_keeps | apply actAon_keeps
                            | apply State.pairGoodFrame_keeps | apply State.iff_keeps | apply State.laneEvent_keeps)
    | (with_reducible apply snd_keeps; with_reducible assumption)
    | (extract_lets -underBinder +onlyGivenNames x; first | (refine mp_keeps (s0 := s0) x ?_ ?_; unfold x; clear x; rotate_left; intro hx; clear_value x) | clear_value x)
    | split
    | intro _
    | (with_reducible apply Keeps.of_same; with_reducible assumption; rfl; rfl; rfl; rfl; rfl; rfl)

theorem execPairLaneAlignmentLoss_keeps (t : Nat) (lane : Nat) (s0 : State) : s0.Completes (execPairLaneAlignmentLoss t lane s0) := by
  unfold execPairLaneAlignmentLoss
  repeat' first
    | (with_reducible first | assumption | apply act_keeps | apply actIn_keeps | apply actAon_keeps | apply State.modPair_keeps
                            | apply State.laneEvent_keeps)
    | (with_reducible apply snd_keeps; with_reducible assumption)
    | (extract_lets -underBinder +onlyGivenNames x; first | (refine mp_keeps (s0 := s0) x ?_ ?_; unfold x; clear x; rotate_left; intro hx; clear_value x) | clear_value x)
    | split
    | intro _
    | (with_reducible apply Keeps.of_same; with_reducible assumption; rfl; rfl; rfl; rfl; rfl; rfl)

theorem execPeerLost_keeps (t : Nat) (s0 : State) : s0.Completes (execPeerLost t s0) := by
  unfold execPeerLost
  repeat' first
    | (with_reducible first | assumption | apply act_keeps | apply actIn_keeps | apply actAon_keeps
                            | apply State.handoverLost_keeps | apply State.modPair_keeps | apply State.forAll_keeps
                            | apply State.iff_keeps | apply State.modPort_keeps | apply State.raise_keeps)
    | (with_reducible apply snd_keeps; with_reducible assumption)
    | (extract_lets -underBinder +onlyGivenNames x; first | (refine mp_keeps (s0 := s0) x ?_ ?_; unfold x; clear x; rotate_left; intro hx; clear_value x) | clear_value x)
    | split
    | intro _
    | (with_reducible apply Keeps.of_same; with_reducible assumption; rfl; rfl; rfl; rfl; rfl; rfl)

theorem execFollowTimeout_keeps (t : Nat) (s0 : State) : s0.Completes (execFollowTimeout t s0) := by
  unfold execFollowTimeout
  repeat' first
    | (with_reducible first | assumption | apply act_keeps | apply actIn_keeps | apply actAon_keeps | apply State.iff_keeps
                            | apply State.modPair_keeps)
    | (with_reducible apply snd_keeps; with_reducible assumption)
    | (extract_lets -underBinder +onlyGivenNames x; first | (refine mp_keeps (s0 := s0) x ?_ ?_; unfold x; clear x; rotate_left; intro hx; clear_value x) | clear_value x)
    | split
    | intro _
    | (with_reducible apply Keeps.of_same; with_reducible assumption; rfl; rfl; rfl; rfl; rfl; rfl)

theorem execHashTimeout_keeps (t : Nat) (g : Nat) (b : Nat) (s0 : State) : s0.Completes (execHashTimeout t g b s0) := by
  unfold execHashTimeout
  repeat' first
    | (with_reducible first | assumption | apply act_keeps | apply actIn_keeps | apply actAon_keeps | apply State.modPair_keeps
                            | apply State.bump_keeps | apply hf1 | apply hf2 | apply hf3)
    | (with_reducible apply snd_keeps; with_reducible assumption)
    | (extract_lets -underBinder +onlyGivenNames x; first | (refine mp_keeps (s0 := s0) x ?_ ?_; unfold x; clear x; rotate_left; intro hx; clear_value x) | (refine mp1_keeps (s0 := s0) x ?_ ?_; unfold x; clear x; rotate_left; intro hf1; clear_value x) | (refine mp2_keeps (s0 := s0) x ?_ ?_; unfold x; clear x; rotate_left; intro hf2; clear_value x) | (refine mp3_keeps (s0 := s0) x ?_ ?_; unfold x; clear x; rotate_left; intro hf3; clear_value x) | clear_value x)
    | split
    | intro _
    | (with_reducible apply Keeps.of_same; with_reducible assumption; rfl; rfl; rfl; rfl; rfl; rfl)

theorem execVerifyDone_keeps (t : Nat) (sound : Bool) (s0 : State) : s0.Completes (execVerifyDone t sound s0) := by
  unfold execVerifyDone
  repeat' first
    | (with_reducible first | assumption | apply act_keeps | apply actIn_keeps | apply actAon_keeps | apply State.pairSend_keeps
                            | apply State.modPair_keeps | apply State.verdict_keeps)
    | (with_reducible apply snd_keeps; with_reducible assumption)
    | (extract_lets -underBinder +onlyGivenNames x; first | (refine mp_keeps (s0 := s0) x ?_ ?_; unfold x; clear x; rotate_left; intro hx; clear_value x) | clear_value x)
    | split
    | intro _
    | (with_reducible apply Keeps.of_same; with_reducible assumption; rfl; rfl; rfl; rfl; rfl; rfl)

theorem execVerifyTimeout_keeps (t : Nat) (s0 : State) : s0.Completes (execVerifyTimeout t s0) := by
  unfold execVerifyTimeout
  repeat' first
    | (with_reducible first | assumption | apply act_keeps | apply actIn_keeps | apply actAon_keeps | apply State.modPair_keeps
                            | apply State.verdict_keeps)
    | (with_reducible apply snd_keeps; with_reducible assumption)
    | (extract_lets -underBinder +onlyGivenNames x; first | (refine mp_keeps (s0 := s0) x ?_ ?_; unfold x; clear x; rotate_left; intro hx; clear_value x) | clear_value x)
    | split
    | intro _
    | (with_reducible apply Keeps.of_same; with_reducible assumption; rfl; rfl; rfl; rfl; rfl; rfl)

theorem execPairHandover_keeps (t : Nat) (s0 : State) : s0.Completes (execPairHandover t s0) := by
  unfold execPairHandover
  repeat' first
    | (with_reducible first | assumption | apply act_keeps | apply actIn_keeps | apply actAon_keeps | apply State.iff_keeps
                            | apply State.onTurn_keeps | apply State.holdAct_keeps | apply State.forward_keeps
                            | apply State.handoverRequest_keeps)
    | (with_reducible apply snd_keeps; with_reducible assumption)
    | (extract_lets -underBinder +onlyGivenNames x; first | (refine mp_keeps (s0 := s0) x ?_ ?_; unfold x; clear x; rotate_left; intro hx; clear_value x) | clear_value x)
    | split
    | intro _

theorem execOfferLapse_keeps (t : Nat) (s0 : State) : s0.Completes (execOfferLapse t s0) := by
  unfold execOfferLapse
  repeat' first
    | (with_reducible first | assumption | apply act_keeps | apply actIn_keeps | apply actAon_keeps | apply State.iff_keeps
                            | apply State.offerFails_keeps)
    | (with_reducible apply snd_keeps; with_reducible assumption)
    | (extract_lets -underBinder +onlyGivenNames x; first | (refine mp_keeps (s0 := s0) x ?_ ?_; unfold x; clear x; rotate_left; intro hx; clear_value x) | clear_value x)
    | split
    | intro _
    | (with_reducible apply Keeps.of_same; with_reducible assumption; rfl; rfl; rfl; rfl; rfl; rfl)

theorem execHandoverSwitch_keeps (t : Nat) (s0 : State) : s0.Completes (execHandoverSwitch t s0) := by
  unfold execHandoverSwitch
  repeat' first
    | (with_reducible first | assumption | apply act_keeps | apply actIn_keeps | apply actAon_keeps | apply State.modPair_keeps
                            | apply State.raise_keeps | apply State.answer_keeps)
    | (with_reducible apply snd_keeps; with_reducible assumption)
    | (extract_lets -underBinder +onlyGivenNames x; first | (refine mp_keeps (s0 := s0) x ?_ ?_; unfold x; clear x; rotate_left; intro hx; clear_value x) | clear_value x)
    | split
    | intro _
    | (with_reducible apply Keeps.of_same; with_reducible assumption; rfl; rfl; rfl; rfl; rfl; rfl)

theorem execFailedEntry_keeps (t : Nat) (s0 : State) : s0.Completes (execFailedEntry t s0) := by
  unfold execFailedEntry
  repeat' first
    | (with_reducible first | assumption | apply act_keeps | apply actIn_keeps | apply actAon_keeps | apply State.iff_keeps
                            | apply State.modPair_keeps)
    | (with_reducible apply snd_keeps; with_reducible assumption)
    | (extract_lets -underBinder +onlyGivenNames x; first | (refine mp_keeps (s0 := s0) x ?_ ?_; unfold x; clear x; rotate_left; intro hx; clear_value x) | clear_value x)
    | split
    | intro _
    | (with_reducible apply Keeps.of_same; with_reducible assumption; rfl; rfl; rfl; rfl; rfl; rfl)

end Sys2Proof.Machine
end

