-- ==== Sys2Proof/Laws/KeepsAccess.lean ====
section
/-! SUPPORT. What every operation keeps (State.Keeps of Safety.lean), one lemma per operation and per command: watches, flags and host accesses. -/

namespace Sys2Proof.Machine

set_option linter.unusedTactic false
set_option linter.unreachableTactic false
set_option linter.unusedVariables false

variable {s0 s : State}

/-! ### Watches -/

theorem State.clearLatch_keeps (h : s0.Keeps s) (n : Nat) : s0.Keeps (State.clearLatch s n) := by
  unfold State.clearLatch
  repeat' first
    | (with_reducible first | assumption | apply State.iff_keeps | apply State.setRf_keeps | apply State.setRb_keeps)
    | (with_reducible apply snd_keeps; with_reducible assumption)
    | (extract_lets -underBinder +onlyGivenNames x; first | (refine mp_keeps (s0 := s0) x ?_ ?_; unfold x; clear x; rotate_left; intro hx; clear_value x) | clear_value x)
    | split
    | intro _
    | (with_reducible apply Keeps.of_same; with_reducible assumption; rfl; rfl; rfl; rfl; rfl; rfl)

theorem State.writeLatch_keeps (h : s0.Keeps s) (w : Nat) (v : Word) : s0.Keeps (State.writeLatch s w v) := by
  unfold State.writeLatch
  repeat' first
    | (with_reducible first | assumption | apply State.forAll_keeps | apply State.iff_keeps | apply State.clearLatch_keeps)
    | (with_reducible apply snd_keeps; with_reducible assumption)
    | (extract_lets -underBinder +onlyGivenNames x; first | (refine mp_keeps (s0 := s0) x ?_ ?_; unfold x; clear x; rotate_left; intro hx; clear_value x) | clear_value x)
    | split
    | intro _

theorem execWchLatchClear_keeps (t : Nat) (w : Nat) (v : Word) (s0 : State) : s0.Completes (execWchLatchClear t w v s0) := by
  unfold execWchLatchClear
  repeat' first
    | (with_reducible first | assumption | apply act_keeps | apply actIn_keeps | apply actAon_keeps | apply State.iff_keeps
                            | apply State.writeLatch_keeps)
    | (with_reducible apply snd_keeps; with_reducible assumption)
    | (extract_lets -underBinder +onlyGivenNames x; first | (refine mp_keeps (s0 := s0) x ?_ ?_; unfold x; clear x; rotate_left; intro hx; clear_value x) | clear_value x)
    | split
    | intro _

theorem State.writeForce_keeps (h : s0.Keeps s) (w : Nat) (v : Word) : s0.Keeps (State.writeForce s w v) := by
  unfold State.writeForce
  repeat' first
    | (with_reducible first | assumption | apply State.iff_keeps | apply State.forAll_keeps | apply State.raise_keeps)
    | (with_reducible apply snd_keeps; with_reducible assumption)
    | (extract_lets -underBinder +onlyGivenNames x; first | (refine mp_keeps (s0 := s0) x ?_ ?_; unfold x; clear x; rotate_left; intro hx; clear_value x) | clear_value x)
    | split
    | intro _

theorem execWchForce_keeps (t : Nat) (w : Nat) (v : Word) (s0 : State) : s0.Completes (execWchForce t w v s0) := by
  unfold execWchForce
  repeat' first
    | (with_reducible first | assumption | apply act_keeps | apply actIn_keeps | apply actAon_keeps | apply State.iff_keeps
                            | apply State.writeForce_keeps)
    | (with_reducible apply snd_keeps; with_reducible assumption)
    | (extract_lets -underBinder +onlyGivenNames x; first | (refine mp_keeps (s0 := s0) x ?_ ?_; unfold x; clear x; rotate_left; intro hx; clear_value x) | clear_value x)
    | split
    | intro _

theorem State.writeWchStatus_keeps (h : s0.Keeps s) (v : Word) : s0.Keeps (State.writeWchStatus s v) := by
  unfold State.writeWchStatus
  repeat' first
    | (with_reducible first | assumption | apply State.iff_keeps | apply State.setRb_keeps | apply State.modWch_keeps
                            | apply State.signal_keeps)
    | (with_reducible apply snd_keeps; with_reducible assumption)
    | (extract_lets -underBinder +onlyGivenNames x; first | (refine mp_keeps (s0 := s0) x ?_ ?_; unfold x; clear x; rotate_left; intro hx; clear_value x) | clear_value x)
    | split
    | intro _
    | (with_reducible apply Keeps.of_same; with_reducible assumption; rfl; rfl; rfl; rfl; rfl; rfl)

theorem execWchIrqClear_keeps (t : Nat) (v : Word) (s0 : State) : s0.Completes (execWchIrqClear t v s0) := by
  unfold execWchIrqClear
  repeat' first
    | (with_reducible first | assumption | apply act_keeps | apply actIn_keeps | apply actAon_keeps | apply State.iff_keeps
                            | apply State.writeWchStatus_keeps)
    | (with_reducible apply snd_keeps; with_reducible assumption)
    | (extract_lets -underBinder +onlyGivenNames x; first | (refine mp_keeps (s0 := s0) x ?_ ?_; unfold x; clear x; rotate_left; intro hx; clear_value x) | clear_value x)
    | split
    | intro _

theorem State.writeWchCtrl_keeps (h : s0.Keeps s) (v : Word) : s0.Keeps (State.writeWchCtrl s v) := by
  unfold State.writeWchCtrl
  repeat' first
    | (with_reducible first | assumption | apply State.setReg_keeps | apply State.iff_keeps | apply State.signal_keeps)
    | (with_reducible apply snd_keeps; with_reducible assumption)
    | (extract_lets -underBinder +onlyGivenNames x; first | (refine mp_keeps (s0 := s0) x ?_ ?_; unfold x; clear x; rotate_left; intro hx; clear_value x) | clear_value x)
    | split
    | intro _

theorem execWchIrqEnable_keeps (t : Nat) (v : Word) (s0 : State) : s0.Completes (execWchIrqEnable t v s0) := by
  unfold execWchIrqEnable
  repeat' first
    | (with_reducible first | assumption | apply act_keeps | apply actIn_keeps | apply actAon_keeps | apply State.iff_keeps
                            | apply State.writeWchCtrl_keeps)
    | (with_reducible apply snd_keeps; with_reducible assumption)
    | (extract_lets -underBinder +onlyGivenNames x; first | (refine mp_keeps (s0 := s0) x ?_ ?_; unfold x; clear x; rotate_left; intro hx; clear_value x) | clear_value x)
    | split
    | intro _

theorem State.writeErrn_keeps (h : s0.Keeps s) (v : Word) : s0.Keeps (State.writeErrn s v) := by
  unfold State.writeErrn
  repeat' first
    | (with_reducible first | assumption | apply State.setRb_keeps | apply State.iff_keeps | apply State.setRf_keeps)
    | (with_reducible apply snd_keeps; with_reducible assumption)
    | (extract_lets -underBinder +onlyGivenNames x; first | (refine mp_keeps (s0 := s0) x ?_ ?_; unfold x; clear x; rotate_left; intro hx; clear_value x) | clear_value x)
    | split
    | intro _

theorem execWchErrnLevel_keeps (t : Nat) (v : Word) (s0 : State) : s0.Completes (execWchErrnLevel t v s0) := by
  unfold execWchErrnLevel
  repeat' first
    | (with_reducible first | assumption | apply act_keeps | apply actIn_keeps | apply actAon_keeps | apply State.iff_keeps
                            | apply State.writeErrn_keeps)
    | (with_reducible apply snd_keeps; with_reducible assumption)
    | (extract_lets -underBinder +onlyGivenNames x; first | (refine mp_keeps (s0 := s0) x ?_ ?_; unfold x; clear x; rotate_left; intro hx; clear_value x) | clear_value x)
    | split
    | intro _

theorem execErrnPulseEnd_keeps (t : Nat) (s0 : State) : s0.Completes (execErrnPulseEnd t s0) := by
  unfold execErrnPulseEnd
  repeat' first
    | (with_reducible first | assumption | apply act_keeps | apply actIn_keeps | apply actAon_keeps | apply State.iff_keeps
                            | apply State.modWch_keeps)
    | (with_reducible apply snd_keeps; with_reducible assumption)
    | (extract_lets -underBinder +onlyGivenNames x; first | (refine mp_keeps (s0 := s0) x ?_ ?_; unfold x; clear x; rotate_left; intro hx; clear_value x) | clear_value x)
    | split
    | intro _
    | (with_reducible apply Keeps.of_same; with_reducible assumption; rfl; rfl; rfl; rfl; rfl; rfl)

theorem State.bookFail_keeps (h : s0.Keeps s)  : s0.Keeps (State.bookFail s) := by
  unfold State.bookFail
  repeat' first
    | (with_reducible first | assumption | apply State.modBook_keeps | apply State.raise_keeps | apply State.free_keeps
                            | apply State.lastWord_keeps)
    | (with_reducible apply snd_keeps; with_reducible assumption)
    | (extract_lets -underBinder +onlyGivenNames x; first | (refine mp_keeps (s0 := s0) x ?_ ?_; unfold x; clear x; rotate_left; intro hx; clear_value x) | clear_value x)
    | split
    | intro _
    | (with_reducible apply Keeps.of_same; with_reducible assumption; rfl; rfl; rfl; rfl; rfl; rfl)

theorem execBookWrite_keeps (t : Nat) (first : Bool) (second : Bool) (s0 : State) : s0.Completes (execBookWrite t first second s0) := by
  unfold execBookWrite
  repeat' first
    | (with_reducible first | assumption | apply act_keeps | apply actIn_keeps | apply actAon_keeps | apply State.modBook_keeps
                            | apply State.raise_keeps | apply State.iff_keeps | apply State.bookFail_keeps)
    | (with_reducible apply snd_keeps; with_reducible assumption)
    | (extract_lets -underBinder +onlyGivenNames x; first | (refine mp_keeps (s0 := s0) x ?_ ?_; unfold x; clear x; rotate_left; intro hx; clear_value x) | clear_value x)
    | split
    | intro _
    | (with_reducible apply Keeps.of_same; with_reducible assumption; rfl; rfl; rfl; rfl; rfl; rfl)

theorem State.bootRecord_keeps (h : s0.Keeps s)  : s0.Keeps (State.bootRecord s) := by
  unfold State.bootRecord
  repeat' first
    | (with_reducible first | assumption | apply State.sendRecord_keeps)
    | (with_reducible apply snd_keeps; with_reducible assumption)
    | (extract_lets -underBinder +onlyGivenNames x; first | (refine mp_keeps (s0 := s0) x ?_ ?_; unfold x; clear x; rotate_left; intro hx; clear_value x) | clear_value x)
    | split
    | intro _

theorem State.importOne_keeps (h : s0.Keeps s) (b : Bytes) : s0.Keeps (State.importOne s b) := by
  unfold State.importOne
  repeat' first
    | (with_reducible first | assumption | apply State.sendRecord_keeps | apply State.iff_keeps | apply State.raise_keeps)
    | (with_reducible apply snd_keeps; with_reducible assumption)
    | (extract_lets -underBinder +onlyGivenNames x; first | (refine mp_keeps (s0 := s0) x ?_ ?_; unfold x; clear x; rotate_left; intro hx; clear_value x) | clear_value x)
    | split
    | intro _

theorem execBookScan_keeps (t : Nat) (bad : List Nat) (linkRun : Nat) (s0 : State) : s0.Completes (execBookScan t bad linkRun s0) := by
  unfold execBookScan
  repeat' first
    | (with_reducible first | assumption | apply act_keeps | apply actIn_keeps | apply actAon_keeps | apply State.modBook_keeps
                            | apply State.iff_keeps | apply State.raise_keeps | apply State.bookFail_keeps
                            | apply State.importOne_keeps | apply State.bootRecord_keeps | apply foldl_keeps
                            | apply foldl_snd_keeps | apply foldl_fst_keeps)
    | (with_reducible apply snd_keeps; with_reducible assumption)
    | (extract_lets -underBinder +onlyGivenNames x; first | (refine mp_keeps (s0 := s0) x ?_ ?_; unfold x; clear x; rotate_left; intro hx; clear_value x) | clear_value x)
    | split
    | intro _
    | (with_reducible apply Keeps.of_same; with_reducible assumption; rfl; rfl; rfl; rfl; rfl; rfl)

theorem execRateRefill_keeps (t : Nat) (s0 : State) : s0.Completes (execRateRefill t s0) := by
  unfold execRateRefill
  repeat' first
    | (with_reducible first | assumption | apply act_keeps | apply actIn_keeps | apply actAon_keeps | apply State.modBook_keeps
                            | apply State.record_keeps | apply foldl_keeps | apply foldl_snd_keeps | apply foldl_fst_keeps)
    | (with_reducible apply snd_keeps; with_reducible assumption)
    | (extract_lets -underBinder +onlyGivenNames x; first | (refine mp_keeps (s0 := s0) x ?_ ?_; unfold x; clear x; rotate_left; intro hx; clear_value x) | clear_value x)
    | split
    | intro _
    | (with_reducible apply Keeps.of_same; with_reducible assumption; rfl; rfl; rfl; rfl; rfl; rfl)

theorem execBookRead_keeps (t : Nat) (s0 : State) : s0.Completes (execBookRead t s0) := by
  unfold execBookRead
  repeat' first
    | (with_reducible first | assumption | apply act_keeps | apply actIn_keeps | apply actAon_keeps | apply State.iff_keeps
                            | apply State.onTurn_keeps | apply State.ends_keeps | apply State.bufEnd_keeps)
    | (with_reducible apply snd_keeps; with_reducible assumption)
    | (extract_lets -underBinder +onlyGivenNames x; first | (refine mp_keeps (s0 := s0) x ?_ ?_; unfold x; clear x; rotate_left; intro hx; clear_value x) | clear_value x)
    | split
    | intro _

theorem execBookClear_keeps (t : Nat) (pass : Bool) (s0 : State) : s0.Completes (execBookClear t pass s0) := by
  unfold execBookClear
  repeat' first
    | (with_reducible first | assumption | apply act_keeps | apply actIn_keeps | apply actAon_keeps | apply State.iff_keeps
                            | apply State.onTurn_keeps | apply State.ends_keeps | apply State.modBook_keeps
                            | apply State.bookFail_keeps | apply State.bootRecord_keeps)
    | (with_reducible apply snd_keeps; with_reducible assumption)
    | (extract_lets -underBinder +onlyGivenNames x; first | (refine mp_keeps (s0 := s0) x ?_ ?_; unfold x; clear x; rotate_left; intro hx; clear_value x) | clear_value x)
    | split
    | intro _
    | (with_reducible apply Keeps.of_same; with_reducible assumption; rfl; rfl; rfl; rfl; rfl; rfl)

theorem State.setBand_keeps (h : s0.Keeps s) (i : Nat) (b : Nat) : s0.Keeps (State.setBand s i b) := by
  unfold State.setBand
  repeat' first
    | (with_reducible first | assumption | apply State.iff_keeps | apply State.bandKeep_keeps | apply State.modSensor_keeps
                            | apply State.raise_keeps)
    | (with_reducible apply snd_keeps; with_reducible assumption)
    | (extract_lets -underBinder +onlyGivenNames x; first | (refine mp_keeps (s0 := s0) x ?_ ?_; unfold x; clear x; rotate_left; intro hx; clear_value x) | clear_value x)
    | split
    | intro _
    | (with_reducible apply Keeps.of_same; with_reducible assumption; rfl; rfl; rfl; rfl; rfl; rfl)

theorem State.tempInvalid_keeps (h : s0.Keeps s) (i : Nat) : s0.Keeps (State.tempInvalid s i) := by
  unfold State.tempInvalid
  repeat' first
    | (with_reducible first | assumption | apply State.modSensor_keeps | apply State.iff_keeps | apply State.raise_keeps
                            | apply State.setBand_keeps)
    | (with_reducible apply snd_keeps; with_reducible assumption)
    | (extract_lets -underBinder +onlyGivenNames x; first | (refine mp_keeps (s0 := s0) x ?_ ?_; unfold x; clear x; rotate_left; intro hx; clear_value x) | clear_value x)
    | split
    | intro _
    | (with_reducible apply Keeps.of_same; with_reducible assumption; rfl; rfl; rfl; rfl; rfl; rfl)

theorem State.tempValid_keeps (h : s0.Keeps s) (i : Nat) (T : Int) : s0.Keeps (State.tempValid s i T) := by
  unfold State.tempValid
  repeat' first
    | (with_reducible first | assumption | apply State.modSensor_keeps | apply State.iff_keeps | apply State.raise_keeps
                            | apply State.setBand_keeps | apply State.bandKeep_keeps)
    | (with_reducible apply snd_keeps; with_reducible assumption)
    | (extract_lets -underBinder +onlyGivenNames x; first | (refine mp_keeps (s0 := s0) x ?_ ?_; unfold x; clear x; rotate_left; intro hx; clear_value x) | clear_value x)
    | split
    | intro _
    | (with_reducible apply Keeps.of_same; with_reducible assumption; rfl; rfl; rfl; rfl; rfl; rfl)

theorem execTemperatureResult_keeps (t : Nat) (i : Nat) (m : TempIn) (s0 : State) : s0.Completes (execTemperatureResult t i m s0) := by
  unfold execTemperatureResult
  repeat' first
    | (with_reducible first | assumption | apply act_keeps | apply actIn_keeps | apply actAon_keeps
                            | apply State.tempInvalid_keeps | apply State.tempValid_keeps | apply State.free_keeps)
    | (with_reducible apply snd_keeps; with_reducible assumption)
    | (extract_lets -underBinder +onlyGivenNames x; first | (refine mp_keeps (s0 := s0) x ?_ ?_; unfold x; clear x; rotate_left; intro hx; clear_value x) | clear_value x)
    | split
    | intro _
    | (with_reducible apply Keeps.of_same; with_reducible assumption; rfl; rfl; rfl; rfl; rfl; rfl)

/-! ### Flags -/

theorem State.clearOnes_keeps (h : s0.Keeps s) (r : Reg) (i : Nat) (j : Nat) (v : Word) : s0.Keeps (State.clearOnes s r i j v) := by
  unfold State.clearOnes
  repeat' first
    | (with_reducible first | assumption | apply State.setReg_keeps)
    | (with_reducible apply snd_keeps; with_reducible assumption)
    | (extract_lets -underBinder +onlyGivenNames x; first | (refine mp_keeps (s0 := s0) x ?_ ?_; unfold x; clear x; rotate_left; intro hx; clear_value x) | clear_value x)
    | split
    | intro _

/-! ### Access -/

theorem State.passGate_keeps (h : s0.Keeps s) (off : Nat) : s0.Keeps (State.passGate s off) := by
  unfold State.passGate
  repeat' first
    | (with_reducible first | assumption | apply State.openGate_keeps)
    | (with_reducible apply snd_keeps; with_reducible assumption)
    | (extract_lets -underBinder +onlyGivenNames x; first | (refine mp_keeps (s0 := s0) x ?_ ?_; unfold x; clear x; rotate_left; intro hx; clear_value x) | clear_value x)
    | split
    | intro _

theorem State.setLatch_keeps (h : s0.Keeps s) (off : Nat) (v : Word) : s0.Keeps (State.setLatch s off v) := by
  unfold State.setLatch
  repeat' first
    | (with_reducible first | assumption)
    | (with_reducible apply snd_keeps; with_reducible assumption)
    | (extract_lets -underBinder +onlyGivenNames x; first | (refine mp_keeps (s0 := s0) x ?_ ?_; unfold x; clear x; rotate_left; intro hx; clear_value x) | clear_value x)
    | split
    | intro _
    | (with_reducible apply Keeps.of_same; with_reducible assumption; rfl; rfl; rfl; rfl; rfl; rfl)

theorem State.latchWords_keeps (h : s0.Keeps s) (r : Reg) (n : Nat) : s0.Keeps (State.latchWords s r n) := by
  unfold State.latchWords
  repeat' first
    | (with_reducible first | assumption | apply State.forAll_keeps | apply State.setLatch_keeps)
    | (with_reducible apply snd_keeps; with_reducible assumption)
    | (extract_lets -underBinder +onlyGivenNames x; first | (refine mp_keeps (s0 := s0) x ?_ ?_; unfold x; clear x; rotate_left; intro hx; clear_value x) | clear_value x)
    | split
    | intro _

theorem State.returns_keeps (h : s0.Keeps s) (off : Nat) : s0.Keeps (State.returns s off) := by
  unfold State.returns
  repeat' first
    | (with_reducible first | assumption)
    | (with_reducible apply snd_keeps; with_reducible assumption)
    | (extract_lets -underBinder +onlyGivenNames x; first | (refine mp_keeps (s0 := s0) x ?_ ?_; unfold x; clear x; rotate_left; intro hx; clear_value x) | clear_value x)
    | split
    | intro _
    | (with_reducible apply Keeps.of_same; with_reducible assumption; rfl; rfl; rfl; rfl; rfl; rfl)

theorem State.readLo_keeps (h : s0.Keeps s) (off : Nat) : s0.Keeps (State.readLo s off) := by
  unfold State.readLo
  repeat' first
    | (with_reducible first | assumption | apply State.passGate_keeps | apply State.setLatch_keeps | apply State.returns_keeps)
    | (with_reducible apply snd_keeps; with_reducible assumption)
    | (extract_lets -underBinder +onlyGivenNames x; first | (refine mp_keeps (s0 := s0) x ?_ ?_; unfold x; clear x; rotate_left; intro hx; clear_value x) | clear_value x)
    | split
    | intro _
    | (with_reducible apply Keeps.of_same; with_reducible assumption; rfl; rfl; rfl; rfl; rfl; rfl)

theorem execLoRead_keeps (t : Nat) (off : Nat) (s0 : State) : s0.Completes (execLoRead t off s0) := by
  unfold execLoRead
  repeat' first
    | (with_reducible first | assumption | apply act_keeps | apply actIn_keeps | apply actAon_keeps | apply State.readLo_keeps)
    | (with_reducible apply snd_keeps; with_reducible assumption)
    | (extract_lets -underBinder +onlyGivenNames x; first | (refine mp_keeps (s0 := s0) x ?_ ?_; unfold x; clear x; rotate_left; intro hx; clear_value x) | clear_value x)
    | split
    | intro _

theorem State.readArray_keeps (h : s0.Keeps s) (r : Reg) (n : Nat) : s0.Keeps (State.readArray s r n) := by
  unfold State.readArray
  repeat' first
    | (with_reducible first | assumption | apply State.iff_keeps | apply State.latchWords_keeps | apply State.returns_keeps)
    | (with_reducible apply snd_keeps; with_reducible assumption)
    | (extract_lets -underBinder +onlyGivenNames x; first | (refine mp_keeps (s0 := s0) x ?_ ?_; unfold x; clear x; rotate_left; intro hx; clear_value x) | clear_value x)
    | split
    | intro _

theorem execTimNowRead_keeps (t : Nat) (off : Nat) (s0 : State) : s0.Completes (execTimNowRead t off s0) := by
  unfold execTimNowRead
  repeat' first
    | (with_reducible first | assumption | apply act_keeps | apply actIn_keeps | apply actAon_keeps | apply State.readArray_keeps)
    | (with_reducible apply snd_keeps; with_reducible assumption)
    | (extract_lets -underBinder +onlyGivenNames x; first | (refine mp_keeps (s0 := s0) x ?_ ?_; unfold x; clear x; rotate_left; intro hx; clear_value x) | clear_value x)
    | split
    | intro _

theorem execTimPpsInRead_keeps (t : Nat) (s0 : State) : s0.Completes (execTimPpsInRead t s0) := by
  unfold execTimPpsInRead
  repeat' first
    | (with_reducible first | assumption | apply act_keeps | apply actIn_keeps | apply actAon_keeps | apply State.readArray_keeps)
    | (with_reducible apply snd_keeps; with_reducible assumption)
    | (extract_lets -underBinder +onlyGivenNames x; first | (refine mp_keeps (s0 := s0) x ?_ ?_; unfold x; clear x; rotate_left; intro hx; clear_value x) | clear_value x)
    | split
    | intro _

theorem execAdcResultRead_keeps (t : Nat) (n : Nat) (s0 : State) : s0.Completes (execAdcResultRead t n s0) := by
  unfold execAdcResultRead
  repeat' first
    | (with_reducible first | assumption | apply act_keeps | apply actIn_keeps | apply actAon_keeps | apply State.iff_keeps
                            | apply State.setLatch_keeps | apply State.returns_keeps)
    | (with_reducible apply snd_keeps; with_reducible assumption)
    | (extract_lets -underBinder +onlyGivenNames x; first | (refine mp_keeps (s0 := s0) x ?_ ?_; unfold x; clear x; rotate_left; intro hx; clear_value x) | clear_value x)
    | split
    | intro _

theorem State.plainWrite_keeps (h : s0.Keeps s) (r : Reg) (i : Nat) (j : Nat) (v : Word) : s0.Keeps (State.plainWrite s r i j v) := by
  unfold State.plainWrite
  repeat' first
    | (with_reducible first | assumption | apply State.iff_keeps | apply State.setReg_keeps | apply State.clearOnes_keeps)
    | (with_reducible apply snd_keeps; with_reducible assumption)
    | (extract_lets -underBinder +onlyGivenNames x; first | (refine mp_keeps (s0 := s0) x ?_ ?_; unfold x; clear x; rotate_left; intro hx; clear_value x) | clear_value x)
    | split
    | intro _

theorem State.afterWrite_keeps (h : s0.Keeps s) (was : Word) (r : Reg) (i : Nat) (j : Nat) : s0.Keeps (State.afterWrite s was r i j) := by
  unfold State.afterWrite
  repeat' first
    | (with_reducible first | assumption | apply State.iff_keeps | apply State.unconfirm_keeps | apply State.pairEnable_keeps
                            | apply State.groupOff_keeps | apply State.forAll_keeps | apply State.openGate_keeps
                            | apply State.sendHeld_keeps | apply State.setRf_keeps | apply State.modAtrg_keeps
                            | apply State.twReset_keeps | apply State.fwPush_keeps)
    | (with_reducible apply snd_keeps; with_reducible assumption)
    | (extract_lets -underBinder +onlyGivenNames x; first | (refine mp_keeps (s0 := s0) x ?_ ?_; unfold x; clear x; rotate_left; intro hx; clear_value x) | clear_value x)
    | split
    | intro _
    | (with_reducible apply Keeps.of_same; with_reducible assumption; rfl; rfl; rfl; rfl; rfl; rfl)

theorem State.regWrite_keeps (h : s0.Keeps s) (r : Reg) (i : Nat) (j : Nat) (v : Word) : s0.Keeps (State.regWrite s r i j v) := by
  unfold State.regWrite
  repeat' first
    | (with_reducible first | assumption | apply State.writeSysReset_keeps | apply State.writeLock_keeps
                            | apply State.writeModeReq_keeps | apply State.writePllOut_keeps | apply State.startRecovery_keeps
                            | apply State.writeRingCfg_keeps | apply State.writeTimCtrl_keeps | apply State.writeTargetHi_keeps
                            | apply State.lnkCtrlWrite_keeps | apply State.writeHlth_keeps | apply State.planWrite_keeps
                            | apply State.writeOutEn_keeps | apply State.writeBootEmpty_keeps | apply State.writeAdcCtrl_keeps
                            | apply State.iff_keeps | apply State.injWrite_keeps | apply State.writeAdcCal_keeps
                            | apply State.writeAdcOfs_keeps | apply State.writeAdcGain_keeps | apply State.writeFadCal_keeps
                            | apply State.writeFadOfs_keeps | apply State.writeFadGain_keeps | apply State.writeSeqCtrl_keeps
                            | apply State.writePmuCtrl_keeps | apply State.safConfirm_keeps | apply State.safOutClear_keeps
                            | apply State.writeWchCtrl_keeps | apply State.writeWchStatus_keeps | apply State.writeErrn_keeps
                            | apply State.writeLatch_keeps | apply State.writeForce_keeps | apply State.plainWrite_keeps
                            | apply State.afterWrite_keeps)
    | (with_reducible apply snd_keeps; with_reducible assumption)
    | (extract_lets -underBinder +onlyGivenNames x; first | (refine mp_keeps (s0 := s0) x ?_ ?_; unfold x; clear x; rotate_left; intro hx; clear_value x) | clear_value x)
    | split
    | intro _
    | (with_reducible apply Keeps.of_same; with_reducible assumption; rfl; rfl; rfl; rfl; rfl; rfl)

theorem State.bar0Write_keeps (h : s0.Keeps s) (off : Nat) (v : Word) (be : Nat) : s0.Keeps (State.bar0Write s off v be) := by
  unfold State.bar0Write
  repeat' first
    | (with_reducible first | assumption | apply State.passGate_keeps | apply State.regWrite_keeps)
    | (with_reducible apply snd_keeps; with_reducible assumption)
    | (extract_lets -underBinder +onlyGivenNames x; first | (refine mp_keeps (s0 := s0) x ?_ ?_; unfold x; clear x; rotate_left; intro hx; clear_value x) | clear_value x)
    | split
    | intro _
    | (with_reducible apply Keeps.of_same; with_reducible assumption; rfl; rfl; rfl; rfl; rfl; rfl)

theorem execRegisterWrite_keeps (t : Nat) (off : Nat) (v : Word) (be : Nat) (s0 : State) : s0.Completes (execRegisterWrite t off v be s0) := by
  unfold execRegisterWrite
  repeat' first
    | (with_reducible first | assumption | apply act_keeps | apply actIn_keeps | apply actAon_keeps | apply State.bar0Write_keeps)
    | (with_reducible apply snd_keeps; with_reducible assumption)
    | (extract_lets -underBinder +onlyGivenNames x; first | (refine mp_keeps (s0 := s0) x ?_ ?_; unfold x; clear x; rotate_left; intro hx; clear_value x) | clear_value x)
    | split
    | intro _

theorem execConfigLoad_keeps (t : Nat) (buf : Option Bytes) (s0 : State) : s0.Completes (execConfigLoad t buf s0) := by
  unfold execConfigLoad
  repeat' first
    | (with_reducible first | assumption | apply act_keeps | apply actIn_keeps | apply actAon_keeps | apply State.iff_keeps
                            | apply State.onTurn_keeps | apply State.ends_keeps | apply State.readBuf_keeps
                            | apply State.hostRead_keeps | apply State.bar0Write_keeps | apply State.measure_keeps
                            | apply foldl_keeps | apply foldl_snd_keeps | apply foldl_fst_keeps)
    | (with_reducible apply snd_keeps; with_reducible assumption)
    | (extract_lets -underBinder +onlyGivenNames x; first | (refine mp_keeps (s0 := s0) x ?_ ?_; unfold x; clear x; rotate_left; intro hx; clear_value x) | clear_value x)
    | split
    | intro _
    | (with_reducible apply Keeps.of_same; with_reducible assumption; rfl; rfl; rfl; rfl; rfl; rfl)

end Sys2Proof.Machine
end

