-- ==== Sys2Proof/Laws/Step.lean ====
section
/-! SUPPORT. One step: every command completes, and every step keeps what State.Keeps says. -/

namespace Sys2Proof.Machine

/-- Every command completes with a next state that keeps the queue, the part, the fuses and the invariants. -/
theorem exec_keeps (i : Instr) (s : State) : s.Completes (exec i s) := by
  cases i with
  | powerOnReset t aonFell => exact execPowerOnReset_keeps t aonFell s
  | powerOnResetRelease t => exact execPowerOnResetRelease_keeps t s
  | safetySupplyFault t => exact execSafetySupplyFault_keeps t s
  | safetySupplyRecovery t => exact execSafetySupplyRecovery_keeps t s
  | memorySupplyLoss t => exact execMemorySupplyLoss_keeps t s
  | fastConverterSupplyLoss t => exact execFastConverterSupplyLoss_keeps t s
  | aonTemperature t degC => exact execAonTemperature_keeps t degC s
  | provingWindow t src w => exact execProvingWindow_keeps t src w s
  | sourceMissing t src => exact execSourceMissing_keeps t src s
  | noReference t aon => exact execNoReference_keeps t aon s
  | lockAttempt t found => exact execLockAttempt_keeps t found s
  | pllALock t => exact execPllALock_keeps t s
  | rootRelease t => exact execRootRelease_keeps t s
  | lossOfLock t aon => exact execLossOfLock_keeps t aon s
  | referenceSelect t src => exact execReferenceSelect_keeps t src s
  | gateClose t block => exact execGateClose_keeps t block s
  | pllBEnable t j v => exact execPllBEnable_keeps t j v s
  | pllBDisable t j v => exact execPllBDisable_keeps t j v s
  | pllBTargetWrite t j v => exact execPllBTargetWrite_keeps t j v s
  | pllBUnlock t => exact execPllBUnlock_keeps t s
  | pllBRelock t => exact execPllBRelock_keeps t s
  | flashHeaderRead t hdrA hdrB => exact execFlashHeaderRead_keeps t hdrA hdrB s
  | payloadRead t payload => exact execPayloadRead_keeps t payload s
  | secRecoveryStart t v => exact execSecRecoveryStart_keeps t v s
  | recoveryFetchDone t image => exact execRecoveryFetchDone_keeps t image s
  | sysReset t v => exact execSysReset_keeps t v s
  | managementWatchdog t => exact execManagementWatchdog_keeps t s
  | hostLinkReset t => exact execHostLinkReset_keeps t s
  | busMasterEnable t c z => exact execBusMasterEnable_keeps t c z s
  | sysLock t v => exact execSysLock_keeps t v s
  | readIdentity t => exact execReadIdentity_keeps t s
  | attest t buf => exact execAttest_keeps t buf s
  | commitVersion t burnt => exact execCommitVersion_keeps t burnt s
  | programOwnerKey t buf w => exact execProgramOwnerKey_keeps t buf w s
  | revokeOwnerKey t buf burnt => exact execRevokeOwnerKey_keeps t buf burnt s
  | setOwnerEnforce t burnt => exact execSetOwnerEnforce_keeps t burnt s
  | sysModeReq t v => exact execSysModeReq_keeps t v s
  | setMode t => exact execSetMode_keeps t s
  | configLoad t buf => exact execConfigLoad_keeps t buf s
  | nop t => exact execNop_keeps t s
  | poll t => exact execPoll_keeps t s
  | doorbellRead t slots => exact execDoorbellRead_keeps t slots s
  | descriptorFetch t ring descs => exact execDescriptorFetch_keeps t ring descs s
  | ringEnable t ring v => exact execRingEnable_keeps t ring v s
  | ringStop t ring v => exact execRingStop_keeps t ring v s
  | setpoint t => exact execSetpoint_keeps t s
  | registerWrite t off v be => exact execRegisterWrite_keeps t off v be s
  | loRead t off => exact execLoRead_keeps t off s
  | timNowRead t off => exact execTimNowRead_keeps t off s
  | timPpsInRead t => exact execTimPpsInRead_keeps t s
  | adcResultRead t n => exact execAdcResultRead_keeps t n s
  | milDataRead t => exact execMilDataRead_keeps t s
  | updateInstant t => exact execUpdateInstant_keeps t s
  | timCtrlSet t v => exact execTimCtrlSet_keeps t v s
  | timTargetWrite t v => exact execTimTargetWrite_keeps t v s
  | ptpSourceLost t => exact execPtpSourceLost_keeps t s
  | ppsSourceLost t => exact execPpsSourceLost_keeps t s
  | holdoverExpired t => exact execHoldoverExpired_keeps t s
  | ppsOutRise t => exact execPpsOutRise_keeps t s
  | ppsOutFall t => exact execPpsOutFall_keeps t s
  | ppsInEdge t edge servo => exact execPpsInEdge_keeps t edge servo s
  | stationFrame t port sIn sOut frame est steer => exact execStationFrame_keeps t port sIn sOut frame est steer s
  | pdelayReqSend t port t1 => exact execPdelayReqSend_keeps t port t1 s
  | stationLinkDown t port => exact execStationLinkDown_keeps t port s
  | transmit t buf sOut => exact execTransmit_keeps t buf sOut s
  | bellAdd t buf => exact execBellAdd_keeps t buf s
  | bellCancel t => exact execBellCancel_keeps t s
  | bellFire t => exact execBellFire_keeps t s
  | writeInput t => exact execWriteInput_keeps t s
  | writeParam t => exact execWriteParam_keeps t s
  | changeMode t => exact execChangeMode_keeps t s
  | captureArm t => exact execCaptureArm_keeps t s
  | captureForce t => exact execCaptureForce_keeps t s
  | phaseStep t => exact execPhaseStep_keeps t s
  | calibrateLink t => exact execCalibrateLink_keeps t s
  | calibrateDelayLine t => exact execCalibrateDelayLine_keeps t s
  | calibrateAdc t => exact execCalibrateAdc_keeps t s
  | calibrateFad t => exact execCalibrateFad_keeps t s
  | cellRetire t => exact execCellRetire_keeps t s
  | cellReturn t => exact execCellReturn_keeps t s
  | emitFrame t => exact execEmitFrame_keeps t s
  | downstreamFrame t p => exact execDownstreamFrame_keeps t p s
  | upstreamFrame t p rx frame clean => exact execUpstreamFrame_keeps t p rx frame clean s
  | upstreamSlotClose t p n => exact execUpstreamSlotClose_keeps t p n s
  | cellLos t p => exact execCellLos_keeps t p s
  | advanceStep t p n => exact execAdvanceStep_keeps t p n s
  | lnkEnable t p v => exact execLnkEnable_keeps t p v s
  | lnkDisable t p v => exact execLnkDisable_keeps t p v s
  | lnkRetrain t p v => exact execLnkRetrain_keeps t p v s
  | lnkGenerationWrite t p v => exact execLnkGenerationWrite_keeps t p v s
  | mailbox t buf => exact execMailbox_keeps t buf s
  | paramRead t buf => exact execParamRead_keeps t buf s
  | paramWrite t buf => exact execParamWrite_keeps t buf s
  | inputClose t g task => exact execInputClose_keeps t g task s
  | taskStep t task => exact execTaskStep_keeps t task s
  | taskCommit t task => exact execTaskCommit_keeps t task s
  | telemetryRecord t => exact execTelemetryRecord_keeps t s
  | millLoad t buf => exact execMillLoad_keeps t buf s
  | millParam t => exact execMillParam_keeps t s
  | freezePoint t g => exact execFreezePoint_keeps t g s
  | groupBoundary t g hits => exact execGroupBoundary_keeps t g hits s
  | gceForceCommit t v => exact execGceForceCommit_keeps t v s
  | delayLineUpdate t n hits => exact execDelayLineUpdate_keeps t n hits s
  | localEdge t n => exact execLocalEdge_keeps t n s
  | legOutEnWrite t v => exact execLegOutEnWrite_keeps t v s
  | legRdyLoss t p => exact execLegRdyLoss_keeps t p s
  | blankingEnd t n => exact execBlankingEnd_keeps t n s
  | desaturation t p => exact execDesaturation_keeps t p s
  | softOffHoldEnd t n => exact execSoftOffHoldEnd_keeps t n s
  | legBootEmptyClear t w v => exact execLegBootEmptyClear_keeps t w v s
  | boundarySpan t c g => exact execBoundarySpan_keeps t c g s
  | precisionResult t c raw => exact execPrecisionResult_keeps t c raw s
  | precisionLinkError t c => exact execPrecisionLinkError_keeps t c s
  | sequencerStep t => exact execSequencerStep_keeps t s
  | adcSeqStart t v => exact execAdcSeqStart_keeps t v s
  | adcSeqStop t v => exact execAdcSeqStop_keeps t v s
  | adcInjStart t v => exact execAdcInjStart_keeps t v s
  | injectedSpan t => exact execInjectedSpan_keeps t s
  | adcCalStart t v => exact execAdcCalStart_keeps t v s
  | calibrationStart t c raw => exact execCalibrationStart_keeps t c raw s
  | calibrationEnd t c => exact execCalibrationEnd_keeps t c s
  | adcCalGainWrite t c b v => exact execAdcCalGainWrite_keeps t c b v s
  | fastSample t n at_ raw => exact execFastSample_keeps t n at_ raw s
  | fastLinkError t n at_ => exact execFastLinkError_keeps t n at_ s
  | fadCalStart t v => exact execFadCalStart_keeps t v s
  | fastCalibrationEnd t n => exact execFastCalibrationEnd_keeps t n s
  | fadCalGainWrite t c b v => exact execFadCalGainWrite_keeps t c b v s
  | healthLeak t kind => exact execHealthLeak_keeps t kind s
  | bypassDeadline t p => exact execBypassDeadline_keeps t p s
  | returnTimeout t p => exact execReturnTimeout_keeps t p s
  | retire t => exact execRetire_keeps t s
  | returnCh t => exact execReturnCh_keeps t s
  | lnkHlthClear t h v => exact execLnkHlthClear_keeps t h v s
  | pairFrame t rx frame clean => exact execPairFrame_keeps t rx frame clean s
  | peerLost t => exact execPeerLost_keeps t s
  | hashTimeout t g b => exact execHashTimeout_keeps t g b s
  | verifyDone t reproduced => exact execVerifyDone_keeps t reproduced s
  | verifyTimeout t => exact execVerifyTimeout_keeps t s
  | pairHandover t => exact execPairHandover_keeps t s
  | offerLapse t => exact execOfferLapse_keeps t s
  | handoverSwitch t => exact execHandoverSwitch_keeps t s
  | failedEntry t => exact execFailedEntry_keeps t s
  | followTimeout t => exact execFollowTimeout_keeps t s
  | arm t => exact execArm_keeps t s
  | force t => exact execForce_keeps t s
  | abort t => exact execAbort_keeps t s
  | copyOut t c => exact execCopyOut_keeps t c s
  | release t => exact execRelease_keeps t s
  | recordEnd t u => exact execRecordEnd_keeps t u s
  | sequenceTimer t j => exact execSequenceTimer_keeps t j s
  | capSeqEnable t j v => exact execCapSeqEnable_keeps t j v s
  | pmuEnable t v => exact execPmuEnable_keeps t v s
  | pmuStop t v => exact execPmuStop_keeps t v s
  | phasorReport t => exact execPhasorReport_keeps t s
  | safetyCycle t inp => exact execSafetyCycle_keeps t inp s
  | channelASilence t => exact execChannelASilence_keeps t s
  | consumerWatchdog t c => exact execConsumerWatchdog_keeps t c s
  | outputTest t j low h l => exact execOutputTest_keeps t j low h l s
  | safOutClear t v => exact execSafOutClear_keeps t v s
  | safConfirm t v => exact execSafConfirm_keeps t v s
  | safetyPdu t buf => exact execSafetyPdu_keeps t buf s
  | wchLatchClear t w v => exact execWchLatchClear_keeps t w v s
  | wchForce t w v => exact execWchForce_keeps t w v s
  | wchIrqClear t v => exact execWchIrqClear_keeps t v s
  | wchIrqEnable t v => exact execWchIrqEnable_keeps t v s
  | wchErrnLevel t v => exact execWchErrnLevel_keeps t v s
  | errnPulseEnd t => exact execErrnPulseEnd_keeps t s
  | bookWrite t first second => exact execBookWrite_keeps t first second s
  | bookScan t bad linkRun => exact execBookScan_keeps t bad linkRun s
  | rateRefill t => exact execRateRefill_keeps t s
  | bookRead t => exact execBookRead_keeps t s
  | bookClear t pass => exact execBookClear_keeps t pass s
  | temperatureResult t k m => exact execTemperatureResult_keeps t k m s
  | thermalShutdown t aon => exact execThermalShutdown_keeps t aon s
  | thermalRestart t => exact execThermalRestart_keeps t s
  | vtuneMargin t high => exact execVtuneMargin_keeps t high s
  | stationLinkUp t port => exact execStationLinkUp_keeps t port s
  | pairLaneAlignmentLoss t lane => exact execPairLaneAlignmentLoss_keeps t lane s
  | legRdyReturn t p => exact execLegRdyReturn_keeps t p s
  | memorySupplyRecovery t => exact execMemorySupplyRecovery_keeps t s
  | fastConverterSupplyRecovery t => exact execFastConverterSupplyRecovery_keeps t s
  | calibrationSpan t c raw => exact execCalibrationSpan_keeps t c raw s
  | pairFrameForm t => exact execPairFrameForm_keeps t s

/-- Every command ends with a settled state. -/
theorem exec_settles (i : Instr) (s : State) : ∃ u : State, exec i s = .next u.settle := by
  cases i <;> exact ⟨_, rfl⟩

theorem exec_settled (i : Instr) (s t : State) (h : exec i s = .next t) : t.Settled := by
  obtain ⟨u, e⟩ := exec_settles i s
  rw [e] at h
  cases h
  exact State.settle_settled u

end Sys2Proof.Machine
end

