-- ==== Sys2Proof/Machine/Pins.lean ====
section
/-! DEFINITION. Levels of the output pins as State gives them (R34, R70, R77, R209, R268, R499). -/

namespace Sys2Proof.Machine

/-- What an output stage does. -/
inductive Drive where
  | low
  | high
  /-- high impedance, or an open-drain output released -/
  | released
  deriving DecidableEq, Repr

/-- Driven to a level. -/
def drive (v : Bool) : Drive := if v then .high else .low

/-- LEG_GH and LEG_GL, by local switch: low while the root is not released (R34, R70), while the leg is not enabled and on a unit that
does not drive (R259, R384); in a soft-off hold with soft_mode 1 released (R268). -/
def State.legPin (s : State) (n : Nat) : Drive :=
  let w := s.sw n
  if !(s.released && (s.lg (n / 2)).out && s.drives) then .low
  else if w.on || 32 * s.clk.now < w.offAt then .high
  else match w.hold with
  | some e => if s.clk.now < e && s.rb .legCfg (n / 2) 2 then .released else .low
  | none => .low

/-- CELL_TXDIS[p]: high, transmitter disabled, until the port leaves Off (R34, R209). -/
def State.cellTxdis (s : State) (p : Nat) : Drive := drive ((s.port p).st = 0)

/-- CELL_TX[p] is in electrical idle: in Off, and by the AON island while no root-derived clock runs (R34, R70, R209). -/
def State.cellTxIdle (s : State) (p : Nat) : Bool := !s.released || (s.port p).st = 0

/-- PAIR_TX is in electrical idle (R34, R70). -/
def State.pairTxIdle (s : State) : Bool := !s.released || !s.rb .pairCtrl 0 31

/-- STA_TX of station port a is in electrical idle (R34, R70). -/
def State.staTxIdle (s : State) (a : Nat) : Bool := !s.released || !s.rb .ptpPortCtrl a 31

/-- ERR_N (R34, R70, R487). -/
def State.errN (s : State) : Drive := if s.errNLow then .low else .released

/-- THM_SHDN_N (R34, R499). -/
def State.thmShdnN (s : State) : Drive := if s.clk.shdn then .low else .released

/-- CLKOUT j carries a clock; stopped, both legs are low (R34, R70, R77). -/
def State.clkoutRuns (s : State) (j : Nat) : Bool :=
  s.released && ((s.out j).running || 32 * s.clk.now < (s.out j).edge)

/-- PPS_OUT (R34, R70). -/
def State.ppsOut (s : State) : Drive := drive (s.released && s.tim.ppsPin)

/-- QSPI_CS_N: high once the boot ROM has taken the bus, but for the flash commands it runs; before, the manual gives no level (R34). -/
def State.qspiCsN (s : State) : Option Drive := if s.released then some .high else none

/-- SAF_OUT_H or SAF_OUT_L (`low`) of output j: its series switch is closed (R34, R41, R446, R459). -/
def State.safClosed (s : State) (j : Nat) (low : Bool) : Bool := s.clk.supplySaf && nbit s.saf.closed j && !s.testOpen j low

/-- MEM_RESET_N: low until the boot ROM trains the memory (R34, R408). -/
def State.memResetN (s : State) : Drive := drive (s.released && s.hasCap && s.clk.supplyMem)

end Sys2Proof.Machine
end

