-- ==== Sys2Proof/WellFormed.lean ====
section
/-! DEFINITION. Well-formed commands: every index names an element the spec's tables have (R26, R27, R368, R473). An
ill-formed command is no command of the table; the machine leaves the state as it is on one (R28). -/

namespace Sys2Proof

/-- The command's indices are in the ranges of the spec's tables. -/
def Instr.wf : Instr → Bool
  | .powerOnReset _ _ => true
  | .powerOnResetRelease _ => true
  | .safetySupplyFault _ => true
  | .safetySupplyRecovery _ => true
  | .memorySupplyLoss _ => true
  | .fastConverterSupplyLoss _ => true
  | .aonTemperature _ _ => true
  | .provingWindow _ src _ => decide (src ≤ 2)
  | .sourceMissing _ src => decide (src ≤ 2)
  | .noReference _ _ => true
  | .lockAttempt _ found => decide (found ≤ 64)
  | .pllALock _ => true
  | .rootRelease _ => true
  | .lossOfLock _ _ => true
  | .referenceSelect _ src => decide (src ≤ 1)
  | .gateClose _ block => decide (block < 8)
  | .pllBEnable _ j _ => decide (j < 3)
  | .pllBDisable _ j _ => decide (j < 3)
  | .pllBTargetWrite _ j _ => decide (j < 3)
  | .pllBUnlock _ => true
  | .pllBRelock _ => true
  | .flashHeaderRead _ _ _ => true
  | .payloadRead _ payload => decide (payload.length % 64 = 0)
  | .secRecoveryStart _ _ => true
  | .recoveryFetchDone _ _ => true
  | .sysReset _ _ => true
  | .managementWatchdog _ => true
  | .hostLinkReset _ => true
  | .busMasterEnable _ _ z => decide (z.mps ≤ 2 ∧ z.mrrs ≤ 5)
  | .sysLock _ _ => true
  | .readIdentity _ => true
  | .attest _ _ => true
  | .commitVersion _ _ => true
  | .programOwnerKey _ _ _ => true
  | .revokeOwnerKey _ _ _ => true
  | .setOwnerEnforce _ _ => true
  | .sysModeReq _ _ => true
  | .setMode _ => true
  | .configLoad _ _ => true
  | .nop _ => true
  | .poll _ => true
  | .doorbellRead _ _ => true
  | .descriptorFetch _ ring _ => decide (ring < 16)
  | .ringEnable _ ring _ => decide (ring < 16)
  | .ringStop _ ring _ => decide (ring < 16)
  | .setpoint _ => true
  | .registerWrite _ off _ be => decide (off % 4 = 0) && decide (off < 0x40000) && decide (be < 16)
  | .loRead _ off => decide (off % 4 = 0) && decide (off < 0x40000)
  | .timNowRead _ off => decide (off < 0x40000)
  | .timPpsInRead _ => true
  | .adcResultRead _ n => decide (n < 32)
  | .milDataRead _ => true
  | .updateInstant _ => true
  | .timCtrlSet _ _ => true
  | .timTargetWrite _ _ => true
  | .ptpSourceLost _ => true
  | .ppsSourceLost _ => true
  | .holdoverExpired _ => true
  | .ppsOutRise _ => true
  | .ppsOutFall _ => true
  | .ppsInEdge _ _ _ => true
  | .stationFrame _ port _ _ frame _ _ => decide (port < 2) && decide (frame.length ≤ 2004)
  | .pdelayReqSend _ port _ => decide (port < 2)
  | .stationLinkDown _ port => decide (port < 2)
  | .transmit _ _ _ => true
  | .bellAdd _ _ => true
  | .bellCancel _ => true
  | .bellFire _ => true
  | .writeInput _ => true
  | .writeParam _ => true
  | .changeMode _ => true
  | .captureArm _ => true
  | .captureForce _ => true
  | .phaseStep _ => true
  | .calibrateLink _ => true
  | .calibrateDelayLine _ => true
  | .calibrateAdc _ => true
  | .calibrateFad _ => true
  | .cellRetire _ => true
  | .cellReturn _ => true
  | .emitFrame _ => true
  | .downstreamFrame _ p => decide (p < 48)
  | .upstreamFrame _ p _ frame _ => decide (p < 48) && decide (frame.length ≤ 125)
  | .upstreamSlotClose _ p _ => decide (p < 48)
  | .cellLos _ p => decide (p < 48)
  | .advanceStep _ p _ => decide (p < 48)
  | .lnkEnable _ p _ => decide (p < 48)
  | .lnkDisable _ p _ => decide (p < 48)
  | .lnkRetrain _ p _ => decide (p < 48)
  | .lnkGenerationWrite _ p _ => decide (p < 48)
  | .mailbox _ _ => true
  | .paramRead _ _ => true
  | .paramWrite _ _ => true
  | .inputClose _ g task => decide (g < 8) && decide (task ≤ 3)
  | .taskStep _ task => decide (task < 3)
  | .taskCommit _ task => decide (task < 3)
  | .telemetryRecord _ => true
  | .millLoad _ _ => true
  | .millParam _ => true
  | .freezePoint _ g => decide (g < 8)
  | .groupBoundary _ g _ => decide (g < 8)
  | .gceForceCommit _ _ => true
  | .delayLineUpdate _ n _ => decide (n < 32)
  | .localEdge _ n => decide (n < 32)
  | .legOutEnWrite _ _ => true
  | .legRdyLoss _ p => decide (p.n < 16)
  | .blankingEnd _ n => decide (n < 32)
  | .desaturation _ p => decide (p.n < 32)
  | .softOffHoldEnd _ n => decide (n < 32)
  | .legBootEmptyClear _ w _ => decide (w < 13)
  | .boundarySpan _ c g => decide (c < 8) && decide (g < 8)
  | .precisionResult _ c _ => decide (c < 8)
  | .precisionLinkError _ c => decide (c < 8)
  | .sequencerStep _ => true
  | .adcSeqStart _ _ => true
  | .adcSeqStop _ _ => true
  | .adcInjStart _ _ => true
  | .injectedSpan _ => true
  | .adcCalStart _ _ => true
  | .calibrationStart _ c _ => decide (c < 8)
  | .calibrationEnd _ c => decide (c < 8)
  | .adcCalGainWrite _ c b _ => decide (c < 8) && decide (b < 4)
  | .fastSample _ n _ _ => decide (n < 6)
  | .fastLinkError _ n _ => decide (n < 6)
  | .fadCalStart _ _ => true
  | .fastCalibrationEnd _ n => decide (n < 6)
  | .fadCalGainWrite _ c b _ => decide (c < 6) && decide (b < 4)
  | .healthLeak _ kind => decide (kind < 6)
  | .bypassDeadline _ p => decide (p < 48)
  | .returnTimeout _ p => decide (p < 48)
  | .retire _ => true
  | .returnCh _ => true
  | .lnkHlthClear _ h _ => decide (h < 106)
  | .pairFrame _ _ frame _ => decide (frame.length ≤ 1250)
  | .peerLost _ => true
  | .hashTimeout _ g _ => decide (g < 8)
  | .verifyDone _ _ => true
  | .verifyTimeout _ => true
  | .pairHandover _ => true
  | .offerLapse _ => true
  | .handoverSwitch _ => true
  | .failedEntry _ => true
  | .followTimeout _ => true
  | .arm _ => true
  | .force _ => true
  | .abort _ => true
  | .copyOut _ _ => true
  | .release _ => true
  | .recordEnd _ u => decide (u < 8)
  | .sequenceTimer _ j => decide (j < 4)
  | .capSeqEnable _ j _ => decide (j < 4)
  | .pmuEnable _ _ => true
  | .pmuStop _ _ => true
  | .phasorReport _ => true
  | .safetyCycle _ _ => true
  | .channelASilence _ => true
  | .consumerWatchdog _ c => decide (c < 56)
  | .outputTest _ j _ _ _ => decide (j < 4)
  | .safOutClear _ _ => true
  | .safConfirm _ _ => true
  | .safetyPdu _ _ => true
  | .wchLatchClear _ w _ => decide (w < 19)
  | .wchForce _ w _ => decide (w < 19)
  | .wchIrqClear _ _ => true
  | .wchIrqEnable _ _ => true
  | .wchErrnLevel _ _ => true
  | .errnPulseEnd _ => true
  | .bookWrite _ _ _ => true
  | .bookScan _ _ _ => true
  | .rateRefill _ => true
  | .bookRead _ => true
  | .bookClear _ _ => true
  | .temperatureResult _ i _ => decide (i < 11)
  | .thermalShutdown _ _ => true
  | .thermalRestart _ => true
  | .vtuneMargin _ _ => true
  | .stationLinkUp _ port => decide (port < 2)
  | .pairLaneAlignmentLoss _ lane => decide (lane < 2)
  | .legRdyReturn _ p => decide (p.n < 16)
  | .memorySupplyRecovery _ => true
  | .fastConverterSupplyRecovery _ => true
  | .calibrationSpan _ c _ => decide (c < 8)
  | .pairFrameForm _ => true

end Sys2Proof
end

