-- ==== Sys2Proof/Tests/Slice0.lean ====
section
/-! SUPPORT. Tests: the checks of WellFormed, small results from the spec's own words and numbers, and states that meet the hypotheses
of every obligation. -/

namespace Sys2Proof.Tests

set_option Elab.async false

open Sys2Proof.Machine

/-! ### WellFormed refuses -/

theorem test_wf_source : Instr.wf (.provingWindow 0 3 ⟨1000, 0⟩) = false ∧ Instr.wf (.sourceMissing 0 3) = false ∧ Instr.wf (.referenceSelect 0 2) = false := by decide
theorem test_wf_band : Instr.wf (.lockAttempt 0 65) = false := by decide
theorem test_wf_gate : Instr.wf (.gateClose 0 8) = false := by decide
theorem test_wf_pllb : Instr.wf (.pllBEnable 0 3 0) = false ∧ Instr.wf (.pllBDisable 0 3 0) = false ∧ Instr.wf (.pllBTargetWrite 0 3 0) = false := by decide
theorem test_wf_config : Instr.wf (.busMasterEnable 0 ⟨true, true, false, false, false⟩ ⟨3, 0⟩) = false ∧ Instr.wf (.busMasterEnable 0 ⟨true, true, false, false, false⟩ ⟨0, 6⟩) = false := by decide
theorem test_wf_payload : Instr.wf (.payloadRead 0 [0]) = false := by decide
theorem test_wf_ring : Instr.wf (.descriptorFetch 0 16 none) = false ∧ Instr.wf (.ringEnable 0 16 0) = false ∧ Instr.wf (.ringStop 0 16 0) = false := by decide
theorem test_wf_offset : Instr.wf (.registerWrite 0 2 0 15) = false ∧ Instr.wf (.registerWrite 0 0x40000 0 15) = false ∧ Instr.wf (.registerWrite 0 0 0 16) = false ∧
    Instr.wf (.loRead 0 1) = false ∧ Instr.wf (.loRead 0 0x40000) = false ∧ Instr.wf (.timNowRead 0 0x40000) = false := by decide
theorem test_wf_station : Instr.wf (.stationFrame 0 2 0 0 [] none ⟨none, none⟩) = false ∧ Instr.wf (.pdelayReqSend 0 2 0) = false ∧
    Instr.wf (.stationLinkDown 0 2) = false ∧ Instr.wf (.stationLinkUp 0 2) = false := by decide
theorem test_wf_port : Instr.wf (.downstreamFrame 0 48) = false ∧ Instr.wf (.upstreamFrame 0 48 0 [] true) = false ∧ Instr.wf (.upstreamSlotClose 0 48 0) = false ∧
    Instr.wf (.cellLos 0 48) = false ∧ Instr.wf (.advanceStep 0 48 0) = false ∧ Instr.wf (.lnkEnable 0 48 0) = false ∧ Instr.wf (.lnkDisable 0 48 0) = false ∧
    Instr.wf (.lnkRetrain 0 48 0) = false ∧ Instr.wf (.lnkGenerationWrite 0 48 0) = false ∧ Instr.wf (.bypassDeadline 0 48) = false ∧ Instr.wf (.returnTimeout 0 48) = false := by decide
theorem test_wf_frames : Instr.wf (.upstreamFrame 0 0 0 (List.replicate 126 0) true) = false ∧ Instr.wf (.pairFrame 0 0 (List.replicate 1251 0) true) = false ∧
    Instr.wf (.stationFrame 0 0 0 0 (List.replicate 2005 0) none ⟨none, none⟩) = false := by decide +kernel
theorem test_wf_task : Instr.wf (.inputClose 0 8 0) = false ∧ Instr.wf (.inputClose 0 0 4) = false ∧ Instr.wf (.taskStep 0 3) = false ∧ Instr.wf (.taskCommit 0 3) = false := by decide
theorem test_wf_group : Instr.wf (.freezePoint 0 8) = false ∧ Instr.wf (.groupBoundary 0 8 []) = false ∧ Instr.wf (.hashTimeout 0 8 0) = false := by decide
theorem test_wf_switch : Instr.wf (.delayLineUpdate 0 32 []) = false ∧ Instr.wf (.localEdge 0 32) = false ∧ Instr.wf (.blankingEnd 0 32) = false ∧
    Instr.wf (.desaturation 0 ⟨32, false⟩) = false ∧ Instr.wf (.softOffHoldEnd 0 32) = false ∧ Instr.wf (.adcResultRead 0 32) = false := by decide
theorem test_wf_leg : Instr.wf (.legRdyLoss 0 ⟨16, false⟩) = false ∧ Instr.wf (.legRdyReturn 0 ⟨16, true⟩) = false ∧ Instr.wf (.legBootEmptyClear 0 13 0) = false := by decide
theorem test_wf_core : Instr.wf (.boundarySpan 0 8 0) = false ∧ Instr.wf (.boundarySpan 0 0 8) = false ∧ Instr.wf (.precisionResult 0 8 0) = false ∧ Instr.wf (.precisionLinkError 0 8) = false ∧
    Instr.wf (.calibrationStart 0 8 0) = false ∧ Instr.wf (.calibrationEnd 0 8) = false ∧ Instr.wf (.calibrationSpan 0 8 0) = false ∧ Instr.wf (.adcCalGainWrite 0 0 4 0) = false ∧ Instr.wf (.adcCalGainWrite 0 8 0 0) = false := by decide
theorem test_wf_fast : Instr.wf (.fastSample 0 6 0 0) = false ∧ Instr.wf (.fastLinkError 0 6 0) = false ∧ Instr.wf (.fastCalibrationEnd 0 6) = false ∧ Instr.wf (.fadCalGainWrite 0 6 0 0) = false ∧
    Instr.wf (.fadCalGainWrite 0 0 4 0) = false := by decide
theorem test_wf_health : Instr.wf (.healthLeak 0 6) = false ∧ Instr.wf (.lnkHlthClear 0 106 0) = false ∧ Instr.wf (.pairLaneAlignmentLoss 0 2) = false := by decide
theorem test_wf_unit : Instr.wf (.recordEnd 0 8) = false ∧ Instr.wf (.sequenceTimer 0 4) = false ∧ Instr.wf (.capSeqEnable 0 4 0) = false := by decide
theorem test_wf_safety : Instr.wf (.consumerWatchdog 0 56) = false ∧ Instr.wf (.outputTest 0 4 false true true) = false := by decide
theorem test_wf_watch : Instr.wf (.wchLatchClear 0 19 0) = false ∧ Instr.wf (.wchForce 0 19 0) = false ∧ Instr.wf (.temperatureResult 0 11 (.onDie 0)) = false := by decide

/-! ### States to test on -/

/-- A unit that runs its firmware at a tick, with bus mastering. -/
def at_ (n : Nat) : State :=
  { State.reset with clk := { Clk.reset with phase := .running, now := n, pllALock := true }, host := { HostIf.reset with bme := true, stalled := false } }

theorem at_settled (n : Nat) : (at_ n).Settled := ⟨rfl, by rfl⟩

/-- Settled, from the two facts it stands for. -/
theorem settledOf (s : State) (a : s.wch.batch = []) (b : s.saf.trip = s.tripLatched) : s.Settled := ⟨a, b⟩

/-- A command whose instant has passed finds the state as it is: the `x` of the obligations is then the state itself. -/
def Stays (s : State) : Prop := s.advanceTo 0 = s

/-- So does every state with nothing due and no PLL-B output. -/
theorem stays_still (s : State) (d : s.nextDue = none) (o : s.clk.outs = []) : Stays s := by
  have k : ∀ (z : State) (j : Nat), z.clk.outs = [] → z.catchUpOut j = z := fun z j e => by
    have r : (z.out j).running = false := by simp [State.out, e, tget, PllOut.reset]
    simp [State.catchUpOut, r]
  unfold Stays
  rw [State.advanceTo_early s 0 (by rw [d]; simp)]
  unfold State.tickTo
  split
  · have e : (s.modClk fun c => { c with now := max c.now 0 }) = s := by simp [State.modClk]
    rw [e, k s 0 o, k s 1 o, k s 2 o]
  · rfl

/-- A descriptor. -/
def desc (op arg len arg2 : Nat) : Desc := ⟨op, 1, 7, arg, 0x10000, len, arg2, []⟩

/-- Ring 3 runs with a role and its oldest descriptor waits. -/
def turnOf (s : State) (role : Nat) (d : Desc) : State :=
  (s.setReg .dqRingCfg 3 (word (2 ^ 31 + role * 2 ^ 12 + 8))).modRing 3 fun r => { r with state := 1, acts := [⟨0, d, .waiting⟩] }

theorem test_turn : (turnOf (at_ 1000) 4 (desc 1 2 64 0)).turn 4 1 = some (3, 0, desc 1 2 64 0) := by decide
theorem test_turn_settled : (turnOf (at_ 1000) 4 (desc 1 2 64 0)).Settled := settledOf _ (by decide) (by decide)


/-! ### The length of a hash -/

theorem keccakRound_length (a : List Lane) (rc : Nat) : (keccakRound a rc).length = 25 := by
  simp [keccakRound, List.range_succ]
theorem foldl_length (f : List Lane → α → List Lane) (h : ∀ a x, (f a x).length = 25) (l : List α) (a : List Lane) (e : a.length = 25) :
    (l.foldl f a).length = 25 := by
  induction l generalizing a with
  | nil => exact e
  | cons x r ih => exact ih _ (h a x)
theorem flatMap_length (l : List Lane) : (l.flatMap fun x => le 8 x.toNat).length = 8 * l.length := by
  induction l with
  | nil => rfl
  | cons x r ih => simp only [List.flatMap_cons, List.length_append, ih, List.length_cons]; simp [le]; omega
theorem hash64_length (m : Bytes) : (hash64 m).length = 64 := by
  have k : ∀ (a : List Lane) (b : Bytes), (absorb a b).length = 25 := fun a b => foldl_length _ keccakRound_length _ _ (by simp)
  have l := foldl_length absorb k (blocksOf 136 ((shakePad m).length / 136 + 1) (shakePad m)) (List.replicate 25 0) (by simp)
  simp only [Machine.hash64, shake256, List.length_take, flatMap_length, l]; omega
theorem hash64_list (m : Bytes) : hash64 m = (List.range 64).map fun i => nth (hash64 m) i 0 := by
  apply List.ext_getElem
  · simp [hash64_length]
  · intro i h k; simp [nth, h]

theorem slice_left (a b : Bytes) (o n : Nat) (h : o + n ≤ a.length) : slice (a ++ b) o n = slice a o n := by
  simp [slice, List.drop_append, List.take_append]; omega
theorem slice_right (a b : Bytes) (o n : Nat) (h : a.length ≤ o) : slice (a ++ b) o n = slice b (o - a.length) n := by
  simp only [slice, List.drop_append, List.drop_of_length_le h, List.nil_append]
theorem zeros_length (n : Nat) : (zeros n).length = n := List.length_replicate
theorem slice_zeros (n m : Nat) (h : m ≤ n) : slice (zeros n) 0 m = zeros m := by
  simp [slice, zeros, Nat.min_eq_left h]

/-! ### States that meet the hypotheses of the obligations: clocks, resets, boot -/

/-- Tick 1,000, running. -/
def b0 : State := at_ 1000

/-- Another phase of the reset sequence. -/
def inPhase (p : Phase) : State := b0.modClk fun c => { c with phase := p }


theorem wit_StepRunsFront : ({ b0 with pending := [.rootRelease 5] }).pending = .rootRelease 5 :: [] := by decide
theorem wit_StepIdles : b0.pending = [] ∧ b0.released = true ∧ (∀ d, b0.nextDue = some d → b0.clk.now + 1 < d) ∧ State.reset.pending = [] ∧ State.reset.released = false :=
  ⟨by decide, by decide, fun d h => absurd h (by rw [show b0.nextDue = none by decide]; simp), by decide, by decide⟩

/-- One leg with its even switch on. -/
def legOn : State := b0.modSw 0 fun w => { w with on := true }
theorem wit_LegsStaySafe : legOn.LegsSafe ∧ (legOn.sw 0).on = true ∧ step legOn = .next legOn.idle := by
  refine ⟨fun n => ?_, by decide, by rfl⟩
  have h : (legOn.sw (2 * n + 1)).on = false := by
    show (tget (fun _ => Sw.reset) [(0, { Sw.reset with on := true })] (2 * n + 1)).on = false
    simp [tget, Sw.reset]
  simp [h]
theorem wit_MemoryStaysCanonical : (b0.hostWrite 0xFFFF [1, 0, 2]).MemoryWf ∧ (b0.hostWrite 0xFFFF [1, 0, 2]).hostMem.length = 2 := by
  unfold State.MemoryWf; decide
theorem wit_FusesOnlyBurn : step State.reset = .next State.reset := by rfl
theorem wit_StepsSettle : b0.Settled ∧ step b0 = .next b0.idle := ⟨at_settled 1000, by rfl⟩

theorem wit_PowerOnReset : Stays b0 := by rfl

theorem wit_Supplies : Stays b0 ∧ b0.released = true ∧ b0.Settled ∧ b0.severity 453 ≠ 0 ∧ b0.hasCap = true ∧ b0.severity 578 ≠ 0 ∧
    b0.severity 323 ≠ 0 := by
  unfold State.Settled; and_intros <;> first | ((with_reducible refine stays_still _ ?_ ?_) <;> rfl) | decide +kernel

/-- Locking after some attempts, the crystal proven, REF_IN proven or not. -/
def lockingAt (n : Nat) (ref : Bool) : State := (inPhase .locking).modClk fun c =>
  { c with xtal := { c.xtal with proven := true }, refIn := { c.refIn with proven := ref }, attempts := n }
/-- PLL-A is locked and the root's windows have passed. -/
def lockedAt (n : Nat) (loss : Bool) : State := (inPhase .locked).modClk fun c => { c with rootRun := n, clockLoss := loss }
theorem wit_RootSequence :
    (Stays State.reset ∧ State.reset.Settled ∧ State.reset.clk.phase = .powerOnReset) ∧
    (Stays (lockingAt 2 true) ∧ (lockingAt 2 true).Settled ∧ (lockingAt 2 true).clk.phase = .locking ∧ 1 = (lockingAt 2 true).rf .clkRefCtrl 0 0 0 ∧
      ((lockingAt 2 true).clk.src 1).proven = true ∧ (lockingAt 2 true).clk.attempts < 3 ∧ (lockingAt 2 true).clk.attempts ≠ 0) ∧
    (((lockingAt 2 false).clk.src 1).proven = false ∧ ((lockingAt 2 false).clk.src (1 - 1)).proven = true) ∧
    ((lockingAt 3 true).Settled ∧ ((lockingAt 3 true).clk.src 1).proven = true ∧ 3 ≤ (lockingAt 3 true).clk.attempts) ∧
    (Stays (lockedAt 2 false) ∧ (lockedAt 2 false).Settled ∧ (lockedAt 2 false).clk.phase = .locked ∧ 2 ≤ (lockedAt 2 false).clk.rootRun ∧
      (lockedAt 2 false).clk.clockLoss = false ∧ (lockedAt 2 true).Settled ∧ (lockedAt 2 true).clk.clockLoss = true) := by
  unfold State.Settled; and_intros <;> first | ((with_reducible refine stays_still _ ?_ ?_) <;> rfl) | decide +kernel

/-- Seven windows of the crystal passed, the last of n. -/
def sevenOf (n : Nat) (hold : Bool) : State := b0.modClk fun c => { c with xtal := { c.xtal with passes := 7, last := n }, source := some 0, hold := hold }
/-- On REF_IN in hold, the crystal proven, with automatic switching. -/
def onRef : State := (b0.modClk fun c => { c with source := some 1, hold := true, xtal := { c.xtal with proven := true } }).setRb .clkRefCtrl 0 1 true
theorem wit_References :
    (Stays (sevenOf 1052 true) ∧ (sevenOf 1052 true).Settled ∧ (sevenOf 1052 true).clk.phase ≠ .powerOnReset ∧ ((sevenOf 1052 true).clk.src 0).passes = 7 ∧
      1054 ≤ ((sevenOf 1052 true).clk.src 0).last + 2 ∧ ((sevenOf 1052 true).clk.src 0).last ≤ 1054 + 2 ∧
      (sevenOf 1052 true).clk.hold = true ∧ (sevenOf 1052 true).clk.source = some 0) ∧
    ((sevenOf 996 false).Settled ∧ ((sevenOf 996 false).clk.src 0).passes = 7 ∧ 994 ≤ ((sevenOf 996 false).clk.src 0).last + 2 ∧
      ((sevenOf 996 false).clk.src 0).last ≤ 994 + 2) ∧
    ((sevenOf 0 false).clk.source = some 0 ∧ (sevenOf 0 false).clk.pllALock = true ∧ (sevenOf 0 false).released = true ∧
      ((sevenOf 0 false).clk.src 0).missing = false ∧ (sevenOf 0 false).severity 64 ≠ 0 ∧ (sevenOf 0 false).severity 65 ≠ 0) ∧
    ((inPhase .locked).released = false ∧ (inPhase .locked).Settled ∧ (inPhase .locked).clk.phase ≠ .powerOnReset ∧ Stays (inPhase .locked)) ∧
    ((inPhase .proving).Settled ∧ Stays (inPhase .proving) ∧ (inPhase .proving).clk.phase = .proving ∧ (inPhase .proving).clk.xtal.proven = false ∧
      (inPhase .proving).clk.refIn.proven = false ∧ (inPhase .proving).book.lw.length < 16) ∧
    (Stays b0 ∧ b0.released = true ∧ b0.Settled ∧ b0.clk.pllALock = true ∧ b0.clk.hold = false ∧ b0.book.lw.length < 16 ∧ b0.clk.vtune = false ∧
      b0.severity 67 ≠ 0) ∧
    (Stays (inPhase .thermalShutdown) ∧ (inPhase .thermalShutdown).Settled ∧ (inPhase .thermalShutdown).clk.pllALock = true ∧
      (inPhase .thermalShutdown).clk.hold = false ∧ (inPhase .thermalShutdown).book.lw.length < 16) ∧
    (Stays onRef ∧ onRef.Settled ∧ onRef.released = true ∧ onRef.clk.pllALock = true ∧ onRef.clk.source = some 1 ∧ onRef.clk.xtal.proven = true ∧
      onRef.clk.hold = true ∧ onRef.rb .clkRefCtrl 0 1 = true ∧ onRef.severity 66 ≠ 0) := by
  unfold State.Settled; and_intros <;> first | ((with_reducible refine stays_still _ ?_ ?_) <;> rfl) | decide +kernel

theorem wit_Resets :
    (Stays b0 ∧ b0.released = true ∧ fld 0x5A170001 31 16 = 0x5A17 ∧ bit 0x5A170001 0 = true) ∧
    (b0.Settled ∧ bit 0x5A170002 0 = false ∧ fld 0x5A160001 31 16 ≠ 0x5A17) ∧
    (b0.clk.phase ≠ .powerOnReset ∧ b0.clk.phase ≠ .thermalShutdown) ∧
    (Stays (inPhase .thermalShutdown) ∧ (inPhase .thermalShutdown).clk.phase = .thermalShutdown) ∧
    (b0.severity 32 ≠ 0 ∧ b0.clk.phase = .running ∧ Stays (inPhase .bootFailed) ∧ (inPhase .bootFailed).clk.phase = .bootFailed ∧
      (inPhase .bootFailed).Settled) := by
  unfold State.Settled; and_intros <;> first | ((with_reducible refine stays_still _ ?_ ?_) <;> rfl) | decide +kernel

/-- PLL-B locked with output 2 on. -/
def pllOn : State := (b0.modClk fun c => { c with pllBLock := true }).setRb .pllBOut 2 31 true
/-- Gate 7 is forced open; ring 0 has a command under way, work of block 5. -/
def forcedGate : State := b0.setRb .clkGateForce 0 7 true
theorem wit_PllBAndGates :
    (Stays b0 ∧ b0.Settled ∧ b0.up = true ∧ b0.rb .pllBOut 2 31 = false ∧ b0.clk.pllBLock = false ∧ Stays pllOn ∧ pllOn.Settled ∧ pllOn.up = true ∧
      pllOn.rb .pllBOut 1 31 = false ∧ pllOn.rb .pllBOut 2 31 = true ∧ pllOn.clk.pllBLock = true ∧ pllOn.severity 68 ≠ 0 ∧ bit 0x80000FFF 31 = true ∧
      bit 0x7FF 31 = false) ∧
    (Stays (b0.setRb .pllBOut 0 31 true) ∧ (b0.setRb .pllBOut 0 31 true).Settled ∧ (b0.setRb .pllBOut 0 31 true).clk.pllBLock = false ∧
      (b0.setRb .pllBOut 0 31 true).rb .pllBOut 0 31 = true) ∧
    (b0.rb .clkGateForce 0 5 = false ∧ b0.blockBusy 5 = false ∧ nget b0.clk.idleFrom 5 + 16 * gateClock 5 ≤ b0.clk.now) ∧
    (Stays forcedGate ∧ forcedGate.Settled ∧ forcedGate.up = true ∧ forcedGate.rb .clkGateForce 0 7 = true) ∧
    ((turnOf b0 0 (desc 0 0 0 0)).blockBusy 5 = true ∧ Stays (turnOf b0 0 (desc 0 0 0 0)) ∧ (turnOf b0 0 (desc 0 0 0 0)).Settled) ∧
    (Stays (at_ 20) ∧ (at_ 20).Settled ∧ (at_ 20).clk.now < nget (at_ 20).clk.idleFrom 5 + 16 * gateClock 5) := by
  unfold State.Settled; and_intros <;> first | ((with_reducible refine stays_still _ ?_ ?_) <;> rfl) | decide +kernel

/-- A firmware header with a version, of 64 payload bytes with a hash. -/
def hdrOf (type version : Nat) (hash : Bytes) : Bytes :=
  le 4 hdrMagic ++ le 2 1 ++ le 2 type ++ le 4 version ++ le 4 0 ++ le 4 64 ++ zeros 12 ++ hash ++ zeros 0x1FA0
/-- Slot 1 is being read and names a payload's hash; slot 0 was refused. -/
def readingOf (p : Bytes) : State :=
  (inPhase .booting).modSec fun x => { x with reading := some 1, slots := [(1, ⟨0, 7, p.length, hash64 p, []⟩)] }
/-- Boot failed. -/
def bootFailed (len : Nat) : State := (inPhase .bootFailed).setReg .secRecoveryLen 0 (word len)
/-- A recovery fetch of a length is under way. -/
def fetchOf (len : Nat) : State := (bootFailed len).modSec fun x => { x with recovering := true, recoverLen := len }

/-- The first 32 bytes of an image's header. -/
def imgStart (type n : Nat) : Bytes := le 4 hdrMagic ++ le 2 1 ++ le 2 type ++ zeros 8 ++ le 4 n ++ zeros 12
/-- An image with the body's length and a hash. -/
def imgOf (type : Nat) (body : Bytes) (h : Nat → Byte) : Bytes := imgStart type body.length ++ ((List.range 64).map h ++ (zeros 0x1FA0 ++ body))
/-- An image with the hash of its payload. -/
def imgGood (type : Nat) (body : Bytes) : Bytes := imgOf type body fun i => nth (Machine.hash64 body) i 0

theorem imgOf_form (type n : Nat) (body : Bytes) (h : Nat → Byte) (e : body.length = n) (low : lef (imgStart type n) 0 4 = hdrMagic ∧ lef (imgStart type n) 4 2 = 1 ∧
      lef (imgStart type n) 6 2 = type ∧ lef (imgStart type n) 0x0D 3 = 0 ∧ lef (imgStart type n) 0x10 4 = n) :
    hdrForm (imgOf type body h) type = true ∧ hdrLength (imgOf type body h) = n ∧
    hdrHash (imgOf type body h) = (List.range 64).map h ∧ slice (imgOf type body h) 0x2000 n = body ∧
    (imgOf type body h).length = 0x2000 + n ∧ (∀ o k, o + k ≤ 32 → lef (imgOf type body h) o k = lef (imgStart type n) o k) := by
  subst e
  have a : (imgStart type body.length).length = 32 := by simp [imgStart, le, zeros]
  have m : ((List.range 64).map h).length = 64 := by simp
  have z : (zeros 0x1FA0).length = 0x1FA0 := zeros_length _
  have l : ∀ o n, o + n ≤ 32 → lef (imgOf type body h) o n = lef (imgStart type body.length) o n :=
    fun o n g => by rw [lef, lef, imgOf, slice_left _ _ _ _ (by omega)]
  obtain ⟨p0, p4, p6, pd, p10⟩ := low
  refine ⟨?_, ?_, ?_, ?_, by rw [imgOf, List.length_append, List.length_append, List.length_append, a, m, z]; omega, l⟩
  · have q : slice (imgOf type body h) 0x60 32 = zeros 32 := by
      rw [imgOf, slice_right _ _ _ _ (by omega), slice_right _ _ _ _ (by omega), slice_left _ _ _ _ (by omega), a, m]
      exact slice_zeros _ _ (by omega)
    have n : 0x150D ≤ (imgOf type body h).length := by
      rw [imgOf, List.length_append, List.length_append, List.length_append, a, m, z]; omega
    have y : allZero (zeros 32) = true := by decide
    simp [hdrForm, q, n, y, l _ _ (show 0 + 4 ≤ 32 by omega), l _ _ (show 4 + 2 ≤ 32 by omega), l _ _ (show 6 + 2 ≤ 32 by omega),
      l _ _ (show 0x0D + 3 ≤ 32 by omega), p0, p4, p6, pd]
  · rw [hdrLength, l _ _ (by omega), p10]
  · rw [hdrHash, imgOf, slice_right _ _ _ _ (by omega), slice_left _ _ _ _ (by omega), a]
    exact List.take_of_length_le (by rw [Nat.sub_self]; exact Nat.le_of_eq (by simp))
  · rw [imgOf, slice_right _ _ _ _ (by omega), slice_right _ _ _ _ (by omega), slice_right _ _ _ _ (by omega), a, m, z]
    exact List.take_of_length_le (by simp)

theorem imgGood_form (type n : Nat) (body : Bytes) (e : body.length = n) (low : lef (imgStart type n) 0 4 = hdrMagic ∧ lef (imgStart type n) 4 2 = 1 ∧
      lef (imgStart type n) 6 2 = type ∧ lef (imgStart type n) 0x0D 3 = 0 ∧ lef (imgStart type n) 0x10 4 = n) :
    hdrForm (imgGood type body) type = true ∧ hdrLength (imgGood type body) = n ∧
    hdrHash (imgGood type body) = Machine.hash64 body ∧ slice (imgGood type body) 0x2000 n = body ∧
    (imgGood type body).length = 0x2000 + n ∧ (∀ o k, o + k ≤ 32 → lef (imgGood type body) o k = lef (imgStart type n) o k) := by
  have F := imgOf_form type n body (fun i => nth (Machine.hash64 body) i 0) e low
  rw [← hash64_list] at F
  exact F

/-- The vendor key of an image is good, no version was committed. -/
def trusting (s : State) (b : Bytes) : State :=
  s.modSec fun x => { x with vendorValid := 1, vendorRevoked := 0, vendorHash := [(0, hash64 (hdrKey b))], rollback := 0 }
/-- In boot, trusting a header. -/
def booting (b : Bytes) : State := trusting (inPhase .booting) b
/-- A recovery fetch of such an image is under way. -/
def fetching (b : Bytes) : State := trusting (fetchOf b.length) b

theorem fetching_settled (b : Bytes) : (fetching b).Settled :=
  ((show (inPhase .bootFailed).Settled from ⟨rfl, by rfl⟩).setReg .secRecoveryLen 0 0 (word b.length) (Or.inl (by decide))).of_same rfl rfl rfl

theorem headerCheck_ok (s : State) (b : Bytes) (f : hdrForm b 1 = true) (l : hdrLength b = 64) (d : lef b 0x14 4 = 0) (e : lef b 0x0C 1 = 0)
    (h : hdrSigned b "OCR-BOOT" = true) : (trusting s b).headerCheck b = 0 := by
  have v : ((trusting s b).sec.vendorValid, (trusting s b).sec.vendorRevoked) = (1, 0) := rfl
  have r : (trusting s b).sec.rollback = 0 := rfl
  have t : tget (fun _ => []) (trusting s b).sec.vendorHash 0 = hash64 (hdrKey b) := rfl
  simp only [Prod.mk.injEq] at v
  simp [State.headerCheck, f, l, d, e, h, v, r, t, List.range_succ, nbit]

theorem wit_BootAndRecovery (v : hdrSigned (hdrOf 1 3 (zeros 64)) "OCR-BOOT" = true) (w : hdrSigned (imgGood 1 (zeros 64)) "OCR-BOOT" = true) :
    ((booting (hdrOf 1 3 (zeros 64))).headerCheck (hdrOf 1 3 (zeros 64)) = 0) ∧
    (Stays (booting []) ∧ (booting []).Settled ∧ (booting []).clk.phase = .booting ∧ (booting []).sec.slots = []) ∧
    ((inPhase .booting).headerCheck [] ≠ 0 ∧ hdrVersion [] ≤ hdrVersion (hdrOf 1 3 (zeros 64)) ∧ hdrVersion [] < hdrVersion (hdrOf 1 3 (zeros 64))) ∧
    (∀ p : Bytes, (readingOf p).sec.reading = some 1 ∧ p.length = ((readingOf p).slot 1).length ∧ hash64 p = ((readingOf p).slot 1).hash) ∧
    ((readingOf []).sec.reading = some 1 ∧ ((readingOf []).slot (1 - 1)).check ≠ 0) ∧
    (Stays (bootFailed 8256) ∧ (bootFailed 8256).Settled ∧ (bootFailed 8256).clk.phase = .bootFailed ∧ bit 1 0 = true ∧
      (bootFailed 8256).sec.recovering = false ∧ 8256 ≤ ((bootFailed 8256).reg .secRecoveryLen).toNat ∧
      ((bootFailed 1056768).reg .secRecoveryLen).toNat ≤ 1056768 ∧ 1056768 < ((bootFailed 1056769).reg .secRecoveryLen).toNat ∧
      ((bootFailed 8255).reg .secRecoveryLen).toNat < 8256) ∧
    (∀ b, Stays (fetching b) ∧ (fetching b).Settled ∧ (fetching b).clk.phase = .bootFailed ∧ (fetching b).sec.recovering = true ∧
      (fetching b).host.bme = true ∧ (fetching b).host.d3 = false ∧ b.length = (fetching b).sec.recoverLen) ∧
    ((fetching (imgGood 1 (zeros 64))).headerCheck (imgGood 1 (zeros 64)) = 0 ∧
      hash64 (slice (imgGood 1 (zeros 64)) 0x2000 (hdrLength (imgGood 1 (zeros 64)))) = hdrHash (imgGood 1 (zeros 64)) ∧
      0x2000 + hdrLength (imgGood 1 (zeros 64)) ≤ (imgGood 1 (zeros 64)).length) := by
  obtain ⟨f, l, h, b, n, g⟩ := imgGood_form 1 64 (zeros 64) (zeros_length _) (by decide)
  refine ⟨headerCheck_ok _ _ (by decide +kernel) (by decide +kernel) (by decide +kernel) (by decide +kernel) v,
    ⟨by rfl, by unfold State.Settled; and_intros <;> decide, rfl, rfl⟩,
    by decide +kernel, fun p => ⟨rfl, rfl, rfl⟩, by decide, by unfold State.Settled; and_intros <;> first | ((with_reducible refine stays_still _ ?_ ?_) <;> rfl) | decide +kernel,
    fun b => ⟨stays_still _ rfl rfl, fetching_settled b, rfl, rfl, rfl, rfl, rfl⟩, ?_, ?_, ?_⟩
  · exact headerCheck_ok _ _ f l ((g 0x14 4 (by omega)).trans (by decide)) ((g 0x0C 1 (by omega)).trans (by decide)) w
  · rw [l, b, h]
  · rw [l, n]

/-! ### Modes, lock, accesses, rings, ring 14 -/

/-- In a mode. -/
def inMode (m : Nat) : State := b0.modMode fun x => { x with mode := m }
/-- A Bell entry for an action. -/
def bellE (lc unit action index arg : Nat) : BellE := ⟨lc, 0, false, 0, true, false, unit, action, index, arg, 0, 9⟩
/-- With a fired action that has arrived. -/
def firedOf (s : State) (e : BellE) : State := s.modBell fun b => { b with fired := [⟨e, 900, 950⟩] }

theorem wit_ModeCommands :
    (Stays (inMode 6) ∧ (inMode 6).up = true ∧ (inMode 6).mode.mode ≠ 7 ∧ fld 0x4D4F0107 31 16 = 0x4D4F ∧ bit 0x4D4F0107 8 = true ∧ fld 0x4D4F0107 2 0 = 7) ∧
    (Stays (turnOf (inMode 0) 0 (desc 1 7 0 0)) ∧ (turnOf (inMode 0) 0 (desc 1 7 0 0)).up = true ∧
      (turnOf (inMode 0) 0 (desc 1 7 0 0)).turn 0 0x01 = some (3, 0, desc 1 7 0 0) ∧ (desc 1 7 0 0).arg % 8 = 7) ∧
    (Stays (firedOf (inMode 2) (bellE 900 0 3 0 7)) ∧ (firedOf (inMode 2) (bellE 900 0 3 0 7)).up = true ∧
      (firedOf (inMode 2) (bellE 900 0 3 0 7)).bell.fired.find? (fun f => f.e.action = 0x03 && f.arrive ≤ 1000) = some ⟨bellE 900 0 3 0 7, 900, 950⟩) ∧
    (Stays b0 ∧ b0.up = true ∧ b0.Settled ∧ b0.standby = false ∧ ¬(b0.mode.mode = 7 ∧ b0.mode.lastStop = some (coreCycle b0.clk.now)) ∧
      fld 0x4D4F0101 31 16 = 0x4D4F ∧ bit 0x4D4F0101 8 = true ∧ fld 0x4D4F0101 2 0 ≠ 7) ∧
    ((turnOf b0 0 (desc 1 1 0 0)).Settled ∧ (turnOf b0 0 (desc 1 1 0 0)).turn 0 0x01 = some (3, 0, desc 1 1 0 0) ∧ (desc 1 1 0 0).arg % 8 ≠ 7) ∧
    ((firedOf b0 (bellE 900 0 3 0 1)).Settled ∧
      (firedOf b0 (bellE 900 0 3 0 1)).bell.fired.find? (fun f => f.e.action = 0x03 && f.arrive ≤ 1000) = some ⟨bellE 900 0 3 0 1, 900, 950⟩) ∧
    (fld 0x4D4E0101 31 16 ≠ 0x4D4F ∧ bit 0x4D4F0001 8 = false) ∧
    ((b0.modMode fun m => { m with inbox := [⟨1, 1, none⟩], boxAt := 998 }).mode.mode = 0 ∧
      (b0.modMode fun m => { m with inbox := [⟨1, 1, none⟩], boxAt := 998 }).mode.pending = none) := by
  unfold State.Settled; and_intros <;> first | ((with_reducible refine stays_still _ ?_ ?_) <;> rfl) | decide +kernel

/-- A configuration of one entry for TIM_SLEW, with its header. -/
def confBody (off v : Nat) : Bytes :=
  le 4 0x47464E43 ++ le 2 1 ++ le 2 0 ++ le 4 1 ++ zeros 52 ++ le 4 off ++ le 4 v ++ zeros 56
def confGood : Bytes := imgGood 3 (confBody Reg.timSlew.addr 5)

theorem imageCheck_good (s : State) (type n : Nat) (ctx : String) (body : Bytes) (f : hdrForm (imgGood type body) type = true)
    (l : hdrLength (imgGood type body) = n) (h : hdrHash (imgGood type body) = Machine.hash64 body)
    (b : slice (imgGood type body) 0x2000 n = body) (v : hdrSigned (imgGood type body) ctx = true) (e : s.sec.ownerEnforce = false) :
    s.imageCheck (imgGood type body) type ctx = 0 := by simp [State.imageCheck, f, v, l, b, h, e]

/-- CONFIG_LOAD waits on ring 3, in a mode. -/
def loading (m : Nat) : State := turnOf (inMode m) 0 (desc 0x22 0 0x2080 0)

theorem wit_LockAndConfiguration (v : hdrSigned confGood "OCR-CONF" = true) :
    (Stays b0 ∧ b0.Settled ∧ b0.released = true ∧ bit 1 0 = true ∧ b0.locked = false) ∧
    (Stays (loading 0) ∧ (loading 0).Settled ∧ (loading 0).up = true ∧ (loading 0).turn 0 0x22 = some (3, 0, desc 0x22 0 0x2080 0) ∧ (loading 0).mode.mode ≠ 1) ∧
    (Stays (loading 1) ∧ (loading 1).Settled ∧ (loading 1).up = true ∧ (loading 1).canDma = true ∧ (loading 1).turn 0 0x22 = some (3, 0, desc 0x22 0 0x2080 0) ∧ (loading 1).mode.mode = 1 ∧ (loading 1).locked = false) ∧
    (0x2000 + hdrLength confGood ≤ (desc 0x22 0 0x2080 0).len ∧ (loading 1).imageCheck confGood 3 "OCR-CONF" = 0 ∧
      configForm (slice confGood 0x2000 (hdrLength confGood)) (hdrLength confGood) = true ∧
      (∀ e ∈ configEntries (slice confGood 0x2000 (hdrLength confGood)), (loading 1).entryFails e = false)) ∧
    (0 < (configEntries (confBody Reg.sysLock.addr 1)).length ∧
      (loading 1).entryFails (nth (configEntries (confBody Reg.sysLock.addr 1)) 0 (0, 0)) = true) := by
  have k : (confBody Reg.timSlew.addr 5).length = 128 := by simp [confBody, le, zeros]
  obtain ⟨f, l, h, b, -, -⟩ := imgGood_form 3 128 (confBody Reg.timSlew.addr 5) k (by decide)
  have c := imageCheck_good (loading 1) 3 128 "OCR-CONF" _ f l h b v (by decide)
  change hdrLength confGood = _ at l
  change slice confGood 0x2000 _ = _ at b
  rw [l, b]
  unfold State.Settled
  refine ⟨?_, ?_, ?_, ⟨by decide, c, by decide, ?_⟩, ?_⟩ <;> and_intros <;> first | ((with_reducible refine stays_still _ ?_ ?_) <;> rfl) | decide +kernel

theorem wit_BarAccesses : Stays b0 ∧ b0.up = true ∧ b0.Settled ∧ b0.locate 0x3FFFC = none ∧ b0.locate Reg.timSlew.addr ≠ none ∧
    b0.locate Reg.timTargetLo.addr = some (.timTargetLo, 0, 0) ∧ hiOf .timTargetLo = some .timTargetHi ∧ b0.locate (Reg.adcResult.addr 31) ≠ none := by
  unfold State.Settled; and_intros <;> first | ((with_reducible refine stays_still _ ?_ ?_) <;> rfl) | decide +kernel

/-- Ring 0 is a completion ring that runs; ring i is set up to be enabled with it. -/
def withCq : State := (b0.setReg .dqRingCfg 0 (word (2 ^ 31 + 1 * 2 ^ 12 + 4))).modRing 0 fun r => { r with state := 1 }
def started (st : ActSt) : State := (turnOf withCq 0 (desc 0 0 0 0)).modRing 3 fun r => { r with acts := [⟨0, desc 0 0 0 0, st⟩] }
def noActs (st : Nat) : State := (turnOf withCq 0 (desc 0 0 0 0)).modRing 3 fun r => { r with acts := [], state := st }
theorem wit_RingControl :
    (Stays withCq ∧ (withCq.openGate 5).Settled ∧ (withCq.openGate 5).up = true ∧ bit 0x80000004 31 = true ∧ ((withCq.openGate 5).ring 15).state = 0 ∧
      ((withCq.openGate 5).setReg .dqRingCfg 15 (wfld (0x80000004 &&& 0x8FE0F00F) 31 31 0)).enableCheck 15 = 0) ∧
    (((withCq.openGate 5).setReg .dqRingCfg 15 (wfld (0x8000000D &&& 0x8FE0F00F) 31 31 0)).enableCheck 15 = 6) ∧
    (Stays (started .executing) ∧ ((started .executing).openGate 5).Settled ∧ ((started .executing).openGate 5).up = true ∧ bit 0 31 = false ∧
      (((started .executing).openGate 5).ring 3).state = 1 ∧ submitRole (((started .executing).openGate 5).ringRole 3) = true ∧
      (∀ a ∈ (((started .executing).openGate 5).ring 3).acts, a.st = .executing) ∧ (((started .executing).openGate 5).ring 3).acts ≠ []) ∧
    (Stays (noActs 1) ∧ ((noActs 1).openGate 5).Settled ∧ (((noActs 1).openGate 5).ring 3).state = 1 ∧
      submitRole (((noActs 1).openGate 5).ringRole 3) = true ∧ (((noActs 1).openGate 5).ring 3).acts = [] ∧ ((noActs 1).openGate 5).canDma = true) ∧
    (Stays (noActs 3) ∧ ((noActs 3).openGate 5).Settled ∧ (((noActs 3).openGate 5).ring 3).state = 3 ∧ (((noActs 3).openGate 5).ring 3).acts = [] ∧
      ((noActs 3).openGate 5).canDma = true) := by
  unfold State.Settled; and_intros <;> first | ((with_reducible refine stays_still _ ?_ ?_) <;> rfl) | decide +kernel

/-- The poll period is 500 ticks. -/
def polling (p : Bool) : State := (b0.setReg .dqPoll 0 (word (2 ^ 31 + 500))).modHostIf fun h => { h with polling := p, stalled := true }
/-- Ring 3 streams: 16 entries, 5 written. -/
def streaming : State := (b0.setReg .dqRingCfg 3 (word (2 ^ 31 + 7 * 2 ^ 12 + 4))).modRing 3 fun r => { r with state := 1, dev := 65536 - 1, wrote := 5 }
theorem wit_RingIndices :
    (Stays (polling true) ∧ ((polling true).openGate 5).up = true ∧ ((polling true).openGate 5).rb .dqPoll 0 31 = true ∧
      ((polling true).openGate 5).clk.now % ((polling true).openGate 5).rf .dqPoll 0 19 0 = 0 ∧ ((polling true).openGate 5).host.bme = true ∧
      ((polling true).openGate 5).host.d3 = false ∧ ((polling true).openGate 5).host.polling = true ∧ (polling false).host.polling = false ∧
      ((polling true).openGate 5).severity 129 ≠ 0) ∧
    (((noActs 1).ring 3).state = 1 ∧ submitRole ((noActs 1).ringRole 3) = true ∧ (256 + 65536 - ((noActs 1).ring 3).dev) % 65536 ≤ (noActs 1).ringSize 3 ∧
      (noActs 1).ringSize 3 < (257 + 65536 - ((noActs 1).ring 3).dev) % 65536) ∧
    ((streaming.ring 3).state = 1 ∧ submitRole (streaming.ringRole 3) = false ∧
      ((streaming.ring 3).dev + 65536 - 65530) % 65536 ≤ min (streaming.ringSize 3) (streaming.ring 3).wrote ∧
      min (streaming.ringSize 3) (streaming.ring 3).wrote < ((streaming.ring 3).dev + 65536 - 65529) % 65536) := by
  and_intros <;> first | ((with_reducible refine stays_still _ ?_ ?_) <;> rfl) | decide +kernel

/-- A read of two descriptors across the wrap of the index is outstanding. -/
def toFetch : State := ((noActs 1).modRing 3 fun r => { r with host := 1, fetched := 65535, dev := 65535 }).modHostIf fun h => { h with reads := [(3, 2)] }
theorem wit_Descriptors :
    (Stays toFetch ∧ (toFetch.openGate 5).Settled ∧ (toFetch.openGate 5).up = true ∧ ((toFetch.openGate 5).ring 3).state = 1 ∧
      submitRole ((toFetch.openGate 5).ringRole 3) = true ∧ ((toFetch.openGate 5).ring 3).host ≠ ((toFetch.openGate 5).ring 3).fetched ∧
      (toFetch.openGate 5).canDma = true ∧ (toFetch.openGate 5).host.reads.find? (fun e => e.1 = 3) = some (3, 2)) ∧
    (Stays (started .waiting) ∧ ((started .waiting).openGate 5).Settled ∧ ((started .waiting).openGate 5).up = true ∧
      ((started .waiting).openGate 5).turn 0 0 = some (3, 0, desc 0 0 0 0) ∧ (((started .waiting).openGate 5).ring 3).acts = [⟨0, desc 0 0 0 0, .waiting⟩] ∧
      (((started .waiting).openGate 5).ring 3).queue = [] ∧ (((started .waiting).openGate 5).ring 3).state = 1 ∧ ((started .waiting).openGate 5).canDma = true ∧
      nbit (desc 0 0 0 0).flags 0 = true ∧ ((started .waiting).openGate 5).ringCq 3 ≠ 3 ∧
      (((started .waiting).openGate 5).ring (((started .waiting).openGate 5).ringCq 3)).state = 1) := by
  unfold State.Settled; and_intros <;> first | ((with_reducible refine stays_still _ ?_ ?_) <;> rfl) | decide +kernel

/-- A ring 14 descriptor waits, in a mode. -/
def secTurn (m op len : Nat) : State := turnOf (inMode m) 14 (desc op 0 len 0)
theorem wit_IdentityCommands :
    (Stays (secTurn 0 1 5269) ∧ (secTurn 0 1 5269).Settled ∧ (secTurn 0 1 5269).up = true ∧ (secTurn 0 1 5269).turn 14 1 = some (3, 0, desc 1 0 5269 0) ∧
      (secTurn 0 1 5269).canDma = true ∧ ((secTurn 0 1 5269).ring 3).state = 1 ∧ 5269 ≤ (desc 1 0 5269 0).len ∧
      (secTurn 0 1 5268).turn 14 1 = some (3, 0, desc 1 0 5268 0) ∧ (desc 1 0 5268 0).len < 5269) ∧
    ((secTurn 0 2 4608).turn 14 2 = some (3, 0, desc 2 0 4608 0) ∧ 4608 ≤ (desc 2 0 4608 0).len ∧ (secTurn 0 2 4608).Settled ∧
      ((secTurn 0 2 4608).ring 3).state = 1 ∧ (secTurn 0 2 4607).turn 14 2 = some (3, 0, desc 2 0 4607 0) ∧ (desc 2 0 4607 0).len < 4608) := by
  unfold State.Settled; and_intros <;> first | ((with_reducible refine stays_still _ ?_ ?_) <;> rfl) | decide +kernel

/-- PROGRAM_OWNER_KEY waits and slots are used. -/
def keyTurn (used : Nat) : State := (secTurn 1 4 64).modSec fun x => { x with ownerUsed := used }
theorem wit_FuseCommands :
    ((secTurn 0 3 0).turn 14 3 = some (3, 0, desc 3 0 0 0) ∧ (secTurn 0 3 0).otpOpen = false ∧ (secTurn 0 3 0).Settled ∧ (secTurn 0 3 0).up = true ∧
      Stays (secTurn 0 3 0)) ∧
    ((secTurn 1 3 0).turn 14 3 = some (3, 0, desc 3 0 0 0) ∧ (secTurn 1 3 0).otpOpen = true ∧ (secTurn 1 3 0).Settled ∧ Stays (secTurn 1 3 0)) ∧
    ((secTurn 0 4 64).turn 14 4 = some (3, 0, desc 4 0 64 0) ∧ (secTurn 0 4 64).sec.writing = none ∧ (secTurn 0 4 64).otpOpen = false) ∧
    (Stays (keyTurn 7) ∧ (keyTurn 7).Settled ∧ (keyTurn 7).up = true ∧ (keyTurn 7).turn 14 4 = some (3, 0, desc 4 0 64 0) ∧ (keyTurn 7).otpOpen = true ∧
      64 ≤ (desc 4 0 64 0).len ∧ (keyTurn 7).canDma = true ∧ (keyTurn 7).sec.writing = none ∧
      (List.range 4).find? (fun j => !nbit (keyTurn 7).sec.ownerUsed j && !nbit (keyTurn 7).sec.ownerValid j) = some 3 ∧
      (List.range 4).find? (fun j => !nbit (keyTurn 15).sec.ownerUsed j && !nbit (keyTurn 15).sec.ownerValid j) = none) ∧
    ((secTurn 1 5 64).turn 14 5 = some (3, 0, desc 5 0 64 0) ∧ (secTurn 1 5 64).otpOpen = true ∧ (secTurn 1 5 64).canDma = true ∧ lef (le 4 3) 0 4 ≤ 3 ∧
      3 < lef (le 4 4) 0 4) ∧
    ((secTurn 1 4 63).turn 14 4 = some (3, 0, desc 4 0 63 0) ∧ (secTurn 1 4 63).otpOpen = true ∧ (secTurn 1 5 63).turn 14 5 = some (3, 0, desc 5 0 63 0)) ∧
    (Stays ((keyTurn 7).modSec fun z => { z with writing := some 3 }) ∧ ((keyTurn 7).modSec fun z => { z with writing := some 3 }).Settled ∧
      ((keyTurn 7).modSec fun z => { z with writing := some 3 }).turn 14 4 = some (3, 0, desc 4 0 64 0)) ∧
    ((secTurn 1 6 0).turn 14 6 = some (3, 0, desc 6 0 0 0) ∧ (secTurn 1 6 0).otpOpen = true) := by
  unfold State.Settled; and_intros <;> first | ((with_reducible refine stays_still _ ?_ ?_) <;> rfl) | decide +kernel

/-! ### Time, the Bell, the station ports -/

/-- At an update instant, steering by 5 units a step towards a target. -/
def steer (rate target : Int) : State := ((at_ 1000000).setReg .timSlew 0 5).modTim fun m => { m with rate := rate, target := target, rateHeld := false }
/-- In Configure with the servo on. -/
def setting : State := ((inMode 1).setRb .timCtrl 0 6 true).setReg .timSet 0 (word (2475880078570760548 % 2 ^ 32)) |>.setReg .timSet 1 (word (2475880078570760548 / 2 ^ 32))
theorem wit_TimeSteering :
    (Stays (steer 0 5) ∧ (steer 0 5).Settled ∧ (steer 0 5).released = true ∧ (steer 0 5).clk.now % 1000000 = 0 ∧ (steer 0 5).tim.updAt ≠ some 1000000 ∧
      (steer 0 5).tim.rateHeld = false ∧ ((steer 0 5).tim.target - (steer 0 5).tim.rate).natAbs ≤ (steer 0 5).rf .timSlew 0 23 0) ∧
    (Stays (steer 0 6) ∧ (steer 0 6).tim.rate + (steer 0 6).rf .timSlew 0 23 0 < (steer 0 6).tim.target) ∧
    (Stays (steer 0 (-6)) ∧ (steer 0 (-6)).tim.target < (steer 0 (-6)).tim.rate - (steer 0 (-6)).rf .timSlew 0 23 0) ∧
    ((steer 0 0).modTim fun m => { m with rateHeld := true }).tim.rateHeld = true ∧
    (Stays b0 ∧ b0.Settled ∧ b0.released = true ∧ b0.clk.now % 1000000 ≠ 0 ∧
      ((steer 0 5).modTim fun m => { m with updAt := some 1000000 }).tim.updAt = some (steer 0 5).clk.now) ∧
    (Stays setting ∧ setting.up = true ∧ setting.Settled ∧ bit 0x41 0 = true ∧ setting.mode.mode = 1 ∧
      (setting.reg .timSet 0).toNat + (setting.reg .timSet 1).toNat * 2 ^ 32 < 2475880078570760549 ∧ setting.rb .timCtrl 0 6 = true) ∧
    (Stays (b0.setRb .timCtrl 0 6 false) ∧ (b0.setRb .timCtrl 0 6 false).Settled ∧ (b0.setRb .timCtrl 0 6 false).up = true ∧
      (b0.setRb .timCtrl 0 6 false).rb .timCtrl 0 6 = false) := by
  unfold State.Settled; and_intros <;> first | ((with_reducible refine stays_still _ ?_ ?_) <;> rfl) | decide +kernel

/-- A quality, with both sources present. -/
def quality (n q inBand : Nat) : State := (at_ n).modTim fun m =>
  { m with quality := q, ptpOk := true, ppsOk := true, inBand := inBand, holdSince := some 1000, syncEvery := 125000000 }
/-- PPS_IN selected. -/
def onPps (n : Nat) : State := (quality n 2 0).setReg .timCtrl 0 0x10
/-- A master is heard on port 1. -/
def heard : State := (quality 1000 3 0).modSta 1 fun p => { p with ann := some ⟨7, [], 900, 1000000000⟩ }
theorem wit_TimeQuality :
    (Stays (quality 1000 3 0) ∧ (quality 1000 3 0).Settled ∧ (quality 1000 3 0).up = true ∧ (quality 1000 3 0).timSource = 0 ∧
      (quality 1000 3 0).tim.ptpOk = true ∧ (quality 1000 3 0).slavePort = none ∧ (quality 1000 3 0).tim.quality = 3 ∧
      (quality 1000 3 0).severity 160 ≠ 0 ∧
      (quality 500000000 3 0).tim.lastSync + 4 * (quality 500000000 3 0).tim.syncEvery ≤ (quality 500000000 3 0).clk.now) ∧
    (Stays heard ∧ heard.Settled ∧ heard.up = true ∧ heard.slavePort ≠ none ∧ heard.clk.now < heard.tim.lastSync + 4 * heard.tim.syncEvery) ∧
    (Stays (onPps 2500000000) ∧ (onPps 2500000000).Settled ∧ (onPps 2500000000).up = true ∧ (onPps 2500000000).timSource = 1 ∧
      (onPps 2500000000).tim.ppsOk = true ∧ (onPps 2500000000).tim.lastPps + 2500000000 ≤ (onPps 2500000000).clk.now) ∧
    (Stays (onPps 2499999999) ∧ (onPps 2499999999).Settled ∧ (onPps 2499999999).clk.now < (onPps 2499999999).tim.lastPps + 2500000000) ∧
    (Stays (quality (10 ^ 15) 4 0) ∧ (quality (10 ^ 15) 4 0).Settled ∧ (quality (10 ^ 15) 4 0).tim.quality = 4 ∧
      (quality (10 ^ 15) 4 0).tim.holdSince = some 1000 ∧
      1000 + max 1 ((quality (10 ^ 15) 4 0).rf .timCtrl 0 31 16) * 1000000000 ≤ (quality (10 ^ 15) 4 0).clk.now) ∧
    ((quality 0 2 15).tim.quality = 2 ∧ (50 : Int).natAbs ≤ 50 ∧ (quality 0 2 15).tim.inBand = 15 ∧ (quality 0 2 14).tim.inBand < 15 ∧
      50 < (-51 : Int).natAbs ∧ (quality 0 3 0).tim.quality = 3 ∧ 200 < (201 : Int).natAbs ∧ (-200 : Int).natAbs ≤ 200) := by
  unfold State.Settled; and_intros <;> first | ((with_reducible refine stays_still _ ?_ ?_) <;> rfl) | decide +kernel

/-- The tick of the first second, PPS_OUT forced on. -/
def ppsAt (n : Nat) (pin : Bool) : State := ((at_ n).setRb .timPpsCtrl 0 30 true).modTim fun m => { m with ppsPin := pin, ppsFall := n, rate := 0, offset := 0 }
theorem wit_PulsePerSecond :
    (Stays (ppsAt 1000000000 false) ∧ (ppsAt 1000000000 false).Settled ∧ (ppsAt 1000000000 false).up = true ∧
      (ppsAt 1000000000 false).rb .timPpsCtrl 0 30 = true ∧ (ppsAt 1000000000 false).tim.ppsPin = false ∧ 0 < (ppsAt 1000000000 false).clk.now ∧
      (ppsAt 1000000000 false).ppsSecond 1000000000 ≠ (ppsAt 1000000000 false).ppsSecond (1000000000 - 1)) ∧
    (Stays (b0.setReg .timPpsCtrl 0 0) ∧ (b0.setReg .timPpsCtrl 0 0).Settled ∧ (b0.setReg .timPpsCtrl 0 0).up = true ∧
      (b0.setReg .timPpsCtrl 0 0).rb .timPpsCtrl 0 31 = false ∧ (b0.setReg .timPpsCtrl 0 0).rb .timPpsCtrl 0 30 = false) ∧
    (Stays (ppsAt 7000 true) ∧ (ppsAt 7000 true).Settled ∧ (ppsAt 7000 true).tim.ppsPin = true ∧ (ppsAt 7000 true).tim.ppsFall ≤ (ppsAt 7000 true).clk.now) ∧
    (Stays b0 ∧ b0.Settled ∧ b0.up = true ∧ b0.timSource ≠ 1 ∧ Stays (b0.setReg .timCtrl 0 0x10) ∧ (b0.setReg .timCtrl 0 0x10).Settled ∧
      (b0.setReg .timCtrl 0 0x10).timSource = 1) := by
  unfold State.Settled; and_intros <;> first | ((with_reducible refine stays_still _ ?_ ?_) <;> rfl) | decide +kernel

/-- A table with one entry. -/
def tabled (e : BellE) : State := b0.modBell fun b => { b with entries := [e] }
theorem wit_BellTable :
    (Stays (tabled (bellE 1000 2 6 1 5)) ∧ (tabled (bellE 1000 2 6 1 5)).Settled ∧ (tabled (bellE 1000 2 6 1 5)).up = true ∧
      (tabled (bellE 1000 2 6 1 5)).bell.entries = bellE 1000 2 6 1 5 :: [] ∧ (bellE 1000 2 6 1 5).lc ≤ (tabled (bellE 1000 2 6 1 5)).clk.now ∧
      (tabled (bellE 1000 2 6 1 5)).bell.lastFire ≠ some 1000 ∧ (bellE 1000 2 6 1 5).rep = false) ∧
    (Stays (tabled { bellE 1000 2 6 1 5 with rep := true }) ∧ (tabled { bellE 1000 2 6 1 5 with rep := true }).Settled ∧
      { bellE 1000 2 6 1 5 with rep := true }.rep = true ∧ { bellE 1000 2 6 1 5 with rep := true }.net = false) ∧
    (Stays (tabled (bellE 1001 2 6 1 5)) ∧ (tabled (bellE 1001 2 6 1 5)).Settled ∧ (tabled (bellE 1001 2 6 1 5)).clk.now < (bellE 1001 2 6 1 5).lc) ∧
    (Stays (turnOf (tabled (bellE 1000 2 6 1 5)) 0 (desc 0x11 9 0 0)) ∧ (turnOf (tabled (bellE 1000 2 6 1 5)) 0 (desc 0x11 9 0 0)).Settled ∧
      (turnOf (tabled (bellE 1000 2 6 1 5)) 0 (desc 0x11 9 0 0)).up = true ∧
      (turnOf (tabled (bellE 1000 2 6 1 5)) 0 (desc 0x11 9 0 0)).turn 0 0x11 = some (3, 0, desc 0x11 9 0 0)) ∧
    (Stays (firedOf b0 (bellE 900 2 6 2 5)) ∧ (firedOf b0 (bellE 900 2 6 2 5)).Settled ∧ (firedOf b0 (bellE 900 2 6 2 5)).up = true ∧
      (firedOf b0 (bellE 900 2 6 2 5)).bell.fired.find? (fun f => f.e.action = 0x06 && f.arrive ≤ 1000) = some ⟨bellE 900 2 6 2 5, 900, 950⟩) := by
  unfold State.Settled; and_intros <;> first | ((with_reducible refine stays_still _ ?_ ?_) <;> rfl) | decide +kernel

/-- One entry for this device: a PHASE_STEP of an output at a local count. -/
def entry (lc index flags : Nat) : Bytes := le 8 lc ++ le 2 0 ++ le 1 2 ++ le 1 6 ++ le 2 index ++ le 2 flags ++ le 4 5 ++ zeros 12
/-- BELL_ADD waits, with a number of entries in the table. -/
def adding (n : Nat) : State := (turnOf b0 0 (desc 0x10 1 32 0)).modBell fun b => { b with entries := List.replicate n (bellE 2000 2 6 1 5) }
theorem wit_BellEntries :
    (Stays (adding 0) ∧ (adding 0).Settled ∧ (adding 0).up = true ∧ (adding 0).turn 0 0x10 = some (3, 0, desc 0x10 1 32 0) ∧ (adding 0).canDma = true ∧
      (desc 0x10 1 32 0).arg = 1 ∧ 32 ≤ (desc 0x10 1 32 0).len ∧ (entry 2000 2 0).length = 32 ∧ (adding 0).bellHere (lef (entry 2000 2 0) 8 2) = true ∧
      nbit (lef (entry 2000 2 0) 8 2) 15 = false ∧ (turnOf b0 0 (desc 0x10 1 31 0)).turn 0 0x10 = some (3, 0, desc 0x10 1 31 0) ∧
      (desc 0x10 1 31 0).len < 32 * (desc 0x10 1 31 0).arg) ∧
    (adding 0).bellBad (entry 2000 3 0) = true ∧
    ((adding 0).bellBad (entry 1000 2 0) = false ∧
      ((adding 0).bellAction (lef (entry 1000 2 0) 0x0A 1) (lef (entry 1000 2 0) 0x0B 1) (lef (entry 1000 2 0) 0x0C 2) (lef (entry 1000 2 0) 0x10 4)).2 = true ∧
      nbit (lef (entry 1000 2 0) 0x0E 2) 0 = false ∧ lef (entry 1000 2 0) 0 8 ≤ (adding 0).clk.now ∧ nbit (lef (entry 1000 2 0) 0x0E 2) 1 = false) ∧
    ((adding 0).bellBad (entry 1001 2 0) = false ∧ (adding 0).clk.now < lef (entry 1001 2 0) 0 8 ∧ (adding 0).bellUsed < 4096 ∧
      (adding 4096).bellBad (entry 1001 2 0) = false ∧ (adding 4096).clk.now < lef (entry 1001 2 0) 0 8 ∧ 4096 ≤ (adding 4096).bellUsed) ∧
    (Stays (firedOf b0 (bellE 900 4 10 0 5)) ∧ (firedOf b0 (bellE 900 4 10 0 5)).Settled ∧ (firedOf b0 (bellE 900 4 10 0 5)).up = true ∧
      (firedOf b0 (bellE 900 4 10 0 5)).bell.fired.find? (fun f => f.e.action = 0x0A && f.arrive ≤ 1000) = some ⟨bellE 900 4 10 0 5, 900, 950⟩) := by
  unfold State.Settled; and_intros <;> first | ((with_reducible refine stays_still _ ?_ ?_) <;> rfl) | decide +kernel

/-- A station port is up; the device's address is 02:00:00:00:00:07, the Bell's 03:00:00:00:00:09. -/
def station (n : Nat) : State := ((((b0.setRb .ptpPortCtrl n 31 true).modSta n fun p => { p with link := true }).setReg .ptpMacHi 0 0x0200).setReg .ptpMacLo 0 7
  |>.setReg .belMcastHi 0 0x0300).setReg .belMcastLo 0 9
/-- A frame of 64 octets with its FCS. -/
def frameOf (dst src : Nat) : Bytes := withFcs (be 6 dst ++ be 6 src ++ be 2 0x1234 ++ zeros 46)
/-- A frame for the device with a bad FCS. -/
def badFcs : Bytes := (frameOf 0x020000000007 0x020000000008).take 60 ++ zeros 4
/-- A frame with two tags. -/
def tagged : Bytes := zeros 12 ++ be 2 0x8100 ++ be 2 5 ++ be 2 0x8100 ++ zeros 60
theorem wit_StationFrames :
    (Stays (station 1) ∧ (station 1).Settled ∧ (station 1).staUp 1 = true ∧ (zeros 63).length < 64 ∧ 2004 < (zeros 2005).length ∧ beVal (slice tagged 12 2) = 0x8100 ∧ beVal (slice tagged 16 2) = 0x8100) ∧
    (64 ≤ (frameOf 0x020000000007 0x020000000008).length ∧ (frameOf 0x020000000007 0x020000000008).length ≤ 2004 ∧
      beVal (slice (frameOf 0x020000000007 0x020000000008) 12 2) ≠ 0x8100 ∧
      lef (frameOf 0x020000000007 0x020000000008) (64 - 4) 4 = crc32 ((frameOf 0x020000000007 0x020000000008).take (64 - 4)) ∧
      (frameOf 0x020000000007 0x020000000008).take 6 = (station 1).ownMac) ∧
    ((frameOf 0x020000000008 0x020000000007).take 6 ≠ (station 1).ownMac ∧ slice (frameOf 0x020000000008 0x020000000007) 6 6 = (station 1).ownMac ∧
      lef (frameOf 0x020000000008 0x020000000007) 60 4 = crc32 ((frameOf 0x020000000008 0x020000000007).take 60)) ∧
    (64 ≤ badFcs.length ∧ badFcs.length ≤ 2004 ∧ beVal (slice badFcs 12 2) ≠ 0x8100 ∧ lef badFcs 60 4 ≠ crc32 (badFcs.take 60) ∧
      badFcs.take 6 = (station 1).ownMac) ∧
    ((frameOf 0xFFFFFFFFFFFF 0x020000000008).take 6 = be 6 0xFFFFFFFFFFFF ∧ (station 1).ownMac ≠ be 6 0xFFFFFFFFFFFF ∧ (station 1).bellMac ≠ be 6 0xFFFFFFFFFFFF ∧
      slice (frameOf 0xFFFFFFFFFFFF 0x020000000008) 6 6 ≠ (station 1).ownMac) ∧
    ((frameOf 0x020000000008 0x020000000009).take 6 ≠ (station 1).ownMac ∧ slice (frameOf 0x020000000008 0x020000000009) 6 6 ≠ (station 1).ownMac ∧
      nbit (lef ((frameOf 0x020000000008 0x020000000009).take 6) 0 1) 0 = false ∧ (frameOf 0x020000000008 0x020000000009).take 6 ≠ (station 1).bellMac ∧
      lef (frameOf 0x020000000008 0x020000000009) 60 4 = crc32 ((frameOf 0x020000000008 0x020000000009).take 60)) ∧
    ((frameOf 0x030000000001 0x020000000009).take 6 ≠ (station 1).ownMac ∧ slice (frameOf 0x030000000001 0x020000000009) 6 6 ≠ (station 1).ownMac ∧
      nbit (lef ((frameOf 0x030000000001 0x020000000009).take 6) 0 1) 0 = true ∧ (frameOf 0x030000000001 0x020000000009).take 6 ≠ be 6 0x0180C200000E ∧
      (frameOf 0x030000000001 0x020000000009).take 6 ≠ be 6 0x011B19000000 ∧ (frameOf 0x030000000001 0x020000000009).take 6 ≠ (station 1).bellMac ∧
      (frameOf 0x030000000001 0x020000000009).take 6 ≠ be 6 0xFFFFFFFFFFFF ∧
      lef (frameOf 0x030000000001 0x020000000009) 60 4 = crc32 ((frameOf 0x030000000001 0x020000000009).take 60)) := by
  unfold State.Settled; and_intros <;> first | ((with_reducible refine stays_still _ ?_ ?_) <;> rfl) | decide +kernel

/-- TRANSMIT waits: ports, frame length and stamp bit in its argument, and a buffer. -/
def sendArg (ports len : Nat) (stamp : Bool) : Nat := ports * 2 ^ 16 + len + (if stamp then 2 ^ 18 else 0)
def sending (n ports len : Nat) (stamp : Bool) (room : Nat) : State := turnOf (station n) 8 (desc 1 (sendArg ports len stamp) room 0)
theorem wit_StationCommands :
    (Stays (station 1) ∧ (station 1).Settled ∧ (station 1).staUp 1 = true ∧ (station 1).up = true ∧ ((station 1).sta 1).link = true ∧
      (station 1).rb .ptpPortCtrl 1 31 = true) ∧
    (Stays (sending 0 0 60 false 60) ∧ (sending 0 0 60 false 60).Settled ∧ (sending 0 0 60 false 60).up = true ∧
      (sending 0 0 60 false 60).turn 8 1 = some (3, 0, desc 1 (sendArg 0 60 false) 60 0) ∧ sendArg 0 60 false / 2 ^ 16 % 4 = 0) ∧
    ((sending 0 1 59 false 59).turn 8 1 = some (3, 0, desc 1 (sendArg 1 59 false) 59 0) ∧ sendArg 1 59 false % 2048 < 60 ∧
      2000 < sendArg 1 2001 false % 2048) ∧
    (sendArg 1 60 false / 2 ^ 16 % 4 = 1 ∧ 60 ≤ sendArg 1 60 false % 2048 ∧ sendArg 1 60 false % 2048 ≤ 2000 ∧ nbit (sendArg 1 60 false) 18 = false ∧
      (sending 0 1 60 false 59).turn 8 1 = some (3, 0, desc 1 (sendArg 1 60 false) 59 0) ∧ 59 < sendArg 1 60 false % 2048) ∧
    (sendArg 1 2000 true / 2 ^ 16 % 4 = 1 ∧ sendArg 1 2000 true % 2048 ≤ 2000 ∧ nbit (sendArg 1 2000 true) 18 = true ∧
      2015 < sendArg 1 2000 true % 2048 + 16 ∧ sendArg 1 2000 true % 2048 + 16 ≤ 2016) ∧
    (Stays (sending 1 1 60 false 60) ∧ (sending 1 1 60 false 60).turn 8 1 = some (3, 0, desc 1 (sendArg 1 60 false) 60 0) ∧
      (sending 1 1 60 false 60).staUp 0 = false ∧ sendArg 1 60 false % 2048 ≤ 60) ∧
    (Stays (sending 0 1 2000 true 2016) ∧ (sending 0 1 2000 true 2016).Settled ∧ (sending 0 1 2000 true 2016).canDma = true ∧
      (sending 0 1 2000 true 2016).turn 8 1 = some (3, 0, desc 1 (sendArg 1 2000 true) 2016 0) ∧ (sending 0 1 2000 true 2016).staUp 0 = true ∧
      ((sending 0 1 2000 true 2016).ring 3).state = 1) := by
  unfold State.Settled; and_intros <;> first | ((with_reducible refine stays_still _ ?_ ?_) <;> rfl) | decide +kernel

/-! ### Cell links, health, retirement -/

/-- Port 47 in a state of R209, in a mode, at a tick; frame 999 was sent last. -/
def portAt (n m st : Nat) : State := ((at_ n).modMode fun x => { x with mode := m }).modPort 47 fun p => { p with st := st, lastFrame := some 999, sent := [(1000, 31997952)] }
/-- The state as a request to the links' clock domain finds it. -/
def portx (n m st : Nat) : State := (portAt n m st).openGate 2
theorem wit_DownstreamFrames :
    (Stays (portAt 936 0 0) ∧ (portx 936 0 0).up = true ∧ (portx 936 0 0).hasPort 47 = true ∧ ((portx 936 0 0).port 47).st = 0 ∧ (portx 936 0 0).Settled) ∧
    (Stays (portAt 999936 1 3) ∧ (portx 999936 1 3).up = true ∧ (portx 999936 1 3).hasPort 47 = true ∧ (portx 999936 1 3).mode.mode ≠ 0 ∧
      ((portx 999936 1 3).port 47).st ≠ 0 ∧ (portx 999936 1 3).frameNow 47 = some 1000) ∧
    (Stays (portAt 999936 6 2) ∧ (portx 999936 6 2).up = true ∧ (portx 999936 6 2).hasPort 47 = true ∧ ((portx 999936 6 2).port 47).st = 2 ∧
      (portx 999936 6 2).mode.mode ≠ 0 ∧ (portx 999936 6 2).mode.mode ≤ 6 ∧ (portx 999936 6 2).frameNow 47 = some 1000 ∧ (portx 999936 6 2).Settled) := by
  unfold State.Settled; and_intros <;> first | ((with_reducible refine stays_still _ ?_ ?_) <;> rfl) | decide +kernel

/-- An upstream frame that echoes a number, without events. -/
def upBody : Bytes := le 1 0x81 ++ le 5 7 ++ zeros 0x72
def upOf : Bytes := le 1 0xBC ++ upBody ++ le 4 (crc32 upBody)
/-- Port 47 counts its good frames; its channel is in a state of R371. -/
def goodRun (g : Nat) : State := (portAt 2000 2 1).modPort 47 fun p => { p with good := g }
def chanAt (st : Nat) (held : Bool) : State := ((portAt 20000 2 3).modHealth1 47 fun h => { h with state := st, held := held }).modPort 47 fun p =>
  { p with byFrom := 5000, relFrom := some 8 }
theorem wit_UpstreamFrames :
    (Stays (portAt 2000 2 3) ∧ (portx 2000 2 3).up = true ∧ (portx 2000 2 3).hasPort 47 = true ∧ ((portx 2000 2 3).port 47).st ≠ 0 ∧
      32032 + 32000 ≤ 32 * ((portx 2000 2 3).clk.now + 1) ∧ upGood [] true = false ∧ upGood upOf false = false ∧
      (portx 2000 2 3).Settled ∧ upGood upOf true = true) ∧
    (((goodRun 6).port 47).st = 1 ∧ nbit (128 + 47) 7 = true ∧ (128 + 47) % 64 = 47 ∧ ((goodRun 6).port 47).good < 7 ∧ 7 ≤ ((goodRun 7).port 47).good ∧
      nbit 47 7 = false ∧ ((goodRun 7).port 47).good < 8 ∧ (128 + 46) % 64 ≠ 47) ∧
    (((chanAt 2 false).health1 47).state = 2 ∧ ((chanAt 2 false).health1 47).held = false ∧ nbit 0x20 5 = true ∧ ((chanAt 2 false).port 47).byFrom ≠ 0 ∧
      ((chanAt 2 false).port 47).byFrom + 1000 ≤ 1000 * 6 ∧ 1000 * 13 ≤ ((chanAt 2 false).port 47).byFrom + 8000) ∧
    (((chanAt 4 false).health1 47).state = 4 ∧ ((chanAt 4 false).port 47).relFrom = some 8 ∧ 8 ≤ 8 ∧ nbit 0xD7 3 = false ∧ nbit 0xD7 5 = false) := by
  unfold State.Settled; and_intros <;> first | ((with_reducible refine stays_still _ ?_ ?_) <;> rfl) | decide +kernel

/-- Port 12, its asymmetry 6, in a state with an advance. -/
def measuring (st passes : Nat) (adv : Int) : State := (b0.setReg .lnkAsym 12 6).modPort 12 fun p => { p with st := st, adv := adv, passes := passes }
/-- Port 47 has sent frame 2,047. -/
def stepping : State := (portAt 2000000 2 3).modPort 47 fun p => { p with lastFrame := some 2047 }
theorem wit_DelayMeasurement :
    ((22375700 + 128 : Int) / 256 = 87405 ∧ ((87405 : Int) - 2048) / 2 + sx 32 ((measuring 3 0 0).reg .lnkAsym 12).toNat = 42684 ∧ (42684 : Int) ≤ (measuring 3 0 0).downLimit ∧
      (87405 : Int) - 2048 - 42684 = 42673 ∧ (42673 : Int) ≤ (measuring 3 0 0).upLimit) ∧
    (((measuring 3 0 42620).port 12).st = 3 ∧ ((42684 : Int) - ((measuring 3 0 42620).port 12).adv).natAbs ≤ 64) ∧
    (((measuring 2 2 42687).port 12).st = 2 ∧ 2 < ((42684 : Int) - ((measuring 2 2 42687).port 12).adv).natAbs ∧ ((measuring 2 2 42687).port 12).passes < 3) ∧
    (((42684 : Int) - ((measuring 2 0 42686).port 12).adv).natAbs ≤ 2) ∧
    ((measuring 2 0 0).downLimit < 64001 ∧ (measuring 2 0 0).upLimit < 65537 ∧ ((measuring 2 0 0).health1 12).state ≠ 4 ∧ (measuring 2 0 0).severity 201 ≠ 0 ∧
      sourceOk (measuring 2 0 0).var 201 = true) ∧
    (((measuring 2 3 42687).port 12).st = 2 ∧ 3 ≤ ((measuring 2 3 42687).port 12).passes ∧ 2 < ((42684 : Int) - ((measuring 2 3 42687).port 12).adv).natAbs) ∧
    (Stays stepping ∧ (stepping.openGate 2).Settled ∧ (stepping.openGate 2).up = true ∧ (stepping.openGate 2).hasPort 47 = true ∧
      ((stepping.openGate 2).port 47).lastFrame = some (2048 - 1) ∧ ((stepping.openGate 2).port 47).stepAt ≤ 2048 ∧
      ((stepping.openGate 2).port 47).st = 3) := by
  unfold State.Settled; and_intros <;> first | ((with_reducible refine stays_still _ ?_ ?_) <;> rfl) | decide +kernel

/-- Frame 1,000 was sent and perhaps echoed, slot 999 was judged, some slots were missed. -/
def slotAt (echoes : List Nat) (miss : Nat) : State := ((portAt 1002164 2 3).modPort 47 fun p =>
  { p with slotDone := some 999, echoes := echoes, missRun := miss }).openGate 2
theorem wit_PortStates :
    (Stays (portAt 5000 2 3) ∧ (portx 5000 2 3).up = true ∧ (portx 5000 2 3).hasPort 47 = true ∧ ((portx 5000 2 3).port 47).st = 3 ∧
      ((portx 5000 2 3).health1 47).state ≠ 4 ∧ (portx 5000 2 3).severity 200 ≠ 0 ∧ Stays (portAt 5000 2 2) ∧ ((portx 5000 2 2).port 47).st ≠ 3 ∧
      (portx 5000 2 2).Settled) ∧
    (Stays ((portAt 1002164 2 3).modPort 47 fun p => { p with slotDone := some 999, echoes := [1000], missRun := 0 }) ∧ (slotAt [1000] 0).up = true ∧
      (slotAt [1000] 0).hasPort 47 = true ∧ ((slotAt [1000] 0).port 47).st = 3 ∧ ((slotAt [1000] 0).port 47).slotDone = some (1000 - 1) ∧
      ((slotAt [1000] 0).port 47).sent.any (fun e => e.1 = 1000) = true ∧ (slotAt [1000] 0).slotClose 47 (1000 * 1000) ≤ 32 * ((slotAt [1000] 0).clk.now : Int) ∧
      ((slotAt [1000] 0).port 47).echoes.contains 1000 = true) ∧
    (Stays ((portAt 1002164 2 3).modPort 47 fun p => { p with slotDone := some 999, echoes := [], missRun := 2 }) ∧ (slotAt [] 2).up = true ∧
      ((slotAt [] 2).port 47).st = 3 ∧ ((slotAt [] 2).port 47).echoes.contains 1000 = false ∧ 2 ≤ ((slotAt [] 2).port 47).missRun) ∧
    (bit 0x80000700 31 = true ∧ bit 0x80000700 0 = false ∧ Stays (portAt 5000 1 0) ∧ (portx 5000 1 0).up = true ∧ (portx 5000 1 0).hasPort 47 = true ∧
      ((portx 5000 1 0).port 47).st = 0 ∧ (portx 5000 1 0).mode.mode ≠ 0 ∧ (portx 5000 1 0).Settled) ∧
    (bit 0x700 31 = false ∧ bit 0x80000001 0 = true ∧ Stays (portAt 5000 1 5) ∧ ((portx 5000 1 5).port 47).st ≠ 0) ∧
    (fld 0x80000700 15 8 ≠ (portx 5000 1 3).rf .lnkCtrl 47 15 8 ∧ Stays (portAt 5000 1 3) ∧ ((portx 5000 1 3).port 47).st = 3 ∧ (portx 5000 1 3).Settled ∧
      Stays (portAt 5000 1 1) ∧ ((portx 5000 1 1).port 47).st = 1 ∧ (portx 5000 1 1).Settled) := by
  unfold State.Settled; and_intros <;> first | ((with_reducible refine stays_still _ ?_ ?_) <;> rfl) | decide +kernel

/-- A ring 12 descriptor for port 47 waits. -/
def mailAt (op st len arg2 : Nat) : State := turnOf (portAt 5000 2 st) 12 (desc op 47 len arg2)
def mailx (op st len arg2 : Nat) : State := (mailAt op st len arg2).openGate 2
/-- A request under way. -/
def asking (sends : Nat) : State := (portAt 5000 2 3).modPort 47 fun p => { p with req := some ⟨1, 0x21, 0, [], false, some 0, sends, 16⟩ }
theorem wit_SlotRequests :
    (Stays (mailAt 1 3 63 0) ∧ (mailx 1 3 63 0).up = true ∧ (mailx 1 3 63 0).Settled ∧ (mailx 1 3 63 0).turn 12 1 = some (3, 0, desc 1 47 63 0) ∧
      (desc 1 47 63 0).len < 64) ∧
    (Stays (mailAt 1 2 64 0) ∧ (mailx 1 2 64 0).Settled ∧ (mailx 1 2 64 0).turn 12 1 = some (3, 0, desc 1 47 64 0) ∧ 64 ≤ (desc 1 47 64 0).len ∧
      ((mailx 1 2 64 0).port ((desc 1 47 64 0).arg % 64)).st ≠ 3) ∧
    (Stays (mailAt 1 3 64 0) ∧ ((mailx 1 3 64 0).port ((desc 1 47 64 0).arg % 64)).st = 3 ∧ (mailx 1 3 64 0).canDma = true) ∧
    ((mailx 2 3 64 0).turn 12 2 = some (3, 0, desc 2 47 64 0) ∧ ((mailx 2 3 64 0).port (47 % 64)).st = 3 ∧ (mailx 2 3 64 0).canDma = true) ∧
    ((mailx 3 3 64 0x2FFFD).turn 12 3 = some (3, 0, desc 3 47 64 0x2FFFD) ∧ ((mailx 3 3 64 0x2FFFD).port (47 % 64)).st = 3 ∧
      (mailx 3 3 64 0x2FFFD).canDma = true ∧ 0x2FFFD / 65536 % 4 ≠ 0 ∧
      0x1000 ≤ 0x2FFFD % 65536 ∧ 0x2FFFD % 65536 ≤ 0xFFFD ∧ 0x21000 % 65536 = 0x1000 ∧ 0x2000 / 65536 % 4 = 0 ∧ 0x20FFF % 65536 < 0x1000 ∧ 0x20FFF % 65536 ≠ 0x22) ∧
    ((asking 3).port 47).req = some ⟨1, 0x21, 0, [], false, some 0, 3, 16⟩ ∧ ((asking 4).port 47).req = some ⟨1, 0x21, 0, [], false, some 0, 4, 16⟩ := by
  unfold State.Settled; and_intros <;> first | ((with_reducible refine stays_still _ ?_ ?_) <;> rfl) | decide +kernel

def standing (s : State) : State := s.modPair fun p => { p with st := 4, active := false }
/-- A fired action on a cell port, on a unit with the port and on one without. -/
def bell47 (action arg : Nat) : State := firedOf (portAt 5000 2 3) (bellE 900 6 action 47 arg)
def bell24 : State := { firedOf b0 (bellE 900 6 7 24 0) with clk := { (at_ 5000).clk with variant := .f24 } }
/-- The leak of kind k falls at 7,000,000 ticks of its window. -/
def leakAt (n : Nat) : State := at_ n
theorem wit_HealthAndBell :
    (Stays (leakAt 0) ∧ (leakAt 0).Settled ∧ (leakAt 0).released = true ∧ (leakAt 0).up = true ∧
      (∀ k, k < 6 → (leakAt 0).clk.now % (max 1 ((leakAt 0).rf .lnkHlthCfg k 31 16) * 1000000) = 0) ∧ kindOf 105 = 5 ∧ (leakAt 0).hasChannel 105 = true ∧
      ((leakAt 0).health1 105).leakAt ≠ (leakAt 0).clk.now + 1 ∧ (leakAt 0).hasChannel 106 = false ∧
      Stays (leakAt 1) ∧ (leakAt 1).Settled ∧ (leakAt 1).clk.now % (max 1 ((leakAt 1).rf .lnkHlthCfg 5 31 16) * 1000000) ≠ 0) ∧
    ((b0.setRf .lnkHlthCfg 5 15 8 0).hasChannel 105 = true ∧ (b0.setRf .lnkHlthCfg 5 15 8 0).rf .lnkHlthCfg (kindOf 105) 15 8 = 0) ∧
    (Stays (bell47 7 0) ∧ ((bell47 7 0).openGate 2).up = true ∧ ((bell47 7 0).openGate 2).bell.fired.find? (fun f => f.e.action = 0x07 && f.arrive ≤ 5000 && f.e.unit = 0x06) =
        some ⟨bellE 900 6 7 47 0, 900, 950⟩ ∧ ((bell47 7 0).openGate 2).hasPort 47 = true ∧ (((bell47 7 0).openGate 2).port 47).st = 3 ∧
      ((bell47 7 0).openGate 2).Settled ∧ ((bell47 7 1).openGate 2).bell.fired.find? (fun f => f.e.action = 0x07 && f.arrive ≤ 5000 && f.e.unit = 0x06) =
        some ⟨bellE 900 6 7 47 1, 900, 950⟩ ∧ Stays bell24 ∧ (bell24.openGate 2).up = true ∧ (bell24.openGate 2).Settled ∧ (bell24.openGate 2).hasPort 24 = false ∧
      (bell24.openGate 2).bell.fired.find? (fun f => f.e.action = 0x07 && f.arrive ≤ 5000 && f.e.unit = 0x06) = some ⟨bellE 900 6 7 24 0, 900, 950⟩) ∧
    (Stays (bell47 8 0) ∧ (bell47 8 0).bell.fired.find? (fun f => f.e.action = 0x08 && f.arrive ≤ 5000) = some ⟨bellE 900 6 8 47 0, 900, 950⟩ ∧
      (bell47 9 0).bell.fired.find? (fun f => f.e.action = 0x09 && f.arrive ≤ 5000) = some ⟨bellE 900 6 9 47 0, 900, 950⟩ ∧ (bell47 8 0).standby = false ∧
      Stays (standing (bell47 8 0)) ∧ (standing (bell47 8 0)).standby = true ∧ (standing (bell47 8 0)).Settled ∧ (standing (bell47 9 0)).Settled) := by
  unfold State.Settled; and_intros <;> first | ((with_reducible refine stays_still _ ?_ ?_) <;> rfl) | decide +kernel

/-- RETIRE or RETURN of channel 47 waits, in a mode. -/
def retiring (m op st : Nat) : State := turnOf (((portAt 20000 m 3).modHealth1 47 fun h => { h with state := st }).modPort 47 fun p => { p with byFrom := 5000 }) 0 (desc op 47 0 0)
/-- A return under way for 64 frames. -/
def overdue : State := ((portAt 64000 2 3).modHealth1 47 fun h => { h with state := 4 }).modPort 47 fun p => { p with retFrom := 0 }
theorem wit_RetireAndReturn :
    (Stays (retiring 2 0x30 0) ∧ (retiring 2 0x30 0).up = true ∧ (retiring 2 0x30 0).turn 0 0x30 = some (3, 0, desc 0x30 47 0 0) ∧
      (retiring 2 0x30 0).standby = false ∧ Stays (retiring 2 0x31 3) ∧ (retiring 2 0x31 3).turn 0 0x31 = some (3, 0, desc 0x31 47 0 0)) ∧
    (Stays (standing (retiring 2 0x30 0)) ∧ (standing (retiring 2 0x30 0)).up = true ∧ (standing (retiring 2 0x30 0)).standby = true ∧
      (standing (retiring 2 0x30 0)).Settled ∧ (standing (retiring 2 0x30 0)).turn 0 0x30 = some (3, 0, desc 0x30 47 0 0) ∧
      (standing (retiring 2 0x31 0)).turn 0 0x31 = some (3, 0, desc 0x31 47 0 0)) ∧
    (Stays (retiring 2 0x30 2) ∧ (retiring 2 0x30 2).hasPort 47 = true ∧ ((retiring 2 0x30 2).health1 47).state = 2 ∧
      ((retiring 2 0x30 2).health1 47).held = false ∧ ((retiring 2 0x30 2).port 47).byFrom ≠ 0 ∧
      (retiring 2 0x30 2).slotClose 47 (((retiring 2 0x30 2).port 47).byFrom + 8000) ≤ 32 * ((retiring 2 0x30 2).clk.now : Int) ∧
      (retiring 2 0x30 2).severity 193 ≠ 0) ∧
    (Stays overdue ∧ overdue.up = true ∧ overdue.hasPort 47 = true ∧ (overdue.health1 47).state = 4 ∧ (overdue.port 47).retFrom + 64000 ≤ overdue.clk.now ∧
      ((retiring 2 0x31 3).health1 47).state ≠ 4 ∧ (retiring 2 0x31 3).Settled) ∧
    ((retiring 2 0 3).retirable 47 = false ∧ (retiring 1 0 0).retirable 47 = true ∧ (retiring 1 0 0).mode.mode ≤ 1 ∧ (retiring 2 0 0).retirable 47 = true ∧
      2 ≤ (retiring 2 0 0).mode.mode ∧ ((retiring 2 0 0).health1 47).state ≠ 4 ∧ (retiring 2 0 0).hasChannel 47 = true) ∧
    (((retiring 2 0 0).health1 47).retireAt ≠ coreCycle (retiring 2 0 0).clk.now + 1 ∧ ((retiring 2 0 0).health1 47).state = 0 ∧
      ((retiring 2 0 2).health1 47).state = 2 ∧ ((retiring 1 0 3).health1 47).state = 3 ∧ (retiring 1 0 3).returnRefused 47 = false ∧
      (retiring 2 0 3).returnRefused 47 = false ∧ ((retiring 2 0 3).modPort 47 fun p => { p with st := 1 }).returnRefused 47 = true ∧
      (((retiring 2 0 3).modPort 47 fun p => { p with st := 1 }).health1 47).state = 3) := by
  unfold State.Settled; and_intros <;> first | ((with_reducible refine stays_still _ ?_ ?_) <;> rfl) | decide +kernel

/-! ### The Mill -/

/-- A program of one block without effect in task 0, tunable or not. -/
def progOf (tun : Bool) : Prog := ⟨[[0xFFFF, 0xFFFFFFFF, 0xFFFFFFFF, if tun then 0x80000000 else 0, 0, 0, 0, 0]], List.replicate 16 0⟩
/-- Loaded, in a mode. -/
def loaded (m : Nat) (tun : Bool) : State := (inMode m).modMill fun x => { x with prog := some (progOf tun) }
/-- A SETPOINT descriptor with one used slot, or none. -/
def setDesc (a : Nat) : Desc := { desc 1 0 0 0 with raw := le 4 0 ++ le 2 a ++ le 2 7 ++ List.replicate 24 0xFF }
/-- SETPOINT waits. -/
def setTurn (a : Nat) : State := turnOf (loaded 2 true) 2 (setDesc a)
/-- A fired WRITE_INPUT or WRITE_PARAM. -/
def millFired (m : Nat) (tun : Bool) (action index : Nat) : State := firedOf (loaded m tun) (bellE 900 11 action index 7)
/-- MILL_PARAM waits. -/
def paramTurn (m : Nat) (tun : Bool) (a : Nat) : State := turnOf (loaded m tun) 0 (desc 0x21 a 0 5)
theorem wit_MillInputs :
    (Stays (setTurn 127) ∧ ((setTurn 127).openGate 0).Settled ∧ ((setTurn 127).openGate 0).up = true ∧
      ((setTurn 127).openGate 0).turn 2 1 = some (3, 0, setDesc 127) ∧ (setDesc 127).setpoints = [(127, 7)] ∧ (setDesc 127).setpoints ≠ [] ∧
      ((setTurn 127).openGate 0).standby = false ∧ ((setDesc 127).setpoints.any fun e => 128 ≤ e.1) = false ∧
      ((setDesc 128).setpoints.any fun e => 128 ≤ e.1) = true ∧ ((setTurn 128).openGate 0).turn 2 1 = some (3, 0, setDesc 128) ∧
      (setDesc 0xFFFF).setpoints = [] ∧ ((setTurn 0xFFFF).openGate 0).turn 2 1 = some (3, 0, setDesc 0xFFFF) ∧
      ((standing (setTurn 127)).openGate 0).standby = true ∧ ((standing (setTurn 127)).openGate 0).Settled) ∧
    (nget b0.mill.bellIn 5 ≠ coreCycle b0.clk.now + 1 ∧
      nget (b0.modMill fun m => { m with bellIn := nput m.bellIn 5 1001 }).mill.bellIn 5 = coreCycle (b0.modMill fun m => { m with bellIn := nput m.bellIn 5 1001 }).clk.now + 1) ∧
    (Stays (turnOf b0 0 (desc 0x21 3 0 5)) ∧ ((turnOf b0 0 (desc 0x21 3 0 5)).openGate 0).turn 0 0x21 = some (3, 0, desc 0x21 3 0 5) ∧
      ((turnOf b0 0 (desc 0x21 3 0 5)).openGate 0).mill.prog = none ∧ ((turnOf b0 0 (desc 0x21 3 0 5)).openGate 0).standby = false) ∧
    (Stays (paramTurn 2 true 3) ∧ ((paramTurn 2 true 4).openGate 0).turn 0 0x21 = some (3, 0, desc 0x21 4 0 5) ∧
      ((paramTurn 2 true 4).openGate 0).mill.prog.isSome = true ∧ ((paramTurn 2 true 4).openGate 0).paramOpen 4 = none ∧
      ((paramTurn 2 false 3).openGate 0).paramOpen 3 = some false ∧ ((paramTurn 2 true 3).openGate 0).Settled ∧
      ((paramTurn 2 true 3).openGate 0).turn 0 0x21 = some (3, 0, desc 0x21 3 0 5) ∧ ((paramTurn 2 true 3).openGate 0).paramOpen 3 = some true ∧
      2 ≤ ((paramTurn 2 true 3).openGate 0).mode.mode ∧ ((paramTurn 1 true 3).openGate 0).paramOpen 3 = some true ∧
      ((paramTurn 1 true 3).openGate 0).mode.mode ≤ 1 ∧ ((standing (paramTurn 2 true 3)).openGate 0).standby = true) ∧
    (Stays (millFired 2 true 1 127) ∧ ((millFired 2 true 1 127).openGate 0).Settled ∧
      ((millFired 2 true 1 127).openGate 0).bell.fired.find? (fun f => f.e.action = 0x01 && f.arrive ≤ 1000) = some ⟨bellE 900 11 1 127 7, 900, 950⟩ ∧
      ((standing (millFired 2 true 1 127)).openGate 0).standby = true ∧ ((millFired 2 true 1 127).openGate 0).standby = false) ∧
    (((millFired 2 true 2 3).openGate 0).bell.fired.find? (fun f => f.e.action = 0x02 && f.arrive ≤ 1000) = some ⟨bellE 900 11 2 3 7, 900, 950⟩ ∧
      ((millFired 2 true 2 3).openGate 0).paramOpen 3 = some true ∧ 2 ≤ ((millFired 2 true 2 3).openGate 0).mode.mode ∧
      ((millFired 2 false 2 3).openGate 0).paramOpen 3 ≠ some true ∧ ((millFired 1 true 2 3).openGate 0).mode.mode ≤ 1 ∧
      ((millFired 1 true 2 3).openGate 0).paramOpen 3 = some true) := by
  unfold State.Settled; and_intros <;> first | ((with_reducible refine stays_still _ ?_ ?_) <;> rfl) | decide +kernel

/-- That program as a payload. -/
def progBody : Bytes := le 4 0x504C494D ++ le 2 1 ++ le 2 1 ++ zeros 248 ++ le 4 0xFFFF ++ le 4 0xFFFFFFFF ++ le 4 0xFFFFFFFF ++ zeros 52
/-- MILL_LOAD waits, in a mode. -/
def millTurn (m len : Nat) : State := turnOf (inMode m) 0 (desc 0x20 0 len 0)
/-- Telemetry every 20 µs. -/
def teleAt (n : Nat) (on : Bool) : State := (at_ n).setReg .milTlmCtrl 0 (word (20 + if on then 2 ^ 31 else 0))
/-- The states as a request to the Mill's clock domain finds them. -/
def millx (m len : Nat) : State := (millTurn m len).openGate 0
def telex (n : Nat) (on : Bool) : State := (teleAt n on).openGate 0
/-- In boot, before BAR0 is decoded. -/
def dark : State := inPhase .booting
theorem wit_MillProgramsAndTelemetry (v : hdrSigned (imgGood 2 progBody) "OCR-MILL" = true) :
    (Stays (millTurn 1 0x2140) ∧ (millx 1 0x2140).Settled ∧ (millx 1 0x2140).up = true ∧ (millx 1 0x2140).turn 0 0x20 = some (3, 0, desc 0x20 0 0x2140 0) ∧
      (millx 1 0x2140).canDma = true ∧ (millx 2 0x2140).turn 0 0x20 = some (3, 0, desc 0x20 0 0x2140 0) ∧ (millx 2 0x2140).mode.mode ≠ 1 ∧
      (millx 1 0x2140).mode.mode = 1 ∧ (millx 1 0x1FFF).turn 0 0x20 = some (3, 0, desc 0x20 0 0x1FFF 0) ∧ (desc 0x20 0 0x1FFF 0).len < 0x2000 ∧
      (millx 1 0x213F).turn 0 0x20 = some (3, 0, desc 0x20 0 0x213F 0) ∧ 0x2000 ≤ (desc 0x20 0 0x213F 0).len ∧ (millx 1 0x213F).mode.mode = 1 ∧
      (millx 1 0x213F).Settled) ∧
    ((desc 0x20 0 0x213F 0).len < 0x2000 + hdrLength (imgGood 2 progBody) ∧ 0x2000 + hdrLength (imgGood 2 progBody) ≤ (desc 0x20 0 0x2140 0).len ∧
      (millx 1 0x2140).imageCheck (imgGood 2 progBody) 2 "OCR-MILL" = 0 ∧ (millx 1 0x2140).imageCheck [] 2 "OCR-MILL" ≠ 0 ∧
      progCheck (millx 1 0x2140).var (hdrLength (imgGood 2 progBody)) (slice (imgGood 2 progBody) 0x2000 (hdrLength (imgGood 2 progBody))) = none ∧
      progCheck (millx 1 0x2140).var 0x140 (confBody 0 0) = some (1, 0)) ∧
    (Stays (teleAt 20000 true) ∧ (telex 20000 true).Settled ∧ (telex 20000 true).up = true ∧ (telex 20000 true).rb .milTlmCtrl 0 31 = true ∧
      (telex 20000 true).clk.now % ((telex 20000 true).rf .milTlmCtrl 0 19 0 * 1000) = 0 ∧ Stays (teleAt 20000 false) ∧
      (telex 20000 false).Settled ∧ (telex 20000 false).rb .milTlmCtrl 0 31 = false ∧ (telex 20001 true).clk.now % ((telex 20001 true).rf .milTlmCtrl 0 19 0 * 1000) ≠ 0) ∧
    (Stays dark ∧ dark.released = true ∧ (dark.openGate 0).up = false ∧ (dark.openGate 0).Settled) := by
  have k : progBody.length = 0x140 := by decide +kernel
  obtain ⟨f, l, h, b, -, -⟩ := imgGood_form 2 0x140 progBody k (by decide)
  have c := imageCheck_good (millx 1 0x2140) 2 0x140 "OCR-MILL" _ f l h b v (by decide)
  rw [l, b]
  unfold State.Settled
  refine ⟨?_, ⟨by decide, by decide, c, by decide, ?_, ?_⟩, ?_, ?_⟩ <;> and_intros <;> first | ((with_reducible refine stays_still _ ?_ ?_) <;> rfl) | decide +kernel

/-- Group 0 of 100,000 ticks has run from 100,000 on; task 0 is tied to it, in mode 3. -/
def grouped (n : Nat) : State := (((loaded 3 true).modClk fun c => { c with now := n }).setReg .gceGrpPeriod 0 (word (2 ^ 31 + 50000))).setReg .milTaskCfg 0 (word (2 ^ 31))
  |>.modGrp 0 fun x => { x with started := true, running := true, b0 := 100000, bk := 100000, frozen := 100000 }
/-- Task 0 in a state since its input close, its bank sealed or not. -/
def tasked (n st : Nat) (sealed : Bool) : State := (grouped n).modTask 0 fun k => { k with st := st, bk := 200000, closeAt := 200800, sealed := sealed }
/-- The active unit's bank of that period has come. -/
def banked : State := (standing (tasked 214000 1 false)).modPair fun p => { p with banks := [(0, zeros 8 ++ le 4 200000 ++ le 1 3 ++ zeros 0x27)] }
/-- In mode 1, with a second task tied to the group. -/
def early (n : Nat) : State := ((grouped n).setReg .milTaskCfg 2 (word (2 ^ 31))).modMode fun m => { m with mode := 1 }
/-- The group's mode is 3. -/
def inGroup (n : Nat) : State := (grouped n).modMode fun m => { m with groupMode := [(0, 3)] }
theorem wit_MillTasks :
    (Stays (inGroup 200800) ∧ ((inGroup 200800).openGate 0).up = true ∧ ((inGroup 200800).openGate 0).grpOn 0 = true ∧
      ((inGroup 200800).openGate 0).taskOn 0 = true ∧ ((inGroup 200800).openGate 0).taskGroup 0 = 0 ∧
      ((inGroup 200800).openGate 0).nowA = 200000 + ((inGroup 200800).openGate 0).inputLead 0 ∧ ((inGroup 200800).openGate 0).isBoundary 0 200000 = true ∧
      ((inGroup 200800).openGate 0).runsAt 0 200000 = true ∧ (((inGroup 200800).openGate 0).task 0).bk ≠ 200000 ∧
      2 ≤ nget ((inGroup 200800).openGate 0).closeGroups.mode.groupMode 0 ∧ nget ((inGroup 200800).openGate 0).closeGroups.mode.groupMode 0 ≤ 7) ∧
    (Stays (early 200800) ∧
      nget ((early 200800).openGate 0).closeGroups.mode.groupMode 0 < 2 ∧
      (((early 200800).openGate 0).closeGroups.tasksOf 0).head? ≠ some 2 ∧
      ((early 200800).openGate 0).taskOn 2 = true ∧
      ((early 200800).openGate 0).taskGroup 2 = 0 ∧
      ((early 200800).openGate 0).nowA = 200000 + ((early 200800).openGate 0).inputLead 2) ∧
    (Stays (tasked 200900 1 true) ∧ ((tasked 200900 1 true).openGate 0).mill.prog = some (progOf true) ∧
      (((tasked 200900 1 true).openGate 0).task 0).st = 1 ∧ ((tasked 200900 1 true).openGate 0).clk.now % 2 = 0 ∧
      ((tasked 200900 1 true).openGate 0).taskStart 0 ≤ 200900 ∧ ((tasked 200900 1 true).openGate 0).mill.laneFree ≤ 200900 ∧
      (List.range 0).any ((tasked 200900 1 true).openGate 0).taskReady = false ∧
      ((List.range 3).any fun h => (((tasked 200900 1 true).openGate 0).task h).st = 2) = false ∧ (((tasked 200900 1 true).openGate 0).task 0).sealed = true) ∧
    (Stays banked ∧ (banked.openGate 0).mill.prog = some (progOf true) ∧ ((banked.openGate 0).task 0).st = 1 ∧ (banked.openGate 0).taskStart 0 ≤ 214000 ∧
      ((banked.openGate 0).task 0).sealed = false ∧ ((banked.openGate 0).sealFromPeer 0).1 = true) ∧
    (Stays (standing (tasked 214000 1 false)) ∧ (((standing (tasked 214000 1 false)).openGate 0).task 0).sealed = false ∧
      (((standing (tasked 214000 1 false)).openGate 0).sealFromPeer 0).1 = false ∧ ((standing (tasked 214000 1 false)).openGate 0).takesBank = true) ∧
    (Stays (tasked 299798 2 true) ∧ ((tasked 299798 2 true).openGate 0).mill.prog = some (progOf true) ∧ (((tasked 299798 2 true).openGate 0).task 0).st = 2 ∧
      ((tasked 299798 2 true).openGate 0).mill.laneFree ≤ 299798 + 2 ∧
      coreCycle 299798 < ((tasked 299798 2 true).openGate 0).unaligned (((tasked 299798 2 true).openGate 0).freezeAt 0 200000) ∧
      Stays (tasked 299800 2 true) ∧ ((tasked 299800 2 true).openGate 0).unaligned (((tasked 299800 2 true).openGate 0).freezeAt 0 200000) ≤ coreCycle 299800 ∧
      (((tasked 299800 2 true).openGate 0).task 0).st = 2 ∧ (((tasked 299800 2 true).openGate 0).task 0).bk = 200000 ∧
      ((tasked 299800 2 true).openGate 0).taskGroup 0 = 0 ∧ ((tasked 299800 2 true).openGate 0).Settled) := by
  unfold State.Settled; and_intros <;> first | ((with_reducible refine stays_still _ ?_ ?_) <;> rfl) | decide +kernel

/-! ### Carrier groups, delay lines, local legs -/

/-- Group 0 stops at the boundary 200,000; its legs lie in group 7. -/
def boundaryAt (n : Nat) (stop : Bool) : State := (List.range 16).foldl (fun s l => s.setRf .gcePair (384 + l) 29 27 7)
  ((grouped n).modGrp 0 fun x => { x with stopAfter := if stop then some 100000 else none })
/-- The states as requests to the carrier engine's clock domain find them. -/
def grpx (n : Nat) : State := (grouped n).openGate 1
def bdx (n : Nat) (stop : Bool) : State := (boundaryAt n stop).openGate 1
/-- A standby. -/
def follower : State := standing b0
theorem wit_CarrierGroups :
    (Stays (grouped 199800) ∧ (grpx 199800).up = true ∧ (grpx 199800).grpLive 0 = true ∧ 200000 = (grpx 199800).nowA + (grpx 199800).freezeLead 0 ∧
      (grpx 199800).grpPeriod 0 ≤ 200000 ∧ (grpx 199800).isBoundary 0 200000 = true ∧ (grpx 199800).runsAt 0 200000 = true ∧
      (grpx 199800).runsAt 0 (200000 - (grpx 199800).grpPeriod 0) = true ∧ ((grpx 199800).grp 0).frozen < 200000) ∧
    (Stays (grouped 99800) ∧ (grpx 99800).up = true ∧ (grpx 99800).nowA + (grpx 99800).freezeLead 0 ≤ ((grpx 99800).grp 0).frozen ∧ (grpx 99800).Settled) ∧
    (Stays (boundaryAt 200000 false) ∧ (bdx 200000 false).Settled ∧ (bdx 200000 false).up = true ∧ (bdx 200000 false).grpLive 0 = true ∧
      ((bdx 200000 false).grp 0).started = true ∧ 200000 = (bdx 200000 false).nowA ∧ (bdx 200000 false).isBoundary 0 200000 = true ∧
      ((bdx 200000 false).grp 0).b0 ≤ 200000 ∧ ((bdx 200000 false).grp 0).bk < 200000 ∧ (bdx 200000 false).groupLegs 0 = [] ∧
      (bdx 200000 false).runsAt 0 200000 = true) ∧
    (Stays (boundaryAt 200000 true) ∧ (bdx 200000 true).grpLive 0 = true ∧ (bdx 200000 true).runsAt 0 200000 = false) ∧
    (Stays (grouped 100000) ∧ ((grpx 100000).grp 0).running = true ∧ (grpx 100000).nowA ≤ ((grpx 100000).grp 0).bk ∧ (grpx 100000).Settled) ∧
    (bit ((b0.setReg .gceCtrl 0 1).gceWord 1000 .gceCtrl) 0 = true ∧ ((grouped 99800).grp 0).frozen ≠ 0 ∧ (∀ e ∈ b0.gce.staged, 1000 ≤ e.1)) ∧
    ((b0.modGce fun m => { m with staged := [(900, []), (950, [(0, 3)])] }).gce.staged.filter (fun e => e.1 < 1000)).getLast? = some (950, [(0, 3)]) ∧
    ((b0.modGce fun m => { m with staged := [(900, []), (950, [(0, 3)])] }).grp 0).forceAt < 950 ∧
    (Stays b0 ∧ b0.up = true ∧ b0.leads = false ∧ b0.standby = false ∧ b0.Settled ∧ bit 1 0 = true ∧ bit 2 0 = false) ∧
    (Stays follower ∧ follower.up = true ∧ follower.standby = true ∧ follower.Settled) := by
  unfold State.Settled; and_intros <;> first | ((with_reducible refine stays_still _ ?_ ?_) <;> rfl) | decide +kernel

/-- Hits of 32 equal bins of 144 and 16 empty ones. -/
def goodHits : List Nat := List.replicate 32 144
/-- At an update instant, or a tick later, as a request to the carrier engine's clock domain finds it. -/
def lineAt (n : Nat) : State := (at_ n).openGate 1
def updated (hits : List Nat) : State := (lineAt 2000).modLine 31 fun l =>
  { l with last := 2001, tab := l.next, acc := (List.range 48).map fun i => min 65535 (nth l.acc i 0 - nth l.acc i 0 / 16 + nth hits i 0) }
/-- A fired CALIBRATE of a delay line, or of all. -/
def lineFired (n : Nat) : State := (firedOf b0 (bellE 900 7 7 n 0)).openGate 1
theorem wit_DelayLines :
    (Stays (at_ 2000) ∧ (at_ 2000).released = true ∧ (lineAt 2000).clk.now % 2000 = 0 ∧ ((lineAt 2000).line 31).last ≠ 2000 + 1 ∧
      ((lineAt 2000).grp ((lineAt 2000).legGroup (31 / 2))).running = false ∧ (lineAt 2000).Settled) ∧
    (((updated goodHits).line 31).ok ((updated goodHits).line 31).build (lineAt 2000).dlMargin = true) ∧
    (((updated []).line 31).ok ((updated []).line 31).build (lineAt 2000).dlMargin = false ∧ (lineAt 2000).severity 225 ≠ 0) ∧
    (Stays (at_ 2001) ∧ (lineAt 2001).clk.now % 2000 ≠ 0 ∧ (lineAt 2001).Settled) ∧
    (Stays (firedOf b0 (bellE 900 7 7 31 0)) ∧ (lineFired 31).up = true ∧ (lineFired 31).Settled ∧ (lineFired 0xFFFF).Settled ∧
      (lineFired 31).bell.fired.find? (fun f => f.e.action = 0x07 && f.arrive ≤ 1000 && f.e.unit = 0x07) = some ⟨bellE 900 7 7 31 0, 900, 950⟩ ∧
      (lineFired 0xFFFF).bell.fired.find? (fun f => f.e.action = 0x07 && f.arrive ≤ 1000 && f.e.unit = 0x07) = some ⟨bellE 900 7 7 0xFFFF 0, 900, 950⟩) := by
  unfold State.Settled; and_intros <;> first | ((with_reducible refine stays_still _ ?_ ?_) <;> rfl) | decide +kernel

/-- Leg 15 is ready with its outputs enabled; its odd switch has an edge due. -/
def legged (sw par : Sw → Sw) : State := (((b0.modLg 15 fun l => { l with ready := true, seen := true, out := true }).modSw 31 sw).modSw 30 par)
def dueEdge (level : Bool) : State := (legged id id).modGce fun x => { x with sched := [(31, [⟨32000, level, false⟩])] }
theorem wit_LocalEdges :
    (Stays (dueEdge true) ∧ (dueEdge true).up = true ∧ (dueEdge true).schedOf 31 = [⟨32000, true, false⟩] ∧ (dueEdge true).schedOf (if 31 % 2 = 0 then 31 + 1 else 31 - 1) = [] ∧
      (dueEdge true).edgeAt 31 ⟨32000, true, false⟩ / 32 ≤ (dueEdge true).clk.now) ∧
    (((legged (fun w => { w with on := true }) id).sw 31).on = true ∧ ((legged (fun w => { w with on := true }) id).sw 31).latch = false) ∧
    (((legged (fun w => { w with latch := true }) id).sw 31).on = false ∧ ((legged (fun w => { w with latch := true }) id).sw 31).latch = true) ∧
    (((legged id id).sw 31).on = false ∧ (b0.heldOff 31 32000) = true ∧ (legged id id).heldOff 31 32000 = false ∧ (legged id id).interlocked 31 32000 = false) ∧
    ((legged id fun w => { w with on := true }).heldOff 31 32000 = false ∧ (legged id fun w => { w with on := true }).interlocked 31 32000 = true ∧
      (legged id fun w => { w with on := true }).severity 257 ≠ 0) ∧
    (((legged id fun w => { w with offAt := 31937 }).sw 30).offAt ≠ 0 ∧ 32000 < ((legged id fun w => { w with offAt := 31937 }).sw 30).offAt + 64 ∧
      ((legged id fun w => { w with offAt := 31936 }).sw 30).offAt + 64 ≤ 32000 ∧ ((legged id fun w => { w with offAt := 31936 }).sw 30).on = false ∧
      ((legged id fun w => { w with offAt := 31936 }).sw 30).hold = none) ∧
    (((legged id fun w => { w with hold := some 999 }).sw 30).hold = some 999 ∧ 32000 < 32 * 999 + 64 ∧ 32 * 998 + 64 ≤ 32000) ∧
    (Stays (legged id id) ∧ (legged id id).up = true ∧ (legged id id).Settled ∧ ((legged id id).grp ((legged id id).legGroup 15)).running = false ∧ ((legged id id).lg 15).out = true ∧ bit 0x7FFF 15 = false ∧
      ((b0.modGrp 0 fun g => { g with running := true }).grp (b0.legGroup 15)).running = true) := by
  unfold State.Settled; and_intros <;> first | ((with_reducible refine stays_still _ ?_ ?_) <;> rfl) | decide +kernel

/-- Switch 31 is on and out of blanking, LEG_DESAT inverted. -/
def desatAt_ : State := (legged (fun w => { w with on := true, blank := 900 }) id).setRb .legCfg 15 0 true
theorem wit_LegProtection :
    (Stays b0 ∧ b0.released = true ∧ b0.Settled ∧ (false != b0.rb .legCfg 15 1) = false ∧ (b0.lg 15).ready = false ∧ (true != b0.rb .legCfg 15 1) = true) ∧
    (Stays (legged id id) ∧ (legged id id).released = true ∧ (legged id id).Settled ∧ (false != (legged id id).rb .legCfg 15 1) = false ∧
      ((legged id id).lg 15).ready = true) ∧
    (Stays (legged (fun w => { w with blank := 1000 }) id) ∧ ((legged (fun w => { w with blank := 1000 }) id).sw 31).blank ≤ 1000 ∧
      (legged (fun w => { w with blank := 1000 }) id).Settled ∧ 1000 < ((legged (fun w => { w with blank := 1001 }) id).sw 31).blank ∧
      (legged (fun w => { w with blank := 1001 }) id).Settled) ∧
    (Stays desatAt_ ∧ desatAt_.released = true ∧ (false != desatAt_.rb .legCfg (31 / 2) 0) = true ∧ (desatAt_.sw 31).on = true ∧
      (desatAt_.sw 31).blanked = false ∧ (desatAt_.sw 31).blank + max 1 (desatAt_.rf .legCfg (31 / 2) 7 3) ≤ desatAt_.clk.now + 1 ∧ (b0.sw 31).on = false) ∧
    (Stays (legged (fun w => { w with hold := some 1000 }) id) ∧ ((legged (fun w => { w with hold := some 1000 }) id).sw 31).hold = some 1000 ∧
      (legged (fun w => { w with hold := some 1000 }) id).Settled ∧ ((legged (fun w => { w with hold := some 1001 }) id).sw 31).hold = some 1001) ∧
    (b0.up = true ∧ 32 * 12 + 15 < 400 ∧ 400 ≤ 32 * 12 + 16 ∧ (b0.pst 399).q < b0.rf .legBpLevel (b0.bootBits 399 % 4) 15 0 ∧
      b0.rf .legBpLevel (b0.bootBits 399 % 4) 15 0 ≤ ((b0.modPst 399 fun x => { x with q := 65535 }).pst 399).q) := by
  unfold State.Settled; and_intros <;> first | ((with_reducible refine stays_still _ ?_ ?_) <;> rfl) | decide +kernel

/-! ### Analog -/

/-- Task 0 names core 7, position 3, in its boundary set, 150 ticks before a boundary. -/
def spanAt (n : Nat) : State := (grouped n).setRf .adcBset 0 23 21 7
/-- The sequencer runs at an entry that names cores 0 and 7, two samples each, waiting 511 quanta after the last. -/
def seqAt (rep : Nat) : State := ((inMode 2).modAdc fun x => { x with seqOn := true, entry := 511, rep := rep, due := 1000 }).setReg .adcSeq 511 (word (0x81 * 2 ^ 24 + 3 * 2 ^ 22 + 2 ^ 9 + 511))
/-- An injection of cores 0 and 7 is pending. -/
def injected (n : Nat) : State := (inMode 2).modAdc fun x => { x with inj := some (0xE00004), injAt := n }
/-- The states as requests to the converters' clock domain find them. -/
def spanx (n : Nat) : State := (spanAt n).openGate 4
def seqx (rep : Nat) : State := (seqAt rep).openGate 4
def injx (n : Nat) : State := (injected n).openGate 4
/-- A sequencer step of entry 9, repetition 2, runs on core 7 while the injection comes. -/
def injOver : State := ((injected 1000).modAdc fun x => { x with spans := [(7, [⟨1, 31, 800, 9, 2, 5, 0, 0⟩])] }).openGate 4
/-- Stopped; in Dormant; a seq start already made. -/
def mode1 : State := (inMode 1).openGate 4
theorem wit_AnalogSpans :
    (Stays (spanAt 199850) ∧ (spanAt 199850).released = true ∧ (spanx 199850).Settled ∧
      ((spanx 199850).tasksOf 0).find? (fun k => ((spanx 199850).bset k 7).isSome) = some 0 ∧ (spanx 199850).bset 0 7 = some 3 ∧
      (spanx 199850).grpOn 0 = true ∧ (spanx 199850).isBoundary 0 ((spanx 199850).nowA + 150) = true ∧
      (spanx 199850).runsAt 0 ((spanx 199850).nowA + 150) = true ∧ 1 ≤ (spanx 199850).mode.mode ∧
      (((spanx 199850).spansOf 7).any fun y => y.kind = 2 && y.start = 199850) = false) ∧
    (Stays (seqAt 0) ∧ (seqx 0).Settled ∧ (seqx 0).adc.entry = 511 ∧ (seqx 0).adc.seqOn = true ∧ (seqx 0).clk.now % 2 = 0 ∧ (seqx 0).adc.due ≤ 1000 ∧
      1 ≤ (seqx 0).mode.mode ∧ fld ((seqx 0).seqEntry 511) 16 9 = 1 ∧ Stays (seqAt 1) ∧ (seqx 1).adc.rep = fld ((seqx 1).seqEntry 511) 16 9 ∧
      (∀ k < 8, nbit (fld ((seqx 0).seqEntry 511) 31 24) k = true → ((seqx 0).acal k).active = false ∧ (seqx 0).coreBusy k = false ∧
        (seqx 0).boundaryNear k 1000 = false ∧ (seqx 0).injNames k = false)) ∧
    (Stays b0 ∧ (b0.openGate 4).adc.seqOn = false ∧ (b0.openGate 4).adc.retake = false ∧ (b0.openGate 4).Settled) ∧
    (Stays (inMode 1) ∧ mode1.up = true ∧ mode1.Settled ∧ bit 0x80000000 31 = true ∧ mode1.rb .adcCtrl 0 31 = false ∧ 1 ≤ mode1.mode.mode ∧
      bit 1 31 = false ∧ bit 1 0 = true ∧ mode1.adc.inj = none ∧ mode1.mode.mode ≠ 0 ∧ (b0.openGate 4).mode.mode = 0) ∧
    (Stays (injected 1000) ∧ (injx 1000).adc.inj = some 0xE00004 ∧ (injx 1000).Settled ∧ (injx 1000).adc.injAt ≤ (injx 1000).clk.now ∧
      (injx 1000).clk.now % 2 = 0 ∧ (injx 1000).adc.inj.isSome = true ∧
      (∀ k < 8, nbit 0xE00004 (3 * k + 2) = true → (injx 1000).boundaryNear k 1000 = false ∧ (injx 1000).spansOf k = [])) ∧
    (injOver.adc.inj = some 0xE00004 ∧ injOver.Settled ∧ (∀ k < 8, nbit 0xE00004 (3 * k + 2) = true → injOver.boundaryNear k 1000 = false ∧
        ∀ y ∈ injOver.spansOf k, y.busy injOver.clk.now = true → y.kind ≠ 2 ∧ y.kind ≠ 3) ∧
      (((List.range 8).filter fun k => nbit 0xE00004 (3 * k + 2)).flatMap injOver.spansOf).find?
        (fun y => y.kind = 1 && y.busy injOver.clk.now) = some ⟨1, 31, 800, 9, 2, 5, 0, 0⟩) := by
  unfold State.Settled; and_intros <;> first | ((with_reducible refine stays_still _ ?_ ?_) <;> rfl) | decide +kernel

/-- Core 7 converts since a tick, for an entry's pass and repetition. -/
def converting (kind start rep : Nat) (word : Word) : State := (inMode 2).modAdc fun x =>
  { x with spans := [(7, [⟨kind, 31, start, 9, rep, 5, word, 0⟩])], avg := [(15, ⟨5, 40, false, false⟩)] }
def convx (kind start rep : Nat) (word : Word) : State := (converting kind start rep word).openGate 4
/-- The word of an entry that averages 2 samples. -/
def avgWord : Word := word (2 ^ 17 + 2 ^ 9)
/-- Core 7's calibration. -/
def calOf (k : Cal) : State := ((inMode 2).setReg .adcCalRef 7 120000).modAcal 7 fun _ => k
def calx (k : Cal) : State := (calOf k).openGate 4
theorem wit_PrecisionCores :
    (Stays (converting 3 400 0 0) ∧ (converting 3 400 0 0).released = true ∧
      ((convx 3 400 0 0).spansOf 7).find? (fun y => y.kind != 4) = some ⟨3, 31, 400, 9, 0, 5, 0, 0⟩ ∧
      (⟨3, 31, 400, 9, 0, 5, 0, 0⟩ : Span).sample + Config.precisionToBank ≤ (convx 3 400 0 0).clk.now ∧
      Stays (converting 3 401 0 0) ∧ (convx 3 401 0 0).clk.now < (⟨3, 31, 401, 9, 0, 5, 0, 0⟩ : Span).sample + Config.precisionToBank ∧
      ((convx 3 401 0 0).spansOf 7).find? (fun y => y.kind != 4) = some ⟨3, 31, 401, 9, 0, 5, 0, 0⟩ ∧ (convx 3 401 0 0).Settled ∧
      (⟨3, 31, 400, 9, 0, 5, 0, 0⟩ : Span).sample + Config.precisionLinkError ≤ (convx 3 400 0 0).clk.now ∧ (convx 3 400 0 0).severity 290 ≠ 0) ∧
    (Stays (converting 1 400 0 avgWord) ∧ ((convx 1 400 0 avgWord).spansOf 7).find? (fun y => y.kind != 4) = some ⟨1, 31, 400, 9, 0, 5, avgWord, 0⟩ ∧
      bit avgWord 17 = true ∧ fld avgWord 16 9 ≠ 0 ∧ ((convx 1 400 0 avgWord).aavg (avgKey 7 5)).run = 5 ∧ 0 ≠ fld avgWord 16 9 ∧
      (convx 1 400 0 avgWord).Settled ∧ 1 = fld avgWord 16 9 ∧ ((convx 1 400 1 avgWord).aavg (avgKey 7 5)).lost = false ∧
      ((convx 1 400 1 avgWord).spansOf 7).find? (fun y => y.kind != 4) = some ⟨1, 31, 400, 9, 1, 5, avgWord, 0⟩ ∧ bit 0 17 = false) ∧
    (Stays (inMode 2) ∧ (inMode 2).released = true ∧ ((inMode 2).openGate 4).up = true ∧ ((inMode 2).openGate 4).mode.mode ≠ 0 ∧ fld 0x50080 7 0 = 2 ^ 7 ∧
      (((inMode 2).openGate 4).acal 7).active = false ∧ (((inMode 2).openGate 4).acal 7).requested = false ∧ ((inMode 2).openGate 4).Settled) ∧
    (Stays (firedOf (inMode 2) (bellE 900 9 7 7 4)) ∧ ((firedOf (inMode 2) (bellE 900 9 7 7 4)).openGate 4).bell.fired.find?
        (fun f => f.e.action = 0x07 && f.arrive ≤ 1000 && f.e.unit = 0x09) = some ⟨bellE 900 9 7 7 4, 900, 950⟩ ∧
      ((firedOf (inMode 2) (bellE 900 9 7 7 4)).openGate 4).Settled) ∧
    (Stays (calOf { Cal.reset with requested := true }) ∧ ((calx { Cal.reset with requested := true }).acal 7).requested = true ∧
      (calx { Cal.reset with requested := true }).injNames 7 = false ∧ (calx { Cal.reset with requested := true }).clk.now % 2 = 0 ∧
      (calx { Cal.reset with requested := true }).spansOf 7 = [] ∧ (calx { Cal.reset with requested := true }).Settled) ∧
    (Stays (calOf { Cal.reset with active := true, count := 511 }) ∧ ((calx { Cal.reset with active := true, count := 511 }).acal 7).active = true ∧
      ((calx { Cal.reset with active := true, count := 511 }).acal 7).count < 512 ∧ (calx { Cal.reset with active := true, count := 511 }).Settled ∧
      (calx { Cal.reset with active := true, count := 511 }).boundaryNear 7 1000 = false) ∧
    (Stays (calOf { Cal.reset with active := true, count := 512, r := 30720000 }) ∧
      ((calx { Cal.reset with active := true, count := 512, r := 30720000 }).acal 7).count = 512 ∧
      ((calx { Cal.reset with active := true, count := 512, r := 30720000 }).acal 7).band < 4 ∧ (calx { Cal.reset with active := true, count := 512, r := 30720000 }).Settled ∧
      calValues 0 30720000 6 ((calx { Cal.reset with active := true, count := 512, r := 30720000 }).rf .adcCalRef 7 17 0) = some (0, 131072) ∧
      calValues 0 0 6 ((calx { Cal.reset with active := true, count := 512 }).rf .adcCalRef 7 17 0) = none ∧ (inMode 2).severity 288 ≠ 0) ∧
    (tget (fun _ => none) ((inMode 2).modAdc fun x => { x with stO4 := [(31, some 5)] }).adc.stO4 (4 * 7 + 3) = some 5 ∧
      tget (fun _ => none) (inMode 2).adc.stO4 (4 * 7 + 3) = (none : Option Nat) ∧ ((calx { Cal.reset with active := true, band := 3 }).acal 7).band = 3) := by
  unfold State.Settled; and_intros <;> first | ((with_reducible refine stays_still _ ?_ ?_) <;> rfl) | decide +kernel

/-- Fast core 5 runs. -/
def fastOf (k : Cal) : State := (((inMode 2).setReg .fadCtrl 0 0x3F).setReg .fadCalRef 5 1843).modFcal 5 fun _ => k
def fastx (k : Cal) : State := (fastOf k).openGate 4
/-- Its calibration has gathered its samples. -/
def fastDone (r : Int) : Cal := { Cal.reset with active := true, count := 2048, r := r }
theorem wit_FastConverters :
    (Stays (fastOf Cal.reset) ∧ (fastOf Cal.reset).released = true ∧ (fastx Cal.reset).hasCap = true ∧ (fastx Cal.reset).fastOn 5 = true ∧
      (fastx Cal.reset).aligned 725 % 25 = 0 ∧ 725 + Config.fastSample ≤ (fastx Cal.reset).clk.now ∧ (fastx Cal.reset).aligned 750 % 25 = 0 ∧
      (fastx Cal.reset).clk.now < 900 + Config.fastSample ∧ (fastx Cal.reset).aligned 900 % 25 = 0 ∧ 725 + Config.fastLinkError ≤ (fastx Cal.reset).clk.now ∧
      (fastx Cal.reset).Settled ∧ (fastx Cal.reset).fadCalAt 5 725 = false ∧ ((fastx Cal.reset).health1 (96 + 5)).state ≠ 3 ∧
      Stays (fastOf { Cal.reset with active := true, since := 725 }) ∧ (fastx { Cal.reset with active := true, since := 725 }).fadCalAt 5 725 = true ∧
      (fastx { Cal.reset with active := true, since := 725 }).fastOn 5 = true) ∧
    ((fastx Cal.reset).up = true ∧ (fastx Cal.reset).mode.mode ≠ 0 ∧ ((fastx Cal.reset).fcal 5).active = false ∧ fld 0x50020 5 0 = 2 ^ 5) ∧
    (Stays (firedOf (fastOf Cal.reset) (bellE 900 10 7 5 4)) ∧ ((firedOf (fastOf Cal.reset) (bellE 900 10 7 5 4)).openGate 4).bell.fired.find?
        (fun f => f.e.action = 0x07 && f.arrive ≤ 1000 && f.e.unit = 0x0A) = some ⟨bellE 900 10 7 5 4, 900, 950⟩) ∧
    (Stays (fastOf (fastDone 1887232)) ∧ (fastx (fastDone 1887232)).Settled ∧ ((fastx (fastDone 1887232)).fcal 5).active = true ∧
      ((fastx (fastDone 1887232)).fcal 5).count = 2048 ∧ ((fastx (fastDone 1887232)).fcal 5).band < 4 ∧
      calValues 0 1887232 8 (sx 12 ((fastx (fastDone 1887232)).rf .fadCalRef 5 11 0)) = some (0, 131072) ∧
      calValues 0 0 8 (sx 12 ((fastx (fastDone 0)).rf .fadCalRef 5 11 0)) = none ∧ sourceOk (inMode 2).var 320 = true ∧ (inMode 2).severity 320 ≠ 0) ∧
    ((fastx { Cal.reset with active := true, band := 3 }).Settled ∧ ((fastx { Cal.reset with active := true, band := 3 }).fcal 5).band = 3) := by
  unfold State.Settled; and_intros <;> first | ((with_reducible refine stays_still _ ?_ ?_) <;> rfl) | decide +kernel

/-! ### The pair link -/

/-- Linked with its peer: state, role. -/
def linked (n st : Nat) (active : Bool) : State := (at_ n).modPair fun p => { p with st := st, active := active, peerSeen := true, peerSt := 3, lane0 := true, lane1 := true, rxStamp := 32 * 900 }
/-- A frame of the link from a peer in a state, without messages. -/
def linkHead (st : Nat) : Bytes := le 1 1 ++ le 1 1 ++ le 1 st ++ le 1 0 ++ le 2 77 ++ le 8 12 ++ zeros 16
def linkBody (st : Nat) : Bytes := linkHead st ++ zeros 1214
/-- With a check value that is right, or wrong in its lowest bit. -/
def linkFrame (st bad : Nat) : Bytes := le 2 0xBCBC ++ (linkBody st ++ le 4 (crc32 (linkBody st) ^^^ bad))

theorem crcStep_lt (n c : Nat) (h : c < 2 ^ 32) : crcStep 0xEDB88320 n c < 2 ^ 32 := by
  induction n generalizing c with
  | zero => exact h
  | succ n ih =>
    refine ih _ ?_
    split
    · exact Nat.xor_lt_two_pow (by omega) (by decide)
    · omega
theorem crc32_lt (b : Bytes) : crc32 b < 2 ^ 32 := by
  have h : ∀ (l : Bytes) (c : Nat), c < 2 ^ 32 → l.foldl (fun c x => crcStep 0xEDB88320 8 (c ^^^ x.toNat)) c < 2 ^ 32 := fun l => by
    induction l with
    | nil => exact fun c h => h
    | cons x r ih => exact fun c h => ih _ (crcStep_lt _ _ (Nat.xor_lt_two_pow h (by omega)))
  exact Nat.xor_lt_two_pow (h b _ (by decide)) (by decide)
theorem leVal_le (c : Nat) (h : c < 2 ^ 32) : leVal (le 4 c) = c := by
  simp [le, leVal, List.range_succ, Nat.shiftRight_eq_div_pow]; omega
theorem linkBody_length (st : Nat) : (linkBody st).length = 1244 := by
  rw [linkBody, List.length_append, zeros_length]; simp [linkHead, le, zeros]
theorem linkFrame_head (st bad o n : Nat) (h : 2 ≤ o) (k : o + n ≤ 32) : slice (linkFrame st bad) o n = slice (linkHead st) (o - 2) n := by
  have a : (le 2 0xBCBC).length = 2 := by decide
  have b : (linkHead st).length = 30 := by simp [linkHead, le, zeros]
  rw [linkFrame, slice_right _ _ _ _ (by omega), slice_left _ _ _ _ (by rw [linkBody_length]; omega), linkBody, slice_left _ _ _ _ (by omega), a]
theorem linkFrame_crc (st bad : Nat) (h : bad < 2) : lef (linkFrame st bad) 0x4DE 4 = crc32 (linkBody st) ^^^ bad ∧
    slice (linkFrame st bad) 2 0x4DC = linkBody st ∧ (linkFrame st bad).length = 1250 := by
  have a : (le 2 0xBCBC).length = 2 := by decide
  have b := linkBody_length st
  refine ⟨?_, ?_, ?_⟩
  · rw [lef, linkFrame, slice_right _ _ _ _ (by omega), slice_right _ _ _ _ (by omega), a, b]
    exact leVal_le _ (Nat.xor_lt_two_pow (crc32_lt _) (by omega))
  · rw [linkFrame, slice_right _ _ _ _ (by omega), slice_left _ _ _ _ (by omega), a]
    exact List.take_of_length_le (Nat.le_of_eq b)
  · rw [linkFrame, List.length_append, List.length_append, a, b]; simp [le]
/-- Which frames are good, from what stands in them. -/
theorem pairGood_empty (b : Bytes) (f : lef b 2 1 = 1) (m : lef b 0 2 = 0xBCBC) (l : b.length = 1250) (h3 : lef b 3 1 = 1) (h4 : lef b 4 1 = 5)
    (h5 : lef b 5 1 = 0) (h6 : lef b 6 2 = 77) (hd : lef b 0xD 3 = 0) (q : lef b 0x18 2 = 0) (z : allZero (slice b 0x1A 6) = true)
    (k : pairCrcOk b = true) : pairGood b true = some [] := by
  have r : slice b 0x20 0 = [] := List.take_zero
  simp only [pairGood, f, m, l, h3, h4, h5, h6, hd, q, z, k, r]
  decide
theorem pairGood_bad (b : Bytes) (c : Bool) (h : c = false ∨ pairCrcOk b = false) : pairGood b c = none := by
  obtain rfl | h := h
  · simp [pairGood]
  · simp [pairGood, h]
theorem pairCrcOk_of (b : Bytes) (x : Nat) (f : lef b 2 1 = 1) (h : lef b 0x4DE 4 = crc32 (slice b 2 0x4DC) ^^^ x) : pairCrcOk b = decide (x = 0) := by
  simp only [pairCrcOk, f, h, if_true]
  generalize crc32 (slice b 2 0x4DC) = c
  refine decide_eq_decide.2 ⟨fun e => ?_, fun e => by rw [e, Nat.xor_zero]⟩
  have e := congrArg (fun x => c ^^^ x) e
  simpa [← Nat.xor_assoc] using e
theorem linkFrame_at (bad : Nat) (o n : Nat) (p : 2 ≤ o) (q : o + n ≤ 32) : lef (linkFrame 5 bad) o n = lef (linkHead 5) (o - 2) n := by
  rw [lef, lef, linkFrame_head _ _ _ _ p q]
theorem linkFrame_two (bad : Nat) : lef (linkFrame 5 bad) 2 1 = 1 := (linkFrame_at bad 2 1 (by omega) (by omega)).trans (by decide)
theorem linkFrame_first (bad : Nat) : lef (linkFrame 5 bad) 0 2 = 0xBCBC := by
  rw [lef, linkFrame, slice_left _ _ _ _ (by decide)]; decide
theorem linkFrame_ok (bad : Nat) (h : bad < 2) : pairCrcOk (linkFrame 5 bad) = decide (bad = 0) :=
  pairCrcOk_of _ _ (linkFrame_two bad) ((linkFrame_crc 5 bad h).1.trans (by rw [(linkFrame_crc 5 bad h).2.1]))
theorem linkFrame_zeros : allZero (slice (linkFrame 5 0) 0x1A 6) = true := by rw [linkFrame_head _ _ _ _ (by omega) (by omega)]; decide
theorem linkFrame_good : pairGood (linkFrame 5 0) true = some [] ∧ pairGood (linkFrame 5 0) false = none ∧ pairGood (linkFrame 5 1) true = none ∧
    pairCrcOk (linkFrame 5 1) = false ∧ (linkFrame 5 1).length = 1250 ∧ lef (linkFrame 5 0) 2 1 = 1 ∧ lef (linkFrame 5 0) 4 1 = 5 :=
  have k1 := linkFrame_ok 1 (by omega)
  have at4 := (linkFrame_at 0 4 1 (by omega) (by omega)).trans (by decide)
  ⟨pairGood_empty _ (linkFrame_two 0) (linkFrame_first 0) (linkFrame_crc 5 0 (by omega)).2.2 ((linkFrame_at 0 3 1 (by omega) (by omega)).trans (by decide))
    at4 ((linkFrame_at 0 5 1 (by omega) (by omega)).trans (by decide)) ((linkFrame_at 0 6 2 (by omega) (by omega)).trans (by decide))
    ((linkFrame_at 0 0xD 3 (by omega) (by omega)).trans (by decide)) ((linkFrame_at 0 0x18 2 (by omega) (by omega)).trans (by decide))
    linkFrame_zeros (linkFrame_ok 0 (by omega)), pairGood_bad _ _ (.inl rfl), pairGood_bad _ _ (.inr k1), k1,
    (linkFrame_crc 5 1 (by omega)).2.2, linkFrame_two 0, at4⟩
/-- The state as a request to the links' clock domain finds it. -/
def linkx (n st : Nat) (active : Bool) : State := (linked n st active).openGate 2
/-- With one lane retired. -/
def oneLane : State := (linked 12000 3 true).modHealth1 104 fun h => { h with state := 3 }
theorem wit_PairFrames :
    (Stays (linked 12000 3 true) ∧ (linkx 12000 3 true).up = true ∧ (linkx 12000 3 true).hasPeer = true ∧ (linkx 12000 3 true).pair.st ≠ 0 ∧
      12 = (linkx 12000 3 true).clk.now / 1000 ∧ ((linkx 12000 3 true).health1 104).state = 0 ∧ ((linkx 12000 3 true).health1 105).state = 0 ∧
      (linkx 12000 3 true).Settled ∧ (linkx 12000 3 true).clk.now % 1000 = 0 ∧ (linkx 12000 3 true).pair.formed ≤ 12 ∧
      Stays (linked 12001 3 true) ∧ (linkx 12001 3 true).clk.now % 1000 ≠ 0) ∧
    (Stays oneLane ∧ (oneLane.openGate 2).Settled ∧ ((oneLane.openGate 2).health1 104).state ≠ 0 ∧ ((oneLane.openGate 2).health1 105).state = 0 ∧
      (oneLane.openGate 2).clk.now % 1000 = 0) ∧
    (Stays (linked 1000000 1 true) ∧ (linkx 1000000 1 true).pair.st = 1 ∧ 1000 = (linkx 1000000 1 true).clk.now / 1000 ∧ 1000 % 1000 = 0) ∧
    (352032 + 32000 ≤ 32 * ((linkx 12000 3 true).clk.now + 1) ∧ (linkx 12000 3 true).pair.peerSeen = true ∧ (linkx 12000 3 true).pair.st = 3 ∧
      (linkx 12000 3 true).pair.active = true ∧ (linkx 12000 3 true).pair.cnt ≠ 255) ∧
    pairGood (linkFrame 5 0) true = some [] ∧ pairGood (linkFrame 5 0) false = none ∧ pairGood (linkFrame 5 1) true = none ∧
    pairCrcOk (linkFrame 5 1) = false ∧ (linkFrame 5 1).length = 1250 ∧ lef (linkFrame 5 0) 2 1 = 1 ∧ lef (linkFrame 5 0) 4 1 = 5 := by
  unfold State.Settled
  refine ⟨?_, ?_, ?_, ?_, linkFrame_good⟩ <;> and_intros <;> first | ((with_reducible refine stays_still _ ?_ ?_) <;> rfl) | decide +kernel

/-- The peer's last good frame came 4,000 ticks before `n`. -/
def silent (n st : Nat) (active : Bool) : State := (linked n st active).modPair fun p => { p with rxStamp := 32 * (n - 4000), seize := some 9, lossAt := n - 16000 }
def silx (n st : Nat) (active : Bool) : State := (silent n st active).openGate 2
/-- Both lanes are retired. -/
def noLanes : State := (((linked 900 3 true).modHealth1 104 fun h => { h with state := 3 }).modHealth1 105 fun h => { h with state := 3 })
/-- PAIR_HANDOVER waits. -/
def handing (st : Nat) (active : Bool) : State := turnOf (linked 12000 st active) 0 (desc 0x38 0 0 0)
def handx (st : Nat) (active : Bool) : State := (handing st active).openGate 2
/-- An offer stands. -/
def offering (n : Nat) (out acc : Bool) (act : Option Nat) : State := (linked n 3 true).modPair fun p =>
  { p with offer := some ⟨9, 1, acc, out, act, 12000⟩, failAt := some 12000 }
def offx (n : Nat) (out acc : Bool) (act : Option Nat) : State := (offering n out acc act).openGate 2
theorem wit_PairRoles :
    (Stays (silent 20000 3 true) ∧ (silx 20000 3 true).up = true ∧ (silx 20000 3 true).hasPeer = true ∧ (silx 20000 3 true).pair.peerSeen = true ∧
      (silx 20000 3 true).pair.st ≠ 0 ∧ (silx 20000 3 true).pair.rxStamp + 128000 ≤ 32 * (silx 20000 3 true).clk.now ∧ (silx 20000 3 true).pair.st < 6 ∧
      (silx 20000 3 true).pair.active = true) ∧
    (Stays noLanes ∧ ((noLanes.openGate 2).health1 104).state ≠ 0 ∧ ((noLanes.openGate 2).health1 105).state ≠ 0 ∧ (noLanes.openGate 2).pair.st = 3 ∧
      32 * (noLanes.openGate 2).clk.now < (noLanes.openGate 2).pair.rxStamp + 128000) ∧
    (Stays (silent 20000 4 false) ∧ (silx 20000 4 false).pair.active = false ∧ (silx 20000 4 false).pair.st = 4) ∧
    ((silx 20000 5 false).pair.st = 5 ∧ (silx 20000 5 false).pair.active = false ∧ (silx 20000 7 true).pair.st = 7) ∧
    (Stays (linked 4899 3 true) ∧ 32 * (linkx 4899 3 true).clk.now < (linkx 4899 3 true).pair.rxStamp + 128000 ∧
      ((linkx 4899 3 true).health1 104).state = 0 ∧ (linkx 4899 3 true).Settled ∧ (linkx 4899 3 true).pair.peerSeen = true) ∧
    ((∀ f ∈ (silx 20000 3 true).pair.forwarded, f.2.1 ≠ 11 ∨ f.2.2 = 0) ∧ (silx 20000 3 true).pair.offer = none ∧
      (offx 12000 true false (some 4)).pair.offer = some ⟨9, 1, false, true, some 4, 12000⟩) ∧
    (Stays (silent 20000 3 false) ∧ (silent 20000 3 false).released = true ∧ (silx 20000 3 false).pair.seize = some 9 ∧ (silx 20000 3 false).pair.st = 3 ∧
      (silx 20000 3 false).pair.active = false ∧ (silx 20000 3 false).Settled ∧ (silx 20000 3 false).pair.lossAt + 16000 ≤ (silx 20000 3 false).clk.now ∧
      20000 < ((silx 20000 3 false).modPair fun p => { p with lossAt := 4001 }).pair.lossAt + 16000) ∧
    (Stays (handing 3 false) ∧ (handx 3 false).Settled ∧ (handing 3 false).released = true ∧ (handx 3 false).up = true ∧ (handx 3 false).pair.offer = none ∧
      (handx 3 false).turn 0 0x38 = some (3, 0, desc 0x38 0 0 0) ∧ (handx 3 false).standby = true ∧
      Stays (handing 3 true) ∧ (handx 3 true).Settled ∧ (handx 3 true).turn 0 0x38 = some (3, 0, desc 0x38 0 0 0) ∧ (handx 3 true).standby = false ∧
      (handx 3 true).leads = true ∧ Stays (handing 5 true) ∧ (handx 5 true).Settled ∧ (handx 5 true).leads = false ∧ (handx 5 true).standby = false ∧
      (handx 5 true).pair.st ≠ 6 ∧ Stays (handing 6 false) ∧ (handx 6 false).Settled ∧ (handx 6 false).standby = false ∧ (handx 6 false).pair.st = 6) ∧
    (Stays (offering 12000 true false none) ∧ (offx 12000 true false none).pair.offer = some ⟨9, 1, false, true, none, 12000⟩ ∧
      (offx 12000 true false none).Settled ∧ 12000 ≤ (offx 12000 true false none).nowA ∧ Stays (offering 11999 true false none) ∧
      (offx 11999 true false none).Settled ∧ (offx 11999 true false none).nowA < 12000) ∧
    (Stays (offering 12000 true true (some 4)) ∧ (offx 12000 true true (some 4)).pair.offer = some ⟨9, 1, true, true, some 4, 12000⟩ ∧
      (offx 12000 true true (some 4)).Settled ∧ 1000 * (9 + 3) ≤ (offx 12000 true true (some 4)).nowA ∧
      (offx 12000 true true none).pair.offer = some ⟨9, 1, true, true, none, 12000⟩ ∧ (offx 12000 true false none).pair.failAt = some 12000) := by
  unfold State.Settled; and_intros <;> first | ((with_reducible refine stays_still _ ?_ ?_) <;> rfl) | decide +kernel

/-- A mismatch under verification, of the period at 5,000; the time that PAIR_CFG gives it. -/
def verifying (own peer : Option Bool) (active : Bool) (ms : Nat) : State := ((linked 12000 4 active).setReg .pairCfg 0 (word ms)).modPair fun p =>
  { p with verif := some ⟨0, 5000, 11000, own, peer⟩, own := [⟨0, 5000, [], 4000⟩] }
def verx (own peer : Option Bool) (active : Bool) (ms : Nat) : State := (verifying own peer active ms).openGate 2
theorem wit_PairVerdicts :
    (Stays (verifying none none true 1) ∧ (verx none none true 1).Settled ∧ (verifying none none true 1).released = true ∧
      ((verx none none true 1).pair.own.any fun h => decide (h.g = 0) && decide (h.b = 5000 % 2 ^ 32) &&
        decide (h.at_ + 8000 ≤ (verx none none true 1).clk.now)) = true ∧
      ((verx none none true 1).pair.own.any fun h => decide (h.g = 1) && decide (h.b = 5000 % 2 ^ 32) && decide (h.at_ + 8000 ≤ (verx none none true 1).clk.now)) = false) ∧
    ((verx none none true 1).pair.verif = some ⟨0, 5000, 11000, none, none⟩ ∧ Stays (verifying none (some true) true 1) ∧
      (verx none (some true) true 1).pair.verif = some ⟨0, 5000, 11000, none, some true⟩ ∧ Stays (verifying (some true) none true 1) ∧
      (verx (some true) none true 1).Settled ∧ (verx (some true) none true 1).pair.verif = some ⟨0, 5000, 11000, some true, none⟩) ∧
    (11000 + 1000 * max 1 ((verx none none true 1).rf .pairCfg 0 15 0) ≤ (verx none none true 1).clk.now ∧
      (verx none none true 2).clk.now < 11000 + 1000 * max 1 ((verx none none true 2).rf .pairCfg 0 15 0) ∧ (verx none none true 2).Settled) ∧
    ((∀ o p, (verifying (some o) (some p) true 1).pair.active = true ∧ (verifying (some o) (some p) false 1).pair.active = false ∧
      (verifying (some o) (some p) true 1).pair.verif = some ⟨0, 5000, 11000, some o, some p⟩ ∧
      (verifying (some o) (some p) false 1).pair.verif = some ⟨0, 5000, 11000, some o, some p⟩)) := by
  unfold State.Settled; and_intros <;> first | ((with_reducible refine stays_still _ ?_ ?_) <;> rfl) | decide +kernel

/-! ### Capture, phasors -/

/-- Unit 7 with a region of one block and fast stream 0, in a state; the memory was found. -/
def capOf (n st : Nat) : State := ((((at_ n).setReg .capUnitRegion 7 (word (2 ^ 16))).setReg .capUnitStream 7 0x100 0).modCap fun c => { c with memMiB := 1024 }).modUnit 7 fun u =>
  { u with st := st, armAt := 990 }
/-- A ring 4 descriptor for unit 7 waits. -/
def capTurn (st op arg2 : Nat) : State := turnOf (capOf 1000 st) 4 (desc op 7 64 arg2)
/-- As a request to the capture clock domain finds it; in mode 2. -/
def capIn (s : State) : State := (s.modMode fun m => { m with mode := 2 }).openGate 3
def capx (st op arg2 : Nat) : State := capIn (capTurn st op arg2)
/-- Triggered in this core cycle, at an instant and with a rank. -/
def trigd (trig : Int) (rank : Nat) : State := capIn ((capTurn 2 2 0).modUnit 7 fun u => { u with trig := trig, trigCyc := 1000, rank := rank })
/-- No memory was found; the region is empty. -/
def noMem : State := capIn ((capTurn 0 1 0).modCap fun c => { c with memMiB := 0 })
def noRegion : State := capIn ((capTurn 0 1 0).setReg .capUnitRegion 7 0)
/-- COPY_OUT of a unit, its ring stopping. -/
def stopping : State := capIn ((capTurn 3 4 64).modRing 3 fun r => { r with state := 2 })
theorem wit_CaptureCommands :
    (Stays ((capTurn 1 1 0).modMode fun m => { m with mode := 2 }) ∧ (capTurn 1 1 0).released = true ∧ (capx 1 1 0).Settled ∧ (desc 1 7 64 0).arg % 8 = 7 ∧
      (capx 1 1 0).turn 4 1 = some (3, 0, desc 1 7 64 0) ∧ ((capx 1 1 0).unit 7).st ≠ 0 ∧ ((capTurn 0 1 0).openGate 3).mode.mode = 0) ∧
    (((capx 0 1 0).unit 7).st = 0 ∧ (capx 0 1 0).mode.mode ≠ 0 ∧ (capx 0 1 0).Settled ∧ (capx 0 1 0).turn 4 1 = some (3, 0, desc 1 7 64 0) ∧
      (capx 0 1 0).cap.memMiB ≠ 0 ∧ (capx 0 1 0).armBad 7 = false ∧ (noMem.unit 7).st = 0 ∧ noMem.Settled ∧ noMem.cap.memMiB = 0 ∧
      noRegion.Settled ∧ (noRegion.unit 7).st = 0 ∧ noRegion.cap.memMiB ≠ 0 ∧ noRegion.armBad 7 = true) ∧
    ((capx 1 2 0).turn 4 2 = some (3, 0, desc 2 7 64 0) ∧ (capx 1 2 0).Settled ∧ ((capx 1 2 0).unit 7).st = 1 ∧
      coreCycle ((capx 1 2 0).unit 7).armAt ≠ coreCycle (capx 1 2 0).clk.now ∧ ((capx 3 2 0).unit 7).st = 3 ∧ (capx 3 2 0).Settled) ∧
    ((trigd 1001 0).turn 4 2 = some (3, 0, desc 2 7 64 0) ∧ (trigd 1001 0).Settled ∧ ((trigd 1001 0).unit 7).st = 2 ∧
      ((trigd 1001 0).unit 7).trigCyc = coreCycle (trigd 1001 0).clk.now ∧ ((1000 : Nat) : Int) < ((trigd 1001 0).unit 7).trig ∧
      ((1000 : Nat) : Int) = ((trigd 1000 1).unit 7).trig ∧ 0 < ((trigd 1000 1).unit 7).rank ∧ ((trigd 999 0).unit 7).trig < ((1000 : Nat) : Int) ∧
      ((trigd 1000 0).unit 7).rank = 0) ∧
    ((capx 2 3 0).turn 4 3 = some (3, 0, desc 3 7 64 0) ∧ (capx 2 3 0).Settled ∧ ((capx 2 3 0).unit 7).st = 2 ∧ ((capx 1 3 0).unit 7).st = 1 ∧
      ((capx 0 3 0).unit 7).st = 0) ∧
    ((capx 3 4 64).turn 4 4 = some (3, 0, desc 4 7 64 64) ∧ (capx 3 4 64).Settled ∧ (capx 3 4 64).canDma = true ∧ ((capx 3 4 64).unit 7).st = 3 ∧
      (desc 4 7 64 64).arg2 % 64 = 0 ∧ (desc 4 7 64 63).arg2 % 64 ≠ 0 ∧ (capx 3 4 63).turn 4 4 = some (3, 0, desc 4 7 64 63) ∧ (capx 3 4 63).Settled ∧
      ((capx 3 4 64).ring 3).state = 1 ∧ stopping.turn 4 4 = some (3, 0, desc 4 7 64 64) ∧ stopping.Settled ∧ (stopping.ring 3).state ≠ 1 ∧ stopping.canDma = true) ∧
    ((capx 3 5 0).turn 4 5 = some (3, 0, desc 5 7 64 0) ∧ (capx 3 5 0).Settled ∧ ((capx 3 5 0).unit 7).st = 3 ∧ ((capx 2 5 0).unit 7).st ≠ 3) := by
  unfold State.Settled; and_intros <;> first | ((with_reducible refine stays_still _ ?_ ?_) <;> rfl) | decide +kernel

/-- A record of unit 7 has come to its end on its one stream, or not. -/
def recordTo (mark : Int) : State := (capOf 1000 2).modCap fun c => { c with marks := [(0, mark)] }
/-- Engine 3 with a timer in state 0. -/
def engine (tmr : Nat) : State := (b0.setReg .capSeqTmr 3 (word tmr) 0).modSeqe 3 fun e => { e with entered := 500 }
/-- A fired capture action for unit 7, in mode 2. -/
def capFired (st action : Nat) : State := capIn (firedOf (capOf 1000 st) (bellE 900 12 action 7 0))
theorem wit_CaptureRecords :
    (Stays ((firedOf (capOf 1000 0) (bellE 900 12 4 7 0)).modMode fun m => { m with mode := 2 }) ∧ (firedOf (capOf 1000 0) (bellE 900 12 4 7 0)).released = true ∧
      (capFired 0 4).Settled ∧ (capFired 0 4).up = true ∧
      (capFired 0 4).bell.fired.find? (fun f => f.e.action = 0x04 && f.arrive ≤ 1000) = some ⟨bellE 900 12 4 7 0, 900, 950⟩ ∧
      (capFired 0 4).armBad 7 = false ∧ (capFired 0 4).mode.mode ≠ 0 ∧ (capFired 0 4).cap.memMiB ≠ 0 ∧ ((capFired 0 4).unit 7).st = 0 ∧
      ((capFired 3 4).unit 7).st ≠ 0) ∧
    ((capFired 1 5).bell.fired.find? (fun f => f.e.action = 0x05 && f.arrive ≤ 1000) = some ⟨bellE 900 12 5 7 0, 900, 950⟩ ∧ (capFired 1 5).Settled ∧
      ((capFired 1 5).unit 7).st = 1 ∧ coreCycle ((capFired 1 5).unit 7).armAt ≠ coreCycle (capFired 1 5).clk.now ∧ ((capFired 3 5).unit 7).st = 3) ∧
    (Stays (recordTo 500) ∧ ((recordTo 500).openGate 3).capDue 7 = true ∧ ((recordTo 500).openGate 3).Settled ∧ Stays (recordTo (-1)) ∧
      ((recordTo (-1)).openGate 3).capDue 7 = false ∧ ((recordTo (-1)).openGate 3).Settled) ∧
    (Stays b0 ∧ (b0.openGate 3).hasCap = true ∧ (b0.openGate 3).Settled ∧ bit 0x80000000 31 = true ∧ (b0.openGate 3).rb .capSeqCtrl 3 31 = false ∧
      Stays (b0.setRb .capSeqCtrl 3 31 true) ∧ ((b0.setRb .capSeqCtrl 3 31 true).openGate 3).rb .capSeqCtrl 3 31 = true ∧ (b0.openGate 3).up = true) ∧
    ((((capOf 1000 2).modUnit 7 fun u => { u with fixed := true }).unit 7).fixed = true ∧ (((capOf 1000 2).modUnit 7 fun u => { u with fixed := true }).unit 7).opens = []) ∧
    (((engine 500).seqe 3).waits = [] ∧ ((engine 500).reg .capSeqTmr 3 ((engine 500).seqe 3).state).toNat ≠ 0 ∧
      ((engine 500).seqe 3).entered + ((engine 500).reg .capSeqTmr 3 ((engine 500).seqe 3).state).toNat ≤ 1000) := by
  unfold State.Settled; and_intros <;> first | ((with_reducible refine stays_still _ ?_ ?_) <;> rfl) | decide +kernel

/-- Task 0's group with channel 0 on input 31 and one tap; the estimator runs or not. -/
def phasor (taps : Nat) (on : Bool) : State := (((spanAt 199850).setReg .pmuCh 0 (word (2 ^ 31 + 31))).setReg .pmuLen 0 (word (taps * 65537))).setReg .pmuCtrl 0 10
  |>.modPmu fun p => { p with running := on, live := on }
def phasx (taps : Nat) (on : Bool) : State := (phasor taps on).openGate 3
theorem wit_PhasorEstimator :
    (Stays (phasor 1 true) ∧ (phasor 1 true).released = true ∧ (phasx 1 true).Settled ∧ (phasx 1 true).up = true ∧ (phasx 1 true).hasCap = true ∧
      bit 0x9000000A 31 = true ∧ bit 0x9000000A 28 = true ∧ (phasx 1 true).pmu.running = true ∧ Stays (phasor 1 false) ∧ (phasx 1 false).Settled ∧
      (phasx 1 false).pmu.running = false ∧ bit 0xA 31 = false) ∧
    (((phasx 1 false).setReg .pmuCtrl 0 (0x9000000A &&& 0xFC0F00FF)).pmuCheck = 0 ∧ ((phasx 2 false).setReg .pmuCtrl 0 (0x9000000A &&& 0xFC0F00FF)).pmuCheck ≠ 0) ∧
    ((phasx 1 true).pmu.live = true ∧ 2 ≤ (phasx 1 true).mode.mode ∧ ((phasx 1 true).grp ((phasx 1 true).taskGroup (phasx 1 true).pmuTask)).running = true ∧
      (phasx 1 true).pmuCentre + ((phasx 1 true).pmuTaps - 1) / 2 * (phasx 1 true).grpPeriod ((phasx 1 true).taskGroup (phasx 1 true).pmuTask) +
        Config.precisionToBank + 2 * (24 + (phasx 1 true).pmuChannels.length * ((phasx 1 true).pmuTaps + 4)) ≤ (phasx 1 true).clk.now) := by
  unfold State.Settled; and_intros <;> first | ((with_reducible refine stays_still _ ?_ ?_) <;> rfl) | decide +kernel

/-! ### Safety functions, the Watch, the book, temperature -/

/-- A consumer of cell 47's status, with PDUs in a row. -/
def consumer (r newAt : Nat) : State := ((at_ 1000000).setReg .safCellWd 0 10).modCons 55 fun c => { c with last := some 4, r := r, newAt := newAt }
/-- Output 3 closed in Run, tested 3 ms after each multiple of a second with pulses of 100 µs. -/
def tested (n : Nat) : State := ((at_ n).modMode fun m => { m with mode := 5 }).setReg .safTest 0 (word (1000 * 65536 + 10)) |>.modSaf fun f => { f with outOn := 8, closed := 8 }
/-- A valid block with check value 77, in a mode. -/
def validIn (m : Nat) : State := (inMode m).modSaf fun f => { f with valid := true, pchk := 77 }
/-- A PDU waits; without bus mastering. -/
def pduTurn (bme : Bool) : State := (turnOf b0 10 (desc 1 5 64 0)).modHostIf fun h => { h with bme := bme }
theorem wit_SafetyInputsAndCommands :
    (Stays State.reset ∧ State.reset.released = false ∧ State.reset.Settled) ∧
    (Stays b0 ∧ b0.released = true ∧ b0.up = true ∧ b0.saf.fault = false ∧ (b0.modSaf fun f => { f with fault := true }).saf.fault = true ∧
      (b0.modSaf fun f => { f with fault := true }).Settled ∧ b0.clk.now % 100000 ≠ 0 ∧ b0.Settled) ∧
    (Stays (consumer 2 0) ∧ (consumer 2 0).released = true ∧ (consumer 2 0).clk.now % 100000 = 0 ∧ ((consumer 2 0).cons 55).last = some 4 ∧
      ((consumer 2 0).cons 55).newAt + ((consumer 2 0).consCfg 55).2.2.2 * 100000 ≤ (consumer 2 0).clk.now ∧ ((consumer 2 0).cons 55).holds = true ∧
      ((consumer 1 0).cons 55).holds = false ∧ (consumer 1 0).Settled ∧
      (consumer 2 1).clk.now < ((consumer 2 1).cons 55).newAt + ((consumer 2 1).consCfg 55).2.2.2 * 100000 ∧ (consumer 2 1).Settled ∧
      ((consumer 2 0).cons 54).last = none ∧ (consumer 2 0).Settled) ∧
    (Stays (pduTurn true) ∧ (pduTurn true).turn 10 1 = some (3, 0, desc 1 5 64 0) ∧ (pduTurn true).Settled ∧ (pduTurn true).canDma = true ∧
      Stays (pduTurn false) ∧ (pduTurn false).turn 10 1 = some (3, 0, desc 1 5 64 0) ∧ (pduTurn false).Settled ∧ (pduTurn false).canDma = false) ∧
    (Stays (tested 1003090000) ∧ (tested 1003090000).released = true ∧ 2 ≤ (tested 1003090000).mode.mode ∧ nbit (tested 1003090000).saf.outOn 3 = true ∧
      nbit (tested 1003090000).saf.closed 3 = true ∧ (tested 1003090000).testRead 3 false = some 1003000001 ∧ (tested 1003190000).testRead 3 true = some 1003100001 ∧
      (tested 1003089999).testRead 3 false = none ∧ (tested 1003100000).testRead 3 false = none ∧ (tested 1003090000).testRead 3 true = none ∧
      nget (tested 1003090000).saf.testing (2 * 3 + b2n false) ≠ 1003000001 ∧
      nget ((tested 1003090000).modSaf fun f => { f with testing := nput f.testing (2 * 3 + b2n false) 1003000001 }).saf.testing (2 * 3 + b2n false) = 1003000001 ∧
      (tested 1003090000).Settled ∧ (tested 1003089999).Settled ∧ nbit (tested 1003090000).saf.outFault 3 = false) ∧
    (Stays (validIn 2) ∧ (validIn 2).up = true ∧ (validIn 2).mode.mode = 2 ∧ (validIn 2).saf.fault = false ∧ (validIn 2).saf.valid = true ∧
      (validIn 2).saf.pchk = (77 : Word).toNat ∧ (validIn 2).Settled ∧ (validIn 3).mode.mode ≠ 2 ∧ (validIn 2).saf.pchk ≠ (78 : Word).toNat) := by
  unfold State.Settled; and_intros <;> first | ((with_reducible refine stays_still _ ?_ ?_) <;> rfl) | decide +kernel

theorem wit_SafeOutputs : Stays (at_ 100000) ∧ (at_ 100000).released = true ∧ (at_ 100000).clk.now % 100000 = 0 ∧ (at_ 100000).saf.cycles = 0 ∧
    ((at_ 100000).modSaf fun f => { f with cycles := 1, cycleAt := 99999 }).saf.cycleAt < (at_ 100000).clk.now := by
  and_intros <;> first | ((with_reducible refine stays_still _ ?_ ?_) <;> rfl) | decide +kernel

/-- A latched source whose cause is gone. -/
def latchedAt (w b : Nat) : State := b0.setRb .wchLatch w b true
/-- Source 578 was raised in this core cycle, latched before or not. -/
def raisedNow (was : Bool) : State := (latchedAt 18 2).modWch fun w => { w with freshAt := 1000, fresh := [⟨578, 3, was⟩] }
/-- The interrupt bit is set; a raise of this core cycle found it clear or set. -/
def irqNow (rise : Option Nat) : State := (b0.setRb .wchStatus 0 31 true).modWch fun w => { w with irqRaise := some 1000, irqRise := rise }
/-- ERR_N is pulsed until a tick. -/
def pulsed (n : Nat) : State := b0.modWch fun w => { w with pulseEnd := some n }
theorem wit_WatchRegisters :
    (Stays (latchedAt 18 2) ∧ (latchedAt 18 2).Settled ∧ (latchedAt 18 2).up = true ∧ sourceOk (latchedAt 18 2).var (32 * 18 + 2) = true ∧
      (∀ e ∈ (latchedAt 18 2).wch.fresh, e.src ≠ 32 * 18 + 2) ∧ (latchedAt 18 2).causeGone (32 * 18 + 2) = true ∧ sourceOk b0.var 31 = false ∧
      Stays (latchedAt 5 0) ∧ (latchedAt 5 0).Settled ∧ (latchedAt 5 0).causeGone (32 * 5 + 0) = false) ∧
    (Stays (raisedNow false) ∧ (raisedNow false).Settled ∧ (raisedNow false).wch.freshAt = coreCycle (raisedNow false).clk.now ∧
      (raisedNow false).wch.fresh.find? (fun e => e.src = 32 * 18 + 2) = some ⟨578, 3, false⟩ ∧ (raisedNow false).causeHolds (32 * 18 + 2) = false ∧
      Stays (raisedNow true) ∧ (raisedNow true).Settled ∧ (raisedNow true).wch.fresh.find? (fun e => e.src = 32 * 18 + 2) = some ⟨578, 3, true⟩) ∧
    (Stays (inMode 2) ∧ (inMode 2).up = true ∧ (inMode 2).mode.mode = 2 ∧ (inMode 2).Settled ∧ Stays b0 ∧ b0.Settled ∧ b0.mode.mode ≠ 2) ∧
    (bit 0x80000000 31 = true ∧ bit 1 31 = false ∧ b0.wch.irqRaise ≠ some (coreCycle b0.clk.now) ∧ Stays (irqNow (some 1000)) ∧ (irqNow (some 1000)).Settled ∧
      (irqNow (some 1000)).wch.irqRaise = some (coreCycle (irqNow (some 1000)).clk.now) ∧ (irqNow (some 1000)).wch.irqRise = some (coreCycle (irqNow (some 1000)).clk.now) ∧
      Stays (irqNow none) ∧ (irqNow none).Settled ∧ (irqNow none).wch.irqRise ≠ some (coreCycle (irqNow none).clk.now)) ∧
    (b0.rb .wchStatus 0 31 = false ∧ bit 1 0 = true ∧ (irqNow none).rb .wchStatus 0 31 = true ∧ b0.rwlShut = false ∧ (b0.setRb .sysLock 0 0 true).rwlShut = true) ∧
    (Stays (pulsed 1000) ∧ (pulsed 1000).Settled ∧ (pulsed 1000).wch.pulseEnd = some 1000 ∧ Stays (pulsed 1001) ∧ (pulsed 1001).Settled ∧
      (pulsed 1001).wch.pulseEnd = some 1001 ∧ b0.wch.pulseEnd = none) := by
  unfold State.Settled; and_intros <;> first | ((with_reducible refine stays_still _ ?_ ?_) <;> rfl) | decide +kernel

/-- A record waits to be written, with some slots bad. -/
def writing (bad : List Nat) : State := b0.modBook fun b => { b with queue := [zeros 64], ready := true, bad := bad, lastBad := false }
theorem freeFrom_bad (f k : Nat) (h : 65536 ≤ k + f) : freeFrom (List.range 65536) f k [] = none := by
  induction f generalizing k with
  | zero => rfl
  | succ f ih =>
    rw [freeFrom]
    split
    · rfl
    · simp only [show (List.range 65536).contains k = true by simp; omega, if_true]
      exact ih _ (by omega)
theorem writing_full (l : List Nat) (h : l = List.range 65536) : (writing l).book.slotFor (zeros 64) = none := by
  have e : (writing l).book.slots = [] := rfl
  have f : (writing l).book.bad = l := rfl
  have n : l.length = 65536 := by rw [h, List.length_range]
  have g : freeFrom l (0 + l.length + 1) 0 [] = none := by rw [n, h]; exact freeFrom_bad _ _ (by omega)
  rw [Book.slotFor, e, f, List.length_nil, g]
  rfl
/-- As a request to the book's clock domain finds it. -/
def bookIn (s : State) : State := s.openGate 7
/-- A refill instant. -/
def refill (n : Nat) : State := bookIn (at_ n)
/-- BOOK_READ waits, with a buffer; of a book that is ready, not ready, failed. -/
def reading (len : Nat) : State := turnOf (writing []) 0 (desc 0x28 0 len 0)
def unread : State := turnOf b0 0 (desc 0x28 0 64 0)
def readFailed : State := unread.modBook fun b => { b with failed := true }
/-- Its ring is stopping; no bus mastering. -/
def readStop : State := (reading 64).modRing 3 fun r => { r with state := 2 }
def readStall : State := (reading 64).modHostIf fun h => { h with bme := false }
/-- BOOK_CLEAR waits, in a mode, of a book that is ready or not. -/
def clearing (m : Nat) (ready : Bool) : State := (turnOf (inMode m) 0 (desc 0x29 1 0 0)).modBook fun b => { b with ready := ready }
theorem wit_ParishBook :
    (Stays (writing [0]) ∧ (bookIn (writing [0])).up = true ∧ (bookIn (writing [0])).Settled ∧ (bookIn (writing [0])).book.queue = zeros 64 :: [] ∧
      (bookIn (writing [0])).book.ready = true ∧ (bookIn (writing [0])).book.failed = false ∧ (bookIn (writing [0])).book.slotFor (zeros 64) = some 1 ∧
      (bookIn (writing [0])).book.lastBad = false ∧ (bookIn (writing [0])).book.bad.length < 3 ∧ sourceOk b0.var 513 = true ∧ b0.severity 513 ≠ 0) ∧
    (Stays b0 ∧ (bookIn b0).Settled ∧ (bookIn b0).book.queue = [] ∧ (bookIn b0).book.ready = false ∧ (bookIn b0).book.failed = false ∧
      (b0.modBook fun b => { b with failed := true }).book.failed = true) ∧
    (Stays (at_ 0) ∧ (refill 0).Settled ∧ (refill 0).clk.now % (max 1 ((refill 0).rf .bkRate 0 31 16) * 1000000) = 0 ∧
      (refill 0).book.refillAt ≠ (refill 0).clk.now + 1 ∧ (refill 0).book.overflow.supp = 0 ∧ (∀ b ∈ (refill 0).book.buckets, b.supp = 0) ∧
      Stays (at_ 1) ∧ (refill 1).Settled ∧ (refill 1).clk.now % (max 1 ((refill 1).rf .bkRate 0 31 16) * 1000000) ≠ 0) ∧
    (Stays (reading 63) ∧ (bookIn (reading 63)).Settled ∧ (bookIn (reading 63)).turn 0 0x28 = some (3, 0, desc 0x28 0 63 0) ∧ (desc 0x28 0 63 0).len < 64 ∧
      64 ≤ (desc 0x28 0 64 0).len ∧ Stays (reading 64) ∧ (bookIn (reading 64)).Settled ∧ (bookIn (reading 64)).turn 0 0x28 = some (3, 0, desc 0x28 0 64 0) ∧
      (bookIn (reading 64)).book.ready = true ∧ (bookIn (reading 64)).book.failed = false ∧ (bookIn (reading 64)).canDma = true ∧
      ((bookIn (reading 64)).ring 3).state = 1 ∧ Stays readStop ∧ (bookIn readStop).Settled ∧ (bookIn readStop).canDma = true ∧
      ((bookIn readStop).ring 3).state ≠ 1 ∧ (bookIn readStop).turn 0 0x28 = some (3, 0, desc 0x28 0 64 0) ∧ Stays readStall ∧ (bookIn readStall).Settled ∧
      (bookIn readStall).canDma = false ∧ (bookIn readStall).turn 0 0x28 = some (3, 0, desc 0x28 0 64 0) ∧ (bookIn unread).book.ready = false ∧
      (bookIn unread).Settled ∧ (bookIn unread).book.failed = false ∧ (bookIn readFailed).book.failed = true ∧ (bookIn readFailed).Settled) ∧
    (Stays (clearing 1 true) ∧ (bookIn (clearing 1 true)).turn 0 0x29 = some (3, 0, desc 0x29 1 0 0) ∧ (bookIn (clearing 1 true)).mode.mode = 1 ∧
      (bookIn (clearing 1 true)).Settled ∧ (bookIn (clearing 1 true)).book.ready = true ∧ (bookIn (clearing 1 false)).book.ready = false ∧
      (bookIn (clearing 1 false)).book.failed = false ∧ (bookIn (clearing 1 false)).Settled ∧ (bookIn (clearing 0 true)).mode.mode ≠ 1) ∧
    (writing (List.range 65536)).book.slotFor (zeros 64) = none := by
  unfold State.Settled
  refine ⟨?_, ?_, ?_, ?_, ?_, ?_⟩
  rotate_right
  · exact writing_full _ rfl
  all_goals and_intros <;> first | ((with_reducible refine stays_still _ ?_ ?_) <;> rfl) | decide +kernel

/-- Sensor 7 is a diode, or a thermistor. -/
def probe (ntc : Bool) : State := b0.setReg .thmChCfg 7 (word (2 ^ 31 + if ntc then 2 ^ 30 else 0))
theorem wit_Temperatures :
    (Stays b0 ∧ b0.released = true ∧ Stays (probe false) ∧ (probe false).released = true ∧ (probe false).channelOn 7 = true ∧ bit ((probe false).reg .thmChCfg 7) 30 = false ∧ Stays (probe true) ∧ (probe true).channelOn 7 = true ∧ bit ((probe true).reg .thmChCfg 7) 30 = true ∧
      b0.Settled) ∧
    ((199999999 : Nat) < 200000000 ∧ 950000000 < (950000001 : Nat) ∧ 4 * ((600000100 : Int) - 600000000) ≤ 600000500 - 600000100 ∧ (600000499 : Int) - 600000100 < 4 * (600000100 - 600000000) ∧
      (19999 : Nat) < 20000 ∧ 2000000000 < (2000000001 : Nat)) ∧
    (Stays ((probe true).setRf .thmChR0 7 31 12 10000) ∧ ((probe true).setRf .thmChR0 7 31 12 10000).rf .thmChR0 7 31 12 = 10000 ∧
      bit ((probe true).reg .thmChCfg 7) 29 = false ∧ ((probe true).setRf .thmChPar 7 15 0 3435).rf .thmChPar 7 15 0 = 3435 ∧
      0 < 2000000 * fone / 596300000 + (lnNat 1800000 - lnNat (1000 * 10000)) / 3435) ∧
    ((b0.sensor 10).level = false ∧ ((b0.modSensor 10 fun x => { x with level := true }).sensor 10).level = true) := by
  unfold State.Settled; and_intros <;> first | ((with_reducible refine stays_still _ ?_ ?_) <;> rfl) | decide +kernel

/-! ### Results that the spec's own examples and tables give -/

/-- The example of chapter 1: SYS_CAP0 of an LCC-48C and an LCC-24F. -/
theorem test_cap0 : Variant.c48.cap0 = 0x02300020 ∧ Variant.f24.cap0 = 0x0418003F := by decide
/-- Chapter 7: T and the words of TIM_NOW at a rate of −2 ppm. -/
theorem test_tim_now : tsWords ({ Tim.reset with rate := -562949953, offset := 57599884800230400000 }.timeOf (32 * 3600000250000)) =
    [0x6B49D200, 0, 0x0003D08F, 0x80000000] := by decide
/-- Chapter 7: the rate after an update instant on its way to +2 ppm. -/
theorem test_rate_step : (match exec (.updateInstant 1000000) ((steer 0 562949953).setReg .timSlew 0 2814750) with
    | .next u => u.tim.rate
    | _ => 0) = 2814750 := by decide
/-- Chapter 8: the edge event of position 3 at 14,000 in frame 5,013, carried in frame 5,009. -/
theorem test_edge_word : (⟨5013, 14000, true, 3, false, false⟩ : CellEdge).word 5009 = 0x0046D613 ∧ (⟨5013, 4000, false, 2, false, false⟩ : CellEdge).word 5009 = 0x0041F402 := by decide
/-- Chapter 8: port 12's delays. -/
theorem test_new_mean : (((measuring 3 0 42684).newMean 12 22375700).port 12).dDown = 42684 ∧ (((measuring 3 0 42684).newMean 12 22375700).port 12).dUp = 42673 := by decide
/-- Chapter 9: leg a of the sine-triangle example, and leg n. -/
theorem test_pwm : pwmRef 64000 45056 0 = [(10000, 54000)] ∧ pwmRef 64000 28672 0 = [(18000, 46000)] := by decide
/-- Chapter 9: pair 57's reference, phase 32,768. -/
theorem test_pwm_wrap : pwmRef 320000 40960 32768 = [(0, 100000), (220000, 320000)] := by decide
/-- Chapter 9: the tap of step 5. -/
theorem test_tap : dlErr 40000 5 5980 = 8640 ∧ dlErr 40000 5 6910 = 21120 := by decide
/-- Chapter 11: core 3's calibration in band 1, and the first raw code of input 11. -/
theorem test_calibration : calValues (-3210) 30710000 6 119840 = some (-50, 130926) ∧ correct 18 52000 (-50, 130926) = (51955, false) := by decide
/-- Chapter 13: an input of 4.0 V with s = 2. -/
theorem test_input_scale : asr (128000 + 2) 2 = 32000 ∧ asr (128003 + 2) 2 = 32001 := by decide
/-- Chapter 13: the CLOOP example, an ordinary period. -/
theorem test_cloop : runPi (parseBlk [0x08000400, 0, 0, 0x01000000, 0x465004B0, 0x65909A70, 0x00002EE0, 0]) 9830 8192 24000 { BSt.reset with s1 := 603979776 } none =
    ⟨[26000], { BSt.reset with s1 := 603979776, s3 := 26000 }, false, true⟩ := by decide
/-- Chapter 14: rtab(15). -/
theorem test_rtab : rtab 15 = 2185 := by decide
/-- Chapter 6: ring 9's records of 1,600 bytes in 4,096. -/
theorem test_place : placeRecord 4096 0 1600 none = some (0, false) ∧ placeRecord 4096 1600 1600 (some 0) = some (1600, false) ∧ placeRecord 4096 3200 1600 (some 0) = none ∧
    placeRecord 4096 3200 1600 (some 1600) = some (0, true) ∧ placeRecord 4096 1600 1600 (some 1600) = none := by decide
/-- Chapter 16: the travelling wave on core 2. -/
def wave (n : Nat) (x : Int) (s : State) : State := s.twSample 2 n x
theorem test_wave : ((wave 7200000025 432 (wave 7200000000 190 (wave 7199999975 12 (wave 7199999950 10
    ((b0.setReg .capTwCfg 2 (word (2 ^ 31 + 2 * 2 ^ 28 + 300))).modTw 2 fun z => { z with armed := true }))))).tw 2).stamp = 230400000400 := by decide
/-- Chapter 16: the angle of 0.36 of a cycle. -/
theorem test_phase : sin32 1546188226 = sineQ 574 ∧ cos32 1546188226 = -sineQ 450 := by decide +kernel
/-- Chapter 17: the permissive of port 12, before its check value. -/
theorem test_permissive : (pduBytes 0x00000A0000001018 0x51 0x1234 20 0 [3]).take 7 = [3, 0, 0x51, 0x34, 0x12, 0x14, 0] := by decide
/-- Chapter 18: a thermistor of 1,800 Ω. -/
theorem test_thermistor : (match exec (.temperatureResult 1000 7 (.ntc 1800000)) (((probe true).setRf .thmChPar 7 15 0 3435).setRf .thmChR0 7 31 12 10000) with
    | .next u => (u.sensor 7).temp
    | _ => 0) = 9874 := by decide +kernel

end Sys2Proof.Tests
end

section
/-! PROOFS. Accesses to BAR0 (R6, R7, R85, R131 to R133, R163, R170, R310): which element an access reaches, what a read latches and
returns, what a plain write stores. -/

namespace Sys2Proof.Machine

variable {s x : State}

/-! ### What an access reaches -/

/-- While the firmware runs the root is released (R84). -/
theorem State.released_of_up (h : s.up = true) : s.released = true := by
  have running : s.clk.phase = .running := of_decide_eq_true h
  unfold State.released
  rw [running]

/-- While the firmware runs, a register that every variant has is reached at its offset if its unit exists (R28, R85, R131). -/
theorem State.locate_of_up (h : s.up = true) {off i j : Nat} {r : Reg} (found : findReg off = some (r, i, j))
    (unit : (windowOf off).1 ≠ 0) (built : unitOk s.var (windowOf off).1 = true) (present : r.row.absent = .never) :
    s.locate off = some (r, i, j) := by
  have isOpen : s.windowOpen (windowOf off).1 = true := by
    unfold State.windowOpen
    simp [State.released_of_up h, h, unit, built]
  unfold State.locate
  simp [isOpen, found, present, absentReg]

/-- Opening a gate changes nothing that decides what an access reaches. -/
@[simp] theorem State.locate_openGate (s : State) (b off : Nat) : (s.openGate b).locate off = s.locate off := rfl

/-- Latching a word changes nothing that decides what an access reaches. -/
@[simp] theorem State.locate_setLatch (s : State) (a off : Nat) (v : Word) : (s.setLatch a v).locate off = s.locate off := rfl

/-! ### Latched words -/

@[simp] theorem State.latchAt_setLatch_self (s : State) (off : Nat) (v : Word) : (s.setLatch off v).latchAt off = v :=
  tget_tput_self _ _ _ _

theorem State.latchAt_setLatch_ne (s : State) {a off : Nat} (v : Word) (h : off ≠ a) : (s.setLatch a v).latchAt off = s.latchAt off :=
  tget_tput_ne _ _ _ h

/-- Words 1 to n of an array are latched at their own offsets, which differ. -/
theorem State.latchAt_latchWords (s : State) {r : Reg} {n k : Nat} (step : 0 < r.row.s1) (lo : 1 ≤ k) (hi : k ≤ n) :
    (s.latchWords r n).latchAt (r.addr k) = s.live r k 0 := by
  unfold State.latchWords State.forAll
  induction n with
  | zero => omega
  | succ n ih =>
    rw [List.range_succ, List.foldl_append]
    by_cases last : k = n + 1
    · subst last
      exact State.latchAt_setLatch_self _ _ _
    · have apart : r.addr k ≠ r.addr (n + 1) := by
        have : r.row.s1 * k ≠ r.row.s1 * (n + 1) := fun e => last (Nat.eq_of_mul_eq_mul_left step e)
        unfold Reg.addr
        omega
      exact (State.latchAt_setLatch_ne _ _ apart).trans (ih (by omega))

/-! Latching the words of an array changes the latched words only. -/

@[simp] theorem State.latchWords_regs (s : State) (r : Reg) (n : Nat) : (s.latchWords r n).regs = s.regs :=
  State.forAll_frame State.regs _ _ _ fun _ _ => rfl
@[simp] theorem State.latchWords_clk (s : State) (r : Reg) (n : Nat) : (s.latchWords r n).clk = s.clk :=
  State.forAll_frame State.clk _ _ _ fun _ _ => rfl
@[simp] theorem State.latchWords_tim (s : State) (r : Reg) (n : Nat) : (s.latchWords r n).tim = s.tim :=
  State.forAll_frame State.tim _ _ _ fun _ _ => rfl
@[simp] theorem State.locate_latchWords (s : State) (r : Reg) (n off : Nat) : (s.latchWords r n).locate off = s.locate off :=
  State.forAll_frame (·.locate off) _ _ _ fun _ _ => rfl

/-! ### What a read returns -/

/-- A register of which nothing is stored and every bit is read shows its unit's value. -/
theorem State.live_of_shown (s : State) (r : Reg) (i j : Nat) (unstored : notStored r = true) (whole : r.row.readable = 0xFFFFFFFF) :
    s.live r i j = word (s.shown r i j) := by
  unfold State.live
  rw [unstored, whole]
  have all : word 0xFFFFFFFF = BitVec.allOnes 32 := rfl
  rw [all, BitVec.and_allOnes]
  exact BitVec.zero_or

/-- The word of a word's number is that word. -/
theorem word_toNat (v : Word) : word v.toNat = v := by simp [word]

/-- The words of TIM_NOW are those of the present time (R162, R163). -/
theorem State.live_timNow (s : State) (k : Nat) : s.live .timNow k 0 = nth (tsWords (s.timeAt s.clk.now)) k 0 :=
  (s.live_of_shown .timNow k 0 rfl rfl).trans (word_toNat _)

/-- The words of TIM_PPS_IN are those of the last edge's time (R170). -/
theorem State.live_timPpsIn (s : State) (k : Nat) : s.live .timPpsIn k 0 = nth (tsWords s.tim.ppsStamp) k 0 :=
  (s.live_of_shown .timPpsIn k 0 rfl rfl).trans (word_toNat _)

/-- A read of a register whose word is neither latched nor the Mill's returns its current value. -/
theorem State.view_eq_live {off i j : Nat} {r : Reg} (l : s.locate off = some (r, i, j)) (fresh : latchedWord r i = false)
    (other : r ≠ .milData) : s.view off = s.live r i j := by
  unfold State.view
  simp [l, fresh, other]

/-! ### The read commands -/

/-! Passing a gate, latching words and returning one leave the state settled. -/

theorem State.setLatch_settled (h : s.Settled) (off : Nat) (v : Word) : (s.setLatch off v).Settled := h.of_same rfl rfl rfl
theorem State.returns_settled (h : s.Settled) (off : Nat) : (s.returns off).Settled := h.of_same rfl rfl rfl
theorem State.passGate_settled (h : s.Settled) (off : Nat) : (s.passGate off).Settled := State.openGate_settled h _
theorem State.latchWords_settled (h : s.Settled) (r : Reg) (n : Nat) : (s.latchWords r n).Settled :=
  State.forAll_settled h _ _ fun _ _ settled => State.setLatch_settled settled _ _

/-- A command that makes a settled state of the one it finds, while the firmware runs, ends in that state. -/
theorem act_next {t : Nat} {f : State → State} {y : State} (e : x = s.advanceTo t) (up : x.up = true) (made : f x = y)
    (settled : y.Settled) : act t s f = .next y := by
  subst e
  rw [act_eq t s f (State.released_of_up up), made, State.settle_of_settled settled]

/-- A read of a _LO register latches its _HI register (R7). -/
theorem State.readLo_of_hi {off i j : Nat} {r h : Reg} (l : s.locate off = some (r, i, j)) (pair : hiOf r = some h) :
    s.readLo off = ((s.passGate off).setLatch (h.addr i j) (s.live h i j)).returns off := by
  unfold State.readLo
  rw [l]
  simp only [pair]

/-- A read of word 0 of an array that is reached latches the rest. -/
theorem State.readArray_of_located {r : Reg} {n : Nat} (l : s.locate r.addr = some (r, 0, 0)) :
    s.readArray r n = (s.latchWords r n).returns r.addr := by
  unfold State.readArray State.iff
  rw [l]
  rfl

/-- LO_READ of a _LO register: its _HI register is latched, its own value returned. -/
theorem loRead_eq {t off i j : Nat} {r h : Reg} (e : x = s.advanceTo t) (up : x.up = true) (settled : x.Settled)
    (l : x.locate off = some (r, i, j)) (pair : hiOf r = some h) :
    exec (.loRead t off) s = .next (((x.passGate off).setLatch (h.addr i j) (x.live h i j)).returns off) :=
  act_next e up (State.readLo_of_hi l pair)
    (State.returns_settled (State.setLatch_settled (State.passGate_settled settled _) _ _) _)

/-- A read of word 0 of an array that is reached returns its present value and latches the rest (R163, R170). -/
theorem readArray_runs {c : Instr} {t n : Nat} {r : Reg} (run : exec c s = act t s (·.readArray r n)) (e : x = s.advanceTo t)
    (up : x.up = true) (settled : x.Settled) (l : x.locate r.addr = some (r, 0, 0)) (step : 0 < r.row.s1)
    (fresh : latchedWord r 0 = false) (other : r ≠ .milData) :
    s.Runs c fun u => u.rdata = (x.latchWords r n).live r 0 0 ∧
      (∀ k, 1 ≤ k → k ≤ n → u.latchAt (r.addr k) = x.live r k 0) ∧ u.regs = x.regs := by
  have still := State.returns_settled (State.latchWords_settled settled r n) r.addr
  refine ⟨_, run.trans (act_next e up (State.readArray_of_located l) still), ?_,
    fun k lo hi => x.latchAt_latchWords step lo hi, x.latchWords_regs r n⟩
  exact State.view_eq_live ((x.locate_latchWords r n _).trans l) fresh other

/-- Word 0 of TIM_NOW (R163). -/
theorem timNowRead_runs {t : Nat} (e : x = s.advanceTo t) (up : x.up = true) (settled : x.Settled) :
    s.Runs (.timNowRead t Reg.timNow.addr) fun u => u.rdata = nth (tsWords (x.timeAt x.clk.now)) 0 0 ∧
      (∀ k, 1 ≤ k → k ≤ 3 → u.latchAt (Reg.timNow.addr k) = nth (tsWords (x.timeAt x.clk.now)) k 0) ∧ u.regs = x.regs := by
  have l : x.locate Reg.timNow.addr = some (.timNow, 0, 0) := State.locate_of_up up rfl (by decide) rfl rfl
  have h := readArray_runs (c := .timNowRead t Reg.timNow.addr) (n := 3) rfl e up settled l (by decide) rfl (by decide)
  simpa only [State.live_timNow, State.timeAt, State.latchWords_clk, State.latchWords_tim] using h

/-- Word 0 of TIM_PPS_IN (R170). -/
theorem timPpsInRead_runs {t : Nat} (e : x = s.advanceTo t) (up : x.up = true) (settled : x.Settled) :
    s.Runs (.timPpsInRead t) fun u => u.rdata = nth (tsWords x.tim.ppsStamp) 0 0 ∧
      (∀ k, 1 ≤ k → k ≤ 3 → u.latchAt (Reg.timPpsIn.addr k) = nth (tsWords x.tim.ppsStamp) k 0) ∧ u.regs = x.regs := by
  have l : x.locate Reg.timPpsIn.addr = some (.timPpsIn, 0, 0) := State.locate_of_up up rfl (by decide) rfl rfl
  have h := readArray_runs (c := .timPpsInRead t) (n := 3) rfl e up settled l (by decide) rfl (by decide)
  simpa only [State.live_timPpsIn, State.latchWords_tim] using h

/-- TIM_COUNT_LO (R163): the low word of the local count is returned, the high word is latched. -/
theorem timCountRead_runs {t : Nat} (e : x = s.advanceTo t) (up : x.up = true) (settled : x.Settled) :
    s.Runs (.loRead t Reg.timCountLo.addr) fun u => u.rdata = word x.clk.now ∧
      u.latchAt Reg.timCountHi.addr = word (x.clk.now / 2 ^ 32) ∧ u.regs = x.regs ∧ u.mode = x.mode := by
  have l : x.locate Reg.timCountLo.addr = some (.timCountLo, 0, 0) := State.locate_of_up up rfl (by decide) rfl rfl
  refine ⟨_, loRead_eq e up settled l rfl, ?_, ?_, rfl, rfl⟩
  · exact (State.view_eq_live (by simpa [State.passGate] using l) rfl (by decide)).trans
      (State.live_of_shown _ .timCountLo 0 0 rfl rfl)
  · exact (State.latchAt_setLatch_self _ _ _).trans (State.live_of_shown _ .timCountHi 0 0 rfl rfl)

/-- A read of a result of the converter latches its sample instant (R310). -/
theorem adcResultRead_runs {t n : Nat} (e : x = s.advanceTo t) (up : x.up = true) (settled : x.Settled) (lt : n < 32)
    (reached : x.locate (Reg.adcResult.addr n) ≠ none) :
    s.Runs (.adcResultRead t n) fun u =>
      u.latchAt Reg.adcResultTs.addr = word (x.ares n).inst ∧ u.adc = x.adc ∧ u.regs = x.regs := by
  have found : (x.locate (Reg.adcResult.addr n)).isSome = true := Option.isSome_iff_ne_none.mpr reached
  have still := State.returns_settled (State.setLatch_settled (State.openGate_settled settled 4) Reg.adcResultTs.addr
    (word (x.ares n).inst)) (Reg.adcResult.addr n)
  refine ⟨_, act_next e up ?_ still, State.latchAt_setLatch_self _ _ _, rfl, rfl⟩
  simp only [State.iff, lt, decide_true, if_true, State.locate_openGate, found]
  rfl

/-! ### Writes -/

/-- An access that reaches nothing changes nothing (R132). -/
theorem State.bar0Write_unreached (v : Word) (be : Nat) {off : Nat} (nowhere : s.locate off = none) : s.bar0Write off v be = s := by
  unfold State.bar0Write
  rw [nowhere]

/-- A write with a byte enable clear passes the gate and writes nothing (R133). -/
theorem State.bar0Write_partial (v : Word) {be off : Nat} (part : be % 16 ≠ 15) (reached : s.locate off ≠ none) :
    s.bar0Write off v be = s.passGate off := by
  obtain ⟨⟨r, i, j⟩, l⟩ := Option.ne_none_iff_exists'.mp reached
  unfold State.bar0Write
  simp [l, part]

/-- A full write that no rule ignores is the register's own (R6). -/
theorem State.bar0Write_full {v : Word} {off i j : Nat} {r : Reg} (l : s.locate off = some (r, i, j))
    (heard : (s.passGate off).ignores r i v = false) : s.bar0Write off v 15 = (s.passGate off).regWrite r i j v := by
  unfold State.bar0Write
  simp [l, heard]

/-- The fields of BK_RATE are RWL: they take a write while RWL fields do (R102, R103). -/
theorem State.regWrite_bkRate (s : State) (v : Word) :
    s.regWrite .bkRate 0 0 v = if s.rwlShut then s
      else s.setReg .bkRate 0 ((s.reg .bkRate &&& ~~~0xFFFF00FF) ||| (v &&& 0xFFFF00FF)) := by
  have plain : s.regWrite .bkRate 0 0 v = s.plainWrite .bkRate 0 0 v := rfl
  rw [plain]
  unfold State.plainWrite
  cases s.rwlShut <;> rfl

/-- A full write to BK_RATE (R102, R103): every other register, the mode and the book stay. -/
theorem bkRateWrite_runs {t : Nat} {v : Word} (e : x = s.advanceTo t) (up : x.up = true) (settled : x.Settled) :
    s.Runs (.registerWrite t Reg.bkRate.addr v 15) fun u =>
      u.reg .bkRate = (if (x.passGate Reg.bkRate.addr).rwlShut then x.reg .bkRate
        else (x.reg .bkRate &&& ~~~0xFFFF00FF) ||| (v &&& 0xFFFF00FF)) ∧
      (∀ o, o ≠ Reg.bkRate.addr → tget regReset u.regs o = tget regReset x.regs o) ∧ u.mode = x.mode ∧ u.book = x.book := by
  have l : x.locate Reg.bkRate.addr = some (.bkRate, 0, 0) := State.locate_of_up up rfl (by decide) rfl rfl
  have passed := State.passGate_settled settled Reg.bkRate.addr
  have made := (State.bar0Write_full (v := v) l rfl).trans (State.regWrite_bkRate _ v)
  cases shut : (x.passGate Reg.bkRate.addr).rwlShut with
  | true =>
    rw [shut, if_pos rfl] at made
    exact ⟨_, act_next e up made passed, rfl, fun _ _ => rfl, rfl, rfl⟩
  | false =>
    rw [shut, if_neg Bool.false_ne_true] at made
    refine ⟨_, act_next e up made (passed.setReg _ _ _ _ (.inr (by decide))), ?_, fun o ne => tget_tput_ne _ _ _ ne, rfl, rfl⟩
    exact State.reg_setReg_self _ _ _ _ _

/-! ### The obligation -/

/-- Settles O18: each clause is one access's lemma above. -/
theorem barAccesses : Obligations.BarAccesses := by
  intro s x t off v be e up settled
  refine ⟨fun nowhere => act_next e up (State.bar0Write_unreached v be nowhere) settled,
    fun part reached => act_next e up (State.bar0Write_partial v part reached) (State.passGate_settled settled off),
    bkRateWrite_runs e up settled, fun r i j h l pair => ?_, timCountRead_runs e up settled, timNowRead_runs e up settled,
    timPpsInRead_runs e up settled, fun n lt reached => adcResultRead_runs e up settled lt reached⟩
  exact ⟨_, loRead_eq e up settled l pair, State.latchAt_setLatch_self _ _ _, rfl, rfl⟩

end Sys2Proof.Machine
end

section
/-! PROOFS. Every command completes in every state, which is the model's choice (log entries 16 and 18). -/

namespace Sys2Proof.Machine

/-- Settles O8: what every command keeps has the queue, the part and the count of free values among it. -/
theorem commandsComplete : Obligations.CommandsComplete := by
  intro i s
  obtain ⟨u, ran, kept⟩ := exec_keeps i s
  exact ⟨u, ran, kept.queue, kept.part, kept.fresh⟩

end Sys2Proof.Machine
end

section
/-! PROOFS. The period of a Mill task (R17, R312 to R315, R326, R327, R397): its input close, its steps and its commit. -/

namespace Sys2Proof.Machine

variable {s x u : State}

/-! ### Sealing leaves a task's period alone -/

/-- Where a task's period stands: the clocks, the task's state, next step and boundary, and its last two input closes. -/
structure TaskPeriod where
  clk : Clk
  st : Nat
  step : Nat
  bk : Nat
  closeAt : Nat
  prevClose : Nat

/-- Where the task's period stands at clocks c. -/
def MTask.periodAt (k : MTask) (c : Clk) : TaskPeriod := ⟨c, k.st, k.step, k.bk, k.closeAt, k.prevClose⟩

/-- Where the period of task t stands: what sealing a bank leaves alone. -/
def State.periodOf (s : State) (t : Nat) : TaskPeriod := (s.task t).periodAt s.clk

/-- What every pass of a fold leaves alone the fold leaves alone. -/
theorem foldl_frame {α β : Type} (g : State → α) (l : List β) {f : State → β → State} (h : ∀ y e, g (f y e) = g y) (s : State) :
    g (l.foldl f s) = g s := by
  induction l generalizing s with
  | nil => rfl
  | cons a r ih => exact (ih (f s a)).trans (h s a)

theorem State.task_congr (h : u.mill.tasks = s.mill.tasks) (t : Nat) : u.task t = s.task t := by
  unfold State.task
  rw [h]

/-- An update of the Mill beside its tasks leaves them. -/
theorem State.task_modMill (f : Mill → Mill) (h : (f s.mill).tasks = s.mill.tasks) (t : Nat) : (s.modMill f).task t = s.task t :=
  State.task_congr h t

/-- Raises and answers leave tasks and their periods alone. -/
theorem State.Quiet.task (h : s.Quiet u) (t : Nat) : u.task t = s.task t := State.task_congr (congrArg Mill.tasks h.mill) t

theorem State.Quiet.periodOf (h : s.Quiet u) (t : Nat) : u.periodOf t = s.periodOf t := by
  unfold State.periodOf
  rw [h.task, h.clk]

/-- A raise under a condition leaves periods alone. -/
theorem State.raiseIf_periodOf (s : State) (c : Bool) (src idx t : Nat) : (s.iff c (·.raise src idx)).periodOf t = s.periodOf t :=
  State.iff_frame (·.periodOf t) _ _ _ fun y => (State.raise_quiet (State.Quiet.refl y) src idx 0 false).periodOf t

theorem State.takeMode_periodOf (s : State) (t m : Nat) : (s.takeMode t m).periodOf t = s.periodOf t := by
  unfold State.takeMode
  extract_lets was y
  have same : y.periodOf t = s.periodOf t := State.iff_frame (·.periodOf t) _ _ _ fun _ => rfl
  refine Eq.trans ?_ same
  exact congrArg (·.periodAt y.clk) (State.task_modTask_self y t _)

theorem State.sealTag_periodOf (s : State) (k x : Nat) (f : Option (Int × Nat)) (t : Nat) :
    (s.sealTag k x f).periodOf t = s.periodOf t := by
  unfold State.sealTag
  dsimp only
  rw [State.raiseIf_periodOf, State.raiseIf_periodOf]
  rfl

theorem State.sealMasks_periodOf (s : State) (k : Nat) (mask : Nat → Nat) (t : Nat) : (s.sealMasks k mask).periodOf t = s.periodOf t :=
  State.forAll_frame (·.periodOf t) _ _ _ fun _ _ => State.raiseIf_periodOf _ _ _ _ t

theorem State.answer_periodOf (s : State) (role k : Nat) (c : Compl) (t : Nat) : (s.answer role k c).periodOf t = s.periodOf t :=
  (State.answer_quiet (State.Quiet.refl s) role k c).periodOf t

theorem State.sealParams_periodOf (s : State) (k t : Nat) : (s.sealParams k).2.periodOf t = s.periodOf t := by
  unfold State.sealParams
  split
  · rfl
  · refine foldl_frame (·.periodOf t) _ (fun y e => ?_) _
    split
    · exact State.answer_periodOf _ _ _ _ t
    · rfl

theorem State.setpointsUsed_periodOf (s : State) (k t : Nat) : (s.setpointsUsed k).periodOf t = s.periodOf t :=
  State.forAll_frame (·.periodOf t) _ _ _ fun _ y => State.answer_periodOf y _ _ _ t

/-- Sending a record changes nothing but the pair's outbox and its count. -/
theorem State.pairRecord_mild (s : State) (kind : Nat) (b : Bytes) : s.Mild (s.pairRecord kind b) := by
  unfold State.pairRecord
  extract_lets area no l y
  split
  · exact State.pairSend_mild (State.Mild.refl s) _ _
  · exact State.forAll_mild (State.modPair_mild (State.Mild.refl s) _) _ _ fun _ _ h => State.pairSend_mild h _ _

theorem State.keepTask_periodOf (s : State) (k t : Nat) : (s.keepTask k).periodOf t = s.periodOf t :=
  State.iff_frame (·.periodOf t) _ _ _ fun _ => rfl

/-- Sealing its own bank leaves where the task's period stands (R17). -/
theorem State.sealOwn_periodOf (s : State) (t : Nat) : (s.sealOwn t).periodOf t = s.periodOf t := by
  unfold State.sealOwn
  dsimp only
  rw [State.keepTask_periodOf, State.iff_frame (·.periodOf t) _ _ _ fun y => (State.pairRecord_mild y _ _).toQuiet.periodOf t,
    State.setpointsUsed_periodOf, State.sealMasks_periodOf, State.forAll_frame (·.periodOf t) _ _ _ fun _ y => State.sealTag_periodOf y _ _ _ t,
    State.sealParams_periodOf, State.takeMode_periodOf]

/-! ### Input close -/

/-- A command of a gated block acts, while the firmware runs, on the state that time has reached with its gate open. -/
theorem actIn_next {b t : Nat} (e : x = (s.advanceTo t).openGate b) (up : x.up = true) (f : State → State) :
    actIn b t s f = .next (f x).settle := by
  subst e
  exact actIn_eq b t s f (State.released_of_up up)

theorem exec_inputClose (t g task : Nat) (s : State) : exec (.inputClose t g task) s = execInputClose t g task s := rfl

/-- Task t of group g has its input close at boundary b now, and has not had it yet (R17). -/
structure State.MayClose (s : State) (g t b : Nat) : Prop where
  enabled : s.grpOn g = true
  runsTask : s.taskOn t = true
  tied : s.taskGroup t = g
  lead : s.nowA = b + s.inputLead t
  boundary : s.isBoundary g b = true
  runs : s.runsAt g b = true
  fresh : (s.task t).bk ≠ b ∨ (s.task t).closeAt ≠ s.clk.now

/-- What the input close of task t finds: the groups' closes are made and, with its group's first task, the snapshot is sent. -/
def State.closing (s : State) (g t : Nat) : State :=
  s.closeGroups.iff ((s.closeGroups.tasksOf g).head? = some t) (·.sendSnapshot g)

/-- The period of task t is one to compute: its group is in one of modes 2 to 7. -/
def State.computes (s : State) (g : Nat) : Bool := 2 ≤ nget s.mode.groupMode g && nget s.mode.groupMode g ≤ 7

/-- INPUT_CLOSE of a task at its input close (R17). -/
theorem inputClose_next {t g task b : Nat} (e : x = (s.advanceTo t).openGate 0) (up : x.up = true) (lt : task < 3)
    (c : x.MayClose g task b) : exec (.inputClose t g task) s =
      .next ((x.closing g task).iff ((x.closing g task).computes g) (·.taskClose task b)).settle := by
  rw [exec_inputClose, execInputClose, actIn_next e up, State.computes, State.closing]
  have at_ : x.nowA - x.inputLead task = b := by rw [c.lead, Nat.add_sub_cancel]
  have due : x.inputLead task ≤ x.nowA := by rw [c.lead]; exact Nat.le_add_left _ _
  have notDone : ¬((x.task task).bk = b ∧ (x.task task).closeAt = x.clk.now) := fun h => c.fresh.elim (· h.1) (· h.2)
  have other : task ≠ 3 := Nat.ne_of_lt lt
  simp [up, lt, c.enabled, c.runsTask, c.tied, at_, due, c.boundary, c.runs, notDone, other]

theorem State.sendSnapshot_mild (s : State) (g : Nat) : s.Mild (s.sendSnapshot g) :=
  State.iff_mild (State.Mild.refl s) _ _ fun y h => h.trans (State.pairRecord_mild y _ _)

/-- Besides the groups' closes nothing of the mode and the Mill has changed when the task's period begins. -/
theorem State.closing_mild (s : State) (g t : Nat) : s.closeGroups.Mild (s.closing g t) :=
  State.iff_mild (State.Mild.refl _) _ _ fun y h => h.trans (State.sendSnapshot_mild y g)

/-- The input close begins the period of boundary b at step 0 (R17, R312); the task is ready if the program has steps for it. -/
theorem State.taskClose_period (s : State) (t b : Nat) : ∃ st,
    (s.taskClose t b).periodOf t = ⟨s.clk, st, 0, b, s.clk.now, s.clk.now⟩ ∧
      ∀ p, s.mill.prog = some p → p.steps t ≠ [] → st = 1 := by
  refine ⟨_, (State.iff_frame (·.periodOf t) _ _ _ fun y => State.sealOwn_periodOf y t).trans
    (congrArg (·.periodAt s.clk) (State.task_modTask_self _ _ _)), fun p loaded steps => ?_⟩
  simp [loaded, steps]

/-- The input close of a task whose group computes makes it ready (R17). -/
theorem inputClose_runs {t g task b : Nat} (e : x = (s.advanceTo t).openGate 0) (up : x.up = true) (lt : task < 3)
    (c : x.MayClose g task b) (lo : 2 ≤ nget x.closeGroups.mode.groupMode g) (hi : nget x.closeGroups.mode.groupMode g ≤ 7) :
    s.Runs (.inputClose t g task) fun u =>
      (u.task task).bk = b ∧ (u.task task).step = 0 ∧ (u.task task).closeAt = u.clk.now ∧ (u.task task).prevClose = u.clk.now ∧
      (∀ p, x.closeGroups.mill.prog = some p → p.steps task ≠ [] → (u.task task).st = 1) := by
  have mild := x.closing_mild g task
  have computes : (x.closing g task).computes g = true := by
    unfold State.computes
    simp [mild.mode, lo, hi]
  refine runs_quiet (inputClose_next e up lt c) fun u q => ?_
  rw [computes] at q
  obtain ⟨st, period, ready⟩ := (x.closing g task).taskClose_period task b
  have kept := (State.Quiet.periodOf q task).trans period
  simp only [State.periodOf, MTask.periodAt, TaskPeriod.mk.injEq] at kept
  obtain ⟨clocks, st', step, bk, closeAt, prevClose⟩ := kept
  rw [mild.mill] at ready
  rw [clocks]
  exact ⟨bk, step, closeAt, prevClose, fun p loaded steps => st'.trans (ready p loaded steps)⟩

/-- The input close of a task whose group does not compute is that of the groups alone. -/
theorem inputClose_idle {t g task b : Nat} (e : x = (s.advanceTo t).openGate 0) (up : x.up = true) (lt : task < 3)
    (c : x.MayClose g task b) (low : nget x.closeGroups.mode.groupMode g < 2) (later : (x.closeGroups.tasksOf g).head? ≠ some task) :
    exec (.inputClose t g task) s = .next x.closeGroups.settle := by
  have still : x.closing g task = x.closeGroups := by
    unfold State.closing
    simp [State.iff, later]
  have idle : x.closeGroups.computes g = false := by
    unfold State.computes
    simp [Nat.not_le.mpr low]
  rw [inputClose_next e up lt c, still, idle]
  rfl

/-! ### Steps -/

theorem exec_taskStep (t task : Nat) (s : State) : exec (.taskStep t task) s = execTaskStep t task s := rfl

/-- Task t of program p is the one that may take the lanes now (R312, R315). -/
structure State.MayStep (s : State) (p : Prog) (t : Nat) : Prop where
  loaded : s.mill.prog = some p
  waits : (s.task t).st = 1
  even : s.clk.now % 2 = 0
  started : s.taskStart t ≤ s.clk.now
  lanes : s.mill.laneFree ≤ s.clk.now
  first : (List.range t).any s.taskReady = false
  committed : ((List.range 3).any fun h => (s.task h).st = 2) = false

/-- TASK_STEP of the task that may take the lanes: with its bank sealed, or a record of the active unit's to seal, or its own, it takes its
next step; a standby that has no record goes back to Join (R315, R397). -/
def State.nextStep (s : State) (p : Prog) (t : Nat) : State :=
  if (s.task t).sealed then s.stepNow p t
  else if (s.sealFromPeer t).1 then (s.sealFromPeer t).2.stepNow p t
  else
    let y := (s.sealFromPeer t).2
    if y.takesBank then (y.modTask t fun k => { k with st := 0 }).modPair fun q => { q with st := 2 }
    else (y.sealOwn t).stepNow p t

theorem taskStep_next {t task : Nat} {p : Prog} (e : x = (s.advanceTo t).openGate 0) (up : x.up = true) (lt : task < 3)
    (m : x.MayStep p task) : exec (.taskStep t task) s = .next (x.nextStep p task).settle := by
  rw [exec_taskStep, execTaskStep, actIn_next e up]
  have waits : x.taskWaits task = true := by
    unfold State.taskWaits
    simp [m.waits, m.started]
  simp only [m.loaded, up, lt, m.even, waits, m.lanes, m.first, m.committed]
  rfl

/-- A record that is not there changes nothing. -/
theorem State.sealFromPeer_none {t : Nat} (h : (s.sealFromPeer t).1 = false) : (s.sealFromPeer t).2 = s := by
  revert h
  unfold State.sealFromPeer
  dsimp only
  split
  · exact fun _ => rfl
  · exact fun h => Bool.noConfusion h

/-! What a block does leaves the time alone. -/

/-- A raise under a condition, with another change before it. -/
theorem State.raiseIf_tim (s : State) (c : Bool) {f : State → State} (h : ∀ y, (f y).tim = y.tim) (src idx : Nat) :
    (s.iff c fun y => (f y).raise src idx).tim = s.tim :=
  State.iff_frame State.tim _ _ _ fun y => (State.raise_quiet (State.Quiet.refl (f y)) src idx 0 false).tim.trans (h y)

theorem State.blockFlags_tim (s : State) (t b f : Nat) : (s.blockFlags t b f).tim = s.tim := by
  unfold State.blockFlags
  extract_lets lo was y z
  have flags : y.tim = s.tim := State.setRf_tim _ _ _ _ _ _
  have opened : z.tim = y.tim := State.iff_frame State.tim _ _ _ fun _ => State.modTask_tim _ _ _
  exact (State.raiseIf_tim z _ (fun _ => State.modTask_tim _ _ _) 353 b).trans (opened.trans flags)

theorem State.putBlock_tim (s : State) (t b : Nat) (k : Blk) (r : BOut × Bool × Bool) (taps : List Int) :
    (s.putBlock t b k r taps).tim = s.tim := by
  unfold State.putBlock
  extract_lets o y z
  have flags : z.tim = y.tim := State.blockFlags_tim _ _ _ _
  exact (State.raiseIf_tim z _ (fun _ => rfl) 354 b).trans (flags.trans (State.modTask_tim _ _ _))

theorem State.runStep_tim (s : State) (p : Prog) (t : Nat) (l : List (Nat × Blk)) : (s.runStep p t l).tim = s.tim :=
  foldl_frame State.tim l (fun y _ => y.putBlock_tim _ _ _ _ _) s

theorem State.stepNow_tim (s : State) (p : Prog) (t : Nat) : (s.stepNow p t).tim = s.tim := by
  unfold State.stepNow
  dsimp only
  rw [State.modMill_tim, State.modTask_tim, State.runStep_tim]
  exact State.iff_frame State.tim _ _ _ fun y => State.modTask_tim y _ _

/-- A step takes the lanes for its cost, the last one with the final part (R314, R315). -/
theorem State.stepNow_lanes (s : State) (p : Prog) (t : Nat) :
    (s.stepNow p t).mill.cur = some t ∧
    (s.stepNow p t).mill.laneFree = s.clk.now + 2 * stepCost (nth (p.steps t) (s.task t).step []) +
      (if (p.steps t).length ≤ (s.task t).step + 1 then 2 * p.finalCost t else 0) := by
  unfold State.stepNow
  dsimp only
  rw [State.modMill_mill]
  refine ⟨rfl, ?_⟩
  dsimp only
  split
  · rfl
  · exact (Nat.add_zero _).symm

/-- A step is followed by the next one, the last one by the final part (R312). -/
theorem State.stepNow_task (s : State) (p : Prog) (t : Nat) :
    ((s.stepNow p t).task t).step = (s.task t).step + 1 ∧
    ((s.stepNow p t).task t).st = (if (p.steps t).length ≤ (s.task t).step + 1 then 2 else 1) := by
  unfold State.stepNow
  dsimp only
  rw [State.task_modMill _ rfl, State.task_modTask_self]
  exact ⟨rfl, rfl⟩

/-- A task whose bank is sealed takes its next step (R312, R315). -/
theorem taskStep_runs {t task : Nat} {p : Prog} (e : x = (s.advanceTo t).openGate 0) (up : x.up = true) (lt : task < 3)
    (m : x.MayStep p task) (ready : (x.task task).sealed = true) : s.Runs (.taskStep t task) fun u =>
      u.mill.cur = some task ∧ (u.task task).step = (x.task task).step + 1 ∧
      (u.task task).st = (if (p.steps task).length ≤ (x.task task).step + 1 then 2 else 1) ∧
      u.mill.laneFree = x.clk.now + 2 * stepCost (nth (p.steps task) (x.task task).step []) +
        (if (p.steps task).length ≤ (x.task task).step + 1 then 2 * p.finalCost task else 0) ∧ u.tim = x.tim := by
  refine runs_quiet (taskStep_next e up lt m) fun u q => ?_
  rw [State.nextStep, if_pos ready] at q
  obtain ⟨cur, free⟩ := x.stepNow_lanes p task
  obtain ⟨step, st⟩ := x.stepNow_task p task
  rw [q.task, q.mill]
  exact ⟨cur, step, st, free, q.tim.trans (x.stepNow_tim p task)⟩

/-- A standby with a record for the period seals it and takes the step (R397). -/
theorem taskStep_ofPeer {t task : Nat} {p : Prog} {z : State} (e : x = (s.advanceTo t).openGate 0) (up : x.up = true) (lt : task < 3)
    (m : x.MayStep p task) (unsealed : (x.task task).sealed = false) (found : x.sealFromPeer task = (true, z)) :
    exec (.taskStep t task) s = .next (z.stepNow p task).settle := by
  rw [taskStep_next e up lt m, State.nextStep, found]
  simp [unsealed]

/-- A standby without a record for the period goes back to Join and runs nothing (R397). -/
theorem taskStep_rejoins {t task : Nat} {p : Prog} (e : x = (s.advanceTo t).openGate 0) (up : x.up = true) (lt : task < 3)
    (m : x.MayStep p task) (unsealed : (x.task task).sealed = false) (lost : (x.sealFromPeer task).1 = false)
    (standby : x.takesBank = true) : s.Runs (.taskStep t task) fun u =>
      (u.task task).st = 0 ∧ u.pair.st = 2 ∧ u.mill.nodes = x.mill.nodes ∧ u.mill.cur = x.mill.cur := by
  refine runs_calm (taskStep_next e up lt m) fun u q => ?_
  have back : x.nextStep p task = (x.modTask task fun k => { k with st := 0 }).modPair fun q => { q with st := 2 } := by
    simp [State.nextStep, unsealed, lost, State.sealFromPeer_none lost, standby]
  rw [back] at q
  have tasks : u.task task = { x.task task with st := 0 } :=
    (q.task task).trans (State.task_modTask_self x task fun k => { k with st := 0 })
  rw [tasks, q.mill, q.pair]
  exact ⟨rfl, rfl, rfl, rfl⟩

/-! ### Commit -/

theorem exec_taskCommit (t task : Nat) (s : State) : exec (.taskCommit t task) s = execTaskCommit t task s := rfl

theorem State.bankPut_cur (s : State) (node : Nat) (v : InVal) : (s.bankPut node v).mill.cur = s.mill.cur := rfl

/-- The commit ends the period and frees the lanes (R326). -/
theorem State.commit_done (s : State) (t : Nat) : (s.commit t).mill.cur = none ∧ ((s.commit t).task t).st = 0 := by
  unfold State.commit
  dsimp only
  rw [State.task_modTask_self]
  exact ⟨foldl_frame (fun z => z.mill.cur) (s.task t).trans (fun z _ => z.bankPut_cur _ _) _, rfl⟩

/-- Before the freeze point the task at its end commits (R326). -/
theorem taskCommit_runs {t task : Nat} {p : Prog} (e : x = (s.advanceTo t).openGate 0) (up : x.up = true) (lt : task < 3)
    (loaded : x.mill.prog = some p) (last : (x.task task).st = 2) (free : x.mill.laneFree ≤ x.clk.now + 2)
    (early : coreCycle x.clk.now < x.unaligned (x.freezeAt (x.taskGroup task) (x.task task).bk)) :
    s.Runs (.taskCommit t task) fun u => (u.task task).st = 0 ∧ u.mill.cur = none := by
  have run : exec (.taskCommit t task) s = .next (((x.handOver p task).trace task).commit task).settle := by
    rw [exec_taskCommit, execTaskCommit, actIn_next e up]
    simp [loaded, up, lt, last, free, early]
  refine runs_quiet run fun u q => ?_
  obtain ⟨cur, st⟩ := ((x.handOver p task).trace task).commit_done task
  rw [q.task, q.mill]
  exact ⟨st, cur⟩

/-- At the freeze point and past it nothing commits (R327). -/
theorem taskCommit_late {t task : Nat} {p : Prog} (e : x = (s.advanceTo t).openGate 0) (up : x.up = true) (settled : x.Settled)
    (loaded : x.mill.prog = some p) (late : x.unaligned (x.freezeAt (x.taskGroup task) (x.task task).bk) ≤ coreCycle x.clk.now) :
    exec (.taskCommit t task) s = .next x := by
  rw [exec_taskCommit, execTaskCommit, actIn_next e up]
  simp [loaded, Nat.not_lt.mpr late, State.settle_of_settled settled]

/-! ### The obligation -/

/-- Settles O40: each clause is one command's lemma above. -/
theorem millTasks : Obligations.MillTasks := by
  intro s x t task e up lt
  refine ⟨fun g b on task_on tied lead boundary runs fresh => ?_, fun p loaded waits even started lanes first committed => ?_,
    fun p loaded last free => ?_⟩
  · have c : x.MayClose g task b := ⟨on, task_on, tied, lead, boundary, runs, fresh⟩
    exact ⟨inputClose_runs e up lt c, inputClose_idle e up lt c⟩
  · have m : x.MayStep p task := ⟨loaded, waits, even, started, lanes, first, committed⟩
    exact ⟨taskStep_runs e up lt m, fun z => taskStep_ofPeer e up lt m, taskStep_rejoins e up lt m⟩
  · exact ⟨taskCommit_runs e up lt loaded last free, fun late settled => taskCommit_late e up settled loaded late⟩

end Sys2Proof.Machine
end

section
/-! PROOFS. Supplies, resets and the sequence from reset to a released root (R34, R39 to R41, R51 to R54, R71, R72, R81, R84, R96). -/

namespace Sys2Proof.Machine

variable {s x y : State}

/-! ### What a reset of the logic leaves -/

/-- With no latch bit set no trip is latched. -/
theorem State.tripLatched_of_none (h : s.anyLatched = false) : s.tripLatched = false := by
  simp [State.tripLatched, State.latchedSources, h]

/-- A reset that retains no latch register leaves the state settled. -/
theorem State.resetLogic_settled (s : State) {keep : Nat → Bool} (dark : ∀ off, keep off = true → off < 0x26040 ∨ 0x2608C ≤ off) :
    (s.resetLogic keep).Settled := by
  refine ⟨rfl, (State.tripLatched_of_none ?_).symm⟩
  simp only [State.anyLatched, State.resetLogic, List.any_eq_false, List.mem_filter]
  rintro entry ⟨-, kept⟩
  have := dark entry.1 kept
  simp
  omega

/-- No latch register is among those the AON island retains (R78, R104, R380). -/
theorem retained_dark (off : Nat) (h : retained off = true) : off < 0x26040 ∨ 0x2608C ≤ off := by
  simp [retained, Reg.addr, Reg.row] at h
  omega

/-- Settles O9: the last-word store goes with VDD_AON, the rest is the reset of the logic that retains no register. -/
theorem powerOnReset : Obligations.PowerOnReset := by
  intro s x t fell e
  have still : (x.resetLogic fun _ => false).Settled := State.resetLogic_settled x fun _ h => Bool.noConfusion h
  have none_kept : x.regs.filter (fun _ => false) = [] := List.filter_false x.regs
  subst e
  refine exec_settled_eq rfl ?_ ?_
  · exact still.of_same rfl rfl none_kept.symm
  · cases fell <;> simp only [State.resetLogic, none_kept] <;> rfl

/-! ### Supplies -/

/-- A command that raises a source while the root is released: what it had done before stands, and the source is latched unless its
severity is 0 (R474, R475). -/
theorem iffReleased_raise_runs {c : Instr} {src : Nat} (run : exec c s = .next (y.iffReleased (·.raise src 0xFFFF)).settle)
    (rel : y.released = true) (regs : y.regs = x.regs) (var : y.var = x.var) :
    s.Runs c fun u => y.Quiet u ∧ (sourceOk x.var src = true → x.severity src ≠ 0 → u.latched src = true) := by
  rw [State.iffReleased, if_pos rel] at run
  refine runs_quiet run fun u q => ?_
  rw [← var, ← State.severity_congr regs]
  exact State.raise_then src 0xFFFF 0 false q

/-- Every variant has the source of VSAF_24. -/
theorem sourceOk_vsaf (v : Variant) : sourceOk v 453 = true := by cases v <;> decide

/-- Variants with capture memory have the source of its supply. -/
theorem sourceOk_memSupply (v : Variant) (h : v.hasCap = true) : sourceOk v 578 = true := by
  revert h
  cases v <;> decide

/-- Variants with capture memory have the source of the fast converters' supply. -/
theorem sourceOk_fadSupply (v : Variant) (h : v.hasCap = true) : sourceOk v 323 = true := by
  revert h
  cases v <;> decide

/-- VSAF_24 fails: the safety outputs open with it (R41). -/
theorem safetySupplyFault_runs {t : Nat} (e : x = s.advanceTo t) (rel : x.released = true) : s.Runs (.safetySupplyFault t) fun u =>
    u.clk = { x.clk with supplySaf := false } ∧ u.saf.closed = 0 ∧ u.saf.outOn = 0 ∧ (x.severity 453 ≠ 0 → u.latched 453 = true) := by
  have run : exec (.safetySupplyFault t) s = .next ((((x.modClk fun c => { c with supplySaf := false }).modSaf fun f =>
      { f with closed := 0, outOn := 0 }).iffReleased (·.raise 453 0xFFFF)).settle) := by rw [e]; rfl
  obtain ⟨u, run, q, latched⟩ := iffReleased_raise_runs (x := x) run rel rfl rfl
  refine ⟨u, run, q.clk, ?_, ?_, latched (sourceOk_vsaf _)⟩
  · rw [q.saf]; rfl
  · rw [q.saf]; rfl

/-- VDD_MEM11 or VDD_MEMQ fails (R41). -/
theorem memorySupplyLoss_runs {t : Nat} (e : x = s.advanceTo t) (rel : x.released = true) : s.Runs (.memorySupplyLoss t) fun u =>
    u.clk = { x.clk with supplyMem := false } ∧ (x.hasCap = true → x.severity 578 ≠ 0 → u.latched 578 = true) := by
  have run : exec (.memorySupplyLoss t) s = .next
      ((x.modClk fun c => { c with supplyMem := false }).iffReleased (·.raise 578 0xFFFF)).settle := by rw [e]; rfl
  obtain ⟨u, run, q, latched⟩ := iffReleased_raise_runs (x := x) run rel rfl rfl
  exact ⟨u, run, q.clk, fun cap => latched (sourceOk_memSupply _ cap)⟩

/-- VDDA_FAD fails (R41). -/
theorem fastConverterSupplyLoss_runs {t : Nat} (e : x = s.advanceTo t) (rel : x.released = true) :
    s.Runs (.fastConverterSupplyLoss t) fun u =>
      u.clk = { x.clk with supplyFad := false } ∧ (x.hasCap = true → x.severity 323 ≠ 0 → u.latched 323 = true) := by
  have run : exec (.fastConverterSupplyLoss t) s = .next
      ((x.modClk fun c => { c with supplyFad := false }).iffReleased (·.raise 323 0xFFFF)).settle := by rw [e]; rfl
  obtain ⟨u, run, q, latched⟩ := iffReleased_raise_runs (x := x) run rel rfl rfl
  exact ⟨u, run, q.clk, fun cap => latched (sourceOk_fadSupply _ cap)⟩

/-- Settles O10: a loss is one of the three lemmas above, a return a change of the clocks alone. -/
theorem supplies : Obligations.Supplies := by
  refine ⟨fun s x t e rel => ?_, fun s x t d e settled => ?_⟩
  · exact ⟨safetySupplyFault_runs e rel, memorySupplyLoss_runs e rel, fastConverterSupplyLoss_runs e rel⟩
  · subst e
    have marked := State.modClk_settled settled
    exact ⟨exec_settled_eq rfl (marked _) rfl, exec_settled_eq rfl (marked _) rfl, exec_settled_eq rfl (marked _) rfl,
      exec_settled_eq rfl (marked _) rfl⟩

/-! ### A device reset (R81, R82) -/

/-- Retirement states after a reset touch the channels' health alone (R380). -/
theorem State.initRetired_frame {α : Type} (g : State → α) (h : ∀ (z : State) (p : Nat) (f : Health → Health), g (z.modHealth1 p f) = g z)
    (s : State) : g s.initRetired = g s :=
  State.forAll_frame g _ _ _ fun _ z => State.iff_frame g z _ _ fun w => h w _ _

theorem State.initRetired_settled (h : s.Settled) : s.initRetired.Settled :=
  State.forAll_settled h _ _ fun _ _ hz => State.iff_settled hz _ _ fun _ hw => State.modHealth1_settled hw _ _

theorem State.deviceReset_settled (s : State) (n : Nat) : (s.deviceReset n).Settled :=
  State.initRetired_settled (State.setRb_settled (s.resetLogic_settled retained_dark) _ _ _ _ (.inl (by decide)))

@[simp] theorem State.deviceReset_sec (s : State) (n : Nat) : (s.deviceReset n).sec = s.sec.restart :=
  State.initRetired_frame State.sec (fun _ _ _ => rfl) _
@[simp] theorem State.deviceReset_mode (s : State) (n : Nat) : (s.deviceReset n).mode = Mode.reset :=
  State.initRetired_frame State.mode (fun _ _ _ => rfl) _
@[simp] theorem State.deviceReset_host (s : State) (n : Nat) : (s.deviceReset n).host = HostIf.reset :=
  State.initRetired_frame State.host (fun _ _ _ => rfl) _
@[simp] theorem State.deviceReset_leg (s : State) (n : Nat) : (s.deviceReset n).leg = Leg.reset :=
  State.initRetired_frame State.leg (fun _ _ _ => rfl) _
@[simp] theorem State.deviceReset_lw (s : State) (n : Nat) : (s.deviceReset n).book.lw = s.book.lw :=
  State.initRetired_frame (·.book.lw) (fun _ _ _ => rfl) _

/-- A device reset sets the bit of its cause (R82). -/
theorem State.deviceReset_cause (s : State) {n : Nat} (lt : n < 32) : (s.deviceReset n).rb .sysResetCause 0 n = true :=
  (State.initRetired_frame (·.rb .sysResetCause 0 n) (fun _ _ _ => rfl) _).trans (State.rb_setRb _ _ _ _ lt)

/-! ### The boot ROM starts (R84) -/

/-- Every event extends the chain (R96). -/
theorem State.measure_chain (s : State) (kind : Nat) (v : Bytes) :
    (s.measure kind v).sec.chain = hash64 (s.sec.chain ++ le 4 kind ++ v) := by
  unfold State.measure State.modSec
  dsimp only
  split <;> rfl

theorem State.measure_settled (h : s.Settled) (kind : Nat) (v : Bytes) : (s.measure kind v).Settled := State.modSec_settled h _

@[simp] theorem State.enterBoot_clk (s : State) : s.enterBoot.clk = { s.clk with phase := .booting, now := 0, aonErrN := false } := rfl
@[simp] theorem State.enterBoot_mode (s : State) : s.enterBoot.mode = s.mode := rfl
@[simp] theorem State.enterBoot_host (s : State) : s.enterBoot.host = s.host := rfl
@[simp] theorem State.enterBoot_leg (s : State) : s.enterBoot.leg = s.leg := rfl
@[simp] theorem State.enterBoot_book (s : State) : s.enterBoot.book = s.book := rfl

/-- The ROM is the first thing measured (R96). -/
theorem State.enterBoot_chain (s : State) : s.enterBoot.sec.chain = hash64 (s.sec.chain ++ le 4 1 ++ Config.romHash) :=
  State.measure_chain _ 1 Config.romHash

theorem State.enterBoot_settled (h : s.Settled) : s.enterBoot.Settled := by
  have address := ((State.modClk_settled h fun c => { c with phase := .booting, now := 0, aonErrN := false }).setReg .ptpMacHi 0 0
    (word ((2 ^ 41 + s.sec.otpSerial % 2 ^ 40) / 2 ^ 32)) (.inl (by decide))).setReg .ptpMacLo 0 0
    (word (2 ^ 41 + s.sec.otpSerial % 2 ^ 40)) (.inl (by decide))
  exact State.measure_settled (State.setRb_settled (State.modCap_settled address _) _ _ _ _ (.inr (by decide))) _ _

/-- The boot ROM leaves the cause of a reset as it is. -/
theorem State.enterBoot_cause (s : State) (n : Nat) : s.enterBoot.rb .sysResetCause 0 n = s.rb .sysResetCause 0 n := by
  refine congrArg (fun w => bit w n) ?_
  have status : ∀ (z : State) (b : Bool), (z.setRb .memStatus 0 31 b).reg .sysResetCause = z.reg .sysResetCause :=
    fun z b => State.reg_setReg_ne z _ _ _ _ _ _ _ (by decide)
  have address : ∀ (z : State) (hi lo : Word), ((z.setReg .ptpMacHi 0 hi).setReg .ptpMacLo 0 lo).reg .sysResetCause = z.reg .sysResetCause :=
    fun z hi lo => (State.reg_setReg_ne _ _ _ _ _ _ _ _ (by decide)).trans (State.reg_setReg_ne _ _ _ _ _ _ _ _ (by decide))
  exact (status _ _).trans (address _ _ _)

/-! ### From reset to a released root -/

/-- Release of power-on reset starts proving (R39). -/
theorem powerOnResetRelease_next {t : Nat} (e : x = s.advanceTo t) (settled : x.Settled) (reset : x.clk.phase = .powerOnReset) :
    exec (.powerOnResetRelease t) s = .next (x.modClk fun c => { c with phase := .proving }) := by
  subst e
  exact exec_settled_eq rfl (State.modClk_settled settled _) (by simp [State.iff, reset])

/-- What the release of the root does: the boot ROM starts, with no attempt and no loss of lock on record (R54, R84). -/
def State.runRoot (s : State) : State := (s.modClk fun c => { c with attempts := 0, clockLoss := false }).enterBoot

theorem State.runRoot_settled (h : s.Settled) : s.runRoot.Settled := State.enterBoot_settled (State.modClk_settled h _)

/-- PLL-A may try to lock: the sequence has come to step 2 or 3 and the root does not run (R51, R53, R72). -/
def Clk.mayLock (c : Clk) : Prop :=
  c.phase = .proving ∨ c.phase = .noReference ∨ c.phase = .locking ∨ c.phase = .locked ∧ c.root.missing = true

/-- PLL-A starts on the preferred source if that is proven, else on the other (R51). -/
theorem State.startSource_of_proven {p src : Nat} (pref : p = s.rf .clkRefCtrl 0 0 0)
    (proven : (s.clk.src p).proven = true ∧ src = p ∨
      (s.clk.src p).proven = false ∧ (s.clk.src (1 - p)).proven = true ∧ src = 1 - p) : s.startSource = some src := by
  subst pref
  rw [State.startSource]
  rcases proven with ⟨preferred, rfl⟩ | ⟨bad, other, rfl⟩
  · rw [if_pos preferred]
  · rw [if_neg (by rw [bad]; decide), if_pos other]

/-- A lock attempt changes the clocks: after three of them the lock is used up, else PLL-A starts on its source (R51, R52, R72); a new
attempt after a loss of lock chooses as at power-on, which is the model's choice (log entry 111). -/
theorem lockAttempt_next {t found src : Nat} (e : x = s.advanceTo t) (settled : x.Settled) (may : x.clk.mayLock)
    (start : x.startSource = some src) : exec (.lockAttempt t found) s = .next (x.modClk fun c =>
      if 3 ≤ x.clk.attempts then { c with phase := .lockFailed, lockDead := true, pllALock := false, aonErrN := true }
      else { c with phase := .locking, attempts := c.attempts + 1, source := some src, sel := some src, hold := false, tune := none,
                    pllALock := false, band := x.tableBand.getD (found % 64), bandSrc := x.tableBand.isSome }) := by
  have phase : (x.clk.phase = .proving || x.clk.phase = .noReference || x.clk.phase = .locking ||
      (x.clk.phase = .locked && x.clk.root.missing)) = true := by
    simpa [Clk.mayLock, or_assoc] using may
  subst e
  refine exec_settled_eq rfl (State.modClk_settled settled _) ?_
  simp only [start, phase, if_true]
  split <;> rfl

/-- PLL-A has locked; the root's windows count from here (R53; the model's choice, log entry 112). -/
theorem pllALock_next {t : Nat} (e : x = s.advanceTo t) (settled : x.Settled) (locking : x.clk.phase = .locking)
    (tried : x.clk.attempts ≠ 0) : exec (.pllALock t) s = .next (x.modClk fun c =>
      { c with phase := .locked, pllALock := true, root := Proving.reset, rootRun := 0 }) := by
  subst e
  exact exec_settled_eq rfl (State.modClk_settled settled _) (by simp [State.iff, locking, tried])

/-- The root is released after two of its windows, after a loss of lock through a device reset with the clock cause (R54, R71). -/
theorem rootRelease_next {t : Nat} (e : x = s.advanceTo t) (locked : x.clk.phase = .locked) (windows : 2 ≤ x.clk.rootRun)
    (made : x.iff x.clk.clockLoss (·.deviceReset 1) = y) (settled : y.Settled) : exec (.rootRelease t) s = .next y.runRoot := by
  subst e made
  refine exec_settled_eq rfl (State.runRoot_settled settled) ?_
  simp [State.iff, locked, windows, State.runRoot]

/-- Settles O11: each clause is one command's lemma above. -/
theorem rootSequence : Obligations.RootSequence := by
  intro s x t found p src e settled
  refine ⟨fun reset => powerOnResetRelease_next e settled reset, fun may pref proven => ?_,
    fun locking tried => pllALock_next e settled locking tried, fun locked windows kept => ?_, fun locked windows lost => ?_⟩
  · have attempt := lockAttempt_next (found := found) e settled may (State.startSource_of_proven pref proven)
    refine ⟨fun few => ?_, fun many => ?_⟩
    · simpa only [Nat.not_le.mpr few, if_false] using attempt
    · simpa only [many, if_true] using attempt
  · have made : x.iff x.clk.clockLoss (·.deviceReset 1) = x := by rw [kept]; rfl
    refine ⟨_, rootRelease_next e locked windows made settled, ?_⟩
    simp [State.runRoot, State.enterBoot_chain]
  · have made : x.iff x.clk.clockLoss (·.deviceReset 1) = x.deviceReset 1 := by rw [lost]; rfl
    have cause : (x.deviceReset 1).runRoot.rb .sysResetCause 0 1 = true :=
      (State.enterBoot_cause _ 1).trans (x.deviceReset_cause (by decide))
    refine ⟨_, rootRelease_next e locked windows made (x.deviceReset_settled 1), ?_⟩
    simp only [cause]
    simp [State.runRoot, State.enterBoot_chain, Sec.restart]

end Sys2Proof.Machine
end

section
/-! PROOFS. The references of PLL-A (R49 to R51, R53, R54, R56 to R59, R69, R70): their windows and losses, hold, loss of lock, selection. -/

namespace Sys2Proof.Machine

variable {s x u : State}

/-! ### Windows of a source, and hold -/

/-- The 25 MHz limits of R49. -/
theorem in25_of_within {n : Nat} (lo : 994 ≤ n) (hi : n ≤ 1054) : in25 n = true := by simp [in25, lo, hi]

theorem in25_of_beyond {n : Nat} (beyond : 1054 < n) : in25 n = false := by simp [in25, beyond]

@[simp] theorem Clk.src_setSrc_self (c : Clk) (i : Nat) (p : Proving) : (c.setSrc i p).src i = p := by
  unfold Clk.setSrc Clk.src
  split
  · rfl
  · split <;> rfl

/-- Taking a window of a source leaves hold, the source PLL-A ran on last, its lock and the phase. -/
theorem Clk.setSrc_frame (c : Clk) (i : Nat) (p : Proving) : (c.setSrc i p).hold = c.hold ∧ (c.setSrc i p).source = c.source ∧
    (c.setSrc i p).pllALock = c.pllALock ∧ (c.setSrc i p).phase = c.phase := by
  unfold Clk.setSrc
  split
  · exact ⟨rfl, rfl, rfl, rfl⟩
  · split <;> exact ⟨rfl, rfl, rfl, rfl⟩

/-- The eighth passing window in a row proves the source (R49). -/
theorem Proving.window_eighth {p : Proving} {n : Nat} (seven : p.passes = 7) (above : n ≤ p.last + 2) (below : p.last ≤ n + 2) :
    p.window true n = ⟨8, n, true, false⟩ := by
  simp [Proving.window, seven, above, below]

/-- The clocks with the count of a passing window of source i taken; REF_IN may run at 10 MHz (R49). -/
def Clk.windowed (c : Clk) (i n : Nat) : Clk :=
  if i = 1 then { c.setSrc i ((c.src i).window true n) with tenMHz := in10 n } else c.setSrc i ((c.src i).window true n)

theorem Clk.windowed_src (c : Clk) (i n : Nat) : (c.windowed i n).src i = (c.src i).window true n := by
  have set := c.src_setSrc_self i ((c.src i).window true n)
  unfold Clk.windowed
  split <;> exact set

/-- The clocks after a passing window of source i: a proven source that PLL-A ran on last ends the hold (R49, R59). -/
def Clk.passed (c : Clk) (i n : Nat) : Clk :=
  if ((c.src i).window true n).proven && c.hold && c.source = some i then (c.windowed i n).leaveHold i else c.windowed i n

theorem Clk.passed_src (c : Clk) (i n : Nat) : (c.passed i n).src i = (c.src i).window true n := by
  unfold Clk.passed
  split <;> exact c.windowed_src i n

/-- A source that is proven while PLL-A, which ran on it last, holds, takes it over again (R58, R59). -/
theorem Clk.passed_endsHold {c : Clk} {i n : Nat} (proven : ((c.src i).window true n).proven = true) (hold : c.hold = true)
    (last : c.source = some i) : (c.passed i n).hold = false ∧ (c.passed i n).sel = some i ∧ (c.passed i n).tune = none := by
  unfold Clk.passed
  simp [proven, hold, last, Clk.leaveHold]

/-- Two changes of the clocks are one. -/
theorem State.modClk_modClk (s : State) (f g : Clk → Clk) : (s.modClk f).modClk g = s.modClk fun c => g (f c) := rfl

/-- A change of the clocks under a condition is a change of the clocks. -/
theorem State.iff_modClk (s : State) (c : Bool) (f : Clk → Clk) : s.iff c (·.modClk f) = s.modClk fun k => if c then f k else k := by
  cases c <;> rfl

/-- A change of the clocks is what it does to the present ones. -/
theorem State.modClk_congr {f g : Clk → Clk} (h : f s.clk = g s.clk) : s.modClk f = s.modClk g := by
  unfold State.modClk
  rw [h]

/-- A passing window of a source changes the clocks alone (R49). -/
theorem provingWindow_pass {t src n aon : Nat} (e : x = s.advanceTo t) (settled : x.Settled) (le : src ≤ 1)
    (awake : x.clk.phase ≠ .powerOnReset) (pass : in25 n = true) :
    exec (.provingWindow t src ⟨n, aon⟩) s = .next (x.modClk (·.passed src n)) := by
  subst e
  refine exec_settled_eq rfl (State.modClk_settled settled _) ?_
  have known : ¬2 < src := by omega
  have notRoot : src ≠ 2 := by omega
  obtain ⟨hold, source, -, -⟩ := (s.advanceTo t).clk.setSrc_frame src (((s.advanceTo t).clk.src src).window true n)
  simp only [known, notRoot, awake, pass, decide_false, Bool.or_false, Bool.true_or, if_true, if_false, Bool.false_eq_true,
    State.iff_modClk, State.modClk_modClk, State.modClk_clk]
  refine State.modClk_congr ?_
  unfold Clk.passed Clk.windowed
  by_cases refIn : src = 1
  · subst refIn
    simp [hold, source]
  · simp [refIn, hold, source]

/-! ### Loss of a source -/

/-- The clocks after the loss of source i: it is missing, and if it feeds a locked PLL-A that holds (R50, R56, R57). -/
def Clk.missed (c : Clk) (i : Nat) : Clk :=
  let d := c.setSrc i { c.src i with passes := 0, proven := false, missing := true }
  if c.source = some i && c.pllALock then d.enterHold else d

theorem Clk.missed_src (c : Clk) (i : Nat) : (c.missed i).src i = { c.src i with passes := 0, proven := false, missing := true } := by
  unfold Clk.missed
  dsimp only
  split <;> exact Clk.src_setSrc_self _ _ _

theorem Clk.missed_holds {c : Clk} {i : Nat} (feeds : c.source = some i) (lock : c.pllALock = true) :
    (c.missed i).hold = true ∧ (c.missed i).sel = none := by
  unfold Clk.missed
  simp [feeds, lock, Clk.enterHold]

theorem Clk.missed_phase (c : Clk) (i : Nat) : (c.missed i).phase = c.phase := by
  obtain ⟨-, -, -, phase⟩ := c.setSrc_frame i { c.src i with passes := 0, proven := false, missing := true }
  unfold Clk.missed
  dsimp only
  split <;> exact phase

/-- The loss of a source changes the clocks and raises its event, unless it was missing before (R50). -/
theorem State.goMissing_eq (s : State) (i : Nat) : s.goMissing i =
    if (s.clk.src i).missing then s.modClk (·.missed i) else (s.modClk (·.missed i)).iffReleased (·.raise (64 + i) 0xFFFF) := by
  obtain ⟨-, source, lock, -⟩ := s.clk.setSrc_frame i { s.clk.src i with passes := 0, proven := false, missing := true }
  have clocks : (s.modClk fun c => c.setSrc i { c.src i with passes := 0, proven := false, missing := true }).iff
      (s.clk.source = some i && s.clk.pllALock) (·.modClk Clk.enterHold) = s.modClk (·.missed i) := State.iff_modClk _ _ _
  unfold State.goMissing
  dsimp only
  rw [State.modClk_clk, source, lock, clocks]

/-- Every variant has the sources of the references and of PLL-A and PLL-B (R473). -/
theorem sourceOk_clk (v : Variant) : ∀ n, 64 ≤ n → n ≤ 68 → sourceOk v n = true := by
  intro n lo hi
  interval_cases n <;> cases v <;> decide

/-- What the loss of source `src` has done to state `x` (R50, R56, R57). -/
def State.Lost (x : State) (src : Nat) (u : State) : Prop :=
  (u.clk.src src).passes = 0 ∧ (u.clk.src src).proven = false ∧ (u.clk.src src).missing = true ∧
  (x.clk.source = some src → x.clk.pllALock = true → u.clk.hold = true ∧ u.clk.sel = none) ∧
  (x.released = true → (x.clk.src src).missing = false → x.severity (64 + src) ≠ 0 → u.latched (64 + src) = true)

/-- The clocks show the loss, and the event is latched where it is raised. -/
theorem State.lost_of_clk {src : Nat} (clk : u.clk = x.clk.missed src)
    (latched : x.released = true → (x.clk.src src).missing = false → x.severity (64 + src) ≠ 0 → u.latched (64 + src) = true) :
    x.Lost src u := by
  have source := x.clk.missed_src src
  unfold State.Lost
  rw [clk, source]
  exact ⟨rfl, rfl, rfl, Clk.missed_holds, latched⟩

/-- A command by which a source goes missing. -/
theorem goMissing_runs {c : Instr} {src : Nat} (run : exec c s = .next (x.goMissing src).settle) (le : src ≤ 1) :
    s.Runs c (x.Lost src) := by
  rw [State.goMissing_eq] at run
  refine runs_quiet run fun u q => ?_
  cases was : (x.clk.src src).missing with
  | true =>
    rw [was, if_pos rfl] at q
    exact State.lost_of_clk q.clk fun _ present => absurd (was.symm.trans present) (by decide)
  | false =>
    rw [was, if_neg Bool.false_ne_true] at q
    have same : (x.modClk (·.missed src)).released = x.released := by
      unfold State.released
      rw [State.modClk_clk, Clk.missed_phase]
    unfold State.iffReleased at q
    cases rel : x.released with
    | true =>
      rw [same, rel, if_pos rfl] at q
      obtain ⟨q, latched⟩ := State.raise_then _ _ _ _ q
      exact State.lost_of_clk q.clk fun _ _ => latched (sourceOk_clk _ _ (by omega) (by omega))
    | false =>
      rw [same, rel, if_neg Bool.false_ne_true] at q
      exact State.lost_of_clk q.clk fun released => absurd (rel.symm.trans released) (by decide)

/-- A window of a source that is beyond both limits makes it missing (R50). -/
theorem provingWindow_fail {t src n aon : Nat} (e : x = s.advanceTo t) (le : src ≤ 1) (awake : x.clk.phase ≠ .powerOnReset)
    (beyond : 1054 < n) : s.Runs (.provingWindow t src ⟨n, aon⟩) (x.Lost src) := by
  subst e
  refine goMissing_runs ?_ le
  have known : ¬2 < src := by omega
  have notRoot : src ≠ 2 := by omega
  have far25 := in25_of_beyond beyond
  have far10 : in10 n = false := by
    have : 422 < n := by omega
    simp [in10, this]
  show Host.Outcome.next _ = _
  simp [known, notRoot, awake, far25, far10]

/-- A source that stops is missing (R50). -/
theorem sourceMissing_runs {t src : Nat} (e : x = s.advanceTo t) (le : src ≤ 1) (awake : x.clk.phase ≠ .powerOnReset) :
    s.Runs (.sourceMissing t src) (x.Lost src) := by
  subst e
  refine goMissing_runs ?_ le
  have known : ¬2 < src := by omega
  have notRoot : src ≠ 2 := by omega
  show Host.Outcome.next _ = _
  simp [known, notRoot, awake]

/-! ### The root and loss of lock -/

/-- A window of the root (R49, R53). -/
theorem provingWindow_root {t n aon : Nat} (e : x = s.advanceTo t) (awake : x.clk.phase ≠ .powerOnReset) :
    exec (.provingWindow t 2 ⟨n, aon⟩) s = .next (x.rootWindow n aon).settle := by
  subst e
  show Host.Outcome.next _ = _
  simp [awake]

/-- A passing window of the root is counted (R49, R53). -/
theorem State.rootWindow_pass (s : State) {n : Nat} (aon : Nat) (pass : in25 n = true) :
    s.rootWindow n aon = s.modClk fun c => { c with root := c.root.window true n, rootRun := c.rootRun + 1 } := by
  simp [State.rootWindow, State.iff, pass]

/-- A failing window of a root that is released is a loss of lock (R53, R54). -/
theorem State.rootWindow_fail (s : State) {n : Nat} (aon : Nat) (fail : in25 n = false) :
    s.rootWindow n aon = (s.modClk fun c => { c with root := ⟨0, n, false, true⟩, rootRun := 0 }).iff s.released (·.loseLock aon) := by
  unfold State.rootWindow
  simp only [fail]
  rfl

/-- The last word is kept beside the records before it while there is room (R490). -/
theorem State.lastWord_length {src aon w1 : Nat} (room : s.book.lw.length < 16) :
    (s.lastWord src aon w1).book.lw.length = s.book.lw.length + 1 := by
  simp [State.lastWord, room]

theorem State.lastWord_settled (h : s.Settled) (src aon w1 : Nat) : (s.lastWord src aon w1).Settled := State.modBook_settled h _

theorem State.loseLock_settled (h : s.Settled) (aon : Nat) : (s.loseLock aon).Settled :=
  State.modClk_settled (State.lastWord_settled h _ _ _) _

/-- A loss of lock takes the phase back to locking, except from thermal shutdown (R53, R499). -/
theorem State.loseLock_phase (s : State) (aon : Nat) :
    (s.loseLock aon).clk.phase = if s.clk.phase = .thermalShutdown then .thermalShutdown else .locking := by
  by_cases hot : s.clk.phase = .thermalShutdown
  · exact (if_pos hot).trans (hot.trans (if_pos hot).symm)
  · exact (if_neg hot).trans (if_neg hot).symm

/-- In thermal shutdown the root is not released (R499). -/
theorem State.cool_of_released (h : s.released = true) : s.clk.phase ≠ .thermalShutdown := by
  intro hot
  simp [State.released, hot] at h

/-- A passing window of the root counts toward its release (R53, R54). -/
theorem rootWindow_counts {t n aon : Nat} (e : x = s.advanceTo t) (settled : x.Settled) (awake : x.clk.phase ≠ .powerOnReset)
    (pass : in25 n = true) : exec (.provingWindow t 2 ⟨n, aon⟩) s = .next (x.modClk fun c =>
      { c with root := c.root.window true n, rootRun := c.rootRun + 1 }) :=
  exec_settled_eq (provingWindow_root e awake) (State.modClk_settled settled _) (x.rootWindow_pass aon pass)

/-- A failing window of the released root: lock is lost (R53, R69, R70). -/
theorem rootWindow_loses {t n aon : Nat} (e : x = s.advanceTo t) (settled : x.Settled) (awake : x.clk.phase ≠ .powerOnReset)
    (fail : in25 n = false) (rel : x.released = true) : s.Runs (.provingWindow t 2 ⟨n, aon⟩) fun u =>
      u.clk.phase = .locking ∧ u.clk.pllALock = false ∧ u.clk.clockLoss = true ∧ u.clk.aonErrN = true ∧ u.regs = x.regs ∧
      u.mode = x.mode := by
  have run := provingWindow_root (n := n) (aon := aon) e awake
  rw [State.rootWindow_fail _ _ fail, rel] at run
  exact runs_settled run (State.loseLock_settled (State.modClk_settled settled _) aon)
    ⟨(State.loseLock_phase _ aon).trans (if_neg (State.cool_of_released rel)), rfl, rfl, rfl, rfl, rfl⟩

/-- A failing window of a root that is not released starts its count over (R53). -/
theorem rootWindow_restarts {t n aon : Nat} (e : x = s.advanceTo t) (settled : x.Settled) (awake : x.clk.phase ≠ .powerOnReset)
    (fail : in25 n = false) (held : x.released = false) : exec (.provingWindow t 2 ⟨n, aon⟩) s = .next (x.modClk fun c =>
      { c with root := ⟨0, n, false, true⟩, rootRun := 0 }) := by
  refine exec_settled_eq (provingWindow_root e awake) (State.modClk_settled settled _) ?_
  rw [State.rootWindow_fail _ _ fail, held]
  rfl

/-- The root stops (R50). -/
theorem rootMissing_next {t : Nat} (e : x = s.advanceTo t) (settled : x.Settled) (awake : x.clk.phase ≠ .powerOnReset) :
    exec (.sourceMissing t 2) s = .next (x.modClk fun c =>
      { c with root := { c.root with passes := 0, proven := false, missing := true }, rootRun := 0 }) := by
  subst e
  exact exec_settled_eq rfl (State.modClk_settled settled _) (by simp [awake])

/-- LOSS_OF_LOCK of a locked PLL-A outside hold (R53). -/
theorem lossOfLock_next {t aon : Nat} (e : x = s.advanceTo t) (settled : x.Settled) (lock : x.clk.pllALock = true)
    (free : x.clk.hold = false) : exec (.lossOfLock t aon) s = .next (x.loseLock aon) := by
  subst e
  exact exec_settled_eq rfl (State.loseLock_settled settled aon) (by simp [State.iff, lock, free])

/-- Without a proven source at the end of proving the last word is written and ERR_N goes low (R51). -/
theorem noReference_next {t aon : Nat} (e : x = s.advanceTo t) (settled : x.Settled) (proving : x.clk.phase = .proving)
    (xtal : x.clk.xtal.proven = false) (refIn : x.clk.refIn.proven = false) : exec (.noReference t aon) s =
      .next ((x.lastWord 72 aon 0).modClk fun c => { c with phase := .noReference, aonErrN := true }) := by
  subst e
  exact exec_settled_eq rfl (State.modClk_settled (State.lastWord_settled settled _ _ _) _) (by simp [proving, xtal, refIn])

/-! ### The margin flag and the selection -/

/-- VTUNE_MARGIN outside hold: the flag is taken, its rise raised (R54). -/
theorem vtuneMargin_runs {t : Nat} {high : Bool} (e : x = s.advanceTo t) (rel : x.released = true) (free : x.clk.hold = false) :
    s.Runs (.vtuneMargin t high) fun u => u.clk = { x.clk with vtune := high } ∧
      (high = true → x.clk.vtune = false → x.severity 67 ≠ 0 → u.latched 67 = true) := by
  have run : exec (.vtuneMargin t high) s =
      .next ((x.modClk fun c => { c with vtune := high }).iff (high && !x.clk.vtune) (·.raise 67 0xFFFF)).settle := by
    subst e
    refine (act_eq _ _ _ rel).trans ?_
    simp only [State.iff, free]
    rfl
  refine runs_quiet run fun u q => ?_
  by_cases rose : (high && !x.clk.vtune) = true
  · rw [State.iff, if_pos rose] at q
    obtain ⟨q, latched⟩ := State.raise_then _ _ _ _ q
    exact ⟨q.clk, fun _ _ => latched (sourceOk_clk _ _ (by decide) (by decide))⟩
  · rw [State.iff, if_neg rose] at q
    exact ⟨q.clk, fun up low => absurd (by simp [up, low]) rose⟩

/-- What the selection of another source makes of the time's quality: from Locked it is Acquiring, from Holdover expired (R166). -/
def State.requalify (s : State) : State :=
  if s.tim.quality = 3 then s.setQuality 2 else if s.tim.quality = 4 then s.setQuality 5 else s

theorem State.requalify_keeps_latched (s : State) :
    s.requalify.clk = s.clk ∧ ∀ n, n < 608 → s.latched n = true → s.requalify.latched n = true := by
  unfold State.requalify
  split
  · exact s.setQuality_keeps_latched 2
  · split
    · exact s.setQuality_keeps_latched 5
    · exact ⟨rfl, fun _ _ h => h⟩

/-- In hold with auto the selector takes the source that is proven (R57, R58). -/
theorem referenceSelect_runs {t : Nat} (e : x = s.advanceTo t) (rel : x.released = true) (lock : x.clk.pllALock = true)
    (other : x.clk.source = some 1) (proven : x.clk.xtal.proven = true) (hold : x.clk.hold = true)
    (auto : x.rb .clkRefCtrl 0 1 = true) : s.Runs (.referenceSelect t 0) fun u =>
      u.clk = { x.clk with hold := false, source := some 0, sel := some 0, tune := none } ∧
      (x.severity 66 ≠ 0 → u.latched 66 = true) := by
  have run : exec (.referenceSelect t 0) s =
      .next ((x.modClk (·.leaveHold 0)).iffReleased fun y => (y.raise 66 0xFFFF).requalify).settle := by
    subst e
    have source : (s.advanceTo t).clk.src 0 = (s.advanceTo t).clk.xtal := rfl
    show Host.Outcome.next _ = _
    simp only [lock, other, source, proven, hold, auto]
    rfl
  have taken : (x.modClk (·.leaveHold 0)).released = true := rel
  rw [State.iffReleased, if_pos taken] at run
  refine runs_quiet run fun u q => ?_
  obtain ⟨kept, latches⟩ := ((x.modClk (·.leaveHold 0)).raise 66 0xFFFF).requalify_keeps_latched
  have raised := State.raise_quiet (State.Quiet.refl (x.modClk (·.leaveHold 0))) 66 0xFFFF 0 false
  refine ⟨(q.clk.trans kept).trans raised.clk, fun sev => q.latched 66 (by decide) (latches 66 (by decide) ?_)⟩
  exact State.raise_latched _ _ _ _ _ (sourceOk_clk _ _ (by decide) (by decide)) sev

/-! ### The obligation -/

/-- Settles O12: each clause is one command's lemma above. -/
theorem references : Obligations.References := by
  refine ⟨fun s x t src n aon e settled le awake => ?_, fun s x t n aon e settled awake => ?_, fun s x t aon high e settled => ?_⟩
  · refine ⟨fun lo hi seven above below => ?_, provingWindow_fail e le awake, sourceMissing_runs e le awake⟩
    have eighth := Proving.window_eighth seven above below
    exact ⟨_, provingWindow_pass e settled le awake (in25_of_within lo hi), (Clk.passed_src _ _ _).trans eighth, rfl, rfl,
      Clk.passed_endsHold (by rw [eighth])⟩
  · exact ⟨fun lo hi => rootWindow_counts e settled awake (in25_of_within lo hi),
      fun beyond => rootWindow_restarts e settled awake (in25_of_beyond beyond),
      fun beyond => rootWindow_loses e settled awake (in25_of_beyond beyond), rootMissing_next e settled awake⟩
  · refine ⟨fun proving xtal refIn room => ?_, fun lock free room => ?_, vtuneMargin_runs e, referenceSelect_runs e⟩
    · exact ⟨_, noReference_next e settled proving xtal refIn, rfl, State.lastWord_length room, rfl, rfl⟩
    · exact ⟨_, lossOfLock_next e settled lock free, x.loseLock_phase aon, rfl, rfl, rfl, rfl, rfl, rfl, State.lastWord_length room,
        rfl, rfl, rfl, rfl, rfl⟩

end Sys2Proof.Machine
end

section
/-! PROOFS. The outputs of PLL-B (R73, R75, R77, R80) and the clock gates (R66). -/

namespace Sys2Proof.Machine

variable {s x u : State}

/-! ### An output's registers and its state -/

/-- No register of an output of PLL-B is one of the Watch's. -/
theorem pllBOut_dark {j : Nat} (lt : j < 3) : Reg.pllBOut.addr j < 0x26040 := by
  simp only [Reg.addr, Reg.row]
  omega

theorem pllBTarget_dark {j : Nat} (lt : j < 3) : Reg.pllBTarget.addr j < 0x26040 := by
  simp only [Reg.addr, Reg.row]
  omega

/-- The outputs are the clocks'. -/
theorem State.out_congr (h : u.clk = s.clk) (k : Nat) : u.out k = s.out k := by
  unfold State.out
  rw [h]

theorem State.startOut_running (s : State) (j : Nat) : ((s.startOut j).out j).running = true :=
  congrArg PllOut.running (State.out_modOut_self _ _ _)

theorem State.startOut_phase (s : State) (j : Nat) : ((s.startOut j).out j).phase = (s.out j).phase := by
  unfold State.startOut
  dsimp only
  rw [State.out_modOut_self]

theorem State.startOut_others (s : State) {j k : Nat} (ne : k ≠ j) : (s.startOut j).out k = s.out k := State.out_modOut_ne _ ne _

/-- The word that a write of v leaves in PLL_B_OUT while enable reads 0: its divider is held to 8 to 4,000 (R80). -/
def pllOutWord (v : Word) : Word := wfld (v &&& 0xFCFF0FFF) 11 0 (min 4000 (max 8 (fld v 11 0)))

/-! What a write of PLL_B_OUT does: while the enable field reads 1 it changes that alone (R80). -/

theorem State.writePllOut_on {j : Nat} {v : Word} (on : s.rb .pllBOut j 31 = true) (stay : bit v 31 = true) :
    s.writePllOut j v = s := by
  simp [State.writePllOut, on, stay]

theorem State.writePllOut_stop {j : Nat} {v : Word} (on : s.rb .pllBOut j 31 = true) (clear : bit v 31 = false) :
    s.writePllOut j v = (s.setRb .pllBOut j 31 false).modOut j fun o => { o with running := false } := by
  simp [State.writePllOut, on, clear]

/-- A word that does not enable the output, or enables it without a lock, is stored (R80; log entry 110). -/
theorem State.writePllOut_store {j : Nat} {v : Word} (off : s.rb .pllBOut j 31 = false) (idle : bit v 31 = false ∨ s.clk.pllBLock = false) :
    s.writePllOut j v = s.setReg .pllBOut j (pllOutWord v) := by
  have idle : (bit v 31 && s.clk.pllBLock) = false := by rcases idle with h | h <;> simp [h]
  unfold State.writePllOut
  rw [if_neg (by simp [off])]
  exact if_neg (by simp [State.setReg, idle])

theorem State.writePllOut_start {j : Nat} {v : Word} (off : s.rb .pllBOut j 31 = false) (enable : bit v 31 = true)
    (lock : s.clk.pllBLock = true) : s.writePllOut j v = (s.setReg .pllBOut j (pllOutWord v)).startOut j := by
  unfold State.writePllOut
  rw [if_neg (by simp [off])]
  exact if_pos (by simp [State.setReg, enable, lock])

/-! ### The host's writes -/

/-- PLL_B_ENABLE is the write of a word with enable 1 (R73). -/
theorem pllBEnable_next {t j : Nat} {v : Word} {y : State} (e : x = s.advanceTo t) (up : x.up = true) (lt : j < 3)
    (enable : bit v 31 = true) (made : x.writePllOut j v = y) (settled : y.Settled) : exec (.pllBEnable t j v) s = .next y :=
  act_next e up (by simpa [State.iff, up, lt, enable] using made) settled

/-- PLL_B_DISABLE is the write of a word with enable 0 (R77). -/
theorem pllBDisable_next {t j : Nat} {v : Word} {y : State} (e : x = s.advanceTo t) (up : x.up = true) (lt : j < 3)
    (clear : bit v 31 = false) (made : x.writePllOut j v = y) (settled : y.Settled) : exec (.pllBDisable t j v) s = .next y :=
  act_next e up (by simpa [State.iff, up, lt, clear] using made) settled

theorem State.setPllOut_settled (h : s.Settled) {j : Nat} (lt : j < 3) (v : Word) : (s.setReg .pllBOut j v).Settled :=
  h.setReg _ _ _ _ (.inl (pllBOut_dark lt))

/-- An output that is enabled while PLL-B is locked runs (R73, R80). -/
theorem pllBEnable_runs {t j : Nat} {v : Word} (e : x = s.advanceTo t) (settled : x.Settled) (up : x.up = true) (lt : j < 3)
    (enable : bit v 31 = true) (off : x.rb .pllBOut j 31 = false) (lock : x.clk.pllBLock = true) :
    s.Runs (.pllBEnable t j v) fun u => u.reg .pllBOut j = pllOutWord v ∧ (u.out j).running = true ∧
      (∀ k, k ≠ j → u.out k = x.out k) ∧ u.mode = x.mode ∧ u.tim = x.tim ∧ u.host = x.host :=
  ⟨_, pllBEnable_next e up lt enable (State.writePllOut_start off enable lock)
      (State.modOut_settled (State.setPllOut_settled settled lt _) _ _),
    State.reg_setReg_self _ _ _ _ _, State.startOut_running _ _, fun _ ne => State.startOut_others _ ne, rfl, rfl, rfl⟩

/-- The target is replaced, and the Bell's steps of this core cycle come after it (R75). -/
theorem pllBTargetWrite_next {t j : Nat} {v : Word} (e : x = s.advanceTo t) (settled : x.Settled) (up : x.up = true) (lt : j < 3) :
    exec (.pllBTargetWrite t j v) s = .next (x.setReg .pllBTarget j
      (if (x.out j).stepCyc = x.clk.now / 2 + 1 then (x.out j).steps.foldl stepTarget v else v)) :=
  act_next e up (by simp [State.iff, up, lt, State.writePllTarget]) (settled.setReg _ _ _ _ (.inl (pllBTarget_dark lt)))

/-! ### Loss and return of the lock of PLL-B -/

/-- A pass that changes one output at a time leaves an output whose turn does not come. -/
theorem State.forAll_out_away {f : Nat → State → State} (others : ∀ i k y, k ≠ i → (f i y).out k = y.out k) {j : Nat} {l : List Nat}
    (away : j ∉ l) (s : State) : (s.forAll l f).out j = s.out j := by
  induction l generalizing s with
  | nil => rfl
  | cons a r ih =>
    obtain ⟨ne, away⟩ := not_or.mp (mt List.mem_cons.mpr away)
    exact (ih away (f a s)).trans (others a j s ne)

/-- In a pass over the outputs that changes one output at a time and no register, an output is left as its own turn makes it. -/
theorem State.forAll_out {f : Nat → State → State} (others : ∀ i k y, k ≠ i → (f i y).out k = y.out k)
    (regs : ∀ i y, (f i y).regs = y.regs) {j : Nat} {l : List Nat} (once : l.Nodup) (mem : j ∈ l) (s : State) :
    ∃ y, (s.forAll l f).out j = (f j y).out j ∧ y.out j = s.out j ∧ y.regs = s.regs := by
  induction l generalizing s with
  | nil => exact absurd mem List.not_mem_nil
  | cons a r ih =>
    obtain ⟨fresh, once⟩ := List.nodup_cons.mp once
    by_cases here : j = a
    · subst here
      exact ⟨s, State.forAll_out_away others fresh (f j s), rfl, rfl⟩
    · obtain ⟨y, at_, out, same⟩ := ih once ((List.mem_cons.mp mem).resolve_left here) (f a s)
      exact ⟨y, at_, out.trans (others a j s here), same.trans (regs a s)⟩

/-- The outputs stop low (R77). -/
def State.stopOuts (s : State) : State := s.forAll (List.range 3) fun j s => s.modOut j fun o => { o with running := false }

theorem State.stopOuts_running (s : State) {k : Nat} (lt : k < 3) : (s.stopOuts.out k).running = false := by
  obtain ⟨y, at_, -, -⟩ := State.forAll_out (f := fun j s => s.modOut j fun o => { o with running := false })
    (fun _ _ _ ne => State.out_modOut_ne _ ne _) (fun _ _ => rfl) List.nodup_range (List.mem_range.mpr lt) s
  exact (congrArg PllOut.running at_).trans (congrArg PllOut.running (State.out_modOut_self y k _))

theorem State.stopOuts_lock (s : State) : s.stopOuts.clk.pllBLock = s.clk.pllBLock := State.forAll_frame (·.clk.pllBLock) _ _ _ fun _ _ => rfl
theorem State.stopOuts_regs (s : State) : s.stopOuts.regs = s.regs := State.forAll_frame State.regs _ _ _ fun _ _ => rfl

/-- A raise for each of some indices, or one without an index. -/
def State.raiseFor (s : State) (src : Nat) (on : List Nat) : State :=
  if on.isEmpty then s.raise src 0xFFFF else s.forAll on fun j s => s.raise src j

/-- However many indices there are, the source is latched and what a raise leaves alone is as before. -/
theorem State.raiseFor_then {src : Nat} {on : List Nat} (q : (s.raiseFor src on).Quiet u) :
    s.Quiet u ∧ (sourceOk s.var src = true → s.severity src ≠ 0 → u.latched src = true) := by
  cases on with
  | nil => exact State.raise_then src 0xFFFF 0 false q
  | cons a r =>
    have later : (s.raise src a).Quiet ((s.raise src a).forAll r fun j s => s.raise src j) :=
      State.forAll_quiet (State.Quiet.refl _) r _ fun j _ h => State.raise_quiet h src j 0 false
    exact State.raise_then src a 0 false (later.trans q)

/-- PLL-B loses its lock: every output stops, and the loss is raised (R77). -/
theorem pllBUnlock_runs {t : Nat} (e : x = s.advanceTo t) (up : x.up = true) (lock : x.clk.pllBLock = true) :
    s.Runs (.pllBUnlock t) fun u => u.clk.pllBLock = false ∧ (∀ k, k < 3 → (u.out k).running = false) ∧
      (x.severity 68 ≠ 0 → u.latched 68 = true) := by
  have rel := State.released_of_up up
  have run : exec (.pllBUnlock t) s = .next (((x.modClk fun c => { c with pllBLock := false }).stopOuts.raiseFor 68
      ((List.range 3).filter fun j => x.rb .pllBOut j 31))).settle := by
    subst e
    refine (act_eq _ _ _ rel).trans ?_
    rw [State.iff, if_pos (by simp [rel, lock])]
    rfl
  refine runs_quiet run fun u q => ?_
  obtain ⟨q, latched⟩ := State.raiseFor_then q
  refine ⟨?_, fun k lt => ?_, fun sev => latched (sourceOk_clk _ _ (by decide) (by decide)) ?_⟩
  · rw [q.clk, State.stopOuts_lock]
    rfl
  · rw [State.out_congr q.clk]
    exact State.stopOuts_running _ lt
  · rwa [State.severity_congr (State.stopOuts_regs _)]

/-- An enabled output starts again at its target phase (R77). -/
def State.restartOut (s : State) (j : Nat) : State :=
  s.iff (s.rb .pllBOut j 31) fun s => (s.modOut j fun o => { o with phase := sx 32 (s.reg .pllBTarget j).toNat }).startOut j

theorem State.restartOut_others (s : State) {j k : Nat} (ne : k ≠ j) : (s.restartOut j).out k = s.out k :=
  State.iff_frame (·.out k) _ _ _ fun _ => (State.startOut_others _ ne).trans (State.out_modOut_ne _ ne _)

theorem State.restartOut_regs (s : State) (j : Nat) : (s.restartOut j).regs = s.regs := State.iff_frame State.regs _ _ _ fun _ => rfl

theorem State.restartOut_lock (s : State) (j : Nat) : (s.restartOut j).clk.pllBLock = s.clk.pllBLock :=
  State.iff_frame (·.clk.pllBLock) _ _ _ fun _ => rfl

theorem State.restartOut_settled (h : s.Settled) (j : Nat) : (s.restartOut j).Settled :=
  State.iff_settled h _ _ fun _ still => State.modOut_settled (State.modOut_settled still _ _) _ _

theorem State.restartOut_self {j : Nat} (on : s.rb .pllBOut j 31 = true) : ((s.restartOut j).out j).running = true ∧
    ((s.restartOut j).out j).phase = sx 32 (s.reg .pllBTarget j).toNat := by
  unfold State.restartOut
  rw [State.iff, if_pos on]
  refine ⟨State.startOut_running _ _, (State.startOut_phase _ _).trans ?_⟩
  exact congrArg PllOut.phase (State.out_modOut_self s j _)

/-- PLL-B has its lock again: an enabled output restarts (R77). -/
theorem pllBRelock_runs {t j : Nat} (e : x = s.advanceTo t) (settled : x.Settled) (up : x.up = true) (lt : j < 3)
    (unlocked : x.clk.pllBLock = false) (on : x.rb .pllBOut j 31 = true) : s.Runs (.pllBRelock t) fun u =>
      u.clk.pllBLock = true ∧ (u.out j).running = true ∧ (u.out j).phase = sx 32 (x.reg .pllBTarget j).toNat := by
  have rel := State.released_of_up up
  have made : (x.iff (x.released && !x.clk.pllBLock) fun s =>
      (s.modClk fun c => { c with pllBLock := true }).forAll (List.range 3) fun j s => s.restartOut j) =
      (x.modClk fun c => { c with pllBLock := true }).forAll (List.range 3) fun j s => s.restartOut j :=
    if_pos (by simp [rel, unlocked])
  have still := State.forAll_settled (State.modClk_settled settled fun c => { c with pllBLock := true }) (List.range 3)
    (fun j s => s.restartOut j) fun j _ h => State.restartOut_settled h j
  obtain ⟨y, at_, -, regs⟩ := State.forAll_out (f := fun j s => s.restartOut j) (fun _ _ y ne => y.restartOut_others ne)
    (fun _ y => y.restartOut_regs _) List.nodup_range (List.mem_range.mpr lt) (x.modClk fun c => { c with pllBLock := true })
  obtain ⟨running, phase⟩ := State.restartOut_self ((State.rb_congr regs .pllBOut j 31).trans on)
  refine ⟨_, act_next e up made still, State.forAll_frame (·.clk.pllBLock) _ _ _ fun j y => y.restartOut_lock j, ?_, ?_⟩
  · rw [at_]
    exact running
  · rw [at_, phase, State.reg_congr regs]
    rfl

/-! ### Clock gates -/

/-- A gate that is not forced open, whose block has no work, shuts 16 cycles after the last request (R66, log entry 19). -/
theorem gateClose_shuts {t b : Nat} (e : x = s.advanceTo t) (settled : x.Settled) (up : x.up = true) (lt : b < 8)
    (unforced : x.rb .clkGateForce 0 b = false) (idle : x.blockBusy b = false)
    (quiet : nget x.clk.idleFrom b + 16 * gateClock b ≤ x.clk.now) :
    exec (.gateClose t b) s = .next (x.modClk fun c => { c with gateShut := nset c.gateShut b true }) :=
  act_next e up (if_pos (by simp [lt, unforced, idle, quiet])) (State.modClk_settled settled _)

/-- Else it stays as it is (R66). -/
theorem gateClose_stays {t b : Nat} (e : x = s.advanceTo t) (settled : x.Settled) (up : x.up = true)
    (needed : x.rb .clkGateForce 0 b = true ∨ x.blockBusy b = true ∨ x.clk.now < nget x.clk.idleFrom b + 16 * gateClock b) :
    exec (.gateClose t b) s = .next x := by
  refine act_next e up (if_neg ?_) settled
  rcases needed with h | h | h
  · simp [h]
  · simp [h]
  · simp [Nat.not_le.mpr h]

/-! ### The obligation -/

/-- Settles O14: each clause is one command's lemma above. -/
theorem pllBAndGates : Obligations.PllBAndGates := by
  intro s x t j b v e settled up lt
  have stored := State.setPllOut_settled settled lt (pllOutWord v)
  have stopped := State.modOut_settled (State.setRb_settled settled .pllBOut j 31 false (.inl (pllBOut_dark lt))) j
    fun o => { o with running := false }
  exact ⟨pllBEnable_runs e settled up lt,
    fun enable off unlocked => pllBEnable_next e up lt enable (State.writePllOut_store off (.inr unlocked)) stored,
    fun enable on => pllBEnable_next e up lt enable (State.writePllOut_on on enable) settled,
    fun clear on => pllBDisable_next e up lt clear (State.writePllOut_stop on clear) stopped,
    fun clear off => pllBDisable_next e up lt clear (State.writePllOut_store off (.inl clear)) stored,
    pllBTargetWrite_next e settled up lt, pllBUnlock_runs e up, pllBRelock_runs e settled up lt,
    gateClose_shuts e settled up, gateClose_stays e settled up⟩

end Sys2Proof.Machine
end

section
/-! PROOFS. The Bell's table: firing, cancelling, and the phase steps of PLL-B (R75, R181 to R189). -/

namespace Sys2Proof.Machine

variable {s x : State}

/-! ### Firing -/

/-- The longest lateness so far, in the 16 bits of its field (R188). -/
def State.bellLateness (s : State) (e : BellE) : Nat := max (s.rf .belStatus 0 31 16) (min 0xFFFF (s.clk.now - e.lc))

theorem fld_lt (w : Word) (hi lo : Nat) : fld w hi lo < 2 ^ (hi + 1 - lo) := Nat.mod_lt _ (by positivity)

theorem State.bellLateness_lt (s : State) (e : BellE) : s.bellLateness e < 2 ^ 16 := by
  have before : s.rf .belStatus 0 31 16 < 2 ^ 16 := fld_lt _ 31 16
  unfold State.bellLateness
  omega

/-- The state after the firing of e, in front of `rest` (R185, R188). -/
def State.fireBell (s : State) (e : BellE) (rest : List BellE) : State :=
  (s.setRf .belStatus 0 31 16 (s.bellLateness e)).modBell fun b =>
    { b with entries := if e.rep then insBy bellBefore (s.bellNext e) rest else rest,
             fired := b.fired ++ [⟨e, s.clk.now, bellArrive e.action s.clk.now⟩], lastFire := some s.clk.now }

/-- The entry in front fires when its count has come and none has fired in this tick (R185, R188). -/
theorem State.bellFire_due {e : BellE} {rest : List BellE} (up : s.up = true) (front : s.bell.entries = e :: rest)
    (due : e.lc ≤ s.clk.now) (first : s.bell.lastFire ≠ some s.clk.now) : s.bellFire = s.fireBell e rest := by
  unfold State.bellFire
  rw [front]
  exact if_pos (by simp [up, due, first])

/-- Before the count of the entry in front nothing fires (R185). -/
theorem State.bellFire_early {e : BellE} {rest : List BellE} (front : s.bell.entries = e :: rest) (early : s.clk.now < e.lc) :
    s.bellFire = s := by
  unfold State.bellFire
  rw [front]
  exact if_neg (by simp [Nat.not_le.mpr early])

theorem State.bellFire_settled (h : s.Settled) : s.bellFire.Settled := by
  unfold State.bellFire
  split
  · dsimp only
    split
    · exact State.modBell_settled (State.setRf_settled h .belStatus _ _ _ _ (.inl (by decide))) _
    · exact h
  · exact h

/-- BELL_FIRE of an entry that is due (R185, R188). -/
theorem bellFire_runs {t : Nat} {e : BellE} {rest : List BellE} (ex : x = s.advanceTo t) (settled : x.Settled) (up : x.up = true)
    (front : x.bell.entries = e :: rest) (due : e.lc ≤ x.clk.now) (first : x.bell.lastFire ≠ some x.clk.now) :
    s.Runs (.bellFire t) fun u => u.bell.fired = x.bell.fired ++ [⟨e, x.clk.now, bellArrive e.action x.clk.now⟩] ∧
      u.bell.lastFire = some x.clk.now ∧ (e.rep = false → u.bell.entries = rest) ∧
      (e.rep = true → e.net = false → u.bell.entries = insBy bellBefore { e with lc := e.lc + e.period, lateOk := true } rest) ∧
      u.rf .belStatus 0 31 16 = x.bellLateness e ∧ u.mode = x.mode ∧ u.tim = x.tim := by
  refine ⟨_, act_next ex up rfl (State.bellFire_settled settled), ?_⟩
  rw [State.bellFire_due up front due first]
  refine ⟨rfl, rfl, fun once => ?_, fun again local_ => ?_, ?_, rfl, rfl⟩
  · exact if_neg (by simp [once])
  · have next : x.bellNext e = { e with lc := e.lc + e.period, lateOk := true } := by simp [State.bellNext, local_]
    rw [← next]
    exact if_pos again
  · exact (State.rf_setRf_self x .belStatus 0 31 16 _ (by decide) (by decide)).trans (Nat.mod_eq_of_lt (x.bellLateness_lt e))

/-! ### Cancelling -/

/-- A descriptor whose turn it is runs its row. -/
theorem State.onTurn_of_turn {role op i k : Nat} {d : Desc} (turn : s.turn role op = some (i, k, d))
    (f : Nat → Nat → Desc → State → State) : s.onTurn role op f = f i k d s := by
  unfold State.onTurn
  rw [turn]

theorem State.ends_settled (h : s.Settled) (i k status value len : Nat) : (s.ends i k status value len).Settled :=
  (State.ends_hostOnly (State.HostOnly.refl s) i k status value len).settled h

/-- BELL_CANCEL: the entry in front fires first if it bears the cookie; then all that bear it leave (R183, R189). -/
theorem bellCancel_next {t i k : Nat} {d : Desc} {y : State} (ex : x = s.advanceTo t) (settled : x.Settled) (up : x.up = true)
    (turn : x.turn 0 0x11 = some (i, k, d))
    (fired : y = if (x.bell.entries.head?.map fun e => e.cookie) = some d.arg then x.bellFire else x) :
    exec (.bellCancel t) s = .next ((y.modBell fun b => { b with entries := b.entries.filter fun e => e.cookie != d.arg }).ends i k 0
      (y.bell.entries.filter fun e => e.cookie = d.arg).length) := by
  have front : x.iff ((x.bell.entries.head?.map fun e => e.cookie) = some d.arg) State.bellFire = y := by
    rw [fired, State.iff]
    simp only [decide_eq_true_eq]
  have still : y.Settled := by
    rw [← front]
    exact State.iff_settled settled _ _ fun _ h => State.bellFire_settled h
  refine act_next ex up ?_ (State.ends_settled (State.modBell_settled still _) i k 0 _ 0)
  rw [State.onTurn_of_turn turn, front]

/-! ### Phase steps -/

/-- The oldest fired action with a code that has arrived is taken by its unit. -/
theorem State.onFired_of_found {action : Nat} {g : Fired} (up : s.up = true)
    (found : s.bell.fired.find? (fun f => f.e.action = action && f.arrive ≤ s.clk.now) = some g) (f : Fired → State → State) :
    ∃ b, s.onFired action none f = f g (s.modBell b) := by
  have mine : (fun f : Fired => f.e.action = action && f.arrive ≤ s.clk.now && ((none : Option Nat).isNone || none = some f.e.unit)) =
      fun f => f.e.action = action && f.arrive ≤ s.clk.now := by
    funext f
    simp
  unfold State.onFired
  dsimp only
  rw [mine, found]
  exact ⟨_, if_pos up⟩

/-- A phase step changes the target of its output alone among the registers (R75). -/
theorem phaseStep_runs {t j : Nat} {g : Fired} (ex : x = s.advanceTo t) (settled : x.Settled) (up : x.up = true)
    (found : x.bell.fired.find? (fun f => f.e.action = 0x06 && f.arrive ≤ x.clk.now) = some g) (at_ : g.e.index = j) (lt : j < 3) :
    s.Runs (.phaseStep t) fun u => u.reg .pllBTarget j = stepTarget (x.reg .pllBTarget j) (sx 32 g.e.arg) ∧
      (∀ o, o ≠ Reg.pllBTarget.addr j → tget regReset u.regs o = tget regReset x.regs o) ∧ u.mode = x.mode ∧ u.tim = x.tim := by
  subst at_
  obtain ⟨b, made⟩ := State.onFired_of_found up found fun f s => s.stepPllTarget f.e.index (sx 32 f.e.arg)
  have still := State.modOut_settled ((State.modBell_settled settled b).setReg .pllBTarget g.e.index 0
    (stepTarget ((x.modBell b).reg .pllBTarget g.e.index) (sx 32 g.e.arg)) (.inl (pllBTarget_dark lt))) g.e.index
  exact ⟨_, act_next ex up made (still _), State.reg_setReg_self _ _ _ _ _, fun o ne => tget_tput_ne _ _ _ ne, rfl, rfl⟩

/-! ### The obligation -/

/-- Settles O27: each clause is one command's lemma above. -/
theorem bellTable : Obligations.BellTable := by
  intro s x y t ex settled up
  exact ⟨fun e rest => bellFire_runs ex settled up,
    fun e rest front early => act_next ex up (State.bellFire_early front early) settled,
    fun i k d => bellCancel_next ex settled up,
    fun g j found at_ lt => phaseStep_runs ex settled up (by simpa using found) at_ lt⟩

end Sys2Proof.Machine
end

section
/-! PROOFS. What the OTP holds: no step undoes it (R93, R95, R98). -/

namespace Sys2Proof.Machine

variable {s : State}

/-- With no command waiting a step is the idle one. -/
theorem step_of_empty (empty : s.pending = []) : step s = .next s.idle := by
  unfold step
  rw [empty]

/-- A waiting command runs with the rest of the queue. -/
theorem step_of_front {c : Instr} {rest : List Instr} (front : s.pending = c :: rest) : step s = exec c { s with pending := rest } := by
  unfold step
  rw [front]

/-- Settles O6: that fuses only burn is among what time's passing and every command keep. -/
theorem fusesOnlyBurn : Obligations.FusesOnlyBurn := by
  intro s t ran
  cases queue : s.pending with
  | nil =>
    cases (step_of_empty queue).symm.trans ran
    exact (State.idle_keeps (State.Keeps.refl s)).fuses
  | cons c rest =>
    obtain ⟨u, completed, kept⟩ := exec_keeps c { s with pending := rest }
    cases (completed.symm.trans (step_of_front queue).symm).trans ran
    exact kept.fuses

end Sys2Proof.Machine
end

section
/-! PROOFS. Resets while the root is released, thermal shutdown, the host link (R72, R81 to R85, R91, R105, R128 to R130, R499). -/

namespace Sys2Proof.Machine

variable {s x y : State}

/-! ### Device resets with PLL-A locked (R82, R84, R105) -/

theorem State.softReset_settled (s : State) (n : Nat) : (s.softReset n).Settled := State.enterBoot_settled (s.deviceReset_settled n)

/-- A command that resets the device: the cause bit is set, modes, rings and legs are at their reset state, the boot ROM starts over. -/
theorem softReset_runs {c : Instr} {n : Nat} (run : exec c s = .next (x.softReset n).settle) (lt : n < 32) : s.Runs c fun u =>
    u.clk.phase = .booting ∧ u.clk.now = 0 ∧ u.rb .sysResetCause 0 n = true ∧ u.mode = Mode.reset ∧ u.host = HostIf.reset ∧
      u.leg = Leg.reset := by
  have cause : (x.softReset n).rb .sysResetCause 0 n = true := (State.enterBoot_cause _ n).trans (x.deviceReset_cause lt)
  exact runs_settled run (x.softReset_settled n)
    ⟨rfl, rfl, cause, x.deviceReset_mode n, x.deviceReset_host n, x.deviceReset_leg n⟩

/-- While the root is released a command's effect is on the state that time has reached, and its step ends there. -/
theorem act_settles {c : Instr} {t : Nat} {f : State → State} (run : exec c s = act t s f) (e : x = s.advanceTo t)
    (rel : x.released = true) : exec c s = .next (f x).settle := by
  subst e
  rw [run, act_eq t s f rel]

/-- A command that acts only while the root is released does so then. -/
theorem iffReleased_settles {c : Instr} {t : Nat} {f : State → State} (run : exec c s = act t s (·.iffReleased f))
    (e : x = s.advanceTo t) (rel : x.released = true) : exec c s = .next (f x).settle := by
  rw [act_settles run e rel, State.iffReleased, if_pos rel]

/-- A write to SYS_RESET with its key and its bit resets the device (R105). -/
theorem State.writeSysReset_keyed {v : Word} (key : fld v 31 16 = 0x5A17) (go : bit v 0 = true) :
    s.writeSysReset v = s.softReset 3 := by
  simp [State.writeSysReset, key, go]

/-- Any other write to SYS_RESET is ignored (R105). -/
theorem State.writeSysReset_ignored {v : Word} (other : fld v 31 16 ≠ 0x5A17 ∨ bit v 0 = false) : s.writeSysReset v = s := by
  rcases other with key | go
  · simp [State.writeSysReset, key]
  · simp [State.writeSysReset, go]

/-! ### Thermal shutdown and restart (R72, R499) -/

/-- Thermal shutdown holds the device reset, with THM_SHDN_N low and the lock of PLL-A as it is. -/
theorem thermalShutdown_runs {t aon : Nat} (e : x = s.advanceTo t) (powered : x.clk.phase ≠ .powerOnReset)
    (cool : x.clk.phase ≠ .thermalShutdown) : s.Runs (.thermalShutdown t aon) fun u =>
      u.clk.phase = .thermalShutdown ∧ u.clk.shdn = true ∧ u.clk.aonErrN = true ∧ u.clk.pllALock = x.clk.pllALock ∧
      u.mode = Mode.reset ∧ u.host = HostIf.reset ∧ u.leg = Leg.reset := by
  have held := State.modClk_settled ((x.lastWord 548 aon 0).resetLogic_settled retained_dark) fun c =>
    { c with phase := .thermalShutdown, pllALock := x.clk.pllALock, shdn := true, aonErrN := true }
  have acts : (x.clk.phase != .powerOnReset && x.clk.phase != .thermalShutdown) = true := by simp [powered, cool]
  have ran : exec (.thermalShutdown t aon) s = _ := exec_settled_eq rfl held (by subst e; exact if_pos acts)
  exact ⟨_, ran, rfl, rfl, rfl, rfl, rfl, rfl, rfl⟩

@[simp] theorem State.deviceReset_clk (s : State) (n : Nat) : (s.deviceReset n).clk = s.clk.restart :=
  State.initRetired_frame State.clk (fun _ _ _ => rfl) _

/-- After the device reset that ends a thermal shutdown the sequence goes on from the state of PLL-A (R72, R499). -/
def State.resume (s : State) : State :=
  if s.clk.lockDead then s.modClk fun c => { c with phase := .lockFailed }
  else if s.clk.pllALock && 2 ≤ s.clk.rootRun then s.enterBoot
  else if s.clk.pllALock then s.modClk fun c => { c with phase := .locked }
  else s.modClk fun c => { c with phase := .locking }

theorem State.resume_settled (h : s.Settled) : s.resume.Settled := by
  unfold State.resume
  split
  · exact State.modClk_settled h _
  split
  · exact State.enterBoot_settled h
  split
  · exact State.modClk_settled h _
  · exact State.modClk_settled h _

/-- Only the boot ROM's start is more than a change of the clocks, and it keeps as much. -/
theorem State.resume_frame {α : Type} (g : State → α) (clocks : ∀ f : Clk → Clk, g (s.modClk f) = g s) (boot : g s.enterBoot = g s) :
    g s.resume = g s := by
  unfold State.resume
  split
  · exact clocks _
  split
  · exact boot
  split
  · exact clocks _
  · exact clocks _

theorem State.resume_clk (s : State) (zero : s.clk.now = 0) : s.resume.clk.now = 0 ∧ s.resume.clk.shdn = s.clk.shdn ∧
    s.resume.clk.phase = if s.clk.lockDead then .lockFailed
      else if s.clk.pllALock then (if 2 ≤ s.clk.rootRun then .booting else .locked) else .locking := by
  unfold State.resume
  split
  · exact ⟨zero, rfl, rfl⟩
  cases s.clk.pllALock with
  | false => exact ⟨zero, rfl, rfl⟩
  | true =>
    by_cases windows : 2 ≤ s.clk.rootRun
    · simp [windows]
    · simp [windows, zero, State.modClk]

/-- The restart after a thermal shutdown (R72, R499). -/
theorem thermalRestart_runs {t : Nat} (e : x = s.advanceTo t) (hot : x.clk.phase = .thermalShutdown) :
    s.Runs (.thermalRestart t) fun u =>
      u.rb .sysResetCause 0 2 = true ∧ u.mode = Mode.reset ∧ u.clk.shdn = false ∧
      u.clk.phase = (if x.clk.lockDead then .lockFailed
        else if x.clk.pllALock then (if 2 ≤ x.clk.rootRun then .booting else .locked) else .locking) ∧ u.clk.now = 0 := by
  have still := State.resume_settled (x.deviceReset_settled 2)
  have ran : exec (.thermalRestart t) s = _ := exec_settled_eq rfl still (by subst e; exact if_pos (decide_eq_true hot))
  have cause : (x.deviceReset 2).resume.rb .sysResetCause 0 2 = (x.deviceReset 2).rb .sysResetCause 0 2 :=
    State.resume_frame (·.rb .sysResetCause 0 2) (fun _ => rfl) (State.enterBoot_cause _ 2)
  have mode : (x.deviceReset 2).resume.mode = (x.deviceReset 2).mode := State.resume_frame State.mode (fun _ => rfl) rfl
  obtain ⟨now, shdn, phase⟩ := (x.deviceReset 2).resume_clk (by simp [Clk.restart])
  rw [State.deviceReset_clk] at shdn phase
  exact ⟨_, ran, cause.trans (x.deviceReset_cause (by decide)), mode.trans (x.deviceReset_mode 2), shdn, phase, now⟩

/-! ### The host link (R83, R85, R91, R128 to R130) -/

/-- Entries that are kept read as before. -/
theorem tget_filter_kept {α : Type} (d : Nat → α) (l : Tbl α) {keep : Nat → Bool} {k : Nat} (h : keep k = true) :
    tget d (l.filter fun e => keep e.1) k = tget d l k := by
  induction l with
  | nil => rfl
  | cons e r ih =>
    obtain ⟨a, v⟩ := e
    by_cases here : a = k
    · subst here
      simp [h, tget]
    · by_cases stays : keep a = true
      · simp [stays, tget, here, ih]
      · simp [stays, tget, here, ih]

/-- Entries that are not kept read as their default. -/
theorem tget_filter_dropped {α : Type} (d : Nat → α) (l : Tbl α) {keep : Nat → Bool} {k : Nat} (h : keep k = false) :
    tget d (l.filter fun e => keep e.1) k = d k := by
  induction l with
  | nil => rfl
  | cons e r ih =>
    obtain ⟨a, v⟩ := e
    by_cases stays : keep a = true
    · have apart : a ≠ k := fun same => by simp [← same, stays] at h
      simp [stays, tget, apart, ih]
    · simp [stays, ih]

/-- A host-link reset before its raise: the endpoint, the rings and the DQ registers are at reset, the cause bit is set (R83). -/
def State.dropLink (s : State) : State :=
  let s := { s.dropActs with host := HostIf.reset }
  { s with regs := s.regs.filter fun e => !dqWindow e.1 }.setRb .sysResetCause 0 5 true

theorem State.dropLink_kept (s : State) {off : Nat} (outside : dqWindow off = false) (other : off ≠ Reg.sysResetCause.addr) :
    tget regReset s.dropLink.regs off = tget regReset s.regs off :=
  (tget_tput_ne _ _ _ other).trans (tget_filter_kept (keep := fun off => !dqWindow off) _ _ (by simp [outside]))

theorem State.dropLink_dq (s : State) {off : Nat} (inside : dqWindow off = true) : tget regReset s.dropLink.regs off = regReset off := by
  have other : off ≠ Reg.sysResetCause.addr := fun same => by subst same; exact absurd inside (by decide)
  exact (tget_tput_ne _ _ _ other).trans (tget_filter_dropped (keep := fun off => !dqWindow off) _ _ (by simp [inside]))

theorem State.dropLink_severity (s : State) : s.dropLink.severity 32 = s.severity 32 :=
  congrArg (fun w => min 5 (fld w 2 0)) (s.dropLink_kept (off := Reg.wchCfg.addr 32) (by decide) (by decide))

/-- Every variant has the source of the host link. -/
theorem sourceOk_hostLink (v : Variant) : sourceOk v 32 = true := by cases v <;> decide

/-- A raise writes no register of the DQ window. -/
theorem raise_spares_dq {off : Nat} (inside : dqWindow off = true) : eventOff off = false ∧ raiseOff off = false := by
  simp only [dqWindow, Bool.and_eq_true, decide_eq_true_eq] at inside
  simp [eventOff, raiseOff, watchOff, Reg.addr, Reg.row]
  omega

/-- A host-link reset (R83). -/
theorem hostLinkReset_runs {t : Nat} (e : x = s.advanceTo t) (rel : x.released = true) : s.Runs (.hostLinkReset t) fun u =>
    u.rb .sysResetCause 0 5 = true ∧ (x.severity 32 ≠ 0 → u.latched 32 = true) ∧
    (∀ r i j, dqWindow (Reg.addr r i j) = true → u.reg r i j = regReset (Reg.addr r i j)) ∧
    u.clk = x.clk ∧ u.tim = x.tim ∧ u.bell = x.bell := by
  have run : exec (.hostLinkReset t) s = .next (x.dropLink.raise 32 0xFFFF).settle :=
    iffReleased_settles (f := fun z => z.dropLink.raise 32 0xFFFF) rfl e rel
  refine runs_quiet run fun u calm => ?_
  obtain ⟨q, latches⟩ := State.raise_then 32 0xFFFF 0 false calm
  refine ⟨?_, fun sev => latches (sourceOk_hostLink _) (by rwa [State.dropLink_severity]), fun r i j inside => ?_, q.clk, q.tim, q.bell⟩
  · have cause : x.dropLink.rb .sysResetCause 0 5 = true := State.rb_setRb _ _ _ _ (by decide)
    exact (congrArg (fun w => bit w 5) (q.reg .sysResetCause 0 0 (by decide) (by decide))).trans cause
  · obtain ⟨event, raised⟩ := raise_spares_dq inside
    exact (q.reg r i j event raised).trans (x.dropLink_dq inside)

/-- A configuration write that is answered normally takes effect, if its codes are ones the function supports (R85, R91, R128 to R130). -/
theorem busMasterEnable_next {t mps mrrs : Nat} {mse bme d3 en mask : Bool} (e : x = s.advanceTo t) (settled : x.Settled)
    (answers : x.clk.phase = .running ∨ x.clk.phase = .bootFailed) (payload : mps ≤ 2) (request : mrrs ≤ 5) :
    exec (.busMasterEnable t ⟨mse, bme, d3, en, mask⟩ ⟨mps, mrrs⟩) s =
      .next (x.modHostIf fun h => h.configWrite mse bme d3 en mask mps mrrs) := by
  have rel : x.released = true := by rcases answers with h | h <;> simp [State.released, h]
  have normal : x.configAnswer = .normal := by rcases answers with h | h <;> simp [State.configAnswer, h]
  refine exec_settled_eq (act_settles rfl e rel) (State.modHostIf_settled settled _) ?_
  simp [State.iff, normal, payload, request]

/-- Settles O13: each clause is one command's lemma above. -/
theorem resets : Obligations.Resets := by
  refine ⟨fun s x t aon v e => ⟨fun rel key go => ?_, fun rel settled other => ?_, fun rel => ?_, thermalShutdown_runs e,
    thermalRestart_runs e⟩, fun s x t => hostLinkReset_runs, fun s x t mps mrrs mse bme d3 en mask => busMasterEnable_next⟩
  · exact softReset_runs ((iffReleased_settles rfl e rel).trans (by rw [State.writeSysReset_keyed key go])) (by decide)
  · exact exec_settled_eq (iffReleased_settles rfl e rel) settled (State.writeSysReset_ignored other)
  · exact softReset_runs (iffReleased_settles (f := (·.softReset 4)) rfl e rel) (by decide)

end Sys2Proof.Machine
end

section
/-! PROOFS. The boot ROM's choice of a slot, the payload, recovery images (R84, R88, R89, R91, R92). -/

namespace Sys2Proof.Machine

variable {s x : State}

/-! ### The boot ROM's moves -/

theorem State.released_of_booting (h : s.clk.phase = .booting) : s.released = true := by simp [State.released, h]
theorem State.released_of_bootFailed (h : s.clk.phase = .bootFailed) : s.released = true := by simp [State.released, h]

theorem State.slotCheck_settled (h : s.Settled) (i c : Nat) : (s.slotCheck i c).Settled := by
  unfold State.slotCheck
  split
  · exact State.setRf_settled h _ _ _ _ _ (.inl (by decide))
  · exact State.setRf_settled h _ _ _ _ _ (.inl (by decide))

@[simp] theorem State.slotCheck_sec (s : State) (i c : Nat) : (s.slotCheck i c).sec = s.sec := by
  unfold State.slotCheck
  split <;> rfl

@[simp] theorem State.slotCheck_clk (s : State) (i c : Nat) : (s.slotCheck i c).clk = s.clk := by
  unfold State.slotCheck
  split <;> rfl

/-- An event touches the measurement log alone (R96). -/
theorem State.measure_frame {α : Type} (g : Sec → α)
    (h : ∀ (z : Sec) (chain : Bytes) (events : List (Nat × Bytes)) (truncated : Bool),
      g { z with chain := chain, events := events, truncated := truncated } = g z)
    (s : State) (kind : Nat) (v : Bytes) : g (s.measure kind v).sec = g s.sec := by
  unfold State.measure State.modSec
  dsimp only
  split <;> exact h _ _ _ _

theorem State.readSlot_settled (h : s.Settled) (i : Nat) : (s.readSlot i).Settled := State.measure_settled (State.modSec_settled h _) _ _
theorem State.readSlot_reading (s : State) (i : Nat) : (s.readSlot i).sec.reading = some i :=
  State.measure_frame Sec.reading (fun _ _ _ _ => rfl) _ _ _

theorem State.failBoot_settled (h : s.Settled) : s.failBoot.Settled :=
  State.modClk_settled (State.setRb_settled (State.modSec_settled h _) _ _ _ _ (.inl (by decide))) _

theorem State.startFirmware_settled (h : s.Settled) (slotB recovery : Bool) (version : Nat) :
    (s.startFirmware slotB recovery version).Settled :=
  State.modClk_settled (State.modMode_settled (State.setRf_settled (State.modSec_settled h _) _ _ _ _ _ (.inl (by decide))) _) _

/-! ### The choice of a slot (R88, R89, R91) -/

/-- Both headers are read and their check codes stored. -/
def State.readHeaders (s : State) (a b : Bytes) : State :=
  ((s.modSec fun y => { y with slots := [(0, s.slotInfo a), (1, s.slotInfo b)] }).slotCheck 0 (s.headerCheck a)).slotCheck 1 (s.headerCheck b)

theorem State.readHeaders_settled (h : s.Settled) (a b : Bytes) : (s.readHeaders a b).Settled :=
  State.slotCheck_settled (State.slotCheck_settled (State.modSec_settled h _) _ _) _ _

@[simp] theorem State.readHeaders_clk (s : State) (a b : Bytes) : (s.readHeaders a b).clk = s.clk := by simp [State.readHeaders, State.modSec]

/-- Slot A is accepted and slot B is not of a higher version (R89). -/
def State.prefersA (s : State) (a b : Bytes) : Bool := s.headerCheck a = 0 && (s.headerCheck b != 0 || hdrVersion b ≤ hdrVersion a)

theorem State.prefersA_iff (s : State) (a b : Bytes) :
    s.prefersA a b = true ↔ s.headerCheck a = 0 ∧ (s.headerCheck b = 0 → hdrVersion b ≤ hdrVersion a) := by
  simp [State.prefersA, imp_iff_not_or]

/-- The boot ROM's choice: slot A if it is preferred, else B if that is accepted (R89); with neither the boot fails (R91). -/
def State.chooseSlot (s : State) (a b : Bytes) : State :=
  if s.prefersA a b then (s.readHeaders a b).readSlot 0
  else if s.headerCheck b = 0 then (s.readHeaders a b).readSlot 1
  else (s.readHeaders a b).failBoot

/-- The first read of the headers makes the choice. -/
theorem flashHeaderRead_next {t : Nat} {a b : Bytes} {y : State} (e : x = s.advanceTo t) (booting : x.clk.phase = .booting)
    (first : x.sec.slots = []) (settled : y.Settled) (made : x.chooseSlot a b = y) : exec (.flashHeaderRead t a b) s = .next y := by
  refine exec_settled_eq (act_settles rfl e (State.released_of_booting booting)) settled (Eq.trans ?_ made)
  dsimp only
  rw [booting, first]
  rfl

/-- A slot is chosen. -/
theorem flashHeaderRead_reads {t i : Nat} {a b : Bytes} (e : x = s.advanceTo t) (settled : x.Settled) (booting : x.clk.phase = .booting)
    (first : x.sec.slots = []) (made : x.chooseSlot a b = (x.readHeaders a b).readSlot i) :
    s.Runs (.flashHeaderRead t a b) fun u => u.sec.reading = some i ∧ u.clk = x.clk :=
  ⟨_, flashHeaderRead_next e booting first (State.readSlot_settled (State.readHeaders_settled settled a b) i) made,
    State.readSlot_reading _ i, x.readHeaders_clk a b⟩

/-! ### The payload (R84, R89, R91) -/

/-- A payload with the header's length and hash starts the firmware (R84). -/
theorem payloadRead_starts {t i : Nat} {p : Bytes} (e : x = s.advanceTo t) (settled : x.Settled) (booting : x.clk.phase = .booting)
    (reading : x.sec.reading = some i) (length : p.length = (x.slot i).length) (good : hash64 p = (x.slot i).hash) :
    exec (.payloadRead t p) s = .next ((x.measure 3 (x.slot i).hash).startFirmware (i = 1) false (x.slot i).version) := by
  refine exec_settled_eq (act_settles rfl e (State.released_of_booting booting))
    (State.startFirmware_settled (State.measure_settled settled _ _) _ _ _) ?_
  simp [booting, reading, length, good]

/-- Slot i is marked as one whose payload does not match its header (R88). -/
def State.rejectSlot (s : State) (i : Nat) : State :=
  (s.slotCheck i 7).modSec fun y => { y with slots := y.slots.map fun e => if e.1 = i then (i, { s.slot i with check := 7 }) else e }

/-- Replacing the entries of one key leaves the others. -/
theorem tget_map_ne {α : Type} (d : Nat → α) (l : Tbl α) (v : α) {k j : Nat} (ne : j ≠ k) :
    tget d (l.map fun e => if e.1 = k then (k, v) else e) j = tget d l j := by
  induction l with
  | nil => rfl
  | cons e r ih =>
    obtain ⟨a, w⟩ := e
    by_cases same : a = k
    · subst same
      simp [tget, Ne.symm ne, ih]
    · simp [tget, same, ih]

theorem State.rejectSlot_other (s : State) {i j : Nat} (ne : j ≠ i) : (s.rejectSlot i).slot j = s.slot j := by
  unfold State.slot State.rejectSlot State.modSec
  rw [State.slotCheck_sec]
  exact tget_map_ne _ _ _ ne

/-- A payload with another hash fails the boot where the other slot was not accepted (R91). -/
theorem payloadRead_fails {t i : Nat} {p : Bytes} (e : x = s.advanceTo t) (settled : x.Settled) (booting : x.clk.phase = .booting)
    (reading : x.sec.reading = some i) (bad : hash64 p ≠ (x.slot i).hash) (lt : i ≤ 1) (alone : (x.slot (1 - i)).check ≠ 0) :
    exec (.payloadRead t p) s = .next (x.rejectSlot i).failBoot := by
  have other : ((x.rejectSlot i).slot (1 - i)).check ≠ 0 := by rwa [State.rejectSlot_other _ (by omega)]
  refine exec_settled_eq (act_settles rfl e (State.released_of_booting booting))
    (State.failBoot_settled (State.modSec_settled (State.slotCheck_settled settled i 7) _)) ?_
  simp only [booting, reading, bad, decide_false, Bool.and_false]
  exact if_neg other

/-! ### Recovery (R92) -/

/-- A start with a length in range begins a fetch of that length, which is taken at the start (DEDUCED, log entry 141). -/
theorem secRecoveryStart_begins {t : Nat} {v : Word} (e : x = s.advanceTo t) (settled : x.Settled) (failed : x.clk.phase = .bootFailed)
    (go : bit v 0 = true) (idle : x.sec.recovering = false) (least : 8256 ≤ (x.reg .secRecoveryLen).toNat)
    (most : (x.reg .secRecoveryLen).toNat ≤ 1056768) :
    exec (.secRecoveryStart t v) s = .next (x.modSec fun y =>
      { y with recovering := true, recoverLen := (x.reg .secRecoveryLen).toNat }) := by
  refine exec_settled_eq (act_settles rfl e (State.released_of_bootFailed failed)) (State.modSec_settled settled _) ?_
  simp [State.startRecovery, failed, go, idle, least, most]

/-- A start with a length out of range answers 9 at once. -/
theorem secRecoveryStart_refused {t : Nat} {v : Word} (e : x = s.advanceTo t) (settled : x.Settled) (failed : x.clk.phase = .bootFailed)
    (go : bit v 0 = true) (idle : x.sec.recovering = false)
    (out : (x.reg .secRecoveryLen).toNat < 8256 ∨ 1056768 < (x.reg .secRecoveryLen).toNat) :
    exec (.secRecoveryStart t v) s = .next (x.setRf .secRecoveryCtrl 0 7 4 9) := by
  have range : ¬(8256 ≤ (x.reg .secRecoveryLen).toNat ∧ (x.reg .secRecoveryLen).toNat ≤ 1056768) := by omega
  refine exec_settled_eq (act_settles rfl e (State.released_of_bootFailed failed))
    (State.setRf_settled settled _ _ _ _ _ (.inl (by decide))) ?_
  simp [State.startRecovery, failed, go, idle, range]

/-- A fetch that brings no data answers 8. -/
theorem recoveryFetchDone_empty {t : Nat} (e : x = s.advanceTo t) (settled : x.Settled) (failed : x.clk.phase = .bootFailed)
    (fetching : x.sec.recovering = true) (master : x.host.bme = true) (d0 : x.host.d3 = false) :
    exec (.recoveryFetchDone t none) s = .next ((x.modSec fun y => { y with recovering := false }).setRf .secRecoveryCtrl 0 7 4 8) := by
  refine exec_settled_eq (act_settles rfl e (State.released_of_bootFailed failed))
    (State.setRf_settled (State.modSec_settled settled _) _ _ _ _ _ (.inl (by decide))) ?_
  simp [failed, fetching, master, d0]

/-- An image of the fetch's length that passes the checks of a slot starts the firmware. -/
theorem recoveryFetchDone_starts {t : Nat} {b : Bytes} (e : x = s.advanceTo t) (settled : x.Settled) (failed : x.clk.phase = .bootFailed)
    (fetching : x.sec.recovering = true) (master : x.host.bme = true) (d0 : x.host.d3 = false) (length : b.length = x.sec.recoverLen)
    (header : x.headerCheck b = 0) (good : hash64 (slice b 0x2000 (hdrLength b)) = hdrHash b) (whole : 0x2000 + hdrLength b ≤ b.length) :
    exec (.recoveryFetchDone t (some b)) s = .next ((((x.modSec fun y => { y with recovering := false }).measure 2 (hdrMeasure b)).measure 3
      (hdrHash b)).startFirmware false true (hdrVersion b)) := by
  have ended : (x.modSec fun y => { y with recovering := false }).headerCheck b = 0 := header
  refine exec_settled_eq (act_settles rfl e (State.released_of_bootFailed failed))
    (State.startFirmware_settled (State.measure_settled (State.measure_settled (State.modSec_settled settled _) _ _) _ _) _ _ _) ?_
  simp [failed, fetching, master, d0, State.iff, ← length, State.slotInfo, ended, good, Nat.not_lt.mpr whole]

/-- Settles O15: each clause is one command's lemma above. -/
theorem bootAndRecovery : Obligations.BootAndRecovery := by
  refine ⟨fun s x t a b p e settled booting => ⟨fun first ok best => ?_, fun first ok best => ?_, fun first badA badB => ?_,
    fun i reading length good => ?_, fun i reading bad lt alone => ?_⟩, fun s x t v b e settled failed => ⟨
    secRecoveryStart_begins e settled failed, secRecoveryStart_refused e settled failed, recoveryFetchDone_empty e settled failed,
    fun fetching master d0 length header good whole => ?_⟩⟩
  · exact flashHeaderRead_reads e settled booting first (if_pos ((x.prefersA_iff a b).mpr ⟨ok, best⟩))
  · have other : ¬x.prefersA a b = true := fun prefers =>
      have ⟨okA, bestA⟩ := (x.prefersA_iff a b).mp prefers
      absurd (best okA) (Nat.not_lt.mpr (bestA ok))
    exact flashHeaderRead_reads e settled booting first ((if_neg other).trans (if_pos ok))
  · have other : ¬x.prefersA a b = true := fun prefers => badA ((x.prefersA_iff a b).mp prefers).1
    have still := State.failBoot_settled (State.readHeaders_settled settled a b)
    exact ⟨_, flashHeaderRead_next e booting first still ((if_neg other).trans (if_neg badB)), rfl, rfl⟩
  · exact ⟨_, payloadRead_starts e settled booting reading length good, rfl, rfl, rfl, rfl, rfl, rfl⟩
  · exact ⟨_, payloadRead_fails e settled booting reading bad lt alone, rfl, rfl⟩
  · exact ⟨_, recoveryFetchDone_starts e settled failed fetching master d0 length header good whole, rfl, rfl, rfl, rfl, rfl⟩

end Sys2Proof.Machine
end

section
/-! PROOFS. SYS_LOCK and CONFIG_LOAD (R96, R101, R102, R124, R125). -/

namespace Sys2Proof.Machine

variable {s x : State}

/-! ### SYS_LOCK (R96, R102) -/

/-- The pushes that follow a lock touch the ports alone (R272). -/
theorem State.pushAll_frame {α : Type} (g : State → α) (h : ∀ (z : State) (p : Nat) (f : Port → Port), g (z.modPort p f) = g z) (s : State) :
    g s.pushAll = g s := by
  refine State.forAll_frame g _ _ _ fun p z => State.iff_frame g z _ _ fun w => ?_
  unfold State.fwPush
  dsimp only
  split
  · rfl
  · exact h w _ _

/-- Writing 1 to a clear SYS_LOCK sets it and measures the RWL fields. -/
theorem sysLock_sets {t : Nat} {v : Word} (e : x = s.advanceTo t) (rel : x.released = true) (one : bit v 0 = true)
    (clear : x.locked = false) : s.Runs (.sysLock t v) fun u => u.locked = true ∧ u.mode = x.mode ∧ u.clk = x.clk ∧
      u.sec.chain = hash64 (x.sec.chain ++ le 4 6 ++ hash64 (x.setRb .sysLock 0 0 true).rwlRegs) := by
  have run : exec (.sysLock t v) s = .next (((x.setRb .sysLock 0 0 true).measure 6 (hash64 (x.setRb .sysLock 0 0 true).rwlRegs)).pushAll).settle :=
    (iffReleased_settles rfl e rel).trans (by simp [State.writeLock, State.iff, one, State.setLock, clear])
  have set : (x.setRb .sysLock 0 0 true).locked = true := State.rb_setRb _ _ _ _ (by decide)
  refine runs_calm run fun u calm => ⟨?_, calm.mode.trans ?_, calm.clk.trans ?_, (congrArg Sec.chain calm.sec).trans ?_⟩
  · have kept := calm.reg .sysLock 0 0 (by decide) (by decide)
    exact (congrArg (fun w => bit w 0) kept).trans ((State.pushAll_frame State.locked (fun _ _ _ => rfl) _).trans set)
  · exact State.pushAll_frame State.mode (fun _ _ _ => rfl) _
  · exact State.pushAll_frame State.clk (fun _ _ _ => rfl) _
  · exact (State.pushAll_frame (·.sec.chain) (fun _ _ _ => rfl) _).trans (State.measure_chain _ _ _)

/-- Writing 0, or writing to a lock that is set, does nothing. -/
theorem sysLock_stays {t : Nat} {v : Word} (e : x = s.advanceTo t) (rel : x.released = true) (settled : x.Settled)
    (idle : bit v 0 = false ∨ x.locked = true) : exec (.sysLock t v) s = .next x := by
  refine exec_settled_eq (iffReleased_settles rfl e rel) settled ?_
  rcases idle with zero | set
  · simp [State.writeLock, State.iff, zero]
  · simp [State.writeLock, State.iff, State.setLock, set]

/-! ### CONFIG_LOAD (R101, R124, R125) -/

/-- A buffer that memory requests reach is read. -/
theorem State.readBuf_of_dma (dma : s.canDma = true) (i k addr n : Nat) (b : Bytes) (f : Bytes → State → State) :
    s.readBuf i k addr n (some b) f = f b (s.hostRead addr n) := by
  simp [State.readBuf, dma]

/-- A command that runs on the descriptor whose turn it is, while the firmware runs. -/
theorem onTurn_settles {c : Instr} {t role op i k : Nat} {d : Desc} {f : Nat → Nat → Desc → State → State}
    (run : exec c s = act t s fun s => s.iff s.up (·.onTurn role op f)) (e : x = s.advanceTo t) (up : x.up = true)
    (turn : x.turn role op = some (i, k, d)) : exec c s = .next (f i k d x).settle := by
  rw [act_settles run e (State.released_of_up up), State.iff, if_pos up, State.onTurn_of_turn turn]

/-- Outside Configure or under lock CONFIG_LOAD ends with status 2, whatever its image (DEDUCED, log entry 139). -/
theorem configLoad_shut {t i k : Nat} {d : Desc} {buf : Option Bytes} (e : x = s.advanceTo t) (up : x.up = true)
    (turn : x.turn 0 0x22 = some (i, k, d)) (settled : x.Settled) (shut : x.mode.mode ≠ 1 ∨ x.locked = true) :
    exec (.configLoad t buf) s = .next (x.ends i k 2) := by
  refine exec_settled_eq (onTurn_settles rfl e up turn) (State.ends_settled settled _ _ _ _ _) ?_
  have closed : (x.mode.mode != 1 || x.locked) = true := by simpa using shut
  simp only [closed, if_true]

/-- Header and payload of an image of n bytes have been read from a descriptor's buffer. -/
def State.imageRead (s : State) (a n : Nat) : State := (s.hostRead a 0x2000).hostRead (a + 0x2000) n

theorem State.imageRead_settled (h : s.Settled) (a n : Nat) : (s.imageRead a n).Settled :=
  State.hostRead_settled (State.hostRead_settled h _ _) _ _

/-- An image that passes the checks of R101 and R124 is applied, or ends at its first entry that is not allowed (R125). -/
theorem configLoad_judges {t i k : Nat} {d : Desc} {b : Bytes} {l : List (Nat × Word)} (e : x = s.advanceTo t) (up : x.up = true)
    (turn : x.turn 0 0x22 = some (i, k, d)) (configure : x.mode.mode = 1) (clear : x.locked = false) (dma : x.canDma = true)
    (room : 0x2000 + hdrLength b ≤ d.len) (image : x.imageCheck b 3 "OCR-CONF" = 0)
    (form : configForm (slice b 0x2000 (hdrLength b)) (hdrLength b) = true) (entries : l = configEntries (slice b 0x2000 (hdrLength b))) :
    exec (.configLoad t (some b)) s = .next (match (List.range l.length).find? fun n => x.entryFails (nth l n (0, 0)) with
      | some n => (x.imageRead d.buf (hdrLength b)).ends i k 4 n
      | none => ((l.foldl (fun (s : State) (e : Nat × Word) => s.bar0Write e.1 e.2 15) (x.imageRead d.buf (hdrLength b))).measure 5 (hdrHash b)).ends
          i k 0 l.length).settle := by
  subst entries
  refine (onTurn_settles rfl e up turn).trans (congrArg (fun z : State => Host.Outcome.next z.settle) ?_)
  have header : ¬d.len < 0x2000 := by omega
  have whole : ¬d.len < 0x2000 + hdrLength b := by omega
  have passed : (x.hostRead d.buf 0x2000).imageCheck b 3 "OCR-CONF" = 0 := image
  have opened : (x.mode.mode != 1 || x.locked) = false := by simp [configure, clear]
  simp only [opened, header, State.readBuf_of_dma dma, whole, passed, form, Bool.false_eq_true, if_false, bne_self_eq_false, Bool.not_true]
  rfl

/-- Settles O17: each clause is one command's lemma above; the entries are judged before any is written. -/
theorem lockAndConfiguration : Obligations.LockAndConfiguration := by
  refine ⟨fun s x t v e rel => ⟨sysLock_sets e rel, sysLock_stays e rel⟩, fun s x t i k d b e settled up turn =>
    ⟨configLoad_shut e up turn settled, fun configure clear dma room image form y l read entries => ?_⟩⟩
  have judged := configLoad_judges e up turn configure clear dma room image form entries
  subst read
  refine ⟨fun allowed => ?_, fun n lt fails before => ?_⟩
  · have none_fails : (List.range l.length).find? (fun n => x.entryFails (nth l n (0, 0))) = none := by
      refine List.find?_eq_none.mpr fun n inside => ?_
      have lt := List.mem_range.mp inside
      rw [nth, List.getElem?_eq_getElem lt, Option.getD_some, allowed _ (List.getElem_mem lt)]
      exact Bool.false_ne_true
    rw [judged, none_fails]
    rfl
  · have first_fails : (List.range l.length).find? (fun n => x.entryFails (nth l n (0, 0))) = some n := by
      rw [List.find?_range_eq_some]
      exact ⟨fails, List.mem_range.mpr lt, fun m less => by rw [before m less]; rfl⟩
    have still := State.ends_settled (State.imageRead_settled settled d.buf (hdrLength b)) i k 4 n 0
    rw [judged, first_fails]
    exact congrArg Host.Outcome.next (State.settle_of_settled still)

end Sys2Proof.Machine
end

section
/-! PROOFS. The commands of ring 14: identity and attestation, writing OTP (R93 to R95, R98 to R100). -/

namespace Sys2Proof.Machine

variable {s x : State}

/-! ### Identity (R98 to R100) -/

/-- A field of a fixed size has that size (R94, R100). -/
theorem fixLen_length (n : Nat) (b : Bytes) : (Config.fixLen n b).length = n := by simp [Config.fixLen]

/-- A field of the OTP has its size (R93). -/
theorem otpField_length (off n : Nat) : (Config.otpField off n).length = n := by simp [Config.otpField]

/-- A record goes to the buffer of a descriptor of a Running ring. -/
theorem State.bufEnd_of_running (dma : s.canDma = true) {i : Nat} (running : (s.ring i).state = 1) (idx a : Nat) (b : Bytes) (c : Compl) :
    s.bufEnd i idx a b c = (s.hostWrite a b).finishAct i idx c := by
  simp [State.bufEnd, dma, running]

theorem State.finishAct_settled (h : s.Settled) (i idx : Nat) (c : Compl) : (s.finishAct i idx c).Settled :=
  (State.finishAct_hostOnly (State.HostOnly.refl s) i idx c).settled h

/-- READ_IDENTITY (R98). -/
theorem readIdentity_writes {t i k : Nat} {d : Desc} (e : x = s.advanceTo t) (settled : x.Settled) (up : x.up = true)
    (turn : x.turn 14 1 = some (i, k, d)) (room : 5269 ≤ d.len) (dma : x.canDma = true) (running : (x.ring i).state = 1) :
    exec (.readIdentity t) s = .next ((x.hostWrite d.buf
      (le 8 x.sec.otpSerial ++ Config.mldsaPk (shake256 32 (ascii "OCR-IDENT-1" ++ x.sec.otpSeed)) ++ x.sec.cert)).finishAct i k ⟨0, 0, 5269⟩) := by
  refine exec_settled_eq (onTurn_settles rfl e up turn) (State.finishAct_settled (State.hostWrite_settled settled _ _) _ _ _) ?_
  dsimp only
  rw [if_neg (Nat.not_lt.mpr room), State.bufEnd_of_running dma running]

theorem readIdentity_short {t i k : Nat} {d : Desc} (e : x = s.advanceTo t) (settled : x.Settled) (up : x.up = true)
    (turn : x.turn 14 1 = some (i, k, d)) (short : d.len < 5269) : exec (.readIdentity t) s = .next (x.ends i k 1 5312) :=
  exec_settled_eq (onTurn_settles rfl e up turn) (State.ends_settled settled _ _ _ _ _) (if_pos short)

/-- ATTEST (R99, R100): the nonce is read, the record and its signature are written. -/
theorem attest_writes {t i k : Nat} {d : Desc} {b : Bytes} (e : x = s.advanceTo t) (settled : x.Settled) (up : x.up = true)
    (turn : x.turn 14 2 = some (i, k, d)) (room : 4608 ≤ d.len) (dma : x.canDma = true) (running : (x.ring i).state = 1) :
    exec (.attest t (some b)) s = .next (((x.hostRead d.buf 32).hostWrite d.buf (x.attestBody b ++
      Config.mldsaSign (shake256 32 (ascii "OCR-IDENT-1" ++ x.sec.otpSeed)) (ascii "OCR-ATTS") (x.attestBody b))).finishAct
        i k ⟨0, 0, (x.attestBody b).length + 3309⟩) := by
  have read := State.hostRead_settled settled d.buf 32
  refine exec_settled_eq (onTurn_settles rfl e up turn) (State.finishAct_settled (State.hostWrite_settled read _ _) _ _ _) ?_
  dsimp only
  rw [if_neg (Nat.not_lt.mpr room), State.readBuf_of_dma dma]
  exact State.bufEnd_of_running (s := x.hostRead d.buf 32) dma running _ _ _ _

theorem attest_short {t i k : Nat} {d : Desc} {buf : Option Bytes} (e : x = s.advanceTo t) (settled : x.Settled) (up : x.up = true)
    (turn : x.turn 14 2 = some (i, k, d)) (short : d.len < 4608) : exec (.attest t buf) s = .next (x.ends i k 1 4608) :=
  exec_settled_eq (onTurn_settles rfl e up turn) (State.ends_settled settled _ _ _ _ _) (if_pos short)

/-- Settles O22: each clause is one command's lemma above. -/
theorem identityCommands : Obligations.IdentityCommands := by
  refine ⟨fun z => fixLen_length _ _, fun key c m => fixLen_length _ _, ?_, fun s x t i k d b e settled up => ⟨fun turn =>
    ⟨readIdentity_writes e settled up turn, readIdentity_short e settled up turn⟩, fun turn =>
    ⟨attest_writes e settled up turn, attest_short e settled up turn⟩⟩⟩
  dsimp only [State.reset, Sec.reset]
  exact otpField_length 0x200 3309

/-! ### Writing OTP (R93, R95, R98) -/

/-- A command that burns fuses: outside Configure or under SYS_LOCK it ends with status 2, where the write does not read back with 3. -/
theorem burn_next {c : Instr} {t op i k : Nat} {d : Desc} {burnt : Bool} {f : Sec → Sec}
    (run : exec c s = act t s fun s => s.onSec op fun i k _ s =>
      if !s.otpOpen then s.ends i k 2 else if !burnt then s.ends i k 3 else (s.modSec f).ends i k 0)
    (e : x = s.advanceTo t) (settled : x.Settled) (up : x.up = true) (turn : x.turn 14 op = some (i, k, d)) :
    exec c s = .next (if x.otpOpen = false then x.ends i k 2 else if burnt = false then x.ends i k 3 else (x.modSec f).ends i k 0) := by
  refine exec_settled_eq (onTurn_settles run e up turn) ?_ (by simp)
  split
  · exact State.ends_settled settled _ _ _ _ _
  split
  · exact State.ends_settled settled _ _ _ _ _
  · exact State.ends_settled (State.modSec_settled settled _) _ _ _ _ _

/-- The first owner slot that holds nothing (R95). -/
def Sec.freeSlot (z : Sec) : Option Nat := (List.range 4).find? fun j => !nbit z.ownerUsed j && !nbit z.ownerValid j

/-- The write of a hash into owner slot j begins: the slot is used from now on (R95). -/
def State.beginSlot (s : State) (j : Nat) (b : Bytes) : State := s.modSec fun z =>
  { z with ownerUsed := nset z.ownerUsed j true, ownerHash := tput (fun _ => []) z.ownerHash j (b.take 64), writing := some j }

theorem State.modSec_modSec (s : State) (f g : Sec → Sec) : (s.modSec f).modSec g = s.modSec fun z => g (f z) := rfl

/-! A write that is under way changes nothing more; one that has ended sets the valid fuse where the data read back right (R95). -/

theorem State.slotWritten_underWay (s : State) (i k j : Nat) : s.slotWritten i k j .underWay = s := rfl

theorem State.slotWritten_good (s : State) (i k j : Nat) : s.slotWritten i k j (.readBack true) =
    (s.modSec fun z => { z with writing := none, ownerValid := nset z.ownerValid j true }).ends i k 0 := by
  simp only [State.slotWritten, if_true, State.modSec_modSec]

theorem State.slotWritten_bad (s : State) (i k j : Nat) : s.slotWritten i k j (.readBack false) =
    (s.modSec fun z => { z with writing := none }).ends i k 3 := by
  simp only [State.slotWritten, Bool.false_eq_true, if_false]

theorem State.slotWritten_settled (h : s.Settled) (i k j : Nat) (w : KeyWrite) : (s.slotWritten i k j w).Settled := by
  cases w with
  | underWay => exact h
  | readBack good =>
    cases good with
    | true =>
      rw [State.slotWritten_good]
      exact State.ends_settled (State.modSec_settled h _) _ _ _ _ _
    | false =>
      rw [State.slotWritten_bad]
      exact State.ends_settled (State.modSec_settled h _) _ _ _ _ _

/-- A write of a slot that is under way goes on or ends, whatever the buffer. -/
theorem programOwnerKey_continues {t i k j : Nat} {d : Desc} {buf : Option Bytes} {w : KeyWrite} (e : x = s.advanceTo t)
    (settled : x.Settled) (up : x.up = true) (turn : x.turn 14 4 = some (i, k, d)) (writing : x.sec.writing = some j) :
    exec (.programOwnerKey t buf w) s = .next (x.slotWritten i k j w) := by
  refine exec_settled_eq (onTurn_settles rfl e up turn) (State.slotWritten_settled settled _ _ _ _) ?_
  simp only [writing]

/-- PROGRAM_OWNER_KEY outside Configure or under SYS_LOCK. -/
theorem programOwnerKey_shut {t i k : Nat} {d : Desc} {buf : Option Bytes} {w : KeyWrite} (e : x = s.advanceTo t)
    (settled : x.Settled) (up : x.up = true) (turn : x.turn 14 4 = some (i, k, d)) (idle : x.sec.writing = none)
    (shut : x.otpOpen = false) : exec (.programOwnerKey t buf w) s = .next (x.ends i k 2) := by
  refine exec_settled_eq (onTurn_settles rfl e up turn) (State.ends_settled settled _ _ _ _ _) ?_
  simp only [idle, shut, Bool.not_false, if_true]

/-- PROGRAM_OWNER_KEY with a buffer that cannot hold a hash. -/
theorem programOwnerKey_short {t i k : Nat} {d : Desc} {buf : Option Bytes} {w : KeyWrite} (e : x = s.advanceTo t)
    (settled : x.Settled) (up : x.up = true) (turn : x.turn 14 4 = some (i, k, d)) (idle : x.sec.writing = none)
    (opened : x.otpOpen = true) (short : d.len < 64) : exec (.programOwnerKey t buf w) s = .next (x.ends i k 1 64) := by
  refine exec_settled_eq (onTurn_settles rfl e up turn) (State.ends_settled settled _ _ _ _ _) ?_
  simp only [idle, opened, short, Bool.not_true, Bool.false_eq_true, if_false, if_true]

/-- PROGRAM_OWNER_KEY takes the first slot that holds nothing, and ends with 3 where there is none. -/
theorem programOwnerKey_takes {t i k : Nat} {d : Desc} {b : Bytes} {w : KeyWrite} {y : State} (e : x = s.advanceTo t)
    (settled : x.Settled) (up : x.up = true) (turn : x.turn 14 4 = some (i, k, d)) (idle : x.sec.writing = none)
    (opened : x.otpOpen = true) (room : 64 ≤ d.len) (dma : x.canDma = true) (read : y = x.hostRead d.buf 64) :
    (∀ j, x.sec.freeSlot = some j → exec (.programOwnerKey t (some b) w) s = .next ((y.beginSlot j b).slotWritten i k j w)) ∧
    (x.sec.freeSlot = none → exec (.programOwnerKey t (some b) w) s = .next (y.ends i k 3)) := by
  have still : y.Settled := read ▸ State.hostRead_settled settled _ _
  have run : exec (.programOwnerKey t (some b) w) s = .next (match y.sec.freeSlot with
      | none => y.ends i k 3
      | some j => (y.beginSlot j b).slotWritten i k j w).settle := by
    refine (onTurn_settles rfl e up turn).trans (congrArg (fun z : State => Host.Outcome.next z.settle) ?_)
    subst read
    simp only [idle, opened, Nat.not_lt.mpr room, State.readBuf_of_dma dma, Bool.not_true, Bool.false_eq_true, if_false]
    rfl
  have same : y.sec.freeSlot = x.sec.freeSlot := by rw [read]; rfl
  rw [same] at run
  refine ⟨fun j free => ?_, fun used => ?_⟩
  · exact exec_settled_eq run (State.slotWritten_settled (State.modSec_settled still _) _ _ _ _) (by rw [free])
  · exact exec_settled_eq run (State.ends_settled still _ _ _ _ _) (by rw [used])

/-- REVOKE_OWNER_KEY outside Configure or under SYS_LOCK. -/
theorem revokeOwnerKey_shut {t i k : Nat} {d : Desc} {buf : Option Bytes} {burnt : Bool} (e : x = s.advanceTo t) (settled : x.Settled)
    (up : x.up = true) (turn : x.turn 14 5 = some (i, k, d)) (shut : x.otpOpen = false) :
    exec (.revokeOwnerKey t buf burnt) s = .next (x.ends i k 2) := by
  refine exec_settled_eq (onTurn_settles rfl e up turn) (State.ends_settled settled _ _ _ _ _) ?_
  simp only [shut, Bool.not_false, if_true]

/-- REVOKE_OWNER_KEY with a buffer below 64 bytes. -/
theorem revokeOwnerKey_short {t i k : Nat} {d : Desc} {buf : Option Bytes} {burnt : Bool} (e : x = s.advanceTo t) (settled : x.Settled)
    (up : x.up = true) (turn : x.turn 14 5 = some (i, k, d)) (opened : x.otpOpen = true) (short : d.len < 64) :
    exec (.revokeOwnerKey t buf burnt) s = .next (x.ends i k 1 64) := by
  refine exec_settled_eq (onTurn_settles rfl e up turn) (State.ends_settled settled _ _ _ _ _) ?_
  simp only [opened, short, Bool.not_true, Bool.false_eq_true, if_false, if_true]

/-- REVOKE_OWNER_KEY reads the slot's number from the buffer's first word (DEDUCED, log entry 23). -/
theorem revokeOwnerKey_next {t i k : Nat} {d : Desc} {b : Bytes} {burnt : Bool} {y : State} (e : x = s.advanceTo t) (settled : x.Settled)
    (up : x.up = true) (turn : x.turn 14 5 = some (i, k, d)) (opened : x.otpOpen = true) (room : 64 ≤ d.len) (dma : x.canDma = true)
    (read : y = x.hostRead d.buf 64) :
    exec (.revokeOwnerKey t (some b) burnt) s = .next (if 3 < lef b 0 4 then y.ends i k 4 else if burnt = false then y.ends i k 3
      else (y.modSec fun z => { z with ownerRevoked := nset z.ownerRevoked (lef b 0 4) true }).ends i k 0) := by
  have still : y.Settled := read ▸ State.hostRead_settled settled _ _
  refine exec_settled_eq (onTurn_settles rfl e up turn) ?_ ?_
  · split
    · exact State.ends_settled still _ _ _ _ _
    split
    · exact State.ends_settled still _ _ _ _ _
    · exact State.ends_settled (State.modSec_settled still _) _ _ _ _ _
  · simp [opened, Nat.not_lt.mpr room, State.readBuf_of_dma dma, read]

/-- Settles O23: each clause is one command's lemma above. -/
theorem fuseCommands : Obligations.FuseCommands := by
  intro s x y t i k d b e settled up read
  refine ⟨fun turn => ?_, fun turn idle => ?_, fun turn j writing => ?_, fun turn => ?_, fun turn => ?_⟩
  · have commit := fun burnt => burn_next (c := .commitVersion t burnt) (burnt := burnt)
      (f := fun z => { z with rollback := min 64 (max z.rollback z.runVersion) }) rfl e settled up turn
    refine ⟨fun shut burnt => (commit burnt).trans ?_, fun opened => ⟨(commit false).trans ?_, (commit true).trans ?_⟩⟩
    · rw [if_pos shut]
    · simp [opened]
    · simp [opened]
  · refine ⟨fun shut w => programOwnerKey_shut e settled up turn idle shut,
      fun opened short w => programOwnerKey_short e settled up turn idle opened short, fun opened room dma => ?_⟩
    have takes := fun w => programOwnerKey_takes (b := b) (w := w) e settled up turn idle opened room dma read
    refine ⟨fun j free => ⟨((takes .underWay).1 j free).trans ?_, ((takes (.readBack true)).1 j free).trans ?_,
      ((takes (.readBack false)).1 j free).trans ?_⟩, fun used w => (takes w).2 used⟩
    · rw [State.slotWritten_underWay, State.beginSlot]
    · rw [State.slotWritten_good, State.beginSlot, State.modSec_modSec]
    · rw [State.slotWritten_bad, State.beginSlot, State.modSec_modSec]
  · have continues := fun w => programOwnerKey_continues (buf := none) (w := w) e settled up turn writing
    refine ⟨(continues .underWay).trans ?_, (continues (.readBack true)).trans ?_, (continues (.readBack false)).trans ?_⟩
    · rw [State.slotWritten_underWay]
    · rw [State.slotWritten_good]
    · rw [State.slotWritten_bad]
  · refine ⟨fun shut burnt => revokeOwnerKey_shut e settled up turn shut,
      fun opened short burnt => revokeOwnerKey_short e settled up turn opened short, fun opened room dma => ?_⟩
    have revoke := fun burnt => revokeOwnerKey_next (b := b) (burnt := burnt) e settled up turn opened room dma read
    refine ⟨fun slot => ⟨(revoke true).trans ?_, (revoke false).trans ?_⟩, fun beyond burnt => (revoke burnt).trans ?_⟩
    · simp [Nat.not_lt.mpr slot]
    · simp [Nat.not_lt.mpr slot]
    · rw [if_pos beyond]
  · have enforce := fun burnt => burn_next (c := .setOwnerEnforce t burnt) (burnt := burnt)
      (f := fun z => { z with ownerEnforce := true }) rfl e settled up turn
    refine ⟨fun shut burnt => (enforce burnt).trans ?_, fun opened => ⟨(enforce false).trans ?_, (enforce true).trans ?_⟩⟩
    · rw [if_pos shut]
    · simp [opened]
    · simp [opened]

end Sys2Proof.Machine
end

section
/-! PROOFS. Mode requests (R108, R110, R113, R114, R116, R127, R144, R182): Safe stop at once, every other request among those of its
core cycle, and the way out of Dormant. -/

namespace Sys2Proof.Machine

variable {s x y : State}

/-! ### What a change of mode leaves of the mode controller's state -/

/-- A raise without retirement leaves the mode and the units alone. -/
theorem State.raise0_mild (s : State) (src idx w1 : Nat) (forced : Bool) : s.Mild (s.raise0 src idx w1 forced) :=
  (State.raiseCore_mild (State.Mild.refl s) src idx w1 forced).trans (State.watchStop_calm (State.Calm.refl _) src).mild

/-- A pre-empted request leaves the mode and the units alone (R114). -/
theorem State.preempted_mild (s : State) (q : ModeReq) : s.Mild (s.preempted q) :=
  State.iff_mild (State.modeEnd_mild (State.Mild.refl s) _ _ _ _ _ _) _ _ fun y h => h.trans (y.raise0_mild _ _ _ _)

theorem State.dropPending_mode (s : State) :
    s.dropPending.mode = { s.mode with pending := none, inbox := [], takeAt := none } :=
  foldl_frame State.mode _ (fun y q => (y.preempted_mild q).mode) _

theorem State.leaveDormant_mode (s : State) : s.leaveDormant.mode = s.mode := by
  unfold State.leaveDormant
  refine Eq.trans (State.iff_frame State.mode _ _ _ ?_) (State.forAll_frame State.mode _ _ _ ?_)
  · exact fun _ => rfl
  · exact fun _ y => State.iff_frame State.mode y _ _ fun _ => rfl

theorem State.capTransition_mode (s : State) : s.capTransition.mode = s.mode := by
  unfold State.capTransition
  dsimp only
  split
  · rfl
  · exact State.forAll_frame State.mode _ _ _ fun _ _ => rfl

/-- Leaving a mode changes at most which leads are in force (R22). -/
theorem State.leaving_mode (s : State) (old new : Nat) : ∃ e, (s.leaving old new).mode = { s.mode with extended := e } := by
  have woken : (s.iff (old = 0 && new != 0) State.leaveDormant).mode = s.mode :=
    State.iff_frame State.mode _ _ _ State.leaveDormant_mode
  unfold State.leaving
  generalize s.iff (old = 0 && new != 0) State.leaveDormant = y at woken
  rw [← woken]
  dsimp only
  unfold State.iff
  split
  · exact ⟨_, State.capTransition_mode _⟩
  · exact ⟨_, rfl⟩

theorem State.softOff_mode (s : State) (n c : Nat) : (s.softOff n c).mode = s.mode := by
  unfold State.softOff
  dsimp only
  split
  · rfl
  · rfl

/-- A table whose listed keys are all given one value shows it at each of them. -/
theorem nget_foldl_nput {l : List Nat} {t : Tbl Nat} {g v : Nat} (h : g ∈ l ∨ nget t g = v) :
    nget (l.foldl (fun t g => nput t g v) t) g = v := by
  induction l generalizing t with
  | nil => exact h.resolve_left List.not_mem_nil
  | cons a r ih =>
    refine ih ?_
    by_cases here : g = a
    · subst here
      exact .inr (tget_tput_self _ _ _ _)
    · refine h.imp (fun mem => (List.mem_cons.mp mem).resolve_left here) fun same => ?_
      exact (tget_tput_ne _ _ _ here).trans same

/-- Every group has the mode it is given (R112, R113, R116). -/
theorem State.allGroupsMode_groupMode (s : State) (m : Nat) {g : Nat} (lt : g < 8) :
    nget (s.allGroupsMode m).mode.groupMode g = m := nget_foldl_nput (.inl (List.mem_range.mpr lt))

@[simp] theorem State.allGroupsMode_mode (s : State) (m : Nat) : (s.allGroupsMode m).mode.mode = s.mode.mode := by
  simp [State.allGroupsMode]

@[simp] theorem State.allGroupsMode_previous (s : State) (m : Nat) : (s.allGroupsMode m).mode.previous = s.mode.previous := by
  simp [State.allGroupsMode]

@[simp] theorem State.allGroupsMode_pending (s : State) (m : Nat) : (s.allGroupsMode m).mode.pending = s.mode.pending := by
  simp [State.allGroupsMode]

/-! ### Safe stop (R114, R116) -/

/-- `u` is `x` after a Safe stop taken in the core cycle of `x`. -/
def State.Stopped (x u : State) : Prop :=
  u.mode.mode = 7 ∧ u.mode.previous = x.mode.mode ∧ u.mode.pending = none ∧ u.mode.ramps = [] ∧
    (∀ g, g < 8 → nget u.mode.groupMode g = 7) ∧ u.mode.lastStop = some (coreCycle x.clk.now) ∧ u.clk = x.clk

/-- Whether a Safe stop was taken shows in the mode and the clocks alone. -/
theorem State.Stopped.congr {u v : State} (h : y.Stopped u) (mode : y.mode.mode = x.mode.mode) (clk : y.clk = x.clk)
    (after : v.mode = u.mode) (clocks : v.clk = u.clk) : x.Stopped v := by
  unfold State.Stopped at h ⊢
  rwa [after, clocks, ← mode, ← clk]

/-- Entry to Safe stop: no ramp, no pending request, every group in the mode. -/
theorem State.enterStop_stopped (s : State) (src : Nat) (act : Option Nat) :
    s.Stopped (s.enterStop src (coreCycle s.clk.now) act) := by
  have clk := (State.enterStop_quiet (State.Quiet.refl s) src (coreCycle s.clk.now) act).clk
  unfold State.Stopped
  rw [clk]
  unfold State.enterStop
  extract_lets dropped left entered _ _ _ off
  have kept : left.mode.mode = s.mode.mode ∧ left.mode.pending = none := by
    obtain ⟨e, leads⟩ := State.leaving_mode (dropped.modeEnd src 7 1 0 0 none) dropped.mode.mode 7
    rw [leads, (State.modeEnd_mild (State.Mild.refl dropped) src 7 1 0 0 none).mode, s.dropPending_mode]
    exact ⟨rfl, rfl⟩
  have same : (off.iff (!off.standby) (·.pairSend 0x08 (le 4 (coreCycle s.clk.now)))).mode = (entered.allGroupsMode 7).mode := by
    rw [State.iff_frame State.mode off _ _ fun y => (State.pairSend_mild (State.Mild.refl y) _ _).mode]
    exact State.forAll_frame State.mode _ _ _ fun n y => y.softOff_mode n _
  rw [same]
  exact ⟨rfl, kept.1, kept.2, rfl, fun g lt => entered.allGroupsMode_groupMode 7 lt, rfl, rfl⟩

/-- A request for Safe stop from BAR0, ring 0 or the Bell in any other mode is taken at once (R114, R116), also on a standby (R399). -/
theorem State.modeRequest_stops (awake : s.mode.mode ≠ 7) (src : Nat) (act : Option Nat) :
    s.Stopped (s.modeRequest src 7 act) := by
  have sent : s.Mild (s.iff (s.standby && src != 6) (·.forward 1 0 [src, 7])) :=
    State.iff_mild (State.Mild.refl s) _ _ fun _ h => State.forward_mild h _ _ _
  have taken : s.modeRequest src 7 act =
      (s.iff (s.standby && src != 6) (·.forward 1 0 [src, 7])).enterStop src (coreCycle s.clk.now) act := by
    unfold State.modeRequest State.stopRequest
    simp [sent.mode, awake]
  rw [taken, ← sent.clk]
  exact (State.enterStop_stopped _ src act).congr (congrArg Mode.mode sent.mode) sent.clk rfl rfl

/-- A command that requests Safe stop ends with it taken: neither what comes before the request nor the end of the step shows. -/
theorem runs_stopped {c : Instr} {src : Nat} {act : Option Nat} (run : exec c s = .next (y.modeRequest src 7 act).settle)
    (mode : y.mode = x.mode) (clk : y.clk = x.clk) (awake : x.mode.mode ≠ 7) : s.Runs c x.Stopped :=
  runs_calm run fun _ calm =>
    (State.modeRequest_stops (mode ▸ awake) src act).congr (congrArg Mode.mode mode) clk calm.mode calm.clk

/-! ### Requests for other modes (R110, R114) -/

/-- The request `q` is among those of the core cycle. -/
def State.joinedBy (s : State) (q : ModeReq) : State :=
  s.modMode fun m => { m with inbox := m.inbox ++ [q], boxAt := coreCycle s.clk.now }

/-- On a unit that is no standby and has not entered Safe stop in this core cycle a request joins the others. -/
theorem State.modeRequest_joins {target : Nat} (other : target ≠ 7) (alone : s.standby = false)
    (late : ¬(s.mode.mode = 7 ∧ s.mode.lastStop = some (coreCycle s.clk.now))) (src : Nat) (act : Option Nat) :
    s.modeRequest src target act = s.joinedBy ⟨target, src, act⟩ := by
  unfold State.modeRequest State.joinedBy
  simp [other, alone, late]

/-- A command whose request joins the others ends there. -/
theorem exec_joins {c : Instr} {src target : Nat} {act : Option Nat} (run : exec c s = .next (y.modeRequest src target act).settle)
    (settled : y.Settled) (other : target ≠ 7) (alone : y.standby = false)
    (late : ¬(y.mode.mode = 7 ∧ y.mode.lastStop = some (coreCycle y.clk.now))) :
    exec c s = .next (y.joinedBy ⟨target, src, act⟩) :=
  exec_settled_eq run (State.modMode_settled settled _) (State.modeRequest_joins other alone late src act)

/-! ### The commands that request a mode (R127, R144, R182) -/

/-- SYS_MODE_REQ with its key and its bit requests the mode in its target field. -/
theorem State.writeModeReq_keyed {v : Word} (key : fld v 31 16 = 0x4D4F) (go : bit v 8 = true) :
    s.writeModeReq v = (s.setReg .sysModeReq 0 (word (fld v 2 0))).modeRequest 1 (fld v 2 0) none := by
  simp [State.writeModeReq, State.iff, key, go]

/-- Without them the target field alone changes. -/
theorem State.writeModeReq_unkeyed {v : Word} (other : fld v 31 16 ≠ 0x4D4F ∨ bit v 8 = false) :
    s.writeModeReq v = s.setReg .sysModeReq 0 (word (fld v 2 0)) := by
  rcases other with key | go
  · simp [State.writeModeReq, State.iff, key]
  · simp [State.writeModeReq, State.iff, go]

theorem State.setModeReq_settled (h : s.Settled) (v : Word) : (s.setReg .sysModeReq 0 v).Settled :=
  h.setReg _ _ _ _ (.inl (by decide))

theorem sysModeReq_settles {t : Nat} {v : Word} (e : x = s.advanceTo t) (up : x.up = true) :
    exec (.sysModeReq t v) s = .next (x.writeModeReq v).settle := by
  rw [act_settles rfl e (State.released_of_up up), State.iff, if_pos up]

/-- The oldest fired CHANGE_MODE that has arrived. -/
def State.firedMode (s : State) : Option Fired := s.bell.fired.find? fun f => f.e.action = 0x03 && f.arrive ≤ s.clk.now

/-- That action leaves the Bell for the mode controller. -/
def State.takeFiredMode (s : State) : State :=
  s.modBell fun b => { b with fired := delFirst (fun f => f.e.action = 0x03 && f.arrive ≤ s.clk.now) b.fired }

/-- CHANGE_MODE requests the mode of the oldest fired action that has arrived. -/
theorem changeMode_settles {t : Nat} {f : Fired} (e : x = s.advanceTo t) (up : x.up = true) (found : x.firedMode = some f) :
    exec (.changeMode t) s = .next (x.takeFiredMode.modeRequest 3 (f.e.arg % 8) none).settle := by
  rw [act_settles rfl e (State.released_of_up up)]
  unfold State.firedMode at found
  unfold State.onFired State.takeFiredMode
  simp [found, up]

/-! ### Leaving Dormant (R108, R110, R113) -/

/-- A request whose transition passes becomes the pending one (R110). -/
theorem State.judge_of_passes {q : ModeReq} (passes : s.transition s.mode.mode q.target = some none) (free : s.mode.pending = none) :
    s.judge q = s.modMode fun m => { m with pending := some q, pendAt := m.boxAt } := by
  unfold State.judge
  simp only [passes, free]

/-- A request for Configure judged in Dormant is pending, to be taken a core cycle later (R113). -/
theorem State.arbitrate_dormant {src : Nat} (dormant : s.mode.mode = 0) (free : s.mode.pending = none)
    (one : s.mode.inbox = [⟨1, src, none⟩]) : s.arbitrate.mode = { s.mode with
      inbox := [], pending := some ⟨1, src, none⟩, pendAt := s.mode.boxAt, takeAt := some (s.mode.boxAt + 2) } := by
  have passes : ((s.modMode fun m => { m with inbox := [] }).transition (s.modMode fun m => { m with inbox := [] }).mode.mode 1) =
      some none := by
    rw [State.modMode_mode, dormant]
    rfl
  have judged := State.judge_of_passes (q := ⟨1, src, none⟩) passes free
  unfold State.arbitrate
  rw [one]
  simp [sortBy, insBy, judged, State.iff, dormant]

theorem State.paramsNow_mode (s : State) : s.paramsNow.mode = s.mode := by
  unfold State.paramsNow
  refine foldl_frame State.mode _ (fun y w => ?_) _
  split
  · exact (State.answer_mild (State.Mild.refl (y.putParam w.w w.val)) 0 _ _).mode
  · rfl

/-- Entry to Configure: the mode before is kept, nothing is pending. -/
theorem State.enterMode_configure (s : State) (c : Nat) :
    (s.enterMode 1 c).mode.mode = 1 ∧ (s.enterMode 1 c).mode.previous = s.mode.mode ∧ (s.enterMode 1 c).mode.pending = none := by
  unfold State.enterMode
  simp [State.iff, State.paramsNow_mode]

/-- The pending request for Configure is taken: the groups have the mode at once (R113). -/
theorem State.takeNow_configure (s : State) (src c : Nat) :
    (s.takeNow src 1 c none).mode.mode = 1 ∧ (s.takeNow src 1 c none).mode.previous = s.mode.mode ∧
      (s.takeNow src 1 c none).mode.pending = none ∧ (∀ g, g < 8 → nget (s.takeNow src 1 c none).mode.groupMode g = 1) := by
  have taken : s.takeNow src 1 c none = ((s.modeEnd src 1 1 0 0 none).enterMode 1 c).allGroupsMode 1 := rfl
  obtain ⟨mode, previous, pending⟩ := (s.modeEnd src 1 1 0 0 none).enterMode_configure c
  rw [(State.modeEnd_mild (State.Mild.refl s) src 1 1 0 0 none).mode] at previous
  have groups := fun g (lt : g < 8) => ((s.modeEnd src 1 1 0 0 none).enterMode 1 c).allGroupsMode_groupMode 1 lt
  rw [taken]
  simpa [mode, previous, pending] using groups

/-! ### The obligation -/

/-- Settles O16: three paths to one request, which stops at once or joins its core cycle's. -/
theorem modeCommands : Obligations.ModeCommands := by
  refine ⟨fun s x t e up awake => ⟨fun v key go target => ?_, fun i k d turn target => ?_, fun f found target => ?_⟩,
    fun s x t e settled up alone late => ⟨fun v key go target => ?_, fun i k d turn target => ?_, fun f found target => ?_⟩,
    fun s x t v e settled up other => ?_,
    fun s src c dormant free => ⟨fun one => s.arbitrate_dormant dormant free one, ?_⟩⟩
  · have run := sysModeReq_settles (v := v) e up
    rw [State.writeModeReq_keyed key go, target] at run
    exact runs_stopped run rfl rfl awake
  · have run := onTurn_settles (c := .setMode t) rfl e up turn
    rw [target] at run
    exact runs_stopped run rfl rfl awake
  · have run := changeMode_settles e up found
    rw [target] at run
    exact runs_stopped run rfl rfl awake
  · have run := sysModeReq_settles (v := v) e up
    rw [State.writeModeReq_keyed key go] at run
    exact exec_joins run (State.setModeReq_settled settled _) target alone late
  · have held := (State.holdAct_hostOnly (State.HostOnly.refl x) i k).settled settled
    exact exec_joins (onTurn_settles (c := .setMode t) rfl e up turn) held target alone late
  · exact exec_joins (changeMode_settles e up found) (State.modBell_settled settled _) target alone late
  · exact exec_settled_eq (sysModeReq_settles e up) (State.setModeReq_settled settled _) (State.writeModeReq_unkeyed other)
  · have taken := s.takeNow_configure src c
    rwa [dormant] at taken

end Sys2Proof.Machine
end

section
/-! PROOFS. Commands of gated blocks, and what moving a ring on does and leaves: what is written out, started and stopped, and where every
ring stands after one has failed (R148, R151, R152). -/

namespace Sys2Proof.Machine

variable {s x y u : State}

/-! ### Commands of gated blocks -/

/-- A command of a gated block acts, while the root is released, on the state that time has reached with its gate open. -/
theorem actIn_settles {c : Instr} {b t : Nat} {f : State → State} (run : exec c s = actIn b t s f) (e : x = (s.advanceTo t).openGate b)
    (rel : x.released = true) : exec c s = .next (f x).settle := by
  subst e
  exact run.trans (actIn_eq b t s f rel)

/-- A command of a gated block on the descriptor whose turn it is, while the firmware runs. -/
theorem gatedTurn_settles {c : Instr} {b t role op i k : Nat} {d : Desc} {f : Nat → Nat → Desc → State → State}
    (run : exec c s = actIn b t s fun s => s.iff s.up (·.onTurn role op f)) (e : x = (s.advanceTo t).openGate b) (up : x.up = true)
    (turn : x.turn role op = some (i, k, d)) : exec c s = .next (f i k d x).settle := by
  rw [actIn_settles run e (State.released_of_up up), State.iff, if_pos up, State.onTurn_of_turn turn]

/-- The oldest fired action with a code that has arrived leaves the Bell for its unit. -/
def State.takeFired (s : State) (action : Nat) : State :=
  s.modBell fun b => { b with fired := delFirst (fun f => f.e.action = action && f.arrive ≤ s.clk.now) b.fired }

theorem State.onFired_takes {action : Nat} {g : Fired} (up : s.up = true)
    (found : s.bell.fired.find? (fun f => f.e.action = action && f.arrive ≤ s.clk.now) = some g) (f : Fired → State → State) :
    s.onFired action none f = f g (s.takeFired action) := by
  unfold State.onFired State.takeFired
  simp [found, up]

/-- A command of a gated block on the oldest fired action that has arrived. -/
theorem gatedFired_settles {c : Instr} {b t action : Nat} {g : Fired} {f : Fired → State → State}
    (run : exec c s = actIn b t s fun s => s.onFired action none f) (e : x = (s.advanceTo t).openGate b) (up : x.up = true)
    (found : x.bell.fired.find? (fun f => f.e.action = action && f.arrive ≤ x.clk.now) = some g) :
    exec c s = .next (f g (x.takeFired action)).settle := by
  rw [actIn_settles run e (State.released_of_up up), State.onFired_takes up found]

/-! ### Moving a ring on -/

/-- A ring is a function of the rings' table. -/
theorem State.ring_congr (h : u.host.rings = s.host.rings) (i : Nat) : u.ring i = s.ring i := by
  unfold State.ring
  rw [h]

/-- An update of the host side beside the rings leaves them. -/
theorem State.ring_modHostIf {f : HostIf → HostIf} (h : ∀ k, (f k).rings = k.rings) (s : State) (i : Nat) :
    (s.modHostIf f).ring i = s.ring i := State.ring_congr (by rw [State.modHostIf_host, h]) i

theorem State.ring_setReg (s : State) (r : Reg) (i j : Nat) (v : Word) (k : Nat) : (s.setReg r i v j).ring k = s.ring k :=
  State.ring_congr (by rw [State.setReg_host]) k

theorem State.ring_setRb (s : State) (r : Reg) (i n : Nat) (b : Bool) (k : Nat) : (s.setRb r i n b).ring k = s.ring k :=
  State.ring_congr (by rw [State.setRb_host]) k

theorem State.ring_hostWrite (s : State) (a : Nat) (b : Bytes) (k : Nat) : (s.hostWrite a b).ring k = s.ring k :=
  State.ring_congr (by rw [State.hostWrite_host]) k

/-- Without a finished descriptor at its head nothing of a ring is written out (R148). -/
theorem State.flushActs_of_unfinished {i : Nat} (head : s.headDone i = none) (n : Nat) : s.flushActs i n = s := by
  cases n with
  | zero => rfl
  | succ n =>
    unfold State.flushActs
    split
    · next idx d c rest acts => simp [State.headDone, acts] at head
    · rfl

/-- A finished descriptor at the head of a ring is written out (R148). -/
theorem State.flushActs_of_done {i idx : Nat} {d : Desc} {c : Compl} {rest : List Act}
    (acts : (s.ring i).acts = ⟨idx, d, .done c⟩ :: rest) (dma : s.canDma = true) (n : Nat) :
    s.flushActs i (n + 1) = (s.flushHead i idx d c rest).flushActs i n := by
  rw [State.flushActs, acts]
  simp [dma]

/-- A ring with nothing queued starts nothing. -/
theorem State.startActs_of_empty {i : Nat} (empty : (s.ring i).queue = []) (n : Nat) : s.startActs i n = s := by
  cases n with
  | zero => rfl
  | succ n =>
    unfold State.startActs
    rw [empty]

/-- A ring that is not Running starts nothing (R148, R151). -/
theorem State.startActs_of_halted {i : Nat} (halted : (s.ring i).state ≠ 1) (n : Nat) : s.startActs i n = s := by
  cases n with
  | zero => rfl
  | succ n =>
    unfold State.startActs
    split
    · rfl
    · simp [halted]

/-- A ring with nothing to write out and nothing to start can only end its stop. -/
theorem State.pump_of_unfinished {i : Nat} (head : s.headDone i = none) (still : (s.ring i).queue = [] ∨ (s.ring i).state ≠ 1) :
    s.pump i = s.endStop i := by
  have starts : ∀ n, s.startActs i n = s :=
    fun n => still.elim (State.startActs_of_empty · n) (State.startActs_of_halted · n)
  unfold State.pump
  dsimp only
  rw [State.flushActs_of_unfinished head, starts, State.flushActs_of_unfinished head]

theorem State.headDone_of_empty {i : Nat} (empty : (s.ring i).acts = []) : s.headDone i = none := by
  unfold State.headDone
  rw [empty]

theorem State.headDone_of_executing {i : Nat} (busy : ∀ a ∈ (s.ring i).acts, a.st = .executing) : s.headDone i = none := by
  unfold State.headDone
  split
  · next acts => exact absurd (busy _ (acts ▸ List.mem_cons_self)) (by simp)
  · rfl

/-- While started descriptors are not finished a stop does not end (R151). -/
theorem State.endStop_of_busy {i : Nat} (busy : (s.ring i).acts ≠ []) : s.endStop i = s := by
  unfold State.endStop
  simp [busy]

/-- A Stopping ring with nothing started makes its final shadow write and is Disabled (R151). -/
theorem State.endStop_of_stopping {i : Nat} (stopping : (s.ring i).state = 2) (empty : (s.ring i).acts = []) (dma : s.canDma = true) :
    s.endStop i = s.shadowWrite.modRing i Ring.disabled := by
  unfold State.endStop
  simp [stopping, empty, dma]

/-- A Running ring does not stop. -/
theorem State.endStop_of_running {i : Nat} (running : (s.ring i).state = 1) : s.endStop i = s := by
  unfold State.endStop
  simp [running]

/-! ### Where a ring stands -/

/-- Where a ring stands: its state, its error code and what has not started. -/
def Ring.standing (r : Ring) : Nat × Nat × List (Nat × Desc) := (r.state, r.error, r.queue)

theorem Ring.standing_eq {r q : Ring} : r.standing = q.standing ↔ r.state = q.state ∧ r.error = q.error ∧ r.queue = q.queue := by
  simp [Ring.standing]

theorem State.standing_congr (h : u.host.rings = s.host.rings) (i : Nat) : (u.ring i).standing = (s.ring i).standing :=
  congrArg Ring.standing (State.ring_congr h i)

/-- An update of a ring that leaves where it stands leaves where every ring stands. -/
theorem State.standing_modRing {f : Ring → Ring} (h : ∀ r, (f r).standing = r.standing) (s : State) (k i : Nat) :
    ((s.modRing k f).ring i).standing = (s.ring i).standing := by
  by_cases here : i = k
  · subst here
    rw [State.ring_modRing_self, h]
  · rw [State.ring_modRing_ne s here]

theorem State.signal_rings (s : State) (v : Nat) : (s.signal v).host.rings = s.host.rings := by
  unfold State.signal
  split <;> rfl

/-- A shadow write leaves where every ring stands. -/
theorem State.shadowWrite_standing (s : State) (i : Nat) : (s.shadowWrite.ring i).standing = (s.ring i).standing := by
  have vectors : ∀ z : State, (z.ringVectors.ring i).standing = (z.ring i).standing := by
    refine fun z => State.forAll_frame (fun z => (z.ring i).standing) z _ _ fun j z => ?_
    dsimp only
    split
    · rfl
    · rw [State.iff_frame (fun z => (z.ring i).standing) _ _ _ fun z => State.standing_congr (z.signal_rings j) i]
      exact State.standing_modRing (by intro; rfl) z j i
  exact (vectors _).trans (State.standing_congr (by rw [State.modHostIf_host, State.hostWrite_host]) i)

theorem State.putEntry_standing (s : State) (k : Nat) (b : Bytes) (i : Nat) : ((s.putEntry k b).ring i).standing = (s.ring i).standing :=
  State.standing_modRing (by intro; rfl) (s.hostWrite _ b) k i

theorem State.flushHead_standing (s : State) (k idx : Nat) (d : Desc) (c : Compl) (rest : List Act) (i : Nat) :
    ((s.flushHead k idx d c rest).ring i).standing = (s.ring i).standing := by
  unfold State.flushHead
  dsimp only
  refine (State.standing_modRing (by intro; rfl) _ k i).trans ?_
  rw [State.iff_frame (fun z => (z.ring i).standing) _ _ _ fun z => z.putEntry_standing _ _ i]
  exact (State.standing_congr (by rw [State.modHostIf_host]) i).trans (State.standing_modRing (by intro; rfl) s (s.ringCq k) i)

/-- Writing out finished descriptors leaves where every ring stands. -/
theorem State.flushActs_standing (s : State) (k n i : Nat) : ((s.flushActs k n).ring i).standing = (s.ring i).standing := by
  induction n generalizing s with
  | zero => rfl
  | succ n ih =>
    unfold State.flushActs
    split
    · split
      · rfl
      · rw [ih, State.flushHead_standing]
    · rfl

/-- A ring in Error that is moved on starts nothing and stays in Error; the other rings stand as they did (R151, R152). -/
theorem State.pump_standing {k : Nat} (failed : (s.ring k).state = 3) (i : Nat) : ((s.pump k).ring i).standing = (s.ring i).standing := by
  have kept : ((s.flushActs k (s.ring k).acts.length).ring k).state = 3 :=
    (Ring.standing_eq.mp (s.flushActs_standing k _ k)).1.trans failed
  unfold State.pump
  dsimp only
  rw [State.startActs_of_halted (by simp [kept]), ← s.flushActs_standing k (s.ring k).acts.length i]
  generalize s.flushActs k (s.ring k).acts.length = z at kept
  rw [← z.flushActs_standing k (z.ring k).acts.length i]
  replace kept : ((z.flushActs k (z.ring k).acts.length).ring k).state = 3 :=
    (Ring.standing_eq.mp (z.flushActs_standing k _ k)).1.trans kept
  generalize z.flushActs k (z.ring k).acts.length = w at kept
  unfold State.endStop
  simp only [kept]
  split
  · split
    · next stopping => exact absurd stopping (by decide)
    · split
      · exact (State.standing_modRing (by intro; rfl) _ k i).trans (w.shadowWrite_standing i)
      · rfl
  · rfl

/-! ### A ring into Error (R151, R152) -/

theorem State.freshRaise_host (s : State) (src : Nat) : (s.freshRaise src).host = s.host := by
  simp [State.freshRaise]

theorem State.recordRaise_host (s : State) (src sev idx w1 : Nat) (f : Bool) : (s.recordRaise src sev idx w1 f).host = s.host := by
  simp [State.recordRaise, State.record]

theorem State.countRaise_host (s : State) (src : Nat) (f : Bool) : (s.countRaise src f).host = s.host := by
  unfold State.countRaise
  rw [State.bump_host]
  refine State.iff_frame State.host s _ _ fun z => ?_
  split
  · exact State.setRb_host z _ _ _ _
  · rfl

theorem State.latchRaise_host (s : State) (src : Nat) : (s.latchRaise src).host = s.host := by
  simp [State.latchRaise]

theorem State.alarmRaise_rings (s : State) (src sev : Nat) : (s.alarmRaise src sev).host.rings = s.host.rings := by
  have pulsed : (s.iff (4 ≤ sev || s.rb .wchCfg src 8) State.errPulse).host = s.host :=
    State.iff_frame State.host s _ _ fun z => State.modWch_host z _
  unfold State.alarmRaise
  dsimp only
  split
  · rw [State.iff_frame (·.host.rings) _ _ _ fun z => z.signal_rings 16, State.setRb_host, State.modWch_host, pulsed]
  · rw [pulsed]

/-- What a raise can do: nothing for a source that the part lacks, be counted at severity 0, or be latched and recorded besides (R475). -/
theorem State.raiseCore_cases (s : State) (src idx w1 : Nat) (f : Bool) :
    s.raiseCore src idx w1 f = s ∨ s.raiseCore src idx w1 f = (s.freshRaise src).countRaise src f ∨
      ∃ sev, s.raiseCore src idx w1 f =
        ((((s.freshRaise src).countRaise src f).latchRaise src).recordRaise src sev idx w1 f).alarmRaise src sev := by
  unfold State.raiseCore
  split
  · exact .inl rfl
  · dsimp only
    split
    · exact .inr (.inl rfl)
    · exact .inr (.inr ⟨_, rfl⟩)

/-- Counting, latching and recording a raise leave the rings alone. -/
theorem State.raiseCore_rings (s : State) (src idx w1 : Nat) (f : Bool) : (s.raiseCore src idx w1 f).host.rings = s.host.rings := by
  have counted : ((s.freshRaise src).countRaise src f).host = s.host := (State.countRaise_host _ src f).trans (s.freshRaise_host src)
  rcases s.raiseCore_cases src idx w1 f with same | same | ⟨sev, same⟩
  · rw [same]
  · rw [same, counted]
  · rw [same, State.alarmRaise_rings, State.recordRaise_host, State.latchRaise_host, counted]

theorem State.raise0_rings (s : State) (src idx w1 : Nat) (f : Bool) : (s.raise0 src idx w1 f).host.rings = s.host.rings := by
  refine Eq.trans ?_ (s.raiseCore_rings src idx w1 f)
  unfold State.raise0 State.watchStop
  dsimp only
  split <;> rfl

/-- host_ring names no health channel: its raise is the one without retirement. -/
theorem State.raise_hostRing (s : State) (i : Nat) : s.raise 128 i = s.raise0 128 i := by
  unfold State.raise
  dsimp only
  split
  · rfl
  · rfl

/-- The ring that fails is in Error with its code and nothing queued; every other ring stands as it did. -/
theorem State.ringFail_standing (s : State) (k code i : Nat) :
    ((s.ringFail k code).ring i).standing = if i = k then (3, code, []) else (s.ring i).standing := by
  have put : ∀ j, (((s.modRing k fun r => { r with state := 3, error := code, queue := [], held := false }).raise 128 k).ring j) =
      (s.modRing k fun r => { r with state := 3, error := code, queue := [], held := false }).ring j := by
    intro j
    rw [State.raise_hostRing]
    exact State.ring_congr (State.raise0_rings _ _ _ _ _) j
  unfold State.ringFail
  rw [State.pump_standing (by rw [put, State.ring_modRing_self]), put]
  split
  · next here => rw [here, State.ring_modRing_self]; rfl
  · next other => rw [State.ring_modRing_ne s other]

/-- The rings that lose their completion ring leave a ring in Error as it stands (R152). -/
theorem State.cqLost_standing {i code : Nat} (failed : (s.ring i).standing = (3, code, [])) (q : Nat) :
    ((s.cqLost q).ring i).standing = (3, code, []) := by
  refine List.foldlRecOn (motive := fun z : State => (z.ring i).standing = (3, code, [])) _ _ failed fun z h j _ => ?_
  dsimp only [State.iff]
  split
  · next lost =>
    have other : i ≠ j := fun same => by
      have state : (z.ring i).state = 3 := congrArg Prod.fst h
      simp [← same, state] at lost
    rw [State.ringFail_standing, if_neg other, h]
  · exact h

/-- An index or fetch error puts the ring into Error with its code and discards what has not started (R152). -/
theorem State.ringError_standing (s : State) (i code : Nat) : ((s.ringError i code).ring i).standing = (3, code, []) := by
  have failed : ((s.ringFail i code).ring i).standing = (3, code, []) := by rw [State.ringFail_standing, if_pos rfl]
  dsimp only [State.ringError, State.iff]
  split
  · exact State.cqLost_standing failed i
  · exact failed

theorem State.ringError_fails (s : State) (i code : Nat) :
    ((s.ringError i code).ring i).state = 3 ∧ ((s.ringError i code).ring i).error = code ∧ ((s.ringError i code).ring i).queue = [] := by
  simpa [Ring.standing] using s.ringError_standing i code

end Sys2Proof.Machine
end

section
/-! PROOFS. Enabling and stopping a ring (R135, R151). -/

namespace Sys2Proof.Machine

variable {s x y u : State}

/-! ### Enabling a ring (R135) -/

theorem dqRingCfg_dark {i : Nat} (lt : i < 16) : Reg.dqRingCfg.addr i < 0x26040 := by
  simp only [Reg.addr, Reg.row]
  omega

/-- A bit written 0 reads 0. -/
theorem bit_wfld_clear (w : Word) {n : Nat} (lt : n < 32) : bit (wfld w n n 0) n = false := by
  rw [bit_fld, fld_wfld_self w n n 0 le_rfl lt]
  simp

theorem State.rb_setRb_clear (s : State) (r : Reg) (i : Nat) {n : Nat} (lt : n < 32) : (s.setRb r i n false).rb r i n = false := by
  unfold State.rb State.setRb State.setRf
  rw [State.reg_setReg_self]
  exact bit_wfld_clear _ lt

/-- A write that sets enable stores the fields of a Disabled ring, enable apart. -/
def State.storeRingCfg (s : State) (i : Nat) (v : Word) : State := s.setReg .dqRingCfg i (wfld (v &&& 0x8FE0F00F) 31 31 0)

theorem State.storeRingCfg_settled (h : s.Settled) {i : Nat} (lt : i < 16) (v : Word) : (s.storeRingCfg i v).Settled :=
  h.setReg _ _ _ _ (.inl (dqRingCfg_dark lt))

theorem State.ring_storeRingCfg (s : State) (i : Nat) (v : Word) (j : Nat) : (s.storeRingCfg i v).ring j = s.ring j :=
  s.ring_setReg _ _ _ _ j

theorem State.rb_storeRingCfg (s : State) (i : Nat) (v : Word) : (s.storeRingCfg i v).rb .dqRingCfg i 31 = false := by
  unfold State.rb State.storeRingCfg
  rw [State.reg_setReg_self]
  exact bit_wfld_clear _ (by decide)

/-- Ring i runs from now on: nothing of the past is left of it. -/
def State.startRing (s : State) (i : Nat) : State :=
  ((s.setRb .dqRingCfg i 31 true).modRing i fun r => { Ring.reset with state := 1, reserved := r.reserved }).modHostIf fun h =>
    { h with reads := h.reads.filter fun e => e.1 != i }

theorem State.startRing_settled (h : s.Settled) {i : Nat} (lt : i < 16) : (s.startRing i).Settled :=
  State.modHostIf_settled (State.modRing_settled (State.setRb_settled h _ _ _ _ (.inl (dqRingCfg_dark lt))) _ _) _

theorem State.ring_startRing_self (s : State) (i : Nat) :
    (s.startRing i).ring i = { Ring.reset with state := 1, reserved := (s.ring i).reserved } := by
  unfold State.startRing
  refine (State.ring_modHostIf (by intro; rfl) _ i).trans ?_
  rw [State.ring_modRing_self, State.ring_setRb]

theorem State.ring_startRing_ne (s : State) {i j : Nat} (ne : j ≠ i) : (s.startRing i).ring j = s.ring j := by
  unfold State.startRing
  refine (State.ring_modHostIf (by intro; rfl) _ j).trans ?_
  rw [State.ring_modRing_ne _ ne, State.ring_setRb]

theorem State.rb_startRing (s : State) (i : Nat) : (s.startRing i).rb .dqRingCfg i 31 = true :=
  (State.rb_congr (by simp [State.startRing]) .dqRingCfg i 31).trans (s.rb_setRb .dqRingCfg i 31 (by decide))

/-- A write that sets enable of a Disabled ring (R135). -/
theorem State.writeRingCfg_enables {i : Nat} {v : Word} (off : (s.ring i).state = 0) (on : bit v 31 = true) :
    s.writeRingCfg i v = if (s.storeRingCfg i v).enableCheck i = 0 then (s.storeRingCfg i v).startRing i
      else (s.storeRingCfg i v).modRing i fun r => { r with error := (s.storeRingCfg i v).enableCheck i } := by
  unfold State.writeRingCfg State.startRing State.storeRingCfg
  simp [off, on]

theorem exec_ringEnable (t i : Nat) (v : Word) (s : State) : exec (.ringEnable t i v) s =
    actIn 5 t s fun s => s.iff (s.up && i < 16 && bit v 31) (·.writeRingCfg i v) := rfl

theorem ringEnable_settles {t i : Nat} {v : Word} (e : x = (s.advanceTo t).openGate 5) (up : x.up = true) (lt : i < 16)
    (on : bit v 31 = true) : exec (.ringEnable t i v) s = .next (x.writeRingCfg i v).settle := by
  rw [actIn_settles (exec_ringEnable t i v s) e (State.released_of_up up)]
  simp [State.iff, up, lt, on]

/-- An enable that no reason of R135 refuses. -/
theorem ringEnable_starts {t i : Nat} {v : Word} (e : x = (s.advanceTo t).openGate 5) (settled : x.Settled) (up : x.up = true)
    (lt : i < 16) (on : bit v 31 = true) (off : (x.ring i).state = 0) (ok : (x.storeRingCfg i v).enableCheck i = 0) :
    s.Runs (.ringEnable t i v) fun u => (u.ring i).state = 1 ∧ (u.ring i).host = 0 ∧ (u.ring i).dev = 0 ∧
      (u.ring i).queue = [] ∧ (u.ring i).acts = [] ∧ u.rb .dqRingCfg i 31 = true ∧ u.hostMem = x.hostMem ∧ u.mode = x.mode ∧
      (∀ j, j ≠ i → u.ring j = x.ring j) := by
  have run := ringEnable_settles e up lt on
  rw [State.writeRingCfg_enables off on, if_pos ok] at run
  refine runs_settled run (State.startRing_settled (State.storeRingCfg_settled settled lt v) lt) ?_
  rw [State.ring_startRing_self]
  refine ⟨rfl, rfl, rfl, rfl, rfl, State.rb_startRing _ i, ?_, ?_, fun j ne => ?_⟩
  · simp [State.startRing, State.storeRingCfg]
  · simp [State.startRing, State.storeRingCfg]
  · rw [State.ring_startRing_ne _ ne, State.ring_storeRingCfg]

/-- An enable that is refused sets the reason's code (R135). -/
theorem ringEnable_refused {t i : Nat} {v : Word} (e : x = (s.advanceTo t).openGate 5) (settled : x.Settled) (up : x.up = true)
    (lt : i < 16) (on : bit v 31 = true) (off : (x.ring i).state = 0) (bad : (x.storeRingCfg i v).enableCheck i ≠ 0) :
    s.Runs (.ringEnable t i v) fun u => (u.ring i).state = 0 ∧ (u.ring i).error = (x.storeRingCfg i v).enableCheck i ∧
      u.rb .dqRingCfg i 31 = false ∧ u.hostMem = x.hostMem ∧ u.mode = x.mode ∧ (∀ j, j ≠ i → u.ring j = x.ring j) := by
  have run := ringEnable_settles e up lt on
  rw [State.writeRingCfg_enables off on, if_neg bad] at run
  refine runs_settled run (State.modRing_settled (State.storeRingCfg_settled settled lt v) _ _) ?_
  rw [State.ring_modRing_self, State.ring_storeRingCfg]
  refine ⟨off, rfl, (State.rb_congr (by simp) _ _ _).trans (x.rb_storeRingCfg i v), ?_, ?_, fun j ne => ?_⟩
  · simp [State.storeRingCfg]
  · simp [State.storeRingCfg]
  · rw [State.ring_modRing_ne _ ne, State.ring_storeRingCfg]

/-! ### Stopping a ring (R151) -/

/-- Ring i is told to stop by a write that clears enable: a Running one drops what has not started. -/
def State.stopRing (s : State) (i : Nat) : State :=
  (s.setRb .dqRingCfg i 31 false).modRing i fun r => { r with state := 2, queue := if (s.ring i).state = 1 then [] else r.queue }

theorem State.ring_stopRing (s : State) (i : Nat) : (s.stopRing i).ring i =
    { s.ring i with state := 2, queue := if (s.ring i).state = 1 then [] else (s.ring i).queue } := by
  unfold State.stopRing
  rw [State.ring_modRing_self, State.ring_setRb]

theorem State.stopRing_settled (h : s.Settled) {i : Nat} (lt : i < 16) : (s.stopRing i).Settled :=
  State.modRing_settled (State.setRb_settled h _ _ _ _ (.inl (dqRingCfg_dark lt))) _ _

theorem State.rb_stopRing (s : State) (i : Nat) : (s.stopRing i).rb .dqRingCfg i 31 = false :=
  (State.rb_congr (by simp [State.stopRing]) .dqRingCfg i 31).trans (s.rb_setRb_clear .dqRingCfg i (by decide))

theorem State.stopRing_mode (s : State) (i : Nat) : (s.stopRing i).mode = s.mode := by simp [State.stopRing]

theorem State.stopRing_canDma (s : State) (i : Nat) : (s.stopRing i).canDma = s.canDma := by
  simp [State.canDma, State.stopRing, State.modRing]

/-- Writing enable leaves the role of the ring. -/
theorem State.ringRole_setEnable (s : State) (i : Nat) (b : Bool) : (s.setRb .dqRingCfg i 31 b).ringRole i = s.ringRole i :=
  State.rf_setRf_below s .dqRingCfg i 31 31 _ 15 12 (by decide) (by decide)

theorem State.ringRole_congr (h : u.regs = s.regs) (i : Nat) : u.ringRole i = s.ringRole i := State.rf_congr h _ _ _ _

/-- A ring that takes descriptors carries no completions of others (R134). -/
theorem complRole_of_submit {role : Nat} (submit : submitRole role = true) : complRole role = false := by
  simp only [submitRole, Bool.or_eq_true, decide_eq_true_eq] at submit
  rcases submit with (((((rfl | rfl) | rfl) | rfl) | rfl) | rfl) | rfl <;> rfl

theorem State.writeRingCfg_stops {i : Nat} {v : Word} (clear : bit v 31 = false) (running : (s.ring i).state = 1)
    (submit : submitRole (s.ringRole i) = true) : s.writeRingCfg i v = (s.stopRing i).pump i := by
  have role : (s.stopRing i).ringRole i = s.ringRole i :=
    (State.ringRole_congr (by simp [State.stopRing]) i).trans (s.ringRole_setEnable i false)
  unfold State.stopRing at role ⊢
  simp only [running, if_true] at role ⊢
  unfold State.writeRingCfg
  simp [running, clear, State.iff, role, complRole_of_submit submit]

/-- A ring in Error that has made its final shadow write is Disabled at once, another one stops (R151). -/
theorem State.writeRingCfg_leavesError {i : Nat} {v : Word} (clear : bit v 31 = false) (failed : (s.ring i).state = 3) :
    s.writeRingCfg i v = if (s.ring i).held then (s.setRb .dqRingCfg i 31 false).modRing i Ring.disabled else (s.stopRing i).pump i := by
  unfold State.writeRingCfg State.stopRing
  simp [failed, clear]

theorem exec_ringStop (t i : Nat) (v : Word) (s : State) : exec (.ringStop t i v) s =
    actIn 5 t s fun s => s.iff (s.up && i < 16 && !bit v 31) (·.writeRingCfg i v) := rfl

theorem ringStop_settles {t i : Nat} {v : Word} (e : x = (s.advanceTo t).openGate 5) (up : x.up = true) (lt : i < 16)
    (clear : bit v 31 = false) : exec (.ringStop t i v) s = .next (x.writeRingCfg i v).settle := by
  rw [actIn_settles (exec_ringStop t i v s) e (State.released_of_up up)]
  simp [State.iff, up, lt, clear]

/-- A Running submit ring with descriptors in execution waits for them. -/
theorem ringStop_waits {t i : Nat} {v : Word} (e : x = (s.advanceTo t).openGate 5) (settled : x.Settled) (up : x.up = true)
    (lt : i < 16) (clear : bit v 31 = false) (running : (x.ring i).state = 1) (submit : submitRole (x.ringRole i) = true)
    (busy : ∀ a ∈ (x.ring i).acts, a.st = .executing) (started : (x.ring i).acts ≠ []) :
    s.Runs (.ringStop t i v) fun u => (u.ring i).state = 2 ∧ (u.ring i).queue = [] ∧ (u.ring i).acts = (x.ring i).acts ∧
      u.rb .dqRingCfg i 31 = false ∧ u.mode = x.mode := by
  have ring := x.ring_stopRing i
  have still : (x.stopRing i).pump i = x.stopRing i := by
    rw [State.pump_of_unfinished (State.headDone_of_executing (by rwa [ring])) (.inr (by simp [ring])),
      State.endStop_of_busy (by rwa [ring])]
  have run := ringStop_settles e up lt clear
  rw [State.writeRingCfg_stops clear running submit, still] at run
  refine runs_settled run (State.stopRing_settled settled lt) ?_
  rw [ring]
  exact ⟨rfl, if_pos running, rfl, x.rb_stopRing i, x.stopRing_mode i⟩

/-- Ring i of `u` is Disabled with the error code it had in `x` (R151, R152). -/
def State.Off (x : State) (i : Nat) (u : State) : Prop :=
  (u.ring i).state = 0 ∧ (u.ring i).host = 0 ∧ (u.ring i).dev = 0 ∧ (u.ring i).error = (x.ring i).error ∧
    u.rb .dqRingCfg i 31 = false ∧ u.mode = x.mode

/-- Disabling a ring keeps its error code. -/
theorem State.off_of_disabled {i : Nat} (error : (y.ring i).error = (x.ring i).error) (clear : y.rb .dqRingCfg i 31 = false)
    (mode : y.mode = x.mode) : x.Off i (y.modRing i Ring.disabled) := by
  unfold State.Off
  rw [State.ring_modRing_self, State.rb_congr (State.modRing_regs y i _), State.modRing_mode]
  exact ⟨rfl, rfl, rfl, error, clear, mode⟩

/-- A Stopping ring with nothing started makes its final shadow write and is Disabled with its error code kept. -/
theorem State.stopRing_off {i : Nat} (empty : (x.ring i).acts = []) (dma : x.canDma = true) : x.Off i ((x.stopRing i).pump i) := by
  have ring := x.ring_stopRing i
  have unstarted : ((x.stopRing i).ring i).acts = [] := by rw [ring]; exact empty
  have stopping : ((x.stopRing i).ring i).state = 2 := by rw [ring]
  have error : ((x.stopRing i).ring i).error = (x.ring i).error := by rw [ring]
  rw [State.pump_of_unfinished (State.headDone_of_empty unstarted) (.inr (by simp [stopping])),
    State.endStop_of_stopping stopping unstarted (by rwa [State.stopRing_canDma])]
  have same := State.shadowWrite_hostOnly (State.HostOnly.refl (x.stopRing i))
  obtain ⟨-, kept, -⟩ := Ring.standing_eq.mp ((x.stopRing i).shadowWrite_standing i)
  exact State.off_of_disabled (kept.trans error) ((State.rb_congr same.regs _ _ _).trans (x.rb_stopRing i))
    (same.calm.mode.trans (x.stopRing_mode i))

/-- A ring with nothing started is Disabled by the write that clears enable. -/
theorem ringStop_disables {t i : Nat} {v : Word} (e : x = (s.advanceTo t).openGate 5) (settled : x.Settled) (up : x.up = true)
    (lt : i < 16) (clear : bit v 31 = false)
    (which : (x.ring i).state = 1 ∧ submitRole (x.ringRole i) = true ∨ (x.ring i).state = 3)
    (empty : (x.ring i).acts = []) (dma : x.canDma = true) : s.Runs (.ringStop t i v) (x.Off i) := by
  have run := ringStop_settles e up lt clear
  have stopped := State.stopRing_off empty dma
  have pumped : ((x.stopRing i).pump i).Settled :=
    (State.pump_hostOnly (State.HostOnly.refl _) i).settled (State.stopRing_settled settled lt)
  rcases which with ⟨running, submit⟩ | failed
  · rw [State.writeRingCfg_stops clear running submit] at run
    exact runs_settled run pumped stopped
  · rw [State.writeRingCfg_leavesError clear failed] at run
    split at run
    · refine runs_settled run (State.modRing_settled (State.setRb_settled settled _ _ _ _ (.inl (dqRingCfg_dark lt))) _ _) ?_
      exact State.off_of_disabled (by rw [State.ring_setRb]) (x.rb_setRb_clear _ _ (by decide)) (by rw [State.setRb_mode])
    · exact runs_settled run pumped stopped

/-- Settles O19: each clause is one kind of write's lemma above. -/
theorem ringControl : Obligations.RingControl := by
  refine ⟨fun s x y t i v e settled up lt on off stored => ⟨fun ok => ?_, fun c code bad => ?_⟩,
    fun s x t i v e settled up lt clear => ⟨fun running submit busy started => ?_, fun which empty dma => ?_⟩⟩
  · subst stored
    exact ringEnable_starts e settled up lt on off ok
  · subst stored code
    exact ringEnable_refused e settled up lt on off bad
  · exact ringStop_waits e settled up lt clear running submit busy started
  · exact ringStop_disables e settled up lt clear which empty dma

end Sys2Proof.Machine
end

section
/-! PROOFS. Polls, doorbell reads and host indices (R130, R138 to R140, R152, R153). -/

namespace Sys2Proof.Machine

variable {s x y u : State}

/-! ### Polls (R130, R139, R140) -/

theorem HostIf.link_eq {h k : HostIf} (same : h.link = k.link) : h.polling = k.polling ∧ h.stalled = k.stalled := by
  obtain ⟨-, -, stalled, polling⟩ : h.bme = k.bme ∧ h.d3 = k.d3 ∧ h.stalled = k.stalled ∧ h.polling = k.polling := by
    simpa [HostIf.link] using same
  exact ⟨polling, stalled⟩

/-- A poll ends a stall, and the shadow block is written if its words have changed (R130, R139). -/
def State.endStall (s : State) : State :=
  let s := s.modHostIf fun h => { h with stalled := false }
  s.iff (s.shadowKey != s.host.shadow) State.shadowWrite

/-- A poll starts the doorbell read, or counts that one is outstanding (R140). -/
def State.startPoll (s : State) : State :=
  if s.host.polling then s.bump .dqStatus 0 31 16
  else (s.hostRead s.dbAddr 64).modHostIf fun h => { h with polling := true }

/-- What was held goes out when a stall has ended (R130). -/
def State.sendStalled (s : State) (held : Bool) : State := s.iff held (·.sendHeld.pumpAll.issueReads 64)

/-- A poll instant is one at a multiple of the period, with bus mastering in D0. -/
theorem exec_poll (t : Nat) (s : State) : exec (.poll t) s = actIn 5 t s fun s =>
    if !(s.up && s.rb .dqPoll 0 31 && s.clk.now % s.rf .dqPoll 0 19 0 = 0) then s
    else if !s.host.bme || s.host.d3 then s
    else s.endStall.startPoll.sendStalled s.host.stalled := rfl

theorem poll_settles {t : Nat} (e : x = (s.advanceTo t).openGate 5) (up : x.up = true) (on : x.rb .dqPoll 0 31 = true)
    (due : x.clk.now % x.rf .dqPoll 0 19 0 = 0) (bme : x.host.bme = true) (d0 : x.host.d3 = false) :
    exec (.poll t) s = .next (x.endStall.startPoll.sendStalled x.host.stalled).settle := by
  rw [actIn_settles (exec_poll t s) e (State.released_of_up up)]
  simp [up, on, due, bme, d0]

theorem State.endStall_kept (s : State) : s.endStall.host.polling = s.host.polling ∧ s.endStall.host.stalled = false ∧
    s.endStall.regs = s.regs ∧ s.endStall.mode = s.mode := by
  have only : (s.modHostIf fun h => { h with stalled := false }).HostOnly s.endStall :=
    State.iff_hostOnly (State.HostOnly.refl _) _ _ fun _ h => State.shadowWrite_hostOnly h
  obtain ⟨polling, stalled⟩ := HostIf.link_eq only.link
  exact ⟨polling, stalled, only.regs, only.calm.mode⟩

theorem State.startPoll_kept (s : State) : s.startPoll.host.polling = true ∧ s.startPoll.host.stalled = s.host.stalled ∧
    s.startPoll.mode = s.mode := by
  unfold State.startPoll
  split
  · next outstanding =>
    rw [State.bump_host, State.bump_mode]
    exact ⟨outstanding, rfl, rfl⟩
  · exact ⟨rfl, rfl, rfl⟩

/-- The count of polls that found a read outstanding (R140). -/
theorem State.startPoll_skips (s : State) : s.startPoll.rf .dqStatus 0 31 16 =
    if s.host.polling then min 0xFFFF (s.rf .dqStatus 0 31 16 + 1) else s.rf .dqStatus 0 31 16 := by
  unfold State.startPoll
  split
  · have fits : min 0xFFFF (s.rf .dqStatus 0 31 16 + 1) < 2 ^ (31 + 1 - 16) := by omega
    exact (State.rf_setRf_self s .dqStatus 0 31 16 _ (by decide) (by decide)).trans (Nat.mod_eq_of_lt fits)
  · exact State.rf_congr (by simp [State.hostRead, State.issue]) _ _ _ _

theorem State.sendStalled_hostOnly (s : State) (held : Bool) : s.HostOnly (s.sendStalled held) :=
  State.iff_hostOnly (State.HostOnly.refl s) _ _ fun _ h =>
    State.issueReads_hostOnly (State.pumpAll_hostOnly (State.sendHeld_hostOnly h)) 64

/-- A poll instant with bus mastering in D0. -/
theorem poll_runs {t : Nat} (e : x = (s.advanceTo t).openGate 5) (up : x.up = true) (on : x.rb .dqPoll 0 31 = true)
    (due : x.clk.now % x.rf .dqPoll 0 19 0 = 0) (bme : x.host.bme = true) (d0 : x.host.d3 = false) :
    s.Runs (.poll t) fun u => u.host.polling = true ∧ u.host.stalled = false ∧ u.mode = x.mode ∧
      u.rf .dqStatus 0 31 16 = (if x.host.polling then min 0xFFFF (x.rf .dqStatus 0 31 16 + 1) else x.rf .dqStatus 0 31 16) := by
  obtain ⟨outstanding, unstalled, regs, mode⟩ := x.endStall_kept
  obtain ⟨polling, stalled, mode'⟩ := x.endStall.startPoll_kept
  have skips := x.endStall.startPoll_skips
  rw [outstanding, State.rf_congr regs] at skips
  refine runs_calm (poll_settles e up on due bme d0) fun u calm => ?_
  have sent := (x.endStall.startPoll.sendStalled_hostOnly x.host.stalled).calm
  obtain ⟨polled, unheld⟩ := HostIf.link_eq (sent.toQuiet.trans calm.toQuiet).link
  refine ⟨polled.trans polling, (unheld.trans stalled).trans unstalled, (calm.mode.trans sent.mode).trans (mode'.trans mode), ?_⟩
  have status := (sent.toQuiet.trans calm.toQuiet).reg .dqStatus 0 0 (by decide) (by decide)
  exact (congrArg (fun w => fld w 31 16) status).trans skips

/-! ### Doorbell reads (R138, R152, R153) -/

/-- Every variant has the source of host DMA. -/
theorem sourceOk_hostDma (v : Variant) : sourceOk v 129 = true := by cases v <;> decide

/-- A failed read of the doorbell block (R153). -/
def State.failPoll (s : State) : State := (s.modHostIf fun h => { h with polling := false }).setRb .dqStatus 0 1 true

/-- Every ring takes its host index from a doorbell read, then the rings move on (R138). -/
def State.takeDoorbells (s : State) (l : List Word) : State :=
  ((s.modHostIf fun h => { h with polling := false }).forAll (List.range 16) fun i s => s.takeIndex i (fld (nth l i 0) 15 0)).pumpAll.issueReads
    64

theorem exec_doorbellRead_failed (t : Nat) (s : State) : exec (.doorbellRead t none) s =
    actIn 5 t s fun s => if !s.host.polling then s else s.failPoll.raise 129 0xFFFF := rfl

theorem exec_doorbellRead_good (t : Nat) (l : List Word) (s : State) : exec (.doorbellRead t (some l)) s =
    actIn 5 t s fun s => if !s.host.polling then s else s.takeDoorbells l := rfl

theorem State.failPoll_polling (s : State) : s.failPoll.host.polling = false := by
  unfold State.failPoll
  rw [State.setRb_host, State.modHostIf_host]

theorem State.failPoll_status (s : State) : s.failPoll.rb .dqStatus 0 1 = true := by
  unfold State.failPoll
  exact State.rb_setRb _ _ _ _ (by decide)

theorem State.failPoll_severity (s : State) : s.failPoll.severity 129 = s.severity 129 :=
  congrArg (min 5) (State.rf_setRf_ne _ .dqStatus .wchCfg 0 129 1 1 _ 2 0 (by decide))

/-- A doorbell read that fails sets its bit and raises host_dma (R153). -/
theorem doorbellRead_fails {t : Nat} (e : x = (s.advanceTo t).openGate 5) (up : x.up = true) (polling : x.host.polling = true) :
    s.Runs (.doorbellRead t none) fun u => u.host.polling = false ∧ u.rb .dqStatus 0 1 = true ∧
      (x.severity 129 ≠ 0 → u.latched 129 = true) := by
  have run := actIn_settles (exec_doorbellRead_failed t s) e (State.released_of_up up)
  rw [if_neg (by simp [polling])] at run
  refine runs_quiet run fun u calm => ?_
  obtain ⟨q, latches⟩ := State.raise_then 129 0xFFFF 0 false calm
  have status := q.reg .dqStatus 0 0 (by decide) (by decide)
  refine ⟨(HostIf.link_eq q.link).1.trans x.failPoll_polling, ?_, fun sev => latches (sourceOk_hostDma _) ?_⟩
  · rw [State.rb, status]
    exact x.failPoll_status
  · rwa [State.failPoll_severity]

theorem doorbellRead_takes {t : Nat} {l : List Word} (e : x = (s.advanceTo t).openGate 5) (up : x.up = true)
    (polling : x.host.polling = true) : exec (.doorbellRead t (some l)) s = .next (x.takeDoorbells l).settle := by
  rw [actIn_settles (exec_doorbellRead_good t l s) e (State.released_of_up up), if_neg (by simp [polling])]

/-- Ring i is given a host index (R138). -/
def State.setHostIndex (s : State) (i h : Nat) : State := s.modRing i fun r => { r with host := h }

/-- A Running submit ring takes an index that leaves no more than its entries unfetched, and fails with code 1 on any other (R138,
R152). -/
theorem State.takeIndex_submit {i : Nat} (h : Nat) (running : (s.ring i).state = 1) (submit : submitRole (s.ringRole i) = true) :
    s.takeIndex i h = if s.ringSize i < (h + 65536 - (s.ring i).dev) % 65536 then (s.setHostIndex i h).ringError i 1
      else s.setHostIndex i h := by
  have role : (s.setHostIndex i h).ringRole i = s.ringRole i := rfl
  have size : (s.setHostIndex i h).ringSize i = s.ringSize i := rfl
  unfold State.setHostIndex at role size ⊢
  unfold State.takeIndex
  simp [running, role, size, submit, State.iff]

/-- A Running stream ring takes an index that lies in the entries it has written, and fails with code 1 on any other (R138, R152). -/
theorem State.takeIndex_stream {i : Nat} (h : Nat) (running : (s.ring i).state = 1) (stream : submitRole (s.ringRole i) = false) :
    ∃ keep : Ring → List (Nat × Nat), s.takeIndex i h = if min (s.ringSize i) (s.ring i).wrote < ((s.ring i).dev + 65536 - h) % 65536
      then (s.setHostIndex i h).ringError i 1
      else (s.setHostIndex i h).modRing i fun r => { r with recs := keep r } := by
  have role : (s.setHostIndex i h).ringRole i = s.ringRole i := rfl
  have size : (s.setHostIndex i h).ringSize i = s.ringSize i := rfl
  unfold State.setHostIndex at role size ⊢
  unfold State.takeIndex
  simp only [running, role, size, stream]
  exact ⟨_, rfl⟩

/-- Settles O20: the poll, the doorbell read, and the four cases of a host index. -/
theorem ringIndices : Obligations.RingIndices := by
  refine ⟨fun s x t l e up => ⟨poll_runs e up, fun polling => ⟨doorbellRead_fails e up polling, doorbellRead_takes e up polling⟩⟩,
    fun s i h lt running => ⟨fun submit fits => ?_, fun submit beyond => ?_, fun stream fits => ?_, fun stream beyond => ?_⟩⟩
  · rw [State.takeIndex_submit h running submit, if_neg (Nat.not_lt.mpr fits), State.setHostIndex]
  · rw [State.takeIndex_submit h running submit, if_pos beyond]
    exact State.ringError_fails _ i 1
  · obtain ⟨keep, taken⟩ := State.takeIndex_stream h running stream
    rw [taken, if_neg (Nat.not_lt.mpr fits), State.setHostIndex, State.ring_modRing_self, State.ring_modRing_self]
    exact ⟨rfl, running⟩
  · obtain ⟨keep, taken⟩ := State.takeIndex_stream h running stream
    rw [taken, if_pos beyond]
    exact State.ringError_fails _ i 1

end Sys2Proof.Machine
end

section
/-! PROOFS. Descriptor fetches, NOP and the completion that a descriptor owes (R129, R144, R146, R148, R152). -/

namespace Sys2Proof.Machine

variable {s x y : State}

/-! ### Descriptor fetches (R129, R148, R152) -/

/-- Ring i without its oldest outstanding read. -/
def State.dropRead (s : State) (i : Nat) : State := s.modHostIf fun h => { h with reads := delFirst (fun e => e.1 = i) h.reads }

/-- The oldest read of a Running submit ring completes: what it returned is queued and started, or the ring fails. -/
def State.fetched (s : State) (i : Nat) (descs : Option (List Bytes)) : State :=
  if 16 ≤ i || (s.ring i).host = (s.ring i).fetched || !s.canDma then s
  else if (s.ring i).state != 1 || !submitRole (s.ringRole i) then s.dropRead i
  else match descs with
    | none => (s.takeRead i).2.ringError i 2
    | some l => (((s.takeRead i).2.enqueue i (l.take (s.takeRead i).1)).pump i).issueReads 64

theorem exec_descriptorFetch (t i : Nat) (descs : Option (List Bytes)) (s : State) :
    exec (.descriptorFetch t i descs) s = actIn 5 t s (·.fetched i descs) := rfl

theorem State.takeRead_of_outstanding {i n : Nat} (oldest : s.host.reads.find? (fun e => e.1 = i) = some (i, n)) :
    s.takeRead i = (n, s.dropRead i) := by
  unfold State.takeRead State.dropRead
  rw [oldest]

theorem State.fetched_of_running {i n : Nat} (lt : i < 16) (running : (s.ring i).state = 1)
    (submit : submitRole (s.ringRole i) = true) (more : (s.ring i).host ≠ (s.ring i).fetched) (dma : s.canDma = true)
    (oldest : s.host.reads.find? (fun e => e.1 = i) = some (i, n)) :
    s.fetched i none = (s.dropRead i).ringError i 2 ∧
      ∀ l, s.fetched i (some l) = (((s.dropRead i).enqueue i (l.take n)).pump i).issueReads 64 := by
  unfold State.fetched
  have due : ¬(16 ≤ i || (s.ring i).host = (s.ring i).fetched || !s.canDma : Bool) := by simp [Nat.not_le.mpr lt, more, dma]
  have takes : ¬((s.ring i).state != 1 || !submitRole (s.ringRole i) : Bool) := by simp [running, submit]
  rw [if_neg due, if_neg takes, State.takeRead_of_outstanding oldest]
  refine ⟨rfl, fun l => ?_⟩
  rw [if_neg due, if_neg takes]

/-- Queueing what a read returned changes the host side alone. -/
theorem State.enqueue_hostOnly (s : State) (i : Nat) (l : List Bytes) : s.HostOnly (s.enqueue i l) := by
  induction l generalizing s with
  | nil => exact State.HostOnly.refl s
  | cons b r ih => exact (State.modRing_hostOnly (State.HostOnly.refl s) i _).trans (ih _)

theorem State.dropRead_settled (h : s.Settled) (i : Nat) : (s.dropRead i).Settled := State.modHostIf_settled h _

/-! ### NOP and its completion (R144, R146, R148) -/

theorem exec_nop (t : Nat) (s : State) : exec (.nop t) s = actIn 5 t s (·.onTurn 0 0 fun i k _ s => s.finishAct i k ⟨0, 0, 0⟩) := rfl

theorem nop_finishes {t i k : Nat} {d : Desc} (e : x = (s.advanceTo t).openGate 5) (settled : x.Settled) (up : x.up = true)
    (turn : x.turn 0 0 = some (i, k, d)) : exec (.nop t) s = .next (x.finishAct i k ⟨0, 0, 0⟩) :=
  exec_settled_eq (actIn_settles (exec_nop t s) e (State.released_of_up up)) (State.finishAct_settled settled _ _ _)
    (State.onTurn_of_turn turn _)

theorem State.ring_markDone_self (s : State) (i k : Nat) (c : Compl) : (s.markDone i k c).ring i = { s.ring i with
    acts := replFirst (fun a => a.idx = k) (fun a => { a with st := .done c }) (s.ring i).acts, moved := nput (s.ring i).moved k 0 } := by
  unfold State.markDone
  refine (State.ring_modHostIf (by intro; rfl) _ i).trans ?_
  rw [State.ring_modRing_self]

theorem State.ring_markDone_ne (s : State) {i j : Nat} (ne : j ≠ i) (k : Nat) (c : Compl) : (s.markDone i k c).ring j = s.ring j := by
  unfold State.markDone
  refine (State.ring_modHostIf (by intro; rfl) _ j).trans ?_
  rw [State.ring_modRing_ne _ ne]

theorem State.markDone_canDma (s : State) (i k : Nat) (c : Compl) : (s.markDone i k c).canDma = s.canDma := by
  simp [State.canDma, State.markDone, State.modRing]

theorem State.ringBase_congr (h : y.regs = s.regs) (q : Nat) : y.ringBase q = s.ringBase q := by
  unfold State.ringBase
  rw [State.reg_congr h, State.reg_congr h]

theorem State.ringSize_congr (h : y.regs = s.regs) (q : Nat) : y.ringSize q = s.ringSize q := by
  unfold State.ringSize
  rw [State.rf_congr h]

/-- An entry goes to the place of the ring's device index, which advances (R138). -/
theorem State.putEntry_written (s : State) (q : Nat) (b : Bytes) :
    ((s.putEntry q b).ring q).dev = ((s.ring q).dev + 1) % 65536 ∧
      (s.putEntry q b).hostMem = memWrite s.hostMem (s.ringBase q + 16 * ((s.ring q).dev % s.ringSize q)) b := by
  unfold State.putEntry
  dsimp only
  rw [State.ring_modRing_self, State.ring_hostWrite]
  exact ⟨rfl, rfl⟩

theorem State.ring_putEntry_ne (s : State) {q i : Nat} (ne : i ≠ q) (b : Bytes) : (s.putEntry q b).ring i = s.ring i := by
  unfold State.putEntry
  dsimp only
  rw [State.ring_modRing_ne _ ne, State.ring_hostWrite]

/-- `u` is `s` with the head of ring i, descriptor k, written out: its completion stands in the next entry of its completion ring. -/
structure State.HeadOut (s : State) (i k : Nat) (d : Desc) (c : Compl) (rest : List Act) (u : State) : Prop where
  ring : u.ring i = { s.ring i with acts := rest, dev := (k + 1) % 65536, wantIrq := (s.ring i).wantIrq || nbit d.flags 1 }
  cqDev : (u.ring (s.ringCq i)).dev = ((s.ring (s.ringCq i)).dev + 1) % 65536
  mem : u.hostMem = memWrite s.hostMem (s.ringBase (s.ringCq i) + 16 * ((s.ring (s.ringCq i)).dev % s.ringSize (s.ringCq i)))
    (complBytes d.tag i c.status k d.op 0 c.value c.length)

/-- The reserved entry of the completion ring q is freed, and descriptor k of ring i waits for no turn any more. -/
def State.unreserve (s : State) (q i k : Nat) : State :=
  (s.modRing q fun r => { r with reserved := r.reserved - 1 }).modHostIf fun h =>
    { h with finished := delFirst (fun e => e = (i, k)) h.finished }

theorem State.ring_unreserve_self (s : State) (q i k : Nat) :
    (s.unreserve q i k).ring q = { s.ring q with reserved := (s.ring q).reserved - 1 } := by
  unfold State.unreserve
  refine (State.ring_modHostIf (by intro; rfl) _ q).trans ?_
  rw [State.ring_modRing_self]

theorem State.ring_unreserve_ne (s : State) {q j : Nat} (ne : j ≠ q) (i k : Nat) : (s.unreserve q i k).ring j = s.ring j := by
  unfold State.unreserve
  refine (State.ring_modHostIf (by intro; rfl) _ j).trans ?_
  rw [State.ring_modRing_ne _ ne]

/-- A completion that is asked for is written while its ring runs (R146, R148). -/
theorem State.flushHead_out {i k : Nat} {d : Desc} {c : Compl} {rest : List Act} (apart : s.ringCq i ≠ i)
    (running : (s.ring (s.ringCq i)).state = 1) (asked : nbit d.flags 0 = true) : s.HeadOut i k d c rest (s.flushHead i k d c rest) := by
  have made : s.flushHead i k d c rest =
      ((s.unreserve (s.ringCq i) i k).putEntry (s.ringCq i) (complBytes d.tag i c.status k d.op 0 c.value c.length)).modRing i
        fun r => { r with acts := rest, dev := (k + 1) % 65536, wantIrq := r.wantIrq || nbit d.flags 1 } := by
    have still : ((s.unreserve (s.ringCq i) i k).ring (s.ringCq i)).state = 1 := by rw [State.ring_unreserve_self]; exact running
    unfold State.flushHead State.iff
    unfold State.unreserve at still ⊢
    simp [still, asked]
  obtain ⟨dev, mem⟩ := (s.unreserve (s.ringCq i) i k).putEntry_written (s.ringCq i)
    (complBytes d.tag i c.status k d.op 0 c.value c.length)
  have regs : (s.unreserve (s.ringCq i) i k).regs = s.regs := by simp [State.unreserve]
  have hostMem : (s.unreserve (s.ringCq i) i k).hostMem = s.hostMem := by simp [State.unreserve]
  rw [State.ring_unreserve_self] at dev mem
  rw [made]
  constructor
  · rw [State.ring_modRing_self, State.ring_putEntry_ne _ apart.symm, State.ring_unreserve_ne _ apart.symm]
  · rw [State.ring_modRing_ne _ apart, dev]
  · rw [State.modRing_hostMem, mem, State.ringBase_congr regs, State.ringSize_congr regs, hostMem]

/-- A Running ring whose one started descriptor is finished writes it out, and has nothing else to do. -/
theorem State.pump_of_done {i k : Nat} {d : Desc} {c : Compl} (acts : (s.ring i).acts = [⟨k, d, .done c⟩]) (dma : s.canDma = true)
    (empty : (s.ring i).queue = []) (running : (s.ring i).state = 1) (out : s.HeadOut i k d c [] (s.flushHead i k d c [])) :
    s.pump i = s.flushHead i k d c [] := by
  have first : s.flushActs i (s.ring i).acts.length = s.flushHead i k d c [] := by
    rw [acts]
    exact State.flushActs_of_done acts dma 0
  have rest : ((s.flushHead i k d c []).ring i).acts = [] := by rw [out.ring]
  unfold State.pump
  dsimp only
  rw [first, State.startActs_of_empty (by rw [out.ring]; exact empty), State.flushActs_of_unfinished (State.headDone_of_empty rest),
    State.endStop_of_running (by rw [out.ring]; exact running)]

/-- NOP as the only started descriptor of its ring, with a completion asked for. -/
theorem nop_completes {t i k : Nat} {d : Desc} (e : x = (s.advanceTo t).openGate 5) (settled : x.Settled) (up : x.up = true)
    (turn : x.turn 0 0 = some (i, k, d)) (acts : (x.ring i).acts = [⟨k, d, .waiting⟩]) (empty : (x.ring i).queue = [])
    (running : (x.ring i).state = 1) (dma : x.canDma = true) (asked : nbit d.flags 0 = true) (apart : x.ringCq i ≠ i)
    (cqRuns : (x.ring (x.ringCq i)).state = 1) :
    s.Runs (.nop t) fun u => (u.ring i).acts = [] ∧ (u.ring i).dev = (k + 1) % 65536 ∧
      (u.ring (x.ringCq i)).dev = ((x.ring (x.ringCq i)).dev + 1) % 65536 ∧
      u.hostMem = memWrite x.hostMem (x.ringBase (x.ringCq i) + 16 * ((x.ring (x.ringCq i)).dev % x.ringSize (x.ringCq i)))
        (complBytes d.tag i 0 k d.op 0 0 0) ∧ u.regs = x.regs ∧ u.mode = x.mode := by
  have done := x.ring_markDone_self i k ⟨0, 0, 0⟩
  have regs : (x.markDone i k ⟨0, 0, 0⟩).regs = x.regs := by simp [State.markDone]
  have hostMem : (x.markDone i k ⟨0, 0, 0⟩).hostMem = x.hostMem := by simp [State.markDone]
  have cq : (x.markDone i k ⟨0, 0, 0⟩).ringCq i = x.ringCq i := State.rf_congr regs _ _ _ _
  have other : (x.markDone i k ⟨0, 0, 0⟩).ring (x.ringCq i) = x.ring (x.ringCq i) := x.ring_markDone_ne apart k _
  have out : (x.markDone i k ⟨0, 0, 0⟩).HeadOut i k d ⟨0, 0, 0⟩ [] ((x.markDone i k ⟨0, 0, 0⟩).flushHead i k d ⟨0, 0, 0⟩ []) :=
    State.flushHead_out (by rwa [cq]) (by rwa [cq, other]) asked
  have finished : x.finishAct i k ⟨0, 0, 0⟩ = (x.markDone i k ⟨0, 0, 0⟩).flushHead i k d ⟨0, 0, 0⟩ [] := by
    refine State.pump_of_done ?_ (by rwa [State.markDone_canDma]) (by rw [done]; exact empty) (by rw [done]; exact running) out
    rw [done, acts]
    simp [replFirst]
  have only := State.finishAct_hostOnly (State.HostOnly.refl x) i k ⟨0, 0, 0⟩
  refine ⟨_, nop_finishes e settled up turn, ?_, ?_, ?_, ?_, only.regs, only.calm.mode⟩
  · rw [finished, out.ring]
  · rw [finished, out.ring]
  · rw [finished, ← cq, out.cqDev, cq, other]
  · rw [finished, out.mem, cq, other, State.ringBase_congr regs, State.ringSize_congr regs, hostMem]

/-- Settles O21: a read that completes, one that fails, and NOP. -/
theorem descriptors : Obligations.Descriptors := by
  intro s x y t i n l e settled up
  refine ⟨fun lt running submit more dma oldest taken => ?_,
    fun k d turn => ⟨nop_finishes e settled up turn, nop_completes e settled up turn⟩⟩
  have run := fun descs => actIn_settles (exec_descriptorFetch t i descs s) e (State.released_of_up up)
  obtain ⟨failed, good⟩ := State.fetched_of_running lt running submit more dma oldest
  change y = x.dropRead i at taken
  rw [← taken] at failed good
  refine ⟨exec_settled_eq (run (some l)) ?_ (good l), ?_, State.ringError_fails y i 2⟩
  · have still : y.Settled := taken ▸ State.dropRead_settled settled i
    exact (State.issueReads_hostOnly (State.pump_hostOnly (y.enqueue_hostOnly i (l.take n)) i) 64).settled still
  · rw [run none, failed]

end Sys2Proof.Machine
end

section
/-! PROOFS. Setpoints and parameters of the Mill: from rings, from the Bell and on a standby (R145, R182, R189, R347, R399). -/

namespace Sys2Proof.Machine

variable {s x y : State}

/-! ### What leaves the state settled -/

theorem State.holdAct_settled (h : s.Settled) (i k : Nat) : (s.holdAct i k).Settled := State.modRing_settled h _ _

theorem State.pairSend_settled (h : s.Settled) (kind : Nat) (b : Bytes) : (s.pairSend kind b).Settled := by
  unfold State.pairSend
  split
  · exact State.modPair_settled h _
  · exact h

theorem State.forward_settled (h : s.Settled) (kind act : Nat) (args : List Nat) : (s.forward kind act args).Settled :=
  State.modPair_settled (State.pairSend_settled h _ _) _

theorem State.putParam_settled (h : s.Settled) (w v : Nat) : (s.putParam w v).Settled := State.modMill_settled h _

theorem State.takeFired_settled (h : s.Settled) (action : Nat) : (s.takeFired action).Settled := State.modBell_settled h _

/-! ### SETPOINT (R145, R189) -/

/-- A Bell value of the same core cycle overrides a ring's, every other one yields to it (R189). -/
theorem State.ringSetpoint_cases (s : State) (a v : Nat) :
    (nget s.mill.bellIn a = coreCycle s.clk.now + 1 → s.ringSetpoint a v = s) ∧
    (nget s.mill.bellIn a ≠ coreCycle s.clk.now + 1 →
      s.ringSetpoint a v = s.bankPut (0x320 + a) ⟨sx 16 v, s.clk.now, s.clk.now, none, true⟩) :=
  ⟨fun bell => if_pos bell, fun free => if_neg free⟩

/-- A setpoint changes the Mill alone. -/
theorem State.ringSetpoint_mill (s : State) (a v : Nat) : ∃ f, s.ringSetpoint a v = s.modMill f := by
  unfold State.ringSetpoint State.putSetpoint State.bankPut
  split
  · exact ⟨id, rfl⟩
  · exact ⟨_, rfl⟩

/-- The used slots of a descriptor are written in their order. -/
def State.ringSetpoints (s : State) (l : List (Nat × Nat)) : State := l.foldl (fun z e => z.ringSetpoint e.1 e.2) s

theorem State.ringSetpoints_clk (s : State) (l : List (Nat × Nat)) : (s.ringSetpoints l).clk = s.clk :=
  foldl_frame State.clk l (fun z e => by obtain ⟨f, made⟩ := z.ringSetpoint_mill e.1 e.2; rw [made, State.modMill_clk]) s

theorem State.ringSetpoints_settled (h : s.Settled) (l : List (Nat × Nat)) : (s.ringSetpoints l).Settled := by
  refine List.foldlRecOn (motive := State.Settled) l _ h fun z hz e _ => ?_
  obtain ⟨f, made⟩ := z.ringSetpoint_mill e.1 e.2
  rw [made]
  exact State.modMill_settled hz f

/-- What SETPOINT does with its used slots. -/
def State.setpoint (s : State) (i k : Nat) (l : List (Nat × Nat)) : State :=
  if l.any fun e => 128 ≤ e.1 then s.ends i k 0x84
  else if s.standby then (s.holdAct i k).forward 2 (65536 * (i + 1) + k) (l.flatMap fun e => [e.1, e.2])
  else if l = [] then s.ends i k 0
  else ((s.ringSetpoints l).holdAct i k).modMill fun m =>
    { m with setps := m.setps ++ [(k, l.map fun e => 0x320 + e.1, (s.ringSetpoints l).clk.now)] }

theorem exec_setpoint (t : Nat) (s : State) : exec (.setpoint t) s =
    actIn 0 t s fun s => s.iff s.up (·.onTurn 2 1 fun i k d s => s.setpoint i k d.setpoints) := rfl

theorem State.setpoint_settled (h : s.Settled) (i k : Nat) (l : List (Nat × Nat)) : (s.setpoint i k l).Settled := by
  unfold State.setpoint
  split
  · exact State.ends_settled h _ _ _ _ _
  split
  · exact State.forward_settled (State.holdAct_settled h _ _) _ _ _
  split
  · exact State.ends_settled h _ _ _ _ _
  · exact State.modMill_settled (State.holdAct_settled (State.ringSetpoints_settled h l) _ _) _

theorem setpoint_next {t i k : Nat} {d : Desc} (e : x = (s.advanceTo t).openGate 0) (settled : x.Settled) (up : x.up = true)
    (turn : x.turn 2 1 = some (i, k, d)) : exec (.setpoint t) s = .next (x.setpoint i k d.setpoints) :=
  exec_settled_eq (gatedTurn_settles (exec_setpoint t s) e up turn) (State.setpoint_settled settled _ _ _) rfl

/-! ### MILL_PARAM (R347) -/

/-- What MILL_PARAM does with a parameter word and its value. -/
def State.millParam (s : State) (i k w v : Nat) : State :=
  if s.standby then (s.holdAct i k).forward 3 (65536 * (i + 1) + k) [w, v]
  else if s.mill.prog.isNone then s.ends i k 3
  else match s.paramOpen w with
  | none => s.ends i k 4
  | some false => s.ends i k 2
  | some true =>
    if s.mode.mode ≤ 1 then (s.putParam w v).ends i k 0
    else (s.holdAct i k).modMill fun m => { m with params := m.params ++ [⟨w, v, s.clk.now, some k⟩] }

theorem exec_millParam (t : Nat) (s : State) : exec (.millParam t) s =
    actIn 0 t s fun s => s.iff s.up (·.onTurn 0 0x21 fun i k d s => s.millParam i k d.arg d.arg2) := rfl

theorem State.millParam_settled (h : s.Settled) (i k w v : Nat) : (s.millParam i k w v).Settled := by
  unfold State.millParam
  split
  · exact State.forward_settled (State.holdAct_settled h _ _) _ _ _
  split
  · exact State.ends_settled h _ _ _ _ _
  split
  · exact State.ends_settled h _ _ _ _ _
  · exact State.ends_settled h _ _ _ _ _
  split
  · exact State.ends_settled (State.putParam_settled h w v) _ _ _ _ _
  · exact State.modMill_settled (State.holdAct_settled h _ _) _

theorem millParam_next {t i k : Nat} {d : Desc} (e : x = (s.advanceTo t).openGate 0) (settled : x.Settled) (up : x.up = true)
    (turn : x.turn 0 0x21 = some (i, k, d)) : exec (.millParam t) s = .next (x.millParam i k d.arg d.arg2) :=
  exec_settled_eq (gatedTurn_settles (exec_millParam t s) e up turn) (State.millParam_settled settled _ _ _ _) rfl

/-- A parameter word can exist in a loaded program only. -/
theorem State.prog_of_paramOpen {w : Nat} {b : Bool} (present : s.paramOpen w = some b) : s.mill.prog.isNone = false := by
  unfold State.paramOpen at present
  cases prog : s.mill.prog with
  | none => simp [prog] at present
  | some p => rfl

/-! ### WRITE_INPUT and WRITE_PARAM (R182, R347) -/

theorem exec_writeInput (t : Nat) (s : State) : exec (.writeInput t) s = actIn 0 t s fun s => s.onFired 0x01 none fun f s =>
    if s.standby then s.forward 6 0 [f.e.index, f.e.arg]
    else (s.bankPut (0x320 + f.e.index) ⟨sx 16 f.e.arg, s.clk.now, s.clk.now, none, true⟩).modMill fun m =>
      { m with bellIn := nput m.bellIn f.e.index (coreCycle s.clk.now + 1) } := rfl

theorem exec_writeParam (t : Nat) (s : State) : exec (.writeParam t) s = actIn 0 t s fun s => s.onFired 0x02 none fun f s =>
    if s.standby then s.forward 7 0 [f.e.index, f.e.arg] else s.bellParam f.e.index f.e.arg := rfl

theorem State.bellParam_settled (h : s.Settled) (w v : Nat) : (s.bellParam w v).Settled := by
  unfold State.bellParam
  split
  · split
    · exact State.putParam_settled h w v
    · exact State.modMill_settled h _
  · exact State.bump_settled h .milStatus _ _ _ _ (.inl (by decide))

/-- A Bell write of a tunable word is a parameter write, at once in modes 0 and 1; of any other word it is counted (R347). -/
theorem State.bellParam_open {w : Nat} (tunable : s.paramOpen w = some true) (v : Nat) : s.bellParam w v =
    if s.mode.mode ≤ 1 then s.putParam w v else s.modMill fun m => { m with params := m.params ++ [⟨w, v, s.clk.now, none⟩] } := by
  unfold State.bellParam
  simp only [tunable]

theorem State.bellParam_closed {w : Nat} (closed : s.paramOpen w ≠ some true) (v : Nat) : s.bellParam w v = s.bump .milStatus 0 27 20 := by
  unfold State.bellParam
  split
  · next tunable => exact absurd tunable closed
  · rfl

theorem writeInput_next {t : Nat} {f : Fired} (e : x = (s.advanceTo t).openGate 0) (settled : x.Settled) (up : x.up = true)
    (found : x.bell.fired.find? (fun f => f.e.action = 0x01 && f.arrive ≤ x.clk.now) = some f) :
    exec (.writeInput t) s = .next (if x.standby then (x.takeFired 0x01).forward 6 0 [f.e.index, f.e.arg]
      else ((x.takeFired 0x01).bankPut (0x320 + f.e.index) ⟨sx 16 f.e.arg, x.clk.now, x.clk.now, none, true⟩).modMill fun m =>
        { m with bellIn := nput m.bellIn f.e.index (coreCycle x.clk.now + 1) }) := by
  refine exec_settled_eq (gatedFired_settles (exec_writeInput t s) e up found) ?_ rfl
  split
  · exact State.forward_settled (State.takeFired_settled settled _) _ _ _
  · exact State.modMill_settled (State.modMill_settled (State.takeFired_settled settled _) _) _

theorem writeParam_next {t : Nat} {f : Fired} (e : x = (s.advanceTo t).openGate 0) (settled : x.Settled) (up : x.up = true)
    (found : x.bell.fired.find? (fun f => f.e.action = 0x02 && f.arrive ≤ x.clk.now) = some f) :
    exec (.writeParam t) s = .next (if x.standby then (x.takeFired 0x02).forward 7 0 [f.e.index, f.e.arg]
      else (x.takeFired 0x02).bellParam f.e.index f.e.arg) := by
  refine exec_settled_eq (gatedFired_settles (exec_writeParam t s) e up found) ?_ rfl
  split
  · exact State.forward_settled (State.takeFired_settled settled _) _ _ _
  · exact State.bellParam_settled (State.takeFired_settled settled _) _ _

/-! ### The obligation -/

/-- Settles O38: each clause is a case of one command's lemma above. -/
theorem millInputs : Obligations.MillInputs := by
  intro s x y t i k d f e settled up
  refine ⟨fun turn => ?_, State.ringSetpoint_cases, fun turn => ?_, fun found taken => ?_, fun found taken => ?_⟩
  · rw [setpoint_next e settled up turn, State.setpoint]
    refine ⟨fun beyond => ?_, fun within standby => ?_, fun within active unused => ?_, fun within active used => ?_⟩
    · rw [if_pos beyond]
    · rw [if_neg (by simp [within]), if_pos standby]
    · rw [if_neg (by simp [within]), if_neg (by simp [active]), if_pos unused]
    · rw [if_neg (by simp [within]), if_neg (by simp [active]), if_neg used, State.ringSetpoints_clk, State.ringSetpoints]
  · rw [millParam_next e settled up turn, State.millParam]
    refine ⟨fun standby => ?_, fun active unloaded => ?_, fun active loaded absent => ?_, fun active fixed => ?_,
      fun active tunable early => ?_, fun active tunable late => ?_⟩
    · rw [if_pos standby]
    · simp [active, unloaded]
    · simp [active, Option.isSome_iff_ne_none.mp loaded, absent]
    · simp [active, State.prog_of_paramOpen fixed, fixed]
    · simp [active, State.prog_of_paramOpen tunable, tunable, early]
    · simp [active, State.prog_of_paramOpen tunable, tunable, Nat.not_le.mpr late]
  · have next := writeInput_next e settled up found
    change y = x.takeFired 0x01 at taken
    rw [← taken] at next
    refine ⟨fun active => ?_, fun standby => ?_⟩
    · rw [next, if_neg (by simp [active])]
    · rw [next, if_pos standby]
  · have next := writeParam_next e settled up found
    change y = x.takeFired 0x02 at taken
    rw [← taken] at next
    have mode : y.mode = x.mode := by rw [taken]; rfl
    have clk : y.clk = x.clk := by rw [taken]; rfl
    have access : y.paramOpen f.e.index = x.paramOpen f.e.index := by rw [taken]; rfl
    refine ⟨fun standby => ?_, fun active tunable early => ?_, fun active tunable late => ?_, fun active closed => ?_⟩
    · rw [next, if_pos standby]
    · rw [next, if_neg (by simp [active]), State.bellParam_open (access.trans tunable), mode, if_pos early]
    · rw [next, if_neg (by simp [active]), State.bellParam_open (access.trans tunable), mode, if_neg (Nat.not_le.mpr late), clk]
    · rw [next, if_neg (by simp [active]), State.bellParam_closed (by rwa [access])]

end Sys2Proof.Machine
end

section
/-! PROOFS. Ring 4: ARM, FORCE, ABORT, COPY_OUT and RELEASE of the capture units (R151, R408, R409, R417 to R419, R425, R426). -/

namespace Sys2Proof.Machine

variable {s x : State}

/-- A ring 4 command acts on the descriptor whose turn it is, with the unit in its argument, while the root is released. -/
theorem captureTurn_settles {c : Instr} {t op i k : Nat} {d : Desc} {f : Nat → Nat → Desc → Nat → State → State}
    (run : exec c s = actIn 3 t s (·.onCap op f)) (e : x = (s.advanceTo t).openGate 3) (rel : x.released = true)
    (turn : x.turn 4 op = some (i, k, d)) : exec c s = .next (f i k d (d.arg % 8) x).settle := by
  rw [actIn_settles run e rel, State.onCap, State.onTurn_of_turn turn]

/-! ### ARM (R408, R417) -/

theorem exec_arm (t : Nat) (s : State) : exec (.arm t) s =
    actIn 3 t s (·.onCap 1 fun i k _ u s => (s.capArm u).2.ends i k (s.capArm u).1) := rfl

theorem State.capArm_settled (h : s.Settled) (u : Nat) : (s.capArm u).2.Settled := by
  unfold State.capArm
  split
  · exact h
  split
  · exact h
  split
  · exact h
  · exact State.modUnit_settled h u _

theorem arm_next {t i k : Nat} {d : Desc} (e : x = (s.advanceTo t).openGate 3) (settled : x.Settled) (rel : x.released = true)
    (turn : x.turn 4 1 = some (i, k, d)) :
    exec (.arm t) s = .next ((x.capArm (d.arg % 8)).2.ends i k (x.capArm (d.arg % 8)).1) :=
  exec_settled_eq (captureTurn_settles (exec_arm t s) e rel turn) (State.ends_settled (State.capArm_settled settled _) _ _ _ _ _) rfl

/-! ### FORCE (R418, R419) -/

/-- The trigger of a force: the present core cycle, of the first rank (R418). -/
def State.forced (s : State) (u : Nat) : State := s.modUnit u fun y =>
  { y with st := 2, trig := coreCycle s.clk.now, src := 0xFE, trigCyc := coreCycle s.clk.now, rank := 0 }

theorem capUnitStatus_dark {u : Nat} (lt : u < 8) : Reg.capUnitStatus.addr u < 0x26040 := by
  simp only [Reg.addr, Reg.row]
  omega

/-- A force triggers a unit that was armed before this core cycle. -/
theorem State.capTrigger_armed {u : Nat} (armed : (s.unit u).st = 1) (before : coreCycle (s.unit u).armAt ≠ coreCycle s.clk.now) :
    s.capTrigger u (coreCycle s.clk.now) 0xFE 0 = s.forced u := by
  unfold State.capTrigger State.forced
  simp [armed, before, State.iff]

/-- Of the triggers of one core cycle the earliest is taken, and of equal instants the one of the first rank (R419). -/
theorem State.capTrigger_competes {u : Nat} (triggered : (s.unit u).st = 2) (same : (s.unit u).trigCyc = coreCycle s.clk.now) :
    s.capTrigger u (coreCycle s.clk.now) 0xFE 0 =
      if (coreCycle s.clk.now : Int) < (s.unit u).trig ∨ ((coreCycle s.clk.now : Int) = (s.unit u).trig ∧ 0 < (s.unit u).rank)
      then s.forced u else s := by
  unfold State.capTrigger State.forced
  simp [triggered, same, State.iff]

/-- A force finds a unit ready: armed before this core cycle, or triggered in it. -/
def State.forcible (s : State) (u : Nat) : Bool :=
  ((s.unit u).st = 1 && coreCycle (s.unit u).armAt != coreCycle s.clk.now) || ((s.unit u).st = 2 && (s.unit u).trigCyc = coreCycle s.clk.now)

/-- A force that finds no such unit is counted (R425). -/
theorem State.capTrigger_counts {u : Nat} (idle : s.forcible u = false) :
    s.capTrigger u (coreCycle s.clk.now) 0xFE 0 = s.bump .capUnitStatus u 15 8 := by
  obtain ⟨armed, triggered⟩ := Bool.or_eq_false_iff.mp idle
  unfold State.capTrigger
  dsimp only
  rw [if_neg (by simp [armed]), if_neg]
  · rfl
  · simpa using triggered

theorem exec_force (t : Nat) (s : State) : exec (.force t) s = actIn 3 t s (·.onCap 2 fun i k _ u s =>
    (s.capTrigger u (coreCycle s.clk.now) 0xFE 0).ends i k (if s.forcible u then 0 else 2)) := rfl

theorem force_next {t i k u : Nat} {d : Desc} {y : State} (e : x = (s.advanceTo t).openGate 3) (rel : x.released = true)
    (turn : x.turn 4 2 = some (i, k, d)) (at_ : u = d.arg % 8) (made : x.capTrigger u (coreCycle x.clk.now) 0xFE 0 = y)
    (settled : y.Settled) : exec (.force t) s = .next (y.ends i k (if x.forcible u then 0 else 2)) := by
  subst at_ made
  exact exec_settled_eq (captureTurn_settles (exec_force t s) e rel turn) (State.ends_settled settled _ _ _ _ _) rfl

/-! ### ABORT and RELEASE (R425) -/

theorem exec_abort (t : Nat) (s : State) : exec (.abort t) s = actIn 3 t s (·.onCap 3 fun i k _ u s => (s.capAbort u).ends i k 0) := rfl

theorem exec_release (t : Nat) (s : State) : exec (.release t) s = actIn 3 t s (·.onCap 5 fun i k _ u s =>
    if (s.unit u).st != 3 then s.ends i k 2 else (s.modUnit u fun x => { CapUnit.reset with queue := x.queue }).ends i k 0) := rfl

theorem release_next {t i k : Nat} {d : Desc} (e : x = (s.advanceTo t).openGate 3) (settled : x.Settled) (rel : x.released = true)
    (turn : x.turn 4 5 = some (i, k, d)) : exec (.release t) s = .next (if (x.unit (d.arg % 8)).st != 3 then x.ends i k 2
      else (x.modUnit (d.arg % 8) fun y => { CapUnit.reset with queue := y.queue }).ends i k 0) := by
  refine exec_settled_eq (captureTurn_settles (exec_release t s) e rel turn) ?_ rfl
  split
  · exact State.ends_settled settled _ _ _ _ _
  · exact State.ends_settled (State.modUnit_settled settled _ _) _ _ _ _ _

/-! ### COPY_OUT (R151, R409, R426) -/

/-- What remains to be written of the bytes that COPY_OUT d, descriptor k of ring i, asks of unit u's record. -/
def State.copyRest (s : State) (i k u : Nat) (d : Desc) (ue : List (Nat × Bytes)) : Bytes :=
  (slice (if s.cap.eccOn then s.readRecord u ue else s.recordBytes u) d.arg2 d.len).drop (nget (s.ring i).moved k)

/-- The memory errors that reading n bytes from an offset of the record finds are counted (R409). -/
def State.countErrors (s : State) (u off n ce : Nat) (ue : List (Nat × Bytes)) : State :=
  if s.cap.eccOn then s.memErrors ce (ue.filter fun e => e.1 < (s.unit u).chunks.length && readsChunk off n e.1) else s

/-- A copy-out writes b, all that remains or a part of it, from byte m on: it ends, fails or goes on. -/
def State.copyBytes (y : State) (i k u m n : Nat) (d : Desc) (b : Bytes) (whole failed : Bool) : State :=
  let z := y.hostWrite (d.buf + m) (b.take n)
  if whole then z.ends i k 0 (128 + 64 * (y.unit u).chunks.length) (m + n)
  else if failed then z.ends i k 0x81 0 (m + n)
  else z.modRing i fun r => { r with moved := nput r.moved k (m + n) }

theorem exec_copyOut (t : Nat) (c : CopyIn) (s : State) : exec (.copyOut t c) s = actIn 3 t s (·.onCap 4 fun i k d u s =>
    if (s.unit u).st != 3 then s.ends i k 2
    else if d.arg2 % 64 != 0 then s.ends i k 0x84
    else if !s.canDma then s
    else if (s.ring i).state != 1 then s.ends i k 0x82 0 (nget (s.ring i).moved k)
    else
      let b := s.copyRest i k u d c.ue
      let m := nget (s.ring i).moved k
      let n := min (c.sent.getD b.length) b.length
      (s.countErrors u (d.arg2 + m) n c.ce c.ue).copyBytes i k u m n d b c.sent.isNone c.failed) := rfl

/-- COPY_OUT before its transfer: what refuses it, what makes it wait, what ends it (R151, R426). -/
theorem copyOut_idle {t i k u : Nat} {d : Desc} {c : CopyIn} (e : x = (s.advanceTo t).openGate 3) (settled : x.Settled)
    (rel : x.released = true) (turn : x.turn 4 4 = some (i, k, d)) (at_ : u = d.arg % 8) :
    ((x.unit u).st ≠ 3 → exec (.copyOut t c) s = .next (x.ends i k 2)) ∧
    ((x.unit u).st = 3 → d.arg2 % 64 ≠ 0 → exec (.copyOut t c) s = .next (x.ends i k 0x84)) ∧
    ((x.unit u).st = 3 → d.arg2 % 64 = 0 → x.canDma = false → exec (.copyOut t c) s = .next x) ∧
    ((x.unit u).st = 3 → d.arg2 % 64 = 0 → x.canDma = true → (x.ring i).state ≠ 1 →
      exec (.copyOut t c) s = .next (x.ends i k 0x82 0 (nget (x.ring i).moved k))) := by
  subst at_
  have run := captureTurn_settles (exec_copyOut t c s) e rel turn
  refine ⟨fun other => ?_, fun done odd => ?_, fun done even held => ?_, fun done even dma halted => ?_⟩
  · exact exec_settled_eq run (State.ends_settled settled _ _ _ _ _) (if_pos (by simp [other]))
  · exact exec_settled_eq run (State.ends_settled settled _ _ _ _ _) (by simp [done, odd])
  · exact exec_settled_eq run settled (by simp [done, even, held])
  · exact exec_settled_eq run (State.ends_settled settled _ _ _ _ _) (by simp [done, even, dma, halted])

/-- COPY_OUT on a Running ring counts the memory errors it meets and writes. -/
theorem copyOut_writes {t i k u : Nat} {d : Desc} {c : CopyIn} {b : Bytes} {m n : Nat} (e : x = (s.advanceTo t).openGate 3)
    (rel : x.released = true) (turn : x.turn 4 4 = some (i, k, d)) (at_ : u = d.arg % 8) (done : (x.unit u).st = 3)
    (even : d.arg2 % 64 = 0) (dma : x.canDma = true) (running : (x.ring i).state = 1) (from_ : m = nget (x.ring i).moved k)
    (rest : b = x.copyRest i k u d c.ue) (size : n = min (c.sent.getD b.length) b.length) : exec (.copyOut t c) s =
      .next ((x.countErrors u (d.arg2 + m) n c.ce c.ue).copyBytes i k u m n d b c.sent.isNone c.failed).settle := by
  subst at_ from_ rest size
  rw [captureTurn_settles (exec_copyOut t c s) e rel turn]
  simp [done, even, dma, running]

/-! ### The obligation -/

/-- Settles O51: each clause is a case of one command's lemma above. -/
theorem captureCommands : Obligations.CaptureCommands := by
  intro s x t i k u c d e at_ settled released cycle
  have rel : x.released = true := by rw [e]; exact released
  refine ⟨fun turn => ?_, fun turn => ?_, fun turn => ?_, fun turn sent failed ce ue => ?_, fun turn => ?_⟩
  · have arm := arm_next e settled rel turn
    rw [← at_] at arm
    refine ⟨fun busy => ?_, fun idle awake unfound => ?_, fun idle awake memory bad => ?_, fun idle awake memory good => ?_⟩
    · rw [arm, State.capArm, if_pos (by simpa using busy)]
    · simp [arm, State.capArm, idle, awake, unfound]
    · simp [arm, State.capArm, idle, awake, memory, bad]
    · simp [arm, State.capArm, idle, awake, memory, good]
  · subst cycle
    have forced : (x.forced u).Settled := State.modUnit_settled settled u _
    refine ⟨fun armed before => ?_, fun triggered same => ⟨fun first => ?_, fun later => ?_⟩, fun idle => ?_⟩
    · have ready : x.forcible u = true := by simp [State.forcible, armed, before]
      rw [force_next e rel turn at_ (State.capTrigger_armed armed before) forced, if_pos ready, State.forced]
    · have ready : x.forcible u = true := by simp [State.forcible, triggered, same]
      have made := State.capTrigger_competes triggered same
      rw [if_pos first] at made
      rw [force_next e rel turn at_ made forced, if_pos ready, State.forced]
    · have ready : x.forcible u = true := by simp [State.forcible, triggered, same]
      have made := State.capTrigger_competes triggered same
      rw [if_neg (by omega)] at made
      rw [force_next e rel turn at_ made settled, if_pos ready]
    · have unready : x.forcible u = false := by
        unfold State.forcible
        rcases idle with st | st | ⟨st, same⟩ | ⟨st, other⟩
        · simp [st]
        · simp [st]
        · simp [st, same]
        · simp [st, other]
      have dark := capUnitStatus_dark (u := u) (by omega)
      rw [force_next e rel turn at_ (State.capTrigger_counts unready) (State.bump_settled settled _ _ _ _ _ (.inl dark)), unready]
      rfl
  · have run := captureTurn_settles (exec_abort t s) e rel turn
    rw [← at_] at run
    refine ⟨fun armed => ?_, fun triggered => ?_, fun unarmed untriggered => ?_⟩
    · refine exec_settled_eq run (State.ends_settled (State.modUnit_settled settled u _) i k 0 0 0) ?_
      rw [State.capAbort, if_pos armed]
    · rw [run, State.capAbort, if_neg (by omega), if_pos triggered]
    · refine exec_settled_eq run (State.ends_settled settled i k 0 0 0) ?_
      rw [State.capAbort, if_neg unarmed, if_neg untriggered]
  · obtain ⟨refused, odd, waits, halted⟩ := copyOut_idle (c := ⟨sent, failed, ce, ue⟩) e settled rel turn at_
    refine ⟨refused, odd, waits, fun done even dma m b n y from_ rest => ⟨fun stopped => ?_, fun running size errors => ?_⟩⟩
    · rw [from_]
      exact halted done even dma stopped
    · have run := copyOut_writes (c := ⟨sent, failed, ce, ue⟩) e rel turn at_ done even dma running from_ (by subst from_; exact rest) size
      change y = x.countErrors u (d.arg2 + m) n ce ue at errors
      rw [← errors] at run
      refine ⟨fun whole => ?_, fun part fails => ?_, fun part good => ?_⟩
      · subst whole
        have all : n = b.length := by simp [size]
        rw [run, all]
        simp [State.copyBytes]
      · rw [run]
        simp [State.copyBytes, part, fails]
      · rw [run]
        simp [State.copyBytes, part, good]
  · have run := release_next e settled rel turn
    rw [← at_] at run
    refine ⟨fun other => ?_, fun done => ?_⟩
    · rw [run, if_pos (by simp [other])]
    · rw [run, if_neg (by simp [done])]

end Sys2Proof.Machine
end

section
/-! PROOFS. The time (R158 to R166): what a change of its quality leaves, update instants, setting the time, the target rate. -/

namespace Sys2Proof.Machine

variable {s x : State}

/-! ### A change of the quality (R166) -/

/-- The time after a change of its quality in tick c. -/
def Tim.withQuality (m : Tim) (q c : Nat) : Tim :=
  if q = m.quality then m else { m with quality := q, inBand := 0, holdSince := if q = 4 then some c else m.holdSince }

@[simp] theorem Tim.withQuality_quality (m : Tim) (q c : Nat) : (m.withQuality q c).quality = q := by
  unfold Tim.withQuality
  split
  · next same => exact same.symm
  · rfl

/-- A change of the quality changes nothing of the time but the quality, the count of estimates and the start of holdover. -/
theorem Tim.withQuality_frame {α : Type} (g : Tim → α) (h : ∀ (m : Tim) (q n : Nat) (o : Option Nat),
    g { m with quality := q, inBand := n, holdSince := o } = g m) (m : Tim) (q c : Nat) : g (m.withQuality q c) = g m := by
  unfold Tim.withQuality
  split
  · rfl
  · exact h m _ _ _

@[simp] theorem Tim.withQuality_offset (m : Tim) (q c : Nat) : (m.withQuality q c).offset = m.offset :=
  Tim.withQuality_frame (·.offset) (fun _ _ _ _ => rfl) m q c
@[simp] theorem Tim.withQuality_rate (m : Tim) (q c : Nat) : (m.withQuality q c).rate = m.rate :=
  Tim.withQuality_frame (·.rate) (fun _ _ _ _ => rfl) m q c
@[simp] theorem Tim.withQuality_timeSet (m : Tim) (q c : Nat) : (m.withQuality q c).timeSet = m.timeSet :=
  Tim.withQuality_frame (·.timeSet) (fun _ _ _ _ => rfl) m q c
@[simp] theorem Tim.withQuality_ptpOk (m : Tim) (q c : Nat) : (m.withQuality q c).ptpOk = m.ptpOk :=
  Tim.withQuality_frame (·.ptpOk) (fun _ _ _ _ => rfl) m q c
@[simp] theorem Tim.withQuality_ppsOk (m : Tim) (q c : Nat) : (m.withQuality q c).ppsOk = m.ppsOk :=
  Tim.withQuality_frame (·.ppsOk) (fun _ _ _ _ => rfl) m q c
@[simp] theorem Tim.withQuality_rateHeld (m : Tim) (q c : Nat) : (m.withQuality q c).rateHeld = m.rateHeld :=
  Tim.withQuality_frame (·.rateHeld) (fun _ _ _ _ => rfl) m q c
@[simp] theorem Tim.withQuality_ppsStamp (m : Tim) (q c : Nat) : (m.withQuality q c).ppsStamp = m.ppsStamp :=
  Tim.withQuality_frame (·.ppsStamp) (fun _ _ _ _ => rfl) m q c
@[simp] theorem Tim.withQuality_lastPps (m : Tim) (q c : Nat) : (m.withQuality q c).lastPps = m.lastPps :=
  Tim.withQuality_frame (·.lastPps) (fun _ _ _ _ => rfl) m q c

/-- The source time_quality names no health channel, so that its raise retires nothing (R476). -/
theorem State.raise_timeQuality (s : State) : s.raise 160 0xFFFF = s.raise0 160 0xFFFF := by
  unfold State.raise
  dsimp only
  split
  · rfl
  · rfl

theorem State.setQuality_of_eq {q : Nat} (same : q = s.tim.quality) : s.setQuality q = s.modTim fun m => m.withQuality q s.clk.now := by
  simp only [State.setQuality, State.modTim, Tim.withQuality, if_pos same]

theorem State.setQuality_of_ne {q : Nat} (other : q ≠ s.tim.quality) : s.setQuality q = if s.tim.quality = 3 then
    (s.modTim fun m => m.withQuality q s.clk.now).raise 160 0xFFFF else s.modTim fun m => m.withQuality q s.clk.now := by
  unfold State.setQuality
  simp only [State.modTim, Tim.withQuality, if_neg other]

/-- Beside the time a change of the quality at most raises time_quality (R166). -/
theorem State.setQuality_mild (s : State) (q : Nat) : (s.modTim fun m => m.withQuality q s.clk.now).Mild (s.setQuality q) := by
  by_cases same : q = s.tim.quality
  · rw [State.setQuality_of_eq same]
    exact State.Mild.refl _
  · rw [State.setQuality_of_ne same]
    split
    · rw [State.raise_timeQuality]
      exact State.raise0_mild _ _ _ _ _
    · exact State.Mild.refl _

@[simp] theorem State.setQuality_tim (s : State) (q : Nat) : (s.setQuality q).tim = s.tim.withQuality q s.clk.now :=
  (s.setQuality_mild q).tim
@[simp] theorem State.setQuality_clk (s : State) (q : Nat) : (s.setQuality q).clk = s.clk := (s.setQuality_mild q).clk
@[simp] theorem State.setQuality_mode (s : State) (q : Nat) : (s.setQuality q).mode = s.mode := (s.setQuality_mild q).mode

/-! The Bell's local counts follow the time and nothing else does (R184). -/

@[simp] theorem State.retimeBell_tim (s : State) : s.retimeBell.tim = s.tim := (rfl)
@[simp] theorem State.retimeBell_clk (s : State) : s.retimeBell.clk = s.clk := (rfl)

theorem State.retimeBell_settled (h : s.Settled) : s.retimeBell.Settled := State.modBell_settled h _

/-! ### T by the offset (R159) -/

/-- With the offset that v needs at tick c, T of c is v, modulo the 96 bits of T. -/
theorem Tim.timeOf_of_offset {m : Tim} {c : Nat} {v : Int} (offset : m.offset = ((v - m.raw c) % 2 ^ 96).toNat) :
    m.timeOf (32 * (c : Int)) = (v % 2 ^ 96).toNat := by
  have whole : (m.offset : Int) = (v - m.raw c) % 2 ^ 96 := by rw [offset, Int.toNat_of_nonneg (Int.emod_nonneg _ (by decide))]
  unfold Tim.timeOf
  rw [add_assoc, ← Tim.raw, whole, Int.emod_add_emod, sub_add_cancel]

/-! ### Update instants (R160) -/

/-- The rate after an update instant. -/
def State.slewedRate (s : State) : Int :=
  let step : Int := s.rf .timSlew 0 23 0
  if s.tim.rateHeld then s.tim.rate
  else if ((s.tim.target - s.tim.rate).natAbs : Int) ≤ step then s.tim.target
  else if s.tim.target - s.tim.rate < 0 then s.tim.rate - step else s.tim.rate + step

theorem State.slewedRate_held (held : s.tim.rateHeld = true) : s.slewedRate = s.tim.rate := if_pos held

theorem State.slewedRate_near (free : s.tim.rateHeld = false) (near : (s.tim.target - s.tim.rate).natAbs ≤ s.rf .timSlew 0 23 0) :
    s.slewedRate = s.tim.target := by
  unfold State.slewedRate
  rw [if_neg (by simp [free]), if_pos (by exact_mod_cast near)]

theorem State.slewedRate_below (free : s.tim.rateHeld = false) (below : s.tim.rate + s.rf .timSlew 0 23 0 < s.tim.target) :
    s.slewedRate = s.tim.rate + s.rf .timSlew 0 23 0 := by
  unfold State.slewedRate
  rw [if_neg (by simp [free]), if_neg (by omega), if_neg (by omega)]

theorem State.slewedRate_above (free : s.tim.rateHeld = false) (above : s.tim.target < s.tim.rate - s.rf .timSlew 0 23 0) :
    s.slewedRate = s.tim.rate - s.rf .timSlew 0 23 0 := by
  unfold State.slewedRate
  rw [if_neg (by simp [free]), if_neg (by omega), if_pos (by omega)]

/-- The time with a new rate from tick c on, T of c as it was. -/
def Tim.turnAt (m : Tim) (rate : Int) (c : Nat) : Tim :=
  let u : Int := 32 * c
  { m with rate := rate, offset := (((m.offset : Int) + u * m.rate / 2 ^ 48 - u * rate / 2 ^ 48) % 2 ^ 96).toNat, updAt := some c }

theorem Tim.timeOf_turnAt (m : Tim) (rate : Int) (c : Nat) : (m.turnAt rate c).timeOf (32 * (c : Int)) = m.timeOf (32 * (c : Int)) := by
  have same : (m.offset : Int) + 32 * (c : Int) * m.rate / 2 ^ 48 - 32 * (c : Int) * rate / 2 ^ 48 =
      (m.offset + m.raw c) - (m.turnAt rate c).raw c := by
    simp only [Tim.raw, Tim.turnAt]
    ring
  have offset : (m.turnAt rate c).offset = (((m.offset + m.raw c) - (m.turnAt rate c).raw c) % 2 ^ 96).toNat := by
    rw [← same]
    rfl
  rw [Tim.timeOf_of_offset offset, Tim.raw, ← add_assoc, Tim.timeOf]

/-- The state after an update instant. -/
def State.updated (s : State) : State := (s.modTim fun m => m.turnAt s.slewedRate s.clk.now).retimeBell

/-- UPDATE_INSTANT at a multiple of 1,000,000 that has not been taken yet. -/
theorem updateInstant_next {t : Nat} (e : x = s.advanceTo t) (settled : x.Settled) (rel : x.released = true)
    (due : x.clk.now % 1000000 = 0) (fresh : x.tim.updAt ≠ some x.clk.now) : exec (.updateInstant t) s = .next x.updated :=
  exec_settled_eq (act_settles rfl e rel) (State.retimeBell_settled (State.modTim_settled settled _)) (if_neg (by simp [rel, due, fresh]))

/-- UPDATE_INSTANT at any other tick. -/
theorem updateInstant_idle {t : Nat} (e : x = s.advanceTo t) (settled : x.Settled) (rel : x.released = true)
    (idle : x.clk.now % 1000000 ≠ 0 ∨ x.tim.updAt = some x.clk.now) : exec (.updateInstant t) s = .next x := by
  refine exec_settled_eq (act_settles rfl e rel) settled (if_pos ?_)
  rcases idle with early | taken
  · simp [early]
  · simp [taken]

/-! ### Setting the time (R164, R166) -/

/-- The time set to v in tick c: no source has been present since. -/
def Tim.setTo (m : Tim) (v c : Nat) : Tim :=
  { m with offset := (((v : Int) - m.raw c) % 2 ^ 96).toNat, timeSet := true, ptpOk := false, ppsOk := false }

theorem State.setTime_tim (s : State) (v : Nat) : (s.setTime v).tim = (s.tim.setTo v s.clk.now).withQuality 1 s.clk.now :=
  State.setQuality_tim _ 1

theorem State.setTime_clk (s : State) (v : Nat) : (s.setTime v).clk = s.clk := State.setQuality_clk _ 1

/-- T of the tick in which the time is set is its new value. -/
theorem State.setTime_timeAt (s : State) (v : Nat) : (s.setTime v).timeAt s.clk.now = v % 2 ^ 96 := by
  have offset : (s.setTime v).tim.offset = (((v : Int) - (s.setTime v).tim.raw s.clk.now) % 2 ^ 96).toNat := by
    rw [State.setTime_tim, Tim.raw, Tim.withQuality_offset, Tim.withQuality_rate]
    rfl
  exact (Tim.timeOf_of_offset offset).trans (by omega)

/-- TIM_CTRL takes a write but for its set bit; RWL fields take it while they are open (R102). -/
def State.storeTimCtrl (s : State) (v : Word) : State :=
  let m := if s.rwlShut then 0xFFFF00C0 else 0xFFFF00F0
  s.setReg .timCtrl 0 ((s.reg .timCtrl &&& ~~~m) ||| (v &&& m))

/-- Another source has been selected, which is present or not (R166). -/
def State.newSource (s : State) (here : Bool) : State :=
  let y := (s.putSrc here).modTim fun m => { m with rateHeld := m.rateHeld && !here }
  if y.tim.timeSet then y.setQuality (if here then 2 else 1) else y

theorem State.writeTimCtrl_eq (s : State) (v : Word) : s.writeTimCtrl v =
    (if (s.storeTimCtrl v).timSource = s.timSource then s.storeTimCtrl v else (s.storeTimCtrl v).newSource ((s.storeTimCtrl v).srcPresent &&
      !(if (s.storeTimCtrl v).timSource = 0 then (s.storeTimCtrl v).ptpLost else (s.storeTimCtrl v).ppsLost))).iff (bit v 0)
      State.writeTimSet := (rfl)

/-- What setting the time reads is the same in both states. -/
structure State.SameSet (s y : State) : Prop where
  clk : y.clk = s.clk
  mode : y.mode = s.mode
  rate : y.tim.rate = s.tim.rate
  words : ∀ i < 4, y.reg .timSet i = s.reg .timSet i

theorem timSet_addr_ne_timCtrl : ∀ i < 4, Reg.timSet.addr i ≠ Reg.timCtrl.addr := by decide
theorem timSet_quiet : ∀ i < 4, eventOff (Reg.timSet.addr i) = false ∧ raiseOff (Reg.timSet.addr i) = false := by decide

theorem State.storeTimCtrl_sameSet (s : State) (v : Word) : s.SameSet (s.storeTimCtrl v) :=
  ⟨rfl, rfl, rfl, fun i lt => State.reg_setReg_ne _ _ _ _ _ _ _ _ (timSet_addr_ne_timCtrl i lt)⟩

theorem State.setQuality_sameSet {y : State} (h : s.SameSet y) (q : Nat) : s.SameSet (y.setQuality q) := by
  refine ⟨(y.setQuality_clk q).trans h.clk, (y.setQuality_mode q).trans h.mode, ?_, fun i lt => ?_⟩
  · rw [State.setQuality_tim, Tim.withQuality_rate]
    exact h.rate
  · obtain ⟨event, raise_⟩ := timSet_quiet i lt
    exact ((y.setQuality_mild q).toQuiet.reg .timSet i 0 event raise_).trans (h.words i lt)

theorem State.newSource_sameSet {y : State} (h : s.SameSet y) (here : Bool) : s.SameSet (y.newSource here) := by
  have marked : s.SameSet ((y.putSrc here).modTim fun m => { m with rateHeld := m.rateHeld && !here }) :=
    ⟨h.clk, h.mode, h.rate, h.words⟩
  unfold State.newSource
  dsimp only
  split
  · exact State.setQuality_sameSet marked _
  · exact marked

/-- A write to TIM_CTRL that sets the time may select another source first (R164, R166). -/
theorem State.writeTimCtrl_sets {v : Word} (sets : bit v 0 = true) : ∃ y, s.SameSet y ∧ s.writeTimCtrl v = y.writeTimSet := by
  rw [State.writeTimCtrl_eq, sets, State.iff, if_pos rfl]
  split
  · exact ⟨_, s.storeTimCtrl_sameSet v, rfl⟩
  · exact ⟨_, State.newSource_sameSet (s.storeTimCtrl_sameSet v) _, rfl⟩

/-- In Configure TIM_SET is taken where its seconds are in range (R164). -/
theorem State.writeTimSet_configure (configure : s.mode.mode = 1)
    (range : (s.reg .timSet 0).toNat + (s.reg .timSet 1).toNat * 2 ^ 32 < 2475880078570760549) :
    s.writeTimSet = s.setTime (tsValue [s.reg .timSet 0, s.reg .timSet 1, s.reg .timSet 2, s.reg .timSet 3]) := by
  refine if_pos ?_
  simp only [configure, decide_true, Bool.true_and, decide_eq_true_eq]
  exact range

/-- TIM_CTRL.set in Configure (R164, R166). -/
theorem timCtrlSet_runs {t : Nat} {v : Word} (e : x = s.advanceTo t) (up : x.up = true) (sets : bit v 0 = true)
    (configure : x.mode.mode = 1) (range : (x.reg .timSet 0).toNat + (x.reg .timSet 1).toNat * 2 ^ 32 < 2475880078570760549) :
    s.Runs (.timCtrlSet t v) fun u =>
      u.timeAt x.clk.now = tsValue [x.reg .timSet 0, x.reg .timSet 1, x.reg .timSet 2, x.reg .timSet 3] % 2 ^ 96 ∧
      u.tim.timeSet = true ∧ u.tim.quality = 1 ∧ u.tim.ptpOk = false ∧ u.tim.ppsOk = false ∧ u.tim.rate = x.tim.rate ∧
      u.clk = x.clk := by
  obtain ⟨y, ⟨clk, mode, rate, words⟩, made⟩ := State.writeTimCtrl_sets (s := x) sets
  rw [← words 0 (by decide), ← words 1 (by decide)] at range
  rw [State.writeTimSet_configure (mode ▸ configure) range] at made
  rw [← words 0 (by decide), ← words 1 (by decide), ← words 2 (by decide), ← words 3 (by decide), ← rate, ← clk]
  generalize tsValue [y.reg .timSet 0, y.reg .timSet 1, y.reg .timSet 2, y.reg .timSet 3] = w at made ⊢
  have run : exec (.timCtrlSet t v) s = .next (y.setTime w).settle := by
    rw [act_settles rfl e (State.released_of_up up), State.iff, if_pos (by simp [up, sets]), made]
  refine runs_quiet run fun u quiet => ?_
  have tim : u.tim = (y.tim.setTo w y.clk.now).withQuality 1 y.clk.now := quiet.tim.trans (y.setTime_tim w)
  refine ⟨?_, ?_, ?_, ?_, ?_, ?_, quiet.clk.trans (y.setTime_clk w)⟩
  · rw [← y.setTime_timeAt w, State.timeAt, State.timeAt, quiet.tim]
  all_goals simp [tim, Tim.setTo]

/-! ### The target rate (R161, R165) -/

theorem State.putTarget_settled (h : s.Settled) (r : Int) : (s.putTarget r).Settled :=
  State.modTim_settled ((h.setReg .timTargetLo 0 0 _ (.inl (by decide))).setReg .timTargetHi 0 0 _ (.inl (by decide))) _

theorem State.putTarget_target (s : State) (r : Int) : (s.putTarget r).tim.target = clampTarget r := (rfl)

/-- TIM_TARGET shows the target that is in force. -/
theorem State.putTarget_regs (s : State) (r : Int) :
    (s.putTarget r).reg .timTargetLo = word (cx 64 (s.putTarget r).tim.target) ∧
    (s.putTarget r).reg .timTargetHi = word (cx 64 (s.putTarget r).tim.target / 2 ^ 32) := by
  rw [State.putTarget_target]
  unfold State.putTarget
  generalize clampTarget r = target
  refine ⟨?_, State.reg_setReg_self _ _ _ _ _⟩
  exact (State.reg_setReg_ne _ _ _ _ _ _ _ _ (by decide)).trans (State.reg_setReg_self _ _ _ _ _)

/-- A write of TIM_TARGET_HI while TIM_CTRL.servo is 1. -/
theorem timTargetWrite_next {t : Nat} {v : Word} (e : x = s.advanceTo t) (settled : x.Settled) (up : x.up = true)
    (servo : x.rb .timCtrl 0 6 = true) : exec (.timTargetWrite t v) s =
      .next (x.putTarget (sx 64 (v.toNat * 2 ^ 32 + (x.reg .timTargetLo).toNat))) := by
  refine act_next e up ?_ (State.putTarget_settled settled _)
  rw [State.iff, if_pos up, State.writeTargetHi, if_pos servo]

/-- What it leaves; the pair's value has a name of its own, as a comparison that unfolds its power of 2 does not end. -/
theorem timTargetWrite_runs {t : Nat} {v : Word} {r : Int} (e : x = s.advanceTo t) (settled : x.Settled) (up : x.up = true)
    (servo : x.rb .timCtrl 0 6 = true) (pair : sx 64 (v.toNat * 2 ^ 32 + (x.reg .timTargetLo).toNat) = r) :
    s.Runs (.timTargetWrite t v) fun u => u.tim.target = clampTarget r ∧ u.tim.rateHeld = false ∧ u.tim.rate = x.tim.rate ∧
      u.tim.offset = x.tim.offset ∧ u.mode = x.mode ∧ u.clk = x.clk ∧ u.reg .timTargetLo = word (cx 64 u.tim.target) ∧
      u.reg .timTargetHi = word (cx 64 u.tim.target / 2 ^ 32) := by
  have run : exec (.timTargetWrite t v) s = .next (x.putTarget r) := pair ▸ timTargetWrite_next e settled up servo
  exact ⟨_, run, x.putTarget_target r, rfl, rfl, rfl, rfl, rfl, x.putTarget_regs r⟩

/-- The firmware's servo holds the target while TIM_CTRL.servo is 0. -/
theorem timTargetWrite_ignored {t : Nat} {v : Word} (e : x = s.advanceTo t) (settled : x.Settled) (up : x.up = true)
    (firmware : x.rb .timCtrl 0 6 = false) : exec (.timTargetWrite t v) s = .next x := by
  refine act_next e up ?_ settled
  rw [State.iff, if_pos up, State.writeTargetHi, if_neg (by simp [firmware])]

/-! ### The obligation -/

/-- Settles O24: T is continuous over a change of the rate because the offset takes up what the rate's share changes by. -/
theorem timeSteering : Obligations.TimeSteering := by
  refine ⟨fun s x t e settled rel => ⟨fun due fresh => ?_, updateInstant_idle e settled rel⟩, fun s x t v e settled up =>
    ⟨timCtrlSet_runs e up, fun servo => timTargetWrite_runs e settled up servo rfl, timTargetWrite_ignored e settled up⟩⟩
  exact ⟨_, updateInstant_next e settled rel due fresh, Tim.timeOf_turnAt _ _ _, rfl, rfl, rfl, rfl, rfl,
    State.slewedRate_held, State.slewedRate_near, State.slewedRate_below, State.slewedRate_above⟩

end Sys2Proof.Machine
end

section
/-! PROOFS. The quality of the time (R166, R167): lost sources, the end of holdover, offset estimates. -/

namespace Sys2Proof.Machine

variable {s x : State}

/-! ### Lost sources (R167) -/

/-- Every variant raises time_quality. -/
theorem sourceOk_timeQuality (v : Variant) : sourceOk v 160 = true := by cases v <;> decide

/-- A fall out of Locked latches time_quality while its severity is above 0 (R166). -/
theorem State.setQuality_latches {q : Nat} (locked : s.tim.quality = 3) (other : q ≠ 3) (severe : s.severity 160 ≠ 0) :
    (s.setQuality q).latched 160 = true := by
  rw [State.setQuality_of_ne (by omega), if_pos locked]
  exact State.raise_latched _ _ _ _ _ (sourceOk_timeQuality _) severe

/-- The selected source is not present and the rate holds. -/
def State.holdRate (s : State) : State := (s.putSrc false).modTim fun m => { m with rateHeld := true }

/-- The quality after the loss of the selected source. -/
def fallenQuality (q : Nat) : Nat := if q = 3 then 4 else if q = 2 then 1 else q

theorem State.sourceLost_eq (s : State) : s.sourceLost = s.holdRate.setQuality (fallenQuality s.tim.quality) := by
  have same : s.holdRate.tim.quality = s.tim.quality := rfl
  unfold State.sourceLost fallenQuality
  change (if s.holdRate.tim.quality = 3 then s.holdRate.setQuality 4 else if s.holdRate.tim.quality = 2 then s.holdRate.setQuality 1
    else s.holdRate) = _
  rw [same]
  split
  · rfl
  split
  · rfl
  · exact (if_pos same.symm).symm

/-- What the loss of either source does. -/
def State.FallsBack (x u : State) : Prop :=
  u.tim.rateHeld = true ∧ u.tim.rate = x.tim.rate ∧ u.clk = x.clk ∧ u.tim.quality = fallenQuality x.tim.quality ∧
    (x.tim.quality = 3 → x.severity 160 ≠ 0 → u.latched 160 = true)

theorem sourceLost_runs {c : Instr} (run : exec c s = .next x.sourceLost.settle) : s.Runs c fun u =>
    (x.timSource = 0 → u.tim.ptpOk = false) ∧ (x.timSource = 1 → u.tim.ppsOk = false) ∧ x.FallsBack u := by
  rw [State.sourceLost_eq] at run
  refine runs_quiet run fun u quiet => ?_
  have tim : u.tim = x.holdRate.tim.withQuality (fallenQuality x.tim.quality) x.clk.now := quiet.tim.trans (State.setQuality_tim _ _)
  have held : x.holdRate.tim.rateHeld = true ∧ x.holdRate.tim.rate = x.tim.rate := ⟨rfl, rfl⟩
  refine ⟨fun ptp => ?_, fun pps => ?_, ?_, ?_, quiet.clk.trans (State.setQuality_clk _ _), ?_, fun locked severe => ?_⟩
  · rw [tim, Tim.withQuality_ptpOk]
    exact if_pos ptp
  · rw [tim, Tim.withQuality_ppsOk]
    exact if_pos pps
  · rw [tim, Tim.withQuality_rateHeld, held.1]
  · rw [tim, Tim.withQuality_rate, held.2]
  · rw [tim, Tim.withQuality_quality]
  · have falls : fallenQuality x.tim.quality ≠ 3 := by simp [fallenQuality, locked]
    exact quiet.latched 160 (by decide) (State.setQuality_latches (s := x.holdRate) locked falls severe)

/-- PTP_SOURCE_LOST of a selected source that was present (R167). -/
theorem ptpSourceLost_settles {t : Nat} (e : x = s.advanceTo t) (up : x.up = true) (source : x.timSource = 0) (present : x.tim.ptpOk = true)
    (lost : x.slavePort = none ∨ x.tim.lastSync + 4 * x.tim.syncEvery ≤ x.clk.now) :
    exec (.ptpSourceLost t) s = .next x.sourceLost.settle := by
  have out : x.ptpLost = true := by simpa [State.ptpLost] using lost
  rw [act_settles rfl e (State.released_of_up up), State.iff, if_pos (by simp [up, source, present, out])]

/-- While Sync and Announce come, a PTP source is not lost. -/
theorem ptpSourceLost_idle {t : Nat} (e : x = s.advanceTo t) (settled : x.Settled) (up : x.up = true) (slave : x.slavePort ≠ none)
    (early : x.clk.now < x.tim.lastSync + 4 * x.tim.syncEvery) : exec (.ptpSourceLost t) s = .next x := by
  have here : x.ptpLost = false := by simpa [State.ptpLost] using ⟨Option.isSome_iff_ne_none.mpr slave, early⟩
  exact act_next e up (if_neg (by simp [here])) settled

/-- PPS_SOURCE_LOST of a selected source that was present (R167). -/
theorem ppsSourceLost_settles {t : Nat} (e : x = s.advanceTo t) (up : x.up = true) (source : x.timSource = 1) (present : x.tim.ppsOk = true)
    (late : x.tim.lastPps + 2500000000 ≤ x.clk.now) : exec (.ppsSourceLost t) s = .next x.sourceLost.settle := by
  rw [act_settles rfl e (State.released_of_up up), State.iff, if_pos (by simp [up, source, present, State.ppsLost, late])]

/-- Within 2.5 s of an edge PPS_IN is not lost. -/
theorem ppsSourceLost_idle {t : Nat} (e : x = s.advanceTo t) (settled : x.Settled) (up : x.up = true)
    (early : x.clk.now < x.tim.lastPps + 2500000000) : exec (.ppsSourceLost t) s = .next x :=
  act_next e up (if_neg (by simp [State.ppsLost, early])) settled

/-! ### The end of holdover (R166) -/

/-- Out of another quality than Locked a change of it raises nothing. -/
theorem State.setQuality_unlocked {q : Nat} (unlocked : s.tim.quality ≠ 3) :
    s.setQuality q = s.modTim fun m => m.withQuality q s.clk.now := by
  by_cases same : q = s.tim.quality
  · exact State.setQuality_of_eq same
  · rw [State.setQuality_of_ne same, if_neg unlocked]

/-- HOLDOVER_EXPIRED once TIM_CTRL.hold_limit has passed. -/
theorem holdoverExpired_next {t c : Nat} (e : x = s.advanceTo t) (settled : x.Settled) (up : x.up = true) (holdover : x.tim.quality = 4)
    (since : x.tim.holdSince = some c) (ended : c + max 1 (x.rf .timCtrl 0 31 16) * 1000000000 ≤ x.clk.now) :
    exec (.holdoverExpired t) s = .next (x.modTim fun m => m.withQuality 5 x.clk.now) := by
  refine act_next e up ?_ (State.modTim_settled settled _)
  simp only [holdover, since, State.iff, ended, decide_true, if_true]
  exact State.setQuality_unlocked (by omega)

/-! ### Offset estimates (R166) -/

theorem State.estimate_locked {e : Int} (locked : s.tim.quality = 3) :
    s.estimate e = if 200 < e.natAbs then s.setQuality 2 else s := by
  unfold State.estimate
  simp only [locked, if_true]

theorem State.estimate_acquiring {e : Int} (acquiring : s.tim.quality = 2) : s.estimate e =
    if e.natAbs ≤ 50 then if s.tim.inBand + 1 = 16 then s.setQuality 3 else s.modTim fun m => { m with inBand := m.inBand + 1 }
    else s.modTim fun m => { m with inBand := 0 } := by
  unfold State.estimate
  simp only [acquiring, if_true]
  rfl

theorem State.setQuality_quality (s : State) (q : Nat) : (s.setQuality q).tim.quality = q := by
  rw [State.setQuality_tim, Tim.withQuality_quality]

/-- While Acquiring the sixteenth estimate in a row within 50 ns locks, one beyond starts the row again; while Locked one beyond 200 ns
starts the acquisition again. -/
theorem State.estimate_moves (s : State) (e : Int) :
    (s.tim.quality = 2 → e.natAbs ≤ 50 → s.tim.inBand = 15 → (s.estimate e).tim.quality = 3) ∧
    (s.tim.quality = 2 → e.natAbs ≤ 50 → s.tim.inBand < 15 →
      (s.estimate e).tim.quality = 2 ∧ (s.estimate e).tim.inBand = s.tim.inBand + 1) ∧
    (s.tim.quality = 2 → 50 < e.natAbs → (s.estimate e).tim.quality = 2 ∧ (s.estimate e).tim.inBand = 0) ∧
    (s.tim.quality = 3 → 200 < e.natAbs → (s.estimate e).tim.quality = 2) ∧
    (s.tim.quality = 3 → e.natAbs ≤ 200 → s.estimate e = s) := by
  refine ⟨fun acquiring within last => ?_, fun acquiring within more => ?_, fun acquiring beyond => ?_, fun locked beyond => ?_,
    fun locked within => ?_⟩
  · rw [State.estimate_acquiring acquiring, if_pos within, if_pos (by omega), State.setQuality_quality]
  · rw [State.estimate_acquiring acquiring, if_pos within, if_neg (by omega)]
    exact ⟨acquiring, rfl⟩
  · rw [State.estimate_acquiring acquiring, if_neg (by omega)]
    exact ⟨acquiring, rfl⟩
  · rw [State.estimate_locked locked, if_pos beyond, State.setQuality_quality]
  · rw [State.estimate_locked locked, if_neg (by omega)]

/-! ### The obligation -/

/-- Settles O25: the loss of either source is one change of the quality with the rate held. -/
theorem timeQuality : Obligations.TimeQuality := by
  refine ⟨fun s x t e settled up => ⟨fun source present lost => ?_, ptpSourceLost_idle e settled up, fun source present late => ?_,
    ppsSourceLost_idle e settled up, fun c holdover since ended => ?_⟩, State.estimate_moves⟩
  · obtain ⟨u, run, ptp, -, back⟩ := sourceLost_runs (ptpSourceLost_settles e up source present lost)
    exact ⟨u, run, ptp source, back⟩
  · obtain ⟨u, run, -, pps, back⟩ := sourceLost_runs (ppsSourceLost_settles e up source present late)
    exact ⟨u, run, pps source, back⟩
  · exact ⟨_, holdoverExpired_next e settled up holdover since ended, Tim.withQuality_quality _ _ _,
      Tim.withQuality_rate _ _ _, Tim.withQuality_offset _ _ _, rfl, rfl⟩

end Sys2Proof.Machine
end

section
/-! PROOFS. PPS_OUT and PPS_IN (R166, R169, R170). -/

namespace Sys2Proof.Machine

variable {s x : State}

/-! ### PPS_OUT (R169) -/

/-- PPS_OUT has risen in this tick. -/
def State.risePps (s : State) : State := s.modTim fun m =>
  { m with ppsPin := true, ppsSec := s.ppsSecond s.clk.now, ppsFall := s.clk.now + max 1 (s.rf .timPpsCtrl 0 23 16) * 1000000 }

/-- PPS_OUT_RISE with TIM_PPS_CTRL.out_force at the first tick of a second. -/
theorem ppsOutRise_next {t : Nat} (e : x = s.advanceTo t) (settled : x.Settled) (up : x.up = true) (forced : x.rb .timPpsCtrl 0 30 = true)
    (low : x.tim.ppsPin = false) (after : 0 < x.clk.now) (second : x.ppsSecond x.clk.now ≠ x.ppsSecond (x.clk.now - 1)) :
    exec (.ppsOutRise t) s = .next x.risePps :=
  act_next e up (if_pos (by simp [up, forced, low, after, second])) (State.modTim_settled settled _)

/-- PPS_OUT stays low while it is off. -/
theorem ppsOutRise_off {t : Nat} (e : x = s.advanceTo t) (settled : x.Settled) (up : x.up = true) (off : x.rb .timPpsCtrl 0 31 = false)
    (unforced : x.rb .timPpsCtrl 0 30 = false) : exec (.ppsOutRise t) s = .next x :=
  act_next e up (if_neg (by simp [off, unforced])) settled

/-- PPS_OUT_FALL once its width has passed. -/
theorem ppsOutFall_next {t : Nat} (e : x = s.advanceTo t) (settled : x.Settled) (up : x.up = true) (high : x.tim.ppsPin = true)
    (past : x.tim.ppsFall ≤ x.clk.now) : exec (.ppsOutFall t) s = .next (x.modTim fun m => { m with ppsPin := false }) :=
  act_next e up (if_pos (by simp [high, past])) (State.modTim_settled settled _)

/-! ### PPS_IN (R166, R170) -/

/-- An edge of PPS_IN has been stamped. -/
def State.stampPps (s : State) (edge : Nat) : State :=
  s.modTim fun m => { m with ppsStamp := s.timeAt (edge + Config.ppsToStamp), lastPps := s.clk.now }

/-- PPS_IN_EDGE where PPS_IN is not the selected source. -/
theorem ppsInEdge_stamps {t edge : Nat} {v : Servo} (e : x = s.advanceTo t) (settled : x.Settled) (up : x.up = true)
    (other : x.timSource ≠ 1) : exec (.ppsInEdge t edge v) s = .next (x.stampPps edge) := by
  refine act_next e up ?_ (State.modTim_settled settled _)
  rw [up]
  exact if_neg other

/-- Without an estimate and without a target the servo does nothing. -/
theorem State.servo_none (s : State) : s.servo ⟨none, none, none⟩ = s := rfl

/-- PPS_IN_EDGE of the selected source, of which the servo makes nothing. -/
theorem ppsInEdge_settles {t edge : Nat} (e : x = s.advanceTo t) (up : x.up = true) (source : x.timSource = 1) :
    exec (.ppsInEdge t edge ⟨none, none, none⟩) s = .next (x.stampPps edge).sourcePresent.settle := by
  have selected : (x.stampPps edge).timSource = 1 := source
  rw [act_settles rfl e (State.released_of_up up), up]
  change Host.Outcome.next (if (x.stampPps edge).timSource = 1 then (x.stampPps edge).sourcePresent.servo ⟨none, none, none⟩
    else x.stampPps edge).settle = _
  rw [if_pos selected, State.servo_none]

/-- The quality once the selected source is present: time that is set and not locked is acquired. -/
def Tim.presentQuality (m : Tim) : Nat := if m.timeSet = true ∧ m.quality ≠ 3 then 2 else m.quality

/-- PPS_IN is present. -/
def Tim.withPps (m : Tim) : Tim := { m with ppsOk := true, rateHeld := false }

theorem State.sourcePresent_again (source : s.timSource = 1) (present : s.tim.ppsOk = true) : s.sourcePresent = s :=
  if_pos (by simp [State.srcPresent, source, present])

theorem State.sourcePresent_first (source : s.timSource = 1) (absent : s.tim.ppsOk = false) :
    s.sourcePresent = s.modTim fun m => m.withPps.withQuality m.presentQuality s.clk.now := by
  have marked : (s.putSrc true).modTim (fun m => { m with rateHeld := false }) = s.modTim Tim.withPps := by
    simp [State.putSrc, State.modTim, Tim.withPps, source]
  unfold State.sourcePresent
  rw [if_neg (by simp [State.srcPresent, source, absent])]
  dsimp only
  rw [marked]
  by_cases acquires : s.tim.timeSet = true ∧ s.tim.quality ≠ 3
  · obtain ⟨timed, unlocked⟩ := acquires
    have quality : s.tim.presentQuality = 2 := if_pos ⟨timed, unlocked⟩
    rw [if_pos (by simp [Tim.withPps, timed, unlocked]), State.setQuality_unlocked (s := s.modTim Tim.withPps) unlocked]
    simp only [State.modTim, quality]
  · have quality : s.tim.presentQuality = s.tim.quality := if_neg acquires
    rw [if_neg (by simpa [Tim.withPps] using acquires)]
    simp only [State.modTim, quality, Tim.withQuality]
    exact congrArg (fun m => { s with tim := m }) (if_pos rfl).symm

/-- PPS_IN_EDGE of the selected source (R166, R170). -/
theorem ppsInEdge_runs {t edge : Nat} (e : x = s.advanceTo t) (settled : x.Settled) (up : x.up = true) (source : x.timSource = 1) :
    s.Runs (.ppsInEdge t edge ⟨none, none, none⟩) fun u =>
      u.tim.ppsStamp = x.timeAt (edge + Config.ppsToStamp) ∧ u.tim.ppsOk = true ∧ u.tim.lastPps = x.clk.now ∧ u.clk = x.clk ∧
      u.tim.quality = if x.tim.ppsOk = false ∧ x.tim.timeSet = true ∧ x.tim.quality ≠ 3 then 2 else x.tim.quality := by
  have run := ppsInEdge_settles (edge := edge) e up source
  have stamped : (x.stampPps edge).Settled := State.modTim_settled settled _
  cases here : x.tim.ppsOk with
  | true =>
    rw [State.sourcePresent_again (s := x.stampPps edge) source here] at run
    exact runs_settled run stamped ⟨rfl, here, rfl, rfl, by simp [State.stampPps]⟩
  | false =>
    rw [State.sourcePresent_first (s := x.stampPps edge) source here] at run
    refine runs_settled run (State.modTim_settled stamped _) ⟨Tim.withQuality_ppsStamp _ _ _,
      Tim.withQuality_ppsOk _ _ _, Tim.withQuality_lastPps _ _ _, rfl, ?_⟩
    rw [State.modTim_tim, Tim.withQuality_quality]
    simp [Tim.presentQuality, State.stampPps]

/-! ### The obligation -/

/-- Settles O26: each clause is one command's lemma above. -/
theorem pulsePerSecond : Obligations.PulsePerSecond := by
  intro s x t edge v e settled up
  exact ⟨fun forced low after second => ⟨_, ppsOutRise_next e settled up forced low after second, rfl, rfl, rfl, rfl, rfl, rfl⟩,
    ppsOutRise_off e settled up, ppsOutFall_next e settled up, ppsInEdge_stamps e settled up, ppsInEdge_runs e settled up⟩

end Sys2Proof.Machine
end

section
/-! PROOFS. Entries of the Bell from the host, and frames that it sends (R181 to R187, R193). -/

namespace Sys2Proof.Machine

variable {s x : State}

/-! ### One entry (R183, R186, R187) -/

/-- The entry that 32 bytes with a local count spell, of the given order. -/
def localEntry (b : Bytes) (order : Nat) : BellE :=
  ⟨lef b 0 8, order, false, 0, nbit (lef b 0x0E 2) 1, nbit (lef b 0x0E 2) 2, lef b 0x0A 1, lef b 0x0B 1, lef b 0x0C 2, lef b 0x10 4,
    lef b 0x14 4, lef b 0x18 4⟩

/-- The Bell with an entry more, placed by its rank (R185). -/
def Bell.placed (m : Bell) (b : Bytes) : Bell :=
  { m with nextOrder := m.nextOrder + 1, entries := insBy bellBefore (localEntry b m.nextOrder) m.entries }

/-- The unit that an entry names is there. -/
def State.bellUnitThere (s : State) (b : Bytes) : Bool := (s.bellAction (lef b 0x0A 1) (lef b 0x0B 1) (lef b 0x0C 2) (lef b 0x10 4)).2

theorem State.bellInsert_bad {b : Bytes} (bad : s.bellBad b = true) : s.bellInsert b = (4, s) := if_pos bad

/-- A well-formed entry with a local count: late, too many, or placed (order: DEDUCED, log entry 24). -/
theorem State.bellInsert_local {b : Bytes} (good : s.bellBad b = false) (there : s.bellUnitThere b = true)
    (count : nbit (lef b 0x0E 2) 0 = false) : s.bellInsert b =
      if lef b 0 8 ≤ s.clk.now && !nbit (lef b 0x0E 2) 1 then (3, s)
      else if 4096 ≤ s.bellUsed then (2, s) else (0, s.modBell (·.placed b)) := by
  unfold State.bellInsert
  rw [if_neg (by simp [good])]
  dsimp only
  rw [if_neg (by simpa [State.bellUnitThere] using there), count]
  rfl

section
variable {b : Bytes} (good : s.bellBad b = false) (there : s.bellUnitThere b = true) (count : nbit (lef b 0x0E 2) 0 = false)
include good there count

theorem State.bellInsert_late (past : lef b 0 8 ≤ s.clk.now) (strict : nbit (lef b 0x0E 2) 1 = false) : s.bellInsert b = (3, s) :=
  (State.bellInsert_local good there count).trans (if_pos (by simp [past, strict]))

theorem State.bellInsert_full (future : s.clk.now < lef b 0 8) (full : 4096 ≤ s.bellUsed) : s.bellInsert b = (2, s) := by
  rw [State.bellInsert_local good there count, if_neg (by simp [future]), if_pos full]

theorem State.bellInsert_placed (future : s.clk.now < lef b 0 8) (free : s.bellUsed < 4096) :
    s.bellInsert b = (0, s.modBell (·.placed b)) := by
  rw [State.bellInsert_local good there count, if_neg (by simp [future]), if_neg (by omega)]

end

/-! ### BELL_ADD (R183) -/

/-- The state after the reading of a descriptor's entries into the table. -/
def State.addBells (s : State) (i k : Nat) (l : List Bytes) : State :=
  let r := s.bellAddGo 0 [] l
  (r.2.2.2.sendBells r.2.2.1.length r.2.2.1).ends i k r.1 r.2.1

/-- BELL_ADD with a buffer that is too short. -/
theorem bellAdd_short {t i k : Nat} {d : Desc} {buf : Option Bytes} (e : x = s.advanceTo t) (settled : x.Settled) (up : x.up = true)
    (turn : x.turn 0 0x10 = some (i, k, d)) (short : d.len < 32 * d.arg) : exec (.bellAdd t buf) s = .next (x.ends i k 6) := by
  refine act_next e up ?_ (State.ends_settled settled _ _ _ _ _)
  rw [State.onTurn_of_turn turn]
  exact if_pos short

/-- A whole buffer of one entry is that entry. -/
theorem entries32_one {b : Bytes} (whole : b.length = 32) : entries32 b 1 = [b] := by
  simp [entries32, slice, whole, List.take_of_length_le]

/-- An entry for this device alone is inserted or ends the descriptor with its refusal. -/
theorem State.addBells_here {b : Bytes} {i k c : Nat} {y : State} (here : s.bellHere (lef b 8 2) = true)
    (single : nbit (lef b 8 2) 15 = false) (ran : s.bellInsert b = (c, y)) :
    s.addBells i k [b] = y.ends i k c (if c = 0 then 1 else 0) := by
  have went : s.bellAddGo 0 [] [b] = (c, if c = 0 then 1 else 0, [], y) := by
    unfold State.bellAddGo
    simp only [here, single, ran]
    by_cases inserted : c = 0
    · simp [inserted, State.bellAddGo]
    · simp [inserted]
  unfold State.addBells
  rw [went]
  rfl

/-- BELL_ADD with one entry for this device, which has been read. -/
theorem bellAdd_one {t i k c : Nat} {d : Desc} {b : Bytes} {y : State} (e : x = s.advanceTo t) (up : x.up = true)
    (turn : x.turn 0 0x10 = some (i, k, d)) (dma : x.canDma = true) (one : d.arg = 1) (room : 32 ≤ d.len) (whole : b.length = 32)
    (here : x.bellHere (lef b 8 2) = true) (single : nbit (lef b 8 2) 15 = false)
    (ran : (x.hostRead d.buf 32).bellInsert b = (c, y)) (still : y.Settled) :
    exec (.bellAdd t (some b)) s = .next (y.ends i k c (if c = 0 then 1 else 0)) := by
  refine act_next e up ?_ (State.ends_settled still _ _ _ _ _)
  rw [State.onTurn_of_turn turn, if_neg (by omega), State.readBuf_of_dma dma, one, entries32_one whole]
  exact State.addBells_here here single ran

/-! ### EMIT_FRAME (R193) -/

/-- EMIT_FRAME sends the template of the entry with the instant of its firing. -/
theorem emitFrame_settles {t : Nat} {f : Fired} (e : x = s.advanceTo t) (up : x.up = true)
    (found : x.bell.fired.find? (fun f => f.e.action = 0x0A && f.arrive ≤ x.clk.now) = some f) :
    exec (.emitFrame t) s =
      .next ((x.takeFired 0x0A).sendTemplate f.e.index (32 * ((f.fireAt : Int) + sx 32 f.e.arg))).settle := by
  rw [act_settles rfl e (State.released_of_up up), State.onFired_takes up found]

/-! ### The obligation -/

/-- Settles O28: every refusal is decided by bellInsert, and the descriptor ends with what it answers. -/
theorem bellEntries : Obligations.BellEntries := by
  intro s x y t i k d b e settled up ey
  subst ey
  have read : (x.hostRead d.buf 32).Settled := State.hostRead_settled settled _ _
  refine ⟨fun turn => ⟨bellAdd_short e settled up turn, fun dma one room whole here single => ?_⟩, fun f found => ?_⟩
  · have run {c : Nat} {y : State} := bellAdd_one (c := c) (y := y) e up turn dma one room whole here single
    refine ⟨fun bad => run (State.bellInsert_bad bad) read, fun good there count => ?_⟩
    exact ⟨fun past strict => run (State.bellInsert_late good there count past strict) read,
      fun future full => run (State.bellInsert_full good there count future full) read,
      fun future free => run (State.bellInsert_placed good there count future free) (State.modBell_settled read _)⟩
  · exact emitFrame_settles e up found

end Sys2Proof.Machine
end

section
/-! PROOFS. Frames that arrive on a station port (R171 to R174). -/

namespace Sys2Proof.Machine

variable {s x : State}

/-! ### What leaves the state settled -/

theorem State.staDrop_settled (h : s.Settled) (n : Nat) : (s.staDrop n).Settled := State.modSta_settled h _ _

theorem State.staQueue_settled (h : s.Settled) (n : Nat) (high : Bool) (b : Bytes) : (s.staQueue n high b).Settled := by
  unfold State.staQueue
  split
  · exact h
  · have drained := State.modSta_settled h n fun p => p.drain s.clk.now p.txq.length
    dsimp only
    split
    · exact State.staDrop_settled drained n
    · exact State.modSta_settled drained _ _

theorem State.deliver_settled (h : s.Settled) (n : Nat) (stamp : Int) (b : Bytes) : (s.deliver n stamp b).Settled :=
  (State.emitRecord_hostOnly (State.HostOnly.refl s) _ _ _).settled h

/-! ### The table of R172 -/

/-- The frame is a Bell frame by its address and type (R190). -/
def State.isBell (s : State) (b : Bytes) : Bool := b.take 6 = s.bellMac && etherType b = s.rf .belCtrl 0 31 16

/-- A frame is delivered besides if it is a broadcast, or for a group while PTP_CTRL asks for such frames (R172). -/
def State.alsoDelivers (s : State) (b : Bytes) : Bool :=
  b.take 6 = be 6 0xFFFFFFFFFFFF || nbit (lef (b.take 6) 0 1) 0 && s.rb .ptpCtrl 0 0

/-- A frame is forwarded, and delivered if that is due besides. -/
def State.forwardFrame (s : State) (n : Nat) (stamp : Int) (b : Bytes) : State :=
  (s.staQueue (1 - n) (s.staHigh b) b).iff (s.alsoDelivers b) (·.deliver n stamp b)

theorem State.forwardFrame_settled (h : s.Settled) (n : Nat) (stamp : Int) (b : Bytes) : (s.forwardFrame n stamp b).Settled :=
  State.iff_settled (State.staQueue_settled h _ _ _) _ _ fun _ k => State.deliver_settled k _ _ _

section
variable {n : Nat} {stamp out : Int} {b : Bytes} {v : Servo}

theorem State.switchFrame_own (own : b.take 6 = s.ownMac) : s.switchFrame n stamp out b v = s.deliver n stamp b := if_pos own

theorem State.switchFrame_echo (other : b.take 6 ≠ s.ownMac) (echo : slice b 6 6 = s.ownMac) :
    s.switchFrame n stamp out b v = s.staDrop n := (if_neg other).trans (if_pos echo)

/-- A frame that is none of the device's, of PTP's and of the Bell's is forwarded. -/
theorem State.switchFrame_forward (other : b.take 6 ≠ s.ownMac) (foreign : slice b 6 6 ≠ s.ownMac)
    (pdelay : b.take 6 ≠ be 6 0x0180C200000E) (ptp : b.take 6 ≠ be 6 0x011B19000000) (bell : s.isBell b = false) :
    s.switchFrame n stamp out b v = s.forwardFrame n stamp b := by
  unfold State.switchFrame State.forwardFrame State.alsoDelivers
  dsimp only
  rw [if_neg other, if_neg foreign, if_neg pdelay, if_neg (by simp [ptp]), if_neg (by simpa [State.isBell] using bell)]
  by_cases broadcast : b.take 6 = be 6 0xFFFFFFFFFFFF
  · simp [broadcast, State.iff]
  · by_cases group : nbit (lef (b.take 6) 0 1) 0 = true
    · simp [broadcast, group]
    · simp [broadcast, group, State.iff]

end

/-! ### STATION_FRAME -/

/-- A station port runs only while the firmware does. -/
theorem State.up_of_staUp {n : Nat} (runs : s.staUp n = true) : s.up = true := by
  unfold State.staUp at runs
  simp only [Bool.and_eq_true] at runs
  exact runs.1.1.1.2

/-- The length or the tags of a frame are not those of R171. -/
def misformed (f : Bytes) : Bool :=
  f.length < 64 || 2004 < f.length || (beVal (slice f 12 2) = 0x8100 && beVal (slice f 16 2) = 0x8100 : Bool)

/-- The FCS of a frame is right. -/
def goodFcs (f : Bytes) : Prop := lef f (f.length - 4) 4 = crc32 (f.take (f.length - 4))

section
variable {t n a b : Nat} {f : Bytes} {r : Option Int} {v : Steer} {y : State} (e : x = s.advanceTo t) (runs : x.staUp n = true)
include e runs

theorem stationFrame_misformed (settled : x.Settled) (bad : misformed f = true) :
    exec (.stationFrame t n a b f r v) s = .next (x.staDrop n) := by
  refine act_next e (State.up_of_staUp runs) ?_ (State.staDrop_settled settled n)
  rw [if_neg (by simp [runs])]
  exact if_pos bad

/-- A frame that is for the device or from it is not forwarded with a wrong FCS (R172). -/
theorem stationFrame_corrupt (settled : x.Settled) (formed : misformed f = false) (wrong : ¬goodFcs f)
    (near : f.take 6 = x.ownMac ∨ slice f 6 6 = x.ownMac) : exec (.stationFrame t n a b f r v) s = .next (x.staDrop n) := by
  refine act_next e (State.up_of_staUp runs) ?_ (State.staDrop_settled settled n)
  have stays : (f.take 6 = x.ownMac || slice f 6 6 = x.ownMac : Bool) = true := by simpa using near
  rw [if_neg (by simp [runs])]
  refine (if_neg (ne_true_of_eq_false formed)).trans ((if_neg wrong).trans ?_)
  simp [State.iff, stays]

/-- A good frame goes through the table of R172, with the stamp of its ingress. -/
theorem stationFrame_good (formed : misformed f = false) (good : goodFcs f) (still : y.Settled)
    (made : ∀ out v, x.switchFrame n (x.rxStamp n a) out f v = y) : exec (.stationFrame t n a b f r v) s = .next y := by
  refine act_next e (State.up_of_staUp runs) ?_ still
  rw [if_neg (by simp [runs])]
  exact (if_neg (ne_true_of_eq_false formed)).trans ((if_pos good).trans (made _ _))

end

/-! ### The obligation -/

/-- A broadcast is no Bell frame where the Bell's address is another. -/
theorem State.isBell_of_other {b : Bytes} (other : b.take 6 ≠ s.bellMac) : s.isBell b = false := by simp [State.isBell, other]

/-- Settles O29: what a well-formed frame does is read off the table of R172. -/
theorem stationFrames : Obligations.StationFrames := by
  intro s x t n a b f r v e settled runs
  refine ⟨fun length => stationFrame_misformed e runs settled (by rcases length with short | long <;> simp [misformed, *]),
    fun tag tag' => stationFrame_misformed e runs settled (by simp [misformed, tag, tag']), fun short long untagged => ?_⟩
  have formed : misformed f = false := by simp [misformed, untagged, short, long]
  refine ⟨fun wrong near => stationFrame_corrupt e runs settled formed wrong near, fun good => ?_⟩
  have run {y : State} := stationFrame_good (a := a) (b := b) (r := r) (v := v) (y := y) e runs formed good
  have forward (other : f.take 6 ≠ x.ownMac) (foreign : slice f 6 6 ≠ x.ownMac) (pdelay : f.take 6 ≠ be 6 0x0180C200000E)
      (ptp : f.take 6 ≠ be 6 0x011B19000000) (bell : x.isBell f = false) :=
    run (x.forwardFrame_settled settled n (x.rxStamp n a) f) fun _ _ => State.switchFrame_forward other foreign pdelay ptp bell
  refine ⟨fun own => run (State.deliver_settled settled _ _ _) fun _ _ => State.switchFrame_own own,
    fun other echo => run (State.staDrop_settled settled n) fun _ _ => State.switchFrame_echo other echo,
    fun broadcast own bell foreign => ?_, fun other foreign single bell => ?_, fun other foreign group pdelay ptp bell alone => ?_⟩
  · rw [forward (by rwa [broadcast, ne_comm]) foreign (by rw [broadcast]; decide) (by rw [broadcast]; decide)
      (State.isBell_of_other (by rwa [broadcast, ne_comm]))]
    simp [State.forwardFrame, State.alsoDelivers, State.iff, broadcast]
  · have apart {d : Bytes} (group : nbit (lef d 0 1) 0 = true) : f.take 6 ≠ d := fun same => by simp [same, group] at single
    have alone : f.take 6 ≠ be 6 0xFFFFFFFFFFFF := apart (by decide)
    rw [forward other foreign (apart (by decide)) (apart (by decide)) (by rcases bell with h | h <;> simp [State.isBell, h])]
    simp [State.forwardFrame, State.alsoDelivers, State.iff, alone, single]
  · rw [forward other foreign pdelay ptp (State.isBell_of_other bell)]
    simp [State.forwardFrame, State.alsoDelivers, State.iff, alone, group]

end Sys2Proof.Machine
end

section
/-! PROOFS. Commands of the station ports (R177, R179, R370): Pdelay requests, the link's fall and return, TRANSMIT. -/

namespace Sys2Proof.Machine

variable {s x : State}

/-! ### Pdelay requests (R177) -/

/-- An exchange that is still open has failed. -/
def State.failExchange (s : State) (n : Nat) : State :=
  s.iff (s.sta n).req.isSome (·.modSta n fun p => { p with exchanges := 0, pdelayOk := false })

/-- A Pdelay_Req with its egress stamp is open. -/
def State.openExchange (s : State) (n q : Nat) (stamp : Int) : State :=
  s.modSta n fun p => { p with req := some (q, stamp.toNat), reqSeq := (q + 1) % 65536 }

theorem State.failExchange_settled (h : s.Settled) (n : Nat) : (s.failExchange n).Settled :=
  State.iff_settled h _ _ fun _ k => State.modSta_settled k _ _

theorem State.failExchange_regs (s : State) (n : Nat) : (s.failExchange n).regs = s.regs :=
  State.iff_frame State.regs s _ _ fun _ => rfl

/-- Egress stamps and peer delay messages are made of registers. -/
theorem State.txStamp_congr {u : State} (h : u.regs = s.regs) (n raw : Nat) : u.txStamp n raw = s.txStamp n raw := by
  unfold State.txStamp
  rw [State.reg_congr h]

theorem State.pdelayFrame_congr {u : State} (h : u.regs = s.regs) (n ty q : Nat) (corr : Int) (tail : Bytes) :
    u.pdelayFrame n ty q corr tail = s.pdelayFrame n ty q corr tail := by
  unfold State.pdelayFrame State.ptpIdentity State.ownMac
  rw [State.rf_congr h, State.reg_congr h, State.reg_congr h]

/-- PDELAY_REQ_SEND. -/
theorem pdelayReqSend_next {t n a : Nat} (e : x = s.advanceTo t) (settled : x.Settled) (runs : x.staUp n = true) :
    exec (.pdelayReqSend t n a) s = .next (((x.failExchange n).openExchange n (x.sta n).reqSeq (x.txStamp n a)).staQueue n true
      (x.pdelayFrame n 2 (x.sta n).reqSeq 0 (zeros 10))) := by
  have still := State.modSta_settled (State.failExchange_settled settled n) n fun p =>
    { p with req := some ((x.sta n).reqSeq, (x.txStamp n a).toNat), reqSeq := ((x.sta n).reqSeq + 1) % 65536 }
  refine act_next e (State.up_of_staUp runs) ?_ (State.staQueue_settled still _ _ _)
  rw [if_neg (by simp [runs]), ← State.txStamp_congr (x.failExchange_regs n), ← State.pdelayFrame_congr
    (u := (x.failExchange n).openExchange n (x.sta n).reqSeq ((x.failExchange n).txStamp n a)) (x.failExchange_regs n)]
  rfl

/-! ### The link (R370) -/

/-- The link of a port has fallen: what was open on it has failed. -/
def StaPort.fallen (p : StaPort) : StaPort :=
  { p with link := false, pdelayOk := false, exchanges := 0, req := none, restarting := true }

/-- STATION_LINK_DOWN counts on the port's health channel, which leaves the port. -/
theorem stationLinkDown_runs {t n : Nat} (e : x = s.advanceTo t) (up : x.up = true) (lt : n < 2) (link : (x.sta n).link = true) :
    s.Runs (.stationLinkDown t n) fun u => u.sta n = (x.sta n).fallen := by
  have run : exec (.stationLinkDown t n) s = .next ((x.modSta n StaPort.fallen).healthCount (102 + n)).settle := by
    rw [act_settles rfl e (State.released_of_up up), State.iff, if_pos (by simp [lt, up]), State.staFall, if_pos link]
    rfl
  refine runs_quiet run fun u quiet => ?_
  have counted := State.healthCount_quiet (State.Quiet.refl (x.modSta n StaPort.fallen)) (102 + n)
  rw [State.sta, (counted.trans quiet).tim]
  exact x.sta_modSta_self n _

/-- STATION_LINK_UP on an enabled port. -/
theorem stationLinkUp_next {t n : Nat} (e : x = s.advanceTo t) (settled : x.Settled) (up : x.up = true) (lt : n < 2)
    (enabled : x.rb .ptpPortCtrl n 31 = true) :
    exec (.stationLinkUp t n) s = .next (x.modSta n fun p => { p with link := true, restarting := false }) :=
  act_next e up (if_pos (by simp [lt, up, enabled])) (State.modSta_settled settled _ _)

/-! ### TRANSMIT (R179) -/

/-- Octets of the frame that a descriptor of TRANSMIT sends, the ports that send it, whether its stamp is asked for, and the room it
needs. -/
def Desc.octets (d : Desc) : Nat := d.arg % 2048
def Desc.ports (d : Desc) : Nat := d.arg / 2 ^ 16 % 4
def Desc.stamped (d : Desc) : Bool := nbit d.arg 18
def Desc.room (d : Desc) : Nat := if d.stamped then d.octets + 16 else d.octets

/-- The frame's length or its ports are not allowed. -/
def Desc.refused (d : Desc) : Bool := d.octets < 60 || 2000 < d.octets || d.ports = 0 || (d.stamped && d.ports = 3)

/-- A port that the frame goes to runs. -/
def State.reaches (s : State) (d : Desc) : Bool := (nbit d.ports 0 && s.staUp 0) || (nbit d.ports 1 && s.staUp 1)

/-- Queueing a frame changes the station port alone. -/
theorem State.staQueue_frame {α : Type} (g : State → α)
    (h : ∀ (z : State) (n : Nat) (f : StaPort → StaPort), g (z.modSta n f) = g z) (s : State) (n : Nat) (high : Bool) (b : Bytes) :
    g (s.staQueue n high b) = g s := by
  unfold State.staQueue
  split
  · rfl
  dsimp only
  split
  · exact (h _ _ _).trans (h _ _ _)
  · exact (h _ _ _).trans (h _ _ _)

/-- The frame of a descriptor has been read and queued on its ports. -/
def State.queueFrame (s : State) (d : Desc) (b : Bytes) : State :=
  let f := b.take d.octets
  ((s.hostRead d.buf d.octets).iff (nbit d.ports 0) (·.staQueue 0 (s.staHigh f) (withFcs f))).iff (nbit d.ports 1)
    (·.staQueue 1 (s.staHigh f) (withFcs f))

section
variable {d : Desc} {b : Bytes} (one : d.ports = 1)
include one

theorem State.reaches_one (s : State) : s.reaches d = s.staUp 0 := by
  simp [State.reaches, one, show nbit 1 0 = true from rfl, show nbit 1 1 = false from rfl]

theorem Desc.refused_one (lo : 60 ≤ d.octets) (hi : d.octets ≤ 2000) : d.refused = false := by
  simp [Desc.refused, one, Nat.not_lt.mpr lo, Nat.not_lt.mpr hi]

theorem State.queueFrame_one : s.queueFrame d b =
    (s.hostRead d.buf d.octets).staQueue 0 (s.staHigh (b.take d.octets)) (withFcs (b.take d.octets)) := by
  unfold State.queueFrame
  rw [one]
  rfl

theorem State.queueFrame_settled (h : s.Settled) : (s.queueFrame d b).Settled := by
  rw [State.queueFrame_one one]
  exact State.staQueue_settled (State.hostRead_settled h _ _) _ _ _

/-- The frame's way to the port changes the port and the memory requests alone. -/
theorem State.queueFrame_frame {α : Type} (g : State → α)
    (h : ∀ (z : State) (n : Nat) (f : StaPort → StaPort), g (z.modSta n f) = g z) (read : g (s.hostRead d.buf d.octets) = g s) :
    g (s.queueFrame d b) = g s := by
  rw [State.queueFrame_one one]
  exact (State.staQueue_frame g h _ _ _ _).trans read

end

section
variable {t a i k : Nat} {d : Desc} {b : Bytes} (e : x = s.advanceTo t) (up : x.up = true) (turn : x.turn 8 1 = some (i, k, d))
include e up turn

/-- A frame that is sent is queued, and its stamp is written where it is asked for. -/
theorem transmit_settles (fine : d.refused = false) (room : d.room ≤ d.len) (runs : x.reaches d = true) (dma : x.canDma = true) :
    exec (.transmit t (some b) a) s = .next (if d.stamped then (x.queueFrame d b).bufEnd i k (d.buf + d.len - 16)
        (tsBytes ((x.queueFrame d b).tim.timeOf ((x.queueFrame d b).txStamp (d.ports - 1) a))) ⟨0, 0, 16⟩
      else (x.queueFrame d b).ends i k 0).settle := by
  rw [act_settles rfl e (State.released_of_up up), State.onTurn_of_turn turn]
  refine congrArg (fun y : State => Host.Outcome.next y.settle) ?_
  refine (if_neg (ne_true_of_eq_false fine)).trans ((if_neg (Nat.not_lt.mpr room)).trans ((if_neg ?_).trans ?_))
  · exact ne_true_of_eq_false (congrArg not runs)
  · rw [State.readBuf_of_dma dma]
    rfl

variable (settled : x.Settled)
include settled

theorem transmit_refused {buf : Option Bytes} (bad : d.refused = true) : exec (.transmit t buf a) s = .next (x.ends i k 2) := by
  refine act_next e up ?_ (State.ends_settled settled _ _ _ _ _)
  rw [State.onTurn_of_turn turn]
  exact if_pos bad

/-- A buffer without the room ends the descriptor with the size it needs, in whole 64 bytes. -/
theorem transmit_short {buf : Option Bytes} (fine : d.refused = false) (short : d.len < d.room) :
    exec (.transmit t buf a) s = .next (x.ends i k 1 ((d.room + 63) / 64 * 64)) := by
  refine act_next e up ?_ (State.ends_settled settled _ _ _ _ _)
  rw [State.onTurn_of_turn turn]
  exact (if_neg (ne_true_of_eq_false fine)).trans (if_pos short)

theorem transmit_unreached {buf : Option Bytes} (fine : d.refused = false) (room : d.room ≤ d.len) (down : x.reaches d = false) :
    exec (.transmit t buf a) s = .next (x.ends i k 3) := by
  refine act_next e up ?_ (State.ends_settled settled _ _ _ _ _)
  rw [State.onTurn_of_turn turn]
  exact (if_neg (ne_true_of_eq_false fine)).trans ((if_neg (Nat.not_lt.mpr room)).trans (if_pos (congrArg not down)))

section
variable (fine : d.refused = false) (room : d.room ≤ d.len) (one : d.ports = 1) (runs : x.staUp 0 = true) (dma : x.canDma = true)
include fine room one runs dma

/-- TRANSMIT on port 0 without a stamp. -/
theorem transmit_plain (plain : d.stamped = false) : exec (.transmit t (some b) a) s = .next ((x.queueFrame d b).ends i k 0) := by
  have reach : x.reaches d = true := (x.reaches_one one).trans runs
  refine exec_settled_eq (transmit_settles e up turn fine room reach dma)
    (State.ends_settled (State.queueFrame_settled one settled) _ _ _ _ _) ?_
  rw [plain, if_neg Bool.false_ne_true]

/-- TRANSMIT on port 0 with its stamp, which goes to the end of the buffer. -/
theorem transmit_stamped (stamped : d.stamped = true) (running : (x.ring i).state = 1) : exec (.transmit t (some b) a) s = .next
    (((x.queueFrame d b).hostWrite (d.buf + d.len - 16) (tsBytes (x.tim.timeOf (x.txStamp 0 a)))).finishAct i k ⟨0, 0, 16⟩) := by
  have reach : x.reaches d = true := (x.reaches_one one).trans runs
  have queued := State.queueFrame_settled (b := b) one settled
  have stamp : (x.queueFrame d b).tim.timeOf ((x.queueFrame d b).txStamp (d.ports - 1) a) = x.tim.timeOf (x.txStamp 0 a) := by
    rw [State.txStamp_congr (State.queueFrame_frame one State.regs (fun _ _ _ => rfl) rfl), one]
    exact State.queueFrame_frame one (fun z => z.tim.timeOf (x.txStamp 0 a)) (fun _ _ _ => rfl) rfl
  have host : (x.queueFrame d b).host = x.host := State.queueFrame_frame one State.host (fun _ _ _ => rfl) rfl
  have masters : (x.queueFrame d b).canDma = true := by
    rw [State.canDma, host]
    exact dma
  have able : ((x.queueFrame d b).ring i).state = 1 := by rw [State.ring_congr (congrArg HostIf.rings host), running]
  refine exec_settled_eq (transmit_settles e up turn fine room reach dma)
    (State.finishAct_settled (State.hostWrite_settled queued _ _) _ _ _) ?_
  rw [stamped, if_pos rfl, stamp, State.bufEnd_of_running masters able]

end

end

/-! ### The obligation -/

/-- Settles O30: each clause is one command's lemma above. -/
theorem stationCommands : Obligations.StationCommands := by
  intro s x y z t n a b e settled up
  refine ⟨fun runs failed => ?_, fun lt link => ?_, fun lt enabled => stationLinkUp_next e settled up lt enabled,
    fun i k d m turn octets => ?_⟩
  · subst failed
    exact pdelayReqSend_next e settled runs
  · obtain ⟨u, run, fallen⟩ := stationLinkDown_runs e up lt link
    exact ⟨u, run, by simp [fallen, StaPort.fallen]⟩
  · subst octets
    refine ⟨fun nowhere => transmit_refused e up turn settled ?_, fun length => transmit_refused e up turn settled ?_,
      fun one lo hi => ?_⟩
    · have portless : d.ports = 0 := nowhere
      simp [Desc.refused, portless]
    · rcases length with short | long
      · simp [Desc.refused, Desc.octets, short]
      · simp [Desc.refused, Desc.octets, long]
    · have port : d.ports = 1 := one
      have fine : d.refused = false := Desc.refused_one port lo hi
      refine ⟨fun plain short => ?_, fun stamped short => ?_, fun room down => ?_, fun room runs dma ez => ?_⟩
      · have size : d.room = d.arg % 2048 := if_neg (ne_true_of_eq_false plain)
        rw [← size] at short ⊢
        exact transmit_short e up turn settled fine short
      · have size : d.room = d.arg % 2048 + 16 := if_pos stamped
        have whole : d.arg % 2048 + 79 = d.room + 63 := by omega
        rw [← size] at short
        rw [whole]
        exact transmit_short e up turn settled fine short
      · exact transmit_unreached e up turn settled fine room ((x.reaches_one port).trans down)
      · subst ez
        have queued : (x.hostRead d.buf (d.arg % 2048)).staQueue 0 (x.staHigh (b.take (d.arg % 2048))) (withFcs (b.take (d.arg % 2048))) =
          x.queueFrame d b := (State.queueFrame_one port).symm
        rw [queued]
        exact ⟨transmit_plain e up turn settled fine room port runs dma, transmit_stamped e up turn settled fine room port runs dma⟩

end Sys2Proof.Machine
end

section
/-! PROOFS. Cell ports: what a push, a retry, a fault and Off do to a port and leave of the rest (R209, R272, R370, R376, R519). -/

namespace Sys2Proof.Machine

variable {s0 s : State}

/-! ### Ports -/

@[simp] theorem State.health1_modPort (s : State) (p h : Nat) (f : Port → Port) : (s.modPort p f).health1 h = s.health1 h := rfl

/-- Updates of a port that agree on it as it stands. -/
theorem State.modPort_congr {p : Nat} {f g : Port → Port} (h : f (s.port p) = g (s.port p)) : s.modPort p f = s.modPort p g := by
  unfold State.modPort
  rw [h]

theorem State.port_congr {u : State} (h : u.ports = s.ports) (p : Nat) : u.port p = s.port p := by
  unfold State.port
  rw [h]

/-! ### Pushes (R272, R519) -/

/-- A push changes nothing, or the port's waiting firmware requests and its mark of a push alone. -/
theorem State.fwPush_cases (s : State) (p : Nat) (commit : Bool) : s.fwPush p commit = s ∨
    ∃ q, s.fwPush p commit = s.modPort p fun x => { x with fwQ := q, pushing := x.pushing || commit } := by
  unfold State.fwPush
  dsimp only
  split
  · exact .inl rfl
  · exact .inr ⟨_, rfl⟩

theorem State.fwPush_port (s : State) (p : Nat) (commit : Bool) :
    ∃ q b, (s.fwPush p commit).port p = { s.port p with fwQ := q, pushing := b } := by
  rcases s.fwPush_cases p commit with same | ⟨q, made⟩
  · exact ⟨(s.port p).fwQ, (s.port p).pushing, by rw [same]⟩
  · exact ⟨q, (s.port p).pushing || commit, by rw [made, State.port_modPort_self]⟩

theorem State.fwPush_settled (h : s.Settled) (p : Nat) (commit : Bool) : (s.fwPush p commit).Settled := by
  rcases s.fwPush_cases p commit with same | ⟨q, made⟩
  · rwa [same]
  · rw [made]
    exact State.modPort_settled h _ _

/-! ### Leaving Ready, retries, Off (R209, R376) -/

@[simp] theorem State.toAcquire_port (s : State) (p : Nat) (retry : Bool) : (s.toAcquire p retry).port p =
    { s.port p with st := 1, good := 0, sum := 0, cnt := 0, badUp := 0, passes := if retry then 0 else (s.port p).passes } :=
  State.port_modPort_self _ _ _

theorem State.toAcquire_quiet (h : s0.Quiet s) (p : Nat) (retry : Bool) : s0.Quiet (s.toAcquire p retry) := State.modPort_quiet h _ _

/-- A port whose channel is not returning leaves Ready without a register written. -/
theorem State.leaveReady_regs {p : Nat} (staying : (s.health1 p).state ≠ 4) : (s.leaveReady p).regs = s.regs := by
  unfold State.leaveReady State.iff
  dsimp only
  split
  · rfl
  · simp [staying]

theorem State.leaveReady_quiet (h : s0.Quiet s) (p : Nat) : s0.Quiet (s.leaveReady p) := by
  unfold State.leaveReady
  dsimp only
  split
  · exact h
  · exact State.iff_quiet (State.modPort_quiet h _ _) _ _ fun x hx =>
      State.raise_quiet (State.modPort_quiet (State.modHealth1_quiet hx _ _) _ _) _ _ _ _

theorem State.portRetry_of_off {p : Nat} (off : (s.port p).st = 0) : s.portRetry p = s := if_pos off

@[simp] theorem State.portOff_st (s : State) (p : Nat) : ((s.portOff p).port p).st = 0 :=
  congrArg Port.st (State.port_modPort_self _ _ _)

theorem State.portOff_quiet (h : s0.Quiet s) (p : Nat) : s0.Quiet (s.portOff p) :=
  State.modPort_quiet (State.leaveReady_quiet h p) _ _

/-! ### Faults (R209, R370) -/

/-- The source of a fault has been raised. -/
def State.faulted (s : State) (p st : Nat) : State := ((s.leaveReady p).modPort p fun x => { x with st := st }).raise (196 + st) p

theorem State.faulted_quiet (h : s0.Quiet s) (p st : Nat) : s0.Quiet (s.faulted p st) :=
  State.raise_quiet (State.modPort_quiet (State.leaveReady_quiet h p) _ _) _ _ _ _

/-- A fault latches its source, unless its severity is 0 (R475). -/
theorem State.faulted_latched {p st : Nat} (staying : (s.health1 p).state ≠ 4) (ok : sourceOk s.var (196 + st) = true)
    (severe : s.severity (196 + st) ≠ 0) : (s.faulted p st).latched (196 + st) = true := by
  refine State.raise_latched _ _ _ _ _ ?_ ?_
  · rwa [State.var, State.modPort_clk, (State.leaveReady_quiet (State.Quiet.refl s) p).clk]
  · rwa [State.severity_congr (u := (s.leaveReady p).modPort p fun x => { x with st := st }) (State.leaveReady_regs staying)]

/-- Down and Delay fault are counted and retried at once. -/
theorem State.portFault_counted {p st : Nat} (counted : st = 4 ∨ st = 6) :
    s.portFault p st = ((s.faulted p st).healthCount p).toAcquire p true := by
  unfold State.portFault
  exact if_pos (by simpa using counted)

/-- Out of range and Crossed are permanent. -/
theorem State.portFault_permanent {p st : Nat} (permanent : st ≠ 4 ∧ st ≠ 6) : s.portFault p st = (s.faulted p st).healthPerm p := by
  unfold State.portFault
  exact if_neg (by simpa using permanent)

theorem State.faulted_quiet_portFault (s : State) (p st : Nat) : (s.faulted p st).Quiet (s.portFault p st) := by
  by_cases counted : st = 4 ∨ st = 6
  · rw [State.portFault_counted counted]
    exact State.toAcquire_quiet (State.healthCount_quiet (State.Quiet.refl _) _) _ _
  · rw [State.portFault_permanent (not_or.mp counted)]
    exact State.healthPerm_quiet (State.Quiet.refl _) _

theorem State.portFault_quiet (h : s0.Quiet s) (p st : Nat) : s0.Quiet (s.portFault p st) :=
  (State.faulted_quiet h p st).trans (s.faulted_quiet_portFault p st)

theorem State.portFault_latched {p st : Nat} (staying : (s.health1 p).state ≠ 4) (ok : sourceOk s.var (196 + st) = true)
    (severe : s.severity (196 + st) ≠ 0) : (s.portFault p st).latched (196 + st) = true :=
  (s.faulted_quiet_portFault p st).latched _ (sourceOk_lt _ _ ok) (State.faulted_latched staying ok severe)

end Sys2Proof.Machine
end

section
/-! PROOFS. Downstream frames: their bytes, and what forming one does to the port (R195 to R197, R205, R251). -/

namespace Sys2Proof.Machine

variable {s x y : State}

/-! ### The bytes of a frame (R196, R197) -/

@[simp] theorem le_length (n v : Nat) : (le n v).length = n := by simp [le]

theorem slice_between {a b : Bytes} {i n : Nat} (here : a.length = i) (long : b.length = n) (c : Bytes) : slice (a ++ b ++ c) i n = b := by
  simp [slice, ← here, ← long]

/-- The bytes of a number spell it, modulo what they hold. -/
theorem leVal_le (n v : Nat) : leVal (le n v) = v % 256 ^ n := by
  unfold le
  induction n generalizing v with
  | zero => simp [leVal, Nat.mod_one]
  | succ n ih =>
    have shift : ∀ i, v >>> (8 * (i + 1)) = (v / 256) >>> (8 * i) := fun i => by
      rw [Nat.mul_add, Nat.add_comm, Nat.shiftRight_add, Nat.shiftRight_eq_div_pow v]
    have rest := ih (v / 256)
    rw [List.range_succ_eq_map, List.map_cons, List.map_map]
    simp only [Function.comp_def, Nat.succ_eq_add_one, shift, leVal, rest]
    rw [Nat.pow_succ', Nat.mod_mul]
    simp

theorem lef_between {a c : Bytes} {i n v : Nat} (here : a.length = i) : lef (a ++ le n v ++ c) i n = v % 256 ^ n := by
  rw [lef, slice_between here (le_length n v), leVal_le]

/-- A frame is its comma, its body with the frame number, and the body's check value. -/
theorem State.frameBytes_form (s : State) (p n : Nat) (k : FrameKind) (ev : List CellEdge) (slot : Bytes) : ∃ body,
    s.frameBytes p n k ev slot = le 1 0xBC ++ body ++ le 4 (crc32 body) ∧ lef body 2 5 = n % 2 ^ 40 := by
  refine ⟨_, rfl, ?_⟩
  simp only [List.append_assoc]
  rw [← List.append_assoc, ← List.append_assoc]
  exact lef_between (by simp)

/-! ### Forming a frame (R205, R251) -/

/-- What forming frame n leaves in the port, whatever the frame carries: no edge that was due, the frame's number and its bytes. -/
theorem State.formFrame_port (s : State) (p n : Nat) : ∃ (y : State) (k : FrameKind) (ev : List CellEdge) (slot : Bytes),
    ((s.formFrame p n).port p).lastFrame = some n ∧ (∀ e ∈ ((s.formFrame p n).port p).edges, n < e.1) ∧
      ((s.formFrame p n).port p).lastBytes = y.frameBytes p n k ev slot := by
  unfold State.formFrame
  dsimp only
  rw [State.port_modPort_self]
  exact ⟨_, _, _, _, rfl, fun e he => by simpa using (List.mem_filter.mp he).2, rfl⟩

/-- Outside Safe stop the mode whose frames go out is the present one (R117). -/
theorem State.frameMode_of_running (running : s.mode.mode ≤ 6) : s.frameMode = s.mode.mode := by
  have other : s.mode.mode ≠ 7 := by omega
  unfold State.frameMode
  split
  · simp [other]
  · rfl

/-- Before Ready a frame holds its endpoint safe; from mode 2 on it is of type RUN and carries the bypass of a port that is bypassed
(DEDUCED, log entry 45). -/
theorem State.frameKind_unready {p n : Nat} (unready : (s.port p).st ≠ 3) (running : s.mode.mode ≤ 6) :
    s.frameKind p n = ⟨2 ≤ s.mode.mode, 2 ≤ s.mode.mode && s.bypassAt p n, false, true, false⟩ := by
  have other : s.mode.mode ≠ 7 := by omega
  unfold State.frameKind
  simp [State.frameMode_of_running running, other, unready]

/-- The first frame that carries bypass again settles the boundary from which it is in force (R376). -/
def State.bypassStarts (s : State) (p n : Nat) : State :=
  if 2 ≤ s.mode.mode ∧ s.bypassAt p n = true ∧ (s.health1 p).state = 2 ∧ (s.port p).byNext = true then
    s.modPort p fun q => { q with byNext := false, byFrom := 1000 * n } else s

theorem State.bypassStarts_st (s : State) (p n : Nat) : ((s.bypassStarts p n).port p).st = (s.port p).st := by
  unfold State.bypassStarts
  split
  · simp
  · rfl

theorem State.bypassStarts_pair (s : State) (p n : Nat) : (s.bypassStarts p n).pair = s.pair := by
  unfold State.bypassStarts
  split <;> rfl

theorem State.bypassStarts_settled (h : s.Settled) (p n : Nat) : (s.bypassStarts p n).Settled := by
  unfold State.bypassStarts
  split
  · exact State.modPort_settled h _ _
  · exact h

/-- Frame n with bytes b has been sent from port p, at pair offset o. -/
def State.frameSent (s : State) (p n : Nat) (o : Int) (b : Bytes) : State := s.modPort p fun q =>
  { q with edges := q.edges.filter (fun e => n < e.1), lastFrame := some n, lastBytes := b,
           line := (codeFrame q.rd (b.map fun o => o.toNat)).1, rd := (codeFrame q.rd (b.map fun o => o.toNat)).2,
           sent := ((n, 32000 * (n : Int) - o - q.adv) :: q.sent).take 32 }

/-- Before Ready a frame carries no edge and no slot. -/
theorem State.formFrame_unready {p n : Nat} (unready : (s.port p).st ≠ 3) (running : s.mode.mode ≤ 6) :
    s.formFrame p n = (s.bypassStarts p n).frameSent p n s.pair.o ((s.bypassStarts p n).frameBytes p n
      ⟨2 ≤ s.mode.mode, 2 ≤ s.mode.mode && s.bypassAt p n, false, true, false⟩ [] (zeros 16)) := by
  have other : s.mode.mode ≠ 7 := by omega
  have starts : s.iff ((2 ≤ s.mode.mode && s.bypassAt p n) && (s.health1 p).state = 2 && (s.port p).byNext)
      (·.modPort p fun q => { q with byNext := false, byFrom := 1000 * n }) = s.bypassStarts p n := by
    simp [State.iff, State.bypassStarts, and_assoc]
  have still : ((s.bypassStarts p n).port p).st ≠ 3 := by rwa [State.bypassStarts_st]
  unfold State.formFrame
  have purge : (decide (s.mode.mode = 7) && decide (s.frameMode = 7)) = false := by simp [other]
  have calm : ∀ f, s.iff false f = s := fun _ => rfl
  simp only [purge, calm, State.frameKind_unready unready running, starts, still, if_false, Bool.false_and,
    Bool.false_eq_true, State.bypassStarts_pair]
  rfl

theorem State.frameSent_settled (h : s.Settled) (p n : Nat) (o : Int) (b : Bytes) : (s.frameSent p n o b).Settled :=
  State.modPort_settled h _ _

/-! ### The command -/

theorem exec_downstreamFrame (t p : Nat) (s : State) : exec (.downstreamFrame t p) s = actIn 2 t s fun s =>
    if s.up && s.hasPort p && (s.port p).st != 0 && s.mode.mode != 0 then
      match s.frameNow p with
      | some n => s.formFrame p n
      | none => s
    else s := rfl

section
variable {t p : Nat} (e : x = (s.advanceTo t).openGate 2) (up : x.up = true)
include e up

/-- A port that is Off sends nothing. -/
theorem downstreamFrame_off (off : (x.port p).st = 0) (settled : x.Settled) : exec (.downstreamFrame t p) s = .next x :=
  exec_settled_eq (actIn_settles (exec_downstreamFrame t p s) e (State.released_of_up up)) settled (if_neg (by simp [off]))

theorem downstreamFrame_settles {n : Nat} (here : x.hasPort p = true) (on : (x.port p).st ≠ 0) (awake : x.mode.mode ≠ 0)
    (now : x.frameNow p = some n) : exec (.downstreamFrame t p) s = .next (x.formFrame p n).settle := by
  rw [actIn_settles (exec_downstreamFrame t p s) e (State.released_of_up up)]
  simp [up, here, on, awake, now]

end

/-! ### The obligation -/

/-- Settles O31: what a formed frame leaves in the port, the form of its bytes, and the frame of a port that is not Ready. -/
theorem downstreamFrames : Obligations.DownstreamFrames := by
  intro s x y t p e up here
  refine ⟨fun off settled => downstreamFrame_off e up off settled, fun n on awake now => ?_,
    fun n b unready awake running now settled made bytes => ?_⟩
  · obtain ⟨y, k, ev, slot, last, edges, bytes⟩ := x.formFrame_port p n
    obtain ⟨body, form, number⟩ := y.frameBytes_form p n k ev slot
    refine runs_calm (downstreamFrame_settles e up here on awake now) fun u calm => ?_
    rw [State.port_congr calm.ports]
    exact ⟨last, edges, body, bytes.trans form, number⟩
  · have on : (x.port p).st ≠ 0 := by omega
    have form := x.formFrame_unready (p := p) (n := n) (by omega) running
    rw [show x.bypassStarts p n = y from made.symm, ← bytes] at form
    refine exec_settled_eq (downstreamFrame_settles e up here on awake now) ?_ form
    rw [made]
    exact State.frameSent_settled (State.bypassStarts_settled settled p n) p n _ b

end Sys2Proof.Machine
end

section
/-! PROOFS. Upstream frames: good ones and bad ones, the run of good ones, confirmed bypass and release (R196, R203, R209, R373, R375). -/

namespace Sys2Proof.Machine

variable {s x : State}

/-! ### Frames (R196, R229) -/

theorem exec_upstreamFrame (t p rx : Nat) (f : Bytes) (clean : Bool) (s : State) : exec (.upstreamFrame t p rx f clean) s =
    actIn 2 t s fun s =>
      if !(s.up && s.hasPort p && (s.port p).st != 0 && rx + 32000 ≤ 32 * (s.clk.now + 1)) then s
      else if upGood f clean then s.upFrame p rx f
      else s.upBad p := rfl

theorem State.upBad_settled (h : s.Settled) (p : Nat) : (s.upBad p).Settled := State.modPort_settled h _ _

/-- A frame that has been received whole on a port that is not Off is judged. -/
theorem upstreamFrame_settles {t p rx : Nat} {f : Bytes} {clean : Bool} (e : x = (s.advanceTo t).openGate 2) (up : x.up = true)
    (here : x.hasPort p = true) (on : (x.port p).st ≠ 0) (whole : rx + 32000 ≤ 32 * (x.clk.now + 1)) :
    exec (.upstreamFrame t p rx f clean) s = .next (if upGood f clean then x.upFrame p rx f else x.upBad p).settle := by
  rw [actIn_settles (exec_upstreamFrame t p rx f clean s) e (State.released_of_up up), if_neg (by simp [up, here, on, whole])]

/-! ### The run of good frames (R209) -/

section
variable {p echo : Nat}

/-- In Acquire a frame that is not Crossed adds its valid bit to the run, and a run of eight ends Acquire. -/
theorem State.upState_acquire (acquire : (s.port p).st = 1) (uncrossed : nbit echo 7 = true → echo % 64 = p) (rtt : Int) :
    s.upState p echo rtt = s.modPort p fun y =>
      if 8 ≤ (s.port p).good + b2n (nbit echo 7) then { y with st := 2, good := 0, sum := 0, cnt := 0 }
      else { y with good := (s.port p).good + b2n (nbit echo 7) } := by
  unfold State.upState
  rw [if_neg (by simpa using fun valid other => absurd (uncrossed valid) other)]
  simp only [acquire]

/-- A valid echo of this port's number adds one to the run, and the eighth ends Acquire. -/
theorem State.upState_run (acquire : (s.port p).st = 1) (valid : nbit echo 7 = true) (mine : echo % 64 = p) (rtt : Int) :
    s.upState p echo rtt = s.modPort p fun y =>
      if 7 ≤ y.good then { y with st := 2, good := 0, sum := 0, cnt := 0 } else { y with good := y.good + 1 } := by
  rw [State.upState_acquire acquire (fun _ => mine), valid]
  exact State.modPort_congr (if_congr Nat.succ_le_succ_iff rfl rfl)

/-- An echo that is not valid leaves the port as it is. -/
theorem State.upState_invalid (acquire : (s.port p).st = 1) (invalid : nbit echo 7 = false) (short : (s.port p).good < 8) (rtt : Int) :
    (s.upState p echo rtt).port p = s.port p := by
  rw [State.upState_acquire acquire (by simp [invalid]), State.port_modPort_self, invalid]
  exact if_neg (Nat.not_le.mpr short)

/-- An echo of another port's number is Crossed. -/
theorem State.upState_crossed (judged : (s.port p).st = 1 ∨ (s.port p).st = 3) (valid : nbit echo 7 = true) (other : echo % 64 ≠ p)
    (rtt : Int) : s.upState p echo rtt = s.portFault p 7 := by
  unfold State.upState
  exact if_pos (by simp [valid, other, judged])

end

/-! ### Bypass and release (R373, R375) -/

/-- A frame of the confirming span that reports bypass ends Bypassing. -/
theorem State.upRetire_bypassed {p n st : Nat} (bypassing : (s.health1 p).state = 2) (free : (s.health1 p).held = false)
    (reported : nbit st 5 = true) (started : (s.port p).byFrom ≠ 0) (after : (s.port p).byFrom + 1000 ≤ 1000 * n)
    (before : 1000 * n ≤ (s.port p).byFrom + 8000) : s.upRetire p n st = s.modHealth1 p fun h => { h with state := 3 } := by
  unfold State.upRetire
  simp only [bypassing]
  rw [if_pos (by simp [reported, started, after, before])]
  simp [State.heldReturn, free]

theorem State.portBack_state (s : State) (p : Nat) : ((s.portBack p).health1 p).state = 0 := by
  unfold State.portBack
  dsimp only
  refine Eq.trans (State.forAll_frame (fun z => (z.health1 p).state) _ _ _ ?_) ?_
  · exact fun _ _ => rfl
  · simp

/-- A frame sent with release that reports neither hold nor bypass ends Returning. -/
theorem State.upRetire_released {p n st r : Nat} (returning : (s.health1 p).state = 4) (from_ : (s.port p).relFrom = some r)
    (after : r ≤ n) (free : nbit st 3 = false) (active : nbit st 5 = false) : s.upRetire p n st = s.portBack p := by
  unfold State.upRetire
  simp [returning, from_, after, free, active]

/-! ### The obligation -/

/-- Settles O32: frames are good or bad, and each clause about a good one is a case of upState or upRetire. -/
theorem upstreamFrames : Obligations.UpstreamFrames := by
  refine ⟨fun s x t p rx f clean e up here on whole => ?_, fun s p n echo st rtt => ?_⟩
  · have run := upstreamFrame_settles (f := f) (clean := clean) e up here on whole
    refine ⟨fun bad settled => ?_, fun good => ?_⟩
    · rw [bad] at run
      exact exec_settled_eq run (State.upBad_settled settled p) rfl
    · rwa [good] at run
  · refine ⟨fun acquire valid mine short => ?_, fun acquire valid mine long => ?_, fun acquire invalid short => ?_,
      fun judged valid other => State.upState_crossed judged valid other rtt,
      fun bypassing free reported started after before => State.upRetire_bypassed bypassing free reported started after before,
      fun r returning from_ after free active => ⟨State.upRetire_released returning from_ after free active, s.portBack_state p⟩⟩
    · rw [State.upState_run acquire valid mine]
      exact State.modPort_congr (if_neg (Nat.not_le.mpr short))
    · rw [State.upState_run acquire valid mine]
      exact State.modPort_congr (if_pos long)
    · exact State.upState_invalid acquire invalid short rtt

end Sys2Proof.Machine
end

section
/-! PROOFS. Delay measurement: a new mean, its limits and passes, and the steps of the advance (R203 to R207, R209). -/

namespace Sys2Proof.Machine

variable {s x : State}

/-! ### A new mean (R204, R206, R207) -/

/-- A mean and the delay down of it have been stored, and the set of samples starts again. -/
def State.measured (s : State) (p : Nat) (mean d : Int) : State := s.modPort p fun y =>
  { y with mean := mean, dDown := d, dUp := mean - 2048 - d, sum := 0, cnt := 0 }

@[simp] theorem State.downLimit_modPort (s : State) (p : Nat) (f : Port → Port) : (s.modPort p f).downLimit = s.downLimit := rfl
@[simp] theorem State.upLimit_modPort (s : State) (p : Nat) (f : Port → Port) : (s.modPort p f).upLimit = s.upLimit := rfl

/-- A delay is beyond its limit (R207). -/
def State.beyond (s : State) (d up : Int) : Prop := s.downLimit < d ∨ s.upLimit < up

@[simp] theorem State.measured_port (s : State) (p : Nat) (mean d : Int) : (s.measured p mean d).port p =
    { s.port p with mean := mean, dDown := d, dUp := mean - 2048 - d, sum := 0, cnt := 0 } := State.port_modPort_self _ _ _

section
variable {p : Nat} {S mean d : Int} (rounded : mean = (S + 128) / 256)
  (down : d = (mean - 2048) / 2 + sx 32 (s.reg .lnkAsym p).toNat)
include rounded down

/-- Delays beyond their limits are a fault, whatever the port's state. -/
theorem State.newMean_beyond (beyond : s.beyond d (mean - 2048 - d)) : s.newMean p S = (s.measured p mean d).portFault p 5 := by
  subst rounded down
  unfold State.newMean
  dsimp only
  refine if_pos ?_
  simpa [State.beyond] using beyond

variable (within : ¬s.beyond d (mean - 2048 - d))
include within

/-- Measure compares the delay with the advance in force: Ready within 2 units, else another pass with it, at most 4 (R209). -/
theorem State.newMean_measure (measure : (s.port p).st = 2) : s.newMean p S =
    if (d - (s.port p).adv).natAbs ≤ 2 then (s.measured p mean d).toReady p
    else if 3 ≤ (s.port p).passes then (s.measured p mean d).portFault p 6
    else ((s.measured p mean d).modPort p fun y => { y with adv := y.dDown, passes := y.passes + 1 }).toAcquire p false := by
  subst rounded down
  unfold State.newMean
  dsimp only
  rw [if_neg (by simpa [State.beyond] using within)]
  simp [measure, State.measured]

/-- In Ready a delay within 64 units of the advance is stored and nothing else. -/
theorem State.newMean_ready (ready : (s.port p).st = 3) (near : (d - (s.port p).adv).natAbs ≤ 64) :
    s.newMean p S = s.measured p mean d := by
  subst rounded down
  unfold State.newMean
  dsimp only
  rw [if_neg (by simpa [State.beyond] using within)]
  simp [ready, near, State.measured]

end

/-- A port that becomes Ready keeps its delay and its advance. -/
theorem State.toReady_port (s : State) (p : Nat) : ((s.toReady p).port p).st = 3 ∧ ((s.toReady p).port p).dDown = (s.port p).dDown ∧
    ((s.toReady p).port p).adv = (s.port p).adv := by
  unfold State.toReady
  dsimp only
  generalize ready : s.modPort p _ = y
  obtain ⟨q, b, port⟩ := y.fwPush_port p true
  rw [port, ← ready]
  simp

/-! ### Steps of the advance (R206) -/

theorem exec_advanceStep (t p n : Nat) (s : State) : exec (.advanceStep t p n) s = actIn 2 t s fun s =>
    if s.up && s.hasPort p && (s.port p).st = 3 && n % 1024 = 0 && (s.port p).lastFrame = some (n - 1) && 0 < n &&
        (s.port p).stepAt ≤ n then
      s.modPort p fun x =>
        { x with stepAt := n + 1, adv := if x.adv < x.dDown then x.adv + 1 else if x.dDown < x.adv then x.adv - 1 else x.adv }
    else s := rfl

/-! ### The obligation -/

/-- Settles O33: each clause is a case of a new mean or of a step of the advance. -/
theorem delayMeasurement : Obligations.DelayMeasurement := by
  refine ⟨fun s p S mean d up rounded down above => ?_, fun s x t p n e settled up here => ?_⟩
  · subst above
    refine ⟨fun low high => ?_, fun beyond staying severe ok => ?_⟩
    · have within : ¬s.beyond d (mean - 2048 - d) := not_or.mpr ⟨Int.not_lt.mpr low, Int.not_lt.mpr high⟩
      have judge := State.newMean_measure rounded down within
      refine ⟨fun ready near => State.newMean_ready rounded down within ready near, fun measure far again => ?_,
        fun measure far last => ?_, fun measure near => ?_⟩
      · rw [judge measure, if_neg (Nat.not_le.mpr far), if_neg (Nat.not_le.mpr again)]
        simp
      · rw [judge measure, if_neg (Nat.not_le.mpr far), if_pos last, State.measured]
      · rw [judge measure, if_pos near]
        simpa using (s.measured p mean d).toReady_port p
    · rw [State.newMean_beyond rounded down beyond]
      exact State.portFault_latched (st := 5) staying ok severe
  · have run := actIn_settles (exec_advanceStep t p n s) e (State.released_of_up up)
    refine ⟨fun ready whole positive next fresh => ?_, fun other => ?_⟩
    · exact exec_settled_eq run (State.modPort_settled settled _ _) (if_pos (by simp [up, here, ready, whole, positive, next, fresh]))
    · exact exec_settled_eq run settled (if_neg (by simp [other]))

end Sys2Proof.Machine
end

section
/-! PROOFS. What closing the chunks of a stream leaves alone: the cell ports and the pair (R413, R420 to R423). -/

namespace Sys2Proof.Machine

variable {s x : State}

/-- What capture never changes: the cell ports and the pair. -/
def State.links (s : State) : Tbl Port × Pair := (s.ports, s.pair)

theorem State.links_of_calm {u : State} (h : s.Calm u) : u.links = s.links := by
  rw [State.links, h.ports, h.pair]
  rfl

/-- A raise that names no channel leaves the links. -/
theorem State.raise_links {src : Nat} (s : State) (idx : Nat) (nowhere : degradeChannel src idx = none) :
    (s.raise src idx).links = s.links := by
  have raised : (s.raise src idx) = s.raise0 src idx := by
    unfold State.raise
    rw [nowhere]
    exact ite_self _
  rw [raised]
  exact State.links_of_calm (State.watchStop_calm (State.raiseCore_calm (State.Calm.refl s) _ _ _ _) _)

@[simp] theorem State.modUnit_links (s : State) (u : Nat) (f : CapUnit → CapUnit) : (s.modUnit u f).links = s.links := rfl
@[simp] theorem State.modCap_links (s : State) (f : Cap → Cap) : (s.modCap f).links = s.links := rfl
@[simp] theorem State.setRf_links (s : State) (r : Reg) (i hi lo v : Nat) : (s.setRf r i hi lo v).links = s.links := rfl

theorem State.notice_links (s : State) (q : Nat) (b : Bytes) : (s.notice q b).links = s.links :=
  State.links_of_calm (State.notice_hostOnly (State.HostOnly.refl s) q b).calm

theorem State.iff_modUnit_links (s : State) (c : Bool) (u : Nat) (f : CapUnit → CapUnit) : (s.iff c (·.modUnit u f)).links = s.links :=
  State.iff_frame State.links s c _ fun z => z.modUnit_links u f

theorem State.iff_raise_links {src : Nat} (s : State) (c : Bool) (idx : Nat) (nowhere : degradeChannel src idx = none) :
    (s.iff c (·.raise src idx)).links = s.links :=
  State.iff_frame State.links s c _ fun z => z.raise_links idx nowhere

theorem State.capDrain_links (s : State) : s.capDrain.links = s.links := by
  unfold State.capDrain
  extract_lets b l
  rw [State.modCap_links]
  exact State.forAll_frame State.links s _ (fun u z => z.modUnit u fun x => { x with queue := nth l u 0 }) fun _ z => z.modUnit_links _ _

/-- The end of a record leaves the links: its raises name no channel. -/
theorem State.capEnd_links (s : State) (u : Nat) (ovrun trunc : Bool) : (s.capEnd u ovrun trunc).links = s.links := by
  unfold State.capEnd
  extract_lets closed headed x counted marked raised ended
  have kept : ended.links = s.links := by
    calc ended.links = raised.links := raised.iff_raise_links _ _ rfl
      _ = marked.links := marked.iff_raise_links _ _ rfl
      _ = s.links := by simp [marked, counted, headed, closed]
  split
  · rw [State.notice_links, kept]
  · exact kept

theorem State.capStore_links (s : State) (u : Nat) (c : Chunk) : (s.capStore u c).links = s.links := by
  unfold State.capStore
  extract_lets x drained lost triggered room whole stored y
  split
  · rfl
  split
  · rw [State.capEnd_links, State.iff_modUnit_links, State.iff_modUnit_links, State.capDrain_links]
  have kept : stored.links = s.links := by simp [stored, drained, State.capDrain_links]
  split
  · rw [State.modUnit_links, kept]
  split
  · rw [State.modUnit_links, kept]
  · rw [State.capEnd_links, kept]

theorem State.capClose_links (s : State) (u k : Nat) : (s.capClose u k).links = s.links := by
  unfold State.capClose
  dsimp only
  split
  · rfl
  · rw [State.capStore_links]
    rfl

/-- A gap in a stream leaves the links. -/
theorem State.capGap_links (s : State) (code : Nat) : (s.capGap code).links = s.links := by
  refine State.forAll_frame State.links s _ _ fun u z => ?_
  dsimp only
  split
  · refine State.forAll_frame State.links z _ _ fun i z => ?_
    refine State.iff_frame State.links z _ _ fun z => ?_
    exact State.forAll_frame State.links z _ _ fun r z => z.capClose_links u _
  · rfl

/-- A watermark is capture's own. -/
theorem State.capMark_cases (s : State) (code : Nat) (m : Int) : ∃ f, s.capMark code m = s.modCap f := by
  unfold State.capMark
  split
  · exact ⟨_, rfl⟩
  · exact ⟨id, rfl⟩

theorem State.capMark_frame {α : Type} (g : State → α) (h : ∀ (z : State) (f : Cap → Cap), g (z.modCap f) = g z) (s : State)
    (code : Nat) (m : Int) : g (s.capMark code m) = g s := by
  obtain ⟨f, made⟩ := s.capMark_cases code m
  rw [made, h]

end Sys2Proof.Machine
end

section
/-! PROOFS. Cell ports that fail and cell ports that are commanded (R209, R519). -/

namespace Sys2Proof.Machine

variable {s x y z u : State}

/-! ### Loss of the signal (R209) -/

theorem sourceOk_linkDown (v : Variant) : sourceOk v 200 = true := by cases v <;> decide

theorem State.portFault_counted_port {p st : Nat} (counted : st = 4 ∨ st = 6) :
    ((s.portFault p st).port p).st = 1 ∧ ((s.portFault p st).port p).passes = 0 ∧ ((s.portFault p st).port p).good = 0 := by
  rw [State.portFault_counted counted]
  simp

theorem exec_cellLos (t p : Nat) (s : State) : exec (.cellLos t p) s = actIn 2 t s fun s =>
    s.iff (s.up && s.hasPort p && (s.port p).st = 3) (·.portFault p 4) := rfl

theorem cellLos_settles {t p : Nat} (e : x = (s.advanceTo t).openGate 2) (up : x.up = true) (here : x.hasPort p = true)
    (ready : (x.port p).st = 3) : exec (.cellLos t p) s = .next (x.portFault p 4).settle := by
  rw [actIn_settles (exec_cellLos t p s) e (State.released_of_up up), State.iff, if_pos (by simp [up, here, ready])]

/-- Loss of the signal takes a Ready port Down with its source, and the retry to Acquire starts at once (R370). -/
theorem cellLos_runs {t p : Nat} (e : x = (s.advanceTo t).openGate 2) (up : x.up = true) (here : x.hasPort p = true)
    (ready : (x.port p).st = 3) : s.Runs (.cellLos t p) fun u => (u.port p).st = 1 ∧ (u.port p).passes = 0 ∧ (u.port p).good = 0 ∧
      ((x.health1 p).state ≠ 4 → x.severity 200 ≠ 0 → u.latched 200 = true) ∧ u.tim = x.tim ∧ u.bell = x.bell := by
  obtain ⟨st, passes, good⟩ := State.portFault_counted_port (s := x) (p := p) (st := 4) (.inl rfl)
  refine runs_calm (cellLos_settles e up here ready) fun u calm => ?_
  have quiet := (State.portFault_quiet (State.Quiet.refl x) p 4).trans calm.toQuiet
  rw [State.port_congr calm.ports]
  exact ⟨st, passes, good, fun staying severe => calm.toQuiet.latched 200 (by decide)
    (State.portFault_latched (st := 4) staying (sourceOk_linkDown _) severe), quiet.tim, quiet.bell⟩

theorem cellLos_idle {t p : Nat} (e : x = (s.advanceTo t).openGate 2) (settled : x.Settled) (up : x.up = true)
    (unready : (x.port p).st ≠ 3) : exec (.cellLos t p) s = .next x := by
  refine exec_settled_eq (actIn_settles (exec_cellLos t p s) e (State.released_of_up up)) settled ?_
  rw [State.iff, if_neg (by simp [unready])]

/-! ### Slots (R209) -/

/-- The port after the slot of frame n has closed: with a frame missed the runs that it breaks start again (log entry 99). -/
def Port.slotClosed (q : Port) (n : Nat) (missed : Bool) : Port :=
  { q with slotDone := some n, missRun := if missed then q.missRun + 1 else 0, tmiss := if missed then satAdd 8 q.tmiss 1 else q.tmiss,
           retRun := if missed && q.retRun < 8 then 0 else q.retRun }

/-- The slot of frame n on port p has closed: the port, the gap, the watermarks of its two streams. -/
def State.slotClosed (s : State) (p n : Nat) (missed : Bool) : State :=
  (((s.modPort p fun q => q.slotClosed n missed).iff missed (·.capGap (0x40 + p))).capMark (0x40 + p)
    (s.unaligned (1000 * n))).capMark (0x80 + p) ((s.unaligned (1000 * (n - 6)) : Int) - 1)

theorem State.unaligned_congr (h : u.pair = s.pair) (a : Nat) : u.unaligned a = s.unaligned a := by
  unfold State.unaligned
  rw [h]

theorem State.capMark_port (s : State) (code : Nat) (m : Int) (p : Nat) : (s.capMark code m).port p = s.port p :=
  State.capMark_frame (·.port p) (fun _ _ => rfl) s code m

theorem State.gap_links (s : State) (missed : Bool) (code : Nat) : (s.iff missed (·.capGap code)).links = s.links :=
  State.iff_frame State.links s missed _ fun z => z.capGap_links code

theorem State.unaligned_capMark (s : State) (code : Nat) (m : Int) (a : Nat) : (s.capMark code m).unaligned a = s.unaligned a :=
  State.capMark_frame (·.unaligned a) (fun _ _ => rfl) s code m

theorem State.unaligned_gap (s : State) (missed : Bool) (code a : Nat) : (s.iff missed (·.capGap code)).unaligned a = s.unaligned a :=
  State.unaligned_congr (congrArg Prod.snd (s.gap_links missed code)) a

theorem State.unaligned_modPort (s : State) (p : Nat) (f : Port → Port) (a : Nat) : (s.modPort p f).unaligned a = s.unaligned a := rfl

theorem State.slotClosed_port (s : State) (p n : Nat) (missed : Bool) :
    (s.slotClosed p n missed).port p = (s.port p).slotClosed n missed := by
  unfold State.slotClosed
  rw [State.capMark_port, State.capMark_port, State.port_congr (congrArg Prod.fst (State.gap_links _ _ _)), State.port_modPort_self]

/-- What a closed slot sets off: words for a new temperature band, Down at the third missed frame in a row. -/
def State.slotJudged (s : State) (p band : Nat) : State :=
  ((s.iff (s.portBand p != band) (·.fwPush p false)).iff
    (((s.iff (s.portBand p != band) (·.fwPush p false)).port p).st = 3 &&
      3 ≤ ((s.iff (s.portBand p != band) (·.fwPush p false)).port p).missRun) (·.portFault p 4)).seqGoAll

/-- The slot of a sent frame, not judged yet, closes on a port that is not Off. -/
theorem upstreamSlotClose_settles {t p n : Nat} (e : x = (s.advanceTo t).openGate 2) (up : x.up = true) (here : x.hasPort p = true)
    (on : (x.port p).st ≠ 0) (fresh : (x.port p).slotDone = some (n - 1)) (positive : 0 < n)
    (sent : (x.port p).sent.any (fun e => e.1 = n) = true) (closed : x.slotClose p (1000 * n) ≤ 32 * (x.clk.now : Int)) :
    exec (.upstreamSlotClose t p n) s =
      .next ((x.slotClosed p n !(x.port p).echoes.contains n).slotJudged p (x.portBand p)).settle := by
  have run : exec (.upstreamSlotClose t p n) s = execUpstreamSlotClose t p n s := rfl
  unfold execUpstreamSlotClose at run
  rw [actIn_settles run e (State.released_of_up up)]
  dsimp only
  rw [if_neg (by simp [up, here, on, fresh, positive, sent, closed])]
  simp only [State.unaligned_capMark, State.unaligned_gap, State.unaligned_modPort]
  rfl

theorem Port.slotClosed_taken (q : Port) (n : Nat) : q.slotClosed n false = { q with slotDone := some n, missRun := 0 } := rfl

theorem Port.slotClosed_missed (q : Port) (n : Nat) : q.slotClosed n true =
    { q with slotDone := some n, missRun := q.missRun + 1, tmiss := satAdd 8 q.tmiss 1,
             retRun := if q.retRun < 8 then 0 else q.retRun } := by
  simp [Port.slotClosed]

theorem State.slotClosed_taken (s : State) (p n : Nat) : s.slotClosed p n false =
    ((s.modPort p fun q => { q with slotDone := some n, missRun := 0 }).capMark (0x40 + p) (s.unaligned (1000 * n))).capMark (0x80 + p)
      ((s.unaligned (1000 * (n - 6)) : Int) - 1) := rfl

theorem State.slotClosed_missed (s : State) (p n : Nat) : s.slotClosed p n true =
    (((s.modPort p fun q => { q with slotDone := some n, missRun := q.missRun + 1, tmiss := satAdd 8 q.tmiss 1,
                                     retRun := if q.retRun < 8 then 0 else q.retRun }).capGap (0x40 + p)).capMark (0x40 + p)
      (s.unaligned (1000 * n))).capMark (0x80 + p) ((s.unaligned (1000 * (n - 6)) : Int) - 1) := by
  unfold State.slotClosed
  simp only [Port.slotClosed_missed]
  rfl

/-- The band follows the port's telemetry and its register alone. -/
theorem State.portBand_congr {p : Nat} (band : (u.port p).tband = (s.port p).tband) (st : (u.port p).st = (s.port p).st)
    (miss : (u.port p).tmiss = (s.port p).tmiss) (regs : u.regs = s.regs) : u.portBand p = s.portBand p := by
  unfold State.portBand State.portBandOf State.reg
  dsimp only
  rw [band, st, miss, regs]

/-- A slot that closes with its frame taken leaves the port's band. -/
theorem State.slotClosed_band (s : State) (p n : Nat) : (s.slotClosed p n false).portBand p = s.portBand p := by
  have port := s.slotClosed_port p n false
  rw [Port.slotClosed_taken] at port
  refine State.portBand_congr (by rw [port]) (by rw [port]) (by rw [port]) ?_
  rw [State.slotClosed_taken]
  exact (State.capMark_frame State.regs (fun _ _ => rfl) _ _ _).trans (State.capMark_frame State.regs (fun _ _ => rfl) _ _ _)

/-- Without a missed frame a closed slot sets off nothing more. -/
theorem State.slotJudged_taken {p band : Nat} (same : s.portBand p = band) (none_ : (s.port p).missRun = 0) :
    s.slotJudged p band = s.seqGoAll := by
  unfold State.slotJudged
  simp [State.iff, same, none_]

/-- The third missed frame in a row takes a Ready port Down; words for its new band are queued before. -/
theorem State.slotJudged_third {p band : Nat} (ready : (s.port p).st = 3) (third : 3 ≤ (s.port p).missRun) :
    s.slotJudged p band = (((if s.portBand p = band then s else s.fwPush p false)).portFault p 4).seqGoAll := by
  have pushed : s.iff (s.portBand p != band) (·.fwPush p false) = if s.portBand p = band then s else s.fwPush p false := by
    by_cases same : s.portBand p = band <;> simp [State.iff, same]
  have port : ((if s.portBand p = band then s else s.fwPush p false).port p).st = 3 ∧
      3 ≤ ((if s.portBand p = band then s else s.fwPush p false).port p).missRun := by
    split
    · exact ⟨ready, third⟩
    · obtain ⟨q, b, port⟩ := s.fwPush_port p false
      rw [port]
      exact ⟨ready, third⟩
  unfold State.slotJudged
  rw [pushed]
  simp [State.iff, port]

section
variable {t p n : Nat} (e : x = (s.advanceTo t).openGate 2) (up : x.up = true) (here : x.hasPort p = true) (ready : (x.port p).st = 3)
  (fresh : (x.port p).slotDone = some (n - 1)) (positive : 0 < n) (sent : (x.port p).sent.any (fun e => e.1 = n) = true)
  (closed : x.slotClose p (1000 * n) ≤ 32 * (x.clk.now : Int))
include e up here ready fresh positive sent closed

/-- A slot that closes with its frame taken ends the run of missed ones. -/
theorem upstreamSlotClose_taken (taken : (x.port p).echoes.contains n = true) :
    exec (.upstreamSlotClose t p n) s = .next (x.slotClosed p n false).seqGoAll.settle := by
  have run := upstreamSlotClose_settles e up here (by omega) fresh positive sent closed
  have unmissed : ((x.slotClosed p n false).port p).missRun = 0 := by rw [State.slotClosed_port, Port.slotClosed_taken]
  rwa [taken, Bool.not_true, State.slotJudged_taken (x.slotClosed_band p n) unmissed] at run

/-- The third missed frame in a row takes the port Down. -/
theorem upstreamSlotClose_third (missed : (x.port p).echoes.contains n = false) (second : 2 ≤ (x.port p).missRun)
    (closing : y = x.slotClosed p n true) (banded : z = if y.portBand p = x.portBand p then y else y.fwPush p false) :
    exec (.upstreamSlotClose t p n) s = .next ((z.portFault p 4).seqGoAll).settle := by
  have run := upstreamSlotClose_settles e up here (by omega) fresh positive sent closed
  have port : y.port p = (x.port p).slotClosed n true := by rw [closing, State.slotClosed_port]
  have third : 3 ≤ (y.port p).missRun := by
    rw [port, Port.slotClosed_missed]
    exact Nat.succ_le_succ second
  rwa [missed, Bool.not_false, ← closing, State.slotJudged_third (by rw [port]; exact ready) third, ← banded] at run

end

/-! ### LNK_CTRL (R209, R519) -/

/-- The word a write leaves in LNK_CTRL. -/
def State.storeLnkCtrl (s : State) (p : Nat) (v : Word) : State := s.setReg .lnkCtrl p (v &&& 0xC000FF00)

@[simp] theorem State.storeLnkCtrl_port (s : State) (p q : Nat) (v : Word) : (s.storeLnkCtrl p v).port q = s.port q := rfl
@[simp] theorem State.storeLnkCtrl_reg (s : State) (p : Nat) (v : Word) : (s.storeLnkCtrl p v).reg .lnkCtrl p = v &&& 0xC000FF00 :=
  State.reg_setReg_self s .lnkCtrl p 0 _

theorem hasPort_lt {p : Nat} (here : s.hasPort p = true) : p < 48 := by
  have lt : p < s.var.cellPorts := of_decide_eq_true here
  have le : s.var.cellPorts ≤ 48 := by cases s.var <;> decide
  omega

theorem State.storeLnkCtrl_settled (h : s.Settled) {p : Nat} (here : s.hasPort p = true) (v : Word) : (s.storeLnkCtrl p v).Settled := by
  have := hasPort_lt here
  refine h.setReg _ _ _ _ (.inl ?_)
  simp only [Reg.addr, Reg.row]
  omega

/-- LNK_CTRL is a register that no raise writes. -/
theorem State.Quiet.lnkCtrl {p : Nat} (h : s.Quiet u) (lt : p < 48) : u.reg .lnkCtrl p = s.reg .lnkCtrl p := by
  have quiet : ∀ p < 48, eventOff (Reg.lnkCtrl.addr p) = false ∧ raiseOff (Reg.lnkCtrl.addr p) = false := by decide
  exact h.reg .lnkCtrl p 0 (quiet p lt).1 (quiet p lt).2

/-- The port after the enable bit of a write, and then after its retrain bit. -/
def State.lnkSwitched (s : State) (p : Nat) (v : Word) : State :=
  if bit v 31 then (s.storeLnkCtrl p v).iff ((s.port p).st = 0 && s.mode.mode != 0) (·.toAcquire p true)
  else (s.storeLnkCtrl p v).iff ((s.port p).st != 0) (·.portOff p)
def State.lnkRetried (s : State) (p : Nat) (v : Word) : State := (s.lnkSwitched p v).iff (bit v 0) (·.portRetry p)

/-- A commit is awaited from now on, unless an earlier one still is. -/
def State.commits (s : State) (p : Nat) : State := s.modPort p fun y =>
  { y with committing := true, comFrom := if y.committing then y.comFrom else s.clk.now }

section
variable {p : Nat} {v : Word} (here : s.hasPort p = true)
include here

theorem State.lnkCtrlWrite_eq : s.lnkCtrlWrite p v =
    if fld v 15 8 != s.rf .lnkCtrl p 15 8 && ((s.lnkRetried p v).port p).st = 3 then ((s.lnkRetried p v).commits p).fwPush p true
    else s.lnkRetried p v := by
  unfold State.lnkCtrlWrite
  rw [if_neg (by simp [here])]
  rfl

/-- A write after which the port is not Ready commits nothing. -/
theorem State.lnkCtrlWrite_of_unready (unready : ((s.lnkRetried p v).port p).st ≠ 3) : s.lnkCtrlWrite p v = s.lnkRetried p v := by
  rw [State.lnkCtrlWrite_eq here, if_neg (by simp [unready])]

/-- A write that enables an Off port outside Dormant takes it to Acquire. -/
theorem State.lnkCtrlWrite_enables (enable : bit v 31 = true) (plain : bit v 0 = false) (off : (s.port p).st = 0)
    (awake : s.mode.mode ≠ 0) : s.lnkCtrlWrite p v = (s.storeLnkCtrl p v).toAcquire p true := by
  have retried : s.lnkRetried p v = (s.storeLnkCtrl p v).toAcquire p true := by
    simp [State.lnkRetried, State.lnkSwitched, enable, plain, off, awake, State.iff]
  rw [State.lnkCtrlWrite_of_unready here (by simp [retried]), retried]

/-- A write that does not enable the port takes it to Off, if it is not, and its retrain bit does nothing. -/
theorem State.lnkCtrlWrite_disables (disable : bit v 31 = false) :
    s.lnkCtrlWrite p v = if (s.port p).st = 0 then s.storeLnkCtrl p v else (s.storeLnkCtrl p v).portOff p := by
  have switched : s.lnkSwitched p v = if (s.port p).st = 0 then s.storeLnkCtrl p v else (s.storeLnkCtrl p v).portOff p := by
    by_cases off : (s.port p).st = 0 <;> simp [State.lnkSwitched, disable, State.iff, off]
  have off : ((s.lnkSwitched p v).port p).st = 0 := by
    rw [switched]
    split
    · assumption
    · exact State.portOff_st _ p
  have retried : s.lnkRetried p v = s.lnkSwitched p v := by simp [State.lnkRetried, State.iff, State.portRetry_of_off off]
  rw [State.lnkCtrlWrite_of_unready here (by simp [retried, off]), retried, switched]

/-- A write with retrain on a port that is not Off retries it. -/
theorem State.lnkCtrlWrite_retrains (enable : bit v 31 = true) (retrain : bit v 0 = true) (on : (s.port p).st ≠ 0) :
    s.lnkCtrlWrite p v = ((s.storeLnkCtrl p v).leaveReady p).toAcquire p true := by
  have retried : s.lnkRetried p v = ((s.storeLnkCtrl p v).leaveReady p).toAcquire p true := by
    simp [State.lnkRetried, State.lnkSwitched, enable, retrain, on, State.iff, State.portRetry]
  rw [State.lnkCtrlWrite_of_unready here (by simp [retried]), retried]

/-- A write that enables a port that is not Off and does not retrain it: a new generation is committed in Ready (R519). -/
theorem State.lnkCtrlWrite_commits (enable : bit v 31 = true) (plain : bit v 0 = false) (on : (s.port p).st ≠ 0)
    (new : fld v 15 8 ≠ s.rf .lnkCtrl p 15 8) : s.lnkCtrlWrite p v =
      if (s.port p).st = 3 then ((s.storeLnkCtrl p v).commits p).fwPush p true else s.storeLnkCtrl p v := by
  have retried : s.lnkRetried p v = s.storeLnkCtrl p v := by simp [State.lnkRetried, State.lnkSwitched, enable, plain, on, State.iff]
  rw [State.lnkCtrlWrite_eq here, retried]
  by_cases ready : (s.port p).st = 3 <;> simp [new, ready]

end

/-! ### The commands that write LNK_CTRL -/

/-- A command that writes LNK_CTRL while its condition holds. -/
theorem lnkCtrlWrite_settles {c : Instr} {t p : Nat} {v : Word} {k : State → Bool}
    (run : exec c s = actIn 2 t s fun s => s.iff (s.up && k s) (·.lnkCtrlWrite p v)) (e : x = (s.advanceTo t).openGate 2)
    (up : x.up = true) (meant : k x = true) : exec c s = .next (x.lnkCtrlWrite p v).settle := by
  rw [actIn_settles run e (State.released_of_up up), State.iff, if_pos (by simp [up, meant])]

/-- What a write leaves: the port as the write made it, the word, the time. -/
theorem lnkCtrlWrite_runs {c : Instr} {p : Nat} {v : Word} (here : x.hasPort p = true) (run : exec c s = .next y.settle)
    (kept : (x.storeLnkCtrl p v).Quiet y) :
    s.Runs c fun u => u.port p = y.port p ∧ u.reg .lnkCtrl p = v &&& 0xC000FF00 ∧ u.tim = x.tim :=
  runs_calm run fun _ calm => ⟨State.port_congr calm.ports p,
    ((kept.trans calm.toQuiet).lnkCtrl (hasPort_lt here)).trans (x.storeLnkCtrl_reg p v), (kept.trans calm.toQuiet).tim⟩

section
variable {t p : Nat} {v : Word} (e : x = (s.advanceTo t).openGate 2) (up : x.up = true) (here : x.hasPort p = true)
include e up here

theorem lnkEnable_next (enable : bit v 31 = true) (plain : bit v 0 = false) (off : (x.port p).st = 0) (awake : x.mode.mode ≠ 0)
    (settled : x.Settled) : exec (.lnkEnable t p v) s = .next ((x.storeLnkCtrl p v).toAcquire p true) :=
  exec_settled_eq (lnkCtrlWrite_settles (c := .lnkEnable t p v) (k := fun _ => bit v 31) rfl e up enable)
    (State.modPort_settled (State.storeLnkCtrl_settled settled here v) _ _) (State.lnkCtrlWrite_enables here enable plain off awake)

theorem lnkDisable_runs (disable : bit v 31 = false) : s.Runs (.lnkDisable t p v) fun u =>
    (u.port p).st = 0 ∧ u.reg .lnkCtrl p = v &&& 0xC000FF00 ∧ u.tim = x.tim := by
  have run := lnkCtrlWrite_settles (c := .lnkDisable t p v) (k := fun _ => !bit v 31) rfl e up (by simp [disable])
  rw [State.lnkCtrlWrite_disables here disable] at run
  split at run
  · next off =>
    obtain ⟨u, run, port, left⟩ := lnkCtrlWrite_runs here run (State.Quiet.refl _)
    exact ⟨u, run, by rw [port, State.storeLnkCtrl_port, off], left⟩
  · obtain ⟨u, run, port, left⟩ := lnkCtrlWrite_runs here run (State.portOff_quiet (State.Quiet.refl _) p)
    exact ⟨u, run, by rw [port, State.portOff_st], left⟩

theorem lnkRetrain_runs (enable : bit v 31 = true) (retrain : bit v 0 = true) (on : (x.port p).st ≠ 0) :
    s.Runs (.lnkRetrain t p v) fun u => (u.port p).st = 1 ∧ (u.port p).passes = 0 ∧ (u.port p).badUp = 0 ∧
      u.reg .lnkCtrl p = v &&& 0xC000FF00 ∧ u.tim = x.tim := by
  have run := lnkCtrlWrite_settles (c := .lnkRetrain t p v) (k := fun _ => bit v 0) rfl e up retrain
  rw [State.lnkCtrlWrite_retrains here enable retrain on] at run
  obtain ⟨u, run, port, left⟩ := lnkCtrlWrite_runs here run
    (State.toAcquire_quiet (State.leaveReady_quiet (State.Quiet.refl _) p) p true)
  exact ⟨u, run, by simp [port], by simp [port], by simp [port], left⟩

theorem lnkGenerationWrite_next (enable : bit v 31 = true) (plain : bit v 0 = false) (new : fld v 15 8 ≠ x.rf .lnkCtrl p 15 8)
    (on : (x.port p).st ≠ 0) (settled : x.Settled) : exec (.lnkGenerationWrite t p v) s =
      .next (if (x.port p).st = 3 then ((x.storeLnkCtrl p v).commits p).fwPush p true else x.storeLnkCtrl p v) := by
  have run := lnkCtrlWrite_settles (c := .lnkGenerationWrite t p v) (k := fun s => fld v 15 8 != s.rf .lnkCtrl p 15 8) rfl e up
    (by simpa using new)
  refine exec_settled_eq run ?_ (State.lnkCtrlWrite_commits here enable plain on new)
  have stored := State.storeLnkCtrl_settled settled here v
  split
  · exact State.fwPush_settled (State.modPort_settled stored _ _) p true
  · exact stored

end

/-! ### The obligation -/

/-- Settles O34: each clause is one command's lemma above. -/
theorem portStates : Obligations.PortStates := by
  intro s x y z t p v e up here
  refine ⟨fun ready => cellLos_runs e up here ready, fun unready settled => cellLos_idle e settled up unready,
    fun n ready fresh positive sent closed => ⟨fun taken => ?_, fun missed second closing banded => ?_⟩,
    fun enable plain off awake settled => lnkEnable_next e up here enable plain off awake settled,
    fun disable => lnkDisable_runs e up here disable,
    fun enable retrain on => lnkRetrain_runs e up here enable retrain on,
    fun enable plain new settled => ⟨fun ready => ?_, fun acquire => ?_⟩⟩
  · exact upstreamSlotClose_taken e up here ready fresh positive sent closed taken
  · rw [← State.slotClosed_missed] at closing
    exact ⟨upstreamSlotClose_third e up here ready fresh positive sent closed missed second closing banded,
      (State.portFault_counted_port (.inl rfl)).1⟩
  · have next := lnkGenerationWrite_next e up here enable plain new (by omega) settled
    rwa [if_pos ready] at next
  · have next := lnkGenerationWrite_next e up here enable plain new (by omega) settled
    rwa [if_neg (by omega)] at next

end Sys2Proof.Machine
end

section
/-! PROOFS. Requests to cell ports: ring 12 and the slot of a frame (R213, R214). -/

namespace Sys2Proof.Machine

variable {s x : State}

/-! ### Ring 12 (R214) -/

section
variable {c : Instr} {t op i k : Nat} {d : Desc} {b : Bytes} {bad : Desc → Bool} {f : Desc → Bytes → SlotReq}
  (run : exec c s = actIn 2 t s fun s => s.iff s.up (·.hostSlot op (some b) bad f)) (e : x = (s.advanceTo t).openGate 2)
  (up : x.up = true) (settled : x.Settled) (turn : x.turn 12 op = some (i, k, d))
include run e up settled turn

/-- A ring 12 command acts on the descriptor whose turn it is: without room, a Ready port or a good address it ends, else its request
waits for the reply. -/
theorem hostSlot_next : exec c s = .next (
    if d.len < 64 then x.ends i k 1 64
    else if (x.port (d.arg % 64)).st != 3 then x.ends i k 2
    else if bad d then x.ends i k 5
    else if x.canDma then ((x.hostRead d.buf 64).holdAct i k).modPort (d.arg % 64) fun q =>
      { q with hostQ := q.hostQ ++ [{ f d b with act := some k }] }
    else x) := by
  refine exec_settled_eq (gatedTurn_settles run e up turn) ?_ ?_
  · split
    · exact State.ends_settled settled _ _ _ _ _
    split
    · exact State.ends_settled settled _ _ _ _ _
    split
    · exact State.ends_settled settled _ _ _ _ _
    split
    · exact State.modPort_settled (State.holdAct_settled (State.hostRead_settled settled _ _) _ _) _ _
    · exact settled
  · dsimp only
    unfold State.readBuf
    cases x.canDma <;> rfl

theorem hostSlot_short (short : d.len < 64) : exec c s = .next (x.ends i k 1 64) := by
  rw [hostSlot_next run e up settled turn, if_pos short]

variable (room : 64 ≤ d.len)
include room

theorem hostSlot_unready (unready : (x.port (d.arg % 64)).st ≠ 3) : exec c s = .next (x.ends i k 2) := by
  rw [hostSlot_next run e up settled turn, if_neg (Nat.not_lt.mpr room), if_pos (by simp [unready])]

variable (ready : (x.port (d.arg % 64)).st = 3)
include ready

theorem hostSlot_bad (refused : bad d = true) : exec c s = .next (x.ends i k 5) := by
  rw [hostSlot_next run e up settled turn, if_neg (Nat.not_lt.mpr room), if_neg (by simp [ready]), if_pos refused]

theorem hostSlot_waits (taken : bad d = false) (dma : x.canDma = true) :
    exec c s = .next (((x.hostRead d.buf 64).holdAct i k).modPort (d.arg % 64) fun q =>
      { q with hostQ := q.hostQ ++ [{ f d b with act := some k }] }) := by
  rw [hostSlot_next run e up settled turn, if_neg (Nat.not_lt.mpr room), if_neg (by simp [ready]), if_neg (by simp [taken]), if_pos dma]

end

theorem exec_mailbox (t : Nat) (b : Bytes) (s : State) : exec (.mailbox t (some b)) s = actIn 2 t s fun s =>
    s.iff s.up (·.hostSlot 1 (some b) (fun _ => false) fun _ b => ⟨0, 0x30, 0, slice b 0 12, false, none, 0, 0⟩) := rfl

theorem exec_paramRead (t : Nat) (b : Bytes) (s : State) : exec (.paramRead t (some b)) s = actIn 2 t s fun s =>
    s.iff s.up (·.hostSlot 2 (some b) (fun _ => false) fun d _ => ⟨0, 0x21, d.arg2 % 65536, [], false, none, 0, 0⟩) := rfl

/-- PARAM_WRITE refuses an empty write and every address outside 0x22, for one word, and 0x1000 to 0xFFFD. -/
def Desc.shut (d : Desc) : Bool :=
  d.arg2 / 65536 % 4 = 0 || !((d.arg2 % 65536 = 0x22 && d.arg2 / 65536 % 4 = 1) || (0x1000 ≤ d.arg2 % 65536 && d.arg2 % 65536 ≤ 0xFFFD))

theorem exec_paramWrite (t : Nat) (b : Bytes) (s : State) : exec (.paramWrite t (some b)) s = actIn 2 t s fun s =>
    s.iff s.up (·.hostSlot 3 (some b) Desc.shut fun d b =>
      ⟨0, 0x10 + d.arg2 / 65536 % 4, d.arg2 % 65536, slice b 0 (4 * (d.arg2 / 65536 % 4)), false, none, 0, 0⟩) := rfl

/-! ### The slot (R213) -/

section
variable {p n : Nat} {r : SlotReq} (out : (s.port p).req = some r)
include out

/-- While a request is under way no other is taken. -/
theorem State.slotTake_of_busy : s.slotTake p n = s := by
  unfold State.slotTake
  simp [out]

/-- A request under way is sent when its frame has come, and fails after four sendings. -/
theorem State.slotSend_of_busy : s.slotSend p n =
    if n < r.next then (zeros 16, s)
    else if 4 ≤ r.sends then (zeros 16, s.slotFail p r)
    else (r.bytes, s.modPort p fun y => { y with req := some { r with sends := r.sends + 1, next := n + 16 } }) := by
  unfold State.slotSend
  rw [State.slotTake_of_busy out]
  simp only [out]

end

/-! ### The obligation -/

/-- Settles O35: each clause is a case of a ring 12 command or of the slot. -/
theorem slotRequests : Obligations.SlotRequests := by
  refine ⟨fun s x y t i k d b e up settled waits =>
      ⟨fun turn => ?_, fun turn room ready dma => ?_, fun turn room ready n words => ?_⟩,
    fun s p n r out => ?_⟩
  · have run := exec_mailbox t b s
    subst waits
    exact ⟨fun short => hostSlot_short run e up settled turn short,
      fun room unready => hostSlot_unready run e up settled turn room unready,
      fun room ready dma => hostSlot_waits run e up settled turn room ready rfl dma⟩
  · subst waits
    exact hostSlot_waits (exec_paramRead t b s) e up settled turn room ready rfl dma
  · have run := exec_paramWrite t b s
    subst waits words
    refine ⟨fun empty => ?_, fun low other => ?_, fun some_ low high dma => ?_⟩
    · exact hostSlot_bad run e up settled turn room ready (by simp [Desc.shut, empty])
    · exact hostSlot_bad run e up settled turn room ready (by simp [Desc.shut, Nat.not_le.mpr low, other])
    · exact hostSlot_waits run e up settled turn room ready (by simp [Desc.shut, some_, low, high]) dma
  · rw [State.slotSend_of_busy out]
    refine ⟨fun early => if_pos early, fun due again => ?_, fun due last => ?_⟩
    · rw [if_neg (Nat.not_lt.mpr due), if_neg (Nat.not_le.mpr again)]
    · rw [if_neg (Nat.not_lt.mpr due), if_pos last]

end Sys2Proof.Machine
end

section
/-! PROOFS. Health counters, and Bell actions on cell ports (R211, R369, R381, R382). -/

namespace Sys2Proof.Machine

variable {s x y : State}

/-! ### The leak (R369) -/

/-- A channel that has not leaked in this tick loses its leak. -/
def Health.leaked (q : Health) (leak now : Nat) : Health :=
  if q.leakAt = now + 1 then q else { q with count := q.count - leak, leakAt := now + 1 }

/-- One channel's leak. -/
def State.leakChannel (leak h : Nat) (s : State) : State :=
  if (s.health1 h).leakAt = s.clk.now + 1 then s
  else s.modHealth1 h fun q => { q with count := q.count - leak, leakAt := s.clk.now + 1 }

/-- The channels of a list leak. -/
def State.leakAll (s : State) (l : List Nat) (leak : Nat) : State := s.forAll l (State.leakChannel leak)

theorem State.leakChannel_self (s : State) (leak h : Nat) : (s.leakChannel leak h).health1 h = (s.health1 h).leaked leak s.clk.now := by
  unfold State.leakChannel Health.leaked
  split
  · rfl
  · exact State.health1_modHealth1_self _ _ _

theorem State.leakChannel_ne (s : State) (leak : Nat) {h k : Nat} (other : k ≠ h) : (s.leakChannel leak h).health1 k = s.health1 k := by
  unfold State.leakChannel
  split
  · rfl
  · exact State.health1_modHealth1_ne s other _

/-- What no update of a channel changes a leak leaves. -/
theorem State.leakChannel_frame {α : Type} (g : State → α)
    (h : ∀ (z : State) (k : Nat) (f : Health → Health), g (z.modHealth1 k f) = g z) (s : State) (leak k : Nat) :
    g (s.leakChannel leak k) = g s := by
  unfold State.leakChannel
  split
  · rfl
  · exact h _ _ _

theorem State.leakAll_frame {α : Type} (g : State → α)
    (h : ∀ (z : State) (k : Nat) (f : Health → Health), g (z.modHealth1 k f) = g z) (s : State) (l : List Nat) (leak : Nat) :
    g (s.leakAll l leak) = g s :=
  State.forAll_frame g s l _ fun k z => z.leakChannel_frame g h leak k

/-- A second leak of the tick changes nothing. -/
theorem Health.leaked_twice (q : Health) (leak now : Nat) : (q.leaked leak now).leaked leak now = q.leaked leak now := by
  unfold Health.leaked
  split
  · rfl
  · exact if_pos rfl

/-- Of the channels each one on the list leaks, once, and no other does. -/
theorem State.leakAll_health (s : State) (l : List Nat) (leak h : Nat) :
    (s.leakAll l leak).health1 h = if h ∈ l then (s.health1 h).leaked leak s.clk.now else s.health1 h := by
  unfold State.leakAll State.forAll
  induction l generalizing s with
  | nil => rfl
  | cons a r ih =>
    have clk : (s.leakChannel leak a).clk = s.clk := s.leakChannel_frame State.clk (fun _ _ _ => rfl) leak a
    rw [List.foldl_cons, ih, clk]
    by_cases here : h = a
    · subst here
      rw [State.leakChannel_self, Health.leaked_twice, ite_self, if_pos List.mem_cons_self]
    · rw [State.leakChannel_ne s leak here]
      simp [here]

/-- The channels of a kind that the part has. -/
def State.channelsOf (s : State) (kind : Nat) : List Nat := (List.range 106).filter fun h => kindOf h = kind && s.hasChannel h

theorem State.mem_channelsOf {kind h : Nat} : h ∈ s.channelsOf kind ↔ h < 106 ∧ kindOf h = kind ∧ s.hasChannel h = true := by
  simp [State.channelsOf]

theorem exec_healthLeak (t kind : Nat) (s : State) : exec (.healthLeak t kind) s = act t s fun s =>
    if !(s.released && kind < 6 && s.clk.now % (max 1 (s.rf .lnkHlthCfg kind 31 16) * 1000000) = 0) then s
    else s.leakAll (s.channelsOf kind) (s.rf .lnkHlthCfg kind 7 0) := rfl

/-- At a whole multiple of the window the channels of the kind leak, at every other tick nothing does. -/
theorem healthLeak_next {t kind : Nat} (e : x = s.advanceTo t) (settled : x.Settled) (rel : x.released = true) (lt : kind < 6) :
    exec (.healthLeak t kind) s = .next (if x.clk.now % (max 1 (x.rf .lnkHlthCfg kind 31 16) * 1000000) = 0 then
      x.leakAll (x.channelsOf kind) (x.rf .lnkHlthCfg kind 7 0) else x) := by
  refine exec_settled_eq (act_settles (exec_healthLeak t kind s) e rel) ?_ ?_
  · split
    · exact State.forAll_settled settled _ _ fun k z still => by
        unfold State.leakChannel
        split
        · exact still
        · exact State.modHealth1_settled still _ _
    · exact settled
  · simp [rel, lt]

theorem healthLeak_runs {t kind : Nat} (e : x = s.advanceTo t) (settled : x.Settled) (rel : x.released = true) (lt : kind < 6)
    (whole : x.clk.now % (max 1 (x.rf .lnkHlthCfg kind 31 16) * 1000000) = 0) : s.Runs (.healthLeak t kind) fun u =>
      (∀ h, u.health1 h = if h ∈ x.channelsOf kind then (x.health1 h).leaked (x.rf .lnkHlthCfg kind 7 0) x.clk.now else x.health1 h) ∧
      u.regs = x.regs ∧ u.mode = x.mode ∧ u.ports = x.ports ∧ u.tim = x.tim := by
  have run := healthLeak_next e settled rel lt
  rw [if_pos whole] at run
  exact ⟨_, run, x.leakAll_health _ _, x.leakAll_frame State.regs (fun _ _ _ => rfl) _ _,
    x.leakAll_frame State.mode (fun _ _ _ => rfl) _ _, x.leakAll_frame State.ports (fun _ _ _ => rfl) _ _,
    x.leakAll_frame State.tim (fun _ _ _ => rfl) _ _⟩

/-! ### Events and clears (R369, R382) -/

/-- Without a limit an event counts and does no more. -/
theorem State.healthCount_unlimited {h : Nat} (there : s.hasChannel h = true) (unlimited : s.rf .lnkHlthCfg (kindOf h) 15 8 = 0) :
    s.healthCount h = s.modHealth1 h fun q => { q with count := min 255 (q.count + 1) } := by
  have still : ∀ f, (s.modHealth1 h f).rf .lnkHlthCfg (kindOf h) 15 8 = 0 := fun _ => unlimited
  unfold State.healthCount
  simp [there, still, satAdd]

theorem exec_lnkHlthClear (t h : Nat) (v : Word) (s : State) :
    exec (.lnkHlthClear t h v) s = act t s fun s => s.iff s.up (·.writeHlth h v) := rfl

theorem lnkHlthClear_next {t h : Nat} {v : Word} (e : x = s.advanceTo t) (settled : x.Settled) (up : x.up = true) :
    exec (.lnkHlthClear t h v) s = .next (x.writeHlth h v) := by
  refine exec_settled_eq (act_settles (exec_lnkHlthClear t h v s) e (State.released_of_up up)) ?_ (if_pos up)
  exact State.iff_settled settled _ _ fun z still => State.modHealth1_settled still _ _

/-! ### CALIBRATE (R211) -/

/-- The oldest fired action with a code for a unit that has arrived leaves the Bell. -/
def State.takeFiredOf (s : State) (action unit : Nat) : State := s.modBell fun b =>
  { b with fired := delFirst (fun f => f.e.action = action && f.arrive ≤ s.clk.now && f.e.unit = unit) b.fired }

theorem State.onFired_takesOf {action unit : Nat} {g : Fired} (up : s.up = true)
    (found : s.bell.fired.find? (fun f => f.e.action = action && f.arrive ≤ s.clk.now && f.e.unit = unit) = some g)
    (f : Fired → State → State) : s.onFired action (some unit) f = f g (s.takeFiredOf action unit) := by
  have mine : (fun x : Fired => x.e.action = action && x.arrive ≤ s.clk.now && ((some unit).isNone || some unit = some x.e.unit)) =
      fun x => x.e.action = action && x.arrive ≤ s.clk.now && x.e.unit = unit := by
    funext x
    simp [eq_comm]
  unfold State.onFired State.takeFiredOf
  simp only [mine, found, up, if_true]

/-- What CALIBRATE does to a port: with argument 0 a Ready one starts its set of samples again, with another it is retried. -/
def State.calibrate (s : State) (p arg : Nat) : State :=
  if !s.hasPort p then s
  else if arg = 0 then s.iff ((s.port p).st = 3) (·.modPort p fun q => { q with sum := 0, cnt := 0 })
  else s.portRetry p

theorem State.calibrate_absent {p : Nat} (absent : s.hasPort p = false) (arg : Nat) : s.calibrate p arg = s := by
  simp [State.calibrate, absent]

theorem State.calibrate_ready {p : Nat} (here : s.hasPort p = true) (ready : (s.port p).st = 3) :
    s.calibrate p 0 = s.modPort p fun q => { q with sum := 0, cnt := 0 } := by
  simp [State.calibrate, here, ready, State.iff]

theorem State.calibrate_other {p arg : Nat} (here : s.hasPort p = true) (other : arg ≠ 0) : s.calibrate p arg = s.portRetry p := by
  simp [State.calibrate, here, other]

theorem exec_calibrateLink (t : Nat) (s : State) : exec (.calibrateLink t) s = actIn 2 t s fun s => s.onFired 0x07 (some 0x06) fun x s =>
    s.forAll (if x.e.index = 0xFFFF then List.range 48 else [x.e.index]) fun p s => s.calibrate p x.e.arg := rfl

/-- CALIBRATE of one port. -/
theorem calibrateLink_settles {t p : Nat} {f : Fired} (e : x = (s.advanceTo t).openGate 2) (up : x.up = true) (index : f.e.index = p)
    (lt : p < 48) (found : x.bell.fired.find? (fun f => f.e.action = 0x07 && f.arrive ≤ x.clk.now && f.e.unit = 0x06) = some f) :
    exec (.calibrateLink t) s = .next ((x.takeFiredOf 0x07 0x06).calibrate p f.e.arg).settle := by
  subst index
  rw [actIn_settles (exec_calibrateLink t s) e (State.released_of_up up), State.onFired_takesOf up found, if_neg (by omega)]
  rfl

/-! ### CELL_RETIRE and CELL_RETURN (R381) -/

theorem exec_cellRetire (t : Nat) (s : State) : exec (.cellRetire t) s = act t s fun s => s.onFired 0x08 none fun f s =>
    if s.standby then s.forward 9 0 [f.e.index] else s.iff (f.e.index < 48) (·.retireChannel f.e.index 5) := rfl

theorem exec_cellReturn (t : Nat) (s : State) : exec (.cellReturn t) s = act t s fun s => s.onFired 0x09 none fun f s =>
    if s.standby then s.forward 10 0 [f.e.index] else s.iff (f.e.index < 48) fun s => (s.returnRequest f.e.index).2 := rfl

section
variable {c : Instr} {t p action kind : Nat} {f : Fired} {ask : Nat → State → State}
  (run : exec c s = act t s fun s => s.onFired action none fun f s =>
    if s.standby then s.forward kind 0 [f.e.index] else s.iff (f.e.index < 48) (ask f.e.index))
  (e : x = s.advanceTo t) (up : x.up = true) (index : f.e.index = p) (lt : p < 48)
  (found : x.bell.fired.find? (fun f => f.e.action = action && f.arrive ≤ x.clk.now) = some f)
include run e up index lt found

/-- A fired request for a cell port's channel: carried out, or on a standby unit forwarded to its peer. -/
theorem firedRequest_settles : exec c s = .next (if x.standby then (x.takeFired action).forward kind 0 [p]
    else ask p (x.takeFired action)).settle := by
  subst index
  have asked : (x.takeFired action).iff (f.e.index < 48) (ask f.e.index) = ask f.e.index (x.takeFired action) := if_pos (by simpa using lt)
  rw [act_settles run e (State.released_of_up up), State.onFired_takes up found, asked]
  rfl

theorem firedRequest_active (active : x.standby = false) : exec c s = .next (ask p (x.takeFired action)).settle := by
  rw [firedRequest_settles run e up index lt found, if_neg (by simp [active])]

theorem firedRequest_standby (settled : x.Settled) (standby : x.standby = true) :
    exec c s = .next ((x.takeFired action).forward kind 0 [p]) :=
  exec_settled_eq (firedRequest_settles run e up index lt found) (State.forward_settled (State.takeFired_settled settled _) _ _ _)
    (if_pos standby)

end

/-! ### The obligation -/

/-- Settles O36: each clause is one operation's or one command's lemma above. -/
theorem healthAndBell : Obligations.HealthAndBell := by
  refine ⟨⟨fun s x t kind e settled rel lt => ⟨fun whole => ?_, fun between => ?_⟩,
      fun s x t h v e settled up => ⟨fun there => ?_, fun absent => ?_⟩,
      fun s h there unlimited => State.healthCount_unlimited there unlimited⟩,
    fun s x t p f up index lt =>
      ⟨fun e found y taken => ⟨fun here zero ready settled => ?_, fun here other => ?_, fun absent settled => ?_⟩,
        fun e found y taken => ⟨fun active => ?_, fun standby settled => ?_⟩,
        fun e found y taken => ⟨fun active => ?_, fun standby settled => ?_⟩⟩⟩
  · obtain ⟨u, run, health, frame⟩ := healthLeak_runs e settled rel lt whole
    refine ⟨u, run, fun h low mine there due => ?_, fun h apart => ?_, frame⟩
    · rw [health, if_pos (State.mem_channelsOf.mpr ⟨low, mine, there⟩), Health.leaked, if_neg due]
    · rw [health, Health.leaked]
      split
      · next mem =>
        obtain ⟨low, mine, there⟩ := State.mem_channelsOf.mp mem
        rcases apart with high | other | absent | done
        · omega
        · exact absurd mine other
        · simp [there] at absent
        · exact if_pos done
      · rfl
  · rw [healthLeak_next e settled rel lt, if_neg between]
  · rw [lnkHlthClear_next e settled up, State.writeHlth, State.iff, if_pos there]
  · rw [lnkHlthClear_next e settled up, State.writeHlth, State.iff, if_neg (by simp [absent])]
  · have run := calibrateLink_settles e up index lt found
    rw [← show y = x.takeFiredOf 0x07 0x06 from taken, zero] at run
    exact exec_settled_eq run (State.modPort_settled (by rw [taken]; exact State.modBell_settled settled _) _ _)
      (State.calibrate_ready (by rw [taken]; exact here) (by rw [taken]; exact ready))
  · have run := calibrateLink_settles e up index lt found
    rwa [← show y = x.takeFiredOf 0x07 0x06 from taken, State.calibrate_other (by rw [taken]; exact here) other] at run
  · have run := calibrateLink_settles e up index lt found
    rw [← show y = x.takeFiredOf 0x07 0x06 from taken] at run
    exact exec_settled_eq run (by rw [taken]; exact State.modBell_settled settled _)
      (State.calibrate_absent (by rw [taken]; exact absent) _)
  · rw [taken]
    exact firedRequest_active (ask := fun h z => z.retireChannel h 5) (exec_cellRetire t s) e up index lt found active
  · rw [taken]
    exact firedRequest_standby (ask := fun h z => z.retireChannel h 5) (exec_cellRetire t s) e up index lt found settled standby
  · rw [taken]
    exact firedRequest_active (ask := fun h z => (z.returnRequest h).2) (exec_cellReturn t s) e up index lt found active
  · rw [taken]
    exact firedRequest_standby (ask := fun h z => (z.returnRequest h).2) (exec_cellReturn t s) e up index lt found settled standby

end Sys2Proof.Machine
end

section
/-! PROOFS. What raising a source and the boundary's work on legs leave of the Gate Command Engine (R259, R370, R371, R474 to R476). -/

namespace Sys2Proof.Machine

variable {s x y u : State}

/-! ### A raise leaves the Gate Command Engine alone (R370, R371, R476) -/

theorem State.softOff_gce (s : State) (n at_ : Nat) : (s.softOff n at_).gce = s.gce := by
  unfold State.softOff
  dsimp only
  split <;> rfl

theorem State.legHeld_gce (s : State) (n : Nat) : (s.legHeld n).gce = s.gce :=
  (State.softOff_gce _ _ _).trans (State.softOff_gce s _ _)

theorem State.markRetired_gce (s : State) (h cause : Nat) : (s.markRetired h cause).gce = s.gce :=
  (State.raise0_mild _ _ _ _ _).gce

theorem State.retireAsked_gce (s : State) (h : Nat) : (s.retireAsked h).gce = s.gce :=
  State.iff_frame State.gce s _ _ fun _ => rfl

theorem State.laneOut_gce (s : State) (k : Nat) : (s.laneOut k).gce = s.gce :=
  State.iff_frame State.gce _ _ _ fun _ => rfl

theorem State.retireLeg_gce (s : State) (n cause : Nat) : (s.retireLeg n cause).gce = s.gce := by
  unfold State.retireLeg
  dsimp only
  split
  · rw [State.markRetired_gce]
    split
    · exact s.retireAsked_gce _
    · exact (State.legHeld_gce _ n).trans (s.retireAsked_gce _)
  · exact s.retireAsked_gce _

/-- The retirement of a channel of any kind changes ports, health, legs and the pair, not the Gate Command Engine. -/
theorem State.retireChannel_gce (s : State) (h cause : Nat) : (s.retireChannel h cause).gce = s.gce := by
  have marked (y : State) (f : Health → Health) : ((y.modHealth1 h f).markRetired h cause).gce = y.gce :=
    State.markRetired_gce _ h cause
  have released (y : State) (f : Health → Health) (k : Port → Port) :
      (((y.modHealth1 h f).modPort h k).markRetired h cause).gce = y.gce := State.markRetired_gce _ h cause
  have laned (y : State) (c : Bool) (k : Nat) : (y.iff c (·.laneOut k)).gce = y.gce :=
    State.iff_frame State.gce y _ _ fun z => z.laneOut_gce k
  have legs (y : State) (l : List Nat) : (y.forAll l fun n z => z.retireLeg n 7).gce = y.gce :=
    State.forAll_frame State.gce y _ _ fun n z => z.retireLeg_gce n 7
  unfold State.retireChannel
  dsimp only
  split
  · exact s.retireAsked_gce h
  split
  · split
    · rw [marked, State.retireAsked_gce]
    · split
      · rw [released, State.retireAsked_gce]
      · rw [marked, State.retireAsked_gce]
  split
  · rw [State.retireLeg_gce, State.retireAsked_gce]
  split
  · rw [legs, laned, marked, State.retireAsked_gce]
  · rw [laned, marked, State.retireAsked_gce]

theorem State.raise_gce (s : State) (src idx w1 : Nat) (forced : Bool) : (s.raise src idx w1 forced).gce = s.gce := by
  have raised : (s.raise0 src idx w1 forced).gce = s.gce := (s.raise0_mild src idx w1 forced).gce
  unfold State.raise
  dsimp only
  split
  · split
    · exact (State.retireChannel_gce _ _ 3).trans raised
    · exact raised
  · exact raised

/-! ### Groups and the time over the work at a boundary -/

/-- The carrier groups and the time: what legs and delay lines have no part in. -/
def State.groupsAndTime (s : State) : Tbl Grp × Tim := (s.gce.groups, s.tim)

theorem State.groupsAndTime_of_quiet (q : s.Quiet u) (same : u.gce = s.gce) : u.groupsAndTime = s.groupsAndTime := by
  rw [State.groupsAndTime, same, q.tim, State.groupsAndTime]

theorem State.grp_of_groupsAndTime (h : u.groupsAndTime = s.groupsAndTime) (g : Nat) : u.grp g = s.grp g := by
  have groups : u.gce.groups = s.gce.groups := congrArg Prod.fst h
  rw [State.grp, groups, State.grp]

theorem State.tim_of_groupsAndTime (h : u.groupsAndTime = s.groupsAndTime) : u.tim = s.tim := congrArg Prod.snd h

theorem State.raise_groupsAndTime (s : State) (src idx w1 : Nat) (forced : Bool) :
    (s.raise src idx w1 forced).groupsAndTime = s.groupsAndTime :=
  State.groupsAndTime_of_quiet (State.raise_quiet (State.Quiet.refl s) src idx w1 forced) (s.raise_gce src idx w1 forced)

theorem State.legOut_groupsAndTime (s : State) (n : Nat) (v : Bool) : (s.legOut n v).groupsAndTime = s.groupsAndTime :=
  State.iff_frame State.groupsAndTime (s.modLg n fun l => { l with out := v }) _ _ fun y =>
    State.forAll_frame State.groupsAndTime y _ _ fun _ _ => rfl

theorem State.legPair_groupsAndTime (s : State) (n : Nat) : (s.legPair n).groupsAndTime = s.groupsAndTime := by
  unfold State.legPair
  extract_lets l y
  show y.groupsAndTime = s.groupsAndTime
  unfold y
  split
  · exact State.iff_frame State.groupsAndTime s _ _ fun _ => rfl
  · rfl

theorem State.legBoundary_groupsAndTime (s : State) (n : Nat) : (s.legBoundary n).groupsAndTime = s.groupsAndTime := by
  unfold State.legBoundary
  extract_lets y
  have out : y.groupsAndTime = s.groupsAndTime := State.iff_frame State.groupsAndTime s _ _ fun z => z.legOut_groupsAndTime n _
  rw [State.legPair_groupsAndTime]
  split
  · exact (State.groupsAndTime_of_quiet (State.legHeld_quiet (State.Quiet.refl y) n) (y.legHeld_gce n)).trans out
  · exact out
  · exact out

end Sys2Proof.Machine
end

section
/-! PROOFS. Delay lines (R254 to R257). -/

namespace Sys2Proof.Machine

variable {s x y : State}

/-! ### An update instant (R254 to R256) -/

/-- Output n after the hits have come in, with the table found at the last update instant in force (R254, R256). -/
def State.lineTaken (s : State) (n : Nat) (hits : List Nat) : State := s.modLine n fun l =>
  { l with last := s.clk.now + 1, tab := l.next,
           acc := (List.range 48).map fun i => min 65535 (nth l.acc i 0 - nth l.acc i 0 / 16 + nth hits i 0) }

/-- A table that passes the margin governs from the next update instant; the failures and the coarse bit go (R256). -/
def State.linePassed (s : State) (n : Nat) : State :=
  (s.modLine n fun l => { l with next := (s.line n).build, fails := 0 }).setRb .gceDlCoarse 0 n false

/-- What a table that does not pass leaves before it is raised: it is counted, its bit of GCE_DL_FAIL is set, and with the 64th in a row
or without any table the output is coarse (R256). -/
def State.lineFailed (s : State) (n : Nat) : State :=
  let z := (s.modLine n fun l => { l with fails := min 64 (l.fails + 1) }).setRb .gceDlFail 0 n true
  z.iff ((z.line n).fails = 64 || ((z.line n).tab = [] && (z.line n).next = [])) (·.setRb .gceDlCoarse 0 n true)

theorem State.lineUpdate_eq (s : State) (n : Nat) (hits : List Nat) : s.lineUpdate n hits =
    if ((s.lineTaken n hits).line n).ok ((s.lineTaken n hits).line n).build (s.lineTaken n hits).dlMargin
    then (s.lineTaken n hits).linePassed n else ((s.lineTaken n hits).lineFailed n).raise 225 n := rfl

theorem State.lineTaken_line (s : State) (n : Nat) (hits : List Nat) :
    ((s.lineTaken n hits).line n).tab = (s.line n).next ∧ ((s.lineTaken n hits).line n).fails = (s.line n).fails := by
  rw [State.lineTaken, State.line_modLine_self]
  exact ⟨rfl, rfl⟩

theorem gceDlCoarse_dark : Reg.gceDlCoarse.addr 0 < 0x26040 := by decide

theorem State.linePassed_settled (h : s.Settled) (n : Nat) : (s.linePassed n).Settled :=
  State.setRb_settled (State.modLine_settled h n _) .gceDlCoarse 0 n false (.inl gceDlCoarse_dark)

theorem State.lineFailed_line (s : State) (n : Nat) :
    (s.lineFailed n).line n = { s.line n with fails := min 64 ((s.line n).fails + 1) } := by
  have failed := s.line_modLine_self n fun l => { l with fails := min 64 (l.fails + 1) }
  refine Eq.trans ?_ failed
  exact State.iff_frame (fun z => z.line n) _ _ _ fun _ => rfl

theorem State.lineFailed_bit (s : State) {n : Nat} (lt : n < 32) : (s.lineFailed n).rb .gceDlFail 0 n = true := by
  have set := (s.modLine n fun l => { l with fails := min 64 (l.fails + 1) }).rb_setRb .gceDlFail 0 n lt
  refine Eq.trans (State.iff_frame (fun z => z.rb .gceDlFail 0 n) _ _ _ fun z => ?_) set
  exact congrArg (bit · n) (State.reg_setReg_ne _ _ _ _ _ _ _ _ (by decide))

theorem State.lineFailed_severity (s : State) (n : Nat) : (s.lineFailed n).severity 225 = s.severity 225 := by
  have still (z : State) (r : Reg) (b : Bool) (other : Reg.wchCfg.addr 225 ≠ r.addr 0) :
      (z.setRb r 0 n b).severity 225 = z.severity 225 :=
    congrArg (min 5) (State.rf_setRf_ne z r .wchCfg 0 225 _ _ _ _ _ other)
  refine Eq.trans (State.iff_frame (fun z => z.severity 225) _ _ _ fun z => still z _ _ (by decide)) ?_
  exact still _ _ _ (by decide)

theorem State.lineFailed_tim (s : State) (n : Nat) : (s.lineFailed n).tim = s.tim := State.iff_frame State.tim _ _ _ fun _ => rfl

/-- Nothing of an update instant is a group's or the time's. -/
theorem State.lineUpdate_groupsAndTime (s : State) (n : Nat) (hits : List Nat) :
    (s.lineUpdate n hits).groupsAndTime = s.groupsAndTime := by
  have line (y : State) (f : DelayLine → DelayLine) : (y.modLine n f).groupsAndTime = y.groupsAndTime := rfl
  have word (y : State) (r : Reg) (b : Bool) : (y.setRb r 0 n b).groupsAndTime = y.groupsAndTime := rfl
  have coarse (y : State) (c : Bool) : (y.iff c (·.setRb .gceDlCoarse 0 n true)).groupsAndTime = y.groupsAndTime :=
    State.iff_frame State.groupsAndTime y c _ fun z => word z _ _
  rw [State.lineUpdate_eq]
  split
  · rw [State.linePassed, word, line, State.lineTaken, line]
  · rw [State.raise_groupsAndTime, State.lineFailed, coarse, word, line, State.lineTaken, line]

theorem State.line_congr {u : State} (h : u.gce = s.gce) (n : Nat) : u.line n = s.line n := by
  rw [State.line, h, State.line]

theorem sourceOk_delayLine (v : Variant) : sourceOk v 225 = true := by cases v <;> decide

theorem exec_delayLineUpdate (t n : Nat) (hits : List Nat) (s : State) : exec (.delayLineUpdate t n hits) s = actIn 1 t s fun s =>
    if s.released && n < 32 && s.clk.now % 2000 = 0 && (s.line n).last != s.clk.now + 1 && !(s.grp (s.legGroup (n / 2))).running then
      s.lineUpdate n hits
    else s := rfl

/-- Output n has an update instant now and has not had it yet; its group does not run (R254). -/
structure State.MayUpdate (s : State) (n : Nat) : Prop where
  there : n < 32
  instant : s.clk.now % 2000 = 0
  fresh : (s.line n).last ≠ s.clk.now + 1
  stands : (s.grp (s.legGroup (n / 2))).running = false

section
variable {t n : Nat} {hits : List Nat} (e : x = (s.advanceTo t).openGate 1) (rel : x.released = true)
include e rel

theorem delayLineUpdate_settles (c : x.MayUpdate n) :
    exec (.delayLineUpdate t n hits) s = .next (x.lineUpdate n hits).settle := by
  rw [actIn_settles (exec_delayLineUpdate t n hits s) e rel,
    if_pos (by simp [rel, c.there, c.instant, c.fresh, c.stands])]

theorem delayLineUpdate_idle (between : x.clk.now % 2000 ≠ 0) (settled : x.Settled) :
    exec (.delayLineUpdate t n hits) s = .next x :=
  exec_settled_eq (actIn_settles (exec_delayLineUpdate t n hits s) e rel) settled (if_neg (by simp [between]))

theorem delayLineUpdate_passes (c : x.MayUpdate n) (made : y = x.lineTaken n hits)
    (ok : (y.line n).ok (y.line n).build y.dlMargin = true) (settled : x.Settled) :
    exec (.delayLineUpdate t n hits) s = .next (y.linePassed n) := by
  subst made
  refine exec_settled_eq (delayLineUpdate_settles e rel c) (State.linePassed_settled (State.modLine_settled settled n _) n) ?_
  rw [State.lineUpdate_eq, if_pos ok]

theorem delayLineUpdate_fails (c : x.MayUpdate n) (made : y = x.lineTaken n hits)
    (bad : (y.line n).ok (y.line n).build y.dlMargin = false) : s.Runs (.delayLineUpdate t n hits) fun u =>
      u.rb .gceDlFail 0 n = true ∧ (u.line n).fails = min 64 ((x.line n).fails + 1) ∧ (u.line n).tab = (x.line n).next ∧
      (x.severity 225 ≠ 0 → u.latched 225 = true) ∧ u.tim = x.tim := by
  subst made
  have run := delayLineUpdate_settles (hits := hits) e rel c
  rw [State.lineUpdate_eq, if_neg (by simp [bad])] at run
  refine runs_calm run fun u calm => ?_
  obtain ⟨tab, fails⟩ := x.lineTaken_line n hits
  obtain ⟨quiet, latched⟩ := State.raise_then 225 n 0 false calm.toQuiet
  have line := State.line_congr (calm.gce.trans (State.raise_gce _ 225 n 0 false)) n
  rw [line, State.lineFailed_line, ← tab, ← fails]
  refine ⟨?_, rfl, rfl, fun severe => latched (sourceOk_delayLine _) ?_, quiet.tim.trans (State.lineFailed_tim _ n)⟩
  · exact (congrArg (bit · n) (quiet.reg .gceDlFail 0 0 (by decide) (by decide))).trans (State.lineFailed_bit _ c.there)
  · rw [State.lineFailed_severity]
    exact severe

end

/-! ### CALIBRATE (R257) -/

/-- CALIBRATE empties the accumulators of output n. -/
def State.lineEmptied (n : Nat) (s : State) : State := s.modLine n fun l => { l with acc := List.replicate 48 0 }

theorem exec_calibrateDelayLine (t : Nat) (s : State) : exec (.calibrateDelayLine t) s = actIn 1 t s fun s =>
    s.onFired 0x07 (some 0x07) fun f s =>
      s.forAll (if f.e.index = 0xFFFF then List.range 32 else [f.e.index]) State.lineEmptied := rfl

/-- Emptying a list of outputs empties each of them once. -/
theorem State.forAll_lineEmptied_line {l : List Nat} {k : Nat} (mem : k ∈ l ∨ (s.line k).acc = List.replicate 48 0) :
    (s.forAll l State.lineEmptied).line k = { s.line k with acc := List.replicate 48 0 } := by
  induction l generalizing s with
  | nil =>
    have empty : (s.line k).acc = List.replicate 48 0 := mem.resolve_left List.not_mem_nil
    rw [← empty]
    rfl
  | cons a r ih =>
    show ((s.lineEmptied a).forAll r State.lineEmptied).line k = _
    by_cases here : k = a
    · subst here
      have self : (s.lineEmptied k).line k = { s.line k with acc := List.replicate 48 0 } := State.line_modLine_self s k _
      rw [ih (.inr (by rw [self])), self]
    · have other : (s.lineEmptied a).line k = s.line k := State.line_modLine_ne s here _
      rw [ih (by rw [other]; exact mem.imp_left fun h => (List.mem_cons.mp h).resolve_left here), other]

theorem State.forAll_lineEmptied_settled (h : s.Settled) (l : List Nat) : (s.forAll l State.lineEmptied).Settled :=
  State.forAll_settled h l _ fun n _ still => State.modLine_settled still n _

theorem calibrateDelayLine_next {t : Nat} {f : Fired} (e : x = (s.advanceTo t).openGate 1) (up : x.up = true) (settled : x.Settled)
    (found : x.bell.fired.find? (fun f => f.e.action = 0x07 && f.arrive ≤ x.clk.now && f.e.unit = 0x07) = some f) :
    exec (.calibrateDelayLine t) s = .next ((x.takeFiredOf 0x07 0x07).forAll
      (if f.e.index = 0xFFFF then List.range 32 else [f.e.index]) State.lineEmptied) :=
  exec_settled_eq (actIn_settles (exec_calibrateDelayLine t s) e (State.released_of_up up))
    (State.forAll_lineEmptied_settled (State.modBell_settled settled _) _) (State.onFired_takesOf up found _)

/-! ### The obligation -/

/-- Settles O42: an update instant's two outcomes, the instants between, and CALIBRATE of one output or all. -/
theorem delayLines : Obligations.DelayLines := by
  intro s x y t n hits e released lt
  have rel : x.released = true := by rw [e]; exact released
  refine ⟨fun instant fresh stands made => ?_, delayLineUpdate_idle e rel, fun f up found settled taken => ⟨fun one => ?_, fun all => ?_⟩⟩
  · have may : x.MayUpdate n := ⟨lt, instant, fresh, stands⟩
    have margin : y.dlMargin = x.dlMargin := by rw [made]; rfl
    rw [← margin]
    exact ⟨delayLineUpdate_passes e rel may made, delayLineUpdate_fails e rel may made⟩
  · have run := calibrateDelayLine_next e up settled found
    rw [one, if_neg (by omega)] at run
    rw [taken]
    exact run
  · have run := calibrateDelayLine_next e up settled found
    rw [if_pos all] at run
    refine ⟨_, run, fun k low => State.forAll_lineEmptied_line (.inl (List.mem_range.mpr low)), ?_, ?_, ?_⟩
    · exact State.forAll_frame State.regs _ _ _ fun _ _ => rfl
    · exact State.forAll_frame State.leg _ _ _ fun _ _ => rfl
    · exact State.forAll_frame State.tim _ _ _ fun _ _ => rfl

end Sys2Proof.Machine
end

section
/-! PROOFS. Carrier groups: freeze points, boundaries and force codes (R231, R232, R244, R245, R247, R398). -/

namespace Sys2Proof.Machine

variable {s x y : State}

/-! ### The freeze point (R244) -/

/-- The group's freeze point for the window at boundary b is now, and its plan has not been latched (R244). -/
structure State.MayFreeze (s : State) (g b : Nat) : Prop where
  live : s.grpLive g = true
  lead : b = s.nowA + s.freezeLead g
  later : s.grpPeriod g ≤ b
  boundary : s.isBoundary g b = true
  runs : s.runsAt g b = true
  before : s.runsAt g (b - s.grpPeriod g) = true
  fresh : (s.grp g).frozen < b

theorem exec_freezePoint (t g : Nat) (s : State) : exec (.freezePoint t g) s = actIn 1 t s fun s =>
    if s.up && s.grpLive g && s.grpPeriod g ≤ s.nowA + s.freezeLead g && s.isBoundary g (s.nowA + s.freezeLead g) &&
        s.runsAt g (s.nowA + s.freezeLead g) && s.runsAt g (s.nowA + s.freezeLead g - s.grpPeriod g) &&
        (s.grp g).frozen < s.nowA + s.freezeLead g then
      s.freeze g (s.nowA + s.freezeLead g) (coreCycle s.clk.now)
    else s := rfl

theorem freezePoint_settles {t g b : Nat} (e : x = (s.advanceTo t).openGate 1) (up : x.up = true) (c : x.MayFreeze g b) :
    exec (.freezePoint t g) s = .next (x.freeze g b (coreCycle x.clk.now)).settle := by
  rw [actIn_settles (exec_freezePoint t g s) e (State.released_of_up up), ← c.lead,
    if_pos (by simp [up, c.live, c.later, c.boundary, c.runs, c.before, c.fresh])]

/-- A plan is latched once. -/
theorem freezePoint_idle {t g : Nat} (e : x = (s.advanceTo t).openGate 1) (up : x.up = true) (settled : x.Settled)
    (done : x.nowA + x.freezeLead g ≤ (x.grp g).frozen) : exec (.freezePoint t g) s = .next x :=
  exec_settled_eq (actIn_settles (exec_freezePoint t g s) e (State.released_of_up up)) settled
    (if_neg (by simp [Nat.not_lt.mpr done]))

/-! ### The latch (R244, R245, R247) -/

/-- The newest force codes committed before core cycle f (R247). -/
def State.newCodes (s : State) (f : Nat) : Option (Nat × Tbl Word) := (s.gce.staged.filter fun e => e.1 < f).getLast?

theorem State.newCodes_none {f : Nat} (later : ∀ e ∈ s.gce.staged, f ≤ e.1) : s.newCodes f = none := by
  have empty : (s.gce.staged.filter fun e => e.1 < f) = [] :=
    List.filter_eq_nil_iff.mpr fun e mem => by simpa using later e mem
  rw [State.newCodes, empty, List.getLast?_nil]

/-- The force codes that a latch in core cycle f takes, and their commit's arrival: the newest if they are newer than the group's own. -/
def State.latchedCodes (s : State) (g f : Nat) : Tbl Word × Nat :=
  match s.newCodes f with
  | some e => if (s.grp g).forceAt < e.1 then (e.2, e.1) else ((s.grp g).force, (s.grp g).forceAt)
  | none => ((s.grp g).force, (s.grp g).forceAt)

/-- The latch keeps direct codes and dynamic words: GCE_CTRL.hold_dyn is 1 and some were latched before (R245). -/
def State.latchKeeps (s : State) (g f : Nat) : Bool := bit (s.gceWord f .gceCtrl) 0 && (s.grp g).frozen != 0

/-- A latch changes one group and the commits that wait. -/
theorem State.latch_eq (s : State) (g f b : Nat) :
    ∃ (plan direct : Tbl Int) (dyn : Tbl Word) (staged : List (Nat × Tbl Word)), s.latch g f b = (s.modGrp g fun k =>
      { k with plan := plan, direct := if s.latchKeeps g f then k.direct else direct,
               dyn := if s.latchKeeps g f then k.dyn else dyn,
               force := (s.latchedCodes g f).1, forceAt := (s.latchedCodes g f).2, frozen := b }).modGce fun k =>
      { k with staged := staged } := ⟨_, _, _, _, rfl⟩

theorem State.grp_modGce_staged (s : State) (l : List (Nat × Tbl Word)) (g : Nat) :
    (s.modGce fun k => { k with staged := l }).grp g = s.grp g := rfl

theorem State.latchedCodes_none {g f : Nat} (none_ : s.newCodes f = none) : (s.latchedCodes g f).1 = (s.grp g).force := by
  rw [State.latchedCodes, none_]

theorem State.latchedCodes_newer {g f : Nat} {e : Nat × Tbl Word} (newest : s.newCodes f = some e)
    (newer : (s.grp g).forceAt < e.1) : (s.latchedCodes g f).1 = e.2 := by
  rw [State.latchedCodes, newest]
  exact congrArg Prod.fst (if_pos newer)

theorem State.latch_grp (s : State) (g f b : Nat) : ((s.latch g f b).grp g).frozen = b ∧
    (s.latchKeeps g f = true → ((s.latch g f b).grp g).direct = (s.grp g).direct ∧ ((s.latch g f b).grp g).dyn = (s.grp g).dyn) ∧
    ((s.latch g f b).grp g).force = (s.latchedCodes g f).1 := by
  obtain ⟨plan, direct, dyn, staged, made⟩ := s.latch_eq g f b
  rw [made, State.grp_modGce_staged, State.grp_modGrp_self]
  exact ⟨rfl, fun keep => ⟨if_pos keep, if_pos keep⟩, rfl⟩

theorem State.latch_frame (s : State) (g f b : Nat) : (∀ k, k ≠ g → (s.latch g f b).grp k = s.grp k) ∧
    (s.latch g f b).regs = s.regs ∧ (s.latch g f b).mode = s.mode := by
  obtain ⟨plan, direct, dyn, staged, made⟩ := s.latch_eq g f b
  rw [made]
  refine ⟨fun k other => ?_, rfl, rfl⟩
  rw [State.grp_modGce_staged, State.grp_modGrp_ne _ other]

/-! ### Boundaries (R231, R232) -/

/-- A boundary of the group that is running or about to is now, and it has not been passed (R231). -/
structure State.MayOpen (s : State) (g b : Nat) : Prop where
  live : s.grpLive g = true
  started : (s.grp g).started = true
  now : b = s.nowA
  boundary : s.isBoundary g b = true
  first : (s.grp g).b0 ≤ b
  fresh : (s.grp g).running = false ∨ (s.grp g).bk < b

/-- The window at boundary b is open, with what waits for it on the group's legs and delay lines done (R231, R254, R259). -/
def State.windowOpened (s : State) (g b : Nat) (hits : List (List Nat)) : State :=
  let y := s.modGrp g fun k => { k with running := true, bk := b }
  let z := y.forAll (y.groupLegs g) fun n z => z.legBoundary n
  let outs := (z.groupLegs g).flatMap fun n => [2 * n, 2 * n + 1]
  (List.range outs.length).foldl (fun (z : State) i => z.lineUpdate (nth outs i 0) (nth hits i [])) z

theorem exec_groupBoundary (t g : Nat) (hits : List (List Nat)) (s : State) : exec (.groupBoundary t g hits) s = actIn 1 t s fun s =>
    if !(s.up && s.grpLive g && (s.grp g).started && s.isBoundary g s.nowA && (s.grp g).b0 ≤ s.nowA &&
        (!(s.grp g).running || (s.grp g).bk < s.nowA)) then s
    else (s.windowOpened g s.nowA hits).iff (!(s.windowOpened g s.nowA hits).runsAt g s.nowA) (·.groupStop g) := rfl

theorem State.windowOpened_groupsAndTime (s : State) (g b : Nat) (hits : List (List Nat)) :
    (s.windowOpened g b hits).groupsAndTime = (s.modGrp g fun k => { k with running := true, bk := b }).groupsAndTime := by
  have legs (y : State) (l : List Nat) : (y.forAll l fun n z => z.legBoundary n).groupsAndTime = y.groupsAndTime :=
    State.forAll_frame State.groupsAndTime y l _ fun n z => z.legBoundary_groupsAndTime n
  have lines (y : State) (l outs : List Nat) :
      (l.foldl (fun (z : State) i => z.lineUpdate (nth outs i 0) (nth hits i [])) y).groupsAndTime = y.groupsAndTime :=
    foldl_frame State.groupsAndTime l (fun z i => z.lineUpdate_groupsAndTime _ _) y
  unfold State.windowOpened
  dsimp only
  rw [lines, legs]

theorem State.windowOpened_grp (s : State) (g b : Nat) (hits : List (List Nat)) :
    (s.windowOpened g b hits).grp g = { s.grp g with running := true, bk := b } :=
  (State.grp_of_groupsAndTime (s.windowOpened_groupsAndTime g b hits) g).trans (State.grp_modGrp_self s g _)

theorem State.windowOpened_tim (s : State) (g b : Nat) (hits : List (List Nat)) : (s.windowOpened g b hits).tim = s.tim :=
  (State.tim_of_groupsAndTime (s.windowOpened_groupsAndTime g b hits)).trans (s.modGrp_tim g _)

/-- Whether a boundary falls in the group's run does not depend on the window that is open. -/
theorem State.windowOpened_runsAt (s : State) (g b : Nat) (hits : List (List Nat)) (c : Nat) :
    (s.windowOpened g b hits).runsAt g c = s.runsAt g c := by
  unfold State.runsAt
  rw [State.windowOpened_grp]

/-- Without legs a group has nothing else to do at its boundary. -/
theorem State.windowOpened_remote {g : Nat} (s : State) (b : Nat) (hits : List (List Nat)) (legless : s.groupLegs g = []) :
    s.windowOpened g b hits = s.modGrp g fun k => { k with running := true, bk := b } := by
  have legs : (s.modGrp g fun k => { k with running := true, bk := b }).groupLegs g = [] := legless
  unfold State.windowOpened
  simp [legs, State.forAll]

theorem State.groupStop_groupsAndTime (s : State) (g : Nat) : (s.groupStop g).groupsAndTime =
    (s.modGrp g fun k => { k with started := false, running := false, stopAfter := none }).groupsAndTime := by
  have phasors (y : State) (c : Bool) (f : Pmu → Pmu) : (y.iff c (·.modPmu f)).groupsAndTime = y.groupsAndTime :=
    State.iff_frame State.groupsAndTime y c _ fun _ => rfl
  have halted (y : State) (l : List Nat) : (y.forAll l fun m z => z.modPst m PairSt.halt).groupsAndTime = y.groupsAndTime :=
    State.forAll_frame State.groupsAndTime y l _ fun _ _ => rfl
  unfold State.groupStop
  dsimp only
  rw [phasors, halted]

theorem State.groupStop_grp (s : State) (g : Nat) :
    (s.groupStop g).grp g = { s.grp g with started := false, running := false, stopAfter := none } :=
  (State.grp_of_groupsAndTime (s.groupStop_groupsAndTime g) g).trans (State.grp_modGrp_self s g _)

theorem State.groupStop_tim (s : State) (g : Nat) : (s.groupStop g).tim = s.tim :=
  (State.tim_of_groupsAndTime (s.groupStop_groupsAndTime g)).trans (s.modGrp_tim g _)

section
variable {t g b : Nat} {hits : List (List Nat)} (e : x = (s.advanceTo t).openGate 1) (up : x.up = true)
include e up

theorem groupBoundary_settles (c : x.MayOpen g b) : exec (.groupBoundary t g hits) s =
    .next (if x.runsAt g b then x.windowOpened g b hits else (x.windowOpened g b hits).groupStop g).settle := by
  have fresh : (!(x.grp g).running || decide ((x.grp g).bk < b)) = true := by simpa using c.fresh
  rw [actIn_settles (exec_groupBoundary t g hits s) e (State.released_of_up up), ← c.now, State.windowOpened_runsAt,
    if_neg (by simp only [up, c.live, c.started, c.boundary, c.first, fresh]; decide)]
  cases x.runsAt g b <;> rfl

theorem groupBoundary_opens (c : x.MayOpen g b) (runs : x.runsAt g b = true) : s.Runs (.groupBoundary t g hits) fun u =>
    (u.grp g).running = true ∧ (u.grp g).bk = b ∧ u.tim = x.tim := by
  have run := groupBoundary_settles (hits := hits) e up c
  rw [if_pos runs] at run
  refine runs_calm run fun u calm => ?_
  have group : u.grp g = (x.windowOpened g b hits).grp g := State.grp_of_groupsAndTime
    (State.groupsAndTime_of_quiet calm.toQuiet calm.gce) g
  rw [group, State.windowOpened_grp]
  exact ⟨rfl, rfl, calm.tim.trans (x.windowOpened_tim g b hits)⟩

theorem groupBoundary_stops (c : x.MayOpen g b) (ends : x.runsAt g b = false) : s.Runs (.groupBoundary t g hits) fun u =>
    (u.grp g).running = false ∧ (u.grp g).started = false ∧ u.tim = x.tim := by
  have run := groupBoundary_settles (hits := hits) e up c
  rw [if_neg (by simp [ends])] at run
  refine runs_calm run fun u calm => ?_
  have group : u.grp g = ((x.windowOpened g b hits).groupStop g).grp g := State.grp_of_groupsAndTime
    (State.groupsAndTime_of_quiet calm.toQuiet calm.gce) g
  rw [group, State.groupStop_grp]
  exact ⟨rfl, rfl, calm.tim.trans ((State.groupStop_tim _ g).trans (x.windowOpened_tim g b hits))⟩

theorem groupBoundary_remote (c : x.MayOpen g b) (legless : x.groupLegs g = []) (runs : x.runsAt g b = true) (settled : x.Settled) :
    exec (.groupBoundary t g hits) s = .next (x.modGrp g fun k => { k with running := true, bk := b }) := by
  have run := groupBoundary_settles (hits := hits) e up c
  rw [if_pos runs] at run
  exact exec_settled_eq run (State.modGrp_settled settled g _) (x.windowOpened_remote b hits legless)

theorem groupBoundary_idle (running : (x.grp g).running = true) (passed : x.nowA ≤ (x.grp g).bk) (settled : x.Settled) :
    exec (.groupBoundary t g hits) s = .next x :=
  exec_settled_eq (actIn_settles (exec_groupBoundary t g hits s) e (State.released_of_up up)) settled
    (if_pos (by simp [running, Nat.not_lt.mpr passed]))

end

/-! ### GCE_FORCE_CTRL.commit (R247, R398) -/

theorem exec_gceForceCommit (t : Nat) (v : Word) (s : State) : exec (.gceForceCommit t v) s = act t s fun s =>
    if s.up && bit v 0 then s.planWrite Reg.gceForceCtrl.addr v else s := rfl

/-- What a leading unit sends of a commit to its peer (R398). -/
def State.commitSent (s : State) (v : Word) : State :=
  s.iff s.leads (·.pairSend 0x02 (Config.pairEncode 2 [Reg.gceForceCtrl.addr, v.toNat, s.aligned s.planArrival]))

theorem State.planWrite_commit {v : Word} (active : s.standby = false) (commit : bit v 0 = true) :
    s.planWrite Reg.gceForceCtrl.addr v = (s.commitSent v).forceCommit s.planArrival := by
  simp [State.planWrite, State.commitSent, active, commit, State.iff]

theorem State.planWrite_standby (standby : s.standby = true) (off : Nat) (v : Word) : s.planWrite off v = s := if_pos standby

theorem State.pairSend_frame {α : Type} (g : State → α) (h : ∀ (y : State) (f : Pair → Pair), g (y.modPair f) = g y) (s : State)
    (kind : Nat) (body : Bytes) : g (s.pairSend kind body) = g s := by
  unfold State.pairSend
  split
  · exact h s _
  · rfl

theorem State.commitSent_frame {α : Type} (g : State → α) (h : ∀ (y : State) (f : Pair → Pair), g (y.modPair f) = g y) (s : State)
    (v : Word) : g (s.commitSent v) = g s :=
  State.iff_frame g s _ _ fun y => State.pairSend_frame g h y _ _

theorem State.commitSent_settled (h : s.Settled) (v : Word) : (s.commitSent v).Settled :=
  State.iff_settled h _ _ fun _ still => State.pairSend_settled still _ _

theorem State.forceCommit_gce (s : State) (c : Nat) : (s.forceCommit c).gce = { s.gce with
    staged := s.gce.staged ++ [(c, (List.range 25).filterMap fun (w : Nat) =>
      if s.reg .gceForce w = 0 then none else some (w, s.reg .gceForce w))] } := rfl

section
variable {t : Nat} {v : Word} (e : x = s.advanceTo t) (settled : x.Settled) (up : x.up = true)
include e settled up

theorem gceForceCommit_next (commit : bit v 0 = true) (active : x.standby = false) :
    exec (.gceForceCommit t v) s = .next ((x.commitSent v).forceCommit x.planArrival) := by
  refine exec_settled_eq (act_settles (exec_gceForceCommit t v s) e (State.released_of_up up))
    (State.modGce_settled (State.commitSent_settled settled v) _) ?_
  rw [if_pos (by simp [up, commit]), State.planWrite_commit active commit]

/-- A commit stages the codes as they stand and sends them on where the unit leads; nothing else changes. -/
theorem gceForceCommit_runs (commit : bit v 0 = true) (active : x.standby = false) : s.Runs (.gceForceCommit t v) fun u =>
    u.gce.staged = x.gce.staged ++ [(x.planArrival, (List.range 25).filterMap fun (w : Nat) =>
      if x.reg .gceForce w = 0 then none else some (w, x.reg .gceForce w))] ∧
    u.gce.pairs = x.gce.pairs ∧ u.regs = x.regs ∧ u.leg = x.leg ∧ (x.leads = false → u.pair = x.pair) := by
  have gce : (x.commitSent v).gce = x.gce := State.commitSent_frame State.gce (fun _ _ => rfl) x v
  have regs : (x.commitSent v).regs = x.regs := State.commitSent_frame State.regs (fun _ _ => rfl) x v
  have leg : (x.commitSent v).leg = x.leg := State.commitSent_frame State.leg (fun _ _ => rfl) x v
  refine ⟨_, gceForceCommit_next e settled up commit active, ?_, ?_, regs, leg, fun alone => ?_⟩
  · rw [State.forceCommit_gce, gce]
    simp only [State.reg_congr regs]
  · rw [State.forceCommit_gce, gce]
  · have kept : x.commitSent v = x := if_neg (by simp [alone])
    show (x.commitSent v).pair = x.pair
    rw [kept]

theorem gceForceCommit_ignored (ignored : bit v 0 = false ∨ x.standby = true) : exec (.gceForceCommit t v) s = .next x := by
  refine exec_settled_eq (act_settles (exec_gceForceCommit t v s) e (State.released_of_up up)) settled ?_
  rcases ignored with plain | standby
  · exact if_neg (by simp [plain])
  · rw [State.planWrite_standby standby, ite_self]

end

/-! ### The obligation -/

/-- Settles O41: each clause is one command's lemma above, or the latch's. -/
theorem carrierGroups : Obligations.CarrierGroups := by
  refine ⟨fun s x t g b e up => ⟨fun live lead later boundary runs before fresh => ?_, fun done settled => ?_,
      fun hits live started now boundary first fresh => ?_, fun running passed settled hits => ?_⟩,
    fun s g f b => ?_, fun s x t v e settled up => ⟨gceForceCommit_runs e settled up, gceForceCommit_ignored e settled up⟩⟩
  · exact freezePoint_settles e up ⟨live, lead, later, boundary, runs, before, fresh⟩
  · exact freezePoint_idle e up settled done
  · have may : x.MayOpen g b := ⟨live, started, now, boundary, first, fresh⟩
    exact ⟨groupBoundary_opens e up may, groupBoundary_stops e up may, groupBoundary_remote e up may⟩
  · exact groupBoundary_idle e up running passed settled
  · obtain ⟨frozen, keeps, codes⟩ := s.latch_grp g f b
    refine ⟨frozen, fun hold latched => keeps (by simp [State.latchKeeps, hold, latched]), fun later => ?_,
      fun e newest newer => ?_, s.latch_frame g f b⟩
    · exact codes.trans (State.latchedCodes_none (State.newCodes_none later))
    · exact codes.trans (State.latchedCodes_newer newest newer)

end Sys2Proof.Machine
end

section
/-! PROOFS. No local leg has both switches on (R261): every step keeps it, and reset meets it with the canonical host memory. -/

namespace Sys2Proof.Machine

variable {s t : State}

/-- A step keeps the state it finds with the front command taken off its queue, be there a command or not. -/
theorem step_keeps (ran : step s = .next t) : { s with pending := s.pending.tail }.Keeps t := by
  cases queue : s.pending with
  | nil =>
    cases (step_of_empty queue).symm.trans ran
    have same : { s with pending := [] } = s := by rw [← queue]
    rw [List.tail_nil, same]
    exact State.idle_keeps (State.Keeps.refl s)
  | cons c rest =>
    obtain ⟨u, completed, kept⟩ := exec_keeps c { s with pending := rest }
    cases (completed.symm.trans (step_of_front queue).symm).trans ran
    exact kept

/-- Settles O3: that no leg gets both switches on is among what time's passing and every command keep. The one change that turns a
switch on is an on-edge that passes the interlock, which finds the partner off (`State.interlocked_partner`). -/
theorem legsStaySafe : Obligations.LegsStaySafe := fun _ _ safe ran => (step_keeps ran).legs safe

theorem State.reset_sw (n : Nat) : State.reset.sw n = Sw.reset := rfl

/-- Settles O4: at reset every switch is off, and no byte of host memory was written. -/
theorem invariantsAtReset : Obligations.InvariantsAtReset := by
  refine ⟨fun n ⟨on, _⟩ => ?_, rfl⟩
  rw [State.reset_sw] at on
  exact Bool.noConfusion on

end Sys2Proof.Machine
end

section
/-! PROOFS. What a raise shows in its unit's event register (R473, R475). -/

namespace Sys2Proof.Machine

/-- After a raise has set its event bit and counted, the rest of it leaves event bits alone (R475, R476). -/
theorem State.raise_after_count (s : State) {src : Nat} (idx w1 : Nat) (forced : Bool) (ok : sourceOk s.var src = true) :
    ((s.freshRaise src).countRaise src forced).Quiet (s.raise src idx w1 forced) := by
  have core : ((s.freshRaise src).countRaise src forced).Quiet (s.raiseCore src idx w1 forced) := by
    have latched := State.latchRaise_quiet (State.Quiet.refl ((s.freshRaise src).countRaise src forced)) src (sourceOk_lt _ _ ok)
    unfold State.raiseCore
    rw [if_neg (by simp [ok])]
    dsimp only
    split
    · exact State.Quiet.refl _
    · exact State.alarmRaise_quiet (State.recordRaise_quiet latched _ _ _ _ _) _ _
  have stopped : ((s.freshRaise src).countRaise src forced).Quiet (s.raise0 src idx w1 forced) := State.watchStop_quiet core src
  unfold State.raise
  dsimp only
  split
  · split
    · exact State.retireChannel_quiet stopped _ _
    · exact stopped
  · exact stopped

/-- A raise of a source of the part that is not forced sets the source's event bit (R475). -/
theorem State.raise_event (s : State) {src b : Nat} {r : Reg} (idx w1 : Nat) (ok : sourceOk s.var src = true)
    (event : unitEvent src = some (r, b)) (lt : b < 32) : (s.raise src idx w1 false).rb r 0 b = true := by
  have off : eventOff (r.addr 0) = true := unitEvent_off src r b event
  have set : ((s.freshRaise src).countRaise src false).rb r 0 b = true := by
    unfold State.countRaise State.bump
    rw [event]
    have cfg := cfg_off src (sourceOk_lt _ _ ok)
    exact (State.setRf_quiet (State.Quiet.refl _) .wchCfg src 31 24 _ cfg.1 cfg.2).bits _ _ off ((s.freshRaise src).rb_setRb r 0 b lt)
  exact (s.raise_after_count idx w1 false ok).bits _ _ off set

end Sys2Proof.Machine
end

section
/-! PROOFS. Edges of local switches: which edge leaves next, what an edge does to its switch, what the interlock refuses (R252, R259,
R261, R265, R267). -/

namespace Sys2Proof.Machine

variable {s x : State}

/-! ### The next edge of a leg (R252) -/

/-- The switch that shares local switch n's leg. -/
def partnerOf (n : Nat) : Nat := if n % 2 = 0 then n + 1 else n - 1

/-- The scheduled edges of switch k, each with the instant at which it leaves and its switch. -/
def State.edgesOf (s : State) (k : Nat) : List (Nat × Nat × LEdge) := (s.schedOf k).map fun e => (s.edgeAt k e, k, e)

/-- The edges of the leg whose even switch is a that leave up to an instant, in order. -/
def State.legEdges (s : State) (a lim : Nat) : List (Nat × Nat × LEdge) :=
  sortBy (fun p q => p.1 < q.1) ((s.edgesOf a ++ s.edgesOf (a + 1)).filter fun p => p.1 ≤ lim)

/-- The edges of switch k that are left after an instant. -/
def State.edgesAfter (s : State) (k lim : Nat) : List LEdge := (s.schedOf k).filter fun e => lim < s.edgeAt k e

/-- The leg whose even switch is a keeps the edges after an instant only. -/
def State.legEdgesGone (s : State) (a lim : Nat) : State := s.modGce fun c =>
  { c with sched := tput (fun _ => []) (tput (fun _ => []) c.sched a (s.edgesAfter a lim)) (a + 1) (s.edgesAfter (a + 1) lim) }

theorem State.schedOf_legEdgesGone (s : State) {a lim k : Nat} (here : k = a ∨ k = a + 1) :
    (s.legEdgesGone a lim).schedOf k = s.edgesAfter k lim := by
  rcases here with rfl | rfl
  · exact (tget_tput_ne _ _ _ (Nat.ne_of_lt (Nat.lt_succ_self _))).trans (tget_tput_self _ _ _ _)
  · exact tget_tput_self _ _ _ _

/-- LOCAL_EDGE with an edge of the switch due: the leg's edges up to it leave in order. -/
theorem localEdge_leaves {t n : Nat} {h : LEdge} {r : List LEdge} (e : x = s.advanceTo t) (up : x.up = true) (lt : n < 32)
    (next : x.schedOf n = h :: r) (due : x.edgeAt n h / 32 ≤ x.clk.now) :
    ∃ l, l = x.legEdges (n / 2 * 2) (x.edgeAt n h) ∧ exec (.localEdge t n) s = .next
      (l.foldl (fun s p => s.applyEdge p.2.1 p.1 p.2.2 (l.any fun q => q.1 = p.1 && q.2.1 != p.2.1 && q.2.2.level))
        (x.legEdgesGone (n / 2 * 2) (x.edgeAt n h))).settle := by
  refine ⟨_, rfl, ?_⟩
  show execLocalEdge t n s = _
  subst e
  unfold execLocalEdge
  rw [act_eq t s _ (State.released_of_up up), next]
  dsimp only
  rw [if_neg (by simp [up, lt, due])]
  rfl

/-- An edge that lies before every other one of its switch and of the partner leaves alone. -/
theorem State.legEdges_single {n : Nat} {h : LEdge} {r : List LEdge} (next : x.schedOf n = h :: r)
    (first : ∀ e ∈ r, x.edgeAt n h < x.edgeAt n e) (before : ∀ e ∈ x.schedOf (partnerOf n), x.edgeAt n h < x.edgeAt (partnerOf n) e) :
    x.legEdges (n / 2 * 2) (x.edgeAt n h) = [(x.edgeAt n h, n, h)] := by
  have own : (x.edgesOf n).filter (fun p => p.1 ≤ x.edgeAt n h) = [(x.edgeAt n h, n, h)] := by
    rw [State.edgesOf, next, List.map_cons, List.filter_cons_of_pos (by simp), List.filter_eq_nil_iff.mpr]
    simpa using first
  have others : (x.edgesOf (partnerOf n)).filter (fun p => p.1 ≤ x.edgeAt n h) = [] := by
    rw [List.filter_eq_nil_iff]
    simpa [State.edgesOf] using before
  unfold State.legEdges
  rw [List.filter_append]
  rcases Nat.mod_two_eq_zero_or_one n with even | odd
  · rw [partnerOf, if_pos even] at others
    rw [show n / 2 * 2 = n by omega, own, others]
    rfl
  · rw [partnerOf, if_neg (by omega)] at others
    rw [show n / 2 * 2 = n - 1 by omega, show n - 1 + 1 = n by omega, own, others]
    rfl

/-- A list whose members lie after an instant keeps them all. -/
theorem State.filter_after {l : List LEdge} {k lim : Nat} (after : ∀ e ∈ l, lim < x.edgeAt k e) :
    l.filter (fun e => lim < x.edgeAt k e) = l := by
  rw [List.filter_eq_self]
  simpa using after

theorem localEdge_single {t n : Nat} {h : LEdge} {r : List LEdge} (e : x = s.advanceTo t) (up : x.up = true) (lt : n < 32)
    (next : x.schedOf n = h :: r) (first : ∀ e ∈ r, x.edgeAt n h < x.edgeAt n e)
    (before : ∀ e ∈ x.schedOf (partnerOf n), x.edgeAt n h < x.edgeAt (partnerOf n) e) (due : x.edgeAt n h / 32 ≤ x.clk.now) :
    ∃ y : State, exec (.localEdge t n) s = .next (y.applyEdge n (x.edgeAt n h) h false).settle ∧ y.schedOf n = r ∧
      y.schedOf (partnerOf n) = x.schedOf (partnerOf n) ∧ y.leg = x.leg ∧ y.regs = x.regs ∧ y.mode = x.mode ∧ y.clk = x.clk := by
  obtain ⟨l, made, run⟩ := localEdge_leaves e up lt next due
  rw [State.legEdges_single next first before] at made
  subst made
  have alone : ([(x.edgeAt n h, n, h)].any fun q => q.1 = x.edgeAt n h && q.2.1 != n && q.2.2.level) = false := by simp
  have rest : x.edgesAfter n (x.edgeAt n h) = r := by
    rw [State.edgesAfter, next, List.filter_cons_of_neg (by simp), State.filter_after first]
  refine ⟨x.legEdgesGone (n / 2 * 2) (x.edgeAt n h), ?_, ?_, ?_, rfl, rfl, rfl, rfl⟩
  · rw [run, List.foldl_cons, List.foldl_nil, alone]
  · rw [State.schedOf_legEdgesGone _ (by omega), rest]
  · rw [State.schedOf_legEdgesGone _ (by unfold partnerOf; split <;> omega), State.edgesAfter, State.filter_after before]

/-! ### The interlock (R261) -/

/-- What the interlock looks at: the partner's state, its last off-edge, the end of its soft-off hold. -/
theorem State.interlocked_iff (s : State) (n at_ : Nat) : s.interlocked n at_ = true ↔
    (s.sw (partnerOf n)).on = true ∨ (at_ < (s.sw (partnerOf n)).offAt + 64 ∧ (s.sw (partnerOf n)).offAt ≠ 0) ∨
      ∃ f, (s.sw (partnerOf n)).hold = some f ∧ at_ < 32 * f + 64 := by
  unfold State.interlocked
  rw [show (if n % 2 = 0 then n + 1 else n - 1) = partnerOf n from rfl]
  cases hold : (s.sw (partnerOf n)).hold <;> simp [hold, or_assoc]

/-- A partner that is off, had no off-edge or had it 64 units ago, and whose hold, if any, ended 64 units ago does not interlock. -/
theorem State.interlocked_clear {n at_ : Nat} (off : (s.sw (partnerOf n)).on = false)
    (old : (s.sw (partnerOf n)).offAt = 0 ∨ (s.sw (partnerOf n)).offAt + 64 ≤ at_)
    (ended : ∀ f, (s.sw (partnerOf n)).hold = some f → 32 * f + 64 ≤ at_) : s.interlocked n at_ = false := by
  rw [Bool.eq_false_iff, ne_eq, State.interlocked_iff]
  rintro (on | ⟨recent, had⟩ | ⟨f, hold, within⟩)
  · exact absurd on (by simp [off])
  · omega
  · exact absurd (ended f hold) (by omega)

theorem sourceOk_legInterlock (v : Variant) : sourceOk v 257 = true := by cases v <;> decide

/-! ### What an edge does to its switch (R259, R261, R265, R267) -/

section
variable {n at_ : Nat} {e : LEdge} {clash : Bool}

theorem State.applyEdge_off_of_on (level : e.level = false) (on : (s.sw n).on = true) (latch : (s.sw n).latch = false) :
    s.applyEdge n at_ e clash = (s.modSw n fun w => { w with on := false, offAt := at_ }).pinItem n at_ false := by
  simp [State.applyEdge, State.iff, level, on, latch]

theorem State.applyEdge_off_of_latch (level : e.level = false) (off : (s.sw n).on = false) (latch : (s.sw n).latch = true) :
    s.applyEdge n at_ e clash =
      if e.refresh = false ∧ (s.sw n).desatAt ≠ some (at_ / 32) then s.modSw n fun w => { w with latch := false } else s := by
  simp [State.applyEdge, State.iff, level, off, latch]

theorem State.applyEdge_on_of_on (level : e.level = true) (on : (s.sw n).on = true) : s.applyEdge n at_ e clash = s := by
  simp [State.applyEdge, level, on]

theorem State.applyEdge_clash (level : e.level = true) (off : (s.sw n).on = false) (partner : (s.sw (partnerOf n)).on = false) :
    s.applyEdge n at_ e true = s.refuseOn n := by
  unfold partnerOf at partner
  simp [State.applyEdge, level, off, partner]

variable (level : e.level = true) (off : (s.sw n).on = false)
include level off

theorem State.applyEdge_held (held : s.heldOff n at_ = true) : s.applyEdge n at_ e false = s := by
  simp [State.applyEdge, level, off, held]

theorem State.applyEdge_interlocked (free : s.heldOff n at_ = false) (locked : s.interlocked n at_ = true) :
    s.applyEdge n at_ e false = s.refuseOn n := by
  simp [State.applyEdge, level, off, free, locked]

theorem State.applyEdge_on (free : s.heldOff n at_ = false) (open_ : s.interlocked n at_ = false) :
    s.applyEdge n at_ e false = (s.modSw n fun w =>
      { w with on := true, onAt := at_, ilock := false, blanked := true, desatAt := none,
               blank := at_ / 32 + 8 * s.blanking (s.pairClass (384 + n / 2)) (s.legBand (n / 2)) }).pinItem n at_ true := by
  simp [State.applyEdge, level, off, free, open_]

end

/-! ### A write to LEG_OUT_EN (R259) -/

/-- A switch that goes off at an instant, if it is on. -/
def Sw.wentOff (at_ : Nat) (w : Sw) : Sw := if w.on then { w with on := false, offAt := at_ } else w

theorem Sw.wentOff_on (at_ : Nat) (w : Sw) : (w.wentOff at_).on = false := by
  unfold Sw.wentOff
  split
  · rfl
  · next off => exact Bool.eq_false_iff.mpr off

/-- Both switches of leg n go off. -/
def State.legOff (s : State) (n at_ : Nat) : State := (s.modSw (2 * n) (Sw.wentOff at_)).modSw (2 * n + 1) (Sw.wentOff at_)

theorem State.legOff_off (s : State) (n at_ : Nat) :
    ((s.legOff n at_).sw (2 * n)).on = false ∧ ((s.legOff n at_).sw (2 * n + 1)).on = false := by
  unfold State.legOff
  rw [State.sw_modSw_ne _ (Nat.ne_of_lt (Nat.lt_succ_self _)), State.sw_modSw_self, State.sw_modSw_self]
  exact ⟨Sw.wentOff_on _ _, Sw.wentOff_on _ _⟩

theorem State.legOut_eq (s : State) (n : Nat) (v : Bool) : s.legOut n v =
    (s.modLg n fun l => { l with out := v }).iff (!v) fun y => y.legOff n (32 * y.clk.now) := rfl

theorem State.legOut_out (s : State) (n : Nat) (v : Bool) : ((s.legOut n v).lg n).out = v := by
  rw [State.legOut_eq]
  refine Eq.trans (State.iff_frame (fun y => (y.lg n).out) _ _ _ fun _ => rfl) ?_
  rw [State.lg_modLg_self]

theorem State.legOut_off (s : State) (n : Nat) :
    ((s.legOut n false).sw (2 * n)).on = false ∧ ((s.legOut n false).sw (2 * n + 1)).on = false := State.legOff_off _ n _

/-- Leg n and its two switches. -/
def State.legParts (s : State) (n : Nat) : Lg × Sw × Sw := (s.lg n, s.sw (2 * n), s.sw (2 * n + 1))

theorem State.legParts_eq_iff {s u : State} {n : Nat} : u.legParts n = s.legParts n ↔
    u.lg n = s.lg n ∧ u.sw (2 * n) = s.sw (2 * n) ∧ u.sw (2 * n + 1) = s.sw (2 * n + 1) := by
  simp [State.legParts]

theorem State.legOut_legParts (s : State) {n k : Nat} (other : k ≠ n) (v : Bool) : (s.legOut n v).legParts k = s.legParts k := by
  have lg : (s.modLg n fun l => { l with out := v }).legParts k = s.legParts k := by
    unfold State.legParts
    rw [State.lg_modLg_ne s other]
    rfl
  rw [State.legOut_eq]
  refine Eq.trans (State.iff_frame (·.legParts k) _ _ _ fun y => ?_) lg
  unfold State.legParts State.legOff
  rw [State.sw_modSw_ne _ (by omega), State.sw_modSw_ne _ (by omega), State.sw_modSw_ne _ (by omega), State.sw_modSw_ne _ (by omega)]
  rfl

/-- What the output enable of a leg leaves alone: registers, gates and mode. -/
def State.besideLegs (s : State) : Tbl Word × Gce × Mode := (s.regs, s.gce, s.mode)

theorem State.besideLegs_eq_iff {s u : State} : u.besideLegs = s.besideLegs ↔ u.regs = s.regs ∧ u.gce = s.gce ∧ u.mode = s.mode := by
  simp [State.besideLegs]

theorem State.legOut_besideLegs (s : State) (n : Nat) (v : Bool) : (s.legOut n v).besideLegs = s.besideLegs :=
  State.iff_frame State.besideLegs (s.modLg n fun l => { l with out := v }) _ _ fun _ => rfl

theorem State.legOut_settled (h : s.Settled) (n : Nat) (v : Bool) : (s.legOut n v).Settled :=
  State.iff_settled (State.modLg_settled h n _) _ _ fun _ still => State.modSw_settled (State.modSw_settled still _ _) _ _

/-- The group of leg n runs. -/
def State.legRuns (s : State) (n : Nat) : Bool := (s.grp (s.legGroup n)).running

theorem State.legRuns_of_besideLegs {u : State} (same : u.besideLegs = s.besideLegs) (n : Nat) : u.legRuns n = s.legRuns n := by
  obtain ⟨regs, gce, -⟩ := State.besideLegs_eq_iff.mp same
  unfold State.legRuns State.grp State.legGroup
  rw [State.rf_congr regs, gce]

/-- Leg n's turn in a write of LEG_OUT_EN: a changed bit acts now unless the group runs. -/
def State.outEnTurn (v : Word) (n : Nat) (s : State) : State :=
  if s.legRuns n || (s.lg n).out = bit v n then s else s.legOut n (bit v n)

theorem State.writeOutEn_eq (s : State) (v : Word) : s.writeOutEn v =
    (s.setReg .legOutEn 0 (word (fld v 15 0))).forAll (List.range 16) (State.outEnTurn v) := rfl

theorem State.outEnTurn_legParts (v : Word) (n k : Nat) (s : State) (other : k ≠ n) :
    (s.outEnTurn v n).legParts k = s.legParts k := by
  unfold State.outEnTurn
  split
  · rfl
  · exact s.legOut_legParts other _

theorem State.outEnTurn_besideLegs (v : Word) (n : Nat) (s : State) : (s.outEnTurn v n).besideLegs = s.besideLegs := by
  unfold State.outEnTurn
  split
  · rfl
  · exact s.legOut_besideLegs n _

theorem State.outEnTurn_settled (h : s.Settled) (v : Word) (n : Nat) : (s.outEnTurn v n).Settled := by
  unfold State.outEnTurn
  split
  · exact h
  · exact State.legOut_settled h n _

theorem State.outEnTurn_waits {v : Word} {n : Nat} (runs : s.legRuns n = true) : s.outEnTurn v n = s := if_pos (by simp [runs])

theorem State.outEnTurn_out {v : Word} {n : Nat} (stands : s.legRuns n = false) : ((s.outEnTurn v n).lg n).out = bit v n := by
  unfold State.outEnTurn
  split
  · next same => simpa [stands] using same
  · exact s.legOut_out n _

theorem State.outEnTurn_off {v : Word} {n : Nat} (stands : s.legRuns n = false) (clear : bit v n = false) (was : (s.lg n).out = true) :
    ((s.outEnTurn v n).sw (2 * n)).on = false ∧ ((s.outEnTurn v n).sw (2 * n + 1)).on = false := by
  unfold State.outEnTurn
  rw [if_neg (by simp [stands, clear, was]), clear]
  exact s.legOut_off n

theorem State.forAll_legParts_away {f : Nat → State → State} (others : ∀ i k y, k ≠ i → (f i y).legParts k = y.legParts k) {n : Nat}
    {l : List Nat} (away : n ∉ l) (s : State) : (s.forAll l f).legParts n = s.legParts n := by
  induction l generalizing s with
  | nil => rfl
  | cons a r ih =>
    obtain ⟨ne, away⟩ := not_or.mp (mt List.mem_cons.mpr away)
    exact (ih away (f a s)).trans (others a n s ne)

/-- In a pass over the legs that changes one leg at a time, a leg is left as its own turn makes it. -/
theorem State.forAll_legParts {f : Nat → State → State} (others : ∀ i k y, k ≠ i → (f i y).legParts k = y.legParts k)
    (beside : ∀ i y, (f i y).besideLegs = y.besideLegs) {n : Nat} {l : List Nat} (once : l.Nodup) (mem : n ∈ l) (s : State) :
    ∃ y : State, (s.forAll l f).legParts n = (f n y).legParts n ∧ y.legParts n = s.legParts n ∧ y.besideLegs = s.besideLegs := by
  induction l generalizing s with
  | nil => exact absurd mem List.not_mem_nil
  | cons a r ih =>
    obtain ⟨fresh, once⟩ := List.nodup_cons.mp once
    by_cases here : n = a
    · subst here
      exact ⟨s, State.forAll_legParts_away others fresh (f n s), rfl, rfl⟩
    · obtain ⟨y, turn, parts, same⟩ := ih once ((List.mem_cons.mp mem).resolve_left here) (f a s)
      exact ⟨y, turn, parts.trans (others a n s here), same.trans (beside a s)⟩

/-- The group that leg n lies in does not depend on LEG_OUT_EN. -/
theorem State.legRuns_setOutEn (s : State) (v : Word) {n : Nat} (lt : n < 16) : (s.setReg .legOutEn 0 v).legRuns n = s.legRuns n := by
  have group : (s.setReg .legOutEn 0 v).legGroup n = s.legGroup n :=
    congrArg (fld · 29 27) (State.reg_setReg_ne s .legOutEn .gcePair 0 0 (384 + n) 0 v (by simp only [Reg.addr, Reg.row]; omega))
  unfold State.legRuns
  rw [group]
  rfl

/-- A write of LEG_OUT_EN leaves leg n as its own turn makes it. -/
theorem State.writeOutEn_leg (s : State) (v : Word) {n : Nat} (lt : n < 16) :
    ∃ y : State, (s.writeOutEn v).legParts n = (y.outEnTurn v n).legParts n ∧ y.legParts n = s.legParts n ∧ y.legRuns n = s.legRuns n := by
  obtain ⟨y, turn, parts, same⟩ := State.forAll_legParts (f := State.outEnTurn v) (fun i k y => State.outEnTurn_legParts v i k y)
    (State.outEnTurn_besideLegs v) List.nodup_range (List.mem_range.mpr lt) (s.setReg .legOutEn 0 (word (fld v 15 0)))
  exact ⟨y, turn, parts, (State.legRuns_of_besideLegs same n).trans (s.legRuns_setOutEn _ lt)⟩

theorem State.writeOutEn_besideLegs (s : State) (v : Word) :
    (s.writeOutEn v).besideLegs = (s.setReg .legOutEn 0 (word (fld v 15 0))).besideLegs :=
  State.forAll_frame State.besideLegs _ _ _ (State.outEnTurn_besideLegs v)

theorem State.writeOutEn_settled (h : s.Settled) (v : Word) : (s.writeOutEn v).Settled :=
  State.forAll_settled (h.setReg .legOutEn 0 0 _ (.inl (by decide))) _ _ fun n _ still => State.outEnTurn_settled still v n

theorem exec_legOutEnWrite (t : Nat) (v : Word) (s : State) : exec (.legOutEnWrite t v) s = act t s fun s => s.iff s.up (·.writeOutEn v) := rfl

theorem legOutEnWrite_runs {t n : Nat} {v : Word} (e : x = s.advanceTo t) (settled : x.Settled) (up : x.up = true) (lt : n < 16) :
    s.Runs (.legOutEnWrite t v) fun u => u.reg .legOutEn 0 = word (fld v 15 0) ∧
      (x.legRuns n = true → (u.lg n).out = (x.lg n).out) ∧
      (x.legRuns n = false → (u.lg n).out = bit v n) ∧
      (x.legRuns n = false → bit v n = false → (x.lg n).out = true → (u.sw (2 * n)).on = false ∧ (u.sw (2 * n + 1)).on = false) ∧
      u.mode = x.mode ∧ u.gce = x.gce := by
  have run : exec (.legOutEnWrite t v) s = .next (x.writeOutEn v) :=
    exec_settled_eq (act_settles (exec_legOutEnWrite t v s) e (State.released_of_up up)) (x.writeOutEn_settled settled v) (if_pos up)
  obtain ⟨y, turn, parts, runs⟩ := x.writeOutEn_leg v lt
  obtain ⟨lg, even, odd⟩ := State.legParts_eq_iff.mp turn
  obtain ⟨was, -⟩ := State.legParts_eq_iff.mp parts
  obtain ⟨regs, gce, mode⟩ := State.besideLegs_eq_iff.mp (x.writeOutEn_besideLegs v)
  refine ⟨_, run, ?_, fun running => ?_, fun stands => ?_, fun stands clear on => ?_, mode, gce⟩
  · rw [State.reg_congr regs, State.reg_setReg_self]
  · rw [lg, State.outEnTurn_waits (runs.trans running), was]
  · rw [lg, State.outEnTurn_out (runs.trans stands)]
  · rw [even, odd]
    exact State.outEnTurn_off (runs.trans stands) clear (by rw [was, on])

/-! ### The obligation -/

/-- Settles O43: the next edge of a leg, what an edge does in each state of its switch, the interlock, and LEG_OUT_EN. -/
theorem localEdges : Obligations.LocalEdges := by
  refine ⟨fun s x t n p h r e up lt next partner first before due => ?_, fun s n at_ e => ⟨?_, ?_, ?_, ?_, ?_, ?_, ?_⟩,
    fun s x t n v e settled up lt => legOutEnWrite_runs e settled up lt⟩
  · subst partner
    exact localEdge_single e up lt next first before due
  · exact State.applyEdge_off_of_on
  · exact State.applyEdge_off_of_latch
  · exact State.applyEdge_on_of_on
  · exact State.applyEdge_held
  · intro y z level off made raised
    have refused : s.refuseOn n = z.healthCount (48 + n / 2) := by rw [raised, made, State.refuseOn]
    rw [← refused]
    refine ⟨State.applyEdge_interlocked level off, State.applyEdge_clash level off, ?_, ?_, fun severe => ?_⟩
    · rw [made, State.sw_modSw_self]
      exact off
    · rw [raised]
      exact State.raise_event _ _ _ (sourceOk_legInterlock _) rfl (by decide)
    · rw [raised]
      exact State.raise_latched y 257 _ _ _ (sourceOk_legInterlock _) (by rw [made]; exact severe)
  · intro p partner
    subst partner
    refine ⟨fun on => ?_, fun had recent => ?_, fun f hold within => ?_, State.interlocked_clear⟩
    · exact (s.interlocked_iff n at_).mpr (.inl on)
    · exact (s.interlocked_iff n at_).mpr (.inr (.inl ⟨recent, had⟩))
    · exact (s.interlocked_iff n at_).mpr (.inr (.inr ⟨f, hold, within⟩))
  · exact State.applyEdge_on

end Sys2Proof.Machine
end

section
/-! PROOFS. Protection of local legs: ready, blanking, desaturation, soft-off, bootstrap (R260, R264 to R268, R278). -/

namespace Sys2Proof.Machine

variable {s x : State}

/-! ### Ready (R264) -/

/-- Leg n after a sample of LEG_RDY that reads 0: both switches go off on the path of R508. -/
def State.rdyLost (s : State) (n : Nat) : State :=
  (s.modLg n fun l => { l with ready := false, seen := true }).legOff n (32 * (s.clk.now + (Config.readyToOff - 2)))

theorem State.legOff_settled (h : s.Settled) (n at_ : Nat) : (s.legOff n at_).Settled :=
  State.modSw_settled (State.modSw_settled h _ _) _ _

theorem State.rdyLost_settled (h : s.Settled) (n : Nat) : (s.rdyLost n).Settled := State.legOff_settled (State.modLg_settled h n _) n _

theorem exec_legRdyLoss (t : Nat) (p : PinIn) (s : State) : exec (.legRdyLoss t p) s = act t s fun s =>
    if !(s.released && p.n < 16) || s.rdySample p.n p.high then s
    else if (s.lg p.n).ready then ((s.rdyLost p.n).raise 258 p.n).healthCount (48 + p.n) else s.rdyLost p.n := rfl

theorem exec_legRdyReturn (t : Nat) (p : PinIn) (s : State) : exec (.legRdyReturn t p) s = act t s fun s =>
    if !(s.released && p.n < 16) || !s.rdySample p.n p.high || (s.lg p.n).ready then s
    else s.modLg p.n fun l => { l with ready := true, lastLow := if l.seen then s.clk.now - 1 else 0 } := rfl

section
variable {t n : Nat} {pin : Bool} (e : x = s.advanceTo t) (rel : x.released = true)
include e rel

theorem legRdyLoss_first (lt : n < 16) (low : x.rdySample n pin = false) (ready : (x.lg n).ready = true) :
    exec (.legRdyLoss t ⟨n, pin⟩) s = .next (((x.rdyLost n).raise 258 n).healthCount (48 + n)).settle := by
  rw [act_settles (exec_legRdyLoss t ⟨n, pin⟩ s) e rel, if_neg (by simp [rel, lt, low]), if_pos ready]

theorem legRdyLoss_again (lt : n < 16) (low : x.rdySample n pin = false) (lost : (x.lg n).ready = false) (settled : x.Settled) :
    exec (.legRdyLoss t ⟨n, pin⟩) s = .next (x.rdyLost n) := by
  refine exec_settled_eq (act_settles (exec_legRdyLoss t ⟨n, pin⟩ s) e rel) (State.rdyLost_settled settled n) ?_
  rw [if_neg (by simp [rel, lt, low]), if_neg (by simp [lost])]

theorem legRdyLoss_high (high : x.rdySample n pin = true) (settled : x.Settled) : exec (.legRdyLoss t ⟨n, pin⟩) s = .next x :=
  exec_settled_eq (act_settles (exec_legRdyLoss t ⟨n, pin⟩ s) e rel) settled (if_pos (by simp [high]))

theorem legRdyReturn_back (lt : n < 16) (high : x.rdySample n pin = true) (lost : (x.lg n).ready = false) (settled : x.Settled) :
    exec (.legRdyReturn t ⟨n, pin⟩) s =
      .next (x.modLg n fun l => { l with ready := true, lastLow := if l.seen then x.clk.now - 1 else 0 }) :=
  exec_settled_eq (act_settles (exec_legRdyReturn t ⟨n, pin⟩ s) e rel) (State.modLg_settled settled n _)
    (if_neg (by simp [rel, lt, high, lost]))

theorem legRdyReturn_none (same : x.rdySample n pin = false ∨ (x.lg n).ready = true) (settled : x.Settled) :
    exec (.legRdyReturn t ⟨n, pin⟩) s = .next x := by
  refine exec_settled_eq (act_settles (exec_legRdyReturn t ⟨n, pin⟩ s) e rel) settled (if_pos ?_)
  rcases same with low | ready
  · simp [low]
  · simp [ready]

end

/-! ### Blanking, desaturation, soft-off (R265, R266, R268) -/

theorem exec_blankingEnd (t n : Nat) (s : State) : exec (.blankingEnd t n) s = act t s fun s =>
    if n < 32 && (s.sw n).blank ≤ s.clk.now then s.modSw n fun w => { w with blanked := false } else s := rfl

/-- Soft-off of switch n with the fault latched (R266, R267). -/
def State.desaturated (s : State) (n : Nat) : State :=
  (s.softOff n (s.clk.now + Config.desatToSoftOff)).modSw n fun w => { w with latch := true, desatAt := some s.clk.now }

/-- A sample of switch n's LEG_DS input is the last that desaturation takes: the switch is on and has been out of blanking for the
samples of LEG_CFG (R266). -/
def State.desatSeen (s : State) (p : PinIn) : Bool :=
  p.n < 32 && s.dsSample (p.n / 2) p.high && (s.sw p.n).on && (!(s.sw p.n).blanked || (s.sw p.n).blank ≤ s.clk.now) &&
    (s.sw p.n).blank + max 1 (s.rf .legCfg (p.n / 2) 7 3) ≤ s.clk.now + 1

theorem exec_desaturation (t : Nat) (p : PinIn) (s : State) : exec (.desaturation t p) s = act t s fun s =>
    if !s.desatSeen p then s else ((s.desaturated p.n).raise 256 (768 + p.n)).healthCount (48 + p.n / 2) := rfl

/-- The hold of switch n's soft-off is over: its pin is driven low from the hold's end on (R268). -/
def State.holdOver (s : State) (n h : Nat) : State := s.modSw n fun w => { w with hold := none, offAt := max w.offAt (32 * h) }

section
variable {t n : Nat} {pin : Bool} (e : x = s.advanceTo t) (rel : x.released = true)
include e rel

theorem blankingEnd_over (lt : n < 32) (past : (x.sw n).blank ≤ x.clk.now) (settled : x.Settled) :
    exec (.blankingEnd t n) s = .next (x.modSw n fun w => { w with blanked := false }) :=
  exec_settled_eq (act_settles (exec_blankingEnd t n s) e rel) (State.modSw_settled settled n _) (if_pos (by simp [lt, past]))

theorem blankingEnd_early (within : x.clk.now < (x.sw n).blank) (settled : x.Settled) : exec (.blankingEnd t n) s = .next x :=
  exec_settled_eq (act_settles (exec_blankingEnd t n s) e rel) settled (if_neg (by simp [within]))

theorem desaturation_latches (seen : x.desatSeen ⟨n, pin⟩ = true) : exec (.desaturation t ⟨n, pin⟩) s =
    .next (((x.desaturated n).raise 256 (768 + n)).healthCount (48 + n / 2)).settle := by
  rw [act_settles (exec_desaturation t ⟨n, pin⟩ s) e rel, if_neg (by simp [seen])]

theorem desaturation_none (still : (x.sw n).on = false ∨ x.dsSample (n / 2) pin = false) (settled : x.Settled) :
    exec (.desaturation t ⟨n, pin⟩) s = .next x := by
  refine exec_settled_eq (act_settles (exec_desaturation t ⟨n, pin⟩ s) e rel) settled (if_pos ?_)
  rcases still with off | low
  · simp [State.desatSeen, off]
  · simp [State.desatSeen, low]

theorem softOffHoldEnd_settles {h : Nat} (hold : (x.sw n).hold = some h) :
    exec (.softOffHoldEnd t n) s = .next (if h ≤ x.clk.now then x.holdOver n h else x).settle := by
  show execSoftOffHoldEnd t n s = _
  subst e
  unfold execSoftOffHoldEnd
  rw [act_eq t s _ rel, hold]
  rfl

theorem softOffHoldEnd_over {h : Nat} (hold : (x.sw n).hold = some h) (past : h ≤ x.clk.now) (settled : x.Settled) :
    exec (.softOffHoldEnd t n) s = .next (x.holdOver n h) :=
  exec_settled_eq (softOffHoldEnd_settles e rel hold) (State.modSw_settled settled n _) (if_pos past)

theorem softOffHoldEnd_early {h : Nat} (hold : (x.sw n).hold = some h) (within : x.clk.now < h) (settled : x.Settled) :
    exec (.softOffHoldEnd t n) s = .next x :=
  exec_settled_eq (softOffHoldEnd_settles e rel hold) settled (if_neg (Nat.not_le.mpr within))

end

/-! ### Bootstrap (R278) -/

/-- Pair m is charged: its charge is at or above the level of its bootstrap class. -/
def State.charged (s : State) (m : Nat) : Bool := m < 400 && s.rf .legBpLevel (s.bootBits m % 4) 15 0 ≤ (s.pst m).q

theorem bitsOf_two_pow : ∀ i < 32, bitsOf 32 (word (2 ^ i)).toNat = [i] := by decide

/-- A write of one bit to LEG_BOOT_EMPTY[w] clears it if its pair is charged, and does no more. -/
theorem State.writeBootEmpty_bit (s : State) (w : Nat) {i : Nat} (lt : i < 32) :
    s.writeBootEmpty w (word (2 ^ i)) = s.iff (s.charged (32 * w + i)) (·.setRb .legBootEmpty w i false) := by
  unfold State.writeBootEmpty
  rw [bitsOf_two_pow i lt]
  rfl

theorem legBootEmpty_dark {w : Nat} (lt : w < 13) : Reg.legBootEmpty.addr w < 0x26040 := by
  simp only [Reg.addr, Reg.row]
  omega

theorem exec_legBootEmptyClear (t w : Nat) (v : Word) (s : State) :
    exec (.legBootEmptyClear t w v) s = act t s fun s => s.iff (s.up && w < 13) (·.writeBootEmpty w v) := rfl

theorem legBootEmptyClear_runs {t w i : Nat} (e : x = s.advanceTo t) (settled : x.Settled) (up : x.up = true) (word13 : w < 13)
    (lt : i < 32) : s.Runs (.legBootEmptyClear t w (word (2 ^ i))) fun u =>
      (x.charged (32 * w + i) = true → u.rb .legBootEmpty w i = false) ∧ (x.charged (32 * w + i) = false → u.regs = x.regs) ∧
      u.mode = x.mode ∧ u.leg = x.leg ∧ u.gce = x.gce := by
  have run : exec (.legBootEmptyClear t w (word (2 ^ i))) s =
      .next (x.iff (x.charged (32 * w + i)) (·.setRb .legBootEmpty w i false)) := by
    refine exec_settled_eq (act_settles (exec_legBootEmptyClear t w _ s) e (State.released_of_up up)) ?_
      ((if_pos (by simp [up, word13])).trans (x.writeBootEmpty_bit w lt))
    exact State.iff_settled settled _ _ fun y still => State.setRb_settled still _ w i _ (.inl (legBootEmpty_dark word13))
  refine ⟨_, run, fun charged => ?_, fun empty => ?_, State.iff_frame State.mode _ _ _ fun _ => rfl,
    State.iff_frame State.leg _ _ _ fun _ => rfl, State.iff_frame State.gce _ _ _ fun _ => rfl⟩
  · rw [charged]
    exact x.rb_setRb_clear .legBootEmpty w lt
  · rw [empty]
    rfl

/-! ### The obligation -/

/-- Settles O44: each clause is one command's lemma above. -/
theorem legProtection : Obligations.LegProtection := by
  intro s x t n pin e rel
  refine ⟨fun lt y z off lost => ?_, fun lt settled => ?_, fun lt settled => ?_, fun lt high on unblanked long => ?_,
    fun still settled => desaturation_none e rel still settled, fun h hold settled => ?_, fun w i settled up word13 lt => ?_⟩
  · have made : y = x.rdyLost n := by rw [lost, off]; rfl
    rw [made]
    exact ⟨fun low again settled => legRdyLoss_again e rel lt low again settled, fun low ready => legRdyLoss_first e rel lt low ready,
      fun high settled => legRdyLoss_high e rel high settled⟩
  · exact ⟨fun high lost => legRdyReturn_back e rel lt high lost settled, fun same => legRdyReturn_none e rel same settled⟩
  · exact ⟨fun past => blankingEnd_over e rel lt past settled, fun within => blankingEnd_early e rel within settled⟩
  · have sample : x.dsSample (n / 2) pin = true := high
    exact desaturation_latches e rel (by simp [State.desatSeen, lt, sample, on, unblanked, long])
  · exact ⟨fun past => softOffHoldEnd_over e rel hold past settled, fun within => softOffHoldEnd_early e rel hold within settled⟩
  · obtain ⟨u, run, clears, keeps, rest⟩ := legBootEmptyClear_runs e settled up word13 lt
    refine ⟨u, run, fun pair full => clears (by simp [State.charged, pair, full]), fun not => keeps ?_, rest⟩
    rcases not with absent | empty
    · simp [State.charged, Nat.not_lt.mpr absent]
    · simp [State.charged, empty]

end Sys2Proof.Machine
end

section
/-! PROOFS. A step: the command it runs, the tick of an empty queue, the canonical memory it keeps, and that it ends settled. -/

namespace Sys2Proof.Machine

variable {s : State}

/-- Settles O1: a step is `exec` of the front command. -/
theorem stepRunsFront : Obligations.StepRunsFront := fun _ _ _ front => step_of_front front

/-- Settles O5: keeping the canonical form is part of what time's passing and every command keep; every write to host memory goes
through `memPut`, which keeps it (`memPut_wf`). -/
theorem memoryStaysCanonical : Obligations.MemoryStaysCanonical := fun _ _ canonical ran => (step_keeps ran).memory canonical

/-- With nothing due by then, the idle tick changes the clocks alone. -/
theorem State.idle_of_early (rel : s.released = true) (early : ∀ d, s.nextDue = some d → s.clk.now + 1 < d) :
    s.idle = { s with clk := { s.clk with now := s.clk.now + 1, outs := s.idle.clk.outs } } := by
  have tick : s.idle = s.tickTo (s.clk.now + 1) := s.advanceTo_early _ early
  rw [tick]
  refine (s.tickTo_clk _ rel).trans ?_
  rw [Nat.max_eq_right (Nat.le_succ _)]

/-- Settles O2: the idle step is time's coming to the next tick, and time stands still before the root is released. -/
theorem stepIdles : Obligations.StepIdles := fun s empty =>
  ⟨fun rel early => ⟨s.idle, step_of_empty empty, State.idle_of_early rel early⟩,
    fun held => by rw [step_of_empty empty, State.idle, s.advanceTo_held _ held]⟩

/-- Settles O7: a command ends its step with `State.settle`, and time's passing alone keeps a settled state so. -/
theorem stepsSettle : Obligations.StepsSettle := by
  refine ⟨fun s t settled ran => ?_, rfl, (State.tripLatched_of_none rfl).symm⟩
  cases queue : s.pending with
  | nil =>
    cases (step_of_empty queue).symm.trans ran
    exact State.advanceTo_settled settled _
  | cons c rest => exact exec_settled c _ t ((step_of_front queue).symm.trans ran)

end Sys2Proof.Machine
end

section
/-! PROOFS. Masks: a bit that is set or cleared in a number. -/

namespace Sys2Proof.Machine

/-- Clearing a bit that is set: the other bits stay. -/
theorem testBit_sub_two_pow {x n : Nat} (one : x.testBit n = true) (k : Nat) :
    (x - 2 ^ n).testBit k = (x.testBit k && decide (k ≠ n)) := by
  obtain ⟨q, r, lt, rfl⟩ : ∃ q r, r < 2 ^ n ∧ x = 2 ^ n * q + r :=
    ⟨x / 2 ^ n, x % 2 ^ n, Nat.mod_lt _ (by positivity), (Nat.div_add_mod ..).symm⟩
  rw [Nat.testBit_two_pow_mul_add _ lt, if_neg (lt_irrefl n), Nat.sub_self, Nat.testBit_zero, decide_eq_true_eq] at one
  have less : 2 ^ n * q + r - 2 ^ n = 2 ^ n * (q - 1) + r := by
    obtain ⟨p, rfl⟩ : ∃ p, q = p + 1 := ⟨q - 1, by omega⟩
    rw [Nat.mul_succ, Nat.add_sub_cancel]
    omega
  rw [less, Nat.testBit_two_pow_mul_add _ lt, Nat.testBit_two_pow_mul_add _ lt]
  rcases lt_trichotomy k n with below | rfl | above
  · simp [below, below.ne]
  · simp only [lt_irrefl, if_false, Nat.sub_self, Nat.testBit_zero]
    simp
    omega
  · obtain ⟨j, rfl⟩ : ∃ j, k = n + (j + 1) := ⟨k - n - 1, by omega⟩
    have half : (q - 1) / 2 = q / 2 := by omega
    rw [if_neg (by omega), if_neg (by omega), show n + (j + 1) - n = j + 1 by omega, Nat.testBit_succ, Nat.testBit_succ, half]
    simp

/-- A bit that was written reads back, and the others stay. -/
theorem nbit_nset_eq (x n k : Nat) (b : Bool) : nbit (nset x n b) k = if k = n then b else nbit x k := by
  unfold nbit nset
  cases b with
  | true =>
    rw [if_pos rfl, Nat.testBit_or, Nat.testBit_two_pow]
    rcases eq_or_ne k n with rfl | ne
    · simp
    · simp [ne, ne.symm]
  | false =>
    rw [if_neg Bool.false_ne_true]
    split
    · next one =>
      rw [testBit_sub_two_pow one]
      by_cases here : k = n <;> simp [here]
    · next zero =>
      by_cases here : k = n
      · simpa [here] using zero
      · simp [here]

@[simp] theorem nbit_nset_self (x n : Nat) (b : Bool) : nbit (nset x n b) n = b := by rw [nbit_nset_eq, if_pos rfl]

theorem nbit_nset_ne (x : Nat) {n k : Nat} (ne : k ≠ n) (b : Bool) : nbit (nset x n b) k = nbit x k := by
  rw [nbit_nset_eq, if_neg ne]

theorem nbit_zero (k : Nat) : nbit 0 k = false := Nat.zero_testBit k

end Sys2Proof.Machine
end

section
/-! PROOFS. The cycle of the safety functions: what it leaves, and on which conditions an output or the grant stands after it (R445,
R454, R455). -/

namespace Sys2Proof.Machine

variable {s x u : State}

/-! ### What the work of a cycle leaves -/

/-- Count and instant of the cycle, the PDUs that wait, the confirmation. -/
def Saf.cycleBook (f : Saf) : Nat × Nat × List (Nat × Option Nat × Bytes) × Bool := (f.cycles, f.cycleAt, f.pdus, f.confirmed)

/-- The settings of the outputs and of the grant. -/
def State.safSettings (s : State) : (Fin 4 → Word) × Word := (fun j => s.reg .safOutCfg j, s.reg .safPermCfg)

/-- What no part of a safety cycle changes. -/
def State.besideCycle (s : State) : Clk × Tim × Bell × Mill × ((Fin 4 → Word) × Word) × Nat × Nat × List (Nat × Option Nat × Bytes) × Bool :=
  (s.clk, s.tim, s.bell, s.mill, s.safSettings, s.saf.cycleBook)

theorem State.safSettings_congr (h : u.regs = s.regs) : u.safSettings = s.safSettings := by
  simp only [State.safSettings, State.reg_congr h]

theorem safCfg_steady : (∀ j : Fin 4, eventOff (Reg.safOutCfg.addr j) = false ∧ raiseOff (Reg.safOutCfg.addr j) = false) ∧
    eventOff Reg.safPermCfg.addr = false ∧ raiseOff Reg.safPermCfg.addr = false := by decide

theorem State.Quiet.safSettings (q : s.Quiet u) : u.safSettings = s.safSettings :=
  Prod.ext (funext fun j => q.reg _ _ _ (safCfg_steady.1 j).1 (safCfg_steady.1 j).2) (q.reg _ _ _ safCfg_steady.2.1 safCfg_steady.2.2)

theorem State.Quiet.besideCycle (q : s.Quiet u) : u.besideCycle = s.besideCycle := by
  unfold State.besideCycle
  rw [q.clk, q.tim, q.bell, q.mill, q.safSettings, q.saf]
  rfl

theorem State.modSaf_besideCycle (s : State) {f : Saf → Saf} (h : (f s.saf).cycleBook = s.saf.cycleBook) :
    (s.modSaf f).besideCycle = s.besideCycle := by
  unfold State.besideCycle
  rw [State.modSaf_saf, h]
  rfl

theorem State.consLost_quiet (s : State) (k : Nat) : s.Quiet (s.consLost k) := by
  unfold State.consLost
  split
  · exact State.raise_quiet (State.Quiet.refl s) _ _ _ _
  · exact State.raise_quiet (State.Quiet.refl s) _ _ _ _

theorem State.modCons_besideCycle (s : State) (k : Nat) (f : Cons → Cons) : (s.modCons k f).besideCycle = s.besideCycle := rfl

theorem State.iff_consLost_besideCycle (s : State) (c : Bool) (k : Nat) : (s.iff c (·.consLost k)).besideCycle = s.besideCycle :=
  State.iff_frame State.besideCycle s c _ fun y => (y.consLost_quiet k).besideCycle

theorem safConsStatus_apart : (∀ j : Fin 4, Reg.safOutCfg.addr j ≠ Reg.safConsStatus.addr) ∧
    Reg.safPermCfg.addr ≠ Reg.safConsStatus.addr := by decide

theorem State.badPdu_besideCycle (s : State) : (s.bump .safConsStatus 0 15 0).besideCycle = s.besideCycle := by
  have settings : (s.bump .safConsStatus 0 15 0).safSettings = s.safSettings :=
    Prod.ext (funext fun j => State.reg_setReg_ne s _ _ _ _ _ _ _ (safConsStatus_apart.1 j)) (State.reg_setReg_ne s _ _ _ _ _ _ _ safConsStatus_apart.2)
  unfold State.besideCycle
  rw [settings]
  rfl

theorem State.consume_besideCycle (s : State) (k : Nat) (b : Bytes) : (s.consume k b).2.besideCycle = s.besideCycle := by
  unfold State.consume
  split
  extract_lets _ y seq
  split
  · exact s.badPdu_besideCycle
  split
  · exact s.badPdu_besideCycle
  split
  · rfl
  split
  · exact s.badPdu_besideCycle
  · exact State.iff_consLost_besideCycle _ _ _

theorem State.consExpire_besideCycle (s : State) (k : Nat) : (s.consExpire k).besideCycle = s.besideCycle := by
  unfold State.consExpire
  dsimp only
  split
  · exact State.iff_consLost_besideCycle _ _ _
  · rfl

/-- One waiting PDU is taken and its descriptor, if it came from one, ends. -/
def State.takePdu (s : State) (e : Nat × Option Nat × Bytes) : State :=
  let r := if s.rb .safConsCfg e.1 31 then s.consume e.1 e.2.2 else (5, s)
  match e.2.1 with
  | some k => r.2.finishRole 10 k ⟨r.1, r.2.clk.now % 2 ^ 32, 0⟩
  | none => r.2

theorem State.takePdus_eq (s : State) : s.takePdus = s.saf.pdus.foldl State.takePdu (s.modSaf fun f => { f with pdus := [] }) := by
  rfl

theorem State.takePdu_besideCycle (s : State) (e : Nat × Option Nat × Bytes) : (s.takePdu e).besideCycle = s.besideCycle := by
  have consumed : (if s.rb .safConsCfg e.1 31 then s.consume e.1 e.2.2 else (5, s)).2.besideCycle = s.besideCycle := by
    split
    · exact s.consume_besideCycle _ _
    · rfl
  unfold State.takePdu
  dsimp only
  split
  · exact (State.finishRole_quiet (State.Quiet.refl _) _ _ _).besideCycle.trans consumed
  · exact consumed

theorem State.takePdus_besideCycle (s : State) : s.takePdus.besideCycle = (s.modSaf fun f => { f with pdus := [] }).besideCycle :=
  foldl_frame State.besideCycle _ State.takePdu_besideCycle _

/-- The pairs of contacts that are on count the cycles they were so. -/
theorem State.inputs_besideCycle (s : State) (inp : SafetyIn) : (s.inputs inp).2.besideCycle = s.besideCycle := by
  unfold State.inputs
  dsimp only
  refine (State.forAll_frame State.besideCycle _ _ _ fun n y => (State.raise_quiet (State.Quiet.refl y) _ _ _ _).besideCycle).trans ?_
  rfl

theorem State.channelFault_besideCycle (s : State) : s.channelFault.besideCycle = s.besideCycle := by
  unfold State.channelFault
  dsimp only
  split
  · rfl
  · exact (State.raise_quiet (State.stopRequest_quiet (State.Quiet.refl _) _ _ _) _ _ _ _).besideCycle.trans rfl

/-! ### Outputs and grant (R454, R455) -/

/-- What decides whether output j stands rightly: its command, switch, fault latch and restart bit, and the channels' fault. -/
def State.outputBits (s : State) (j : Nat) : Bool × Bool × Bool × Bool × Bool :=
  (nbit s.saf.outOn j, nbit s.saf.closed j, nbit s.saf.outFault j, nbit s.saf.rsOut j, s.saf.fault)

/-- Output j is on only where it is enabled, supplied, confirmed, without a fault and restarted; its switch is closed only where it is
on. -/
structure State.OutSafe (s : State) (j : Nat) : Prop where
  on : nbit s.saf.outOn j = true → s.rb .safOutCfg j 31 = true ∧ s.clk.supplySaf = true ∧ s.saf.confirmed = true ∧ s.saf.fault = false ∧
    nbit s.saf.outFault j = false ∧ (s.rb .safOutCfg j 30 = true → nbit s.saf.rsOut j = true)
  closed : nbit s.saf.closed j = true → nbit s.saf.outOn j = true

/-- The grant stands only where it is enabled, confirmed and without a channel fault. -/
def State.GrantSafe (s : State) : Prop :=
  s.saf.grant = true → s.rb .safPermCfg 0 31 = true ∧ s.saf.confirmed = true ∧ s.saf.fault = false

theorem State.besideCycle_eq (h : u.besideCycle = s.besideCycle) : u.clk = s.clk ∧ u.tim = s.tim ∧ u.bell = s.bell ∧ u.mill = s.mill ∧
    (∀ j, j < 4 → u.reg .safOutCfg j = s.reg .safOutCfg j) ∧ u.reg .safPermCfg = s.reg .safPermCfg ∧ u.saf.cycleBook = s.saf.cycleBook := by
  simp only [State.besideCycle, State.safSettings, Prod.mk_inj] at h
  obtain ⟨clk, tim, bell, mill, ⟨outs, perm⟩, book⟩ := h
  exact ⟨clk, tim, bell, mill, fun j lt => congrFun outs ⟨j, lt⟩, perm, book⟩

theorem Saf.confirmed_of_cycleBook {f g : Saf} (h : f.cycleBook = g.cycleBook) : f.confirmed = g.confirmed :=
  congrArg (fun b : Nat × Nat × List (Nat × Option Nat × Bytes) × Bool => b.2.2.2) h

theorem State.OutSafe.congr {j : Nat} (h : s.OutSafe j) (lt : j < 4) (bits : u.outputBits j = s.outputBits j)
    (beside : u.besideCycle = s.besideCycle) : u.OutSafe j := by
  simp only [State.outputBits, Prod.mk_inj] at bits
  obtain ⟨on, closed, latch, again, fault⟩ := bits
  obtain ⟨clk, -, -, -, cfg, -, book⟩ := State.besideCycle_eq beside
  have rb : ∀ n, u.rb .safOutCfg j n = s.rb .safOutCfg j n := fun n => congrArg (bit · n) (cfg j lt)
  constructor
  · rw [on, rb, rb, clk, Saf.confirmed_of_cycleBook book, fault, latch, again]
    exact h.on
  · rw [on, closed]
    exact h.closed

theorem State.GrantSafe.congr (h : s.GrantSafe) (grant : u.saf.grant = s.saf.grant) (fault : u.saf.fault = s.saf.fault)
    (beside : u.besideCycle = s.besideCycle) : u.GrantSafe := by
  obtain ⟨-, -, -, -, -, cfg, book⟩ := State.besideCycle_eq beside
  unfold State.GrantSafe
  rw [grant, fault, Saf.confirmed_of_cycleBook book, show u.rb .safPermCfg 0 31 = s.rb .safPermCfg 0 31 from congrArg (bit · 31) cfg]
  exact h

theorem State.Quiet.outputBits (q : s.Quiet u) (j : Nat) : u.outputBits j = s.outputBits j := by
  unfold State.outputBits
  rw [q.saf]

/-- A restart stands only where the other conditions do (R454). -/
theorem restart_others {needs was others ack : Bool} (h : restart needs was others ack = true) : others = true := by
  unfold restart at h
  exact (Bool.and_eq_true_iff.mp h).1

theorem State.permits_sound {m : Nat} (h : s.permits m = true) : s.saf.confirmed = true ∧ s.saf.fault = false := by
  simp only [State.permits, Bool.and_eq_true, Bool.not_eq_true'] at h
  obtain ⟨⟨⟨⟨-, confirmed⟩, sound⟩, -⟩, -⟩ := h
  exact ⟨confirmed, sound⟩

theorem State.outPermit_sound {j : Nat} (h : s.outPermit j = true) : s.rb .safOutCfg j 31 = true ∧ s.clk.supplySaf = true ∧
    s.saf.confirmed = true ∧ s.saf.fault = false ∧ nbit s.saf.outFault j = false := by
  simp only [State.outPermit, Bool.and_eq_true, Bool.not_eq_true'] at h
  obtain ⟨⟨⟨enabled, supplied⟩, latch⟩, permitted⟩ := h
  obtain ⟨confirmed, sound⟩ := State.permits_sound permitted
  exact ⟨enabled, supplied, confirmed, sound, latch⟩

/-- Output j takes its command: its switch stays closed where it was, and closes at the next cycle's start where it was open. -/
def State.commandOutput (s : State) (j : Nat) (on : Bool) : State := s.modSaf fun f =>
  let closed := nbit f.closed j && on
  { f with rsOut := nset f.rsOut j on, outOn := nset f.outOn j on, closed := nset f.closed j closed,
           openRun := nput f.openRun j (if closed then 0 else min 2 (nget f.openRun j + 1)) }

theorem State.commandOutput_safe {j : Nat} {on : Bool} (permitted : on = true → s.outPermit j = true) : (s.commandOutput j on).OutSafe j := by
  constructor
  · intro stands
    have stands : on = true := (nbit_nset_self _ _ _).symm.trans stands
    obtain ⟨enabled, supplied, confirmed, sound, latch⟩ := State.outPermit_sound (permitted stands)
    exact ⟨enabled, supplied, confirmed, sound, latch, fun _ => (nbit_nset_self _ _ _).trans stands⟩
  · intro shut
    have shut : (nbit s.saf.closed j && on) = true := (nbit_nset_self _ _ _).symm.trans shut
    exact (nbit_nset_self _ _ _).trans (Bool.and_eq_true_iff.mp shut).2

theorem State.commandOutput_ne (s : State) {i j : Nat} (ne : j ≠ i) (on : Bool) : (s.commandOutput i on).outputBits j = s.outputBits j := by
  simp [State.commandOutput, State.outputBits, nbit_nset_ne _ ne]

theorem State.commandOutput_besideCycle (s : State) (j : Nat) (on : Bool) : (s.commandOutput j on).besideCycle = s.besideCycle := rfl

theorem State.outputFault_besideCycle (s : State) (j : Nat) : (s.outputFault j).besideCycle = s.besideCycle := by
  unfold State.outputFault
  split
  · rfl
  · exact (State.raise_quiet (State.Quiet.refl _) _ _ _ _).besideCycle.trans rfl

theorem State.outputFault_ne (s : State) {i j : Nat} (ne : j ≠ i) : (s.outputFault i).outputBits j = s.outputBits j := by
  unfold State.outputFault
  split
  · rfl
  · refine ((State.raise_quiet (State.Quiet.refl _) _ _ _ _).outputBits j).trans ?_
    simp [State.outputBits, nbit_nset_ne _ ne]

theorem State.judgeOutput_besideCycle (s : State) (inp : SafetyIn) (j : Nat) (on : Bool) :
    (s.judgeOutput inp j on).besideCycle = s.besideCycle := by
  unfold State.judgeOutput
  exact State.iff_frame State.besideCycle _ _ _ fun y => y.outputFault_besideCycle j

theorem State.judgeOutput_ne (s : State) (inp : SafetyIn) {i j : Nat} (ne : j ≠ i) (on : Bool) :
    (s.judgeOutput inp i on).outputBits j = s.outputBits j := by
  unfold State.judgeOutput
  exact State.iff_frame (·.outputBits j) _ _ _ fun y => y.outputFault_ne ne

/-- Output j's command without a new fault: its conditions with its restart. -/
def State.outCommand (s : State) (j : Nat) (ack : Bool) : Bool := restart (s.rb .safOutCfg j 30) (nbit s.saf.rsOut j) (s.outPermit j) ack

/-- Output j's turn in a cycle: it is judged, then commanded. -/
def State.outputTurn (inp : SafetyIn) (ack : Bool) (j : Nat) (s : State) : State :=
  let y := s.judgeOutput inp j (s.outCommand j ack)
  y.commandOutput j (y.outCommand j ack)

/-- At a cycle's start the switches close where the command was on before, and the pins are read. -/
def State.outputStart (s : State) (inp : SafetyIn) : State :=
  s.modSaf fun f => { f with closed := f.outOn, rbH1 := f.rbH, rbL1 := f.rbL, rbH := inp.rbH % 16, rbL := inp.rbL % 16 }

theorem State.outputs_eq (s : State) (inp : SafetyIn) (ack : Bool) :
    s.outputs inp ack = (s.outputStart inp).forAll (List.range 4) (State.outputTurn inp ack) := rfl

theorem State.outputTurn_safe (s : State) (inp : SafetyIn) (ack : Bool) (j : Nat) : (s.outputTurn inp ack j).OutSafe j :=
  State.commandOutput_safe restart_others

theorem State.outputTurn_besideCycle (inp : SafetyIn) (ack : Bool) (j : Nat) (s : State) :
    (s.outputTurn inp ack j).besideCycle = s.besideCycle :=
  (State.commandOutput_besideCycle _ _ _).trans (s.judgeOutput_besideCycle _ _ _)

theorem State.outputTurn_ne (inp : SafetyIn) (ack : Bool) {i j : Nat} (ne : j ≠ i) (s : State) :
    (s.outputTurn inp ack i).outputBits j = s.outputBits j :=
  (State.commandOutput_ne _ ne _).trans (s.judgeOutput_ne _ ne _)

/-- In a pass over a list, what an element's turn makes and no other turn undoes holds in the end. -/
theorem State.forAll_establishes {P : State → Prop} {f : Nat → State → State} {j : Nat} (makes : ∀ y, P (f j y))
    (keeps : ∀ i y, j ≠ i → P y → P (f i y)) {l : List Nat} (mem : j ∈ l ∨ P s) : P (s.forAll l f) := by
  induction l generalizing s with
  | nil => exact mem.resolve_left List.not_mem_nil
  | cons a r ih =>
    refine ih ?_
    by_cases here : j = a
    · subst here
      exact .inr (makes s)
    · exact mem.imp (fun m => (List.mem_cons.mp m).resolve_left here) (keeps a s here)

theorem State.outputs_safe (s : State) (inp : SafetyIn) (ack : Bool) {j : Nat} (lt : j < 4) : (s.outputs inp ack).OutSafe j := by
  rw [State.outputs_eq]
  exact State.forAll_establishes (P := (·.OutSafe j)) (fun y => y.outputTurn_safe inp ack j)
    (fun i y ne safe => safe.congr lt (State.outputTurn_ne inp ack ne y) (State.outputTurn_besideCycle inp ack i y))
    (.inl (List.mem_range.mpr lt))

theorem State.outputs_besideCycle (s : State) (inp : SafetyIn) (ack : Bool) : (s.outputs inp ack).besideCycle = s.besideCycle := by
  rw [State.outputs_eq]
  exact State.forAll_frame State.besideCycle _ _ _ (State.outputTurn_besideCycle inp ack)

/-- The grants of a cycle change neither an output nor a channel fault, and the grant stands on its conditions. -/
theorem State.grantCycle_safe (s : State) (ack : Bool) : (s.grantCycle ack).GrantSafe ∧ (s.grantCycle ack).besideCycle = s.besideCycle ∧
    ∀ j, (s.grantCycle ack).outputBits j = s.outputBits j := by
  unfold State.grantCycle
  extract_lets needs g ports rs fell y
  have granted : y.GrantSafe := fun stands => by
    have others := restart_others (show g = true from stands)
    obtain ⟨enabled, permitted⟩ := Bool.and_eq_true_iff.mp others
    exact ⟨enabled, State.permits_sound permitted⟩
  have stop : y.Quiet (y.iff fell (·.stopRequest 5 (coreCycle y.clk.now) none)) :=
    State.iff_quiet (State.Quiet.refl y) _ _ fun _ q => State.stopRequest_quiet q _ _ _
  have saf := stop.saf
  exact ⟨granted.congr (by rw [saf]) (by rw [saf]) stop.besideCycle, stop.besideCycle, fun j => stop.outputBits j⟩

/-! ### The PDUs of a cycle (R463, R464, R467) -/

/-- What the PDUs that a cycle sends leave of it. -/
def State.cycleResult (s : State) (j : Nat) := (s.outputBits j, s.saf.grant, s.saf.fault, s.besideCycle)

theorem State.Quiet.cycleResult (q : s.Quiet u) (j : Nat) : u.cycleResult j = s.cycleResult j := by
  unfold State.cycleResult
  rw [q.outputBits, q.besideCycle, q.saf]

theorem State.permissives_cycleResult (s : State) (j : Nat) : s.permissives.cycleResult j = s.cycleResult j := by
  unfold State.permissives
  exact State.forAll_frame (·.cycleResult j) _ _ _ fun p y => rfl

theorem State.stationPdus_cycleResult (s : State) (j : Nat) : s.stationPdus.cycleResult j = s.cycleResult j := by
  unfold State.stationPdus
  refine State.forAll_frame (·.cycleResult j) _ _ _ fun c y => ?_
  dsimp only
  split
  · rfl
  · split
    · rfl
    · exact (State.emitRecord_quiet (State.Quiet.refl _) _ _ _).cycleResult j

/-! ### The cycle (R445) -/

/-- A cycle counts itself, runs the consumers' watchdogs, takes the PDUs and reads the inputs; whether they acknowledge. -/
def State.cycleRead (s : State) (inp : SafetyIn) : Bool × State :=
  (((s.modSaf fun f => { f with cycles := f.cycles + 1, cycleAt := s.clk.now }).forAll (List.range 56) fun k s => s.consExpire k).takePdus).inputs inp

/-- The channels note the block's check value, whether the block is valid, and the source vector. -/
def State.noteBlock (s : State) (check : Nat) (valid : Bool) (vec : Nat) : State :=
  s.modSaf fun f => { f with pchk := check, valid := valid, srcVec := vec }

/-- The parameter block is checked and the source vector formed (R453, R469, R470). -/
def State.checkBlock (s : State) : State := s.noteBlock (crc32c s.safBlock) s.safValid s.sourceVec

/-- A cycle compares the channels, checks the block and forms the source vector. -/
def State.cycleCompare (s : State) (inp : SafetyIn) : State :=
  let s := s.modSaf fun f => { f with noReply := if inp.reply then 0 else f.noReply + 1 }
  (s.iff (!inp.agree || 4 < s.saf.differ || 2 ≤ s.saf.noReply) State.channelFault).checkBlock

/-- Sound channels end a cycle with its PDUs. -/
def State.cycleSend (s : State) : State := if s.saf.fault then s else s.permissives.stationPdus

/-- A cycle that is due. -/
def State.safetyCycle (s : State) (inp : SafetyIn) : State :=
  ((((s.cycleRead inp).2.cycleCompare inp).outputs inp (s.cycleRead inp).1).grantCycle (s.cycleRead inp).1).cycleSend

theorem exec_safetyCycle (t : Nat) (inp : SafetyIn) (s : State) : exec (.safetyCycle t inp) s = act t s fun s =>
    if !(s.released && s.clk.now % 100000 = 0 && (s.saf.cycles = 0 || s.saf.cycleAt < s.clk.now)) then s else s.safetyCycle inp := rfl

/-- Taking the PDUs that wait changes that alone. -/
theorem State.takenPdus_besideCycle (h : u.besideCycle = s.besideCycle) :
    (u.modSaf fun f => { f with pdus := [] }).besideCycle = (s.modSaf fun f => { f with pdus := [] }).besideCycle := by
  simp only [State.besideCycle, Saf.cycleBook, Prod.mk_inj] at h ⊢
  obtain ⟨clk, tim, bell, mill, settings, count, at_, -, confirmed⟩ := h
  exact ⟨clk, tim, bell, mill, settings, count, at_, rfl, confirmed⟩

theorem State.cycleRead_besideCycle (s : State) (inp : SafetyIn) : (s.cycleRead inp).2.besideCycle =
    (s.modSaf fun f => { f with cycles := f.cycles + 1, cycleAt := s.clk.now, pdus := [] }).besideCycle := by
  have expired := State.forAll_frame State.besideCycle
    (s.modSaf fun f => { f with cycles := f.cycles + 1, cycleAt := s.clk.now }) (List.range 56) (fun k s => s.consExpire k)
    fun k y => y.consExpire_besideCycle k
  exact ((State.inputs_besideCycle _ inp).trans (State.takePdus_besideCycle _)).trans (State.takenPdus_besideCycle expired)

theorem State.noteBlock_besideCycle (s : State) (check : Nat) (valid : Bool) (vec : Nat) :
    (s.noteBlock check valid vec).besideCycle = s.besideCycle := rfl

theorem State.checkBlock_besideCycle (s : State) : s.checkBlock.besideCycle = s.besideCycle := s.noteBlock_besideCycle _ _ _

theorem State.cycleCompare_besideCycle (s : State) (inp : SafetyIn) : (s.cycleCompare inp).besideCycle = s.besideCycle := by
  refine (State.checkBlock_besideCycle _).trans ?_
  exact (State.iff_frame State.besideCycle _ _ _ State.channelFault_besideCycle).trans rfl

theorem State.cycleSend_cycleResult (s : State) (j : Nat) : s.cycleSend.cycleResult j = s.cycleResult j := by
  unfold State.cycleSend
  split
  · rfl
  · exact (State.stationPdus_cycleResult _ j).trans (State.permissives_cycleResult s j)

/-- After a cycle every output stands rightly, the grant too, and the rest is left alone. -/
theorem State.safetyCycle_safe (s : State) (inp : SafetyIn) : (∀ j, j < 4 → (s.safetyCycle inp).OutSafe j) ∧
    (s.safetyCycle inp).GrantSafe ∧ (s.safetyCycle inp).besideCycle =
      (s.modSaf fun f => { f with cycles := f.cycles + 1, cycleAt := s.clk.now, pdus := [] }).besideCycle := by
  obtain ⟨granted, beside, bits⟩ := State.grantCycle_safe (((s.cycleRead inp).2.cycleCompare inp).outputs inp (s.cycleRead inp).1)
    (s.cycleRead inp).1
  have sent := fun j => State.cycleSend_cycleResult
    ((((s.cycleRead inp).2.cycleCompare inp).outputs inp (s.cycleRead inp).1).grantCycle (s.cycleRead inp).1) j
  simp only [State.cycleResult, Prod.mk_inj] at sent
  obtain ⟨-, grant, fault, same⟩ := sent 0
  refine ⟨fun j lt => ?_, granted.congr grant fault same, ?_⟩
  · exact (State.outputs_safe _ inp _ lt).congr lt ((sent j).1.trans (bits j)) (same.trans beside)
  · exact ((same.trans beside).trans (State.outputs_besideCycle _ _ _)).trans
      ((State.cycleCompare_besideCycle _ _).trans (s.cycleRead_besideCycle inp))

/-- Settles O55: each output is judged and commanded in its own turn of the cycle, the grant after them, and neither the other turns nor
the PDUs that follow undo it. -/
theorem safeOutputs : Obligations.SafeOutputs := by
  intro s x t inp e rel boundary due
  have run : exec (.safetyCycle t inp) s = .next (x.safetyCycle inp).settle := by
    rw [act_settles (exec_safetyCycle t inp s) e rel, if_neg (by simpa [rel, boundary, or_iff_not_imp_left] using due)]
  obtain ⟨outs, granted, beside⟩ := x.safetyCycle_safe inp
  refine runs_quiet run fun u q => ?_
  obtain ⟨clk, tim, bell, mill, cfg, perm, book⟩ := State.besideCycle_eq (q.besideCycle.trans beside)
  simp only [Saf.cycleBook, State.modSaf_saf, Prod.mk_inj] at book
  obtain ⟨count, at_, pdus, confirmed⟩ := book
  have enable : ∀ j n, j < 4 → u.rb .safOutCfg j n = x.rb .safOutCfg j n := fun j n lt => congrArg (bit · n) (cfg j lt)
  have safe : ∀ j, j < 4 → u.OutSafe j := fun j lt => (outs j lt).congr lt (q.outputBits j) q.besideCycle
  refine ⟨count, at_, pdus, confirmed, fun j lt on => ?_, fun j lt => (safe j lt).closed, fun grant => ?_, tim, bell, mill⟩
  · obtain ⟨enabled, supplied, sure, sound, latch, again⟩ := (safe j lt).on on
    rw [enable j _ lt] at enabled again
    exact ⟨enabled, clk ▸ supplied, confirmed.symm.trans sure, sound, latch, again⟩
  · have saf := q.saf
    obtain ⟨enabled, sure, sound⟩ := (granted.congr (by rw [saf]) (by rw [saf]) q.besideCycle : u.GrantSafe) grant
    exact ⟨(congrArg (bit · 31) perm).symm.trans enabled, confirmed.symm.trans sure, sound⟩

end Sys2Proof.Machine
end

section
/-! PROOFS. Safety channels, consumers, PDUs, output tests, clearing and confirmation (R445, R446, R448, R459, R460, R462, R468, R470). -/

namespace Sys2Proof.Machine

variable {s x y : State}

/-! ### Channels (R446, R448) -/

/-- The channels take a fault: every output goes off, every grant goes, a Safe stop is requested. -/
def State.failChannels (s : State) : State :=
  ((s.modSaf fun f => { f with fault := true, outOn := 0, closed := 0, grant := false, grants := 0, box := [], boxPrev := [] }).stopRequest
    5 (coreCycle s.clk.now) none).raise 452 0xFFFF

theorem State.channelFault_eq (s : State) : s.channelFault = if s.saf.fault then s else s.failChannels := rfl

theorem channelASilence_held {t : Nat} (e : x = s.advanceTo t) (held : x.released = false) (settled : x.Settled) :
    exec (.channelASilence t) s = .next (x.modSaf fun f => { f with outOn := 0, closed := 0 }) := by
  subst e
  exact exec_settled_eq rfl (State.modSaf_settled settled _ fun _ => rfl) (if_neg (by simp [held]))

theorem channelASilence_settles {t : Nat} (e : x = s.advanceTo t) (rel : x.released = true) :
    exec (.channelASilence t) s = .next (if x.saf.fault then x else x.failChannels).settle := by
  subst e
  exact congrArg (fun z : State => Host.Outcome.next z.settle) ((if_pos rel).trans (State.channelFault_eq _))

/-! ### Consumers (R462) -/

theorem State.consExpire_none {k : Nat} (none_ : (s.cons k).last = none) : s.consExpire k = s := by
  simp [State.consExpire, none_]

theorem State.consExpire_within {k : Nat} (within : s.clk.now < (s.cons k).newAt + (s.consCfg k).2.2.2 * 100000) : s.consExpire k = s := by
  simp [State.consExpire, Nat.not_le.mpr within]

theorem State.consExpire_past {k l : Nat} (last : (s.cons k).last = some l)
    (past : (s.cons k).newAt + (s.consCfg k).2.2.2 * 100000 ≤ s.clk.now) :
    s.consExpire k = (s.modCons k fun y => { y with last := none, r := 0 }).iff (s.cons k).holds (·.consLost k) := by
  simp [State.consExpire, last, past]

theorem exec_consumerWatchdog (t c : Nat) (s : State) : exec (.consumerWatchdog t c) s =
    act t s fun s => if s.released && s.clk.now % 100000 = 0 && c < 56 then s.consExpire c else s := rfl

section
variable {t c : Nat} (e : x = s.advanceTo t) (rel : x.released = true)
include e rel

theorem consumerWatchdog_settles (boundary : x.clk.now % 100000 = 0) (lt : c < 56) :
    exec (.consumerWatchdog t c) s = .next (x.consExpire c).settle := by
  rw [act_settles (exec_consumerWatchdog t c s) e rel, if_pos (by simp [rel, boundary, lt])]

theorem consumerWatchdog_between (between : x.clk.now % 100000 ≠ 0) (settled : x.Settled) : exec (.consumerWatchdog t c) s = .next x :=
  exec_settled_eq (act_settles (exec_consumerWatchdog t c s) e rel) settled (if_neg (by simp [between]))

theorem safetyCycle_between (between : x.clk.now % 100000 ≠ 0) (settled : x.Settled) (inp : SafetyIn) :
    exec (.safetyCycle t inp) s = .next x :=
  exec_settled_eq (act_settles (exec_safetyCycle t inp s) e rel) settled (if_pos (by simp [between]))

end

/-! ### PDUs from the host (R468) -/

/-- A PDU waits for the next cycle. -/
def State.waitPdu (s : State) (i k : Nat) (d : Desc) (b : Bytes) : State :=
  (s.holdAct i k).modSaf fun f => { f with pdus := f.pdus ++ [(d.arg % 8, some k, b.take (d.arg2 % 256))] }

theorem exec_safetyPdu (t : Nat) (buf : Option Bytes) (s : State) : exec (.safetyPdu t buf) s =
    act t s fun s => s.onTurn 10 1 fun i k d s => s.readBuf i k d.buf (d.arg2 % 256) buf fun b s => s.waitPdu i k d b := rfl

theorem State.readBuf_held (held : s.canDma = false) (i k addr n : Nat) (buf : Option Bytes) (f : Bytes → State → State) :
    s.readBuf i k addr n buf f = s := by
  simp [State.readBuf, held]

theorem State.readBuf_failed (dma : s.canDma = true) (i k addr n : Nat) (f : Bytes → State → State) :
    s.readBuf i k addr n none f = (s.hostRead addr n).ends i k 0x81 := by
  simp [State.readBuf, dma]

section
variable {t i k : Nat} {d : Desc} (e : x = s.advanceTo t) (rel : x.released = true) (turn : x.turn 10 1 = some (i, k, d))
  (settled : x.Settled)
include e rel turn settled

theorem safetyPdu_held (held : x.canDma = false) (buf : Option Bytes) : exec (.safetyPdu t buf) s = .next x :=
  exec_settled_eq (act_settles (exec_safetyPdu t buf s) e rel) settled
    ((State.onTurn_of_turn turn _).trans (State.readBuf_held held _ _ _ _ _ _))

variable (dma : x.canDma = true)
include dma

theorem safetyPdu_failed : exec (.safetyPdu t none) s = .next ((x.hostRead d.buf (d.arg2 % 256)).ends i k 0x81 0 0) :=
  exec_settled_eq (act_settles (exec_safetyPdu t none s) e rel) (State.ends_settled (State.hostRead_settled settled _ _) _ _ _ _ _)
    ((State.onTurn_of_turn turn _).trans (State.readBuf_failed dma _ _ _ _ _))

theorem safetyPdu_waits (b : Bytes) : exec (.safetyPdu t (some b)) s = .next ((x.hostRead d.buf (d.arg2 % 256)).waitPdu i k d b) :=
  exec_settled_eq (act_settles (exec_safetyPdu t (some b) s) e rel)
    (State.modSaf_settled (State.holdAct_settled (State.hostRead_settled settled _ _) _ _) _ fun _ => rfl)
    ((State.onTurn_of_turn turn _).trans (State.readBuf_of_dma dma _ _ _ _ _ _))

end

/-! ### Tests of the outputs (R459, R460) -/

/-- The last 10 µs of a test pulse of output j are judged. -/
def State.markTest (s : State) (j : Nat) (low : Bool) (a : Nat) : State :=
  s.modSaf fun f => { f with testing := nput f.testing (2 * j + b2n low) a }

theorem exec_outputTest (t j : Nat) (low h l : Bool) (s : State) : exec (.outputTest t j low h l) s = act t s fun s =>
    match (if j < 4 && s.released && 2 ≤ s.mode.mode && nbit s.saf.outOn j && nbit s.saf.closed j then s.testRead j low else none) with
    | none => s
    | some a => if nget s.saf.testing (2 * j + b2n low) = a then s
      else (s.markTest j low a).iff (h != low || l != low) (·.outputFault j) := rfl

section
variable {t j : Nat} {low h l : Bool} (e : x = s.advanceTo t) (lt : j < 4) (rel : x.released = true) (outputs : 2 ≤ x.mode.mode)
  (on : nbit x.saf.outOn j = true) (closed : nbit x.saf.closed j = true)
include e lt rel outputs on closed

theorem outputTest_none (no : x.testRead j low = none) (settled : x.Settled) : exec (.outputTest t j low h l) s = .next x := by
  refine exec_settled_eq (act_settles (exec_outputTest t j low h l s) e rel) settled ?_
  simp [lt, rel, outputs, on, closed, no]

theorem outputTest_settles {a : Nat} (read : x.testRead j low = some a) : exec (.outputTest t j low h l) s =
    .next (if nget x.saf.testing (2 * j + b2n low) = a then x
      else (x.markTest j low a).iff (h != low || l != low) (·.outputFault j)).settle := by
  rw [act_settles (exec_outputTest t j low h l s) e rel]
  simp [lt, rel, outputs, on, closed, read]

end

theorem State.outputFault_first {j : Nat} (sound : nbit s.saf.outFault j = false) : s.outputFault j = (s.modSaf fun f =>
    { f with outFault := nset f.outFault j true, outOn := nset f.outOn j false, closed := nset f.closed j false }).raise 449 j :=
  if_neg (by simp [sound])

/-! ### SAF_OUT.clear (R460) -/

/-- A write to SAF_OUT clears output j's latch: its bit is set and both pins read low for two cycles. -/
def State.clears (s : State) (v : Word) (j : Nat) : Bool := bit v (28 + j) && decide (2 ≤ s.saf.cycles) &&
  !(nbit s.saf.rbH j || nbit s.saf.rbL j || nbit s.saf.rbH1 j || nbit s.saf.rbL1 j)

/-- Output j's turn in a write to SAF_OUT. -/
def State.clearTurn (v : Word) (j : Nat) (s : State) : State :=
  s.iff (s.clears v j) (·.modSaf fun f => { f with outFault := nset f.outFault j false })

theorem State.safOutClear_eq (s : State) (v : Word) : s.safOutClear v = s.forAll (List.range 4) (State.clearTurn v) := by
  unfold State.safOutClear
  congr 1
  funext j z
  unfold State.clearTurn State.clears
  generalize (nbit z.saf.rbH j || nbit z.saf.rbL j || nbit z.saf.rbH1 j || nbit z.saf.rbL1 j) = high
  rw [Bool.and_right_comm]

/-- The pins of the two last cycles, as a write to SAF_OUT judges them. -/
def Saf.pins (f : Saf) : Nat × Nat × Nat × Nat × Nat := (f.cycles, f.rbH, f.rbL, f.rbH1, f.rbL1)

/-- What a write to SAF_OUT leaves alone. -/
def State.besideClear (s : State) : (Nat × Nat × Nat × Nat × Nat) × Nat × Nat × Tbl Word × Mode :=
  (s.saf.pins, s.saf.outOn, s.saf.closed, s.regs, s.mode)

theorem State.clears_congr {u : State} (h : u.besideClear = s.besideClear) (v : Word) (j : Nat) : u.clears v j = s.clears v j := by
  simp only [State.besideClear, Saf.pins, Prod.mk_inj] at h
  obtain ⟨⟨cycles, h0, l0, h1, l1⟩, -⟩ := h
  unfold State.clears
  rw [cycles, h0, l0, h1, l1]

theorem State.clearTurn_besideClear (v : Word) (j : Nat) (s : State) : (s.clearTurn v j).besideClear = s.besideClear :=
  State.iff_frame State.besideClear _ _ _ fun _ => rfl

theorem State.clearTurn_outFault (v : Word) (i j : Nat) (s : State) :
    nbit (s.clearTurn v i).saf.outFault j = (nbit s.saf.outFault j && !(decide (j = i) && s.clears v j)) := by
  unfold State.clearTurn State.iff
  by_cases here : j = i
  · subst here
    cases clears : s.clears v j
    · simp
    · simp
  · split
    · simp [here, nbit_nset_ne _ here]
    · simp [here]

/-- A pass over outputs drops the latches of those among them whose pins were low. -/
theorem State.forAll_clearTurn_outFault (v : Word) (j : Nat) (l : List Nat) (s : State) :
    nbit (s.forAll l (State.clearTurn v)).saf.outFault j = (nbit s.saf.outFault j && !(decide (j ∈ l) && s.clears v j)) := by
  induction l generalizing s with
  | nil => simp [State.forAll]
  | cons a r ih =>
    refine (ih (s.clearTurn v a)).trans ?_
    rw [State.clearTurn_outFault, State.clears_congr (s.clearTurn_besideClear v a)]
    cases s.clears v j <;> by_cases here : j = a <;> simp [here]

theorem exec_safOutClear (t : Nat) (v : Word) (s : State) : exec (.safOutClear t v) s = act t s fun s => if s.up then s.safOutClear v else s := rfl

theorem safOutClear_runs {t : Nat} {v : Word} (e : x = s.advanceTo t) (up : x.up = true) (settled : x.Settled) :
    s.Runs (.safOutClear t v) fun u => (∀ j, j < 4 → nbit u.saf.outFault j = (nbit x.saf.outFault j && !x.clears v j)) ∧
      u.saf.outOn = x.saf.outOn ∧ u.saf.closed = x.saf.closed ∧ u.regs = x.regs ∧ u.mode = x.mode := by
  have cleared : (x.safOutClear v).Settled := by
    rw [State.safOutClear_eq]
    exact State.forAll_settled settled _ _ fun j _ still => State.iff_settled still _ _ fun _ z => State.modSaf_settled z _ fun _ => rfl
  have run := act_settles (exec_safOutClear t v s) e (State.released_of_up up)
  rw [if_pos up] at run
  refine runs_settled run cleared ?_
  rw [State.safOutClear_eq]
  have beside := State.forAll_frame State.besideClear x (List.range 4) (State.clearTurn v) (State.clearTurn_besideClear v)
  simp only [State.besideClear, Prod.mk_inj] at beside
  obtain ⟨-, outOn, closed, regs, mode⟩ := beside
  refine ⟨fun j lt => ?_, outOn, closed, regs, mode⟩
  simp [State.forAll_clearTurn_outFault, lt]

/-! ### SAF_CONFIRM (R470) -/

/-- SAF_CONFIRM takes the block. -/
def State.confirmBlock (s : State) (v : Word) : State :=
  ((s.modSaf fun f => { f with confirmed := true }).setReg .safConfirm 0 v).measure 7 (padTo 64 (le 4 v.toNat))

theorem exec_safConfirm (t : Nat) (v : Word) (s : State) : exec (.safConfirm t v) s = act t s fun s => if s.up then
    (if s.mode.mode = 2 && !s.saf.fault && s.saf.valid && s.saf.pchk = v.toNat then s.confirmBlock v else s.raise 454 0xFFFF) else s := rfl

theorem State.confirmBlock_settled (h : s.Settled) (v : Word) : (s.confirmBlock v).Settled := by
  unfold State.confirmBlock
  refine State.measure_settled ?_ _ _
  exact State.Settled.setReg (State.modSaf_settled h _ fun _ => rfl) _ _ _ _ (.inl (by decide))

theorem State.confirmBlock_seed (s : State) (v : Word) : (s.confirmBlock v).sec.otpSeed = s.sec.otpSeed :=
  State.measure_frame Sec.otpSeed (fun _ _ _ _ => rfl) _ _ _

section
variable {t : Nat} {v : Word} (e : x = s.advanceTo t) (up : x.up = true)
include e up

theorem safConfirm_runs (commission : x.mode.mode = 2) (sound : x.saf.fault = false) (valid : x.saf.valid = true)
    (check : x.saf.pchk = v.toNat) (settled : x.Settled) : s.Runs (.safConfirm t v) fun u => u.saf.confirmed = true ∧
      u.reg .safConfirm 0 = v ∧ u.sec.otpSeed = x.sec.otpSeed ∧ u.mode = x.mode ∧ u.saf.outOn = x.saf.outOn := by
  have run := act_settles (exec_safConfirm t v s) e (State.released_of_up up)
  rw [if_pos up, if_pos (by simp [commission, sound, valid, check])] at run
  exact runs_settled run (State.confirmBlock_settled settled v) ⟨rfl, State.reg_setReg_self _ _ _ _ _, x.confirmBlock_seed v, rfl, rfl⟩

theorem safConfirm_refused (refused : x.mode.mode ≠ 2 ∨ x.saf.fault = true ∨ x.saf.valid = false ∨ x.saf.pchk ≠ v.toNat) :
    exec (.safConfirm t v) s = .next (x.raise 454 0xFFFF).settle := by
  rw [act_settles (exec_safConfirm t v s) e (State.released_of_up up), if_pos up, if_neg]
  simp only [Bool.and_eq_true, decide_eq_true_eq, Bool.not_eq_true', not_and]
  rintro ⟨⟨commission, sound⟩, valid⟩ check
  simp [commission, sound, valid, check] at refused

end

/-! ### The obligation -/

/-- Settles O54: each command's equation, under its conditions. -/
theorem safetyInputsAndCommands : Obligations.SafetyInputsAndCommands := by
  refine ⟨fun s x t c i k d e => ⟨channelASilence_held e, fun rel => ⟨fun sound => ?_, fun fault settled => ?_, fun boundary lt => ⟨?_, ?_⟩,
    fun between settled => ⟨consumerWatchdog_between e rel between settled, safetyCycle_between e rel between settled⟩,
    fun turn settled => ⟨safetyPdu_held e rel turn settled, fun dma y read => ?_⟩⟩⟩,
    fun s x t j low h l e lt rel outputs on closed => ⟨outputTest_none e lt rel outputs on closed, fun a read => ⟨fun done settled => ?_,
      fun fresh y marked => ⟨fun high pins settled => ?_, fun wrong sound => ?_⟩⟩⟩,
    fun s x t v e up settled => safOutClear_runs e up settled,
    fun s x t v e up => ⟨safConfirm_runs e up, safConfirm_refused e up⟩⟩
  · rw [channelASilence_settles e rel, if_neg (by simp [sound])]
    rfl
  · exact exec_settled_eq (channelASilence_settles e rel) settled (if_pos fault)
  · intro none_ settled
    exact exec_settled_eq (consumerWatchdog_settles e rel boundary lt) settled (State.consExpire_none none_)
  · intro l last
    refine ⟨fun past => ⟨fun holds => ?_, fun free settled => ?_⟩, fun within settled => ?_⟩
    · rw [consumerWatchdog_settles e rel boundary lt, State.consExpire_past last past, State.iff, if_pos holds]
    · refine exec_settled_eq (consumerWatchdog_settles e rel boundary lt) (State.modCons_settled settled _ _) ?_
      rw [State.consExpire_past last past, State.iff, if_neg (by simp [free])]
    · exact exec_settled_eq (consumerWatchdog_settles e rel boundary lt) settled (State.consExpire_within within)
  · subst read
    exact ⟨safetyPdu_failed e rel turn settled dma, safetyPdu_waits e rel turn settled dma⟩
  · exact exec_settled_eq (outputTest_settles e lt rel outputs on closed read) settled (if_pos done)
  · refine exec_settled_eq (outputTest_settles e lt rel outputs on closed read) ?_ ?_
    · rw [marked]
      exact State.modSaf_settled settled _ fun _ => rfl
    · rw [if_neg fresh, State.iff, if_neg (by simp [high, pins]), marked]
      rfl
  · have marks : x.markTest j low a = y := marked.symm
    have still : nbit y.saf.outFault j = false := by rw [marked]; exact sound
    rw [outputTest_settles e lt rel outputs on closed read, if_neg fresh, marks, State.iff,
      if_pos (by simpa using wrong), State.outputFault_first still]

end Sys2Proof.Machine
end

section
/-! PROOFS. Temperature results: what a measurement gives, what a valid and an invalid one leave of a sensor (R493 to R498). -/

namespace Sys2Proof.Machine

variable {s x : State}

/-! ### What a measurement gives (R493 to R496) -/

theorem State.measureTemp_onDie {i : Nat} (lo : 8 ≤ i) (hi : i < 11) (c : Int) :
    s.measureTemp i (.onDie c) = some (.value (sat 16 (roundDiv (c * 128) 1000000))) := by
  simp [State.measureTemp, lo, hi]

theorem State.measureTemp_none {i : Nat} (beyond : 11 ≤ i) (m : TempIn) : s.measureTemp i m = none := by
  cases m with
  | onDie c => simp [State.measureTemp, Nat.not_lt.mpr beyond]
  | diode v1 v2 v3 => simp [State.measureTemp, show ¬i < 8 by omega]
  | ntc r => simp [State.measureTemp, show ¬i < 8 by omega]

section
variable {i : Nat} (lt : i < 8) (on : s.channelOn i = true)
include lt on

/-- A diode's voltages that cannot be right give no value. -/
theorem State.measureTemp_diode_bad {v1 v2 v3 : Int} (diode : bit (s.reg .thmChCfg i) 30 = false)
    (bad : v1 < 200000000 ∨ 950000000 < v1 ∨ 4 * (v2 - v1) ≤ v3 - v2) : s.measureTemp i (.diode v1 v2 v3) = some .invalid := by
  have used : bit (s.reg .thmChCfg i) 31 = true := on
  unfold State.measureTemp
  dsimp only
  rw [if_neg (by simp [lt, used, diode]), if_pos (by simp only [Bool.or_eq_true, decide_eq_true_eq]; omega)]

theorem State.measureTemp_diode {v1 v2 v3 : Int} (diode : bit (s.reg .thmChCfg i) 30 = false) (low : 200000000 ≤ v1) (high : v1 ≤ 950000000)
    (rising : v3 - v2 < 4 * (v2 - v1)) {eta : Nat} (ideality : eta = if s.rf .thmChPar i 15 0 = 0 then 16384 else s.rf .thmChPar i 15 0) :
    s.measureTemp i (.diode v1 v2 v3) = some (.value (sat 16 (roundDiv ((4 * (v2 - v1) - (v3 - v2)) * 16384 * 10 * 12800 -
      27315 * 128 * 3 * eta * 1194616) (3 * eta * 1194616 * 100)))) := by
  have used : bit (s.reg .thmChCfg i) 31 = true := on
  unfold State.measureTemp
  dsimp only
  rw [if_neg (by simp [lt, used, diode]), if_neg (by simp only [Bool.or_eq_true, decide_eq_true_eq]; omega), ← ideality]

variable (ntc : bit (s.reg .thmChCfg i) 30 = true)
include ntc

theorem State.measureTemp_ntc_bad {r : Nat} (bad : r < 20000 ∨ 2000000000 < r) : s.measureTemp i (.ntc r) = some .invalid := by
  have used : bit (s.reg .thmChCfg i) 31 = true := on
  unfold State.measureTemp
  dsimp only
  rw [if_neg (by simp [lt, used, ntc]), if_pos (by simpa using bad)]

/-- A thermistor without a table gives its beta-law value. -/
theorem State.measureTemp_ntc {r r0 par : Nat} {d : Int} (low : 20000 ≤ r) (high : r ≤ 2000000000) (law : bit (s.reg .thmChCfg i) 29 = false)
    (nominal : r0 = s.rf .thmChR0 i 31 12) (beta : par = s.rf .thmChPar i 15 0) (some0 : r0 ≠ 0) (someB : par ≠ 0)
    (inverse : d = 2000000 * fone / 596300000 + (lnNat r - lnNat (1000 * r0)) / par) (positive : 0 < d) :
    s.measureTemp i (.ntc r) = some (.value (fromKelvin (fdiv fone d))) := by
  have used : bit (s.reg .thmChCfg i) 31 = true := on
  unfold State.measureTemp
  dsimp only
  rw [if_neg (by simp [lt, used, ntc]), if_neg (by simp [low, high]), if_neg (by simp [law]), ← nominal, ← beta,
    if_neg (by simp [some0, someB]), ← inverse, if_neg (by omega)]

end

theorem exec_temperatureResult (t i : Nat) (m : TempIn) (s : State) : exec (.temperatureResult t i m) s = act t s fun s =>
    if !s.released then s
    else match s.measureTemp i m with
      | none => s
      | some .invalid => s.tempInvalid i
      | some (.value T) => s.tempValid i T
      | some .open_ => s.free.2.tempValid i (sx 16 s.free.1.toNat) := rfl

section
variable {t i : Nat} {m : TempIn} (e : x = s.advanceTo t) (rel : x.released = true)
include e rel

theorem temperatureResult_valid {T : Int} (value : x.measureTemp i m = some (.value T)) :
    exec (.temperatureResult t i m) s = .next (x.tempValid i T).settle := by
  rw [act_settles (exec_temperatureResult t i m s) e rel, if_neg (by simp [rel]), value]

theorem temperatureResult_invalid (invalid : x.measureTemp i m = some .invalid) :
    exec (.temperatureResult t i m) s = .next (x.tempInvalid i).settle := by
  rw [act_settles (exec_temperatureResult t i m s) e rel, if_neg (by simp [rel]), invalid]

theorem temperatureResult_none (none_ : x.measureTemp i m = none) (settled : x.Settled) : exec (.temperatureResult t i m) s = .next x := by
  refine exec_settled_eq (act_settles (exec_temperatureResult t i m s) e rel) settled ?_
  rw [if_neg (by simp [rel]), none_]

end

/-! ### What a result leaves (R496 to R498) -/

/-- What temperature results leave alone of the time and the Mill, with the sensors. -/
def State.sensorsAndRest (s : State) : Thm × Tim × Mill := (s.thm, s.tim, s.mill)

theorem State.Quiet.sensorsAndRest {u : State} (q : s.Quiet u) : u.sensorsAndRest = s.sensorsAndRest := by
  unfold State.sensorsAndRest
  rw [q.thm, q.tim, q.mill]

theorem State.iff_raise_sensorsAndRest (s : State) (c : Bool) (src idx : Nat) : (s.iff c (·.raise src idx)).sensorsAndRest = s.sensorsAndRest :=
  (State.iff_quiet (State.Quiet.refl s) c _ fun _ q => State.raise_quiet q _ _ _ _).sensorsAndRest

/-- Keeping the coefficients in force touches the converters alone. -/
theorem State.bandKeep_sensorsAndRest (s : State) : s.bandKeep.sensorsAndRest = s.sensorsAndRest := by
  unfold State.bandKeep
  refine (State.forAll_frame State.sensorsAndRest _ _ _ fun n y => ?_).trans (State.forAll_frame State.sensorsAndRest _ _ _ fun c y => ?_)
  · rfl
  · rfl

theorem State.iff_bandKeep_sensorsAndRest (s : State) (c : Bool) : (s.iff c State.bandKeep).sensorsAndRest = s.sensorsAndRest :=
  State.iff_frame State.sensorsAndRest s c _ State.bandKeep_sensorsAndRest

theorem State.sensor_of_sensorsAndRest {u : State} (h : u.sensorsAndRest = s.sensorsAndRest) (i : Nat) : u.sensor i = s.sensor i :=
  congrArg (fun r : Thm × Tim × Mill => tget (fun _ => Sensor.reset) r.1.sensors i) h

/-- The band of sensor i is b, and nothing else of the sensors, the time and the Mill differs. -/
structure State.Banded (s : State) (i b : Nat) (u : State) : Prop where
  sensor : u.sensor i = { s.sensor i with band := b }
  rest : u.tim = s.tim ∧ u.mill = s.mill

theorem State.Banded.of_same {u v : State} {i b : Nat} (h : s.Banded i b u) (same : v.sensorsAndRest = u.sensorsAndRest) : s.Banded i b v :=
  ⟨(State.sensor_of_sensorsAndRest same i).trans h.sensor,
    (congrArg (·.2.1) same).trans h.rest.1, (congrArg (·.2.2) same).trans h.rest.2⟩

theorem State.modSensor_banded {u : State} (same : u.sensorsAndRest = s.sensorsAndRest) (i b : Nat) :
    s.Banded i b (u.modSensor i fun y => { y with band := b }) := by
  refine ⟨?_, congrArg (·.2.1) same, congrArg (·.2.2) same⟩
  rw [State.sensor_modSensor_self, State.sensor_of_sensorsAndRest same]

theorem State.setBand_banded (s : State) (i b : Nat) : s.Banded i b (s.setBand i b) := by
  unfold State.setBand
  split
  · next here => exact ⟨by rw [← here], rfl, rfl⟩
  · exact (State.modSensor_banded (s.iff_bandKeep_sensorsAndRest _) i b).of_same
      (State.raise_quiet (State.Quiet.refl _) _ _ _ _).sensorsAndRest

theorem thmChCfg_steady : ∀ i < 8, eventOff (Reg.thmChCfg.addr i) = false ∧ raiseOff (Reg.thmChCfg.addr i) = false := by decide

/-- An invalid result: the sensor has no value and takes the configured band (R496). -/
theorem State.tempInvalid_runs (s : State) {i : Nat} (lt : i < 8) : ((s.tempInvalid i).sensor i).valid = false ∧
    ((s.tempInvalid i).sensor i).seen = true ∧ ((s.tempInvalid i).sensor i).band = s.rf .thmChCfg i 1 0 ∧
    (s.tempInvalid i).tim = s.tim ∧ (s.tempInvalid i).mill = s.mill := by
  unfold State.tempInvalid
  extract_lets was y z
  have raised : y.Quiet z := State.iff_quiet (State.Quiet.refl y) was _ fun _ q => State.raise_quiet q _ _ _ _
  have configured : z.rf .thmChCfg i 1 0 = s.rf .thmChCfg i 1 0 :=
    congrArg (fld · 1 0) (raised.reg _ _ _ (thmChCfg_steady i lt).1 (thmChCfg_steady i lt).2)
  obtain ⟨sensor, tim, mill⟩ := z.setBand_banded i (z.rf .thmChCfg i 1 0)
  have held : z.sensor i = { s.sensor i with valid := false, hist := [], seen := true } :=
    (State.sensor_of_sensorsAndRest raised.sensorsAndRest i).trans (s.sensor_modSensor_self i _)
  rw [sensor, held]
  exact ⟨rfl, rfl, configured, tim.trans raised.tim, mill.trans raised.mill⟩

/-- The level comparator after a temperature (R497). -/
def State.levelAfter (s : State) (i : Nat) (T : Int) : Bool :=
  if (s.sensor i).level then !decide (T < sx 16 (fld (s.reg .thmLim i) 31 16) - 128 * (fld (s.reg .thmLim i) 15 8 : Nat))
  else decide (sx 16 (fld (s.reg .thmLim i) 31 16) ≤ T)

/-- A valid result: the sensor holds it with its comparators, in some band. -/
theorem State.tempValid_runs (s : State) (i : Nat) (T : Int) : ((s.tempValid i T).sensor i).valid = true ∧
    ((s.tempValid i T).sensor i).temp = T ∧ ((s.tempValid i T).sensor i).level = s.levelAfter i T ∧
    (s.tempValid i T).tim = s.tim ∧ (s.tempValid i T).mill = s.mill := by
  unfold State.tempValid
  extract_lets q w hi hys rate level r run fast y z v b
  have same : v.sensorsAndRest = y.sensorsAndRest :=
    (State.iff_raise_sensorsAndRest z _ 545 i).trans (State.iff_raise_sensorsAndRest y _ 544 i)
  have banded : ∃ n, y.Banded i n (if q.seen then v.setBand i b
      else (v.iff (i = 9 && b != q.band) State.bandKeep).modSensor i fun y => { y with band := b }) := by
    refine ⟨b, ?_⟩
    split
    · have set := v.setBand_banded i b
      exact ⟨set.sensor.trans (by rw [State.sensor_of_sensorsAndRest same]), set.rest.1.trans (congrArg (·.2.1) same),
        set.rest.2.trans (congrArg (·.2.2) same)⟩
    · exact State.modSensor_banded ((v.iff_bandKeep_sensorsAndRest _).trans same) i b
  obtain ⟨n, sensor, tim, mill⟩ := banded
  rw [sensor, show y.sensor i = _ from s.sensor_modSensor_self i _]
  exact ⟨rfl, rfl, rfl, tim, mill⟩

/-! ### The obligation -/

/-- Settles O58: what a measurement gives by its kind, and what its result leaves of the sensor. -/
theorem temperatures : Obligations.Temperatures := by
  refine ⟨fun s x t i e rel => ⟨fun c lo hi => ?_, fun v1 v2 v3 lt on diode => ⟨fun bad => ?_, fun low high rising eta ideality => ?_⟩,
    fun r lt on ntc => ⟨fun bad => ?_, fun low high law r0 par d nominal beta some0 someB inverse positive => ?_⟩,
    fun m beyond settled => ?_⟩, fun s i lt => s.tempInvalid_runs lt, fun s i T lt => ?_⟩
  · exact temperatureResult_valid e rel (State.measureTemp_onDie lo hi c)
  · exact temperatureResult_invalid e rel (State.measureTemp_diode_bad lt on diode bad)
  · exact temperatureResult_valid e rel (State.measureTemp_diode lt on diode low high rising ideality)
  · exact temperatureResult_invalid e rel (State.measureTemp_ntc_bad lt on ntc bad)
  · exact temperatureResult_valid e rel (State.measureTemp_ntc lt on ntc low high law nominal beta some0 someB inverse positive)
  · exact temperatureResult_none e rel (State.measureTemp_none beyond m) settled
  · obtain ⟨valid, temp, level, tim, mill⟩ := s.tempValid_runs i T
    refine ⟨valid, temp, fun below => ?_, fun above => ?_, tim, mill⟩
    · rw [level, State.levelAfter, below]
      rfl
    · rw [level, State.levelAfter, above]
      rfl

end Sys2Proof.Machine
end

section
/-! PROOFS. The Watch's registers: clearing latches, forces, the interrupt, ERR_N (R478 to R480, R482). -/

namespace Sys2Proof.Machine

variable {s x y : State}

/-! ### Latches (R480) -/

/-- A clear that no raise of the same core cycle follows acts where the cause is gone. -/
theorem State.clearLatch_alone {n : Nat} (alone : s.wch.freshAt ≠ coreCycle s.clk.now ∨ ∀ e ∈ s.wch.fresh, e.src ≠ n) :
    s.clearLatch n = s.iff (s.causeGone n) fun s => (s.setRb .wchLatch (n / 32) (n % 32) false).setRf .wchCfg n 31 24 0 := by
  have none_ : (if s.wch.freshAt = coreCycle s.clk.now then s.wch.fresh.find? fun e => e.src = n else none) = none := by
    split
    · next same => simpa using alone.resolve_left (not_not.mpr same)
    · rfl
  unfold State.clearLatch
  rw [none_]

/-- A clear that raises of the same core cycle follow leaves the bit, and counts them alone where the earlier cause was gone. -/
theorem State.clearLatch_followed {n : Nat} {e : RaisedNow} (same : s.wch.freshAt = coreCycle s.clk.now)
    (found : s.wch.fresh.find? (fun e => e.src = n) = some e) :
    s.clearLatch n = s.iff (!e.was && !s.causeHolds n) fun s => s.setRf .wchCfg n 31 24 (min 255 e.n) := by
  unfold State.clearLatch
  rw [if_pos same, found]

theorem exec_wchLatchClear (t w : Nat) (v : Word) (s : State) : exec (.wchLatchClear t w v) s =
    act t s fun s => s.iff (s.up && w < 19) (·.writeLatch w v) := rfl

theorem exec_wchForce (t w : Nat) (v : Word) (s : State) : exec (.wchForce t w v) s =
    act t s fun s => s.iff (s.up && w < 19) (·.writeForce w v) := rfl

/-- A word with one bit set names one source. -/
theorem State.writeLatch_bit (s : State) (w : Nat) {b : Nat} (lt : b < 32) :
    s.writeLatch w (word (2 ^ b)) = s.iff (sourceOk s.var (32 * w + b)) (·.clearLatch (32 * w + b)) := by
  unfold State.writeLatch
  rw [bitsOf_two_pow b lt]
  rfl

theorem State.writeForce_bit (s : State) (w : Nat) {b : Nat} (lt : b < 32) : s.writeForce w (word (2 ^ b)) =
    s.iff (s.mode.mode = 2) fun s => s.raise (32 * w + b) (s.rf .wchForceIdx 0 15 0) 0 true := by
  unfold State.writeForce
  rw [bitsOf_two_pow b lt]
  rfl

section
variable {t w : Nat} (e : x = s.advanceTo t) (up : x.up = true) (word19 : w < 19)
include e up word19

theorem wchForce_idle (v : Word) (settled : x.Settled) (other : x.mode.mode ≠ 2) : exec (.wchForce t w v) s = .next x := by
  refine exec_settled_eq (act_settles (exec_wchForce t w v s) e (State.released_of_up up)) settled ?_
  rw [State.iff, if_pos (by simp [up, word19]), State.writeForce, State.iff, if_neg (by simp [other])]

variable {b n : Nat} (lt : b < 32) (source : n = 32 * w + b)
include lt source

theorem wchForce_raises (commission : x.mode.mode = 2) : exec (.wchForce t w (word (2 ^ b))) s =
    .next (x.raise n (x.rf .wchForceIdx 0 15 0) 0 true).settle := by
  subst source
  rw [act_settles (exec_wchForce t w _ s) e (State.released_of_up up), State.iff, if_pos (by simp [up, word19]), x.writeForce_bit w lt,
    State.iff, if_pos (by simp [commission])]

theorem wchLatchClear_settles : exec (.wchLatchClear t w (word (2 ^ b))) s =
    .next (x.iff (sourceOk x.var n) (·.clearLatch n)).settle := by
  subst source
  rw [act_settles (exec_wchLatchClear t w _ s) e (State.released_of_up up), State.iff, if_pos (by simp [up, word19]), x.writeLatch_bit w lt]

theorem wchLatchClear_absent (settled : x.Settled) (absent : sourceOk x.var n = false) :
    exec (.wchLatchClear t w (word (2 ^ b))) s = .next x :=
  exec_settled_eq (wchLatchClear_settles e up word19 lt source) settled (if_neg (by simp [absent]))

variable (present : sourceOk x.var n = true)
include present

theorem wchLatchClear_present : exec (.wchLatchClear t w (word (2 ^ b))) s = .next (x.clearLatch n).settle := by
  rw [wchLatchClear_settles e up word19 lt source, State.iff, if_pos present]

end

/-! ### Interrupt (R478) -/

theorem exec_wchIrqClear (t : Nat) (v : Word) (s : State) : exec (.wchIrqClear t v) s = act t s fun s => s.iff s.up (·.writeWchStatus v) := rfl

theorem exec_wchIrqEnable (t : Nat) (v : Word) (s : State) : exec (.wchIrqEnable t v) s = act t s fun s => s.iff s.up (·.writeWchCtrl v) := rfl

theorem State.signal_settled (h : s.Settled) (v : Nat) : (s.signal v).Settled := (State.signal_hostOnly (State.HostOnly.refl s) v).settled h

theorem State.modWch_settled (h : s.Settled) {f : Wch → Wch} (same : (f s.wch).batch = s.wch.batch) : (s.modWch f).Settled :=
  h.of_same same rfl rfl

theorem wchStatus_dark : Reg.wchStatus.addr < 0x26040 := by decide
theorem wchCtrl_dark : Reg.wchCtrl.addr < 0x26040 := by decide
theorem wchErrn_dark : Reg.wchErrn.addr < 0x26040 := by decide

section
variable {t c : Nat} {v : Word} (e : x = s.advanceTo t) (settled : x.Settled) (up : x.up = true)
include e up

theorem wchIrqClear_next (made : x.writeWchStatus v = y) (still : y.Settled) : exec (.wchIrqClear t v) s = .next y :=
  exec_settled_eq (act_settles (exec_wchIrqClear t v s) e (State.released_of_up up)) still ((if_pos up).trans made)

include settled

theorem wchIrqClear_none (zero : bit v 31 = false) : exec (.wchIrqClear t v) s = .next x :=
  wchIrqClear_next e up (if_neg (by simp [zero])) settled

theorem wchIrqEnable_stores (quiet : bit v 0 = false ∨ x.rb .wchStatus 0 31 = false) :
    exec (.wchIrqEnable t v) s = .next (x.setReg .wchCtrl 0 (v &&& 1)) := by
  refine exec_settled_eq (act_settles (exec_wchIrqEnable t v s) e (State.released_of_up up))
    (settled.setReg _ _ _ _ (.inl wchCtrl_dark)) ((if_pos up).trans (if_neg ?_))
  rcases quiet with off | clear
  · simp [off]
  · simp [clear]

theorem wchIrqEnable_signals (on : bit v 0 = true) (set : x.rb .wchStatus 0 31 = true) :
    exec (.wchIrqEnable t v) s = .next ((x.setReg .wchCtrl 0 (v &&& 1)).signal 16) :=
  exec_settled_eq (act_settles (exec_wchIrqEnable t v s) e (State.released_of_up up))
    (State.signal_settled (settled.setReg _ _ _ _ (.inl wchCtrl_dark)) 16) ((if_pos up).trans (if_pos (by simp [on, set])))

variable (cycle : c = coreCycle x.clk.now) (one : bit v 31 = true)
include cycle one

theorem wchIrqClear_clears (alone : x.wch.irqRaise ≠ some c) : exec (.wchIrqClear t v) s = .next (x.setRb .wchStatus 0 31 false) := by
  subst cycle
  refine wchIrqClear_next e up ?_ (State.setRb_settled settled _ _ _ _ (.inl wchStatus_dark))
  rw [State.writeWchStatus, State.iff, if_pos one, if_pos (by simpa using alone)]

variable (raised : x.wch.irqRaise = some c)
include raised

theorem wchIrqClear_keeps (rose : x.wch.irqRise = some c) : exec (.wchIrqClear t v) s = .next x := by
  subst cycle
  refine wchIrqClear_next e up ?_ settled
  rw [State.writeWchStatus, State.iff, if_pos one, if_neg (by simp [raised]), if_pos rose]

theorem wchIrqClear_signals (before : x.wch.irqRise ≠ some c) (noted : y = x.modWch fun w => { w with irqRise := some c }) :
    exec (.wchIrqClear t v) s = .next (if x.rb .wchCtrl 0 0 then y.signal 16 else y) := by
  subst cycle
  have still : y.Settled := by
    rw [noted]
    exact State.modWch_settled settled rfl
  refine wchIrqClear_next e up ?_ ?_
  · rw [State.writeWchStatus, State.iff, if_pos one, if_neg (by simp [raised]), if_neg before, ← noted, State.iff]
  · split
    · exact State.signal_settled still 16
    · exact still

end

/-! ### ERR_N (R479) -/

theorem exec_wchErrnLevel (t : Nat) (v : Word) (s : State) : exec (.wchErrnLevel t v) s = act t s fun s => s.iff s.up (·.writeErrn v) := rfl

theorem exec_errnPulseEnd (t : Nat) (s : State) : exec (.errnPulseEnd t) s = act t s fun s =>
    match s.wch.pulseEnd with
    | some e => s.iff (e ≤ s.clk.now) (·.modWch fun w => { w with pulseEnd := none })
    | none => s := rfl

/-- A written bit reads back. -/
theorem State.rb_setRb_value (s : State) (r : Reg) (i : Nat) {n : Nat} (lt : n < 32) (b : Bool) : (s.setRb r i n b).rb r i n = b := by
  cases b with
  | false => exact s.rb_setRb_clear r i lt
  | true => exact s.rb_setRb r i n lt

theorem wchErrnLevel_runs {t : Nat} {v : Word} (e : x = s.advanceTo t) (settled : x.Settled) (up : x.up = true) :
    s.Runs (.wchErrnLevel t v) fun u => u.rb .wchErrn 0 31 = bit v 31 ∧
      (x.rwlShut = true → u.rf .wchErrn 0 7 0 = x.rf .wchErrn 0 7 0) ∧
      (x.rwlShut = false → u.rf .wchErrn 0 7 0 = max 10 (fld v 7 0)) ∧ u.mode = x.mode ∧ u.wch = x.wch := by
  have level : (x.setRb .wchErrn 0 31 (bit v 31)).Settled := State.setRb_settled settled _ _ _ _ (.inl wchErrn_dark)
  have run : exec (.wchErrnLevel t v) s = .next (x.writeErrn v).settle := by
    rw [act_settles (exec_wchErrnLevel t v s) e (State.released_of_up up), State.iff, if_pos up]
  unfold State.writeErrn State.iff at run
  cases shut : x.rwlShut with
  | true =>
    rw [if_neg (by simp [shut])] at run
    refine runs_settled run level ⟨x.rb_setRb_value _ _ (by decide) _, fun _ => ?_, fun h => absurd h (by decide), State.setRb_mode _ _ _ _ _, State.setRb_wch _ _ _ _ _⟩
    exact x.rf_setRf_below _ _ _ _ _ _ _ (by decide) (by decide)
  | false =>
    rw [if_pos (by simp [shut])] at run
    refine runs_settled run (State.setRf_settled level _ _ _ _ _ (.inl wchErrn_dark)) ⟨?_, fun h => absurd h (by decide), fun _ => ?_,
      (State.setRf_mode _ _ _ _ _ _).trans (State.setRb_mode _ _ _ _ _), (State.setRf_wch _ _ _ _ _ _).trans (State.setRb_wch _ _ _ _ _)⟩
    · rw [State.rb, bit_fld]
      have above := (x.setRb .wchErrn 0 31 (bit v 31)).rf_setRf_above .wchErrn 0 7 0 (max 10 (fld v 7 0)) 31 31 (by decide) (by decide) (by decide)
      rw [show fld (((x.setRb .wchErrn 0 31 (bit v 31)).setRf .wchErrn 0 7 0 (max 10 (fld v 7 0))).reg .wchErrn 0) 31 31 = _ from above]
      exact (bit_fld _ _).symm.trans (x.rb_setRb_value .wchErrn 0 (by decide) _)
    · rw [State.rf_setRf_self _ _ _ _ _ _ (by decide) (by decide)]
      have lt := fld_lt v 7 0
      exact Nat.mod_eq_of_lt (by omega)

section
variable {t : Nat} (e : x = s.advanceTo t) (settled : x.Settled) (up : x.up = true)
include e settled up

theorem errnPulseEnd_none (none_ : x.wch.pulseEnd = none) : exec (.errnPulseEnd t) s = .next x := by
  refine exec_settled_eq (act_settles (exec_errnPulseEnd t s) e (State.released_of_up up)) settled ?_
  rw [none_]

variable {f : Nat} (pulse : x.wch.pulseEnd = some f)
include pulse

theorem errnPulseEnd_ends (past : f ≤ x.clk.now) : exec (.errnPulseEnd t) s = .next (x.modWch fun w => { w with pulseEnd := none }) := by
  refine exec_settled_eq (act_settles (exec_errnPulseEnd t s) e (State.released_of_up up)) (State.modWch_settled settled rfl) ?_
  rw [pulse]
  exact if_pos (by simpa using past)

theorem errnPulseEnd_early (within : x.clk.now < f) : exec (.errnPulseEnd t) s = .next x := by
  refine exec_settled_eq (act_settles (exec_errnPulseEnd t s) e (State.released_of_up up)) settled ?_
  rw [pulse]
  exact if_neg (by simpa using within)

end

/-! ### The obligation -/

/-- Settles O56: each write's equation, by whether a raise of the same core cycle follows it. -/
theorem watchRegisters : Obligations.WatchRegisters := by
  intro s x t w b n c v e settled up source cycle
  refine ⟨fun word19 lt => ⟨wchLatchClear_absent e up word19 lt source settled, fun present alone => ?_, fun r present same found => ?_,
      wchForce_raises e up word19 lt source, wchForce_idle e up word19 v settled⟩,
    wchIrqClear_clears e settled up cycle, wchIrqClear_keeps e settled up cycle, fun one raised before y =>
      wchIrqClear_signals e settled up cycle one raised before, wchIrqClear_none e settled up, wchIrqEnable_stores e settled up,
    wchIrqEnable_signals e settled up, wchErrnLevel_runs e settled up, fun f pulse => ⟨errnPulseEnd_ends e settled up pulse,
      errnPulseEnd_early e settled up pulse⟩, errnPulseEnd_none e settled up⟩
  · have run := wchLatchClear_present e up word19 lt source present
    rw [State.clearLatch_alone (by rw [← cycle]; exact alone)] at run
    refine ⟨fun gone => ?_, fun stands => ?_⟩
    · rw [run, State.iff, if_pos gone]
    · exact exec_settled_eq run settled (if_neg (by simp [stands]))
  · have run := wchLatchClear_present e up word19 lt source present
    rw [State.clearLatch_followed (by rw [← cycle]; exact same) found] at run
    refine ⟨fun new gone => ?_, fun stands => ?_⟩
    · rw [run, State.iff, if_pos (by simp [new, gone])]
    · refine exec_settled_eq run settled (if_neg ?_)
      rcases stands with was | holds
      · simp [was]
      · simp [holds]

end Sys2Proof.Machine
end

section
/-! PROOFS. What raises and records leave of the Parish book: its slots and whether it is ready or failed (R473 to R476, R484 to R486). -/

namespace Sys2Proof.Machine

variable {s : State}

/-- The book's slots, its bad ones and their count, and whether it is ready and has failed. -/
def Book.store (k : Book) : Tbl Bytes × List Nat × Nat × Bool × Bool := (k.slots, k.bad, k.badCount, k.ready, k.failed)

theorem Book.store_eq_iff {k b : Book} : k.store = b.store ↔
    k.slots = b.slots ∧ k.bad = b.bad ∧ k.badCount = b.badCount ∧ k.ready = b.ready ∧ k.failed = b.failed := by
  simp only [Book.store, Prod.mk_inj]

/-! ### A raise leaves the book alone -/

theorem State.countRaise_book (s : State) (src : Nat) (f : Bool) : (s.countRaise src f).book = s.book := by
  unfold State.countRaise
  rw [State.bump_book]
  refine State.iff_frame State.book s _ _ fun z => ?_
  split
  · exact State.setRb_book z _ _ _ _
  · rfl

theorem State.latchRaise_book (s : State) (src : Nat) : (s.latchRaise src).book = s.book := by
  simp [State.latchRaise]

theorem State.recordRaise_book (s : State) (src sev idx w1 : Nat) (f : Bool) : (s.recordRaise src sev idx w1 f).book = s.book := by
  simp [State.recordRaise, State.record]

theorem State.alarmRaise_book (s : State) (src sev : Nat) : (s.alarmRaise src sev).book = s.book := by
  have pulsed : (s.iff (4 ≤ sev || s.rb .wchCfg src 8) State.errPulse).book = s.book :=
    State.iff_frame State.book s _ _ fun z => State.modWch_book z _
  unfold State.alarmRaise
  dsimp only
  split
  · rw [State.iff_frame State.book _ _ _ fun z => (State.signal_hostOnly (State.HostOnly.refl z) 16).book, State.setRb_book,
      State.modWch_book, pulsed]
  · exact pulsed

theorem State.raiseCore_book (s : State) (src idx w1 : Nat) (f : Bool) : (s.raiseCore src idx w1 f).book = s.book := by
  have counted : ((s.freshRaise src).countRaise src f).book = s.book :=
    (State.countRaise_book _ src f).trans (by simp [State.freshRaise])
  rcases s.raiseCore_cases src idx w1 f with same | same | ⟨sev, same⟩
  · rw [same]
  · rw [same, counted]
  · rw [same, State.alarmRaise_book, State.recordRaise_book, State.latchRaise_book, counted]

theorem State.watchStop_book (s : State) (src : Nat) : (s.watchStop src).book = s.book := by
  unfold State.watchStop
  dsimp only
  split <;> rfl

/-- A source that names no health channel is raised without a retirement (R476). -/
theorem State.raise_unchanneled {src : Nat} (s : State) (idx w1 : Nat) (f : Bool) (nowhere : degradeChannel src idx = none) :
    s.raise src idx w1 f = s.raise0 src idx w1 f := by
  unfold State.raise
  rw [nowhere]
  exact ite_self _

theorem State.raise_book {src : Nat} (s : State) (idx w1 : Nat) (f : Bool) (nowhere : degradeChannel src idx = none) :
    (s.raise src idx w1 f).book = s.book := by
  rw [s.raise_unchanneled idx w1 f nowhere]
  exact (State.watchStop_book _ src).trans (s.raiseCore_book src idx w1 f)

/-! ### A record leaves the slots alone -/

theorem State.limit_store (s : State) (r : RaiseRec) : (s.limit r).2.book.store = s.book.store := by
  unfold State.limit
  dsimp only
  repeat' split
  all_goals rfl

theorem State.recordSeq_store (s : State) : s.recordSeq.2.book.store = s.book.store := by
  unfold State.recordSeq State.free
  split <;> rfl

theorem State.sendRecord_store (s : State) (r : RaiseRec) : (s.sendRecord r).book.store = s.book.store := by
  unfold State.sendRecord
  split
  next y limited =>
  have passed : y.book.store = s.book.store := (congrArg (fun p : Bool × State => p.2.book.store) limited).symm.trans (s.limit_store r)
  split
  · exact passed
  · split
    next q z numbered =>
    have sequenced : z.book.store = s.book.store :=
      (congrArg (fun p : Nat × State => p.2.book.store) numbered).symm.trans ((y.recordSeq_store).trans passed)
    extract_lets bytes u
    have sent : u.book.store = s.book.store :=
      (congrArg Book.store (State.emitRecord_hostOnly (State.HostOnly.refl z) 7 0x01 bytes).book).trans sequenced
    split
    · exact sent
    · split
      · exact sent
      · rw [State.watchStop_book, State.raiseCore_book]
        exact sent

theorem State.sendRecords_store (l : List RaiseRec) (s : State) : (l.foldl (fun s r => s.sendRecord r) s).book.store = s.book.store :=
  foldl_frame (·.book.store) l State.sendRecord_store s

theorem State.sendBatch_store (s : State) : s.sendBatch.book.store = s.book.store :=
  (State.sendRecords_store _ _).trans rfl

theorem State.showTrip_book (s : State) : s.showTrip.book = s.book := by
  unfold State.showTrip
  dsimp only
  split <;> rfl

/-- Sending a step's records leaves the slots, and whether the book is ready and has failed. -/
theorem State.settle_store (s : State) : s.settle.book.store = s.book.store := by
  unfold State.settle
  rw [State.showTrip_book, State.sendBatch_store, State.sendBatch_store]

/-! ### The book fails (R489) -/

theorem State.lastWord_store (s : State) (src aon w1 : Nat) : (s.lastWord src aon w1).book.store = s.book.store := by
  unfold State.lastWord
  dsimp only
  rw [State.modBook_book]
  split <;> rfl

theorem State.free_book (s : State) : s.free.2.book = s.book := rfl

/-- The book takes no more records, and its failure is raised. -/
def State.failBook (s : State) : State := (s.modBook fun b => { b with failed := true, queue := [] }).raise 512 0xFFFF

theorem State.bookFail_eq (s : State) :
    s.bookFail = s.failBook.free.2.lastWord 512 s.failBook.free.1.toNat s.failBook.free.2.bkStatusWord := rfl

theorem State.bookFail_store (s : State) : s.bookFail.book.store = { s.book with failed := true }.store := by
  have book : s.failBook.book = { s.book with failed := true, queue := [] } := by
    rw [State.failBook, State.raise_book (src := 512) _ 0xFFFF 0 false rfl, State.modBook_book]
  rw [State.bookFail_eq, State.lastWord_store, State.free_book, book]
  rfl

theorem State.bookFail_quiet (s : State) : s.Quiet s.bookFail := by
  rw [State.bookFail_eq]
  exact State.lastWord_quiet (State.free_quiet (State.raise_quiet (State.modBook_quiet (State.Quiet.refl s) _) _ _ _ _)) _ _ _

end Sys2Proof.Machine
end

section
/-! PROOFS. The Parish book: its writes, its scan, refills, reading and clearing it (R484, R485, R487 to R489, R492). -/

namespace Sys2Proof.Machine

variable {s x : State}

/-! ### Writing (R485, R488) -/

/-- The head of the queue is in slot i. -/
def State.putRecord (s : State) (i : Nat) (b : Bytes) (rest : List Bytes) : State := s.modBook fun k =>
  { k with queue := rest, slots := tput (fun _ => []) k.slots i b, lastBad := k.curBad, curBad := false }

/-- The head of the queue is lost. -/
def State.dropRecord (s : State) (rest : List Bytes) : State := s.modBook fun k =>
  { k with queue := rest, dropped := satAdd 0xFFFF k.dropped 1, lastBad := k.curBad, curBad := false }

/-- Slot i is bad. -/
def State.markBad (s : State) (i : Nat) : State := s.modBook fun k =>
  { k with slots := tdel i k.slots, bad := k.bad ++ [i], badCount := satAdd 255 k.badCount 1, curBad := true }

/-- A bad slot fails the book after a bad one, and where three others are bad. -/
def State.failAtFourth (s : State) (two : Bool) : State := s.iff (two || 4 ≤ s.book.bad.length) State.bookFail

/-- Slot i is bad, which is raised and may fail the book. -/
def State.badSlot (s : State) (i : Nat) : State :=
  State.failAtFourth ((s.modBook fun k =>
    { k with slots := tdel i k.slots, bad := k.bad ++ [i], badCount := satAdd 255 k.badCount 1, curBad := true }).raise 513 0xFFFF) s.book.lastBad

theorem State.badSlot_eq (s : State) (i : Nat) : s.badSlot i = ((s.markBad i).raise 513 0xFFFF).failAtFourth s.book.lastBad := rfl

/-- The head of the queue is written, its first or its second attempt good. -/
def State.writeHead (s : State) (b : Bytes) (rest : List Bytes) (p q : Bool) : State :=
  match s.book.slotFor b with
  | none => (s.dropRecord rest).raise 514 0xFFFF
  | some i => if p || q then s.putRecord i b rest else s.badSlot i

theorem exec_bookWrite (t : Nat) (p q : Bool) (s : State) : exec (.bookWrite t p q) s = actIn 7 t s fun s =>
    match s.book.queue with
    | [] => s
    | b :: rest => if !(s.up && s.book.ready && !s.book.failed) then s else s.writeHead b rest p q := rfl

theorem State.markBad_raise_book (s : State) (i : Nat) : ((s.markBad i).raise 513 0xFFFF).book = (s.markBad i).book :=
  State.raise_book (src := 513) _ 0xFFFF 0 false rfl

theorem State.markBad_raise_quiet (s : State) (i : Nat) : ((s.markBad i).raise 513 0xFFFF).Quiet (s.badSlot i) := by
  rw [State.badSlot_eq]
  unfold State.failAtFourth State.iff
  split
  · exact State.bookFail_quiet _
  · exact State.Quiet.refl _

/-- What a bad slot leaves of the book: it is out of use, and the book has failed where it is the second in a row or the fourth. -/
theorem State.badSlot_store (s : State) (i : Nat) : (s.badSlot i).book.store = { (s.markBad i).book with
    failed := s.book.failed || s.book.lastBad || decide (3 ≤ s.book.bad.length) }.store := by
  have fourth : decide (4 ≤ (s.markBad i).book.bad.length) = decide (3 ≤ s.book.bad.length) := by
    simp [State.markBad]
  rw [State.badSlot_eq, State.failAtFourth, State.markBad_raise_book, fourth, State.iff]
  split
  · next fails =>
    rw [State.bookFail_store, State.markBad_raise_book, Bool.or_assoc, fails, Bool.or_true]
  · next sound =>
    rw [State.markBad_raise_book, Bool.or_assoc, Bool.eq_false_iff.mpr sound, Bool.or_false]
    rfl

section
variable {t : Nat} (e : x = (s.advanceTo t).openGate 7) (up : x.up = true)
include e up

theorem bookWrite_idle (settled : x.Settled) (idle : x.book.queue = [] ∨ x.book.ready = false ∨ x.book.failed = true) (p q : Bool) :
    exec (.bookWrite t p q) s = .next x := by
  refine exec_settled_eq (actIn_settles (exec_bookWrite t p q s) e (State.released_of_up up)) settled ?_
  cases queue : x.book.queue with
  | nil => rfl
  | cons b rest =>
    dsimp only
    rw [if_pos]
    simpa [up, queue, or_iff_not_imp_left] using idle

variable {b : Bytes} {rest : List Bytes} (head : x.book.queue = b :: rest) (ready : x.book.ready = true) (sound : x.book.failed = false)
include head ready sound

theorem bookWrite_settles (p q : Bool) : exec (.bookWrite t p q) s = .next (x.writeHead b rest p q).settle := by
  rw [actIn_settles (exec_bookWrite t p q s) e (State.released_of_up up), head]
  dsimp only
  rw [if_neg (by simp [up, ready, sound])]

theorem bookWrite_full (none_ : x.book.slotFor b = none) (p q : Bool) :
    exec (.bookWrite t p q) s = .next ((x.dropRecord rest).raise 514 0xFFFF).settle := by
  rw [bookWrite_settles e up head ready sound, State.writeHead, none_]

variable {i : Nat} (slot : x.book.slotFor b = some i)
include slot

theorem bookWrite_puts (settled : x.Settled) {p q : Bool} (good : p = true ∨ q = true) :
    exec (.bookWrite t p q) s = .next (x.putRecord i b rest) := by
  refine exec_settled_eq (bookWrite_settles e up head ready sound p q) (State.modBook_settled settled _) ?_
  rw [State.writeHead, slot]
  exact if_pos (by simpa using good)

theorem bookWrite_bad : s.Runs (.bookWrite t false false) fun u => u.book.bad = x.book.bad ++ [i] ∧
    u.book.badCount = satAdd 255 x.book.badCount 1 ∧ u.book.slots = tdel i x.book.slots ∧
    (u.book.failed = true ↔ x.book.lastBad = true ∨ 3 ≤ x.book.bad.length) ∧
    (sourceOk x.var 513 = true → x.severity 513 ≠ 0 → u.latched 513 = true) := by
  have run := bookWrite_settles e up head ready sound false false
  rw [State.writeHead, slot] at run
  dsimp only at run
  rw [if_neg (by simp)] at run
  refine ⟨_, run, ?_⟩
  have store : (x.badSlot i).settle.book.store = _ := (State.settle_store _).trans (x.badSlot_store i)
  obtain ⟨slots, bad, count, -, failed⟩ := Book.store_eq_iff.mp store
  refine ⟨bad, count, slots, ?_, ?_⟩
  · rw [show (x.badSlot i).settle.book.failed = _ from failed, sound]
    simp
  · exact (State.raise_then 513 0xFFFF 0 false
      ((x.markBad_raise_quiet i).trans (State.settle_quiet (State.Quiet.refl _)))).2

end

/-! ### The scan (R487) -/

/-- The slots that the scan lost are empty. -/
def State.loseSlots (s : State) (lost : List Nat) : State := s.modBook fun k =>
  { k with slots := k.slots.filter (fun e => !lost.contains e.1), badCount := satAdd 255 k.badCount lost.length }

/-- The book is ready: the last words that were not imported are, after the boot record, and the records that waited get their numbers. -/
def State.readyBook (s : State) : State :=
  let y := s.modBook fun k => { k with ready := true, queue := [], nextSeq := k.slots.foldl (fun (m : Nat) e => max m (recSeq e.2)) 0 + 1 }
  ((s.book.lastWords.filter fun w => !w.imported).foldl (fun (s : State) w => s.importOne w.bytes) y.bootRecord).modBook fun k =>
    { k with lw := k.lw.map (fun w => { w with imported := true }),
             queue := k.queue ++ (List.range s.book.queue.length).map (fun (i : Nat) => renumber (nth s.book.queue i []) (k.nextSeq + i)),
             nextSeq := k.nextSeq + s.book.queue.length }

/-- The slots lost are raised. -/
def State.scanned (s : State) (lost : List Nat) : State := (s.loseSlots lost).iff (!lost.isEmpty) (·.raise 513 0xFFFF)

/-- A scan ends with the book ready, or failed where 16 of its records in a row failed. -/
def State.scanEnd (s : State) (n : Nat) : State := if 16 ≤ n then s.bookFail else s.readyBook

theorem exec_bookScan (t : Nat) (l : List Nat) (n : Nat) (s : State) : exec (.bookScan t l n) s = actIn 7 t s fun s =>
    if !(s.up && !s.book.ready && !s.book.failed) then s else (s.scanned (l.filter fun i => i < 65536)).scanEnd n := by
  show execBookScan t l n s = _
  unfold execBookScan
  refine congrArg (actIn 7 t s) (funext fun s => ?_)
  exact congrArg (fun y : State => if !(s.up && !s.book.ready && !s.book.failed) then s else y.scanEnd n)
    (rfl : (s.modBook fun k =>
        { k with slots := k.slots.filter (fun e => !(l.filter fun i => i < 65536).contains e.1),
                 badCount := satAdd 255 k.badCount (l.filter fun i => i < 65536).length }).iff
          (!(l.filter fun i => i < 65536).isEmpty) (·.raise 513 0xFFFF) = s.scanned (l.filter fun i => i < 65536))

theorem State.scanned_quiet (s : State) (lost : List Nat) : s.Quiet (s.scanned lost) :=
  State.iff_quiet (State.modBook_quiet (State.Quiet.refl s) _) _ _ fun _ q => State.raise_quiet q _ _ _ _

theorem State.scanned_book (s : State) (lost : List Nat) : (s.scanned lost).book = (s.loseSlots lost).book := by
  cases some_ : !lost.isEmpty with
  | true =>
    have raised : s.scanned lost = (s.loseSlots lost).raise 513 0xFFFF := if_pos some_
    rw [raised, State.raise_book (src := 513) _ 0xFFFF 0 false rfl]
  | false =>
    have same : s.scanned lost = s.loseSlots lost := if_neg (by simp [some_])
    rw [same]

theorem State.importOne_quiet (s : State) (b : Bytes) : s.Quiet (s.importOne b) := by
  unfold State.importOne
  exact State.iff_quiet (State.sendRecord_quiet (State.Quiet.refl s) _) _ _ fun _ q => State.raise_quiet q _ _ _ _

/-- A last word that is raised again is a clock's or the temperature's, which names no health channel. -/
theorem State.importOne_store (s : State) (b : Bytes) : (s.importOne b).book.store = s.book.store := by
  unfold State.importOne
  extract_lets n y
  have sent : y.book.store = s.book.store := State.sendRecord_store s _
  unfold State.iff
  split
  · next which =>
    have nowhere : degradeChannel n 0xFFFF = none := by
      simp only [Bool.or_eq_true, decide_eq_true_eq] at which
      rcases which with (here | here) | here <;> rw [here] <;> rfl
    rw [y.raise_book 0xFFFF 0 false nowhere]
    exact sent
  · exact sent

theorem State.importAll_store (l : List LastWord) (s : State) :
    (l.foldl (fun (s : State) w => s.importOne w.bytes) s).book.store = s.book.store :=
  foldl_frame (·.book.store) l (fun y w => y.importOne_store w.bytes) s

theorem State.readyBook_store (s : State) : s.readyBook.book.store = { s.book with ready := true }.store := by
  unfold State.readyBook
  extract_lets y
  exact ((State.importAll_store _ _).trans (State.sendRecord_store y _)).trans rfl

theorem State.readyBook_quiet (s : State) : s.Quiet s.readyBook := by
  unfold State.readyBook
  extract_lets y
  refine State.modBook_quiet ?_ _
  refine qfoldl_keeps _ ?_ fun z w q => q.trans (z.importOne_quiet w.bytes)
  exact State.sendRecord_quiet (State.modBook_quiet (State.Quiet.refl s) _) _

section
variable {t : Nat} (e : x = (s.advanceTo t).openGate 7) (up : x.up = true)
include e up

theorem bookScan_idle (settled : x.Settled) (idle : x.book.ready = true ∨ x.book.failed = true) (l : List Nat) (n : Nat) :
    exec (.bookScan t l n) s = .next x := by
  refine exec_settled_eq (actIn_settles (exec_bookScan t l n s) e (State.released_of_up up)) settled (if_pos ?_)
  rcases idle with ready | failed
  · simp [ready]
  · simp [failed]

theorem bookScan_runs (unready : x.book.ready = false) (sound : x.book.failed = false) (l : List Nat) (n : Nat) :
    s.Runs (.bookScan t l n) fun u =>
      u.book.slots = x.book.slots.filter (fun e => !(l.filter fun i => i < 65536).contains e.1) ∧
      (n < 16 → u.book.ready = true ∧ u.book.failed = false) ∧ (16 ≤ n → u.book.ready = false ∧ u.book.failed = true) ∧
      u.tim = x.tim ∧ u.mill = x.mill := by
  have run := actIn_settles (exec_bookScan t l n s) e (State.released_of_up up)
  rw [if_neg (by simp [up, unready, sound])] at run
  refine ⟨_, run, ?_⟩
  generalize l.filter (fun i => decide (i < 65536)) = lost
  have scan := x.scanned_book lost
  unfold State.scanEnd
  split
  · next long =>
    have store := (State.settle_store _).trans (State.bookFail_store (x.scanned lost))
    rw [scan] at store
    obtain ⟨slots, -, -, ready, failed⟩ := Book.store_eq_iff.mp store
    have quiet := ((x.scanned_quiet lost).trans (State.bookFail_quiet _)).trans (State.settle_quiet (State.Quiet.refl _))
    exact ⟨slots, fun short => absurd long (by omega), fun _ => ⟨ready.trans unready, failed⟩, quiet.tim, quiet.mill⟩
  · next short =>
    have store := (State.settle_store _).trans (State.readyBook_store (x.scanned lost))
    rw [scan] at store
    obtain ⟨slots, -, -, ready, failed⟩ := Book.store_eq_iff.mp store
    have quiet := ((x.scanned_quiet lost).trans (State.readyBook_quiet _)).trans (State.settle_quiet (State.Quiet.refl _))
    exact ⟨slots, fun _ => ⟨ready, failed.trans sound⟩, fun long => absurd long short, quiet.tim, quiet.mill⟩

end

/-! ### Refills (R484) -/

/-- The summary that a bucket gives at a refill is sent. -/
def State.summarize (s : State) (x : Bucket × Option (Nat × Nat)) : State :=
  match x.2 with
  | some (n, sev) => s.record ⟨x.1.src, sev, 4, x.1.index, s.mode.mode, s.clk.now, s.netNow, 0, 0, n⟩
  | none => s

/-- The buckets after a refill, with their summaries. -/
def State.refills (s : State) : List (Bucket × Option (Nat × Nat)) := s.book.buckets.map fun b => b.refill s.burst

/-- The buckets are refilled. -/
def State.refill (s : State) : State := s.modBook fun k =>
  { k with refillAt := s.clk.now + 1, buckets := (s.refills.map fun x => x.1).filter (fun b => b.full < 256), overflow := (s.book.overflow.refill s.burst).1 }

theorem exec_rateRefill (t : Nat) (s : State) : exec (.rateRefill t) s = actIn 7 t s fun s =>
    if !(s.up && s.clk.now % (max 1 (s.rf .bkRate 0 31 16) * 1000000) = 0 && s.book.refillAt != s.clk.now + 1) then s
    else (s.refills ++ [s.book.overflow.refill s.burst]).foldl State.summarize s.refill := rfl

/-- A bucket that held nothing back gives no summary. -/
theorem Bucket.refill_silent (b : Bucket) (burst : Nat) (silent : b.supp = 0) : (b.refill burst).2 = none := by
  unfold Bucket.refill
  split
  · rfl
  · rw [if_neg (by simp [silent])]

theorem State.summarize_silent (s : State) (x : Bucket × Option (Nat × Nat)) (silent : x.2 = none) : s.summarize x = s := by
  rw [State.summarize, silent]

theorem State.summarizeAll_silent (l : List (Bucket × Option (Nat × Nat))) (silent : ∀ x ∈ l, x.2 = none) (s : State) :
    l.foldl State.summarize s = s := by
  induction l with
  | nil => rfl
  | cons x l ih =>
    rw [List.foldl_cons, s.summarize_silent x (silent x List.mem_cons_self)]
    exact ih fun y here => silent y (List.mem_cons_of_mem x here)

section
variable {t : Nat} (e : x = (s.advanceTo t).openGate 7) (up : x.up = true) (settled : x.Settled)
include e up settled

theorem rateRefill_refills (due : x.clk.now % (max 1 (x.rf .bkRate 0 31 16) * 1000000) = 0) (fresh : x.book.refillAt ≠ x.clk.now + 1)
    (rest : x.book.overflow.supp = 0) (silent : ∀ b ∈ x.book.buckets, b.supp = 0) : exec (.rateRefill t) s = .next (x.modBook fun k =>
      { k with refillAt := x.clk.now + 1, buckets := (k.buckets.map fun b => (b.refill x.burst).1).filter (fun b => b.full < 256),
               overflow := (k.overflow.refill x.burst).1 }) := by
  refine exec_settled_eq (actIn_settles (exec_rateRefill t s) e (State.released_of_up up)) (State.modBook_settled settled _) ?_
  have none_ : ∀ y ∈ x.refills ++ [x.book.overflow.refill x.burst], y.2 = none := by
    intro y here
    rcases List.mem_append.mp here with one | last
    · obtain ⟨b, held, rfl⟩ := List.mem_map.mp one
      exact b.refill_silent _ (silent b held)
    · rw [List.mem_singleton.mp last]
      exact Bucket.refill_silent _ _ rest
  rw [if_neg (by simp [up, due, fresh]), State.summarizeAll_silent _ none_, State.refill, State.refills, List.map_map]
  rfl

theorem rateRefill_idle (idle : x.clk.now % (max 1 (x.rf .bkRate 0 31 16) * 1000000) ≠ 0 ∨ x.book.refillAt = x.clk.now + 1) :
    exec (.rateRefill t) s = .next x := by
  refine exec_settled_eq (actIn_settles (exec_rateRefill t s) e (State.released_of_up up)) settled (if_pos ?_)
  rcases idle with early | done
  · simp [early]
  · simp [done]

end

/-! ### Reading and clearing (R492) -/

/-- The records of the book from number n on, in their order. -/
def State.recordsFrom (s : State) (n : Nat) : List Bytes :=
  sortBy (fun (a b : Bytes) => decide (recSeq a < recSeq b)) ((s.book.slots.map fun e => e.2).filter fun b => decide (n ≤ recSeq b))

/-- The number after the last of the records that fit, of m. -/
def State.nextRecord (s : State) (l : List Bytes) (m : Nat) : Nat :=
  if l.length ≤ m then s.book.nextSeq else ((l.take m).getLast?.map fun b => recSeq b + 1).getD s.book.nextSeq

/-- What BOOK_READ does. -/
def State.bookRead (i k : Nat) (d : Desc) (s : State) : State :=
  if d.len < 64 then s.ends i k 1 64
  else if s.book.failed then s.ends i k 2
  else if !s.book.ready then s.ends i k 3
  else s.bufEnd i k d.buf ((s.recordsFrom (d.arg + 2 ^ 32 * d.arg2)).take (d.len / 64)).flatten
    ⟨0, s.nextRecord (s.recordsFrom (d.arg + 2 ^ 32 * d.arg2)) (d.len / 64) % 2 ^ 32,
      64 * ((s.recordsFrom (d.arg + 2 ^ 32 * d.arg2)).take (d.len / 64)).length⟩

theorem exec_bookRead (t : Nat) (s : State) :
    exec (.bookRead t) s = actIn 7 t s fun s => s.iff s.up (·.onTurn 0 0x28 State.bookRead) := rfl

/-- The book is empty, and its last words too where they are asked. -/
def State.emptyBook (s : State) (words : Bool) : State :=
  State.iff (s.modBook fun b => { b with slots := [] }) words (·.modBook fun b => { b with lw := [], lwNext := 0 })

/-- A book is good again, or failed, after it was cleared. -/
def State.clearedBook (s : State) (pass : Bool) : State :=
  if pass then s.modBook fun b => { b with failed := false, ready := true, lastBad := false, curBad := false }
  else s.iff (!s.book.failed) State.bookFail

/-- What BOOK_CLEAR does. -/
def State.bookClear (pass : Bool) (i k : Nat) (d : Desc) (s : State) : State :=
  if s.mode.mode != 1 then s.ends i k 2
  else if !s.book.ready && !s.book.failed then s.ends i k 3
  else
    let y := (s.emptyBook (nbit d.arg 0)).clearedBook pass
    y.bootRecord.ends i k 0 (b2n y.book.failed)

theorem exec_bookClear (t : Nat) (pass : Bool) (s : State) :
    exec (.bookClear t pass) s = actIn 7 t s fun s => s.iff s.up (·.onTurn 0 0x29 (State.bookClear pass)) := rfl

theorem State.nextRecord_eq (s : State) (l : List Bytes) {m : Nat} (some_ : 1 ≤ m) :
    s.nextRecord l m = if l.length ≤ m then s.book.nextSeq else recSeq (nth l (m - 1) []) + 1 := by
  unfold State.nextRecord
  split
  · rfl
  · next more =>
    have here : m - 1 < l.length := by omega
    rw [List.getLast?_take, if_neg (by omega), nth, List.getElem?_eq_getElem here]
    rfl

theorem State.bufEnd_held (held : s.canDma = false) (i k a : Nat) (b : Bytes) (c : Compl) :
    s.bufEnd i k a b c = (s.holdAct i k).modHostIf fun h => { h with bufs := h.bufs ++ [⟨i, k, a, b, c⟩] } := by
  simp [State.bufEnd, held]

theorem State.bufEnd_running {i : Nat} (dma : s.canDma = true) (running : (s.ring i).state = 1) (k a : Nat) (b : Bytes) (c : Compl) :
    s.bufEnd i k a b c = (s.hostWrite a b).finishAct i k c := by
  simp [State.bufEnd, dma, running]

theorem State.bufEnd_stopped {i : Nat} (dma : s.canDma = true) (stopped : (s.ring i).state ≠ 1) (k a : Nat) (b : Bytes) (c : Compl) :
    s.bufEnd i k a b c = s.finishAct i k ⟨0x82, 0, nget (s.ring i).moved k⟩ := by
  simp [State.bufEnd, dma, stopped]

section
variable {t i k : Nat} {d : Desc} (e : x = (s.advanceTo t).openGate 7) (up : x.up = true) (settled : x.Settled)
include e up settled

section
variable (turn : x.turn 0 0x28 = some (i, k, d))
include turn

theorem bookRead_short (short : d.len < 64) : exec (.bookRead t) s = .next (x.ends i k 1 64) :=
  exec_settled_eq (gatedTurn_settles (exec_bookRead t s) e up turn) (State.ends_settled settled _ _ _ _ _) (if_pos short)

variable (room : 64 ≤ d.len)
include room

theorem bookRead_failed (failed : x.book.failed = true) : exec (.bookRead t) s = .next (x.ends i k 2) := by
  refine exec_settled_eq (gatedTurn_settles (exec_bookRead t s) e up turn) (State.ends_settled settled _ _ _ _ _) ?_
  rw [State.bookRead, if_neg (by omega), if_pos failed]

variable (sound : x.book.failed = false)
include sound

theorem bookRead_unready (unready : x.book.ready = false) : exec (.bookRead t) s = .next (x.ends i k 3) := by
  refine exec_settled_eq (gatedTurn_settles (exec_bookRead t s) e up turn) (State.ends_settled settled _ _ _ _ _) ?_
  rw [State.bookRead, if_neg (by omega), if_neg (by simp [sound]), if_pos (by simp [unready])]

variable (ready : x.book.ready = true) {l : List Bytes} {m next : Nat} (records : l = x.recordsFrom (d.arg + 2 ^ 32 * d.arg2))
  (fit : m = d.len / 64) (after : next = if l.length ≤ m then x.book.nextSeq else recSeq (nth l (m - 1) []) + 1)
include ready records fit after

omit settled in
theorem bookRead_ends : exec (.bookRead t) s =
    .next (x.bufEnd i k d.buf (l.take m).flatten ⟨0, next % 2 ^ 32, 64 * min m l.length⟩).settle := by
  have some_ : 1 ≤ m := by omega
  rw [gatedTurn_settles (exec_bookRead t s) e up turn, State.bookRead, if_neg (by omega), if_neg (by simp [sound]), if_neg (by simp [ready]),
    ← records, ← fit, x.nextRecord_eq l some_, ← after, List.length_take]

theorem bookRead_writes (dma : x.canDma = true) (running : (x.ring i).state = 1) :
    exec (.bookRead t) s = .next ((x.hostWrite d.buf (l.take m).flatten).ends i k 0 next (64 * min m l.length)) :=
  exec_settled_eq (bookRead_ends e up turn room sound ready records fit after)
    (State.ends_settled (State.hostWrite_settled settled _ _) _ _ _ _ _) (State.bufEnd_running dma running _ _ _ _)

theorem bookRead_stopped (dma : x.canDma = true) (stopped : (x.ring i).state ≠ 1) :
    exec (.bookRead t) s = .next (x.ends i k 0x82 0 (nget (x.ring i).moved k)) :=
  exec_settled_eq (bookRead_ends e up turn room sound ready records fit after)
    (State.ends_settled settled _ _ _ _ _) (State.bufEnd_stopped dma stopped _ _ _ _)

theorem bookRead_held (held : x.canDma = false) : exec (.bookRead t) s = .next ((x.holdAct i k).modHostIf fun h =>
    { h with bufs := h.bufs ++ [⟨i, k, d.buf, (l.take m).flatten, ⟨0, next % 2 ^ 32, 64 * min m l.length⟩⟩] }) :=
  exec_settled_eq (bookRead_ends e up turn room sound ready records fit after)
    (State.modHostIf_settled (State.holdAct_settled settled _ _) _) (State.bufEnd_held held _ _ _ _ _)

end

variable (turn : x.turn 0 0x29 = some (i, k, d))
include turn

theorem bookClear_mode (mode : x.mode.mode ≠ 1) (p : Bool) : exec (.bookClear t p) s = .next (x.ends i k 2) :=
  exec_settled_eq (gatedTurn_settles (exec_bookClear t p s) e up turn) (State.ends_settled settled _ _ _ _ _)
    (if_pos (by simpa using mode))

variable (mode : x.mode.mode = 1)
include mode

theorem bookClear_unready (unready : x.book.ready = false) (sound : x.book.failed = false) (p : Bool) :
    exec (.bookClear t p) s = .next (x.ends i k 3) := by
  refine exec_settled_eq (gatedTurn_settles (exec_bookClear t p s) e up turn) (State.ends_settled settled _ _ _ _ _) ?_
  rw [State.bookClear, if_neg (by simp [mode]), if_pos (by simp [unready, sound])]

variable (able : x.book.ready = true ∨ x.book.failed = true)
include able

omit settled in
theorem bookClear_clears (p : Bool) : exec (.bookClear t p) s = .next (((x.emptyBook (nbit d.arg 0)).clearedBook p).bootRecord.ends i k 0
    (b2n ((x.emptyBook (nbit d.arg 0)).clearedBook p).book.failed)).settle := by
  have clears : ¬(!x.book.ready && !x.book.failed) = true := by
    rcases able with ready | failed
    · simp [ready]
    · simp [failed]
  rw [gatedTurn_settles (exec_bookClear t p s) e up turn, State.bookClear, if_neg (by simp [mode]), if_neg clears]

end

/-- Emptying the book, with its last words or without. -/
theorem State.emptyBook_eq (s : State) (words : Bool) : s.emptyBook words =
    if words then s.modBook fun b => { b with slots := [], lw := [], lwNext := 0 } else s.modBook fun b => { b with slots := [] } := by
  cases words <;> rfl

theorem State.emptyBook_failed (s : State) (words : Bool) : (s.emptyBook words).book.failed = s.book.failed := by
  rw [State.emptyBook_eq]
  split
  · rw [State.modBook_book]
  · rw [State.modBook_book]

/-- A clear that does not pass fails a book that works. -/
theorem State.clearedBook_false (s : State) : s.clearedBook false = if s.book.failed = true then s else s.bookFail := by
  rw [State.clearedBook, if_neg Bool.false_ne_true, State.iff]
  by_cases failed : s.book.failed = true
  · rw [if_pos failed, if_neg (by simp [failed])]
  · rw [if_neg failed, if_pos (by simp [failed])]

/-- Settles O57. -/
theorem parishBook : Obligations.ParishBook := by
  refine ⟨fun s x t i b rest e up settled => ⟨?_, ?_, ?_, ?_, ?_⟩, fun s x t i k d e up settled => ⟨?_, ?_⟩⟩
  · intro head ready sound p q
    refine ⟨fun slot good => bookWrite_puts e up head ready sound slot settled good,
      fun none_ => bookWrite_full e up head ready sound none_ p q, ?_⟩
    rintro slot rfl rfl
    exact bookWrite_bad e up head ready sound slot
  · exact fun idle => bookWrite_idle e up settled idle
  · exact fun idle => bookScan_idle e up settled idle
  · exact fun unready sound => bookScan_runs e up unready sound
  · rintro w rfl
    exact ⟨rateRefill_refills e up settled, rateRefill_idle e up settled⟩
  · intro turn
    refine ⟨bookRead_short e up settled turn, bookRead_failed e up settled turn, bookRead_unready e up settled turn, ?_⟩
    intro room sound ready l m next records fit after
    exact ⟨bookRead_writes e up settled turn room sound ready records fit after,
      bookRead_stopped e up settled turn room sound ready records fit after,
      bookRead_held e up settled turn room sound ready records fit after⟩
  · intro turn p
    refine ⟨fun mode => bookClear_mode e up settled turn mode p,
      fun mode unready sound => bookClear_unready e up settled turn mode unready sound p, fun mode able y z hy hz => ?_⟩
    have empty : y = x.emptyBook (nbit d.arg 0) := hy.trans (x.emptyBook_eq _).symm
    have unpassed : z = (x.emptyBook (nbit d.arg 0)).clearedBook false := by
      rw [State.clearedBook_false, State.emptyBook_failed, hz, empty]
    have run := bookClear_clears e up turn mode able
    rw [unpassed]
    refine ⟨?_, run false⟩
    rw [empty]
    exact run true

end Sys2Proof.Machine
end

section
/-! PROOFS. Plan hashes and verdicts of the pair (R401, R402). -/

namespace Sys2Proof.Machine

variable {s x : State}

/-! ### Verdicts (R402) -/

/-- The verification ends with the unit's own result. -/
def State.endVerif (s : State) (own : Bool) : State :=
  s.modPair fun p => { p with verif := none, st := 3, lastMatch := p.lastMatch || own }

/-- The verdict on the active unit's result a and its standby's result b, at the active unit where mine holds. -/
def State.giveVerdict (s : State) (mine a b : Bool) : State :=
  match a, b with
  | true, true => (s.raise 422 0xFFFF).iff (!mine) (·.modPair fun p => { p with st := 2 })
  | true, false =>
    if mine then (s.modPair fun p => { p with st := 5 }).raise 420 0xFFFF
    else (s.modPair fun p => { p with st := 7 }).raise 421 0xFFFF
  | false, true => if mine then (s.makeOffer 1 none).raise 421 0xFFFF else s.raise 420 0xFFFF
  | false, false => (s.raise 423 0xFFFF).iff (!mine) (·.modPair fun p => { p with st := 2 })

/-- The verdict once both results are known. -/
theorem State.verdict_known {v : Verif} {own peer : Bool} (held : s.pair.verif = some v) (mine : v.own = some own) (theirs : v.peer = some peer) :
    s.verdict = (s.endVerif own).giveVerdict s.pair.active (if s.pair.active then own else peer) (if s.pair.active then peer else own) := by
  obtain ⟨g, b, a, o, p⟩ := v
  obtain rfl : o = some own := mine
  obtain rfl : p = some peer := theirs
  unfold State.verdict
  rw [held]
  rfl

/-- There is no verdict while a result is awaited. -/
theorem State.verdict_open {v : Verif} (held : s.pair.verif = some v) (open_ : v.peer = none) : s.verdict = s := by
  obtain ⟨g, b, a, o, p⟩ := v
  obtain rfl : p = none := open_
  unfold State.verdict
  rw [held]
  cases o <;> rfl

section
variable {y : State} {v : Verif} {own peer : Bool} (held : s.pair.verif = some v) (mine : v.own = some own) (theirs : v.peer = some peer)
include held mine theirs

theorem State.verdict_active (active : s.pair.active = true) : s.verdict = (s.endVerif own).giveVerdict true own peer := by
  rw [State.verdict_known held mine theirs, active, if_pos rfl, if_pos rfl]

theorem State.verdict_standby (standby : s.pair.active = false) : s.verdict = (s.endVerif own).giveVerdict false peer own := by
  rw [State.verdict_known held mine theirs, standby, if_neg Bool.false_ne_true, if_neg Bool.false_ne_true]

end

/-- What each of the eight cases of a verdict does. -/
theorem verdict_cases (s y : State) (v : Verif) (own peer : Bool) (held : s.pair.verif = some v) (mine : v.own = some own)
    (theirs : v.peer = some peer) (ended : y = s.endVerif own) :
    (own = true → peer = true → s.pair.active = true → s.verdict = y.raise 422 0xFFFF) ∧
    (own = true → peer = false → s.pair.active = true → s.verdict = (y.modPair fun p => { p with st := 5 }).raise 420 0xFFFF) ∧
    (own = false → peer = true → s.pair.active = true → s.verdict = (y.makeOffer 1 none).raise 421 0xFFFF) ∧
    (own = false → peer = false → s.pair.active = true → s.verdict = y.raise 423 0xFFFF) ∧
    (own = true → peer = true → s.pair.active = false → s.verdict = (y.raise 422 0xFFFF).modPair fun p => { p with st := 2 }) ∧
    (own = true → peer = false → s.pair.active = false → s.verdict = y.raise 420 0xFFFF) ∧
    (own = false → peer = true → s.pair.active = false → s.verdict = (y.modPair fun p => { p with st := 7 }).raise 421 0xFFFF) ∧
    (own = false → peer = false → s.pair.active = false → s.verdict = (y.raise 423 0xFFFF).modPair fun p => { p with st := 2 }) := by
  have active := State.verdict_active held mine theirs
  have standby := State.verdict_standby held mine theirs
  rw [← ended] at active standby
  refine ⟨?_, ?_, ?_, ?_, ?_, ?_, ?_, ?_⟩ <;> rintro rfl rfl role
  · rw [active role, State.giveVerdict, State.iff, if_neg (by decide)]
  · rw [active role, State.giveVerdict, if_pos rfl]
  · rw [active role, State.giveVerdict, if_pos rfl]
  · rw [active role, State.giveVerdict, State.iff, if_neg (by decide)]
  · rw [standby role, State.giveVerdict, State.iff, if_pos (by decide)]
  · rw [standby role, State.giveVerdict, if_neg Bool.false_ne_true]
  · rw [standby role, State.giveVerdict, if_neg Bool.false_ne_true]
  · rw [standby role, State.giveVerdict, State.iff, if_pos (by decide)]

/-! ### Hashes and results (R401, R402) -/

theorem State.released_openGate (s : State) (b : Nat) : (s.openGate b).released = s.released := rfl

/-- Group g's hashes at boundary b whose peer's are late. -/
def State.lateHash (s : State) (g b : Nat) (h : PlanHash) : Bool :=
  h.g = g && h.b = b % 2 ^ 32 && h.at_ + 8000 ≤ s.clk.now

theorem exec_hashTimeout (t g b : Nat) (s : State) : exec (.hashTimeout t g b) s = actIn 2 t s fun s =>
    if s.pair.own.any (s.lateHash g b) then (s.modPair fun p => { p with own := p.own.filter fun h => !s.lateHash g b h }).bump .pairHashErrs 0 15 0
    else s := rfl

/-- The unit's own result is kept. -/
def State.ownResult (s : State) (v : Verif) (r : Bool) : State :=
  (s.pairSend 0x04 (le 1 v.g ++ zeros 3 ++ le 4 v.b ++ le 1 (b2n r))).modPair fun p => { p with verif := some { v with own := some r } }

theorem exec_verifyDone (t : Nat) (sound : Bool) (s : State) : exec (.verifyDone t sound) s = actIn 2 t s fun s =>
    match s.pair.verif with
    | some v => if v.own.isSome then s else (s.ownResult v (sound && s.reproduces v.g v.b)).verdict
    | none => s := rfl

/-- Results that have not arrived are 0. -/
def State.lapseVerif (s : State) (v : Verif) : State := s.modPair fun p =>
  { p with verif := some { v with own := some (v.own.getD false), peer := some (v.peer.getD false) } }

theorem exec_verifyTimeout (t : Nat) (s : State) : exec (.verifyTimeout t) s = actIn 2 t s fun s =>
    match s.pair.verif with
    | some v => if v.at_ + 1000 * max 1 (s.rf .pairCfg 0 15 0) ≤ s.clk.now then (s.lapseVerif v).verdict else s
    | none => s := rfl

theorem State.released_gated {t b : Nat} (e : x = (s.advanceTo t).openGate b) (rel : (s.advanceTo t).released = true) :
    x.released = true := by
  rw [e, State.released_openGate, rel]

section
variable {t : Nat} (e : x = (s.advanceTo t).openGate 2) (rel : (s.advanceTo t).released = true)
include e rel

theorem hashTimeout_late (settled : x.Settled) {g b : Nat} (late : x.pair.own.any (x.lateHash g b) = true) : exec (.hashTimeout t g b) s =
    .next ((x.modPair fun p => { p with own := p.own.filter fun h => !x.lateHash g b h }).bump .pairHashErrs 0 15 0) :=
  exec_settled_eq (actIn_settles (exec_hashTimeout t g b s) e (State.released_gated e rel))
    (State.bump_settled (State.modPair_settled settled _) _ _ _ _ _ (by decide)) (if_pos late)

theorem hashTimeout_early (settled : x.Settled) {g b : Nat} (none_ : x.pair.own.any (x.lateHash g b) = false) :
    exec (.hashTimeout t g b) s = .next x :=
  exec_settled_eq (actIn_settles (exec_hashTimeout t g b s) e (State.released_gated e rel)) settled (if_neg (by simp [none_]))

variable {v : Verif} (held : x.pair.verif = some v)
include held

theorem verifyDone_settles (own : v.own = none) (sound : Bool) :
    exec (.verifyDone t sound) s = .next (x.ownResult v (sound && x.reproduces v.g v.b)).verdict.settle := by
  rw [actIn_settles (exec_verifyDone t sound s) e (State.released_gated e rel), held]
  dsimp only
  rw [if_neg (by simp [own])]

theorem verifyDone_awaits (settled : x.Settled) (own : v.own = none) (peer : v.peer = none) (sound : Bool) :
    exec (.verifyDone t sound) s = .next (x.ownResult v (sound && x.reproduces v.g v.b)) :=
  exec_settled_eq (verifyDone_settles e rel held own sound) (State.modPair_settled (State.pairSend_settled settled _ _) _)
    (State.verdict_open rfl peer)

theorem verifyDone_again (settled : x.Settled) (own : v.own ≠ none) (sound : Bool) : exec (.verifyDone t sound) s = .next x := by
  refine exec_settled_eq (actIn_settles (exec_verifyDone t sound s) e (State.released_gated e rel)) settled ?_
  rw [held]
  exact if_pos (Option.isSome_iff_ne_none.mpr own)

theorem verifyTimeout_lapses (late : v.at_ + 1000 * max 1 (x.rf .pairCfg 0 15 0) ≤ x.clk.now) :
    exec (.verifyTimeout t) s = .next (x.lapseVerif v).verdict.settle := by
  rw [actIn_settles (exec_verifyTimeout t s) e (State.released_gated e rel), held]
  dsimp only
  rw [if_pos late]

theorem verifyTimeout_early (settled : x.Settled) (early : x.clk.now < v.at_ + 1000 * max 1 (x.rf .pairCfg 0 15 0)) :
    exec (.verifyTimeout t) s = .next x := by
  refine exec_settled_eq (actIn_settles (exec_verifyTimeout t s) e (State.released_gated e rel)) settled ?_
  rw [held]
  exact if_neg (by omega)

end

/-- Settles O50. -/
theorem pairVerdicts : Obligations.PairVerdicts := by
  refine ⟨fun s x t e rel => ⟨?_, fun v held => ⟨?_, ?_, ?_, ?_⟩⟩, verdict_cases⟩
  · rintro g b settled mine rfl
    exact ⟨hashTimeout_late e rel settled, hashTimeout_early e rel settled⟩
  · rintro sound r y own rfl rfl
    exact ⟨fun peer settled => verifyDone_awaits e rel held settled own peer sound, fun _ => verifyDone_settles e rel held own sound⟩
  · exact fun sound own settled => verifyDone_again e rel held settled own sound
  · exact verifyTimeout_lapses e rel held
  · exact fun early settled => verifyTimeout_early e rel held settled early

end Sys2Proof.Machine
end

section
/-! PROOFS. The roles of a pair: the peer that is lost, handovers (R387, R402 to R406). -/

namespace Sys2Proof.Machine

variable {s x : State}

/-! ### What an answer leaves of the pair -/

theorem State.HostOnly.pair {u : State} (h : s.HostOnly u) : u.pair = s.pair := by rw [h.same]

theorem State.finishAct_pair (s : State) (i k : Nat) (c : Compl) : (s.finishAct i k c).pair = s.pair :=
  (State.finishAct_hostOnly (State.HostOnly.refl s) i k c).pair

theorem State.pairSend_beside {α : Type} (g : Pair → α) (h : ∀ (p : Pair) l, g { p with outbox := l } = g p) (s : State) (kind : Nat) (b : Bytes) :
    g (s.pairSend kind b).pair = g s.pair := by
  unfold State.pairSend
  split
  · rw [State.modPair_pair, h]
  · rfl

/-- An answer changes at most the outbox of the pair. -/
theorem State.answer_beside {α : Type} (g : Pair → α) (h : ∀ (p : Pair) l, g { p with outbox := l } = g p) (s : State) (role k : Nat) (c : Compl) :
    g (s.answer role k c).pair = g s.pair := by
  unfold State.answer
  split
  · exact s.pairSend_beside g h _ _
  · rw [(State.finishRole_hostOnly (State.HostOnly.refl s) role k c).pair]

/-! ### The peer is lost (R387, R404) -/

/-- A handover that is asked for has failed. -/
def State.dropOffer (s : State) : State :=
  match s.pair.offer with
  | some o => (match o.act with
    | some k => (s.modPair fun p => { p with offer := none }).answer 0 k ⟨2, 0, 0⟩
    | none => s.modPair fun p => { p with offer := none })
  | none => s

/-- Forwarded handovers, by their descriptors. -/
def Pair.handovers (p : Pair) : List Nat := (p.forwarded.filter fun f => f.2.1 = 11 && f.2.2 != 0).map fun f => f.2.2

theorem State.handoverLost_eq (s : State) : s.handoverLost = (s.dropOffer.modPair fun p => { p with forwarded := [] }).forAll
    s.dropOffer.pair.handovers fun a s => s.finishAct (a / 65536 - 1) (a % 65536) ⟨2, 0, 0⟩ := rfl

theorem State.dropOffer_beside {α : Type} (g : Pair → α) (h : ∀ (p : Pair) l, g { p with outbox := l } = g p)
    (k : ∀ (p : Pair), g { p with offer := none } = g p) (s : State) : g s.dropOffer.pair = g s.pair := by
  unfold State.dropOffer
  split
  · split
    · rw [State.answer_beside g h, State.modPair_pair, k]
    · rw [State.modPair_pair, k]
  · rfl

theorem State.handoverLost_active (s : State) : s.handoverLost.pair.active = s.pair.active := by
  rw [State.handoverLost_eq, State.forAll_frame (·.pair.active) _ _ _ fun _ y => by rw [State.finishAct_pair], State.modPair_pair]
  exact s.dropOffer_beside (·.active) (fun _ _ => rfl) fun _ => rfl

/-- Where no handover was forwarded, only the unit's own offer ends. -/
theorem State.handoverLost_unforwarded (none_ : ∀ f ∈ s.pair.forwarded, f.2.1 ≠ 11 ∨ f.2.2 = 0) :
    s.handoverLost = s.dropOffer.modPair fun p => { p with forwarded := [] } := by
  have same : s.dropOffer.pair.forwarded = s.pair.forwarded := s.dropOffer_beside (·.forwarded) (fun _ _ => rfl) fun _ => rfl
  have empty : s.dropOffer.pair.handovers = [] := by
    rw [Pair.handovers, same, List.map_eq_nil_iff, List.filter_eq_nil_iff]
    intro f here
    simpa [or_iff_not_imp_left] using none_ f here
  rw [State.handoverLost_eq, empty]
  rfl

/-- What is known of the peer is forgotten. -/
def State.dropPeer (s : State) : State := s.handoverLost.modPair fun p =>
  { p with peerSeen := false, peerSt := 0, lane0 := false, lane1 := false, outbox := [], verif := none, own := [], peerH := [],
           sum := 0, cnt := 0, lastOff := none, digest := none, snapWant := false, segs := [], segNext := 0, bankSegs := [], bankNext := 0,
           backlog := [], lossAt := s.clk.now }

/-- A standby that follows prepares to take the ports over from frame n on. -/
def State.prepareSeize (s : State) (n : Nat) : State :=
  (s.forAll (List.range 48) fun p s => s.iff (s.port p).seized (·.modPort p fun x => { x with seized := false })).modPair fun p =>
    { p with seize := some n }

/-- What the loss of the peer makes of the unit's state, which was st. -/
def State.standAlone (s : State) (st n : Nat) : State :=
  if st = 7 || st = 6 then s
  else if s.pair.active then s.modPair fun p => { p with st := 5 }
  else if st = 3 || st = 4 then s.prepareSeize n
  else s.modPair fun p => { p with st := 6 }

/-- Three slots have passed without a good frame, or both lanes are retired. -/
def State.peerGone (s : State) : Bool :=
  s.pair.rxStamp + 128000 ≤ 32 * s.clk.now || ((s.health1 104).state != 0 && (s.health1 105).state != 0)

theorem exec_peerLost (t : Nat) (s : State) : exec (.peerLost t) s = actIn 2 t s fun s =>
    if !(s.up && s.hasPeer && s.pair.st != 0 && s.pair.peerSeen && s.peerGone) then s
    else (s.dropPeer.standAlone s.pair.st s.nextFrame).raise 416 0xFFFF := rfl

theorem State.dropPeer_active (s : State) : s.dropPeer.pair.active = s.pair.active := by
  rw [State.dropPeer, State.modPair_pair]
  exact s.handoverLost_active

theorem State.standAlone_active {st : Nat} (n : Nat) (paired : st < 6) (active : s.pair.active = true) :
    s.standAlone st n = s.modPair fun p => { p with st := 5 } := by
  rw [State.standAlone, if_neg (by simp; omega), if_pos active]

theorem State.standAlone_standby {st : Nat} (n : Nat) (paired : st = 3 ∨ st = 4) (standby : s.pair.active = false) :
    s.standAlone st n = s.prepareSeize n := by
  rw [State.standAlone, if_neg (by simp; omega), if_neg (by simp [standby]), if_pos (by simpa using paired)]

theorem State.standAlone_joining {st : Nat} (n : Nat) (joining : st = 1 ∨ st = 2 ∨ st = 5) (standby : s.pair.active = false) :
    s.standAlone st n = s.modPair fun p => { p with st := 6 } := by
  rw [State.standAlone, if_neg (by simp; omega), if_neg (by simp [standby]), if_neg (by simp; omega)]

theorem State.standAlone_alone {st : Nat} (n : Nat) (lo : 6 ≤ st) (hi : st ≤ 7) : s.standAlone st n = s :=
  if_pos (by simp; omega)

section
variable {t : Nat} (e : x = (s.advanceTo t).openGate 2) (up : x.up = true)
include e up

theorem peerLost_settles (peer : x.hasPeer = true) (seen : x.pair.peerSeen = true) (on : x.pair.st ≠ 0)
    (gone : x.pair.rxStamp + 128000 ≤ 32 * x.clk.now ∨ ((x.health1 104).state ≠ 0 ∧ (x.health1 105).state ≠ 0)) :
    exec (.peerLost t) s = .next ((x.dropPeer.standAlone x.pair.st x.nextFrame).raise 416 0xFFFF).settle := by
  have due : x.peerGone = true := by simpa [State.peerGone] using gone
  rw [actIn_settles (exec_peerLost t s) e (State.released_of_up up), if_neg (by simp [up, peer, seen, on, due])]

theorem peerLost_idle (settled : x.Settled) (recent : 32 * x.clk.now < x.pair.rxStamp + 128000)
    (lane : (x.health1 104).state = 0 ∨ (x.health1 105).state = 0) : exec (.peerLost t) s = .next x := by
  have here : x.peerGone = false := by
    rcases lane with zero | one
    · simp [State.peerGone, zero, recent]
    · simp [State.peerGone, one, recent]
  exact exec_settled_eq (actIn_settles (exec_peerLost t s) e (State.released_of_up up)) settled (if_pos (by simp [here]))

end

/-- What the loss of the peer is in each state of the unit. -/
theorem peerLost_cases {t : Nat} {y : State} (e : x = (s.advanceTo t).openGate 2) (dropped : y = x.dropPeer) (up : x.up = true)
    (peer : x.hasPeer = true) (seen : x.pair.peerSeen = true) (on : x.pair.st ≠ 0)
    (gone : x.pair.rxStamp + 128000 ≤ 32 * x.clk.now ∨ ((x.health1 104).state ≠ 0 ∧ (x.health1 105).state ≠ 0)) :
    (x.pair.st < 6 → x.pair.active = true →
      exec (.peerLost t) s = .next ((y.modPair fun p => { p with st := 5 }).raise 416 0xFFFF).settle) ∧
    (x.pair.st = 3 ∨ x.pair.st = 4 → x.pair.active = false →
      exec (.peerLost t) s = .next ((y.prepareSeize x.nextFrame).raise 416 0xFFFF).settle) ∧
    (x.pair.st = 1 ∨ x.pair.st = 2 ∨ x.pair.st = 5 → x.pair.active = false →
      exec (.peerLost t) s = .next ((y.modPair fun p => { p with st := 6 }).raise 416 0xFFFF).settle) ∧
    (6 ≤ x.pair.st → x.pair.st ≤ 7 → exec (.peerLost t) s = .next (y.raise 416 0xFFFF).settle) := by
  have run := peerLost_settles e up peer seen on gone
  have role := x.dropPeer_active
  rw [← dropped] at run role
  refine ⟨fun paired active => ?_, fun paired standby => ?_, fun joining standby => ?_, fun lo hi => ?_⟩
  · rw [run, State.standAlone_active _ paired (role.trans active)]
  · rw [run, State.standAlone_standby _ paired (role.trans standby)]
  · rw [run, State.standAlone_joining _ joining (role.trans standby)]
  · rw [run, State.standAlone_alone _ lo hi]

theorem exec_followTimeout (t : Nat) (s : State) : exec (.followTimeout t) s = actIn 2 t s fun s =>
    s.iff (s.pair.seize.isSome && !s.pair.active && (s.pair.st = 3 || s.pair.st = 4) && s.pair.lossAt + 16000 ≤ s.clk.now)
      (·.modPair fun p => { p with st := 6, seize := none }) := rfl

section
variable {t : Nat} (e : x = (s.advanceTo t).openGate 2) (rel : (s.advanceTo t).released = true) (settled : x.Settled)
include e rel settled

theorem followTimeout_ends {n : Nat} (seizing : x.pair.seize = some n) (standby : x.pair.active = false)
    (paired : x.pair.st = 3 ∨ x.pair.st = 4) (late : x.pair.lossAt + 16000 ≤ x.clk.now) :
    exec (.followTimeout t) s = .next (x.modPair fun p => { p with st := 6, seize := none }) :=
  exec_settled_eq (actIn_settles (exec_followTimeout t s) e (State.released_gated e rel)) (State.modPair_settled settled _)
    (if_pos (by simp [seizing, standby, paired, late]))

theorem followTimeout_waits (early : x.clk.now < x.pair.lossAt + 16000) : exec (.followTimeout t) s = .next x :=
  exec_settled_eq (actIn_settles (exec_followTimeout t s) e (State.released_gated e rel)) settled (if_neg (by simp [early]))

end

/-! ### Handover (R402, R403, R405, R406) -/

/-- What PAIR_HANDOVER does. -/
def State.handoverCommand (i k : Nat) (_ : Desc) (s : State) : State :=
  if (s.holdAct i k).standby then (s.holdAct i k).forward 11 (65536 * (i + 1) + k) [] else (s.holdAct i k).handoverRequest k

theorem exec_pairHandover (t : Nat) (s : State) : exec (.pairHandover t) s = actIn 2 t s fun s =>
    s.iff (s.up && s.pair.offer.isNone) (·.onTurn 0 0x38 State.handoverCommand) := rfl

theorem State.holdAct_standby (s : State) (i k : Nat) : (s.holdAct i k).standby = s.standby := rfl
theorem State.holdAct_leads (s : State) (i k : Nat) : (s.holdAct i k).leads = s.leads := rfl
theorem State.holdAct_pair (s : State) (i k : Nat) : (s.holdAct i k).pair = s.pair := rfl
theorem State.holdAct_nowA (s : State) (i k : Nat) : (s.holdAct i k).nowA = s.nowA := rfl
theorem State.holdAct_clk (s : State) (i k : Nat) : (s.holdAct i k).clk = s.clk := rfl

/-- A unit that leads is in Paired or Verify. -/
theorem State.leads_paired (h : s.leads = true) : s.pair.st = 3 ∨ s.pair.st = 4 := by
  simp only [State.leads, Bool.and_eq_true, Bool.or_eq_true, decide_eq_true_eq] at h
  exact h.1.1.2

/-- The offer for frame n at the descriptor's request k. -/
def offerOf (n k : Nat) : Offer := ⟨n, 0, false, true, some k, 1000 * n - 12000⟩

theorem State.handoverRequest_offers (leads : s.leads = true) (free : s.pair.offer = none) (k : Nat) : s.handoverRequest k =
    (s.pairSend 0x05 (le 5 ((s.nowA + 24999) / 1000) ++ le 1 0)).modPair fun p => { p with offer := some (offerOf ((s.nowA + 24999) / 1000) k) } := by
  have paired := State.leads_paired leads
  rw [State.handoverRequest, if_neg (by omega), if_pos (by simp [leads, free])]
  rfl

theorem State.handoverRequest_refused (idle : s.leads = false) (on : s.pair.st ≠ 6) (k : Nat) :
    s.handoverRequest k = s.answer 0 k ⟨2, 0, 0⟩ := by
  rw [State.handoverRequest, if_neg on, if_neg (by simp [idle])]

theorem State.handoverRequest_alone (alone : s.pair.st = 6) (k : Nat) : s.handoverRequest k =
    ((s.stopRequest 6 (coreCycle s.clk.now) none).modPair fun p => { p with st := 5, active := true }).answer 0 k ⟨0, 0, 0⟩ := if_pos alone

section
variable {t i k : Nat} {d : Desc} (e : x = (s.advanceTo t).openGate 2) (up : x.up = true) (free : x.pair.offer = none)
  (turn : x.turn 0 0x38 = some (i, k, d))
include e up free turn

theorem pairHandover_settles : exec (.pairHandover t) s = .next (x.handoverCommand i k d).settle := by
  rw [actIn_settles (exec_pairHandover t s) e (State.released_of_up up), State.iff, if_pos (by simp [up, free]), State.onTurn_of_turn turn]

theorem pairHandover_forwards (settled : x.Settled) (standby : x.standby = true) :
    exec (.pairHandover t) s = .next ((x.holdAct i k).forward 11 (65536 * (i + 1) + k) []) :=
  exec_settled_eq (pairHandover_settles e up free turn) (State.forward_settled (State.holdAct_settled settled _ _) _ _ _) (if_pos standby)

variable (own : x.standby = false)
include own

theorem pairHandover_asks : exec (.pairHandover t) s = .next ((x.holdAct i k).handoverRequest k).settle := by
  rw [pairHandover_settles e up free turn, State.handoverCommand, x.holdAct_standby, if_neg (by simp [own])]

theorem pairHandover_offers (settled : x.Settled) (leads : x.leads = true) : exec (.pairHandover t) s = .next
    (((x.holdAct i k).pairSend 0x05 (le 5 ((x.nowA + 24999) / 1000) ++ le 1 0)).modPair fun p =>
      { p with offer := some (offerOf ((x.nowA + 24999) / 1000) k) }) :=
  exec_settled_eq (pairHandover_asks e up free turn own)
    (State.modPair_settled (State.pairSend_settled (State.holdAct_settled settled _ _) _ _) _)
    (State.handoverRequest_offers (s := x.holdAct i k) leads free k)

end

/-- OFFER_LAPSE, HANDOVER_SWITCH and FAILED_ENTRY. -/
theorem exec_offerLapse (t : Nat) (s : State) : exec (.offerLapse t) s = actIn 2 t s fun s =>
    match s.pair.offer with
    | some o => s.iff (o.outgoing && !o.accepted && o.lapse ≤ s.nowA) (·.offerFails 4 0)
    | none => s := rfl

/-- The roles change as offer o says. -/
def State.switchRoles (s : State) (o : Offer) : State :=
  (s.modPair fun p =>
    { p with offer := none, active := !o.outgoing,
             failAt := if o.outgoing && o.reason = 1 then some (1000 * (o.ns + 3) + 16000) else p.failAt }).raise 418 0xFFFF

/-- The request of an offer ends with the frame of the handover. -/
def State.answerOffer (s : State) (o : Offer) : State :=
  match o.act with
  | some k => s.answer 0 k ⟨0, o.ns % 2 ^ 32, 0⟩
  | none => s

theorem exec_handoverSwitch (t : Nat) (s : State) : exec (.handoverSwitch t) s = actIn 2 t s fun s =>
    match s.pair.offer with
    | some o => if !(o.accepted && 1000 * (o.ns + 3) ≤ s.nowA) then s else (s.switchRoles o).answerOffer o
    | none => s := rfl

theorem exec_failedEntry (t : Nat) (s : State) : exec (.failedEntry t) s = actIn 2 t s fun s =>
    match s.pair.failAt with
    | some f => s.iff (f ≤ s.nowA) (·.modPair fun p => { p with failAt := none, st := 7, active := false })
    | none => s := rfl

section
variable {t : Nat} (e : x = (s.advanceTo t).openGate 2) (rel : (s.advanceTo t).released = true)
include e rel

section
variable {o : Offer} (held : x.pair.offer = some o)
include held

theorem offerLapse_ends (outgoing : o.outgoing = true) (open_ : o.accepted = false) (late : o.lapse ≤ x.nowA) :
    exec (.offerLapse t) s = .next (x.offerFails 4 0).settle := by
  rw [actIn_settles (exec_offerLapse t s) e (State.released_gated e rel), held]
  dsimp only
  rw [State.iff, if_pos (by simp [outgoing, open_, late])]

theorem offerLapse_idle (settled : x.Settled) (idle : o.outgoing = false ∨ o.accepted = true ∨ x.nowA < o.lapse) :
    exec (.offerLapse t) s = .next x := by
  refine exec_settled_eq (actIn_settles (exec_offerLapse t s) e (State.released_gated e rel)) settled ?_
  rw [held]
  refine if_neg ?_
  rcases idle with incoming | accepted | early
  · simp [incoming]
  · simp [accepted]
  · simp [early]

theorem handoverSwitch_settles (accepted : o.accepted = true) (due : 1000 * (o.ns + 3) ≤ x.nowA) :
    exec (.handoverSwitch t) s = .next ((x.switchRoles o).answerOffer o).settle := by
  rw [actIn_settles (exec_handoverSwitch t s) e (State.released_gated e rel), held]
  dsimp only
  rw [if_neg (by simp [accepted, due])]

theorem handoverSwitch_idle (settled : x.Settled) (idle : o.accepted = false ∨ x.nowA < 1000 * (o.ns + 3)) :
    exec (.handoverSwitch t) s = .next x := by
  refine exec_settled_eq (actIn_settles (exec_handoverSwitch t s) e (State.released_gated e rel)) settled ?_
  rw [held]
  refine if_pos ?_
  rcases idle with open_ | early
  · simp [open_]
  · simp [early]

end

variable {f : Nat} (held : x.pair.failAt = some f) (settled : x.Settled)
include held settled

theorem failedEntry_fails (due : f ≤ x.nowA) :
    exec (.failedEntry t) s = .next (x.modPair fun p => { p with failAt := none, st := 7, active := false }) := by
  refine exec_settled_eq (actIn_settles (exec_failedEntry t s) e (State.released_gated e rel)) (State.modPair_settled settled _) ?_
  rw [held]
  exact if_pos (by simpa using due)

theorem failedEntry_waits (early : x.nowA < f) : exec (.failedEntry t) s = .next x := by
  refine exec_settled_eq (actIn_settles (exec_failedEntry t s) e (State.released_gated e rel)) settled ?_
  rw [held]
  exact if_neg (by simpa using early)

end

/-- Settles O49. -/
theorem pairRoles : Obligations.PairRoles := by
  refine ⟨fun s x y t e => ⟨fun dropped up peer seen on => ⟨peerLost_cases e dropped up peer seen on, ?_⟩, fun none_ => ⟨?_, ?_⟩, ?_⟩,
    fun s x t i k d e settled rel => ⟨fun up free turn => ⟨?_, ?_, ?_, ?_⟩, fun o held => ⟨?_, ?_, ?_, ?_⟩, fun f held => ⟨?_, ?_⟩⟩⟩
  · exact fun recent lane settled => peerLost_idle e up settled recent lane
  · intro free
    rw [State.handoverLost_unforwarded none_, State.dropOffer, free]
  · intro o k held asked
    rw [State.handoverLost_unforwarded none_, State.dropOffer, held]
    dsimp only
    rw [asked]
  · exact fun n rel seizing standby paired settled =>
      ⟨followTimeout_ends e rel settled seizing standby paired, followTimeout_waits e rel settled⟩
  · exact pairHandover_forwards e up free turn settled
  · exact fun own leads => pairHandover_offers e up free turn own settled leads
  · intro own idle alone
    rw [pairHandover_asks e up free turn own, State.handoverRequest_refused (s := x.holdAct i k) idle alone]
  · intro own alone
    rw [pairHandover_asks e up free turn own, State.handoverRequest_alone (s := x.holdAct i k) alone, x.holdAct_clk]
  · exact offerLapse_ends e rel held
  · exact offerLapse_idle e rel held settled
  · rintro accepted due y switched
    have run := handoverSwitch_settles e rel held accepted due
    refine ⟨fun unasked => ?_, fun m asked => ?_⟩
    · rw [run, switched, State.answerOffer, unasked]
      rfl
    · rw [run, switched, State.answerOffer, asked]
      rfl
  · exact handoverSwitch_idle e rel held settled
  · exact failedEntry_fails e rel held settled
  · exact failedEntry_waits e rel held settled

end Sys2Proof.Machine
end

section
/-! PROOFS. Capture records: Bell arms and forces, the end of a record, sequence engines (R420, R421, R428, R433). -/

namespace Sys2Proof.Machine

variable {s x : State}

/-! ### Bell arms and forces (R428) -/

/-- A Bell entry arms unit u, or the refusal is counted. -/
def State.bellArm (u : Nat) (s : State) : State := (s.capArm u).2.iff ((s.capArm u).1 != 0) (·.bump .capUnitStatus u 15 8)

theorem exec_captureArm (t : Nat) (s : State) : exec (.captureArm t) s = actIn 3 t s fun s =>
    s.onFired 0x04 none fun x s => s.forAll (bellUnits x.e.index) State.bellArm := rfl

theorem exec_captureForce (t : Nat) (s : State) : exec (.captureForce t) s = actIn 3 t s fun s =>
    s.onFired 0x05 none fun x s => s.forAll (bellUnits x.e.index) fun u s => s.capTrigger u x.e.lc 0xFD 1 := rfl

theorem bellUnits_all : bellUnits 0xFFFF = List.range 8 := rfl

theorem bellUnits_one {u : Nat} (lt : u < 8) : bellUnits u = [u] := if_neg (by omega)

theorem State.forAll_one (s : State) (u : Nat) (f : Nat → State → State) : s.forAll [u] f = f u s := rfl

theorem State.bellArm_eq (s : State) (u : Nat) :
    s.bellArm u = if (s.capArm u).1 = 0 then (s.capArm u).2 else (s.capArm u).2.bump .capUnitStatus u 15 8 := by
  unfold State.bellArm State.iff
  by_cases armed : (s.capArm u).1 = 0
  · rw [if_pos armed, if_neg (by simp [armed])]
  · rw [if_neg armed, if_pos (by simp [armed])]

/-- A unit that is Idle, in a mode that captures, with memory and a sound configuration is armed. -/
theorem State.bellArm_arms {u : Nat} (idle : (s.unit u).st = 0) (mode : s.mode.mode ≠ 0) (memory : s.cap.memMiB ≠ 0)
    (good : s.armBad u = false) :
    s.bellArm u = s.modUnit u fun z => { CapUnit.reset with st := 1, armAt := s.clk.now, queue := z.queue } := by
  have arms : s.capArm u = (0, s.modUnit u fun z => { CapUnit.reset with st := 1, armAt := s.clk.now, queue := z.queue }) := by
    simp [State.capArm, idle, mode, memory, good]
  rw [State.bellArm_eq, arms, if_pos rfl]

theorem State.capArm_refuses {u : Nat} (bad : (s.unit u).st ≠ 0 ∨ s.mode.mode = 0 ∨ s.cap.memMiB = 0 ∨ s.armBad u = true) :
    (s.capArm u).1 ≠ 0 ∧ (s.capArm u).2 = s := by
  unfold State.capArm
  split
  · exact ⟨Nat.succ_ne_zero _, rfl⟩
  · next ready =>
    split
    · exact ⟨Nat.succ_ne_zero _, rfl⟩
    · next memory =>
      rw [if_pos]
      · exact ⟨Nat.succ_ne_zero _, rfl⟩
      · obtain ⟨idle, mode⟩ : (s.unit u).st = 0 ∧ s.mode.mode ≠ 0 := by simpa using ready
        rcases bad with busy | dormant | unfound | bad
        · exact absurd idle busy
        · exact absurd dormant mode
        · exact absurd unfound memory
        · exact bad

theorem State.bellArm_counts {u : Nat} (bad : (s.unit u).st ≠ 0 ∨ s.mode.mode = 0 ∨ s.cap.memMiB = 0 ∨ s.armBad u = true) :
    s.bellArm u = s.bump .capUnitStatus u 15 8 := by
  obtain ⟨refused, same⟩ := State.capArm_refuses bad
  rw [State.bellArm_eq, if_neg refused, same]

/-- A trigger from elsewhere than another unit triggers a unit armed before this core cycle. -/
theorem State.capTrigger_takes {u rank : Nat} {T : Int} (own : rank ≠ 2) (armed : (s.unit u).st = 1)
    (before : coreCycle (s.unit u).armAt ≠ coreCycle s.clk.now) (src : Nat) : s.capTrigger u T src rank =
      s.modUnit u fun z => { z with st := 2, trig := T, src := src, trigCyc := coreCycle s.clk.now, rank := rank } := by
  simp [State.capTrigger, State.iff, own, armed, before]

/-- It is counted where the unit is neither armed before this core cycle nor triggered in it. -/
theorem State.capTrigger_refused {u rank : Nat} {T : Int} (own : rank ≠ 2) (idle : s.forcible u = false) (src : Nat) :
    s.capTrigger u T src rank = s.bump .capUnitStatus u 15 8 := by
  obtain ⟨armed, triggered⟩ := Bool.or_eq_false_iff.mp idle
  unfold State.capTrigger
  dsimp only
  rw [if_neg (by simp [armed]), if_neg (by simpa using triggered), State.iff, if_pos (by simpa using own)]

theorem State.unforcible {u : Nat} (idle : (s.unit u).st = 0 ∨ (s.unit u).st = 3 ∨
    ((s.unit u).st = 1 ∧ coreCycle (s.unit u).armAt = coreCycle s.clk.now) ∨ ((s.unit u).st = 2 ∧ (s.unit u).trigCyc ≠ coreCycle s.clk.now)) :
    s.forcible u = false := by
  unfold State.forcible
  rcases idle with st | st | ⟨st, same⟩ | ⟨st, other⟩
  · simp [st]
  · simp [st]
  · simp [st, same]
  · simp [st, other]

section
variable {t : Nat} {f : Fired} {y : State} (e : x = (s.advanceTo t).openGate 3) (up : x.up = true)
include e up

section
variable (found : x.bell.fired.find? (fun f => f.e.action = 0x04 && f.arrive ≤ x.clk.now) = some f) (taken : y = x.takeFired 0x04)
include found taken

theorem captureArm_all (all : f.e.index = 0xFFFF) : exec (.captureArm t) s = .next (y.forAll (List.range 8) fun v z =>
    if (z.capArm v).1 = 0 then (z.capArm v).2 else (z.capArm v).2.bump .capUnitStatus v 15 8).settle := by
  have each : State.bellArm = fun v z => if (z.capArm v).1 = 0 then (z.capArm v).2 else (z.capArm v).2.bump .capUnitStatus v 15 8 :=
    funext fun v => funext fun z => z.bellArm_eq v
  rw [gatedFired_settles (exec_captureArm t s) e up found, ← taken, all, bellUnits_all, each]

variable {u : Nat} (one : f.e.index = u) (lt : u < 8)
include one lt

theorem captureArm_one : exec (.captureArm t) s = .next (y.bellArm u).settle := by
  rw [gatedFired_settles (exec_captureArm t s) e up found, ← taken, one, bellUnits_one lt, State.forAll_one]

end

variable (found : x.bell.fired.find? (fun f => f.e.action = 0x05 && f.arrive ≤ x.clk.now) = some f) (taken : y = x.takeFired 0x05)
include found taken

theorem captureForce_all (all : f.e.index = 0xFFFF) :
    exec (.captureForce t) s = .next (y.forAll (List.range 8) fun v z => z.capTrigger v f.e.lc 0xFD 1).settle := by
  rw [gatedFired_settles (exec_captureForce t s) e up found, ← taken, all, bellUnits_all]

theorem captureForce_one {u : Nat} (one : f.e.index = u) (lt : u < 8) :
    exec (.captureForce t) s = .next (y.capTrigger u f.e.lc 0xFD 1).settle := by
  rw [gatedFired_settles (exec_captureForce t s) e up found, ← taken, one, bellUnits_one lt, State.forAll_one]

end

/-! ### The end of a record (R420, R421) -/

theorem exec_recordEnd (t u : Nat) (s : State) :
    exec (.recordEnd t u) s = actIn 3 t s fun s => s.iff (u < 8 && s.capDue u) (·.capEnd u false false) := rfl

/-- A record ends once no enabled stream holds it open. -/
theorem State.capDue_iff (s : State) (u : Nat) : s.capDue u = true ↔ (s.unit u).st = 2 ∧ ∀ i c, i < 8 → c = slotCode (s.slotWord u i) →
    slotOn (s.slotWord u i) = true → s.capStop u ≤ (if c = 0xF0 then (s.clk.now : Int) - 1 else iget s.cap.marks c) ∨
      nget s.cap.markAt c + 1000000 ≤ s.clk.now := by
  unfold State.capDue State.capPast
  simp only [Bool.and_eq_true, Bool.or_eq_true, decide_eq_true_eq, List.all_eq_true, List.mem_range, Bool.not_eq_true', ← Bool.not_eq_true]
  refine and_congr_right fun _ => ⟨fun past i c lt code on => ?_, fun past i lt => ?_⟩
  · subst code
    exact (past i lt).resolve_left (not_not_intro on)
  · by_cases on : slotOn (s.slotWord u i) = true
    · exact .inr (past i _ lt rfl on)
    · exact .inl on

theorem CapUnit.fix_fixed {z : CapUnit} (fixed : z.fixed = true) (pre : Nat) : z.fix pre = z := if_pos fixed

theorem State.HostOnly.cap {u : State} (h : s.HostOnly u) : u.cap = s.cap := by rw [h.same]
theorem State.HostOnly.mode {u : State} (h : s.HostOnly u) : u.mode = s.mode := by rw [h.same]

theorem State.unit_of_cap {z : State} (h : z.cap = s.cap) (u : Nat) : z.unit u = s.unit u := by
  unfold State.unit
  rw [h]

/-- Unit u's record is at its end: its streams are closed and its header is made. -/
def State.capRound (s : State) (u : Nat) (ovrun trunc : Bool) : State :=
  let s := s.modUnit u fun x =>
    let x := { x.fix (s.reg .capUnitPre u).toNat with ovrun := ovrun, trunc := trunc }
    if ovrun then { x with opens := [], lostMeas := x.lostMeas || (x.open1 (8 * s.rf .capUnitCfg u 26 24)).count != 0 }
    else x.flushOpens (s.regionChunks u)
  s.modUnit u fun x => { x with st := 3, reds := [], header := s.capHeader u x }

/-- The end of unit u's record x is counted and shown. -/
def State.capCount (s : State) (u : Nat) (x : CapUnit) : State :=
  let s := s.setRf .capUnitStatus u 7 0 (s.rf .capUnitStatus u 7 0 + 1)
  s.setRf .capUnitStatus u 29 27 (4 * b2n x.ovrun + 2 * b2n x.trunc + b2n x.short)

/-- The end of unit u's record x is told to the host. -/
def State.capTell (s : State) (u : Nat) (x : CapUnit) (ovrun : Bool) : State :=
  match s.roleRing 4 with
  | some i =>
    let st := if ovrun then 0x11 else if x.trunc then 0x10 else 0
    s.notice (s.ringCq i) (complBytes u i st 0 0x40 0 ((128 + 64 * x.chunks.length) % 2 ^ 32) 0)
  | none => s

theorem State.capEnd_eq (s : State) (u : Nat) (ovrun trunc : Bool) : s.capEnd u ovrun trunc =
    let y := s.capRound u ovrun trunc
    let x := y.unit u
    (((y.capCount u x).iff ovrun (·.raise 384 u)).iff x.trunc (·.raise 385 u)).capTell u x ovrun := rfl

theorem State.capTell_hostOnly (s : State) (u : Nat) (x : CapUnit) (ovrun : Bool) : s.HostOnly (s.capTell u x ovrun) := by
  unfold State.capTell
  split
  · exact State.notice_hostOnly (State.HostOnly.refl s) _ _
  · exact State.HostOnly.refl s

theorem State.capCount_cap (s : State) (u : Nat) (x : CapUnit) : (s.capCount u x).cap = s.cap := by
  rw [State.capCount, State.setRf_cap, State.setRf_cap]

theorem State.capCount_mode (s : State) (u : Nat) (x : CapUnit) : (s.capCount u x).mode = s.mode := by
  rw [State.capCount, State.setRf_mode, State.setRf_mode]

theorem State.capRound_mode (s : State) (u : Nat) (ovrun trunc : Bool) : (s.capRound u ovrun trunc).mode = s.mode := by
  rw [State.capRound, State.modUnit_mode, State.modUnit_mode]

/-- What a record's end makes of a unit whose chunks are fixed and whose streams are closed. -/
theorem State.capRound_unit {u : Nat} (fixed : (s.unit u).fixed = true) (closed : (s.unit u).opens = []) :
    ((s.capRound u false false).unit u).trunc = false ∧ ((s.capRound u false false).unit u).st = 3 ∧
      ((s.capRound u false false).unit u).chunks = (s.unit u).chunks := by
  simp [State.capRound, CapUnit.fix_fixed fixed, CapUnit.flushOpens, closed]

theorem State.capEnd_closed {u : Nat} (fixed : (s.unit u).fixed = true) (closed : (s.unit u).opens = []) :
    ((s.capEnd u false false).unit u).st = 3 ∧ ((s.capEnd u false false).unit u).chunks = (s.unit u).chunks ∧
      (s.capEnd u false false).mode = s.mode := by
  obtain ⟨whole, done, chunks⟩ := State.capRound_unit fixed closed
  have told := State.capTell_hostOnly ((s.capRound u false false).capCount u ((s.capRound u false false).unit u)) u
    ((s.capRound u false false).unit u) false
  have ends : s.capEnd u false false = ((s.capRound u false false).capCount u ((s.capRound u false false).unit u)).capTell u
      ((s.capRound u false false).unit u) false := by
    rw [State.capEnd_eq]
    dsimp only
    rw [State.iff, if_neg (by simp [whole]), State.iff, if_neg Bool.false_ne_true]
  rw [ends, State.unit_of_cap (told.cap.trans (State.capCount_cap _ _ _)), told.mode, State.capCount_mode, State.capRound_mode]
  exact ⟨done, chunks, rfl⟩

/-! ### Sequence engines (R433) -/

theorem exec_capSeqEnable (t j : Nat) (v : Word) (s : State) :
    exec (.capSeqEnable t j v) s = actIn 3 t s fun s => s.iff (s.up && s.hasCap && j < 4 && bit v 31) (·.writeSeqCtrl j v) := rfl

theorem exec_sequenceTimer (t j : Nat) (s : State) :
    exec (.sequenceTimer t j) s = actIn 3 t s fun s => s.iff (s.hasCap && j < 4) (·.seqGo j) := rfl

theorem capSeqCtrl_dark {u : Nat} (lt : u < 4) : Reg.capSeqCtrl.addr u < 0x26040 := by
  simp only [Reg.addr, Reg.row]
  omega

section
variable {t u : Nat} (e : x = (s.advanceTo t).openGate 3) (rel : x.released = true)
include e rel

theorem recordEnd_ends (lt : u < 8) (due : x.capDue u = true) : exec (.recordEnd t u) s = .next (x.capEnd u false false).settle := by
  rw [actIn_settles (exec_recordEnd t u s) e rel, State.iff, if_pos (by simp [lt, due])]

theorem recordEnd_open (settled : x.Settled) (open_ : x.capDue u = false) : exec (.recordEnd t u) s = .next x :=
  exec_settled_eq (actIn_settles (exec_recordEnd t u s) e rel) settled (if_neg (by simp [open_]))

variable (cap : x.hasCap = true) (lt : u < 4)
include cap lt

theorem capSeqEnable_writes {v : Word} (up : x.up = true) (on : bit v 31 = true) :
    exec (.capSeqEnable t u v) s = .next (x.writeSeqCtrl u v).settle := by
  rw [actIn_settles (exec_capSeqEnable t u v s) e rel, State.iff, if_pos (by simp [up, cap, lt, on])]

theorem capSeqEnable_starts (settled : x.Settled) {v : Word} (up : x.up = true) (on : bit v 31 = true) (off : x.rb .capSeqCtrl u 31 = false) :
    exec (.capSeqEnable t u v) s = .next ((x.setRb .capSeqCtrl u 31 true).modSeqe u fun _ => ⟨0, x.clk.now, 0, []⟩) := by
  refine exec_settled_eq (capSeqEnable_writes e rel cap lt up on)
    (State.modSeqe_settled (State.setRb_settled settled _ _ _ _ (.inl (capSeqCtrl_dark lt))) _ _) ?_
  rw [State.writeSeqCtrl, on, off]
  rw [if_pos (by decide), State.setRb_clk]

theorem capSeqEnable_again (settled : x.Settled) {v : Word} (up : x.up = true) (on : bit v 31 = true) (running : x.rb .capSeqCtrl u 31 = true) :
    exec (.capSeqEnable t u v) s = .next (x.setRb .capSeqCtrl u 31 true) := by
  refine exec_settled_eq (capSeqEnable_writes e rel cap lt up on) (State.setRb_settled settled _ _ _ _ (.inl (capSeqCtrl_dark lt))) ?_
  rw [State.writeSeqCtrl, on, running]
  exact if_neg (by decide)

theorem sequenceTimer_runs : exec (.sequenceTimer t u) s = .next (x.seqGo u).settle := by
  rw [actIn_settles (exec_sequenceTimer t u s) e rel, State.iff, if_pos (by simp [cap, lt])]

theorem sequenceTimer_off (settled : x.Settled) (off : x.rb .capSeqCtrl u 31 = false) : exec (.sequenceTimer t u) s = .next x :=
  exec_settled_eq (sequenceTimer_runs e rel cap lt) settled (if_pos (by simp [off]))

end

/-- A state's timer that falls before any match enters its next state. -/
theorem State.seqRun_timer {j : Nat} {hor : Int} (idle : (s.seqe j).waits = []) (timed : (s.reg .capSeqTmr j (s.seqe j).state).toNat ≠ 0)
    (due : (s.seqe j).entered + (s.reg .capSeqTmr j (s.seqe j).state).toNat ≤ hor) (n : Nat) : s.seqRun j hor (n + 1) =
      (s.seqEnter j (fld (s.reg .capSeqSt j (s.seqe j).state) 22 20)
        ((s.seqe j).entered + (s.reg .capSeqTmr j (s.seqe j).state).toNat)).seqRun j hor n := by
  rw [State.seqRun]
  dsimp only
  rw [idle]
  exact if_pos (Bool.and_eq_true_iff.mpr ⟨bne_iff_ne.mpr timed, decide_eq_true due⟩)

/-- Settles O52. -/
theorem captureRecords : Obligations.CaptureRecords := by
  refine ⟨fun s x t u f e settled released => ?_, fun s u _ => s.capDue_iff u, fun s u fixed closed => State.capEnd_closed fixed closed,
    fun s j n hor idle timed due => State.seqRun_timer idle timed due n⟩
  have rel := State.released_gated e released
  have dark : ∀ v, v < 8 → Reg.capUnitStatus.addr v < 0x26040 ∨ 0x26D80 ≤ Reg.capUnitStatus.addr v := fun v lt => .inl (capUnitStatus_dark lt)
  refine ⟨fun up => ⟨fun found y taken => ⟨captureArm_all e up found taken, fun one lt => ⟨?_, ?_⟩⟩,
    fun found y taken => ⟨captureForce_all e up found taken, fun one lt => ⟨?_, ?_⟩⟩⟩, fun lt => ⟨recordEnd_ends e rel lt, recordEnd_open e rel settled⟩,
    fun cap lt => ⟨fun v up on => ⟨capSeqEnable_starts e rel cap lt settled up on, capSeqEnable_again e rel cap lt settled up on⟩,
      sequenceTimer_off e rel cap lt settled, fun _ => sequenceTimer_runs e rel cap lt⟩⟩
  · intro idle mode memory good
    refine exec_settled_eq (captureArm_one e up found taken one lt) ?_ ?_
    · subst taken
      exact State.modUnit_settled (State.takeFired_settled settled _) _ _
    · subst taken
      exact State.bellArm_arms (s := x.takeFired 0x04) idle mode memory good
  · intro bad
    refine exec_settled_eq (captureArm_one e up found taken one lt) ?_ ?_
    · subst taken
      exact State.bump_settled (State.takeFired_settled settled _) _ _ _ _ _ (dark u lt)
    · subst taken
      exact State.bellArm_counts (s := x.takeFired 0x04) bad
  · intro armed before
    refine exec_settled_eq (captureForce_one e up found taken one lt) ?_ ?_
    · subst taken
      exact State.modUnit_settled (State.takeFired_settled settled _) _ _
    · subst taken
      exact State.capTrigger_takes (s := x.takeFired 0x05) (by decide) armed before 0xFD
  · intro idle
    refine exec_settled_eq (captureForce_one e up found taken one lt) ?_ ?_
    · subst taken
      exact State.bump_settled (State.takeFired_settled settled _) _ _ _ _ _ (dark u lt)
    · subst taken
      exact State.capTrigger_refused (s := x.takeFired 0x05) (by decide) (State.unforcible idle) 0xFD

end Sys2Proof.Machine
end

section
/-! PROOFS. The phasor estimator: enabling it, stopping it, its reports (R436, R438, R440, R441). -/

namespace Sys2Proof.Machine

variable {s x : State}

theorem exec_pmuEnable (t : Nat) (v : Word) (s : State) :
    exec (.pmuEnable t v) s = actIn 3 t s fun s => s.iff (s.up && s.hasCap && bit v 31) (·.writePmuCtrl v) := rfl

theorem exec_pmuStop (t : Nat) (v : Word) (s : State) :
    exec (.pmuStop t v) s = actIn 3 t s fun s => s.iff (s.up && s.hasCap && !bit v 31) (·.writePmuCtrl v) := rfl

/-- The filter of the estimator's tap classes is loaded where the write does not keep it. -/
def State.pmuConfigured (s : State) (v : Word) : State :=
  if bit v 28 then s.setReg .pmuCtrl 0 (v &&& 0xFC0F00FF) else ((s.setReg .pmuCtrl 0 (v &&& 0xFC0F00FF)).pmuLoad 0).pmuLoad 1

/-- The estimator starts, or shows the first check that fails. -/
def State.pmuStart (s : State) : State :=
  if s.pmuCheck = 0 then s.modPmu fun _ => { Pmu.reset with running := true }
  else (s.modPmu fun p => { p with cfgErr := s.pmuCheck }).raise 387 s.pmuCheck

theorem State.writePmuCtrl_running (running : s.pmu.running = true) (v : Word) : s.writePmuCtrl v =
    if bit v 31 then s else (s.setRb .pmuCtrl 0 31 false).modPmu fun p => { p with running := false, live := false } := if_pos running

theorem State.writePmuCtrl_stopped (stopped : s.pmu.running = false) {v : Word} (off : bit v 31 = false) :
    s.writePmuCtrl v = s.setReg .pmuCtrl 0 (v &&& 0xFC0F00FF) := by
  rw [State.writePmuCtrl, if_neg (by simp [stopped])]
  exact if_pos (by simp [off])

theorem State.writePmuCtrl_starts (stopped : s.pmu.running = false) {v : Word} (on : bit v 31 = true) :
    s.writePmuCtrl v = (s.pmuConfigured v).pmuStart := by
  rw [State.writePmuCtrl, if_neg (by simp [stopped])]
  exact if_neg (by simp [on])

section
variable {t : Nat} {v : Word} (e : x = (s.advanceTo t).openGate 3) (rel : x.released = true) (up : x.up = true) (cap : x.hasCap = true)
include e rel up cap

theorem pmuEnable_writes (on : bit v 31 = true) : exec (.pmuEnable t v) s = .next (x.writePmuCtrl v).settle := by
  rw [actIn_settles (exec_pmuEnable t v s) e rel, State.iff, if_pos (by simp [up, cap, on])]

theorem pmuStop_writes (off : bit v 31 = false) : exec (.pmuStop t v) s = .next (x.writePmuCtrl v).settle := by
  rw [actIn_settles (exec_pmuStop t v s) e rel, State.iff, if_pos (by simp [up, cap, off])]

theorem pmuEnable_running (settled : x.Settled) (on : bit v 31 = true) (running : x.pmu.running = true) :
    exec (.pmuEnable t v) s = .next x :=
  exec_settled_eq (pmuEnable_writes e rel up cap on) settled ((State.writePmuCtrl_running running v).trans (if_pos on))

theorem pmuEnable_starts (on : bit v 31 = true) (stopped : x.pmu.running = false) :
    exec (.pmuEnable t v) s = .next (x.pmuConfigured v).pmuStart.settle := by
  rw [pmuEnable_writes e rel up cap on, State.writePmuCtrl_starts stopped on]

theorem pmuStop_running (settled : x.Settled) (off : bit v 31 = false) (running : x.pmu.running = true) : exec (.pmuStop t v) s =
    .next ((x.setRb .pmuCtrl 0 31 false).modPmu fun p => { p with running := false, live := false }) :=
  exec_settled_eq (pmuStop_writes e rel up cap off) (State.modPmu_settled (State.setRb_settled settled _ _ _ _ (by decide)) _)
    ((State.writePmuCtrl_running running v).trans (if_neg (by simp [off])))

theorem pmuStop_stopped (settled : x.Settled) (off : bit v 31 = false) (stopped : x.pmu.running = false) :
    exec (.pmuStop t v) s = .next (x.setReg .pmuCtrl 0 (v &&& 0xFC0F00FF)) :=
  exec_settled_eq (pmuStop_writes e rel up cap off) (settled.setReg _ _ _ _ (by decide)) (State.writePmuCtrl_stopped stopped off)

end

/-! ### Reports (R438, R441) -/

/-- When the report for the next instant is due: its last sample taken and the path run. -/
def State.phasorDue (s : State) : Nat := s.pmuCentre + (s.pmuTaps - 1) / 2 * s.grpPeriod (s.taskGroup s.pmuTask) + Config.precisionToBank +
  2 * (24 + s.pmuChannels.length * (s.pmuTaps + 4))

/-- A report goes out once it is due, while the estimator is live and the group of its task runs; until then nothing happens. -/
theorem phasorReport_settles {t : Nat} (e : x = (s.advanceTo t).openGate 3) (rel : x.released = true) :
    (x.pmu.running = true → x.pmu.live = true → 2 ≤ x.mode.mode → (x.grp (x.taskGroup x.pmuTask)).running = true → x.phasorDue ≤ x.clk.now →
      ∃ (psi fd : Int) (tail : Bytes), tail.length = 13 + 8 * x.pmuChannels.length ∧ exec (.phasorReport t) s =
        .next ((x.emitRecord 3 0x01 (tsBytes ((x.pmu.sec * x.pmuRate + x.pmu.m) * 32000000000 / x.pmuRate) ++ le 2 x.pmu.m ++
          le 1 x.pmuChannels.length ++ tail)).modPmu fun p =>
            { p with psi := psi, fd := fd, reports := p.reports + 1, sec := (x.pmu.sec * x.pmuRate + x.pmu.m + 1) / x.pmuRate,
                     m := (x.pmu.sec * x.pmuRate + x.pmu.m + 1) % x.pmuRate }).settle) ∧
    (x.pmu.running = false ∨ x.pmu.live = false ∨ x.mode.mode < 2 ∨ x.clk.now < x.phasorDue → exec (.phasorReport t) s = .next x.settle) := by
  have acts : exec (.phasorReport t) s = execPhasorReport t s := rfl
  unfold execPhasorReport at acts
  have run := actIn_settles acts e rel
  extract_lets g l h p chs c rate sums fch f psi d fd n dev rocof num delta flags b y at run
  refine ⟨fun running live mode on due => ?_, fun idle => ?_⟩
  · have go : ¬(!(x.pmu.running && x.pmu.live && decide (2 ≤ x.mode.mode) && (x.grp g).running &&
        decide (c + h * p + Config.precisionToBank + 2 * (24 + chs.length * (l + 4)) ≤ x.clk.now))) = true := by
      simpa [running, live, mode] using ⟨on, due⟩
    rw [if_neg go] at run
    refine ⟨psi, fd, le 1 flags ++ (le 4 (cx 32 delta) ++ (le 4 (cx 32 dev) ++ (le 4 (cx 32 rocof) ++
      sums.flatMap fun x => le 4 (cx 32 x.2.1) ++ le 4 (cx 32 x.2.2.1)))), ?_, ?_⟩
    · simp [sums, chs, List.length_flatMap, Function.comp_def]
      omega
    · rw [run]
      simp only [y, b, List.append_assoc]
      rfl
  · rw [run, if_pos]
    rcases idle with stopped | silent | low | early
    · simp [stopped]
    · simp [silent]
    · simp [low]
    · have late : ¬c + h * p + Config.precisionToBank + 2 * (24 + chs.length * (l + 4)) ≤ x.clk.now := Nat.not_le.mpr early
      simp [late]

/-- Settles O53. -/
theorem phasorEstimator : Obligations.PhasorEstimator := by
  intro s x t v e settled released
  have rel := State.released_gated e released
  obtain ⟨sends, waits⟩ := phasorReport_settles e rel
  have still := State.settle_of_settled settled
  rw [still] at waits
  refine ⟨fun up cap => ⟨pmuEnable_running e rel up cap settled, ?_, pmuStop_running e rel up cap settled,
    pmuStop_stopped e rel up cap settled⟩, ?_, ?_⟩
  · intro on stopped y configured
    have run := pmuEnable_starts e rel up cap on stopped
    rw [show x.pmuConfigured v = y from configured.symm, State.pmuStart] at run
    exact ⟨fun sound => by rw [run, if_pos sound], fun bad => by rw [run, if_neg bad]⟩
  · rintro (stopped | silent | low)
    · exact waits (.inl stopped)
    · exact waits (.inr (.inl silent))
    · exact waits (.inr (.inr (.inl low)))
  · rintro due rfl
    refine ⟨fun early => waits (.inr (.inr (.inr early))), fun running live mode on reached => ?_⟩
    obtain ⟨psi, fd, tail, size, run⟩ := sends running live mode on reached
    refine ⟨psi, fd, tail, size, exec_settled_eq run ?_ rfl⟩
    exact State.modPmu_settled ((State.emitRecord_hostOnly (State.HostOnly.refl x) _ _ _).settled settled) _

end Sys2Proof.Machine
end

section
/-! PROOFS. Retirement and return of channels: requests, refusals, deadlines (R372, R373, R376 to R379, R381). -/

namespace Sys2Proof.Machine

variable {s x : State}

/-! ### Requests (R378, R381) -/

/-- What RETIRE does. -/
def State.retireCommand (i k : Nat) (d : Desc) (s : State) : State :=
  if s.standby then (s.holdAct i k).forward 4 (65536 * (i + 1) + k) [d.arg]
  else (s.retireChannel d.arg 4).ends i k 0 ((s.retireChannel d.arg 4).health1 d.arg).state

/-- What RETURN does. -/
def State.returnCommand (i k : Nat) (d : Desc) (s : State) : State :=
  if s.standby then (s.holdAct i k).forward 5 (65536 * (i + 1) + k) [d.arg]
  else (s.returnRequest d.arg).2.ends i k (s.returnRequest d.arg).1 ((s.returnRequest d.arg).2.health1 d.arg).state

theorem exec_retire (t : Nat) (s : State) : exec (.retire t) s = act t s fun s => s.iff s.up (·.onTurn 0 0x30 State.retireCommand) := rfl

theorem exec_returnCh (t : Nat) (s : State) : exec (.returnCh t) s = act t s fun s => s.iff s.up (·.onTurn 0 0x31 State.returnCommand) := rfl

section
variable {t i k : Nat} {d : Desc} (e : x = s.advanceTo t) (up : x.up = true)
include e up

theorem retire_active (turn : x.turn 0 0x30 = some (i, k, d)) (active : x.standby = false) : exec (.retire t) s =
    .next ((x.retireChannel d.arg 4).ends i k 0 ((x.retireChannel d.arg 4).health1 d.arg).state).settle := by
  rw [onTurn_settles (exec_retire t s) e up turn, State.retireCommand, if_neg (by simp [active])]

theorem retire_standby (turn : x.turn 0 0x30 = some (i, k, d)) (standby : x.standby = true) (settled : x.Settled) :
    exec (.retire t) s = .next ((x.holdAct i k).forward 4 (65536 * (i + 1) + k) [d.arg]) :=
  exec_settled_eq (onTurn_settles (exec_retire t s) e up turn) (State.forward_settled (State.holdAct_settled settled _ _) _ _ _) (if_pos standby)

theorem returnCh_active (turn : x.turn 0 0x31 = some (i, k, d)) (active : x.standby = false) : exec (.returnCh t) s =
    .next ((x.returnRequest d.arg).2.ends i k (x.returnRequest d.arg).1 ((x.returnRequest d.arg).2.health1 d.arg).state).settle := by
  rw [onTurn_settles (exec_returnCh t s) e up turn, State.returnCommand, if_neg (by simp [active])]

theorem returnCh_standby (turn : x.turn 0 0x31 = some (i, k, d)) (standby : x.standby = true) (settled : x.Settled) :
    exec (.returnCh t) s = .next ((x.holdAct i k).forward 5 (65536 * (i + 1) + k) [d.arg]) :=
  exec_settled_eq (onTurn_settles (exec_returnCh t s) e up turn) (State.forward_settled (State.holdAct_settled settled _ _) _ _ _) (if_pos standby)

end

/-! ### What a request to retire does (R370, R372, R378) -/

theorem State.retireAsked_mode (s : State) (h : Nat) : (s.retireAsked h).mode = s.mode := State.iff_frame State.mode s _ _ fun _ => rfl
theorem State.retireAsked_var (s : State) (h : Nat) : (s.retireAsked h).var = s.var := State.iff_frame State.var s _ _ fun _ => rfl

/-- A retire request is noted beside what the channel holds. -/
theorem State.retireAsked_beside {α : Type} (g : Health → α) (k : ∀ (z : Health) (n : Nat), g { z with retireAt := n } = g z) (s : State) (h : Nat) :
    g ((s.retireAsked h).health1 h) = g (s.health1 h) := by
  unfold State.retireAsked State.iff
  split
  · rw [State.health1_modHealth1_self, k]
  · rfl

theorem State.retireAsked_at {h : Nat} (there : s.hasChannel h = true) : ((s.retireAsked h).health1 h).retireAt = coreCycle s.clk.now + 1 := by
  rw [State.retireAsked, State.iff, if_pos there, State.health1_modHealth1_self]

theorem State.retireAsked_clk (s : State) (h : Nat) : (s.retireAsked h).clk = s.clk := State.iff_frame State.clk s _ _ fun _ => rfl

theorem State.retireAsked_retirable (s : State) (h : Nat) : (s.retireAsked h).retirable h = s.retirable h := by
  unfold State.retirable State.hasChannel
  dsimp only
  rw [State.retireAsked_var, s.retireAsked_beside (·.state) (fun _ _ => rfl), s.retireAsked_beside (·.pendState) (fun _ _ => rfl)]

theorem State.retireChannel_refused {h : Nat} (held : s.retirable h = false) (c : Nat) : s.retireChannel h c = s.retireAsked h := by
  rw [State.retireChannel]
  exact if_pos (by rw [State.retireAsked_retirable, held, Bool.not_false])

/-- In modes 0 and 1 a port is Retired at once, in service it first waits for its input close. -/
theorem State.retireChannel_port {h : Nat} (open_ : s.retirable h = true) (port : h < 48) (c : Nat) : s.retireChannel h c =
    if s.mode.mode ≤ 1 then ((s.retireAsked h).modHealth1 h fun q => { q with state := 3 }).markRetired h c
    else if (s.health1 h).state = 4 then
      (((s.retireAsked h).modHealth1 h fun q => { q with state := 2 }).modPort h fun p => { p with byFrom := 0, preRel := false }).markRetired h c
    else ((s.retireAsked h).modHealth1 h fun q => { q with state := 1 }).markRetired h c := by
  rw [State.retireChannel]
  dsimp only
  rw [if_neg (by simp [State.retireAsked_retirable, open_]), if_pos port, State.retireAsked_mode, s.retireAsked_beside (·.state) fun _ _ => rfl]

theorem State.health1_congr {u : State} (h : u.health = s.health) (p : Nat) : u.health1 p = s.health1 p := by
  unfold State.health1
  rw [h]

/-! ### What a request to return does (R375, R377, R378) -/

/-- One in the core cycle of a retire request is refused. -/
theorem State.returnRequest_asked {h : Nat} (there : s.hasChannel h = true) : ((s.retireAsked h).returnRequest h).1 = 3 := by
  have same : ((s.retireAsked h).health1 h).retireAt = coreCycle (s.retireAsked h).clk.now + 1 := by
    rw [State.retireAsked_at there, State.retireAsked_clk]
  rw [State.returnRequest, if_pos same]

section
variable {h : Nat} (apart : (s.health1 h).retireAt ≠ coreCycle s.clk.now + 1)
include apart

theorem State.returnRequest_active (active : (s.health1 h).state = 0) : s.returnRequest h = (0, s) := by
  rw [State.returnRequest, if_neg apart, active]
  rfl

theorem State.returnRequest_bypassing (bypassing : (s.health1 h).state = 2) :
    s.returnRequest h = (4, s.modHealth1 h fun q => { q with held := true }) := by
  rw [State.returnRequest, if_neg apart, bypassing]
  rfl

theorem State.returnRequest_retired (retired : (s.health1 h).state = 3) : s.returnRequest h = s.tryReturn h := by
  rw [State.returnRequest, if_neg apart, retired]
  rfl

end

theorem State.tryReturn_refused {h : Nat} (refused : s.returnRefused h = true) : (s.tryReturn h).1 = 3 := by
  rw [State.tryReturn, if_pos refused]

theorem State.tryReturn_starts {h : Nat} (open_ : s.returnRefused h = false) : s.tryReturn h = (0, s.startReturn h) := by
  rw [State.tryReturn, if_neg (by simp [open_])]

/-- The state of a port after its return has started: Active in modes 0 and 1, else Returning. -/
theorem State.startReturn_port {h : Nat} (port : h < 48) (s : State) :
    ((s.startReturn h).health1 h).state = if s.mode.mode ≤ 1 then 0 else 4 := by
  unfold State.startReturn
  dsimp only
  rw [if_pos port, State.modHealth1_mode]
  split
  · rw [State.health1_modHealth1_self]
  · rw [State.health1_congr (State.modPort_health _ _ _), State.health1_modHealth1_self]

/-! ### A bypass without its confirmation, a return that takes too long (R373, R376) -/

theorem sourceOk_bypassFail (v : Variant) : sourceOk v 193 = true := by cases v <;> decide

theorem State.startReturn_quiet (s : State) (h : Nat) : s.Quiet (s.startReturn h) := by
  unfold State.startReturn
  extract_lets y
  have freed : s.Quiet y := State.modHealth1_quiet (State.Quiet.refl s) _ _
  split
  · split
    · exact State.modHealth1_quiet freed _ _
    · exact State.modPort_quiet (State.modHealth1_quiet freed _ _) _ _
  split
  · split
    · exact State.modHealth1_quiet freed _ _
    · exact State.modLg_quiet (State.modHealth1_quiet freed _ _) _ _
  · exact State.modHealth1_quiet freed _ _

theorem State.heldReturn_quiet (s : State) (p : Nat) : s.Quiet (s.heldReturn p) := by
  unfold State.heldReturn
  split
  · unfold State.tryReturn
    split <;> dsimp only
    · exact State.raise_quiet (State.modHealth1_quiet (State.Quiet.refl s) _ _) _ _ _ _
    · exact s.startReturn_quiet p
  · exact State.Quiet.refl s

theorem State.heldReturn_free {p : Nat} (free : (s.health1 p).held = false) : s.heldReturn p = s := if_neg (by simp [free])

/-- Port p's bypass was not confirmed in time. -/
def State.bypassFails (s : State) (p : Nat) : State := (s.modHealth1 p fun q => { q with state := 5 }).raise 193 p

/-- Its source names no channel to retire. -/
theorem State.bypassFails_health (s : State) (p : Nat) : (s.bypassFails p).health = (s.modHealth1 p fun q => { q with state := 5 }).health := by
  rw [State.bypassFails, State.raise_unchanneled _ p 0 false rfl]
  exact (State.watchStop_calm (State.raiseCore_calm (State.Calm.refl _) _ _ _ _) _).health

theorem exec_bypassDeadline (t p : Nat) (s : State) : exec (.bypassDeadline t p) s = act t s fun s =>
    if s.up && s.hasPort p && (s.health1 p).state = 2 && (s.port p).byFrom != 0 &&
        s.slotClose p ((s.port p).byFrom + 8000) ≤ 32 * (s.clk.now : Int) then (s.bypassFails p).heldReturn p
    else s := rfl

theorem exec_returnTimeout (t p : Nat) (s : State) : exec (.returnTimeout t p) s = act t s fun s =>
    s.iff (s.up && s.hasPort p && (s.health1 p).state = 4 && (s.port p).retFrom + 64000 ≤ s.clk.now) (·.returnFail p) := rfl

section
variable {t p : Nat} (e : x = s.advanceTo t) (up : x.up = true)
include e up

theorem bypassDeadline_runs (here : x.hasPort p = true) (bypassing : (x.health1 p).state = 2) (from_ : (x.port p).byFrom ≠ 0)
    (late : x.slotClose p ((x.port p).byFrom + 8000) ≤ 32 * (x.clk.now : Int)) : s.Runs (.bypassDeadline t p) fun u =>
      ((x.health1 p).held = false → (u.health1 p).state = 5) ∧ (x.severity 193 ≠ 0 → u.latched 193 = true) ∧
      u.tim = x.tim ∧ u.bell = x.bell ∧ u.mill = x.mill := by
  have run := act_settles (exec_bypassDeadline t p s) e (State.released_of_up up)
  rw [if_pos (by simp [up, here, bypassing, from_, late])] at run
  have after : (x.bypassFails p).Quiet ((x.bypassFails p).heldReturn p).settle :=
    ((x.bypassFails p).heldReturn_quiet p).trans (State.settle_quiet (State.Quiet.refl _))
  obtain ⟨quiet, latched⟩ := State.raise_then 193 p 0 false after
  have all := (State.modHealth1_quiet (State.Quiet.refl x) p _).trans quiet
  refine ⟨_, run, fun free => ?_, fun shown => latched (sourceOk_bypassFail _) ?_, all.tim, all.bell, all.mill⟩
  · have still : (x.bypassFails p).heldReturn p = x.bypassFails p := by
      refine State.heldReturn_free ?_
      rw [State.health1_congr (x.bypassFails_health p), State.health1_modHealth1_self]
      exact free
    rw [still, State.health1_congr (State.settle_calm (State.Calm.refl _)).health, State.health1_congr (x.bypassFails_health p), State.health1_modHealth1_self]
  · exact shown

theorem returnTimeout_fails (here : x.hasPort p = true) (returning : (x.health1 p).state = 4) (late : (x.port p).retFrom + 64000 ≤ x.clk.now) :
    exec (.returnTimeout t p) s = .next (x.returnFail p).settle := by
  rw [act_settles (exec_returnTimeout t p s) e (State.released_of_up up), State.iff, if_pos (by simp [up, here, returning, late])]

theorem returnTimeout_idle (settled : x.Settled) (elsewhere : (x.health1 p).state ≠ 4) : exec (.returnTimeout t p) s = .next x :=
  exec_settled_eq (act_settles (exec_returnTimeout t p s) e (State.released_of_up up)) settled (if_neg (by simp [elsewhere]))

end

/-- Settles O37. -/
theorem retireAndReturn : Obligations.RetireAndReturn := by
  refine ⟨fun s x t p i k d e up => ⟨retire_active e up, returnCh_active e up, retire_standby e up, returnCh_standby e up,
    bypassDeadline_runs e up, returnTimeout_fails e up, fun elsewhere settled => returnTimeout_idle e up settled elsewhere⟩, ?_⟩
  rintro s y h c rfl
  refine ⟨fun held => State.retireChannel_refused held c, fun open_ port low => ?_, fun open_ port high settled => ?_,
    State.returnRequest_asked, fun apart => ⟨State.returnRequest_active apart, State.returnRequest_bypassing apart, ?_, ?_, ?_⟩⟩
  · rw [State.retireChannel_port open_ port, if_pos low]
  · rw [State.retireChannel_port open_ port, if_neg (by omega), if_neg settled]
  · intro retired port low open_
    rw [State.returnRequest_retired apart retired, State.tryReturn_starts open_]
    exact ⟨rfl, (State.startReturn_port port s).trans (if_pos low)⟩
  · intro retired port high open_
    rw [State.returnRequest_retired apart retired, State.tryReturn_starts open_]
    exact ⟨rfl, (State.startReturn_port port s).trans (if_neg (by omega))⟩
  · intro retired refused
    rw [State.returnRequest_retired apart retired, State.tryReturn_refused refused]

end Sys2Proof.Machine
end

section
/-! PROOFS. Loading a Mill program, reading its data, the telemetry record (R342, R346, R348). -/

namespace Sys2Proof.Machine

variable {s x : State}

/-! ### MILL_LOAD (R346) -/

/-- The program p is loaded, measured with the header of its image, and the Mill is cleared. -/
def State.loadProg (s : State) (p : Prog) (b : Bytes) : State :=
  ((((s.modMill fun m => { m with prog := some p, params := [] }).showProg p).measure 4 (hdrHash b)).millClear (coreCycle s.clk.now))

/-- What MILL_LOAD does with an image b that was read to its end. -/
def State.judgeProg (s : State) (i k : Nat) (b : Bytes) : State :=
  if s.imageCheck b 2 "OCR-MILL" != 0 then s.ends i k 3 (s.imageCheck b 2 "OCR-MILL")
  else match progCheck s.var (hdrLength b) (slice b 0x2000 (hdrLength b)) with
  | some (c, j) => s.ends i k 4 (c * 65536 + j)
  | none => (s.loadProg (parseProg (slice b 0x2000 (hdrLength b))) b).ends i k 0

/-- What MILL_LOAD does with the header b. -/
def State.readProg (i k : Nat) (d : Desc) (b : Bytes) (s : State) : State :=
  if d.len < 0x2000 + hdrLength b then s.ends i k 5 else (s.hostRead (d.buf + 0x2000) (hdrLength b)).judgeProg i k b

theorem exec_millLoad (t : Nat) (buf : Option Bytes) (s : State) : exec (.millLoad t buf) s =
    actIn 0 t s fun s => s.iff s.up (·.onTurn 0 0x20 fun i k d s =>
      if s.mode.mode != 1 then s.ends i k 2
      else if d.len < 0x2000 then s.ends i k 5
      else s.readBuf i k d.buf 0x2000 buf (State.readProg i k d)) := rfl

theorem State.imageRead_frame {α : Type} (g : State → α) (h : ∀ (z : State) (a n : Nat), g (z.hostRead a n) = g z) (s : State) (a n : Nat) :
    g (s.imageRead a n) = g s := (h _ _ _).trans (h _ _ _)

theorem State.imageRead_var (s : State) (a n : Nat) : (s.imageRead a n).var = s.var := s.imageRead_frame State.var (fun _ _ _ => rfl) a n
theorem State.imageRead_sec (s : State) (a n : Nat) : (s.imageRead a n).sec = s.sec := s.imageRead_frame State.sec (fun _ _ _ => rfl) a n
theorem State.imageRead_mode (s : State) (a n : Nat) : (s.imageRead a n).mode = s.mode := s.imageRead_frame State.mode (fun _ _ _ => rfl) a n
theorem State.imageRead_tim (s : State) (a n : Nat) : (s.imageRead a n).tim = s.tim := s.imageRead_frame State.tim (fun _ _ _ => rfl) a n

/-- Reading the image changes nothing that judges it. -/
theorem State.imageRead_check (s : State) (a n : Nat) (b : Bytes) :
    (s.imageRead a n).imageCheck b 2 "OCR-MILL" = s.imageCheck b 2 "OCR-MILL" := by
  unfold State.imageCheck
  rw [State.imageRead_sec]

section
variable {t i k : Nat} {d : Desc} (e : x = (s.advanceTo t).openGate 0) (up : x.up = true) (turn : x.turn 0 0x20 = some (i, k, d))
include e up turn

theorem millLoad_mode (settled : x.Settled) (mode : x.mode.mode ≠ 1) (buf : Option Bytes) : exec (.millLoad t buf) s = .next (x.ends i k 2) :=
  exec_settled_eq (gatedTurn_settles (exec_millLoad t buf s) e up turn) (State.ends_settled settled _ _ _ _ _) (if_pos (by simp [mode]))

variable (mode : x.mode.mode = 1)
include mode

theorem millLoad_short (settled : x.Settled) (short : d.len < 0x2000) (buf : Option Bytes) :
    exec (.millLoad t buf) s = .next (x.ends i k 5) := by
  refine exec_settled_eq (gatedTurn_settles (exec_millLoad t buf s) e up turn) (State.ends_settled settled _ _ _ _ _) ?_
  rw [if_neg (by simp [mode]), if_pos short]

variable (header : 0x2000 ≤ d.len)
include header

theorem millLoad_reads (buf : Option Bytes) :
    exec (.millLoad t buf) s = .next (x.readBuf i k d.buf 0x2000 buf (State.readProg i k d)).settle := by
  rw [gatedTurn_settles (exec_millLoad t buf s) e up turn, if_neg (by simp [mode]), if_neg (by omega)]

variable (dma : x.canDma = true)
include dma

theorem millLoad_failed (settled : x.Settled) : exec (.millLoad t none) s = .next ((x.hostRead d.buf 0x2000).ends i k 0x81) :=
  exec_settled_eq (millLoad_reads e up turn mode header none) (State.ends_settled (State.hostRead_settled settled _ _) _ _ _ _ _)
    (by simp [State.readBuf, dma])

theorem millLoad_cut (settled : x.Settled) {b : Bytes} (short : d.len < 0x2000 + hdrLength b) :
    exec (.millLoad t (some b)) s = .next ((x.hostRead d.buf 0x2000).ends i k 5) := by
  refine exec_settled_eq (millLoad_reads e up turn mode header (some b)) (State.ends_settled (State.hostRead_settled settled _ _) _ _ _ _ _) ?_
  rw [State.readBuf_of_dma dma]
  exact if_pos short

variable {b : Bytes} (whole : 0x2000 + hdrLength b ≤ d.len)
include whole

theorem millLoad_judges : exec (.millLoad t (some b)) s = .next ((x.imageRead d.buf (hdrLength b)).judgeProg i k b).settle := by
  rw [millLoad_reads e up turn mode header, State.readBuf_of_dma dma, State.readProg, if_neg (by omega)]
  rfl

theorem millLoad_bad (settled : x.Settled) (bad : x.imageCheck b 2 "OCR-MILL" ≠ 0) : exec (.millLoad t (some b)) s =
    .next ((x.imageRead d.buf (hdrLength b)).ends i k 3 (x.imageCheck b 2 "OCR-MILL")) := by
  refine exec_settled_eq (millLoad_judges e up turn mode header dma whole)
    (State.ends_settled (State.imageRead_settled settled _ _) _ _ _ _ _) ?_
  rw [State.judgeProg, State.imageRead_check]
  exact if_pos (by simp [bad])

variable (good : x.imageCheck b 2 "OCR-MILL" = 0)
include good

theorem millLoad_refused (settled : x.Settled) {c j : Nat} (refused : progCheck x.var (hdrLength b) (slice b 0x2000 (hdrLength b)) = some (c, j)) :
    exec (.millLoad t (some b)) s = .next ((x.imageRead d.buf (hdrLength b)).ends i k 4 (c * 65536 + j)) := by
  refine exec_settled_eq (millLoad_judges e up turn mode header dma whole)
    (State.ends_settled (State.imageRead_settled settled _ _) _ _ _ _ _) ?_
  rw [State.judgeProg, State.imageRead_check, if_neg (by simp [good]), State.imageRead_var, refused]

theorem millLoad_loads (passed : progCheck x.var (hdrLength b) (slice b 0x2000 (hdrLength b)) = none) : exec (.millLoad t (some b)) s =
    .next (((x.imageRead d.buf (hdrLength b)).loadProg (parseProg (slice b 0x2000 (hdrLength b))) b).ends i k 0).settle := by
  rw [millLoad_judges e up turn mode header dma whole, State.judgeProg, State.imageRead_check, if_neg (by simp [good]),
    State.imageRead_var, passed]

end

/-- Showing a program writes registers alone. -/
theorem State.showProg_frame {α : Type} (g : State → α) (h : ∀ (z : State) (r : Reg) (i j : Nat) (v : Word), g (z.setReg r i v j) = g z)
    (s : State) (p : Prog) : g (s.showProg p) = g s := by
  unfold State.showProg
  extract_lets shown costs
  have words : g shown = g s := (h _ _ _ _ _).trans (h _ _ _ _ _)
  have costed : g costs = g shown := State.forAll_frame g _ _ _ fun _ z => h z _ _ _ _
  refine (State.forAll_frame g _ _ _ fun _ z => ?_).trans (costed.trans words)
  exact (h _ _ _ _ _).trans (h _ _ _ _ _)

/-- The setpoints that wait end without a change beside the Mill's list and the pair. -/
theorem State.setpointsDone_mild (s : State) (ids : List Nat) (v : Nat) :
    (s.modMill fun m => { m with setps := m.setps.filter fun e => !ids.contains e.1 }).Mild (s.setpointsDone ids v) := by
  unfold State.setpointsDone State.forAll
  extract_lets y
  refine List.foldlRecOn ids _ (State.Mild.refl y) fun z q k _ => ?_
  exact State.answer_mild q _ _ _

/-- The Mill holds program p without parameters that wait, and its blocks and nodes are clear. -/
def Mill.Fresh (m : Mill) (p : Option Prog) : Prop := m.prog = p ∧ m.params = [] ∧ m.blocks = [] ∧ m.nodes = []

theorem State.millClear_fresh (none_ : s.mill.params = []) (c : Nat) : (s.millClear c).mill.Fresh s.mill.prog := by
  unfold State.millClear
  extract_lets ids cleared started
  have kept {α : Type} (g : Mill → α) (h : ∀ (m : Mill) l, g { m with tasks := l } = g m) : g started.mill = g cleared.mill :=
    State.forAll_frame (fun z => g z.mill) _ _ _ fun _ z => h z.mill _
  rw [(started.setpointsDone_mild ids 0).mill, State.modMill_mill]
  exact ⟨(kept (·.prog) fun _ _ => rfl).trans rfl, (kept (·.params) fun _ _ => rfl).trans none_,
    (kept (·.blocks) fun _ _ => rfl).trans rfl, (kept (·.nodes) fun _ _ => rfl).trans rfl⟩

/-- Clearing the Mill leaves what an answer leaves. -/
theorem State.millClear_frame {α : Type} (g : State → α) (h : ∀ (z : State) (f : Mill → Mill), g (z.modMill f) = g z)
    (m : ∀ (z : State) (t : Nat) (f : MTask → MTask), g (z.modTask t f) = g z) (k : ∀ y z : State, y.Mild z → g z = g y) (s : State) (c : Nat) : g (s.millClear c) = g s := by
  unfold State.millClear
  extract_lets ids cleared started
  rw [k _ _ (started.setpointsDone_mild ids 0), h]
  exact (State.forAll_frame g _ _ _ fun _ z => m z _ _).trans (h s _)

theorem State.measure_mill (s : State) (n : Nat) (b : Bytes) : (s.measure n b).mill = s.mill := rfl
theorem State.measure_mode (s : State) (n : Nat) (b : Bytes) : (s.measure n b).mode = s.mode := rfl
theorem State.measure_tim (s : State) (n : Nat) (b : Bytes) : (s.measure n b).tim = s.tim := rfl

theorem State.loadProg_fresh (s : State) (p : Prog) (b : Bytes) : (s.loadProg p b).mill.Fresh (some p) := by
  have shown : (((s.modMill fun m => { m with prog := some p, params := [] }).showProg p).measure 4 (hdrHash b)).mill =
      { s.mill with prog := some p, params := [] } := by
    rw [State.measure_mill, State.showProg_frame State.mill fun _ _ _ _ _ => rfl, State.modMill_mill]
  have fresh := State.millClear_fresh (s := ((s.modMill fun m => { m with prog := some p, params := [] }).showProg p).measure 4 (hdrHash b))
    (by rw [shown]) (coreCycle s.clk.now)
  rwa [shown] at fresh

theorem State.loadProg_mode (s : State) (p : Prog) (b : Bytes) : (s.loadProg p b).mode = s.mode := by
  rw [State.loadProg, State.millClear_frame State.mode (fun _ _ => rfl) (fun _ _ _ => rfl) (fun _ _ mild => mild.mode), State.measure_mode,
    State.showProg_frame State.mode fun _ _ _ _ _ => rfl, State.modMill_mode]

theorem State.loadProg_tim (s : State) (p : Prog) (b : Bytes) : (s.loadProg p b).tim = s.tim := by
  rw [State.loadProg, State.millClear_frame State.tim (fun _ _ => rfl) (fun _ _ _ => rfl) (fun _ _ mild => mild.tim), State.measure_tim,
    State.showProg_frame State.tim fun _ _ _ _ _ => rfl, State.modMill_tim]

/-- The end of a descriptor and of the step leave what a calm step leaves. -/
theorem State.ends_calm (s : State) (i k status value len : Nat) : s.Calm (s.ends i k status value len).settle :=
  State.settle_calm (State.finishAct_hostOnly (State.HostOnly.refl s) i k _).calm

/-! ### MIL_DATA (R348) -/

/-- Words are latched at the first n places of an array. -/
def State.latchList (s : State) (r : Reg) (w : List Word) (n : Nat) : State :=
  (List.range n).foldl (fun s i => s.setLatch (r.addr i) (nth w i 0)) s

theorem exec_milDataRead (t : Nat) (s : State) : exec (.milDataRead t) s = actIn 0 t s fun s =>
    if !s.up then { s with rdata := 0 } else { s.latchList .milData s.milWords 4 with rdata := nth s.milWords 0 0 } := rfl

theorem State.latchAt_latchList (s : State) {r : Reg} {n j : Nat} (w : List Word) (step : 0 < r.row.s1) (lt : j < n) :
    (s.latchList r w n).latchAt (r.addr j) = nth w j 0 := by
  unfold State.latchList
  induction n with
  | zero => omega
  | succ n ih =>
    rw [List.range_succ, List.foldl_append]
    by_cases last : j = n
    · subst last
      exact State.latchAt_setLatch_self _ _ _
    · have apart : r.addr j ≠ r.addr n := by
        have : r.row.s1 * j ≠ r.row.s1 * n := fun e => last (Nat.eq_of_mul_eq_mul_left step e)
        unfold Reg.addr
        omega
      exact (State.latchAt_setLatch_ne _ _ apart).trans (ih (by omega))

theorem State.latchList_frame {α : Type} (g : State → α) (h : ∀ (z : State) (a : Nat) (v : Word), g (z.setLatch a v) = g z) (s : State)
    (r : Reg) (w : List Word) (n : Nat) : g (s.latchList r w n) = g s :=
  foldl_frame g _ (fun y _ => h y _ _) s

theorem State.setRdata_settled (h : s.Settled) (v : Word) : State.Settled { s with rdata := v } := h.of_same rfl rfl rfl

theorem State.latchList_settled (h : s.Settled) (r : Reg) (w : List Word) (n : Nat) : (s.latchList r w n).Settled := by
  refine h.of_same ?_ ?_ ?_
  · exact State.latchList_frame (·.wch.batch) (fun _ _ _ => rfl) s r w n
  · exact State.latchList_frame (·.saf.trip) (fun _ _ _ => rfl) s r w n
  · exact State.latchList_frame (·.regs) (fun _ _ _ => rfl) s r w n

theorem State.latchAt_setRdata (s : State) (v : Word) (off : Nat) : State.latchAt { s with rdata := v } off = s.latchAt off := rfl

theorem milDataRead_latches {t : Nat} (e : x = (s.advanceTo t).openGate 0) (up : x.up = true) (settled : x.Settled) :
    s.Runs (.milDataRead t) fun u => u.rdata = nth x.milWords 0 0 ∧ (∀ j, j < 4 → u.latchAt (Reg.milData.addr j) = nth x.milWords j 0) ∧
      u.regs = x.regs ∧ u.mill = x.mill := by
  have run := exec_settled_eq (actIn_settles (exec_milDataRead t s) e (State.released_of_up up))
    (State.setRdata_settled (State.latchList_settled settled .milData x.milWords 4) (nth x.milWords 0 0)) (if_neg (by simp [up]))
  exact ⟨_, run, rfl, fun j lt => (State.latchAt_setRdata _ _ _).trans (x.latchAt_latchList x.milWords (by decide) lt),
    State.latchList_frame State.regs (fun _ _ _ => rfl) x .milData x.milWords 4,
    State.latchList_frame State.mill (fun _ _ _ => rfl) x .milData x.milWords 4⟩

/-! ### Telemetry (R342) -/

theorem exec_telemetryRecord (t : Nat) (s : State) : exec (.telemetryRecord t) s = actIn 0 t s fun s =>
    if s.up && s.rb .milTlmCtrl 0 31 && s.clk.now % (s.rf .milTlmCtrl 0 19 0 * 1000) = 0 then s.emitRecord 15 0x01 (s.teleBytes s.wchStatusWord)
    else s := rfl

section
variable {t : Nat} (e : x = (s.advanceTo t).openGate 0) (settled : x.Settled)
include e settled

theorem milDataRead_dark (rel : x.released = true) (down : x.up = false) : exec (.milDataRead t) s = .next { x with rdata := 0 } :=
  exec_settled_eq (actIn_settles (exec_milDataRead t s) e rel) (State.setRdata_settled settled 0) (if_pos (by simp [down]))

theorem telemetryRecord_goes (up : x.up = true) (on : x.rb .milTlmCtrl 0 31 = true) (due : x.clk.now % (x.rf .milTlmCtrl 0 19 0 * 1000) = 0) :
    exec (.telemetryRecord t) s = .next (x.emitRecord 15 0x01 (x.teleBytes x.wchStatusWord)) :=
  exec_settled_eq (actIn_settles (exec_telemetryRecord t s) e (State.released_of_up up))
    ((State.emitRecord_hostOnly (State.HostOnly.refl x) _ _ _).settled settled) (if_pos (by simp [up, on, due]))

theorem telemetryRecord_idle (rel : x.released = true)
    (idle : x.rb .milTlmCtrl 0 31 = false ∨ x.clk.now % (x.rf .milTlmCtrl 0 19 0 * 1000) ≠ 0) : exec (.telemetryRecord t) s = .next x := by
  refine exec_settled_eq (actIn_settles (exec_telemetryRecord t s) e rel) settled (if_neg ?_)
  rcases idle with off | between
  · simp [off]
  · simp [between]

end

/-- Settles O39. -/
theorem millProgramsAndTelemetry : Obligations.MillProgramsAndTelemetry := by
  refine fun s x t e settled => ⟨fun i k d b z c n up turn size check read => ⟨?_, ?_, fun mode header dma => ⟨?_, ?_, fun whole => ?_⟩⟩,
    fun up => milDataRead_latches e up settled, fun rel => milDataRead_dark e settled (State.released_gated e rel),
    fun up => telemetryRecord_goes e settled up, fun rel => telemetryRecord_idle e settled (State.released_gated e rel)⟩
  · exact fun mode => millLoad_mode e up turn settled mode _
  · exact fun mode short => millLoad_short e up turn mode settled short _
  · exact millLoad_failed e up turn mode header dma settled
  · subst size
    exact fun short => millLoad_cut e up turn mode header dma settled short
  · subst size check read
    refine ⟨fun bad => millLoad_bad e up turn mode header dma whole settled bad,
      fun c j good refused => millLoad_refused e up turn mode header dma whole good settled refused, fun good passed => ?_⟩
    have calm := ((x.imageRead d.buf (hdrLength b)).loadProg (parseProg (slice b 0x2000 (hdrLength b))) b).ends_calm i k 0 0 0
    obtain ⟨prog, params, blocks, nodes⟩ := (x.imageRead d.buf (hdrLength b)).loadProg_fresh (parseProg (slice b 0x2000 (hdrLength b))) b
    refine ⟨_, millLoad_loads e up turn mode header dma whole good passed, ?_⟩
    dsimp only
    rw [calm.mill, calm.mode, calm.tim, State.loadProg_mode, State.loadProg_tim, State.imageRead_mode, State.imageRead_tim]
    exact ⟨prog, params, blocks, nodes, rfl, rfl⟩

end Sys2Proof.Machine
end

section
/-! PROOFS. Frames of the pair link (R370, R385, R386, R388, R392, R395). -/

namespace Sys2Proof.Machine

variable {s x : State}

/-! ### Frames that are sent (R385, R386) -/

/-- The checked part of a pair frame. -/
def State.pairBody (s : State) (two : Bool) (n : Nat) (msgs : Bytes) : Bytes :=
  le 1 (if two then 1 else 2) ++ le 1 (b2n s.pair.active + 2 * b2n s.paired) ++ le 1 s.pair.st ++ le 1 s.unitNo ++
    le 2 (s.rf .belCtrl 0 13 0) ++ le 8 (n % 2 ^ 40) ++ le 8 (((s.pair.stamps.find? fun e => e.1 + 1 = n).map fun e => e.2).getD 0) ++
    le 2 msgs.length ++ zeros 6 ++ padTo (if two then 1214 else 589) msgs

/-- The bytes of a pair frame around its checked part. -/
def pairBytes (two : Bool) (body : Bytes) : Bytes := (if two then le 2 0xBCBC else le 2 0x00BC) ++ body ++ le 4 (crc32 body)

/-- The messages of a frame, of those that wait. -/
def frameMsgs (two : Bool) (out : List (Nat × Bytes)) : Bytes := (out.take (fitMsgs (if two then 1214 else 589) out)).flatMap msgBytes

/-- Frame n is formed from the messages that wait. -/
def State.sendPairFrame (s : State) (two : Bool) (n : Nat) (out : List (Nat × Bytes)) : State := s.modPair fun p =>
  { p with formed := n + 1, tx := pairBytes two (s.pairBody two n (frameMsgs two out)), outbox := out.drop (fitMsgs (if two then 1214 else 589) out),
           stamps := p.stamps.filter fun e => n ≤ e.1 + 1 }

/-- What one lane cannot carry is dropped. -/
def State.dropWide (s : State) (two : Bool) : State :=
  s.iff (!two) (·.modPair fun p => { p with outbox := p.outbox.filter fun m => m.1 != 0x01 && m.1 != 0x0B })

/-- A unit in Link adds its DIGEST at every 1000th frame. -/
def State.addDigest (s : State) (n : Nat) : State := s.iff (s.pair.st = 1 && n % 1000 = 0) (·.pairSend 0x0C s.digestBytes)

theorem exec_pairFrameForm (t : Nat) (s : State) : exec (.pairFrameForm t) s = actIn 2 t s fun s =>
    if !(s.up && s.hasPeer && s.pair.st != 0 && ((s.health1 104).state = 0 || (s.health1 105).state = 0) && s.clk.now % 1000 = 0 &&
        s.pair.formed ≤ s.clk.now / 1000) then s
    else ((s.addDigest (s.clk.now / 1000)).dropWide s.twoLanes).sendPairFrame s.twoLanes (s.clk.now / 1000)
      (sendOrder ((s.addDigest (s.clk.now / 1000)).dropWide s.twoLanes).pair.outbox) := rfl

/-- What the checked part shows of the unit. -/
theorem State.pairBody_congr {y : State} (active : y.pair.active = x.pair.active) (paired : y.paired = x.paired) (st : y.pair.st = x.pair.st)
    (stamps : y.pair.stamps = x.pair.stamps) (regs : y.regs = x.regs) (two : Bool) (n : Nat) (msgs : Bytes) :
    y.pairBody two n msgs = x.pairBody two n msgs := by
  have unit : y.unitNo = x.unitNo := State.rf_congr regs _ _ _ _
  have field : y.rf .belCtrl 0 13 0 = x.rf .belCtrl 0 13 0 := State.rf_congr regs _ _ _ _
  unfold State.pairBody
  rw [active, paired, st, stamps, unit, field]

theorem State.paired_modOutbox (s : State) (f : Pair → List (Nat × Bytes)) : (s.modPair fun p => { p with outbox := f p }).paired = s.paired := rfl

theorem State.pairSend_paired (s : State) (kind : Nat) (b : Bytes) : (s.pairSend kind b).paired = s.paired := by
  unfold State.pairSend
  split
  · exact s.paired_modOutbox _
  · rfl

theorem State.pairSend_body (s : State) (kind : Nat) (b : Bytes) (two : Bool) (n : Nat) (msgs : Bytes) :
    (s.pairSend kind b).pairBody two n msgs = s.pairBody two n msgs :=
  State.pairBody_congr (s.pairSend_beside (·.active) (fun _ _ => rfl) _ _) (s.pairSend_paired _ _)
    (s.pairSend_beside (·.st) (fun _ _ => rfl) _ _) (s.pairSend_beside (·.stamps) (fun _ _ => rfl) _ _)
    (State.pairSend_frame State.regs (fun _ _ => rfl) _ _ _) _ _ _

theorem State.addDigest_body (s : State) (m : Nat) (two : Bool) (n : Nat) (msgs : Bytes) :
    (s.addDigest m).pairBody two n msgs = s.pairBody two n msgs :=
  State.iff_frame (·.pairBody two n msgs) s _ _ fun z => z.pairSend_body _ _ _ _ _

theorem State.addDigest_settled (h : s.Settled) (m : Nat) : (s.addDigest m).Settled :=
  State.iff_settled h _ _ fun _ still => State.pairSend_settled still _ _

theorem State.dropWide_outbox (s : State) (two : Bool) : (s.dropWide two).pair.outbox =
    if two = true then s.pair.outbox else s.pair.outbox.filter fun m => m.1 != 0x01 && m.1 != 0x0B := by
  cases two <;> rfl

/-- A frame that is formed replaces the messages that wait, with those that were dropped. -/
theorem State.dropWide_sends (s : State) (two : Bool) (n : Nat) (out : List (Nat × Bytes)) :
    (s.dropWide two).sendPairFrame two n out = s.sendPairFrame two n out := by
  cases two with
  | true => rfl
  | false =>
    have body : (s.dropWide false).pairBody false n (frameMsgs false out) = s.pairBody false n (frameMsgs false out) :=
      State.pairBody_congr rfl (s.paired_modOutbox _) rfl rfl rfl _ _ _
    rw [State.sendPairFrame, body]
    rfl

section
variable {t : Nat} (e : x = (s.advanceTo t).openGate 2) (up : x.up = true) (peer : x.hasPeer = true) (on : x.pair.st ≠ 0) (settled : x.Settled)
  (lane : (x.health1 104).state = 0 ∨ (x.health1 105).state = 0)
include e up settled

include peer on lane in
theorem pairFrameForm_sends (slot : x.clk.now % 1000 = 0) (fresh : x.pair.formed ≤ x.clk.now / 1000) : exec (.pairFrameForm t) s =
    .next ((x.addDigest (x.clk.now / 1000)).sendPairFrame x.twoLanes (x.clk.now / 1000)
      (sendOrder ((x.addDigest (x.clk.now / 1000)).dropWide x.twoLanes).pair.outbox)) := by
  refine exec_settled_eq (actIn_settles (exec_pairFrameForm t s) e (State.released_of_up up))
    (State.modPair_settled (State.addDigest_settled settled _) _) ?_
  rw [if_neg (by simpa [up, peer, on, slot, fresh, or_iff_not_imp_left] using lane), State.dropWide_sends]

theorem pairFrameForm_idle (idle : x.clk.now % 1000 ≠ 0 ∨ x.clk.now / 1000 < x.pair.formed) : exec (.pairFrameForm t) s = .next x := by
  refine exec_settled_eq (actIn_settles (exec_pairFrameForm t s) e (State.released_of_up up)) settled (if_pos ?_)
  rcases idle with between | formed
  · simp [between]
  · simp [formed]

end

/-! ### Frames that arrive (R387, R388, R392, R395) -/

/-- The lanes in use see an event. -/
def State.lanesEvent (s : State) : State := (s.iff s.pair.lane0 (·.laneEvent 0)).iff s.pair.lane1 (·.laneEvent 1)

theorem exec_pairFrame (t rx : Nat) (f : Bytes) (clean : Bool) (s : State) : exec (.pairFrame t rx f clean) s = actIn 2 t s fun s =>
    if !(s.up && s.hasPeer && s.pair.st != 0 && rx + 32000 ≤ 32 * (s.clk.now + 1)) then s
    else match pairGood f clean with
      | some l => s.pairGoodFrame rx f l
      | none => if clean && (f.length = 1250 || f.length = 625) && !pairCrcOk f then s.lanesEvent else s := rfl

/-- The word of PAIR_PEER for frame f. -/
def peerWord (f : Bytes) : Word := word (lef f 6 2 * 2 ^ 16 + lef f 4 1 * 2 ^ 13 + lef f 3 1 % 2 * 2 ^ 12)

/-- What a frame on two lanes from a seen peer tells the pair; z0 and z1: the lanes are in use. -/
def Pair.hear (p : Pair) (z0 z1 : Bool) (rx : Nat) (f : Bytes) : Pair :=
  { p with lane0 := z0, lane1 := z1, resync0 := false, resync1 := false, peerSt := lef f 4 1, rxStamp := rx, rxFrame := lef f 8 5,
           stamps := (lef f 8 5, rx) :: p.stamps }

theorem State.modPair_modPair (s : State) (f g : Pair → Pair) : (s.modPair f).modPair g = s.modPair fun p => g (f p) := rfl
theorem State.setReg_modPair (s : State) (f : Pair → Pair) (r : Reg) (i j : Nat) (v : Word) :
    (s.modPair f).setReg r i v j = (s.setReg r i v j).modPair f := rfl

theorem State.iff_modPair (s : State) (c : Bool) (f : Pair → Pair) : s.iff c (·.modPair f) = s.modPair fun p => if c then f p else p := by
  cases c <;> rfl

/-- A value d that counts is added up. -/
def Pair.add (p : Pair) (ok : Bool) (d : Int) : Pair := if ok then { p with sum := p.sum + d, cnt := p.cnt + 1 } else p

/-- An active unit in Paired follows its peer's state ps. -/
def Pair.follow (p : Pair) (ps : Nat) : Pair := { p with snapWant := ps = 2, st := if ps ≤ 1 ∨ 5 ≤ ps then 5 else p.st }

theorem Pair.add_beside {α : Type} (g : Pair → α) (h : ∀ (p : Pair) (a : Int) (n : Nat), g { p with sum := a, cnt := n } = g p) (p : Pair)
    (ok : Bool) (d : Int) : g (p.add ok d) = g p := by
  unfold Pair.add
  split
  · exact h p _ _
  · rfl

/-- A value of D before the 256th is added up. -/
theorem State.pairMeasure_adds (few : s.pair.cnt ≠ 255) (ok : Bool) (d : Int) (unit : Nat) :
    s.iff ok (·.pairMeasure d unit) = s.modPair (·.add ok d) := by
  cases ok with
  | false => rfl
  | true =>
    rw [State.iff, if_pos rfl, State.pairMeasure]
    exact if_pos (by simpa using few)

theorem State.followPeer_paired (active : s.pair.active = true) (paired : s.pair.st = 3) (ps : Nat) :
    s.followPeer ps = s.modPair (·.follow ps) := by
  have follows : s.followPeer ps =
      (s.modPair fun p => { p with snapWant := ps = 2 }).iff (ps = 0 || ps = 1 || 5 ≤ ps) (·.modPair fun p => { p with st := 5 }) := by
    unfold State.followPeer
    rw [if_neg (by simp [active, paired])]
    exact if_pos (by simp [paired])
  have same : (ps = 0 || ps = 1 || 5 ≤ ps) = decide (ps ≤ 1 ∨ 5 ≤ ps) := by
    rw [Bool.eq_iff_iff]
    simp
    omega
  rw [follows, same, State.iff_modPair, State.modPair_modPair]
  refine congrArg s.modPair (funext fun p => ?_)
  unfold Pair.follow
  by_cases leaves : ps ≤ 1 ∨ 5 ≤ ps
  · rw [if_pos leaves, if_pos (decide_eq_true leaves)]
  · rw [if_neg leaves, if_neg (by simpa using leaves)]

/-- A frame on two lanes from a seen peer, at a unit in Paired. -/
theorem State.pairGoodFrame_paired {f : Bytes} (two : lef f 2 1 = 1) (seen : s.pair.peerSeen = true) (paired : s.pair.st = 3) (rx : Nat) :
    ∃ (ok : Bool) (d : Int), s.pairGoodFrame rx f [] =
      (((s.setReg .pairPeer 0 (peerWord f)).modPair fun p => p.hear ((s.health1 104).state = 0) ((s.health1 105).state = 0) rx f).iff ok
        (·.pairMeasure d (lef f 5 1))).followPeer (lef f 4 1) := by
  unfold State.pairGoodFrame
  extract_lets n ps unit laned told shown known prev ok d heard measured joined
  have lanes : laned = s.modPair fun p =>
    { p with lane0 := (s.health1 104).state = 0, lane1 := (s.health1 105).state = 0, resync0 := false, resync1 := false } := if_pos two
  have same : known = shown := by
    have told_pair : shown.pair.peerSeen = true ∧ shown.pair.st = 3 := by
      rw [show shown.pair = told.pair from rfl]
      simp [told, lanes, seen, paired]
    simp [known, told_pair, State.iff]
  have kept : joined = measured := if_neg (by simp [two])
  have hears : heard = (s.setReg .pairPeer 0 (peerWord f)).modPair fun p =>
      p.hear ((s.health1 104).state = 0) ((s.health1 105).state = 0) rx f := by
    simp only [heard, same, shown, told, lanes, State.setReg_modPair, State.modPair_modPair]
    rfl
  refine ⟨ok, d, ?_⟩
  rw [kept, List.foldl_nil, ← hears]

/-- What such a frame makes of the unit: PAIR_PEER and the pair. -/
theorem State.pairGoodFrame_pair {f : Bytes} (two : lef f 2 1 = 1) (seen : s.pair.peerSeen = true) (paired : s.pair.st = 3)
    (active : s.pair.active = true) (few : s.pair.cnt ≠ 255) (rx : Nat) :
    ∃ (z0 z1 ok : Bool) (d : Int), s.pairGoodFrame rx f [] =
      (s.setReg .pairPeer 0 (peerWord f)).modPair fun p => ((p.hear z0 z1 rx f).add ok d).follow (lef f 4 1) := by
  obtain ⟨ok, d, run⟩ := State.pairGoodFrame_paired two seen paired rx
  refine ⟨decide ((s.health1 104).state = 0), decide ((s.health1 105).state = 0), ok, d, run.trans ?_⟩
  rw [State.pairMeasure_adds (s := (s.setReg .pairPeer 0 (peerWord f)).modPair fun p => p.hear _ _ rx f) few, State.modPair_modPair,
    State.followPeer_paired, State.modPair_modPair]
  · rw [State.modPair_pair]
    exact (Pair.add_beside (·.active) (fun _ _ _ => rfl) _ _ _).trans active
  · rw [State.modPair_pair]
    exact (Pair.add_beside (·.st) (fun _ _ _ => rfl) _ _ _).trans paired

theorem exec_pairLaneAlignmentLoss (t lane : Nat) (s : State) : exec (.pairLaneAlignmentLoss t lane) s = actIn 2 t s fun s =>
    if s.up && s.hasPeer && s.pair.st != 0 && lane < 2 then
      (s.modPair fun p => if lane = 0 then { p with lane0 := false } else { p with lane1 := false }).laneEvent lane
    else s := rfl

section
variable {t rx : Nat} {f : Bytes} {clean : Bool} (e : x = (s.advanceTo t).openGate 2) (up : x.up = true) (peer : x.hasPeer = true)
  (on : x.pair.st ≠ 0)
include e up peer on

section
variable (whole : rx + 32000 ≤ 32 * (x.clk.now + 1))
include whole

theorem pairFrame_good {l : List (Nat × Bytes)} (good : pairGood f clean = some l) :
    exec (.pairFrame t rx f clean) s = .next (x.pairGoodFrame rx f l).settle := by
  rw [actIn_settles (exec_pairFrame t rx f clean s) e (State.released_of_up up), if_neg (by simp [up, peer, on, whole]), good]

theorem pairFrame_bad (bad : pairGood f clean = none) : exec (.pairFrame t rx f clean) s =
    .next (if clean && (f.length = 1250 || f.length = 625) && !pairCrcOk f then x.lanesEvent else x).settle := by
  rw [actIn_settles (exec_pairFrame t rx f clean s) e (State.released_of_up up), if_neg (by simp [up, peer, on, whole]), bad]

theorem pairFrame_paired (settled : x.Settled) (good : pairGood f clean = some []) (two : lef f 2 1 = 1) (seen : x.pair.peerSeen = true)
    (paired : x.pair.st = 3) (active : x.pair.active = true) (few : x.pair.cnt ≠ 255) : s.Runs (.pairFrame t rx f clean) fun u =>
      u.reg .pairPeer 0 = peerWord f ∧ u.pair.rxStamp = rx ∧ u.pair.rxFrame = lef f 8 5 ∧
      u.pair.st = (if lef f 4 1 ≤ 1 ∨ 5 ≤ lef f 4 1 then 5 else 3) ∧ u.pair.active = true ∧ u.pair.peerSt = lef f 4 1 ∧
      u.ports = x.ports ∧ u.mode = x.mode ∧ u.gce = x.gce := by
  obtain ⟨z0, z1, ok, d, made⟩ := State.pairGoodFrame_pair two seen paired active few rx
  have run := exec_settled_eq (pairFrame_good e up peer on whole good)
    (State.modPair_settled (settled.setReg .pairPeer 0 0 (peerWord f) (by decide)) _) made
  refine ⟨_, run, x.reg_setReg_self .pairPeer 0 0 _, ?_, ?_, ?_, ?_, ?_, ?_, ?_, ?_⟩
  · exact Pair.add_beside (·.rxStamp) (fun _ _ _ => rfl) _ _ _
  · exact Pair.add_beside (·.rxFrame) (fun _ _ _ => rfl) _ _ _
  · refine congrArg (fun n => if lef f 4 1 ≤ 1 ∨ 5 ≤ lef f 4 1 then 5 else n) ?_
    exact (Pair.add_beside (·.st) (fun _ _ _ => rfl) _ _ _).trans paired
  · exact (Pair.add_beside (·.active) (fun _ _ _ => rfl) _ _ _).trans active
  · exact Pair.add_beside (·.peerSt) (fun _ _ _ => rfl) _ _ _
  · rw [State.modPair_ports, State.setReg_ports]
  · rw [State.modPair_mode, State.setReg_mode]
  · rw [State.modPair_gce, State.setReg_gce]

end

theorem pairLaneAlignmentLoss_settles {lane : Nat} (lt : lane < 2) : exec (.pairLaneAlignmentLoss t lane) s =
    .next ((x.modPair fun p => if lane = 0 then { p with lane0 := false } else { p with lane1 := false }).laneEvent lane).settle := by
  rw [actIn_settles (exec_pairLaneAlignmentLoss t lane s) e (State.released_of_up up), if_pos (by simp [up, peer, on, lt])]

end

/-- Settles O48. -/
theorem pairFrames : Obligations.PairFrames := by
  intro s x y t n two e up peer on slot
  refine ⟨?_, fun rx f clean whole => ⟨fun l good => pairFrame_good e up peer on whole good, ?_, ?_, ?_⟩, ?_, ?_⟩
  · intro lanes lane settled digested
    subst slot
    have both : two = x.twoLanes := lanes
    have sent : y = x.addDigest (x.clk.now / 1000) := by
      rw [digested, State.addDigest, State.iff]
      simp
    refine ⟨fun first fresh box out body msgs area hbox hout harea hmsgs hbody => ?_, pairFrameForm_idle e up settled⟩
    have run := pairFrameForm_sends e up peer on settled lane first fresh
    have boxed : ((x.addDigest (x.clk.now / 1000)).dropWide x.twoLanes).pair.outbox = box := by
      rw [State.dropWide_outbox, hbox, sent, both]
    rw [boxed, ← sent, ← both] at run
    have ordered : sendOrder box = out := hout.symm
    have shown : y.pairBody two (x.clk.now / 1000) msgs = body := by
      rw [sent, State.addDigest_body, hbody, harea]
      rfl
    rw [run, ordered, State.sendPairFrame, harea.symm, show frameMsgs two out = msgs by rw [hmsgs, harea]; rfl, shown]
    rfl
  · exact fun good double seen paired active few settled => pairFrame_paired e up peer on whole settled good double seen paired active few
  · intro bad checked size crc
    rw [pairFrame_bad e up peer on whole bad, if_pos (by simp [checked, size, crc])]
    rfl
  · intro bad errors settled
    exact exec_settled_eq (pairFrame_bad e up peer on whole bad) settled (if_neg (by simp [errors]))
  · exact pairLaneAlignmentLoss_settles e up peer on (by decide)
  · exact pairLaneAlignmentLoss_settles e up peer on (by decide)

end Sys2Proof.Machine
end

section
/-! PROOFS. Calibration values in force, of precision and of fast cores alike (R298, R300, R306, R311). -/

namespace Sys2Proof.Machine

variable {s x : State}

/-- Setting a bit leaves another one. -/
theorem bit_wfld_set_ne (w : Word) {m n : Nat} (apart : m ≠ n) : bit (wfld w m m (b2n true)) n = bit w n := by
  show bit (wfld w m m 1) n = bit w n
  rw [wfld_set]
  unfold bit word
  rw [BitVec.getLsbD_or, BitVec.getLsbD_ofNat, Nat.testBit_two_pow_of_ne apart]
  simp

theorem State.rb_setRb_ne (s : State) (r : Reg) (i : Nat) {m n : Nat} (apart : m ≠ n) : (s.setRb r i m true).rb r i n = s.rb r i n := by
  unfold State.rb State.setRb State.setRf
  rw [State.reg_setReg_self]
  exact bit_wfld_set_ne _ apart

theorem State.reg_setRb_ne (s : State) (r q : Reg) (i j k n : Nat) (b : Bool) (apart : q.addr j k ≠ r.addr i) :
    (s.setRb r i n b).reg q j k = s.reg q j k := s.reg_setReg_ne r q i 0 j k _ apart

/-! ### New coefficients (R298) -/

/-- The values of a calibration of core c go to band b, and its status bit goes from failed to done. -/
def State.storeCal (s : State) (ofs gain status : Reg) (c b : Nat) (o : Int) (g : Nat) : State :=
  (((s.setReg ofs c (word (cx 20 o)) b).setReg gain c (word g) b).setRb status 0 (8 + c) false).setRb status 0 c true

section
variable {ofs gain status : Reg} {c b : Nat}

theorem State.storeCal_ofs (apart : ofs.addr c b ≠ gain.addr c b) (other : ofs.addr c b ≠ status.addr) (o : Int) (g : Nat) :
    (s.storeCal ofs gain status c b o g).reg ofs c b = word (cx 20 o) := by
  rw [State.storeCal, State.reg_setRb_ne _ _ _ _ _ _ _ _ other, State.reg_setRb_ne _ _ _ _ _ _ _ _ other, State.reg_setReg_ne _ _ _ _ _ _ _ _ apart,
    State.reg_setReg_self]

theorem State.storeCal_gain (other : gain.addr c b ≠ status.addr) (o : Int) (g : Nat) :
    (s.storeCal ofs gain status c b o g).reg gain c b = word g := by
  rw [State.storeCal, State.reg_setRb_ne _ _ _ _ _ _ _ _ other, State.reg_setRb_ne _ _ _ _ _ _ _ _ other, State.reg_setReg_self]

theorem State.storeCal_done (lt : c < 24) (o : Int) (g : Nat) : (s.storeCal ofs gain status c b o g).rb status 0 c = true :=
  State.rb_setRb _ _ _ _ (by omega)

theorem State.storeCal_failed (lt : c < 24) (o : Int) (g : Nat) : (s.storeCal ofs gain status c b o g).rb status 0 (8 + c) = false := by
  rw [State.storeCal, State.rb_setRb_ne _ _ _ (by omega), State.rb_setRb_clear _ _ _ (by omega)]

theorem State.storeCal_frame {α : Type} (g : State → α) (h : ∀ (z : State) (r : Reg) (i j : Nat) (v : Word), g (z.setReg r i v j) = g z)
    (s : State) (ofs gain status : Reg) (c b : Nat) (o : Int) (n : Nat) : g (s.storeCal ofs gain status c b o n) = g s :=
  (h _ _ _ _ _).trans ((h _ _ _ _ _).trans ((h _ _ _ _ _).trans (h _ _ _ _ _)))

theorem State.storeCal_settled (h : s.Settled) (low : ofs.addr c b < 0x26040) (dark : gain.addr c b < 0x26040) (dim : status.addr < 0x26040)
    (o : Int) (g : Nat) : (s.storeCal ofs gain status c b o g).Settled :=
  State.setRb_settled (State.setRb_settled ((h.setReg _ _ _ _ (.inl low)).setReg _ _ _ _ (.inl dark)) _ _ _ _ (.inl dim)) _ _ _ _ (.inl dim)

end

/-! ### A gain that is written (R300) -/

/-- The staged offset o, where there is one, and the gain in v go to band b of core c. -/
def State.storeGain (s : State) (ofs gain : Reg) (c b : Nat) (o : Option Nat) (v : Word) : State :=
  (match o with
    | some o => s.setReg ofs c (word o) b
    | none => s).setReg gain c (word (fld v 17 0)) b

section
variable {ofs gain : Reg} {c b : Nat}

theorem State.storeGain_gain (o : Option Nat) (v : Word) : (s.storeGain ofs gain c b o v).reg gain c b = word (fld v 17 0) :=
  State.reg_setReg_self _ _ _ _ _

theorem State.storeGain_staged (apart : ofs.addr c b ≠ gain.addr c b) (o : Nat) (v : Word) :
    (s.storeGain ofs gain c b (some o) v).reg ofs c b = word o := by
  rw [State.storeGain, State.reg_setReg_ne _ _ _ _ _ _ _ _ apart, State.reg_setReg_self]

theorem State.storeGain_unstaged (apart : ofs.addr c b ≠ gain.addr c b) (v : Word) :
    (s.storeGain ofs gain c b none v).reg ofs c b = s.reg ofs c b :=
  State.reg_setReg_ne _ _ _ _ _ _ _ _ apart

theorem State.storeGain_frame {α : Type} (g : State → α) (h : ∀ (z : State) (r : Reg) (i j : Nat) (v : Word), g (z.setReg r i v j) = g z)
    (s : State) (ofs gain : Reg) (c b : Nat) (o : Option Nat) (v : Word) : g (s.storeGain ofs gain c b o v) = g s := by
  unfold State.storeGain
  rw [h]
  split
  · exact h _ _ _ _ _
  · rfl

theorem State.storeGain_settled (h : s.Settled) (low : ofs.addr c b < 0x26040) (dark : gain.addr c b < 0x26040) (o : Option Nat) (v : Word) :
    (s.storeGain ofs gain c b o v).Settled := by
  unfold State.storeGain
  refine State.Settled.setReg ?_ _ _ _ _ (.inl dark)
  split
  · exact h.setReg _ _ _ _ (.inl low)
  · exact h

end

end Sys2Proof.Machine
end

section
/-! PROOFS. Fast converters: samples, protection, link errors, calibration (R304 to R308, R311). -/

namespace Sys2Proof.Machine

variable {s x : State}

/-! ### Samples (R304, R305, R307) -/

/-- What a sample outside a calibration is worth: the corrected code, and whether it saturated. -/
def State.fastValue (s : State) (n a : Nat) (raw : Int) : Int × Bool :=
  correct 12 raw (coefAt (tget (fun _ => []) s.fad.hist n) (s.fadCoef n) a)

/-- The sample is shown. -/
def State.showFast (s : State) (n a : Nat) (raw : Int) (y : Int × Bool) : State :=
  s.modFres n fun _ => ⟨1, raw = -2048 || raw = 2047 || y.2, y.1, a⟩

/-- The sample is used by capture, triggers, wave detectors and protection. -/
def State.useFast (s : State) (n a : Nat) (y : Int) : State := (((s.capFast n a y).atrgSample n a y).twSample n a y).fastProtect n a y

theorem exec_fastSample (t n a : Nat) (raw : Int) (s : State) : exec (.fastSample t n a raw) s = actIn 4 t s fun s =>
    if !s.fastOn n || s.aligned a % 25 != 0 || s.clk.now < a + Config.fastSample || raw < -2048 || 2047 < raw then s
    else if s.fadCalAt n a then (s.fadCalSample n a raw).fastInvalid n a
    else if ((s.showFast n a raw (s.fastValue n a raw)).health1 (96 + n)).state = 3 then
      (s.showFast n a raw (s.fastValue n a raw)).fastInvalid n a
    else (s.showFast n a raw (s.fastValue n a raw)).useFast n a (s.fastValue n a raw).1 := rfl

theorem State.showFast_health1 (s : State) (n a : Nat) (raw : Int) (y : Int × Bool) (h : Nat) : (s.showFast n a raw y).health1 h = s.health1 h := rfl

theorem exec_fastLinkError (t n a : Nat) (s : State) : exec (.fastLinkError t n a) s = actIn 4 t s fun s =>
    if !s.fastOn n || s.aligned a % 25 != 0 || s.clk.now < a + Config.fastLinkError then s
    else (((s.fastInvalid n a).bump .fadErr 0 31 0).raise 322 n).healthCount (96 + n) := rfl

section
variable {t n a : Nat} {raw : Int} (e : x = (s.advanceTo t).openGate 4) (rel : x.released = true)
include e rel

theorem fastSample_early (settled : x.Settled) (early : x.clk.now < a + Config.fastSample) : exec (.fastSample t n a raw) s = .next x :=
  exec_settled_eq (actIn_settles (exec_fastSample t n a raw s) e rel) settled (if_pos (by simp [early]))

variable (on : x.fastOn n = true) (whole : x.aligned a % 25 = 0)
include on whole

theorem fastLinkError_counts (late : a + Config.fastLinkError ≤ x.clk.now) : exec (.fastLinkError t n a) s =
    .next ((((x.fastInvalid n a).bump .fadErr 0 31 0).raise 322 n).healthCount (96 + n)).settle := by
  rw [actIn_settles (exec_fastLinkError t n a s) e rel, if_neg (by simp [on, whole, late])]

variable (late : a + Config.fastSample ≤ x.clk.now) (lo : -2048 ≤ raw) (hi : raw ≤ 2047)
include late lo hi

theorem fastSample_gathered (calibrating : x.fadCalAt n a = true) :
    exec (.fastSample t n a raw) s = .next ((x.fadCalSample n a raw).fastInvalid n a).settle := by
  rw [actIn_settles (exec_fastSample t n a raw s) e rel, if_neg (by simp [on, whole, late, lo, hi]), if_pos calibrating]

variable (live : x.fadCalAt n a = false)
include live

theorem fastSample_used (active : (x.health1 (96 + n)).state ≠ 3) : exec (.fastSample t n a raw) s =
    .next ((x.showFast n a raw (x.fastValue n a raw)).useFast n a (x.fastValue n a raw).1).settle := by
  rw [actIn_settles (exec_fastSample t n a raw s) e rel, if_neg (by simp [on, whole, late, lo, hi]), if_neg (by simp [live]),
    State.showFast_health1, if_neg active]

theorem fastSample_retired (retired : (x.health1 (96 + n)).state = 3) : exec (.fastSample t n a raw) s =
    .next ((x.showFast n a raw (x.fastValue n a raw)).fastInvalid n a).settle := by
  rw [actIn_settles (exec_fastSample t n a raw s) e rel, if_neg (by simp [on, whole, late, lo, hi]), if_neg (by simp [live]),
    State.showFast_health1, if_pos retired]

end

/-! ### The start of a calibration (R306) -/

theorem exec_fadCalStart (t : Nat) (v : Word) (s : State) :
    exec (.fadCalStart t v) s = actIn 4 t s fun s => s.iff (s.up && s.hasCap && fld v 5 0 != 0) (·.writeFadCal v) := rfl

theorem exec_calibrateFad (t : Nat) (s : State) : exec (.calibrateFad t) s = actIn 4 t s fun s => s.onFired 0x07 (some 0x0A) fun x s =>
    s.forAll (if x.e.index = 0xFFFF then List.range 6 else [x.e.index]) fun n s => s.fadRequest n x.e.arg := rfl

theorem bitsOf_six : ∀ n < 6, bitsOf 6 (2 ^ n) = [n] := by decide

/-- The calibration that a request for core n starts. -/
def State.fadStarted (s : State) (band : Nat) : Cal :=
  { Cal.reset with active := true, band := if band = 0 || 4 < band then s.analogBand else band - 1, since := s.clk.now }

theorem State.fadRequest_starts {n : Nat} (mode : s.mode.mode ≠ 0) (idle : (s.fcal n).active = false) (band : Nat) :
    s.fadRequest n band = s.modFcal n fun _ => s.fadStarted band := if_neg (by simp [mode, idle])

theorem State.fcal_congr {u : State} (h : u.fad.cal = s.fad.cal) (n : Nat) : u.fcal n = s.fcal n := by
  unfold State.fcal
  rw [h]

theorem State.fadStarted_congr {u : State} (sensors : u.analogBand = s.analogBand) (clk : u.clk = s.clk) (band : Nat) :
    u.fadStarted band = s.fadStarted band := by
  unfold State.fadStarted
  rw [sensors, clk]

theorem State.fadRequest_settled (h : s.Settled) (n band : Nat) : (s.fadRequest n band).Settled := by
  unfold State.fadRequest
  split
  · exact h
  · exact State.modFcal_settled h _ _

section
variable {t n : Nat} (e : x = (s.advanceTo t).openGate 4) (rel : x.released = true) (lt : n < 6) (settled : x.Settled) (up : x.up = true)
include e lt settled up

include rel in
theorem fadCalStart_starts {v : Word} (cap : x.hasCap = true) (mode : x.mode.mode ≠ 0) (idle : (x.fcal n).active = false)
    (one : fld v 5 0 = 2 ^ n) : exec (.fadCalStart t v) s =
      .next ((x.setRf .fadCalCtrl 0 18 16 (fld v 18 16)).modFcal n fun _ => x.fadStarted (fld v 18 16)) := by
  have some_ : 2 ^ n ≠ 0 := by positivity
  refine exec_settled_eq (actIn_settles (exec_fadCalStart t v s) e rel)
    (State.modFcal_settled (State.setRf_settled settled _ _ _ _ _ (by decide)) _ _) ?_
  have starts (y : State) (hm : y.mode = x.mode) (hf : y.fad = x.fad) (hs : y.thm = x.thm) (hc : y.clk = x.clk) :
      y.fadRequest n (fld v 18 16) = y.modFcal n fun _ => x.fadStarted (fld v 18 16) := by
    have band : y.analogBand = x.analogBand := by rw [State.analogBand, State.sensor, hs]; rfl
    rw [State.fadRequest_starts (by rw [hm]; exact mode) (by rw [State.fcal_congr (congrArg Fad.cal hf)]; exact idle),
      State.fadStarted_congr band hc]
  rw [State.iff, if_pos (by simp [up, cap, one]), State.writeFadCal, one, bitsOf_six n lt, State.forAll, List.foldl_cons, List.foldl_nil]
  exact starts _ (State.setRf_mode _ _ _ _ _ _) (State.setRf_fad _ _ _ _ _ _) (State.setRf_thm _ _ _ _ _ _) (State.setRf_clk _ _ _ _ _ _)

theorem calibrateFad_starts {f : Fired} (found : x.bell.fired.find? (fun f => f.e.action = 0x07 && f.arrive ≤ x.clk.now && f.e.unit = 0x0A) = some f)
    (one : f.e.index = n) : exec (.calibrateFad t) s = .next ((x.takeFiredOf 0x07 0x0A).fadRequest n f.e.arg) := by
  refine exec_settled_eq (actIn_settles (exec_calibrateFad t s) e (State.released_of_up up))
    (State.fadRequest_settled (State.modBell_settled settled _) _ _) ?_
  rw [State.onFired_takesOf up found, one, if_neg (by omega)]
  rfl

end

/-! ### The end of a calibration (R306) -/

/-- The coefficients of core n's own band stay in force for sample instants before. -/
def State.fadKept (s : State) (n band till : Nat) : State := s.iff (band = s.analogBand) (·.fadKeep n till)

/-- A calibration k of core n ends with its coefficients or with its failure. -/
def State.fadJudged (s : State) (n : Nat) (k : Cal) : State :=
  match calValues k.z k.r 8 (sx 12 (s.rf .fadCalRef n 11 0)) with
  | some (o, g) => (s.fadKept n k.band k.last).storeCal .fadCalOfs .fadCalGain .fadCalStatus n k.band o g
  | none => (s.setRb .fadCalStatus 0 (8 + n) true).raise 320 n

theorem exec_fastCalibrationEnd (t n : Nat) (s : State) : exec (.fastCalibrationEnd t n) s = actIn 4 t s fun s =>
    if !(n < 6 && (s.fcal n).active && (s.fcal n).count = 2048) then s else (s.modFcal n fun _ => Cal.reset).fadJudged n (s.fcal n) := rfl

theorem fadCal_apart : ∀ n < 6, ∀ b < 4, Reg.fadCalOfs.addr n b ≠ Reg.fadCalGain.addr n b ∧ Reg.fadCalOfs.addr n b ≠ Reg.fadCalStatus.addr ∧
    Reg.fadCalGain.addr n b ≠ Reg.fadCalStatus.addr := by decide

theorem fadCal_dark : ∀ n < 6, ∀ b < 4, Reg.fadCalOfs.addr n b < 0x26040 ∧ Reg.fadCalGain.addr n b < 0x26040 := by decide

theorem fadCalGain_unraised : ∀ n < 6, ∀ b < 4, eventOff (Reg.fadCalGain.addr n b) = false ∧ raiseOff (Reg.fadCalGain.addr n b) = false := by decide

theorem State.fadKept_frame {α : Type} (g : State → α) (h : ∀ (z : State) (f : Fad → Fad), g (z.modFad f) = g z) (s : State) (n band till : Nat) :
    g (s.fadKept n band till) = g s := State.iff_frame g s _ _ fun z => h z _

theorem State.fadKept_beside {α : Type} (g : Fad → α) (h : ∀ (p : Fad) l, g { p with hist := l } = g p) (s : State) (n band till : Nat) :
    g (s.fadKept n band till).fad = g s.fad := State.iff_frame (fun z => g z.fad) s _ _ fun z => h z.fad _

theorem State.fadKept_settled (h : s.Settled) (n band till : Nat) : (s.fadKept n band till).Settled :=
  State.iff_settled h _ _ fun _ still => State.modFad_settled still _

section
variable {t n : Nat} (e : x = (s.advanceTo t).openGate 4) (rel : x.released = true) (lt : n < 6) (active : (x.fcal n).active = true)
  (full : (x.fcal n).count = 2048)
include e rel lt active full

theorem fastCalibrationEnd_judges :
    exec (.fastCalibrationEnd t n) s = .next ((x.modFcal n fun _ => Cal.reset).fadJudged n (x.fcal n)).settle := by
  rw [actIn_settles (exec_fastCalibrationEnd t n s) e rel, if_neg (by simp [lt, active, full])]

variable (band : (x.fcal n).band < 4) (settled : x.Settled)
include band settled

theorem fastCalibrationEnd_stores {o : Int} {g : Nat}
    (values : calValues (x.fcal n).z (x.fcal n).r 8 (sx 12 (x.rf .fadCalRef n 11 0)) = some (o, g)) : s.Runs (.fastCalibrationEnd t n) fun u =>
      u.fcal n = Cal.reset ∧ u.reg .fadCalOfs n (x.fcal n).band = word (cx 20 o) ∧ u.reg .fadCalGain n (x.fcal n).band = word g ∧
      u.rb .fadCalStatus 0 n = true ∧ u.rb .fadCalStatus 0 (8 + n) = false ∧ u.mode = x.mode := by
  obtain ⟨apart, ofs, gain⟩ := fadCal_apart n lt _ band
  have judged : (x.modFcal n fun _ => Cal.reset).fadJudged n (x.fcal n) = ((x.modFcal n fun _ => Cal.reset).fadKept n (x.fcal n).band
      (x.fcal n).last).storeCal .fadCalOfs .fadCalGain .fadCalStatus n (x.fcal n).band o g := by
    rw [State.fadJudged, State.rf_congr (State.modFcal_regs _ _ _), values]
  have run := fastCalibrationEnd_judges e rel lt active full
  rw [judged] at run
  refine runs_settled run (State.storeCal_settled (State.fadKept_settled (State.modFcal_settled settled _ _) _ _ _) (fadCal_dark n lt _ band).1
    (fadCal_dark n lt _ band).2 (by decide) _ _) ⟨?_, State.storeCal_ofs apart ofs _ _, State.storeCal_gain gain _ _,
      State.storeCal_done (by omega) _ _, State.storeCal_failed (by omega) _ _, ?_⟩
  · rw [State.storeCal_frame (·.fcal n) (fun _ _ _ _ _ => rfl), State.fcal_congr (State.fadKept_beside (·.cal) (fun _ _ => rfl) _ _ _ _),
      State.fcal_modFcal_self]
  · rw [State.storeCal_frame State.mode (fun _ _ _ _ _ => rfl), State.fadKept_frame State.mode (fun _ _ => rfl), State.modFcal_mode]

omit settled in
theorem fastCalibrationEnd_fails (none_ : calValues (x.fcal n).z (x.fcal n).r 8 (sx 12 (x.rf .fadCalRef n 11 0)) = none) :
    s.Runs (.fastCalibrationEnd t n) fun u => u.rb .fadCalStatus 0 (8 + n) = true ∧
      u.reg .fadCalGain n (x.fcal n).band = x.reg .fadCalGain n (x.fcal n).band ∧ u.fcal n = Cal.reset ∧
      (sourceOk x.var 320 = true → x.severity 320 ≠ 0 → u.latched 320 = true) := by
  obtain ⟨apart, ofs, gain⟩ := fadCal_apart n lt _ band
  obtain ⟨unevent, unraised⟩ := fadCalGain_unraised n lt _ band
  have judged : (x.modFcal n fun _ => Cal.reset).fadJudged n (x.fcal n) =
      ((x.modFcal n fun _ => Cal.reset).setRb .fadCalStatus 0 (8 + n) true).raise 320 n := by
    rw [State.fadJudged, State.rf_congr (State.modFcal_regs _ _ _), none_]
  have run := fastCalibrationEnd_judges e rel lt active full
  rw [judged] at run
  refine runs_quiet run fun u quiet => ?_
  obtain ⟨all, latched⟩ := State.raise_then 320 n 0 false quiet
  have severity : ((x.modFcal n fun _ => Cal.reset).setRb .fadCalStatus 0 (8 + n) true).severity 320 = x.severity 320 := by
    unfold State.severity State.rf
    rw [State.reg_setRb_ne _ _ _ _ _ _ _ _ (by decide), State.reg_congr (State.modFcal_regs _ _ _)]
  refine ⟨?_, ?_, ?_, fun ok shown => latched ok (severity ▸ shown)⟩
  · rw [State.rb, all.reg .fadCalStatus 0 0 (by decide) (by decide)]
    exact State.rb_setRb _ _ _ _ (by omega)
  · rw [all.reg .fadCalGain n _ unevent unraised, State.reg_setRb_ne _ _ _ _ _ _ _ _ gain]
    exact State.reg_congr (State.modFcal_regs _ _ _) _ _ _
  · rw [State.fcal_congr (congrArg Fad.cal all.fad), State.fcal_congr (congrArg Fad.cal (State.setRb_fad _ _ _ _ _)), State.fcal_modFcal_self]

end

/-! ### A gain that is written (R311) -/

theorem exec_fadCalGainWrite (t n b : Nat) (v : Word) (s : State) :
    exec (.fadCalGainWrite t n b v) s = actIn 4 t s fun s => s.iff (s.up && s.hasCap && n < 6 && b < 4) (·.writeFadGain n b v) := rfl


/-- The staged offset of band b of core n. -/
def Fad.staged (p : Fad) (n b : Nat) : Option Nat := tget (fun _ => none) p.stO4 (4 * n + b)

theorem State.writeFadGain_eq (s : State) (n b : Nat) (v : Word) : s.writeFadGain n b v =
    if (s.fcal n).active && (s.fcal n).band = b then s
    else ((s.fadKept n b s.clk.now).storeGain .fadCalOfs .fadCalGain n b ((s.fadKept n b s.clk.now).fad.staged n b) v).modFad fun a =>
      { a with stO4 := tdel (4 * n + b) a.stO4 } := rfl

section
variable {t n b : Nat} {v : Word} (e : x = (s.advanceTo t).openGate 4) (lt : n < 6) (cap : x.hasCap = true) (up : x.up = true)
  (band : b < 4) (settled : x.Settled)
include e lt cap up band

theorem fadCalGainWrite_writes : exec (.fadCalGainWrite t n b v) s = .next (x.writeFadGain n b v).settle := by
  rw [actIn_settles (exec_fadCalGainWrite t n b v s) e (State.released_of_up up), State.iff, if_pos (by simp [up, cap, lt, band])]

include settled

theorem fadCalGainWrite_busy (active : (x.fcal n).active = true) (same : (x.fcal n).band = b) : exec (.fadCalGainWrite t n b v) s = .next x :=
  exec_settled_eq (fadCalGainWrite_writes e lt cap up band) settled (if_pos (by simp [active, same]))

theorem fadCalGainWrite_stores (free : (x.fcal n).active = false ∨ (x.fcal n).band ≠ b) : s.Runs (.fadCalGainWrite t n b v) fun u =>
    u.reg .fadCalGain n b = word (fld v 17 0) ∧ u.fad.staged n b = none ∧ (∀ o, x.fad.staged n b = some o → u.reg .fadCalOfs n b = word o) ∧
    (x.fad.staged n b = none → u.reg .fadCalOfs n b = x.reg .fadCalOfs n b) ∧ u.mode = x.mode := by
  obtain ⟨apart, -, -⟩ := fadCal_apart n lt b band
  obtain ⟨low, dark⟩ := fadCal_dark n lt b band
  have run := fadCalGainWrite_writes (v := v) e lt cap up band
  have open_ : ¬((x.fcal n).active && (x.fcal n).band = b) = true := by
    rcases free with idle | other
    · simp [idle]
    · simp [other]
  rw [State.writeFadGain_eq, if_neg open_] at run
  have held : (x.fadKept n b x.clk.now).fad.staged n b = x.fad.staged n b := State.fadKept_beside (·.staged n b) (fun _ _ => rfl) _ _ _ _
  rw [held] at run
  refine runs_settled run (State.modFad_settled (State.storeGain_settled (State.fadKept_settled settled _ _ _) low dark _ _) _) ⟨?_, ?_, ?_, ?_, ?_⟩
  · exact State.storeGain_gain _ _
  · exact tget_tdel_self _ _ _
  · intro o staged
    rw [staged]
    exact State.storeGain_staged apart _ _
  · intro unstaged
    rw [unstaged]
    exact (State.storeGain_unstaged apart v).trans (State.reg_congr (State.fadKept_frame State.regs (fun _ _ => rfl) _ _ _ _) _ _ _)
  · rw [State.modFad_mode, State.storeGain_frame State.mode (fun _ _ _ _ _ => rfl), State.fadKept_frame State.mode (fun _ _ => rfl)]

end

/-- Settles O47. -/
theorem fastConverters : Obligations.FastConverters := by
  intro s x t n a b v raw f e released lt cap
  have rel := State.released_gated e released
  refine ⟨fun on whole => ⟨fun late lo hi => ⟨?_, ?_⟩, fun early settled => ?_, ?_⟩, fun settled up mode idle => ⟨fun one => ?_, ?_⟩,
    fun settled active full band => ⟨fun o g values => ?_, ?_⟩, fun up band => ⟨?_, ?_⟩⟩
  · exact fastSample_gathered e rel on whole late lo hi
  · rintro live y z rfl rfl
    exact ⟨fastSample_used e rel on whole late lo hi live, fastSample_retired e rel on whole late lo hi live⟩
  · exact fastSample_early e rel settled early
  · exact fastLinkError_counts e rel on whole
  · refine ⟨_, fadCalStart_starts e rel lt settled up cap mode idle one, ?_⟩
    have own := (x.setRf .fadCalCtrl 0 18 16 (fld v 18 16)).fcal_modFcal_self n fun _ => x.fadStarted (fld v 18 16)
    refine ⟨congrArg Cal.active own, congrArg Cal.since own, congrArg Cal.count own, (congrArg Cal.band own).trans ?_, fun k other => ?_⟩
    · simp [State.fadStarted]
    · exact State.fcal_modFcal_ne _ other _
  · exact calibrateFad_starts e lt settled up
  · exact fastCalibrationEnd_stores e rel lt active full band settled values
  · exact fastCalibrationEnd_fails e rel lt active full band
  · exact fun settled free => fadCalGainWrite_stores e lt cap up band settled free
  · exact fun active same settled => fadCalGainWrite_busy e lt cap up band settled active same

end Sys2Proof.Machine
end

section
/-! PROOFS. Precision cores: results and link errors (R294, R295, R301 to R303). -/

namespace Sys2Proof.Machine

variable {s x : State}

/-! ### Results (R294, R301, R302) -/

/-- The corrected code of span y's conversion, and whether it saturated (R294). -/
def State.precisionValue (s : State) (c : Nat) (y : Span) (raw : Int) : Int × Bool :=
  correct 18 raw (coefAt (tget (fun _ => []) s.adc.hist c) (s.adcCoef c) y.sample)

/-- A conversion at an end of its range, or one that saturated. -/
def outOfRange (raw : Int) (z : Int × Bool) : Bool := raw = -131072 || raw = 131071 || z.2

/-- A result z of span y adds to the sums of its entry's pass. -/
def State.addResult (s : State) (c : Nat) (y : Span) (z : Int) (o : Bool) : State :=
  s.modAavg (avgKey c y.run) fun a => if a.run = y.run then { a with sum := a.sum + z, ovr := a.ovr || o } else a

/-- The rounded, shifted sum of an averaging entry. -/
def average (word : Word) (sum : Int) : Int × Bool :=
  satF 18 (asr (sum + (if min 8 (fld word 21 18) = 0 then 0 else 2 ^ (min 8 (fld word 21 18) - 1))) (min 8 (fld word 21 18)))

/-- The last repetition of an averaging entry delivers the sum, where none was lost. -/
def State.endAverage (s : State) (c : Nat) (y : Span) : State :=
  let a := s.aavg (avgKey c y.run)
  if y.rep = fld y.word 16 9 && a.run = y.run && !a.lost then
    s.deliverResult 1 y.input y.sample (average y.word a.sum).1 (a.ovr || (average y.word a.sum).2)
  else s

/-- What a result z of span y does, the span taken off its core. -/
def State.takeResult (s : State) (c : Nat) (y : Span) (z : Int) (o : Bool) : State :=
  if y.kind != 1 then s.deliverResult y.kind y.input y.sample z o
  else if !bit y.word 17 || fld y.word 16 9 = 0 then s.deliverResult 1 y.input y.sample z o
  else (s.addResult c y z o).endAverage c y

theorem exec_precisionResult (t c : Nat) (raw : Int) (s : State) : exec (.precisionResult t c raw) s = actIn 4 t s fun s =>
    match (s.spansOf c).find? fun x => x.kind != 4 with
    | none => s
    | some y =>
      if s.clk.now < y.sample + Config.precisionToBank || raw < -131072 || 131071 < raw then s
      else (s.dropSpan c y).takeResult c y (s.precisionValue c y raw).1 (outOfRange raw (s.precisionValue c y raw)) := rfl

/-- Only the value that an update of sums gives counts. -/
theorem State.modAavg_congr {k : Nat} {f g : Avg → Avg} (h : f (s.aavg k) = g (s.aavg k)) : s.modAavg k f = s.modAavg k g := by
  unfold State.modAavg
  rw [h]

theorem State.dropSpan_aavg (s : State) (c : Nat) (y : Span) (k : Nat) : (s.dropSpan c y).aavg k = s.aavg k := rfl

theorem State.dropSpan_settled (h : s.Settled) (c : Nat) (y : Span) : (s.dropSpan c y).Settled := State.modAdc_settled h _

section
variable {c : Nat} {y : Span} {z : Int} {o : Bool}

theorem State.takeResult_single (other : y.kind ≠ 1) : s.takeResult c y z o = s.deliverResult y.kind y.input y.sample z o :=
  if_pos (by simp [other])

theorem State.takeResult_plain (kind : y.kind = 1) (plain : bit y.word 17 = false ∨ fld y.word 16 9 = 0) :
    s.takeResult c y z o = s.deliverResult 1 y.input y.sample z o := by
  rw [State.takeResult, if_neg (by simp [kind]), if_pos]
  rcases plain with single | none_
  · simp [single]
  · simp [none_]

theorem State.takeResult_averages (kind : y.kind = 1) (averages : bit y.word 17 = true) (some_ : fld y.word 16 9 ≠ 0) :
    s.takeResult c y z o = (s.addResult c y z o).endAverage c y := by
  rw [State.takeResult, if_neg (by simp [kind]), if_neg (by simp [averages, some_])]

variable (same : (s.aavg (avgKey c y.run)).run = y.run)
include same

theorem State.addResult_adds (z : Int) (o : Bool) :
    s.addResult c y z o = s.modAavg (avgKey c y.run) fun a => { a with sum := a.sum + z, ovr := a.ovr || o } :=
  State.modAavg_congr (if_pos same)

theorem State.addResult_aavg (z : Int) (o : Bool) : (s.addResult c y z o).aavg (avgKey c y.run) =
    { s.aavg (avgKey c y.run) with sum := (s.aavg (avgKey c y.run)).sum + z, ovr := (s.aavg (avgKey c y.run)).ovr || o } := by
  rw [State.addResult_adds same, State.aavg_modAavg_self]

theorem State.endAverage_waits (z : Int) (o : Bool) (open_ : y.rep ≠ fld y.word 16 9 ∨ (s.aavg (avgKey c y.run)).lost = true) :
    (s.addResult c y z o).endAverage c y = s.addResult c y z o := by
  rw [State.endAverage, State.addResult_aavg same]
  refine if_neg ?_
  rcases open_ with early | lost
  · simp [early]
  · simp [lost]

theorem State.endAverage_delivers (z : Int) (o : Bool) (last : y.rep = fld y.word 16 9) (whole : (s.aavg (avgKey c y.run)).lost = false) :
    (s.addResult c y z o).endAverage c y = (s.addResult c y z o).deliverResult 1 y.input y.sample
      (average y.word ((s.aavg (avgKey c y.run)).sum + z)).1
      ((s.aavg (avgKey c y.run)).ovr || o || (average y.word ((s.aavg (avgKey c y.run)).sum + z)).2) := by
  rw [State.endAverage, State.addResult_aavg same]
  exact if_pos (by simp [last, same, whole])

end

section
variable {t c : Nat} {raw : Int} {y : Span} (e : x = (s.advanceTo t).openGate 4) (rel : x.released = true)
  (found : (x.spansOf c).find? (fun y => y.kind != 4) = some y)
include e rel found

theorem precisionResult_early (settled : x.Settled) (early : x.clk.now < y.sample + Config.precisionToBank) :
    exec (.precisionResult t c raw) s = .next x := by
  refine exec_settled_eq (actIn_settles (exec_precisionResult t c raw s) e rel) settled ?_
  rw [found]
  exact if_pos (by simp [early])

theorem precisionResult_taken (late : y.sample + Config.precisionToBank ≤ x.clk.now) (lo : -131072 ≤ raw) (hi : raw ≤ 131071) :
    exec (.precisionResult t c raw) s =
      .next ((x.dropSpan c y).takeResult c y (x.precisionValue c y raw).1 (outOfRange raw (x.precisionValue c y raw))).settle := by
  rw [actIn_settles (exec_precisionResult t c raw s) e rel, found]
  dsimp only
  rw [if_neg (by simp [late, lo, hi])]

end

/-- What each kind of result does. -/
theorem precisionResult_cases {t c : Nat} {raw : Int} {y : Span} (e : x = (s.advanceTo t).openGate 4) (rel : x.released = true)
    (found : (x.spansOf c).find? (fun y => y.kind != 4) = some y) {z : Int × Bool} {o : Bool} {a : Avg} {n sh : Nat}
    (value : z = x.precisionValue c y raw) (bad : o = outOfRange raw z) (sums : a = x.aavg (avgKey c y.run)) (count : n = fld y.word 16 9)
    (shift : sh = min 8 (fld y.word 21 18)) (late : y.sample + Config.precisionToBank ≤ x.clk.now) (lo : -131072 ≤ raw) (hi : raw ≤ 131071) :
    (y.kind ≠ 1 → exec (.precisionResult t c raw) s = .next ((x.dropSpan c y).deliverResult y.kind y.input y.sample z.1 o).settle) ∧
    (y.kind = 1 → bit y.word 17 = false ∨ n = 0 → exec (.precisionResult t c raw) s =
      .next ((x.dropSpan c y).deliverResult 1 y.input y.sample z.1 o).settle) ∧
    (y.kind = 1 → bit y.word 17 = true → n ≠ 0 → a.run = y.run → ∀ w,
      w = (x.dropSpan c y).modAavg (avgKey c y.run) (fun a => { a with sum := a.sum + z.1, ovr := a.ovr || o }) →
      (y.rep ≠ n ∨ a.lost = true → x.Settled → exec (.precisionResult t c raw) s = .next w) ∧
      (y.rep = n → a.lost = false → ∀ r, r = satF 18 (asr (a.sum + z.1 + (if sh = 0 then 0 else 2 ^ (sh - 1))) sh) →
        exec (.precisionResult t c raw) s = .next (w.deliverResult 1 y.input y.sample r.1 (a.ovr || o || r.2)).settle)) := by
  have run := precisionResult_taken e rel found late lo hi
  rw [← value, ← bad] at run
  subst sums count shift
  refine ⟨fun other => ?_, fun kind plain => ?_, fun kind averages some_ same w hw => ?_⟩
  · rw [run, State.takeResult_single other]
  · rw [run, State.takeResult_plain kind plain]
  · rw [State.takeResult_averages kind averages some_] at run
    have adds : (x.dropSpan c y).addResult c y z.1 o = w := (State.addResult_adds (s := x.dropSpan c y) same _ _).trans hw.symm
    refine ⟨fun open_ settled => exec_settled_eq run ?_ ?_, ?_⟩
    · rw [hw]
      exact State.modAavg_settled (State.dropSpan_settled settled _ _) _ _
    · rw [State.endAverage_waits (s := x.dropSpan c y) same _ _ open_, adds]
    · rintro last whole r rfl
      rw [run, State.endAverage_delivers (s := x.dropSpan c y) same _ _ last whole, adds, State.dropSpan_aavg]
      rfl

/-! ### Link errors (R303) -/

theorem exec_precisionLinkError (t c : Nat) (s : State) : exec (.precisionLinkError t c) s = actIn 4 t s fun s =>
    match (s.spansOf c).find? fun x => x.kind != 4 with
    | none => s
    | some y =>
      if s.clk.now < y.sample + Config.precisionLinkError then s
      else (((((s.dropSpan c y).iff (y.kind = 1) (·.avgLost c y.run)).bump .adcErr 0 31 16).raise 290 y.input).healthCount (64 + y.input)) := rfl

theorem sourceOk_adcLink (v : Variant) : sourceOk v 290 = true := by cases v <;> decide

/-- A lost conversion changes the converters alone. -/
theorem State.lostSpan_frame {α : Type} (g : State → α) (h : ∀ (z : State) (c : Nat) (y : Span), g (z.dropSpan c y) = g z)
    (k : ∀ (z : State) (n : Nat) (f : Avg → Avg), g (z.modAavg n f) = g z) (s : State) (c : Nat) (y : Span) :
    g ((s.dropSpan c y).iff (y.kind = 1) (·.avgLost c y.run)) = g s :=
  (State.iff_frame g _ _ _ fun z => k z _ _).trans (h s c y)

theorem State.rf_bump_self (s : State) (r : Reg) (i hi lo k : Nat) (a : lo ≤ hi) (b : hi < 32) :
    (s.bump r i hi lo k).rf r i hi lo = min (2 ^ (hi + 1 - lo) - 1) (s.rf r i hi lo + k) := by
  have pos : 0 < 2 ^ (hi + 1 - lo) := by positivity
  rw [State.bump, State.rf_setRf_self _ _ _ _ _ _ a b, satAdd]
  exact Nat.mod_eq_of_lt (by omega)

theorem precisionLinkError_counts {t c : Nat} {y : Span} (e : x = (s.advanceTo t).openGate 4) (rel : x.released = true)
    (found : (x.spansOf c).find? (fun y => y.kind != 4) = some y) (late : y.sample + Config.precisionLinkError ≤ x.clk.now) :
    s.Runs (.precisionLinkError t c) fun u => u.rf .adcErr 0 31 16 = min 65535 (x.rf .adcErr 0 31 16 + 1) ∧
      (x.severity 290 ≠ 0 → u.latched 290 = true) ∧ u.tim = x.tim := by
  have run := actIn_settles (exec_precisionLinkError t c s) e rel
  rw [found] at run
  dsimp only at run
  rw [if_neg (by omega)] at run
  have regs := State.lostSpan_frame State.regs (fun _ _ _ => rfl) (fun _ _ _ => rfl) x c y
  have tim := State.lostSpan_frame State.tim (fun _ _ _ => rfl) (fun _ _ _ => rfl) x c y
  generalize (x.dropSpan c y).iff (y.kind = 1) (·.avgLost c y.run) = z at run regs tim
  have counted : ((z.bump .adcErr 0 31 16).raise 290 y.input).Quiet _ := State.healthCount_quiet (State.Quiet.refl _) (64 + y.input)
  refine runs_quiet run fun u quiet => ?_
  obtain ⟨all, latched⟩ := State.raise_then 290 y.input 0 false (counted.trans quiet)
  have severity : (z.bump .adcErr 0 31 16).severity 290 = x.severity 290 := by
    unfold State.severity
    rw [State.bump, State.rf_setRf_ne _ _ _ _ _ _ _ _ _ _ (by decide), State.rf_congr regs]
  refine ⟨?_, fun shown => latched (sourceOk_adcLink _) (severity ▸ shown), ?_⟩
  · rw [State.rf, all.reg .adcErr 0 0 (by decide) (by decide), ← State.rf_congr regs .adcErr 0 31 16]
    exact State.rf_bump_self z .adcErr 0 31 16 1 (by decide) (by decide)
  · rw [all.tim, State.bump_tim, tim]

end Sys2Proof.Machine
end

section
/-! PROOFS. Calibration of precision cores (R296 to R300). -/

namespace Sys2Proof.Machine

variable {s x : State}

/-! ### Requests (R296) -/

theorem exec_adcCalStart (t : Nat) (v : Word) (s : State) :
    exec (.adcCalStart t v) s = actIn 4 t s fun s => s.iff (s.up && fld v 7 0 != 0) (·.writeAdcCal v) := rfl

theorem exec_calibrateAdc (t : Nat) (s : State) : exec (.calibrateAdc t) s = actIn 4 t s fun s => s.onFired 0x07 (some 0x09) fun x s =>
    s.forAll (bellUnits x.e.index) fun c s => s.calRequest c x.e.arg := rfl

theorem bitsOf_eight : ∀ n < 8, bitsOf 8 (2 ^ n) = [n] := by decide

/-- A calibration is requested, with the band of a code. -/
def Cal.ask (k : Cal) (band : Nat) : Cal := { k with requested := true, reqBand := if band ≤ 4 then band else 0 }

theorem State.calRequest_asks {c : Nat} (mode : s.mode.mode ≠ 0) (idle : (s.acal c).active = false) (fresh : (s.acal c).requested = false)
    (band : Nat) : s.calRequest c band = s.modAcal c (·.ask band) := if_neg (by simp [mode, idle, fresh])

theorem State.calRequest_settled (h : s.Settled) (c band : Nat) : (s.calRequest c band).Settled := by
  unfold State.calRequest
  split
  · exact h
  · exact State.modAcal_settled h _ _

theorem State.acal_congr {u : State} (h : u.adc.cal = s.adc.cal) (c : Nat) : u.acal c = s.acal c := by
  unfold State.acal
  rw [h]

section
variable {t c : Nat} (e : x = (s.advanceTo t).openGate 4) (rel : x.released = true) (lt : c < 8) (settled : x.Settled) (up : x.up = true)
include e lt settled up

include rel in
theorem adcCalStart_asks {v : Word} (mode : x.mode.mode ≠ 0) (idle : (x.acal c).active = false) (fresh : (x.acal c).requested = false)
    (one : fld v 7 0 = 2 ^ c) : exec (.adcCalStart t v) s =
      .next ((x.setRf .adcCalCtrl 0 18 16 (fld v 18 16)).modAcal c (·.ask (fld v 18 16))) := by
  have some_ : 2 ^ c ≠ 0 := by positivity
  refine exec_settled_eq (actIn_settles (exec_adcCalStart t v s) e rel)
    (State.modAcal_settled (State.setRf_settled settled _ _ _ _ _ (by decide)) _ _) ?_
  have asks (y : State) (hm : y.mode = x.mode) (ha : y.adc = x.adc) : y.calRequest c (fld v 18 16) = y.modAcal c (·.ask (fld v 18 16)) := by
    have same : y.acal c = x.acal c := State.acal_congr (congrArg Adc.cal ha) c
    exact State.calRequest_asks (by rw [hm]; exact mode) (by rw [same]; exact idle) (by rw [same]; exact fresh) _
  rw [State.iff, if_pos (by simp [up, one]), State.writeAdcCal, one, bitsOf_eight c lt, State.forAll, List.foldl_cons, List.foldl_nil]
  exact asks _ (State.setRf_mode _ _ _ _ _ _) (State.setRf_adc _ _ _ _ _ _)

theorem calibrateAdc_asks {f : Fired} (found : x.bell.fired.find? (fun f => f.e.action = 0x07 && f.arrive ≤ x.clk.now && f.e.unit = 0x09) = some f)
    (one : f.e.index = c) : exec (.calibrateAdc t) s = .next ((x.takeFiredOf 0x07 0x09).calRequest c f.e.arg) := by
  refine exec_settled_eq (actIn_settles (exec_calibrateAdc t s) e (State.released_of_up up))
    (State.calRequest_settled (State.modBell_settled settled _) _ _) ?_
  rw [State.onFired_takesOf up found, one, bellUnits_one lt, State.forAll_one]

end

/-! ### Spans of a calibration (R285, R297) -/

/-- The tally of a core without spans. -/
def State.noTally (s : State) (c : Nat) : State := (s.setSpans c []).modAcal c fun k => k

theorem State.spansOf_setSpans (s : State) (c : Nat) (l : List Span) : (s.setSpans c l).spansOf c = l := tget_tput_self _ _ _ _

theorem State.calTally_none {c : Nat} (none_ : s.spansOf c = []) : s.calTally c = s.noTally c := by
  unfold State.calTally
  rw [none_]
  rfl

theorem State.noTally_acal (s : State) (c : Nat) : (s.noTally c).acal c = s.acal c := State.acal_modAcal_self _ _ _

theorem State.noTally_spans (s : State) (c : Nat) : (s.noTally c).spansOf c = [] := s.spansOf_setSpans c []

theorem State.noTally_frame {α : Type} (g : State → α) (h : ∀ (z : State) (c : Nat) (l : List Span), g (z.setSpans c l) = g z)
    (k : ∀ (z : State) (c : Nat) (f : Cal → Cal), g (z.modAcal c f) = g z) (s : State) (c : Nat) : g (s.noTally c) = g s :=
  (k _ _ _).trans (h _ _ _)

theorem State.noTally_settled (h : s.Settled) (c : Nat) : (s.noTally c).Settled := State.modAcal_settled (State.modAdc_settled h _) _ _

/-- The span that a calibration of core c takes now. -/
def State.calSpanNow (s : State) (c : Nat) (raw : Int) : Span := ⟨4, c, s.clk.now, 0, 0, 0, 0, raw⟩

/-- On a core without spans a calibration span starts or does not. -/
theorem State.calSpan_none {c : Nat} (none_ : s.spansOf c = []) (raw : Int) :
    ∃ l, s.calSpan c raw = (s.noTally c).setSpans c l ∨ s.calSpan c raw = s.noTally c := by
  unfold State.calSpan
  rw [State.calTally_none none_]
  dsimp only
  split
  · exact ⟨_, .inl rfl⟩
  · exact ⟨[], .inr rfl⟩

theorem State.calSpan_keeps_acal {c : Nat} (none_ : s.spansOf c = []) (raw : Int) : (s.calSpan c raw).acal c = s.acal c := by
  obtain ⟨l, same | same⟩ := State.calSpan_none none_ raw
  · rw [same]
    exact s.noTally_acal c
  · rw [same, State.noTally_acal]

theorem State.calSpan_regs {c : Nat} (none_ : s.spansOf c = []) (raw : Int) : (s.calSpan c raw).regs = s.regs := by
  have kept := s.noTally_frame State.regs (fun _ _ _ => rfl) (fun _ _ _ => rfl) c
  obtain ⟨l, same | same⟩ := State.calSpan_none none_ raw
  · rw [same]
    exact kept
  · rw [same, kept]

theorem State.calSpan_settled (h : s.Settled) {c : Nat} (none_ : s.spansOf c = []) (raw : Int) : (s.calSpan c raw).Settled := by
  obtain ⟨l, same | same⟩ := State.calSpan_none none_ raw
  · rw [same]
    exact State.modAdc_settled (State.noTally_settled h c) _
  · rw [same]
    exact State.noTally_settled h c

theorem State.noTally_busy (s : State) (c : Nat) : (s.noTally c).coreBusy c = false := by
  rw [State.coreBusy, State.noTally_spans]
  rfl

theorem State.boundaryNear_setSpans (s : State) (c : Nat) (l : List Span) (k n : Nat) :
    (s.setSpans c l).boundaryNear k n = s.boundaryNear k n := rfl
theorem State.boundaryNear_modAcal (s : State) (c : Nat) (f : Cal → Cal) (k n : Nat) :
    (s.modAcal c f).boundaryNear k n = s.boundaryNear k n := rfl

/-- The next span of a calibration starts on a core without spans, away from its boundary spans. -/
theorem State.calSpan_starts {c : Nat} {raw : Int} (none_ : s.spansOf c = []) (active : (s.acal c).active = true)
    (more : (s.acal c).count < 512) (even : s.clk.now % 2 = 0) (clear : s.boundaryNear c s.clk.now = false)
    (lo : -131072 ≤ raw) (hi : raw ≤ 131071) : s.calSpan c raw = (s.noTally c).addSpan c (s.calSpanNow c raw) := by
  have clk : (s.noTally c).clk = s.clk := s.noTally_frame State.clk (fun _ _ _ => rfl) (fun _ _ _ => rfl) c
  have near : (s.noTally c).boundaryNear c s.clk.now = s.boundaryNear c s.clk.now :=
    s.noTally_frame (·.boundaryNear c s.clk.now) (fun z k l => z.boundaryNear_setSpans k l _ _) (fun z k f => z.boundaryNear_modAcal k f _ _) c
  unfold State.calSpan
  rw [State.calTally_none none_]
  dsimp only
  rw [clk, near, State.noTally_acal, State.noTally_busy]
  exact if_pos (by simp [active, more, even, clear, lo, hi])

/-- The calibration that a request k starts. -/
def State.calStarted (s : State) (k : Cal) : Cal :=
  { Cal.reset with active := true, band := if k.reqBand = 0 then s.analogBand else k.reqBand - 1, since := s.clk.now }

theorem exec_calibrationStart (t c : Nat) (raw : Int) (s : State) : exec (.calibrationStart t c raw) s = actIn 4 t s fun s =>
    if c < 8 && (s.acal c).requested && s.clk.now % 2 = 0 && !s.injNames c && !((s.spansOf c).any fun x => x.kind = 3 && x.busy s.clk.now) then
      (s.modAcal c s.calStarted).calSpan c raw
    else s := rfl

theorem exec_calibrationSpan (t c : Nat) (raw : Int) (s : State) :
    exec (.calibrationSpan t c raw) s = actIn 4 t s fun s => s.iff (c < 8) (·.calSpan c raw) := rfl

theorem State.spansOf_modAcal (s : State) (c : Nat) (f : Cal → Cal) (k : Nat) : (s.modAcal c f).spansOf k = s.spansOf k := rfl

section
variable {t c : Nat} {raw : Int} (e : x = (s.advanceTo t).openGate 4) (rel : x.released = true) (lt : c < 8) (settled : x.Settled)
  (none_ : x.spansOf c = [])
include e rel lt settled none_

theorem calibrationStart_starts (asked : (x.acal c).requested = true) (even : x.clk.now % 2 = 0) (free : x.injNames c = false) :
    s.Runs (.calibrationStart t c raw) fun u => u.acal c = x.calStarted (x.acal c) ∧ u.regs = x.regs := by
  have begun : (x.modAcal c x.calStarted).spansOf c = [] := (x.spansOf_modAcal c _ c).trans none_
  have run := actIn_settles (exec_calibrationStart t c raw s) e rel
  rw [if_pos (by simp [lt, asked, even, free, none_])] at run
  refine runs_settled run (State.calSpan_settled (State.modAcal_settled settled _ _) begun raw) ⟨?_, ?_⟩
  · rw [State.calSpan_keeps_acal begun, State.acal_modAcal_self]
  · rw [State.calSpan_regs begun, State.modAcal_regs]

theorem calibrationSpan_starts (active : (x.acal c).active = true) (more : (x.acal c).count < 512) (even : x.clk.now % 2 = 0)
    (clear : x.boundaryNear c x.clk.now = false) (lo : -131072 ≤ raw) (hi : raw ≤ 131071) : s.Runs (.calibrationSpan t c raw) fun u =>
      u.spansOf c = [⟨4, c, x.clk.now, 0, 0, 0, 0, raw⟩] ∧ u.acal c = x.acal c ∧ u.regs = x.regs := by
  have run := actIn_settles (exec_calibrationSpan t c raw s) e rel
  rw [State.iff, if_pos (by simpa using lt)] at run
  refine runs_settled run (State.calSpan_settled settled none_ raw) ⟨?_, State.calSpan_keeps_acal none_ raw, State.calSpan_regs none_ raw⟩
  rw [State.calSpan_starts none_ active more even clear lo hi, State.addSpan, State.spansOf_setSpans, State.noTally_spans]
  rfl

end

/-! ### The end of a calibration (R298, R299) -/

/-- The coefficients of core c's own band stay in force for sample instants before. -/
def State.adcKept (s : State) (c band till : Nat) : State := s.iff (band = s.analogBand) (·.adcKeep c till)

/-- A calibration k of core c ends with its coefficients or with its failure. -/
def State.adcJudged (s : State) (c : Nat) (k : Cal) : State :=
  match calValues k.z k.r 6 (s.rf .adcCalRef c 17 0) with
  | some (o, g) => (s.adcKept c k.band (k.last + 1)).storeCal .adcCalOfs .adcCalGain .adcCalStatus c k.band o g
  | none => (s.setRb .adcCalStatus 0 (8 + c) true).raise 288 c

theorem exec_calibrationEnd (t c : Nat) (s : State) : exec (.calibrationEnd t c) s = actIn 4 t s fun s =>
    if 8 ≤ c then s
    else if !(((s.calTally c).acal c).active && ((s.calTally c).acal c).count = 512) then s.calTally c
    else ((s.calTally c).modAcal c fun _ => Cal.reset).adcJudged c ((s.calTally c).acal c) := rfl

theorem adcCal_apart : ∀ c < 8, ∀ b < 4, Reg.adcCalOfs.addr c b ≠ Reg.adcCalGain.addr c b ∧ Reg.adcCalOfs.addr c b ≠ Reg.adcCalStatus.addr ∧
    Reg.adcCalGain.addr c b ≠ Reg.adcCalStatus.addr := by decide

theorem adcCal_dark : ∀ c < 8, ∀ b < 4, Reg.adcCalOfs.addr c b < 0x26040 ∧ Reg.adcCalGain.addr c b < 0x26040 := by decide

theorem adcCalGain_unraised : ∀ c < 8, ∀ b < 4, eventOff (Reg.adcCalGain.addr c b) = false ∧ raiseOff (Reg.adcCalGain.addr c b) = false := by decide

theorem sourceOk_adcCal (v : Variant) : sourceOk v 288 = true := by cases v <;> decide

theorem State.adcKept_frame {α : Type} (g : State → α) (h : ∀ (z : State) (f : Adc → Adc), g (z.modAdc f) = g z) (s : State) (c band till : Nat) :
    g (s.adcKept c band till) = g s := State.iff_frame g s _ _ fun z => h z _

theorem State.adcKept_beside {α : Type} (g : Adc → α) (h : ∀ (p : Adc) l, g { p with hist := l } = g p) (s : State) (c band till : Nat) :
    g (s.adcKept c band till).adc = g s.adc := State.iff_frame (fun z => g z.adc) s _ _ fun z => h z.adc _

theorem State.adcKept_settled (h : s.Settled) (c band till : Nat) : (s.adcKept c band till).Settled :=
  State.iff_settled h _ _ fun _ still => State.modAdc_settled still _

section
variable {t c : Nat} (e : x = (s.advanceTo t).openGate 4) (rel : x.released = true) (lt : c < 8) (active : (x.acal c).active = true)
  (full : (x.acal c).count = 512) (none_ : x.spansOf c = [])
include e rel lt active full none_

theorem calibrationEnd_judges :
    exec (.calibrationEnd t c) s = .next (((x.noTally c).modAcal c fun _ => Cal.reset).adcJudged c (x.acal c)).settle := by
  rw [actIn_settles (exec_calibrationEnd t c s) e rel, if_neg (by omega), State.calTally_none none_, State.noTally_acal,
    if_neg (by simp [active, full])]

variable (band : (x.acal c).band < 4) (settled : x.Settled)
include band settled

theorem calibrationEnd_stores {o : Int} {g : Nat} (values : calValues (x.acal c).z (x.acal c).r 6 (x.rf .adcCalRef c 17 0) = some (o, g)) :
    s.Runs (.calibrationEnd t c) fun u => u.acal c = Cal.reset ∧ u.reg .adcCalOfs c (x.acal c).band = word (cx 20 o) ∧
      u.reg .adcCalGain c (x.acal c).band = word g ∧ u.rb .adcCalStatus 0 c = true ∧ u.rb .adcCalStatus 0 (8 + c) = false ∧ u.mode = x.mode := by
  obtain ⟨apart, ofs, gain⟩ := adcCal_apart c lt _ band
  obtain ⟨low, dark⟩ := adcCal_dark c lt _ band
  have run := calibrationEnd_judges e rel lt active full none_
  have regs : ((x.noTally c).modAcal c fun _ => Cal.reset).regs = x.regs :=
    (State.modAcal_regs _ _ _).trans (x.noTally_frame State.regs (fun _ _ _ => rfl) (fun _ _ _ => rfl) c)
  have mode : ((x.noTally c).modAcal c fun _ => Cal.reset).mode = x.mode :=
    (State.modAcal_mode _ _ _).trans (x.noTally_frame State.mode (fun _ _ _ => rfl) (fun _ _ _ => rfl) c)
  have ended : ((x.noTally c).modAcal c fun _ => Cal.reset).acal c = Cal.reset := State.acal_modAcal_self _ _ _
  have still : ((x.noTally c).modAcal c fun _ => Cal.reset).Settled := State.modAcal_settled (State.noTally_settled settled c) _ _
  generalize (x.noTally c).modAcal c (fun _ => Cal.reset) = y at run regs mode ended still
  rw [State.adcJudged, State.rf_congr regs, values] at run
  refine runs_settled run (State.storeCal_settled (State.adcKept_settled still _ _ _) low dark (by decide) _ _) ⟨?_, State.storeCal_ofs apart ofs _ _,
    State.storeCal_gain gain _ _, State.storeCal_done (by omega) _ _, State.storeCal_failed (by omega) _ _, ?_⟩
  · rw [State.storeCal_frame (·.acal c) (fun _ _ _ _ _ => rfl), State.acal_congr (State.adcKept_beside (·.cal) (fun _ _ => rfl) _ _ _ _), ended]
  · rw [State.storeCal_frame State.mode (fun _ _ _ _ _ => rfl), State.adcKept_frame State.mode (fun _ _ => rfl), mode]

omit settled in
theorem calibrationEnd_fails (bad : calValues (x.acal c).z (x.acal c).r 6 (x.rf .adcCalRef c 17 0) = none) :
    s.Runs (.calibrationEnd t c) fun u => u.rb .adcCalStatus 0 (8 + c) = true ∧
      u.reg .adcCalGain c (x.acal c).band = x.reg .adcCalGain c (x.acal c).band ∧ (x.severity 288 ≠ 0 → u.latched 288 = true) := by
  obtain ⟨-, -, gain⟩ := adcCal_apart c lt _ band
  obtain ⟨unevent, unraised⟩ := adcCalGain_unraised c lt _ band
  have run := calibrationEnd_judges e rel lt active full none_
  have regs : ((x.noTally c).modAcal c fun _ => Cal.reset).regs = x.regs :=
    (State.modAcal_regs _ _ _).trans (x.noTally_frame State.regs (fun _ _ _ => rfl) (fun _ _ _ => rfl) c)
  generalize (x.noTally c).modAcal c (fun _ => Cal.reset) = y at run regs
  rw [State.adcJudged, State.rf_congr regs, bad] at run
  refine runs_quiet run fun u quiet => ?_
  obtain ⟨all, latched⟩ := State.raise_then 288 c 0 false quiet
  have severity : (y.setRb .adcCalStatus 0 (8 + c) true).severity 288 = x.severity 288 := by
    unfold State.severity State.rf
    rw [State.reg_setRb_ne _ _ _ _ _ _ _ _ (by decide), State.reg_congr regs]
  refine ⟨?_, ?_, fun shown => latched (sourceOk_adcCal _) (severity ▸ shown)⟩
  · rw [State.rb, all.reg .adcCalStatus 0 0 (by decide) (by decide)]
    exact State.rb_setRb _ _ _ _ (by omega)
  · rw [all.reg .adcCalGain c _ unevent unraised, State.reg_setRb_ne _ _ _ _ _ _ _ _ gain, State.reg_congr regs]

end

/-! ### A gain that is written (R300) -/

theorem exec_adcCalGainWrite (t c b : Nat) (v : Word) (s : State) :
    exec (.adcCalGainWrite t c b v) s = actIn 4 t s fun s => s.iff (s.up && c < 8 && b < 4) (·.writeAdcGain c b v) := rfl

/-- The staged offset of band b of core c. -/
def Adc.staged (p : Adc) (c b : Nat) : Option Nat := tget (fun _ => none) p.stO4 (4 * c + b)

theorem State.writeAdcGain_eq (s : State) (c b : Nat) (v : Word) : s.writeAdcGain c b v =
    if (s.acal c).active && (s.acal c).band = b then s
    else ((s.adcKept c b s.clk.now).storeGain .adcCalOfs .adcCalGain c b ((s.adcKept c b s.clk.now).adc.staged c b) v).modAdc fun a =>
      { a with stO4 := tdel (4 * c + b) a.stO4 } := rfl

section
variable {t c b : Nat} {v : Word} (e : x = (s.advanceTo t).openGate 4) (rel : x.released = true) (settled : x.Settled)
include e rel settled

theorem adcCalGainWrite_busy (active : (x.acal c).active = true) (same : (x.acal c).band = b) : exec (.adcCalGainWrite t c b v) s = .next x := by
  refine exec_settled_eq (actIn_settles (exec_adcCalGainWrite t c b v s) e rel) settled ?_
  have busy : x.writeAdcGain c b v = x := if_pos (by simp [active, same])
  rw [State.iff, busy, ite_self]

theorem adcCalGainWrite_stores (lt : c < 8) (up : x.up = true) (band : b < 4) (free : (x.acal c).active = false ∨ (x.acal c).band ≠ b) :
    s.Runs (.adcCalGainWrite t c b v) fun u =>
      u.reg .adcCalGain c b = word (fld v 17 0) ∧ u.adc.staged c b = none ∧ (∀ o, x.adc.staged c b = some o → u.reg .adcCalOfs c b = word o) ∧
      (x.adc.staged c b = none → u.reg .adcCalOfs c b = x.reg .adcCalOfs c b) ∧ u.mode = x.mode := by
  obtain ⟨apart, -, -⟩ := adcCal_apart c lt b band
  obtain ⟨low, dark⟩ := adcCal_dark c lt b band
  have open_ : ¬((x.acal c).active && (x.acal c).band = b) = true := by
    rcases free with idle | other
    · simp [idle]
    · simp [other]
  have run := actIn_settles (exec_adcCalGainWrite t c b v s) e rel
  have held : (x.adcKept c b x.clk.now).adc.staged c b = x.adc.staged c b := State.adcKept_beside (·.staged c b) (fun _ _ => rfl) _ _ _ _
  rw [State.iff, if_pos (by simp [up, lt, band]), State.writeAdcGain_eq, if_neg open_, held] at run
  refine runs_settled run (State.modAdc_settled (State.storeGain_settled (State.adcKept_settled settled _ _ _) low dark _ _) _) ⟨?_, ?_, ?_, ?_, ?_⟩
  · exact State.storeGain_gain _ _
  · exact tget_tdel_self _ _ _
  · intro o staged
    rw [staged]
    exact State.storeGain_staged apart _ _
  · intro unstaged
    rw [unstaged]
    exact (State.storeGain_unstaged apart v).trans (State.reg_congr (State.adcKept_frame State.regs (fun _ _ => rfl) _ _ _ _) _ _ _)
  · rw [State.modAdc_mode, State.storeGain_frame State.mode (fun _ _ _ _ _ => rfl), State.adcKept_frame State.mode (fun _ _ => rfl)]

end

/-- Settles O46. -/
theorem precisionCores : Obligations.PrecisionCores := by
  refine ⟨fun s x t c raw y e released found => ⟨?_, ?_, ?_⟩, fun s x t c b v raw f e released settled lt => ⟨?_, ?_, ?_, ?_, ?_, ?_, ?_⟩⟩
  · intro z o a n sh value bad sums count shift late lo hi
    exact precisionResult_cases e (State.released_gated e released) found value bad sums count shift late lo hi
  · exact fun early settled => precisionResult_early e (State.released_gated e released) found settled early
  · exact precisionLinkError_counts e (State.released_gated e released) found
  · intro up mode one idle fresh
    refine ⟨_, adcCalStart_asks e (State.released_gated e released) lt settled up mode idle fresh one, ?_⟩
    have own := (x.setRf .adcCalCtrl 0 18 16 (fld v 18 16)).acal_modAcal_self c (·.ask (fld v 18 16))
    refine ⟨congrArg Cal.requested own, congrArg Cal.reqBand own, fun k other => State.acal_modAcal_ne _ other _, ?_⟩
    rw [State.modAcal_mode, State.setRf_mode]
  · exact fun up found one => calibrateAdc_asks e lt settled up found one
  · intro asked even free none_
    obtain ⟨u, run, own, regs⟩ := calibrationStart_starts (raw := raw) e (State.released_gated e released) lt settled none_ asked even free
    exact ⟨u, run, congrArg Cal.active own, congrArg Cal.requested own, congrArg Cal.since own, congrArg Cal.count own, congrArg Cal.band own, regs⟩
  · exact fun active more even none_ clear lo hi =>
      calibrationSpan_starts e (State.released_gated e released) lt settled none_ active more even clear lo hi
  · intro active full none_ band
    exact ⟨fun o g values => calibrationEnd_stores e (State.released_gated e released) lt active full none_ band settled values,
      calibrationEnd_fails e (State.released_gated e released) lt active full none_ band⟩
  · exact fun up band free => adcCalGainWrite_stores e (State.released_gated e released) settled lt up band free
  · exact adcCalGainWrite_busy e (State.released_gated e released) settled

end Sys2Proof.Machine
end

section
/-! PROOFS. Spans and starts on the precision cores (R285 to R293). -/

namespace Sys2Proof.Machine

variable {s x : State}

/-! ### Lists of spans, core by core -/

theorem State.spansOf_setSpans_ne (s : State) {c k : Nat} (ne : k ≠ c) (l : List Span) : (s.setSpans c l).spansOf k = s.spansOf k :=
  tget_tput_ne _ _ _ ne

theorem State.spansOf_addSpan (s : State) (c : Nat) (y : Span) : (s.addSpan c y).spansOf c = s.spansOf c ++ [y] := s.spansOf_setSpans _ _

theorem State.spansOf_addSpan_ne (s : State) {c k : Nat} (ne : k ≠ c) (y : Span) : (s.addSpan c y).spansOf k = s.spansOf k :=
  s.spansOf_setSpans_ne ne _

theorem State.setSpans_settled (h : s.Settled) (c : Nat) (l : List Span) : (s.setSpans c l).Settled := State.modAdc_settled h _

theorem State.addSpan_settled (h : s.Settled) (c : Nat) (y : Span) : (s.addSpan c y).Settled := State.setSpans_settled h _ _

theorem State.forAll_spansOf_away {f : Nat → State → State} (others : ∀ i k y, k ≠ i → (f i y).spansOf k = y.spansOf k) {k : Nat}
    {l : List Nat} (away : k ∉ l) (s : State) : (s.forAll l f).spansOf k = s.spansOf k := by
  induction l generalizing s with
  | nil => rfl
  | cons a r ih =>
    obtain ⟨ne, away⟩ := not_or.mp (mt List.mem_cons.mpr away)
    exact (ih away (f a s)).trans (others a k s ne)

/-- In a pass over the cores that changes the spans of one core at a time, a core's list is left as its own turn makes it. -/
theorem State.forAll_spansOf {f : Nat → State → State} (others : ∀ i k y, k ≠ i → (f i y).spansOf k = y.spansOf k) {k : Nat}
    {turn : List Span → List Span} (own : ∀ y, (f k y).spansOf k = turn (y.spansOf k)) {l : List Nat} (once : l.Nodup) (mem : k ∈ l)
    (s : State) : (s.forAll l f).spansOf k = turn (s.spansOf k) := by
  induction l generalizing s with
  | nil => exact absurd mem List.not_mem_nil
  | cons a r ih =>
    obtain ⟨fresh, once⟩ := List.nodup_cons.mp once
    by_cases here : k = a
    · subst here
      exact (State.forAll_spansOf_away others fresh (f k s)).trans (own s)
    · exact (ih once ((List.mem_cons.mp mem).resolve_left here) (f a s)).trans (congrArg turn (others a k s here))

/-! ### Boundary spans (R286, R287) -/

theorem exec_boundarySpan (t c g : Nat) (s : State) : exec (.boundarySpan t c g) s = actIn 4 t s fun s =>
    let b := s.nowA + 150
    match (s.tasksOf g).find? fun t => (s.bset t c).isSome with
    | some t =>
      let j := (s.bset t c).getD 0
      if c < 8 && s.grpOn g && s.isBoundary g b && s.runsAt g b && 1 ≤ s.mode.mode &&
          !((s.spansOf c).any fun x => x.kind = 2 && x.start = s.clk.now) then
        s.addSpan c ⟨2, 8 * j + c, s.clk.now, 0, 0, 0, 0, 0⟩
      else s
    | none => s := rfl

section
variable {t : Nat} (e : x = (s.advanceTo t).openGate 4) (rel : x.released = true) (settled : x.Settled)
include e rel settled

theorem boundarySpan_starts {c g k j : Nat} (tied : (x.tasksOf g).find? (fun k => (x.bset k c).isSome) = some k)
    (input : x.bset k c = some j) (lt : c < 8) (on : x.grpOn g = true) (near : x.isBoundary g (x.nowA + 150) = true)
    (runs : x.runsAt g (x.nowA + 150) = true) (mode : 1 ≤ x.mode.mode)
    (fresh : ((x.spansOf c).any fun y => y.kind = 2 && y.start = x.clk.now) = false) :
    exec (.boundarySpan t c g) s = .next (x.addSpan c ⟨2, 8 * j + c, x.clk.now, 0, 0, 0, 0, 0⟩) := by
  refine exec_settled_eq (actIn_settles (exec_boundarySpan t c g s) e rel) (State.addSpan_settled settled _ _) ?_
  rw [tied]
  dsimp only
  rw [input, if_pos (by simp only [lt, on, near, runs, mode, fresh]; rfl)]
  rfl

end

/-! ### Starts and stops of the sequencer (R290, R291) -/

theorem exec_adcSeqStart (t : Nat) (v : Word) (s : State) :
    exec (.adcSeqStart t v) s = actIn 4 t s fun s => s.iff (s.up && bit v 31) (·.writeAdcCtrl v) := rfl

theorem exec_adcSeqStop (t : Nat) (v : Word) (s : State) :
    exec (.adcSeqStop t v) s = actIn 4 t s fun s => s.iff (s.up && !bit v 31) (·.writeAdcCtrl v) := rfl

theorem fld_bit (w : Word) (n : Nat) : fld w n n = b2n (bit w n) := by
  have lt : fld w n n < 2 := by
    unfold fld
    rw [show n + 1 - n = 1 by omega]
    exact Nat.mod_lt _ (by decide)
  rw [bit_fld, b2n]
  split <;> rename_i h <;> simp only [decide_eq_true_eq] at h <;> omega

/-- ADC_CTRL after a write: while the configuration is locked only enable is taken. -/
def State.storeAdcCtrl (s : State) (v : Word) : State :=
  s.setReg .adcCtrl 0 (if s.rwlShut then wfld (s.reg .adcCtrl 0) 31 31 (b2n (bit v 31)) else v &&& 0x800001FF)

theorem State.storeAdcCtrl_reg (s : State) (v : Word) : (s.storeAdcCtrl v).reg .adcCtrl 0 =
    if s.rwlShut then wfld (s.reg .adcCtrl 0) 31 31 (b2n (bit v 31)) else v &&& 0x800001FF := State.reg_setReg_self _ _ _ _ _

theorem State.storeAdcCtrl_settled (h : s.Settled) (v : Word) : (s.storeAdcCtrl v).Settled := h.setReg _ _ _ _ (by decide)

theorem State.writeAdcCtrl_eq (s : State) (v : Word) : s.writeAdcCtrl v =
    if bit v 31 && !s.rb .adcCtrl 0 31 && 1 ≤ s.mode.mode then (s.storeAdcCtrl v).seqStart
    else if !bit v 31 then (s.storeAdcCtrl v).modAdc fun a => { a with seqOn := false }
    else s.storeAdcCtrl v := by
  unfold State.writeAdcCtrl
  rw [fld_bit]
  rfl

section
variable {t : Nat} {v : Word} (e : x = (s.advanceTo t).openGate 4) (rel : x.released = true) (settled : x.Settled) (up : x.up = true)
include e rel settled up

theorem adcSeqStart_starts (enable : bit v 31 = true) : s.Runs (.adcSeqStart t v) fun u =>
    (x.rb .adcCtrl 0 31 = false → 1 ≤ x.mode.mode → u.adc = { x.adc with
      seqOn := true, entry := 0, rep := 0, retake := false, due := coreCycle x.clk.now + 2 }) ∧
    (x.rb .adcCtrl 0 31 = true ∨ x.mode.mode = 0 → u.adc = x.adc) ∧
    u.reg .adcCtrl 0 = (if x.rwlShut then wfld (x.reg .adcCtrl 0) 31 31 1 else v &&& 0x800001FF) ∧ u.mode = x.mode := by
  have run := actIn_settles (exec_adcSeqStart t v s) e rel
  have stored := x.storeAdcCtrl_reg v
  rw [State.iff, if_pos (by rw [up, enable]; rfl), State.writeAdcCtrl_eq] at run
  rw [enable] at run stored
  by_cases begins : x.rb .adcCtrl 0 31 = false ∧ 1 ≤ x.mode.mode
  · obtain ⟨was, mode⟩ := begins
    rw [if_pos (by simp [was, mode])] at run
    refine runs_settled run (State.modAdc_settled (State.storeAdcCtrl_settled settled v) _) ⟨fun _ _ => rfl, fun not_ => ?_, stored, rfl⟩
    rcases not_ with on | off
    · exact absurd (was.symm.trans on) Bool.false_ne_true
    · omega
  · rw [if_neg (by simpa using begins), if_neg (by decide)] at run
    exact runs_settled run (State.storeAdcCtrl_settled settled v) ⟨fun was mode => absurd ⟨was, mode⟩ begins, fun _ => rfl, stored, rfl⟩

theorem adcSeqStop_stops (disable : bit v 31 = false) : s.Runs (.adcSeqStop t v) fun u => u.adc = { x.adc with seqOn := false } ∧
    u.reg .adcCtrl 0 = (if x.rwlShut then wfld (x.reg .adcCtrl 0) 31 31 0 else v &&& 0x800001FF) ∧ u.mode = x.mode := by
  have run := actIn_settles (exec_adcSeqStop t v s) e rel
  have stored := x.storeAdcCtrl_reg v
  rw [State.iff, if_pos (by rw [up, disable]; rfl), State.writeAdcCtrl_eq] at run
  rw [disable] at run stored
  rw [if_neg (by simp), if_pos (by rfl)] at run
  exact runs_settled run (State.modAdc_settled (State.storeAdcCtrl_settled settled v) _) ⟨rfl, stored, rfl⟩

end

/-! ### A step of the sequencer (R290 to R292) -/

/-- The run that a step of the entry in turn belongs to: the first repetition that is not taken again begins one. -/
def State.passRun (s : State) : Nat := s.adc.run + b2n (s.adc.rep = 0 && !s.adc.retake)

/-- The cores that the entry in turn samples on. -/
def State.entryCores (s : State) : List Nat := (bitsOf 8 (fld (s.seqEntry s.adc.entry) 31 24)).filter fun c => !(s.acal c).active

/-- The cores of the entry in turn that are in calibration. -/
def State.entrySkipped (s : State) : List Nat := (bitsOf 8 (fld (s.seqEntry s.adc.entry) 31 24)).filter fun c => (s.acal c).active

/-- The sums of a new pass through an entry start empty. -/
def State.sumsBegun (s : State) (rep run : Nat) : State :=
  s.iff (rep = 0) (·.forAll (List.range 8) fun c s => s.modAavg (avgKey c run) fun _ => { Avg.reset with run := run })

/-- Cores in calibration are passed over: each is counted and loses its repetition. -/
def State.passedOver (s : State) (skip : List Nat) (run : Nat) : State :=
  s.forAll skip fun c s => (s.bump .adcErr 0 15 0).avgLost c run

/-- One span on each of the given cores. -/
def State.spansBegun (s : State) (cores : List Nat) (span : Nat → Span) : State := s.forAll cores fun c s => s.addSpan c (span c)

/-- The span that the step in turn begins on a core. -/
def State.stepSpan (s : State) (c : Nat) : Span :=
  ⟨1, 8 * fld (s.seqEntry s.adc.entry) 23 22 + c, s.clk.now, s.adc.entry, s.adc.rep, s.passRun, s.seqEntry s.adc.entry, 0⟩

/-- The sequencer's place after a step of entry e, repetition rep, word w, with its last entry. -/
def Adc.stepped (a : Adc) (now e rep run : Nat) (w : Word) (last : Nat) : Adc :=
  { a with due := now + 500 + 16 * fld w 8 0, run := run, retake := false, stepAt := some now, stepEntry := e, stepRep := rep,
           rep := if rep = fld w 16 9 then 0 else rep + 1,
           entry := if rep = fld w 16 9 then (if e = last then 0 else (e + 1) % 512) else e }

/-- The state in which the step in turn has begun its spans. -/
def State.stepBegun (s : State) : State :=
  ((s.sumsBegun s.adc.rep s.passRun).passedOver s.entrySkipped s.passRun).spansBegun s.entryCores s.stepSpan

theorem exec_sequencerStep (t : Nat) (s : State) : exec (.sequencerStep t) s = actIn 4 t s fun s =>
    if !((s.adc.seqOn || s.adc.retake) && s.clk.now % 2 = 0 && s.adc.due ≤ s.clk.now && 1 ≤ s.mode.mode) then s
    else if s.entryCores.any fun c => s.coreBusy c || s.boundaryNear c s.clk.now || s.injNames c then s
    else s.stepBegun.modAdc fun a => a.stepped s.clk.now s.adc.entry s.adc.rep s.passRun (s.seqEntry s.adc.entry)
      (s.stepBegun.rf .adcCtrl 0 8 0) := rfl

theorem mem_bitsOf {n k : Nat} (lt : k < n) (w : Nat) : k ∈ bitsOf n w ↔ nbit w k = true := by simp [bitsOf, nbit, lt]

theorem bitsOf_lt {n k w : Nat} (mem : k ∈ bitsOf n w) : k < n := List.mem_range.mp (List.mem_filter.mp mem).1

theorem bitsOf_nodup (n w : Nat) : (bitsOf n w).Nodup := List.nodup_range.filter _

theorem State.mem_entryCores (s : State) {k : Nat} (lt : k < 8) :
    k ∈ s.entryCores ↔ nbit (fld (s.seqEntry s.adc.entry) 31 24) k = true ∧ (s.acal k).active = false := by
  rw [State.entryCores, List.mem_filter, mem_bitsOf lt, Bool.not_eq_true']

theorem State.entryCores_lt {k : Nat} (mem : k ∈ s.entryCores) : k < 8 := bitsOf_lt (List.mem_filter.mp mem).1

theorem State.entryCores_nodup (s : State) : s.entryCores.Nodup := (bitsOf_nodup _ _).filter _

theorem State.entrySkipped_none (whole : ∀ k < 8, nbit (fld (s.seqEntry s.adc.entry) 31 24) k = true → (s.acal k).active = false) :
    s.entrySkipped = [] := by
  refine List.filter_eq_nil_iff.mpr fun k mem => ?_
  have lt := bitsOf_lt mem
  rw [whole k lt ((mem_bitsOf lt _).mp mem)]
  decide

theorem State.entry_free
    (free : ∀ k < 8, nbit (fld (s.seqEntry s.adc.entry) 31 24) k = true → (s.acal k).active = false →
      s.coreBusy k = false ∧ s.boundaryNear k s.clk.now = false ∧ s.injNames k = false) :
    (s.entryCores.any fun c => s.coreBusy c || s.boundaryNear c s.clk.now || s.injNames c) = false := by
  refine List.any_eq_false.mpr fun k mem => ?_
  have lt := State.entryCores_lt mem
  obtain ⟨named, idle⟩ := (s.mem_entryCores lt).mp mem
  obtain ⟨core, near, inj⟩ := free k lt named idle
  simp [core, near, inj]

theorem State.sumsBegun_frame {α : Type} (g : State → α) (h : ∀ (z : State) (k : Nat) (f : Avg → Avg), g (z.modAavg k f) = g z) (s : State)
    (rep run : Nat) : g (s.sumsBegun rep run) = g s :=
  State.iff_frame g s _ _ fun z => State.forAll_frame g z _ _ fun _ _ => h _ _ _

theorem State.passedOver_frame {α : Type} (g : State → α) (h : ∀ (z : State) (k : Nat) (f : Avg → Avg), g (z.modAavg k f) = g z)
    (count : ∀ z : State, g (z.bump .adcErr 0 15 0) = g z) (s : State) (skip : List Nat) (run : Nat) : g (s.passedOver skip run) = g s :=
  State.forAll_frame g s _ _ fun _ z => (h _ _ _).trans (count z)

theorem State.spansBegun_frame {α : Type} (g : State → α) (h : ∀ (z : State) (c : Nat) (l : List Span), g (z.setSpans c l) = g z) (s : State)
    (cores : List Nat) (span : Nat → Span) : g (s.spansBegun cores span) = g s :=
  State.forAll_frame g s _ _ fun _ _ => h _ _ _

theorem State.stepBegun_frame {α : Type} (g : State → α) (h : ∀ (z : State) (k : Nat) (f : Avg → Avg), g (z.modAavg k f) = g z)
    (count : ∀ z : State, g (z.bump .adcErr 0 15 0) = g z) (spans : ∀ (z : State) (c : Nat) (l : List Span), g (z.setSpans c l) = g z)
    (s : State) : g s.stepBegun = g s :=
  (State.spansBegun_frame g spans _ _ _).trans ((State.passedOver_frame g h count _ _ _).trans (State.sumsBegun_frame g h _ _ _))

theorem State.stepBegun_settled (h : s.Settled) : s.stepBegun.Settled := by
  refine State.forAll_settled (State.forAll_settled (State.iff_settled h _ _ fun z h => ?_) _ _ fun c z h => ?_) _ _ fun c z h => ?_
  · exact State.forAll_settled h _ _ fun c z h => State.modAavg_settled h _ _
  · exact State.modAavg_settled (State.bump_settled h _ _ _ _ _ (by decide)) _ _
  · exact State.addSpan_settled h _ _

theorem State.spansBegun_on {cores : List Nat} (once : cores.Nodup) {k : Nat} (mem : k ∈ cores) (s : State) (span : Nat → Span) :
    (s.spansBegun cores span).spansOf k = s.spansOf k ++ [span k] :=
  State.forAll_spansOf (turn := (· ++ [span k])) (fun i _ z ne => z.spansOf_addSpan_ne ne (span i)) (fun z => z.spansOf_addSpan k _) once mem s

theorem State.spansBegun_away {cores : List Nat} {k : Nat} (away : k ∉ cores) (s : State) (span : Nat → Span) :
    (s.spansBegun cores span).spansOf k = s.spansOf k :=
  State.forAll_spansOf_away (fun i _ z ne => z.spansOf_addSpan_ne ne (span i)) away s

/-- Before its spans a step changes the sums only, and counts the cores that it passes over. -/
theorem State.beforeSpans (s : State) (k : Nat) :
    ((s.sumsBegun s.adc.rep s.passRun).passedOver s.entrySkipped s.passRun).spansOf k = s.spansOf k :=
  (State.passedOver_frame (State.spansOf · k) (fun _ _ _ => rfl) (fun _ => rfl) _ _ _).trans
    (State.sumsBegun_frame (State.spansOf · k) (fun _ _ _ => rfl) _ _ _)

theorem State.stepBegun_on {k : Nat} (mem : k ∈ s.entryCores) : s.stepBegun.spansOf k = s.spansOf k ++ [s.stepSpan k] := by
  rw [State.stepBegun, State.spansBegun_on s.entryCores_nodup mem, State.beforeSpans]

theorem State.stepBegun_away {k : Nat} (away : k ∉ s.entryCores) : s.stepBegun.spansOf k = s.spansOf k := by
  rw [State.stepBegun, State.spansBegun_away away, State.beforeSpans]

theorem State.stepBegun_regs (none_ : s.entrySkipped = []) : s.stepBegun.regs = s.regs := by
  rw [State.stepBegun, none_]
  exact (State.spansBegun_frame State.regs (fun _ _ _ => rfl) _ _ _).trans (State.sumsBegun_frame State.regs (fun _ _ _ => rfl) _ _ _)

theorem State.stepBegun_adcCtrl (s : State) : s.stepBegun.rf .adcCtrl 0 8 0 = s.rf .adcCtrl 0 8 0 :=
  State.stepBegun_frame (State.rf · .adcCtrl 0 8 0) (fun _ _ _ => rfl)
    (fun z => congrArg (fld · 8 0) (State.reg_setReg_ne _ _ _ _ _ _ _ _ (by decide))) (fun _ _ _ => rfl) s

section
variable {t : Nat} (e : x = (s.advanceTo t).openGate 4) (rel : x.released = true) (settled : x.Settled)
include e rel settled

theorem sequencerStep_waits (waits : (x.adc.seqOn = false ∧ x.adc.retake = false) ∨ x.clk.now < x.adc.due) :
    exec (.sequencerStep t) s = .next x := by
  refine exec_settled_eq (actIn_settles (exec_sequencerStep t s) e rel) settled (if_pos ?_)
  rcases waits with ⟨off, none_⟩ | early
  · simp [off, none_]
  · simp [Nat.not_le.mpr early]

theorem sequencerStep_steps {a r : Nat} {b : Word} (place : a = x.adc.entry) (word : b = x.seqEntry a)
    (pass : r = x.adc.run + (if x.adc.rep = 0 ∧ x.adc.retake = false then 1 else 0)) (on : x.adc.seqOn = true ∨ x.adc.retake = true)
    (even : x.clk.now % 2 = 0) (due : x.adc.due ≤ x.clk.now) (mode : 1 ≤ x.mode.mode)
    (free : ∀ k < 8, nbit (fld b 31 24) k = true → (x.acal k).active = false →
      x.coreBusy k = false ∧ x.boundaryNear k x.clk.now = false ∧ x.injNames k = false) :
    s.Runs (.sequencerStep t) fun u => u.adc.due = x.clk.now + 500 + 16 * fld b 8 0 ∧ u.adc.retake = false ∧
      u.adc.rep = (if x.adc.rep = fld b 16 9 then 0 else x.adc.rep + 1) ∧
      u.adc.entry = (if x.adc.rep = fld b 16 9 then (if a = x.rf .adcCtrl 0 8 0 then 0 else (a + 1) % 512) else a) ∧
      (∀ k < 8, nbit (fld b 31 24) k = true → (x.acal k).active = false →
        u.spansOf k = x.spansOf k ++ [⟨1, 8 * fld b 23 22 + k, x.clk.now, a, x.adc.rep, r, b, 0⟩]) ∧
      (∀ k < 8, (nbit (fld b 31 24) k = false ∨ (x.acal k).active = true) → u.spansOf k = x.spansOf k) ∧
      ((∀ k < 8, nbit (fld b 31 24) k = true → (x.acal k).active = false) → u.regs = x.regs) ∧ u.mode = x.mode := by
  subst place word
  have same : r = x.passRun := by
    rw [pass, State.passRun, b2n]
    simp
  subst same
  have run := actIn_settles (exec_sequencerStep t s) e rel
  rw [if_neg (by rw [(Bool.or_eq_true ..).mpr on]; simp [even, due, mode]), if_neg (by rw [State.entry_free free]; decide), State.stepBegun_adcCtrl] at run
  refine runs_settled run (State.modAdc_settled (State.stepBegun_settled settled) _) ⟨rfl, rfl, rfl, rfl, ?_, ?_, ?_, ?_⟩
  · exact fun k lt named idle => State.stepBegun_on ((x.mem_entryCores lt).mpr ⟨named, idle⟩)
  · intro k lt out
    refine State.stepBegun_away fun mem => ?_
    obtain ⟨named, idle⟩ := (x.mem_entryCores lt).mp mem
    rcases out with other | busy
    · exact absurd (other.symm.trans named) Bool.false_ne_true
    · exact absurd (idle.symm.trans busy) Bool.false_ne_true
  · exact fun whole => State.stepBegun_regs (State.entrySkipped_none whole)
  · exact State.stepBegun_frame State.mode (fun _ _ _ => rfl) (fun _ => rfl) (fun _ _ _ => rfl) x

end

/-! ### Injection (R293) -/

theorem exec_adcInjStart (t : Nat) (v : Word) (s : State) :
    exec (.adcInjStart t v) s = actIn 4 t s fun s => s.iff (s.up && bit v 0) State.injWrite := rfl

/-- The cores that an injection names. -/
def injCores (sel : Nat) : List Nat := (List.range 8).filter fun c => nbit sel (3 * c + 2)

theorem mem_injCores {sel k : Nat} (lt : k < 8) : k ∈ injCores sel ↔ nbit sel (3 * k + 2) = true := by simp [injCores, lt]

theorem injCores_lt {sel k : Nat} (mem : k ∈ injCores sel) : k < 8 := List.mem_range.mp (List.mem_filter.mp mem).1

/-- The span of an injection on core c. -/
def injSpan (sel now c : Nat) : Span := ⟨3, 8 * (sel / 2 ^ (3 * c) % 4) + c, now, 0, 0, 0, 0, 0⟩

/-- A calibration span in progress on core c gives way to the injection. -/
def State.injTurn (sel now c : Nat) (s : State) : State :=
  (s.setSpans c ((s.spansOf c).filter fun x => !(x.kind = 4 && x.busy now))).addSpan c (injSpan sel now c)

/-- Aborts the step of the sequencer that a span belongs to, if there is one. -/
def State.stepAborted (s : State) (step : Option Span) (due : Nat) : State :=
  match step with
  | some x => s.abortStep x due
  | none => s

theorem exec_injectedSpan (t : Nat) (s : State) : exec (.injectedSpan t) s = actIn 4 t s fun s =>
    match s.adc.inj with
    | none => s
    | some sel =>
      if s.clk.now % 2 = 1 || s.clk.now < s.adc.injAt || (injCores sel).any fun c => s.boundaryNear c s.clk.now ||
          (s.spansOf c).any fun x => x.busy s.clk.now && (x.kind = 2 || x.kind = 3) then s
      else ((s.stepAborted (((injCores sel).flatMap s.spansOf).find? fun x => x.kind = 1 && x.busy s.clk.now) (s.clk.now + 500)).forAll
        (injCores sel) (State.injTurn sel s.clk.now)).modAdc fun a => { a with inj := none } := rfl

section
variable {t : Nat} {v : Word} (e : x = (s.advanceTo t).openGate 4) (rel : x.released = true) (settled : x.Settled)
include e rel settled

theorem adcInjStart_asks (up : x.up = true) (start : bit v 0 = true) (none_ : x.adc.inj = none) (mode : x.mode.mode ≠ 0) :
    exec (.adcInjStart t v) s = .next (x.modAdc fun y =>
      { y with inj := some (x.rf .adcInjSel 0 23 0), injAt := coreCycle x.clk.now + Config.injection }) := by
  refine exec_settled_eq (actIn_settles (exec_adcInjStart t v s) e rel) (State.modAdc_settled settled _) ?_
  rw [State.iff, if_pos (by rw [up, start]; rfl)]
  exact if_neg (by simp [none_, mode])

theorem adcInjStart_ignored (not_ : x.adc.inj.isSome = true ∨ x.mode.mode = 0) : exec (.adcInjStart t v) s = .next x := by
  refine exec_settled_eq (actIn_settles (exec_adcInjStart t v s) e rel) settled ?_
  have same : x.injWrite = x := if_pos (by simpa using not_)
  rw [State.iff, same, ite_self]

end

theorem State.injTurn_frame {α : Type} (g : State → α) (h : ∀ (z : State) (c : Nat) (l : List Span), g (z.setSpans c l) = g z)
    (s : State) (sel now : Nat) (cores : List Nat) : g (s.forAll cores (State.injTurn sel now)) = g s :=
  State.forAll_frame g s _ _ fun _ _ => (h _ _ _).trans (h _ _ _)

theorem State.injTurn_others (sel now i k : Nat) (y : State) (ne : k ≠ i) : (y.injTurn sel now i).spansOf k = y.spansOf k :=
  (State.spansOf_addSpan_ne _ ne _).trans (y.spansOf_setSpans_ne ne _)

theorem State.injTurn_own (sel now k : Nat) (y : State) : (y.injTurn sel now k).spansOf k =
    (y.spansOf k).filter (fun x => !(x.kind = 4 && x.busy now)) ++ [injSpan sel now k] := by
  rw [State.injTurn, State.spansOf_addSpan, State.spansOf_setSpans]

theorem State.abortStep_frame {α : Type} (g : State → α) (h : ∀ (z : State) (f : Adc → Adc), g (z.modAdc f) = g z) (s : State) (y : Span)
    (due : Nat) : g (s.abortStep y due) = g s := by
  unfold State.abortStep
  exact (h _ _).trans (State.forAll_frame g s _ _ fun _ _ => h _ _)

theorem State.injected_settled (h : s.Settled) (step : Option Span) (due sel now : Nat) :
    ((s.stepAborted step due).forAll (injCores sel) (State.injTurn sel now)).Settled := by
  refine State.forAll_settled ?_ _ _ fun c z h => State.addSpan_settled (State.setSpans_settled h _ _) _ _
  cases step with
  | none => exact h
  | some y => exact State.modAdc_settled (State.forAll_settled h _ _ fun c z h => State.setSpans_settled h _ _) _

section
variable {t sel : Nat} (e : x = (s.advanceTo t).openGate 4) (rel : x.released = true) (settled : x.Settled)
  (asked : x.adc.inj = some sel) (late : x.adc.injAt ≤ x.clk.now) (even : x.clk.now % 2 = 0)
  (free : ∀ k < 8, nbit sel (3 * k + 2) = true → x.boundaryNear k x.clk.now = false ∧
    ∀ y ∈ x.spansOf k, y.busy x.clk.now = true → y.kind ≠ 2 ∧ y.kind ≠ 3)
include e rel asked late even free

theorem injectedSpan_acts : exec (.injectedSpan t) s = .next
    (((x.stepAborted (((injCores sel).flatMap x.spansOf).find? fun y => y.kind = 1 && y.busy x.clk.now) (x.clk.now + 500)).forAll
      (injCores sel) (State.injTurn sel x.clk.now)).modAdc fun a => { a with inj := none }).settle := by
  have run := actIn_settles (exec_injectedSpan t s) e rel
  have open_ : ((injCores sel).any fun c => x.boundaryNear c x.clk.now ||
      (x.spansOf c).any fun y => y.busy x.clk.now && (y.kind = 2 || y.kind = 3)) = false := by
    refine List.any_eq_false.mpr fun k mem => ?_
    have lt := injCores_lt mem
    obtain ⟨near, clear⟩ := free k lt ((mem_injCores lt).mp mem)
    simpa [near] using clear
  rw [asked] at run
  dsimp only at run
  rwa [if_neg (by rw [open_]; simp [even, late])] at run

include settled

theorem injectedSpan_takes (clear : ∀ k < 8, nbit sel (3 * k + 2) = true → ∀ y ∈ x.spansOf k, y.busy x.clk.now = true → y.kind ≠ 1) :
    s.Runs (.injectedSpan t) fun u => u.adc.inj = none ∧ u.adc.entry = x.adc.entry ∧ u.adc.due = x.adc.due ∧ u.regs = x.regs ∧
      u.mode = x.mode ∧
      (∀ k < 8, nbit sel (3 * k + 2) = true → u.spansOf k = (x.spansOf k).filter (fun y => !(y.kind = 4 && y.busy x.clk.now)) ++
        [⟨3, 8 * (sel / 2 ^ (3 * k) % 4) + k, x.clk.now, 0, 0, 0, 0, 0⟩]) ∧
      (∀ k < 8, nbit sel (3 * k + 2) = false → u.spansOf k = x.spansOf k) := by
  have run := injectedSpan_acts e rel asked late even free
  have idle : ((injCores sel).flatMap x.spansOf).find? (fun y => y.kind = 1 && y.busy x.clk.now) = none := by
    refine List.find?_eq_none.mpr fun y mem => ?_
    obtain ⟨k, core, span⟩ := List.mem_flatMap.mp mem
    have lt := injCores_lt core
    simpa using fun kind busy => clear k lt ((mem_injCores lt).mp core) y span busy kind
  have calm := State.injected_settled settled none (x.clk.now + 500) sel x.clk.now
  rw [idle] at run
  refine runs_settled run (State.modAdc_settled calm _) ⟨rfl, ?_, ?_, ?_, ?_, fun k lt named => ?_, fun k lt other => ?_⟩
  · exact State.injTurn_frame (fun z => z.adc.entry) (fun _ _ _ => rfl) x sel _ _
  · exact State.injTurn_frame (fun z => z.adc.due) (fun _ _ _ => rfl) x sel _ _
  · exact State.injTurn_frame State.regs (fun _ _ _ => rfl) x sel _ _
  · exact State.injTurn_frame State.mode (fun _ _ _ => rfl) x sel _ _
  · exact State.forAll_spansOf (State.injTurn_others sel _) (turn := fun l => l.filter _ ++ [injSpan sel _ k]) (State.injTurn_own sel _ k)
      (List.nodup_range.filter _) ((mem_injCores lt).mpr named) x
  · exact State.forAll_spansOf_away (State.injTurn_others sel _) (fun mem => by simp [(mem_injCores lt).mp mem] at other) x

theorem injectedSpan_aborts {y : Span}
    (found : (((List.range 8).filter fun k => nbit sel (3 * k + 2)).flatMap x.spansOf).find? (fun y => y.kind = 1 && y.busy x.clk.now) = some y) :
    s.Runs (.injectedSpan t) fun u => u.adc.inj = none ∧ u.adc.retake = true ∧ u.adc.entry = y.entry ∧ u.adc.rep = y.rep ∧
      u.adc.due = x.clk.now + 500 ∧ u.regs = x.regs ∧ u.mode = x.mode := by
  have run := injectedSpan_acts e rel asked late even free
  have calm := State.injected_settled settled (some y) (x.clk.now + 500) sel x.clk.now
  rw [injCores, found, ← injCores] at run
  refine runs_settled run (State.modAdc_settled calm _) ⟨rfl, ?_, ?_, ?_, ?_, ?_, ?_⟩
  · exact State.injTurn_frame (fun z => z.adc.retake) (fun _ _ _ => rfl) (x.abortStep y _) sel _ _
  · exact State.injTurn_frame (fun z => z.adc.entry) (fun _ _ _ => rfl) (x.abortStep y _) sel _ _
  · exact State.injTurn_frame (fun z => z.adc.rep) (fun _ _ _ => rfl) (x.abortStep y _) sel _ _
  · exact State.injTurn_frame (fun z => z.adc.due) (fun _ _ _ => rfl) (x.abortStep y _) sel _ _
  · exact (State.injTurn_frame State.regs (fun _ _ _ => rfl) _ sel _ _).trans (State.abortStep_frame State.regs (fun _ _ => rfl) x y _)
  · exact (State.injTurn_frame State.mode (fun _ _ _ => rfl) _ sel _ _).trans (State.abortStep_frame State.mode (fun _ _ => rfl) x y _)

end

/-- Settles O45. -/
theorem analogSpans : Obligations.AnalogSpans := by
  intro s x t c g v e released settled
  have rel := State.released_gated e released
  refine ⟨?_, ?_, sequencerStep_waits e rel settled, adcSeqStart_starts e rel settled, adcSeqStop_stops e rel settled,
    adcInjStart_asks e rel settled, fun _ => adcInjStart_ignored e rel settled, ?_⟩
  · exact fun k j tied input lt on near runs mode fresh => boundarySpan_starts e rel settled tied input lt on near runs mode fresh
  · exact fun a b r place word pass on even due mode free => sequencerStep_steps e rel settled place word pass on even due mode free
  · exact fun sel asked late even free => ⟨injectedSpan_takes e rel settled asked late even free,
      fun y found => injectedSpan_aborts e rel settled asked late even free found⟩

end Sys2Proof.Machine
end
